-- ==== Sys2Proof/Word.lean ====
section
/-! DEFINITION. Word.lean: the machine's word and byte types (00 R9, 05 R94). -/
namespace Sys2Proof

/-- A scalar register, an address while it is computed, a system register (05 R94, R108). -/
abbrev Word := BitVec 64

/-- The smallest addressable unit of every memory (00 R9). -/
abbrev Byte := BitVec 8

end Sys2Proof
end

