-- ==== Sys2Proof/Syntax.lean ====
section
/-! DEFINITION. Syntax.lean: the instructions and events of the Critas CX40, one constructor per row of
spec/opcode_table.json. Operand positions have the kinds of 13 R222, each a type of its own, so that a code outside its kind
cannot be written. -/
namespace Sys2Proof

/-- Kind X, scalar register only (13 R222): 0 to 15 name g0 to g15 and 16 to 31 name l0 to l15. -/
abbrev XReg := Fin 32
/-- g0 to g15 only (FLUE's S1, 16 R264). -/
abbrev GReg := Fin 16
/-- Kind V-reg: v0 to v15 only (18 R306). -/
abbrev VReg := Fin 16
/-- Kind P: p0 to p15 (13 R222). -/
abbrev PReg := Fin 16
/-- A lane mask m0 to m3 (13 R219). -/
abbrev MReg := Fin 4

/-- Kind S (13 R222): a scalar register or the ring slot q`n`.`k`, `k` = 0 or 1. -/
inductive SOpd where
  | r (i : XReg)
  | q (n : Fin 8) (k : Fin 2)
  deriving DecidableEq, Repr

/-- Kind V (13 R222): a vector register or the ring slot q`n`.`k`. -/
inductive VOpd where
  | v (i : VReg)
  | q (n : Fin 8) (k : Fin 2)
  deriving DecidableEq, Repr

/-- The scopes of 00 R1, by encoding 0 to 6. -/
inductive Scope where
  | core | quad | cluster | die | pkg | pod | sys
  deriving DecidableEq, Repr

/-- Every element format of 01 R12 and R17 that a type code names. -/
inductive Fmt where
  | f64 | f32 | f16 | bf16 | e4 | e5 | f4
  | i64 | i32 | i16 | i8 | ui32 | ui8 | ts8
  deriving DecidableEq, Repr

/-- The floating formats that arithmetic accepts (01 R16). -/
inductive AFmt where
  | f64 | f32 | f16 | bf16
  deriving DecidableEq, Repr

/-- Every floating type code of 01 R12. -/
inductive FFmt where
  | f64 | f32 | f16 | bf16 | e4 | e5 | f4
  deriving DecidableEq, Repr

/-- Every integer type code of 01 R17. -/
inductive IFmt where
  | i64 | i32 | i16 | i8 | ui32 | ui8 | ts8
  deriving DecidableEq, Repr

/-- The integer formats of vector arithmetic (18 R310), also the codes of class W (13 R219). -/
inductive VFmt where
  | i64 | i32 | i16 | i8 | ui32 | ui8
  deriving DecidableEq, Repr

/-- Floating source formats of VDOT (18 R320). -/
inductive DFmt where
  | f32 | f16 | bf16
  deriving DecidableEq, Repr

/-- Integer source formats of VDOT (18 R320). -/
inductive DIFmt where
  | i16 | i8 | ui8
  deriving DecidableEq, Repr

/-- The RND field (01 R27, 13 R220). -/
inductive Rnd where
  | status | rne | rtz | sr
  deriving DecidableEq, Repr

/-- VRED's OP (18 R319). -/
inductive ROp where
  | sum | min | max | mean
  deriving DecidableEq, Repr

/-- VCVT's B field (18 R318): the part and the source format. -/
structure PSrc where
  part : Fin 4
  fmt : Fmt
  deriving DecidableEq, Repr

/-- What firmware declares when it starts a thread outside the work queues (02 R44, 11 R195; the environments of 23 R369
and 26 R375): where it runs, its tenant, mode, group, segments, windows, and the local-store and cluster-scratchpad bytes it
holds. -/
structure FwStart where
  tid : Nat
  pc : Word
  tvec : Word
  tenant : Nat
  sup : Bool
  grp : Nat
  segs : List (Word × Word)
  wbase : Word
  wlim : Word
  lsBase : Nat
  lsLen : Nat
  cspOff : Nat
  cspLen : Nat
  deriving DecidableEq, Repr

/-- What stands in flash beside a firmware image (28 R392): the signing key, the signature over the image's digest, and its security
version. -/
structure Firmware where
  key : List (BitVec 8)
  sig : List (BitVec 8)
  version : BitVec 16
  deriving DecidableEq, Repr

/-- The steps from device reset to SERVICE (28 R392, R393): the ROM checks and measures an image, firmware extends a measurement register
with a digest, and firmware enters SERVICE. The bytes of the image or of the digest stand beside the step. -/
inductive BootStep where
  | rom (f : Firmware)
  | measure (k : Fin 8)
  | service
  deriving DecidableEq, Repr

/-- What a monitor's report says beside the hearth's temperature and voltage (28 R389, R390): its oscillator count, and of the package's
supply PIN's input voltage, current and power, and the predicted input. -/
structure Readings where
  osc : BitVec 16
  vin : BitVec 16
  current : BitVec 16
  power : BitVec 16
  pred : BitVec 16
  deriving DecidableEq, Repr

/-- One constructor per row of spec/opcode_table.json: 272 instructions and 90 events. `g` is GUARD (13 R224), `imm` the
12-bit immediate of a C-I word (13 R218), `off` the pair offset of a C-B word (13 R217), `m` the lane mask and `r` the
rounding override of an A-slot word (13 R219). -/
inductive Instr where
  -- C-slot instructions (13 R227)
  /-- CNOP, R304: C-slot no-operation; a guarded CNOP guards an A-slot instruction alone. -/
  | cnop (g : Fin 8)
  /-- BR, R300: Always transfers to the pair at PC + 8 × OFF. -/
  | br (off : BitVec 19)
  /-- BRP, R300: Transfers when predicate p[PRED] equals SENSE; BRP.N branches when it is false. -/
  | brp (p : PReg) (sense : Bool) (off : BitVec 19)
  /-- CALL, R302: Waits for pending local deliveries, rotates to a fresh window, writes the link to g15 and transfers. -/
  | call (off : BitVec 19)
  /-- LOOP, R301: Decrements a nonzero g counter and branches while it stays nonzero. -/
  | loop (c : PReg) (off : BitVec 19)
  /-- CALLI, R302: Indirect call through a register, rotating the window and writing the link. -/
  | calli (s : XReg) (g : Fin 8)
  /-- RET, R302: Returns to the address in a register, rotating back to the caller's window. -/
  | ret (s : XReg) (g : Fin 8)
  /-- JMPI, R302: Jumps to the address in a register without touching the window. -/
  | jmpi (s : XReg) (g : Fin 8)
  /-- EXIT, R303: Ends the thread once the pair has taken effect; the thread stops being live. -/
  | exit (g : Fin 8)
  /-- TRAP, R350: Takes cause 0x0E with EPC at the following pair and TVAL the immediate; the A slot takes effect. -/
  | trap (imm : BitVec 12)
  /-- BRK, R350: Takes cause 0x0D with no effect in either slot, or stops the thread when BRKSTOP is set for its group. -/
  | brk (imm : BitVec 12)
  /-- ERET, R349: Restores SUP from PSUP, discards the fetch buffer and continues at EPC. -/
  | eret (g : Fin 8)
  /-- IFENCE, R351: Waits for earlier stores to enter the store buffer, then discards the fetch buffer. -/
  | ifence (g : Fin 8)
  /-- PFENCE, R258: Does not issue until every earlier put of the thread, PUTR included, is acknowledged. -/
  | pfence (g : Fin 8)
  /-- FENCE, R257: Release and acquire at the named scope; does not issue until the waits of R152 and R153 complete. -/
  | fence (sc : Scope) (g : Fin 8)
  /-- ADD, R287: Scalar 64-bit addition. -/
  | add (d : SOpd) (a : SOpd) (b : SOpd) (g : Fin 8)
  /-- SUB, R287: Scalar 64-bit subtraction. -/
  | sub (d : SOpd) (a : SOpd) (b : SOpd) (g : Fin 8)
  /-- AND, R287: Scalar bitwise AND. -/
  | andC (d : SOpd) (a : SOpd) (b : SOpd) (g : Fin 8)
  /-- OR, R287: Scalar bitwise OR. -/
  | orC (d : SOpd) (a : SOpd) (b : SOpd) (g : Fin 8)
  /-- XOR, R287: Scalar bitwise XOR. -/
  | xorC (d : SOpd) (a : SOpd) (b : SOpd) (g : Fin 8)
  /-- ANDN, R287: Scalar s1 AND NOT s2. -/
  | andn (d : SOpd) (a : SOpd) (b : SOpd) (g : Fin 8)
  /-- MUL, R287: Low 64 bits of the product. -/
  | mul (d : SOpd) (a : SOpd) (b : SOpd) (g : Fin 8)
  /-- MULHS, R287: High 64 bits of the signed 128-bit product. -/
  | mulhs (d : SOpd) (a : SOpd) (b : SOpd) (g : Fin 8)
  /-- MULHU, R287: High 64 bits of the unsigned 128-bit product. -/
  | mulhu (d : SOpd) (a : SOpd) (b : SOpd) (g : Fin 8)
  /-- DIVS, R289: Signed division toward zero; a zero divisor traps with cause 0x07. -/
  | divs (d : SOpd) (a : SOpd) (b : SOpd) (g : Fin 8)
  /-- DIVU, R289: Unsigned division; a zero divisor traps with cause 0x07. -/
  | divu (d : SOpd) (a : SOpd) (b : SOpd) (g : Fin 8)
  /-- REMS, R289: Signed remainder with the sign of the dividend. -/
  | rems (d : SOpd) (a : SOpd) (b : SOpd) (g : Fin 8)
  /-- REMU, R289: Unsigned remainder. -/
  | remu (d : SOpd) (a : SOpd) (b : SOpd) (g : Fin 8)
  /-- SHL, R287: Shift left by s2[5:0]. -/
  | shl (d : SOpd) (a : SOpd) (b : SOpd) (g : Fin 8)
  /-- SHR, R287: Logical shift right by s2[5:0]. -/
  | shr (d : SOpd) (a : SOpd) (b : SOpd) (g : Fin 8)
  /-- SHA, R287: Arithmetic shift right by s2[5:0]. -/
  | sha (d : SOpd) (a : SOpd) (b : SOpd) (g : Fin 8)
  /-- ROTR, R287: Rotate right by s2[5:0]. -/
  | rotr (d : SOpd) (a : SOpd) (b : SOpd) (g : Fin 8)
  /-- MINS, R287: Signed minimum. -/
  | mins (d : SOpd) (a : SOpd) (b : SOpd) (g : Fin 8)
  /-- MAXS, R287: Signed maximum. -/
  | maxs (d : SOpd) (a : SOpd) (b : SOpd) (g : Fin 8)
  /-- MINU, R287: Unsigned minimum. -/
  | minu (d : SOpd) (a : SOpd) (b : SOpd) (g : Fin 8)
  /-- MAXU, R287: Unsigned maximum. -/
  | maxu (d : SOpd) (a : SOpd) (b : SOpd) (g : Fin 8)
  /-- CLZ, R287: Count leading zeros, 64 for 0. -/
  | clz (d : SOpd) (a : SOpd) (g : Fin 8)
  /-- CTZ, R287: Count trailing zeros, 64 for 0. -/
  | ctz (d : SOpd) (a : SOpd) (g : Fin 8)
  /-- POPC, R287: Count set bits. -/
  | popc (d : SOpd) (a : SOpd) (g : Fin 8)
  /-- BREV, R287: Reverse bit order. -/
  | brev (d : SOpd) (a : SOpd) (g : Fin 8)
  /-- SEXT.B, R287: Sign-extend bits [7:0]. -/
  | sextB (d : SOpd) (a : SOpd) (g : Fin 8)
  /-- SEXT.H, R287: Sign-extend bits [15:0]. -/
  | sextH (d : SOpd) (a : SOpd) (g : Fin 8)
  /-- SEXT.W, R287: Sign-extend bits [31:0]. -/
  | sextW (d : SOpd) (a : SOpd) (g : Fin 8)
  /-- ZEXT.B, R287: Zero-extend bits [7:0]. -/
  | zextB (d : SOpd) (a : SOpd) (g : Fin 8)
  /-- ZEXT.H, R287: Zero-extend bits [15:0]. -/
  | zextH (d : SOpd) (a : SOpd) (g : Fin 8)
  /-- ZEXT.W, R287: Zero-extend bits [31:0]. -/
  | zextW (d : SOpd) (a : SOpd) (g : Fin 8)
  /-- MOV, R287: Copies a scalar operand. -/
  | mov (d : SOpd) (a : SOpd) (g : Fin 8)
  /-- SEL, R287: Selects s1 or s2 by predicate pF. -/
  | sel (d : SOpd) (a : SOpd) (b : SOpd) (p : Fin 8) (g : Fin 8)
  /-- LEA, R287: Computes s1 + (s2 << k). -/
  | lea (d : SOpd) (a : SOpd) (b : SOpd) (k : Fin 4) (g : Fin 8)
  /-- CMP.EQ, R291: Writes equality of s1 and s2 to a predicate. -/
  | cmpEq (d : PReg) (a : SOpd) (b : SOpd) (g : Fin 8)
  /-- CMP.NE, R291: Writes inequality to a predicate. -/
  | cmpNe (d : PReg) (a : SOpd) (b : SOpd) (g : Fin 8)
  /-- CMP.LT, R291: Writes signed less-than to a predicate. -/
  | cmpLt (d : PReg) (a : SOpd) (b : SOpd) (g : Fin 8)
  /-- CMP.GE, R291: Writes signed greater-or-equal to a predicate. -/
  | cmpGe (d : PReg) (a : SOpd) (b : SOpd) (g : Fin 8)
  /-- CMP.LTU, R291: Writes unsigned less-than to a predicate. -/
  | cmpLtu (d : PReg) (a : SOpd) (b : SOpd) (g : Fin 8)
  /-- CMP.GEU, R291: Writes unsigned greater-or-equal to a predicate. -/
  | cmpGeu (d : PReg) (a : SOpd) (b : SOpd) (g : Fin 8)
  /-- BEXT, R290: Extracts a bit field of s1 zero-extended. -/
  | bext (d : SOpd) (a : SOpd) (b : SOpd) (g : Fin 8)
  /-- BEXT.S, R290: Extracts a bit field of s1 sign-extended. -/
  | bextS (d : SOpd) (a : SOpd) (b : SOpd) (g : Fin 8)
  /-- BINS, R290: Inserts the low bits of s1 into a field of d. -/
  | bins (d : SOpd) (a : SOpd) (b : SOpd) (g : Fin 8)
  /-- TREMIT, R355: Writes a 3-word EMIT trace record while the emit FIFO is enabled. -/
  | tremit (s : SOpd) (g : Fin 8)
  /-- RPUSH, R356: Pushes a label on the range stack, writing RANGE-IN when capture passes. -/
  | rpush (s : SOpd) (g : Fin 8)
  /-- RPOP, R356: Pops a label from the range stack, writing RANGE-OUT when capture passes. -/
  | rpop (d : XReg) (g : Fin 8)
  /-- CTXS, R354: Requests pre-emption of a group into a save area and writes a status. -/
  | ctxs (d : XReg) (a : XReg) (b : XReg) (g : Fin 8)
  /-- CTXS.RESUME, R354: Requests resume of a saved group from its save area and writes a status. -/
  | ctxsResume (d : XReg) (a : XReg) (b : XReg) (g : Fin 8)
  /-- CTXS.SIZE, R354: Writes the save-area size that a group needs. -/
  | ctxsSize (d : XReg) (a : XReg) (g : Fin 8)
  /-- ADDI, R287: Adds a sign-extended immediate. -/
  | addi (d : SOpd) (a : SOpd) (imm : BitVec 12)
  /-- ANDI, R287: Bitwise AND with a zero-extended immediate. -/
  | andi (d : SOpd) (a : SOpd) (imm : BitVec 12)
  /-- ORI, R287: Bitwise OR with a zero-extended immediate. -/
  | ori (d : SOpd) (a : SOpd) (imm : BitVec 12)
  /-- XORI, R287: Bitwise XOR with a zero-extended immediate. -/
  | xori (d : SOpd) (a : SOpd) (imm : BitVec 12)
  /-- SHLI, R287: Shift left by an immediate count. -/
  | shli (d : SOpd) (a : SOpd) (n : Fin 64)
  /-- SHRI, R287: Logical shift right by an immediate count. -/
  | shri (d : SOpd) (a : SOpd) (n : Fin 64)
  /-- SHAI, R287: Arithmetic shift right by an immediate count. -/
  | shai (d : SOpd) (a : SOpd) (n : Fin 64)
  /-- MOVI, R287: Writes a sign-extended 12-bit immediate. -/
  | movi (d : SOpd) (imm : BitVec 12)
  /-- CMPI.EQ, R291: Compares with an immediate for equality into a predicate. -/
  | cmpiEq (d : PReg) (a : SOpd) (imm : BitVec 12)
  /-- CMPI.NE, R291: Compares with an immediate for inequality into a predicate. -/
  | cmpiNe (d : PReg) (a : SOpd) (imm : BitVec 12)
  /-- CMPI.LT, R291: Signed less-than against an immediate into a predicate. -/
  | cmpiLt (d : PReg) (a : SOpd) (imm : BitVec 12)
  /-- CMPI.GE, R291: Signed greater-or-equal against an immediate into a predicate. -/
  | cmpiGe (d : PReg) (a : SOpd) (imm : BitVec 12)
  /-- CMPI.LTU, R291: Unsigned less-than against a sign-extended immediate into a predicate. -/
  | cmpiLtu (d : PReg) (a : SOpd) (imm : BitVec 12)
  /-- CMPI.GEU, R291: Unsigned greater-or-equal against a sign-extended immediate into a predicate. -/
  | cmpiGeu (d : PReg) (a : SOpd) (imm : BitVec 12)
  /-- LD.B.Z, R249: Far load of one byte, zero-extended. -/
  | ldBZ (d : XReg) (b : XReg) (imm : BitVec 12)
  /-- LD.B.S, R249: Far load of one byte, sign-extended. -/
  | ldBS (d : XReg) (b : XReg) (imm : BitVec 12)
  /-- LD.H.Z, R249: Far load of 2 bytes, zero-extended. -/
  | ldHZ (d : XReg) (b : XReg) (imm : BitVec 12)
  /-- LD.H.S, R249: Far load of 2 bytes, sign-extended. -/
  | ldHS (d : XReg) (b : XReg) (imm : BitVec 12)
  /-- LD.W.Z, R249: Far load of 4 bytes, zero-extended. -/
  | ldWZ (d : XReg) (b : XReg) (imm : BitVec 12)
  /-- LD.W.S, R249: Far load of 4 bytes, sign-extended. -/
  | ldWS (d : XReg) (b : XReg) (imm : BitVec 12)
  /-- LD.D, R249: Far load of 8 bytes. -/
  | ldD (d : XReg) (b : XReg) (imm : BitVec 12)
  /-- LD.ACQ, R249: Far 8-byte acquire load at POD scope. -/
  | ldAcq (d : XReg) (b : XReg) (imm : BitVec 12)
  /-- ST.B, R249: Far store of one byte into the store buffer. -/
  | stB (v : SOpd) (b : XReg) (imm : BitVec 12)
  /-- ST.H, R249: Far store of 2 bytes. -/
  | stH (v : SOpd) (b : XReg) (imm : BitVec 12)
  /-- ST.W, R249: Far store of 4 bytes. -/
  | stW (v : SOpd) (b : XReg) (imm : BitVec 12)
  /-- ST.D, R249: Far store of 8 bytes. -/
  | stD (v : SOpd) (b : XReg) (imm : BitVec 12)
  /-- ST.REL, R249: Far 8-byte release store at POD scope. -/
  | stRel (v : SOpd) (b : XReg) (imm : BitVec 12)
  /-- LDV, R249: Far 64-byte load into a v register. -/
  | ldv (d : VReg) (b : XReg) (imm : BitVec 12)
  /-- STV, R249: Far 64-byte store of a v register. -/
  | stv (v : VOpd) (b : XReg) (imm : BitVec 12)
  /-- AADD, R252: Far atomic add returning the old value. -/
  | aadd (d : XReg) (b : XReg) (v : SOpd) (z : Fin 2) (g : Fin 8)
  /-- AFADD, R253: Far atomic floating add at the home returning the old value. -/
  | afadd (d : XReg) (b : XReg) (v : SOpd) (z : Fin 2) (g : Fin 8)
  /-- AMIN, R252: Far atomic minimum, signed or unsigned. -/
  | amin (d : XReg) (b : XReg) (v : SOpd) (z : Fin 4) (g : Fin 8)
  /-- AMAX, R252: Far atomic maximum, signed or unsigned. -/
  | amax (d : XReg) (b : XReg) (v : SOpd) (z : Fin 4) (g : Fin 8)
  /-- AAND, R252: Far atomic AND. -/
  | aand (d : XReg) (b : XReg) (v : SOpd) (z : Fin 2) (g : Fin 8)
  /-- AOR, R252: Far atomic OR. -/
  | aor (d : XReg) (b : XReg) (v : SOpd) (z : Fin 2) (g : Fin 8)
  /-- AXOR, R252: Far atomic XOR. -/
  | axor (d : XReg) (b : XReg) (v : SOpd) (z : Fin 2) (g : Fin 8)
  /-- AXCHG, R252: Far atomic exchange. -/
  | axchg (d : XReg) (b : XReg) (v : SOpd) (z : Fin 2) (g : Fin 8)
  /-- ACAS, R252: Far atomic compare-and-swap, returning the old value in c. -/
  | acas (d : XReg) (b : XReg) (v : SOpd) (z : Fin 2) (g : Fin 8)
  /-- LOCK, R255: Takes a lock word or joins its die's wait queue and parks; acquire at POD scope. -/
  | lock (b : XReg) (g : Fin 8)
  /-- LOCK.STATUS, R255: LOCK that writes its status into D. -/
  | lockStatus (d : XReg) (b : XReg) (g : Fin 8)
  /-- UNLOCK, R256: Releases a held lock or hands it to a head waiter in one write; release at POD scope. -/
  | unlock (b : XReg) (g : Fin 8)
  /-- UNLOCK.STATUS, R256: UNLOCK that writes its status into D. -/
  | unlockStatus (d : XReg) (b : XReg) (g : Fin 8)
  /-- NADD, R263: Near atomic 64-bit add at the word's owner. -/
  | nadd (d : XReg) (b : XReg) (v : SOpd) (g : Fin 8)
  /-- NCAS, R263: Near atomic compare-and-swap at the word's owner. -/
  | ncas (d : XReg) (b : XReg) (v : SOpd) (g : Fin 8)
  /-- MZERO.FLT, R122: Queues a command that zeroes the tile as float and takes ownership. -/
  | mzeroFlt (t : XReg) (g : Fin 8)
  /-- MZERO.INT, R122: Queues a command that zeroes the tile as integer and takes ownership. -/
  | mzeroInt (t : XReg) (g : Fin 8)
  /-- MSTAT, R332: Queues a command that reads the tile state into the token. -/
  | mstat (t : XReg) (g : Fin 8)
  /-- MHINT, R128: Announces a matrix burst L cycles ahead so the unit ramps up in time. -/
  | mhint (imm : BitVec 12)
  /-- LDN.W, R260: Near load of 4 bytes, zero-extended. -/
  | ldnW (d : XReg) (b : XReg) (imm : BitVec 12)
  /-- LDN.D, R260: Near load of 8 bytes. -/
  | ldnD (d : XReg) (b : XReg) (imm : BitVec 12)
  /-- STN.W, R260: Near store of 4 bytes, a put through a core window. -/
  | stnW (v : SOpd) (b : XReg) (imm : BitVec 12)
  /-- STN.D, R260: Near store of 8 bytes, a put through a core window. -/
  | stnD (v : SOpd) (b : XReg) (imm : BitVec 12)
  /-- VLDN, R260: Near 64-byte load into a v register. -/
  | vldn (d : VReg) (b : XReg) (imm : BitVec 12)
  /-- VSTN, R260: Near 64-byte store, a put through a core window. -/
  | vstn (v : VOpd) (b : XReg) (imm : BitVec 12)
  /-- LDF, R261: Clears the destination's presence and sends a load-when-full request to the word's owner. -/
  | ldf (d : XReg) (b : XReg) (imm : BitVec 12)
  /-- LDFE, R261: Load-when-full that leaves the word empty. -/
  | ldfe (d : XReg) (b : XReg) (imm : BitVec 12)
  /-- STE, R261: Store-when-empty that sets full; the thread leaves the rotation until it proceeds. -/
  | ste (v : SOpd) (b : XReg) (imm : BitVec 12)
  /-- STF, R261: Store that sets the word full and clears its claim; release at DIE scope. -/
  | stf (v : SOpd) (b : XReg) (imm : BitVec 12)
  /-- FECLR, R261: Sets a word empty, data unchanged. -/
  | feclr (b : XReg) (imm : BitVec 12)
  /-- FESET, R261: Sets a word full and clears its claim, data unchanged. -/
  | feset (b : XReg) (imm : BitVec 12)
  /-- FEQ, R261: Reads the word's full, queue and claim state. -/
  | feq (d : XReg) (b : XReg) (imm : BitVec 12)
  /-- CLAIM, R262: Records the issuing group on an empty word so waiters have an edge. -/
  | claim (b : XReg) (imm : BitVec 12)
  /-- FLUE, R270: Checks a 32-byte request block and places it in the lowest empty flue mailbox, parking while all are full. -/
  | flue (s : GReg) (g : Fin 8)
  /-- SEND, R274: Queues an untyped two-word message in the send buffer. -/
  | send (a : SOpd) (t : XReg) (b : SOpd) (g : Fin 8)
  /-- SEND.T, R274: Queues a typed two-word message in the send buffer. -/
  | sendT (a : SOpd) (t : XReg) (b : SOpd) (g : Fin 8)
  /-- RECV, R275: Delivers two words of the thread's oldest message, dequeuing it unless KEEP. -/
  | recv (d : XReg) (e : XReg) (f : Fin 8) (g : Fin 8)
  /-- RECVS, R275: Receives the oldest message of a named sender and SEQ, parking until one arrives. -/
  | recvs (d : XReg) (s : XReg) (e : XReg) (f : Fin 8) (g : Fin 8)
  /-- WAITM, R275: Receives the oldest message of a tag, parking until one arrives. -/
  | waitm (d : XReg) (s : XReg) (e : XReg) (f : Fin 8) (g : Fin 8)
  /-- PUTR, R276: Sends a value to a register of another thread as a put. -/
  | putr (idx : XReg) (t : XReg) (v : SOpd) (g : Fin 8)
  /-- PCLR, R277: Clears a register's presence bit, leaving its value. -/
  | pclr (d : XReg) (g : Fin 8)
  /-- PTST, R277: Reads presence, busy and pending state of a register without waiting. -/
  | ptst (d : XReg) (s : XReg) (g : Fin 8)
  /-- QUNBIND, R280: Unbinds a ring handle. -/
  | qunbind (q : Fin 8) (g : Fin 8)
  /-- QPOP, R281: Advances HEAD by k slots and returns free slots to the producer. -/
  | qpop (k : Fin 8) (q : Fin 8) (g : Fin 8)
  /-- QPUSH, R281: Commits k slots, advancing TAIL, or sends staged OUT slots to the consumer. -/
  | qpush (k : Fin 8) (q : Fin 8) (g : Fin 8)
  /-- QSTAT, R282: Writes a ring handle's state without waiting. -/
  | qstat (d : XReg) (q : Fin 8) (g : Fin 8)
  /-- QFWD, R135: Moves the head slot of q0 to the tail of q1 with its mark, TX and typed bits. -/
  | qfwd (g : Fin 8)
  /-- QSEAM, R136: Commits, passes on or fails the SPLICE record at the head of q0 and writes a status. -/
  | qseam (d : XReg) (g : Fin 8)
  /-- QINHERIT, R283: Declares or removes the stage-state area. -/
  | qinherit (b : XReg) (n : XReg) (g : Fin 8)
  /-- MARKRET, R134: Clears mark-active and reissues the pair at MARKPC. -/
  | markret (g : Fin 8)
  /-- PAND, R293: AND of two predicates. -/
  | pand (d : PReg) (a : PReg) (b : PReg) (g : Fin 8)
  /-- POR, R293: OR of two predicates. -/
  | por (d : PReg) (a : PReg) (b : PReg) (g : Fin 8)
  /-- PXOR, R293: XOR of two predicates. -/
  | pxor (d : PReg) (a : PReg) (b : PReg) (g : Fin 8)
  /-- PNOT, R293: Inverse of a predicate. -/
  | pnot (d : PReg) (a : PReg) (g : Fin 8)
  /-- PMOV, R293: Copies a predicate. -/
  | pmov (d : PReg) (a : PReg) (g : Fin 8)
  /-- BAR, R339: Arrives at a barrier context and waits on its own ticket. -/
  | bar (b : Fin 16) (sc : Scope) (g : Fin 8)
  /-- BARA, R339: Arrives at a barrier context and writes its ticket without waiting. -/
  | bara (d : XReg) (b : Fin 16) (sc : Scope) (g : Fin 8)
  /-- BARW, R339: Parks until a barrier ticket is released. -/
  | barw (s : XReg) (b : Fin 16) (sc : Scope) (g : Fin 8)
  /-- EMB, R341: Reads the thread's own and held ember shares at one instant. -/
  | emb (d : XReg) (g : Fin 8)
  /-- EMB.HEARTH, R341: Reads the hearth sum, operating point, target and CEIL. -/
  | embHearth (d : XReg) (g : Fin 8)
  /-- GANG, R167: Forms a gang of 2, 4 or 8 members from followers parked on GANGW. -/
  | gang (n : Fin 8) (g : Fin 8)
  /-- GANGW, R342: Parks the thread until a GANG takes it. -/
  | gangw (g : Fin 8)
  /-- DISBAND, R342: Ends the gang; every member continues alone. -/
  | disband (g : Fin 8)
  /-- TQPUSH, R343: Inserts a task word into a class of the core's ready queue. -/
  | tqpush (d : XReg) (w : XReg) (c : Fin 4) (g : Fin 8)
  /-- TQPOP, R343: Takes the first task word of the ready queue. -/
  | tqpop (d : XReg) (e : XReg) (g : Fin 8)
  /-- TQPEEK, R343: Returns the first task word without removing it. -/
  | tqpeek (d : XReg) (e : XReg) (g : Fin 8)
  /-- SLEEP, R344: Records a task in the sleep table under a tag. -/
  | sleep (d : XReg) (w : XReg) (t : XReg) (c : Fin 4) (g : Fin 8)
  /-- SLEEP.W, R344: Records a sleeping task and parks until the ready queue is not empty. -/
  | sleepW (d : XReg) (w : XReg) (t : XReg) (c : Fin 4) (g : Fin 8)
  /-- TIMER, R345: Arms the timer at a relative target and returns the old TIMER. -/
  | timer (d : XReg) (s : XReg) (g : Fin 8)
  /-- TIMER.ABS, R345: Arms the timer at an absolute target. -/
  | timerAbs (d : XReg) (s : XReg) (g : Fin 8)
  /-- TIMER.OFF, R345: Disarms the timer and cancels a pending cause 0x0F. -/
  | timerOff (d : XReg) (g : Fin 8)
  /-- MFS, R347: Reads a system register. -/
  | mfs (d : XReg) (n : Fin 64) (g : Fin 8)
  /-- MTS, R347: Writes a system register, effective from the next pair. -/
  | mts (s : XReg) (n : Fin 64) (g : Fin 8)
  /-- SEGLD, R348: Loads a segment register from the own local store and discards the fetch buffer. -/
  | segld (b : XReg) (n : Fin 8) (g : Fin 8)
  /-- SEGST, R348: Stores a segment register as two 8-byte stores. -/
  | segst (b : XReg) (n : Fin 8) (g : Fin 8)
  /-- TLBI, R352: Invalidates matching translations in the scope's translation units and waits for completion. -/
  | tlbi (s : XReg) (sc : Scope) (g : Fin 8)
  /-- PGREP, R353: Sends a RESUME reply to a parked fault. -/
  | pgrep (s : XReg) (g : Fin 8)
  /-- PGREP.FAIL, R353: Sends a FAIL reply to a parked fault. -/
  | pgrepFail (s : XReg) (g : Fin 8)
  -- A-slot instructions (13 R229)
  /-- ANOP, R304: A-slot no-operation. -/
  | anop
  /-- FADD, R295: Scalar floating addition, combining absent. -/
  | fadd (ty : AFmt) (d : SOpd) (a : SOpd) (b : SOpd) (r : Rnd)
  /-- FSUB, R295: Scalar floating subtraction. -/
  | fsub (ty : AFmt) (d : SOpd) (a : SOpd) (b : SOpd) (r : Rnd)
  /-- FMUL, R295: Scalar floating multiplication. -/
  | fmul (ty : AFmt) (d : SOpd) (a : SOpd) (b : SOpd) (r : Rnd)
  /-- FMA, R295: Scalar fused multiply-add into d, rounded once. -/
  | fma (ty : AFmt) (d : SOpd) (a : SOpd) (b : SOpd) (r : Rnd)
  /-- FDIV, R295: Scalar floating division. -/
  | fdiv (ty : AFmt) (d : SOpd) (a : SOpd) (b : SOpd) (r : Rnd)
  /-- FSQRT, R294: Scalar floating square root. -/
  | fsqrt (ty : AFmt) (d : SOpd) (a : SOpd) (r : Rnd)
  /-- FMIN, R32: Scalar floating minimum. -/
  | fmin (ty : AFmt) (d : SOpd) (a : SOpd) (b : SOpd)
  /-- FMAX, R32: Scalar floating maximum. -/
  | fmax (ty : AFmt) (d : SOpd) (a : SOpd) (b : SOpd)
  /-- FABS, R296: Clears the sign bit. -/
  | fabs (ty : AFmt) (d : SOpd) (a : SOpd)
  /-- FNEG, R296: Inverts the sign bit. -/
  | fneg (ty : AFmt) (d : SOpd) (a : SOpd)
  /-- FSGN, R296: Gives a the sign of b. -/
  | fsgn (ty : AFmt) (d : SOpd) (a : SOpd) (b : SOpd)
  /-- FCMP, R297: Writes a relation word for a and b. -/
  | fcmp (ty : AFmt) (d : SOpd) (a : SOpd) (b : SOpd)
  /-- FCLASS, R24: Writes the 11-bit class mask of a. -/
  | fclass (ty : AFmt) (d : SOpd) (a : SOpd)
  /-- FCVT.F, R298: Scalar conversion to a floating format. -/
  | fcvtF (ty : FFmt) (d : SOpd) (a : SOpd) (src : Fmt) (r : Rnd)
  /-- FCVT.I, R298: Scalar conversion to an integer format. -/
  | fcvtI (ty : IFmt) (d : SOpd) (a : SOpd) (src : Fmt) (r : Rnd)
  /-- VADD.F, R309: Vector floating addition per lane. -/
  | vaddF (ty : AFmt) (d : VOpd) (a : VOpd) (b : VOpd) (m : MReg) (r : Rnd)
  /-- VSUB.F, R309: Vector floating subtraction. -/
  | vsubF (ty : AFmt) (d : VOpd) (a : VOpd) (b : VOpd) (m : MReg) (r : Rnd)
  /-- VMUL.F, R309: Vector floating multiplication. -/
  | vmulF (ty : AFmt) (d : VOpd) (a : VOpd) (b : VOpd) (m : MReg) (r : Rnd)
  /-- VFMA, R309: Vector fused multiply-add into d. -/
  | vfma (ty : AFmt) (d : VReg) (a : VOpd) (b : VOpd) (m : MReg) (r : Rnd)
  /-- VFMS, R309: Vector fused d − a × b. -/
  | vfms (ty : AFmt) (d : VReg) (a : VOpd) (b : VOpd) (m : MReg) (r : Rnd)
  /-- VMIN.F, R309: Vector floating minimum. -/
  | vminF (ty : AFmt) (d : VOpd) (a : VOpd) (b : VOpd) (m : MReg)
  /-- VMAX.F, R309: Vector floating maximum. -/
  | vmaxF (ty : AFmt) (d : VOpd) (a : VOpd) (b : VOpd) (m : MReg)
  /-- VABS.F, R309: Vector floating absolute value. -/
  | vabsF (ty : AFmt) (d : VOpd) (a : VOpd) (m : MReg)
  /-- VNEG.F, R309: Vector floating negation. -/
  | vnegF (ty : AFmt) (d : VOpd) (a : VOpd) (m : MReg)
  /-- VDIV, R309: Vector floating division. -/
  | vdiv (ty : AFmt) (d : VOpd) (a : VOpd) (b : VOpd) (m : MReg) (r : Rnd)
  /-- VSQRT, R309: Vector floating square root. -/
  | vsqrt (ty : AFmt) (d : VOpd) (a : VOpd) (m : MReg) (r : Rnd)
  /-- VRCP, R309: Vector correctly rounded reciprocal. -/
  | vrcp (ty : AFmt) (d : VOpd) (a : VOpd) (m : MReg) (r : Rnd)
  /-- VRSQ, R309: Vector correctly rounded reciprocal square root. -/
  | vrsq (ty : AFmt) (d : VOpd) (a : VOpd) (m : MReg) (r : Rnd)
  /-- VDOT.F, R320: Vector floating dot products into wider lanes of d. -/
  | vdotF (ty : DFmt) (d : VReg) (a : VOpd) (b : VOpd) (m : MReg) (r : Rnd)
  /-- VEXP2, R311: Vector 2 to the power a. -/
  | vexp2 (ty : AFmt) (d : VOpd) (a : VOpd) (m : MReg)
  /-- VLOG2, R311: Vector base-2 logarithm. -/
  | vlog2 (ty : AFmt) (d : VOpd) (a : VOpd) (m : MReg)
  /-- VSIN, R311: Vector sine. -/
  | vsin (ty : AFmt) (d : VOpd) (a : VOpd) (m : MReg)
  /-- VCOS, R311: Vector cosine. -/
  | vcos (ty : AFmt) (d : VOpd) (a : VOpd) (m : MReg)
  /-- VTANH, R311: Vector hyperbolic tangent. -/
  | vtanh (ty : AFmt) (d : VOpd) (a : VOpd) (m : MReg)
  /-- VAND, R312: Vector bitwise AND. -/
  | vand (ty : VFmt) (d : VOpd) (a : VOpd) (b : VOpd) (m : MReg)
  /-- VOR, R312: Vector bitwise OR. -/
  | vor (ty : VFmt) (d : VOpd) (a : VOpd) (b : VOpd) (m : MReg)
  /-- VXOR, R312: Vector bitwise XOR. -/
  | vxor (ty : VFmt) (d : VOpd) (a : VOpd) (b : VOpd) (m : MReg)
  /-- VSHL, R312: Vector shift left by per-lane counts. -/
  | vshl (ty : VFmt) (d : VOpd) (a : VOpd) (b : VOpd) (m : MReg)
  /-- VSHR, R312: Vector logical shift right. -/
  | vshr (ty : VFmt) (d : VOpd) (a : VOpd) (b : VOpd) (m : MReg)
  /-- VSHA, R312: Vector arithmetic shift right. -/
  | vsha (ty : VFmt) (d : VOpd) (a : VOpd) (b : VOpd) (m : MReg)
  /-- VCMP.F, R313: Floating lane comparison writing truth and absent masks. -/
  | vcmpF (ty : AFmt) (md : Fin 64) (a : VOpd) (b : VOpd) (m : MReg)
  /-- VSEL, R314: Selects lanes of a or b by a mask. -/
  | vsel (ty : VFmt) (d : VOpd) (a : VOpd) (b : VOpd) (m : MReg)
  /-- VCVT.F, R318: Vector conversion to a floating format. -/
  | vcvtF (ty : FFmt) (d : VOpd) (a : VOpd) (src : PSrc) (m : MReg) (r : Rnd)
  /-- VBCAST, R317: Broadcasts a scalar into every enabled lane. -/
  | vbcast (ty : VFmt) (d : VOpd) (s : SOpd) (m : MReg)
  /-- VPERM, R317: Permutes lanes of a by indices in b. -/
  | vperm (ty : VFmt) (d : VOpd) (a : VOpd) (b : VOpd) (m : MReg)
  /-- VRED.F, R319: Floating lane reduction with present count. -/
  | vredF (ty : AFmt) (d : VOpd) (a : VOpd) (op : ROp) (m : MReg) (r : Rnd)
  /-- VCNT.F, R315: Counts present enabled floating lanes. -/
  | vcntF (ty : FFmt) (d : SOpd) (a : VOpd) (m : MReg)
  /-- VISAB.F, R315: Writes a mask of floating lanes holding the absent code. -/
  | visabF (ty : FFmt) (md : Fin 4) (a : VOpd) (m : MReg)
  /-- VMKAB.F, R315: Keeps lanes below n and makes the rest absent. -/
  | vmkabF (ty : FFmt) (d : VOpd) (a : VOpd) (n : XReg) (m : MReg)
  /-- VMOV, R316: Copies enabled lanes of a vector. -/
  | vmov (ty : VFmt) (d : VOpd) (a : VOpd) (m : MReg)
  /-- VMOV.TO.MASK, R316: Writes all 64 bits of a mask from a scalar. -/
  | vmovToMask (md : Fin 4) (s : XReg)
  /-- VMOV.FROM.MASK, R316: Writes a mask into a scalar. -/
  | vmovFromMask (d : XReg) (ms : Fin 4)
  /-- VEXT, R317: Extracts one lane into a scalar. -/
  | vext (ty : VFmt) (d : SOpd) (a : VOpd) (i : XReg) (m : MReg)
  /-- VINS, R317: Inserts a scalar into one lane. -/
  | vins (ty : VFmt) (d : VReg) (s : SOpd) (i : XReg) (m : MReg)
  /-- XLD, R321: Reads a v register of the column neighbour's same slot, writing success to a predicate. -/
  | xld (d : VReg) (a : VReg) (dp : Fin 32) (m : MReg)
  /-- VRNG.F, R324: Writes counter-based random floating values in [0, 1). -/
  | vrngF (ty : AFmt) (d : VOpd) (k : XReg) (i : XReg) (m : MReg)
  /-- VADD.I, R310: Vector integer addition, combining absent. -/
  | vaddI (ty : VFmt) (d : VOpd) (a : VOpd) (b : VOpd) (m : MReg)
  /-- VSUB.I, R310: Vector integer subtraction. -/
  | vsubI (ty : VFmt) (d : VOpd) (a : VOpd) (b : VOpd) (m : MReg)
  /-- VMUL.I, R310: Vector integer multiplication. -/
  | vmulI (ty : VFmt) (d : VOpd) (a : VOpd) (b : VOpd) (m : MReg)
  /-- VMIN.I, R310: Vector integer minimum. -/
  | vminI (ty : VFmt) (d : VOpd) (a : VOpd) (b : VOpd) (m : MReg)
  /-- VMAX.I, R310: Vector integer maximum. -/
  | vmaxI (ty : VFmt) (d : VOpd) (a : VOpd) (b : VOpd) (m : MReg)
  /-- VABS.I, R310: Vector integer absolute value. -/
  | vabsI (ty : VFmt) (d : VOpd) (a : VOpd) (m : MReg)
  /-- VNEG.I, R310: Vector integer negation. -/
  | vnegI (ty : VFmt) (d : VOpd) (a : VOpd) (m : MReg)
  /-- VDOT.I, R320: Vector integer dot products into wider lanes. -/
  | vdotI (ty : DIFmt) (d : VReg) (a : VOpd) (b : VOpd) (m : MReg)
  /-- VCMP.I, R313: Integer lane comparison writing truth and absent masks. -/
  | vcmpI (ty : VFmt) (md : Fin 64) (a : VOpd) (b : VOpd) (m : MReg)
  /-- VCVT.I, R318: Vector conversion to an integer format. -/
  | vcvtI (ty : IFmt) (d : VOpd) (a : VOpd) (src : PSrc) (m : MReg) (r : Rnd)
  /-- VRED.I, R319: Integer lane reduction with present count. -/
  | vredI (ty : VFmt) (d : VOpd) (a : VOpd) (op : ROp) (m : MReg)
  /-- VCNT.I, R315: Counts present enabled integer lanes. -/
  | vcntI (ty : VFmt) (d : SOpd) (a : VOpd) (m : MReg)
  /-- VISAB.I, R315: Writes a mask of integer lanes holding the absent code. -/
  | visabI (ty : VFmt) (md : Fin 4) (a : VOpd) (m : MReg)
  /-- VMKAB.I, R315: Makes integer lanes at or above n absent. -/
  | vmkabI (ty : VFmt) (d : VOpd) (a : VOpd) (n : XReg) (m : MReg)
  /-- VRNG.I, R324: Writes counter-based random integer values. -/
  | vrngI (ty : VFmt) (d : VOpd) (k : XReg) (i : XReg) (m : MReg)
  -- Lone instructions (13 R230)
  /-- MOVW, R292: Writes a sign-extended 48-bit immediate. -/
  | movw (d : XReg) (hi : BitVec 16) (lo : BitVec 32)
  /-- MOVW.HI, R292: Replaces the top 16 bits of a register. -/
  | movwHi (d : XReg) (imm : BitVec 16)
  /-- QBIND, R278: Binds a ring handle as LOCAL, IN or OUT and writes a status. -/
  | qbind (q : Fin 8) (kind : Fin 4) (sz : Fin 4) (lc : Fin 8) (d : XReg) (a : XReg)
  /-- SPLICE.INSERT, R284: Pushes an INSERT-AFTER SPLICE record into an OUT handle. -/
  | spliceInsert (q : Fin 8) (inh : Fin 4) (snum : BitVec 16) (target : BitVec 12) (newstage : BitVec 12) (nt : XReg)
  /-- SPLICE.REMOVE, R284: Pushes a REMOVE SPLICE record into an OUT handle. -/
  | spliceRemove (q : Fin 8) (snum : BitVec 16) (target : BitVec 12)
  /-- SPLICE.REBIND, R284: Pushes a REBIND SPLICE record into an OUT handle. -/
  | spliceRebind (q : Fin 8) (inh : Fin 4) (snum : BitVec 16) (target : BitVec 12) (newstage : BitVec 12) (nt : XReg)
  /-- LAUNCH, R346: Commits a launch record from local store into a work queue and writes a status. -/
  | launch (d : XReg) (a : XReg) (q : XReg)
  /-- BARI, R337: Initialises a barrier context from a member block or makes it DEFAULT. -/
  | bari (sc : Scope) (b : Fin 16) (d : XReg) (a : XReg)
  /-- TMOV, R267: Starts a 2-D tile move and clears its token. -/
  | tmov (t : XReg) (da : XReg) (sa : XReg) (sh : XReg)
  /-- PLANE, R269: Starts conversion of an element tile into bit-plane layout and clears its token. -/
  | plane (t : XReg) (da : XReg) (sa : XReg) (ct : XReg)
  /-- BCPY, R271: Flue slot issues a bulk copy request from a mailbox to an engine. -/
  | bcpy (d : XReg) (mb : Fin 4)
  /-- GATH, R271: Flue slot issues a gather request to an engine. -/
  | gath (d : XReg) (mb : Fin 4)
  /-- SCAT, R271: Flue slot issues a scatter request to an engine. -/
  | scat (d : XReg) (mb : Fin 4)
  /-- COLL, R271: Flue slot issues a collective request to an engine. -/
  | coll (d : XReg) (mb : Fin 4)
  /-- MDRAIN, R123: Queues a command converting the tile into a target format at a near address. -/
  | mdrain (mode : Fin 4) (cls : Fin 2) (ty : Fin 8) (rm : Fin 4) (wrap : Fin 2) (clr : Fin 2) (t : XReg) (ad : XReg) (st : XReg)
  /-- MLOAD.FLT, R122: Queues a command loading the tile as float from near memory. -/
  | mloadFlt (t : XReg) (ad : XReg) (st : XReg)
  /-- MLOAD.INT, R122: Queues a command loading the tile as integer from near memory. -/
  | mloadInt (t : XReg) (ad : XReg) (st : XReg)
  /-- MMA.F4.F4, R118: Queues an F4·F4 matrix multiply-accumulate. -/
  | mmaF4F4 (t : XReg) (da : XReg) (db : XReg) (n : Fin 32)
  /-- MMA.E4.E4, R118: Queues an E4·E4 matrix multiply-accumulate. -/
  | mmaE4E4 (t : XReg) (da : XReg) (db : XReg) (n : Fin 32)
  /-- MMA.E5.E5, R118: Queues an E5·E5 matrix multiply-accumulate. -/
  | mmaE5E5 (t : XReg) (da : XReg) (db : XReg) (n : Fin 32)
  /-- MMA.E4.E5, R118: Queues an E4·E5 matrix multiply-accumulate. -/
  | mmaE4E5 (t : XReg) (da : XReg) (db : XReg) (n : Fin 32)
  /-- MMA.E5.E4, R118: Queues an E5·E4 matrix multiply-accumulate. -/
  | mmaE5E4 (t : XReg) (da : XReg) (db : XReg) (n : Fin 32)
  /-- MMA.BF16.BF16, R118: Queues a BF16·BF16 matrix multiply-accumulate. -/
  | mmaBF16BF16 (t : XReg) (da : XReg) (db : XReg) (n : Fin 32)
  /-- MMA.F16.F16, R118: Queues an F16·F16 matrix multiply-accumulate. -/
  | mmaF16F16 (t : XReg) (da : XReg) (db : XReg) (n : Fin 32)
  /-- MMA.BF16.F4, R118: Queues a BF16·F4 matrix multiply-accumulate. -/
  | mmaBF16F4 (t : XReg) (da : XReg) (db : XReg) (n : Fin 32)
  /-- MMA.BF16.E4, R118: Queues a BF16·E4 matrix multiply-accumulate. -/
  | mmaBF16E4 (t : XReg) (da : XReg) (db : XReg) (n : Fin 32)
  /-- MMA.BF16.TS8, R118: Queues a BF16·TS8 matrix multiply-accumulate. -/
  | mmaBF16TS8 (t : XReg) (da : XReg) (db : XReg) (n : Fin 32)
  /-- MMA.E4.TS8, R118: Queues an E4·TS8 matrix multiply-accumulate. -/
  | mmaE4TS8 (t : XReg) (da : XReg) (db : XReg) (n : Fin 32)
  /-- MMA.I8.I8, R118: Queues an I8·I8 matrix multiply-accumulate. -/
  | mmaI8I8 (t : XReg) (da : XReg) (db : XReg) (n : Fin 32)
  -- Events: the acts of every agent other than a thread (the event rows of opcode_table.json)
  /-- BOUNDARY_TRAP, R207: A pending boundary cause is taken before the thread's next pair. -/
  | boundaryTrap (tid : Nat)
  /-- TIMER_EXPIRY, R110: TIME reaches the armed target; EN clears and cause 0x0F becomes pending. -/
  | timerExpiry (tid : Nat)
  /-- XLD_TIMEOUT, R170: XLTO cycles pass without the neighbour becoming RUNNABLE; XLD sets its predicate false. -/
  | xldTimeout (tid : Nat)
  /-- TABLE_WALK, R50: A translation walk completes, installing a leaf with AC or D set, or faulting. -/
  | tableWalk (id : Nat)
  /-- FAULT_MESSAGE, R53: A fault message reaches a pager hob core while the faulting thread stays parked. -/
  | faultMessage (id : Nat)
  /-- PAGER_REPLY, R52: A pager reply reaches a parked thread: RESUME reissues the pair, FAIL traps with cause 0x11. -/
  | pagerReply (id : Nat)
  /-- ECC_UNCORRECTABLE_ERROR, R58: ECC finds an uncorrectable error in far memory and poisons every word of the line. -/
  | eccUncorrectableError (key : Nat)
  /-- SOFT_ERROR, R210: An uncorrectable soft error poisons one on-die word. -/
  | softError (key : Nat)
  /-- FAR_NET_FORWARD, R63: A far-net switch forwards a head packet under its arbitration order. -/
  | farNetForward (die : Nat) (stage : Nat) (sw : Nat) (out : Nat)
  /-- SWITCH_POWER_DOWN, R65: A switch idle for 512 network cycles powers down. -/
  | switchPowerDown (die : Nat) (stage : Nat) (sw : Nat)
  /-- MEMORY_ACCESS_AT_HOME, R150: A far access or atomic is performed at the location's home. -/
  | memoryAccessAtHome (id : Nat)
  /-- LOAD_REPLY, R162: A load or atomic value lands and its destination stops being busy. -/
  | loadReply (id : Nat)
  /-- PUT_ARRIVAL, R68: A put lands in the target local store. -/
  | putArrival (id : Nat)
  /-- PUT_ACKNOWLEDGEMENT, R151: A put's acknowledgement reaches its thread. -/
  | putAcknowledgement (id : Nat)
  /-- REMOTE_REGISTER_WRITE, R101: A PUTR lands in a target register and sets presence. -/
  | remoteRegisterWrite (id : Nat)
  /-- DELIVERY_LANDING, R75: An LDF or LDFE value lands in its destination register and sets presence. -/
  | deliveryLanding (id : Nat)
  /-- SYNC_ACCESS_ARRIVAL, R74: A synchronising access reaches the word's owner and proceeds or joins the deferred-access queue. -/
  | syncAccessArrival (id : Nat)
  /-- SYNC_RETRY_TICK, R77: TIME passes a multiple of 1,024 ns; each parked continuation counts a retry and may be unlinked with cause 0x09. -/
  | syncRetryTick
  /-- SYNC_REISSUE, R77: A refused synchronising access is reissued after 64 network cycles. -/
  | syncReissue (id : Nat)
  /-- STORE_DRAIN, R149: The oldest store leaves the store buffer and becomes visible. -/
  | storeDrain (tid : Nat)
  /-- SEND_DEPARTURE, R274: A message leaves the send buffer once its release waits are done. -/
  | sendDeparture (id : Nat)
  /-- INBOX_ARRIVAL, R272: A message reaches a slot's inbox or is discarded. -/
  | inboxArrival (id : Nat)
  /-- INBOX_RETRY, R272: A message that found no inbox entry retries after 64 network cycles. -/
  | inboxRetry (id : Nat)
  /-- RING_RECORD_ARRIVAL, R69: A pushed record arrives in the consumer's channel. -/
  | ringRecordArrival (id : Nat)
  /-- RING_CREDIT_RETURN, R281: Free slots returned by the consumer's QPOP reach the producer. -/
  | ringCreditReturn (id : Nat)
  /-- SEAM_TAKE, R139: The consumer of M takes a matching SEAM in hardware and makes the new producer current. -/
  | seamTake (tid : Nat) (q : Nat)
  /-- DRAIN_THROUGH, R140: An outgoing stage forwards the SEAM unchanged and ends as though by EXIT. -/
  | drainThrough (tid : Nat)
  /-- INHERITANCE_COPY, R142: A stage-state copy or move into the new stage completes. -/
  | inheritanceCopy (tid : Nat)
  /-- SPLICE_MESSAGE, R144: A splice message with COMMITTED or a failure reason reaches the originator. -/
  | spliceMessage (id : Nat)
  /-- WINDOW_SPILL, R100: The hardware spills a window frame to SEG7. -/
  | windowSpill (tid : Nat)
  /-- WINDOW_FILL, R100: The hardware fills a window frame from SEG7. -/
  | windowFill (tid : Nat)
  /-- TILE_MOVE_COMPLETION, R80: A TMOV completes and writes its status into the token. -/
  | tileMoveCompletion (id : Nat)
  /-- PLANE_COMPLETION, R269: A PLANE completes and writes its token with INX and BYTES. -/
  | planeCompletion (id : Nat)
  /-- COMPLETION_MESSAGE, R86: An engine finishes a request and sends its completion message. -/
  | completionMessage (id : Nat)
  /-- COLL_TIMEOUT, R91: TMO expires before every participant joined; joined participants complete with TIMEOUT. -/
  | collTimeout (id : Nat)
  /-- MATRIX_BLOCK, R126: The arbiter serves one block or command of a queue head. -/
  | matrixBlock (unit : Nat)
  /-- MATRIX_COMMAND_COMPLETION, R121: A matrix command completes and writes its token word. -/
  | matrixCommandCompletion (id : Nat)
  /-- MATRIX_RAMP_DOWN, R127: A unit idle for 256 cycles ramps down through damper cycles. -/
  | matrixRampDown (unit : Nat)
  /-- HINTED_RAMP_UP, R128: A ramp-up that MHINT scheduled begins. -/
  | hintedRampUp (unit : Nat)
  /-- BARRIER_RELEASE, R338: A completed barrier phase releases threads whose tickets it passed. -/
  | barrierRelease (tid : Nat)
  /-- EMBER_REDISTRIBUTION, R179: The bellows unit recomputes holdings after an event. -/
  | emberRedistribution (pkg : Nat)
  /-- WAIT_CYCLE, R181: A WAIT-CYCLE message reaches the scheduler agent when a set of groups becomes cyclic. -/
  | waitCycle (id : Nat)
  /-- OP_CHANGE, R183: A hearth changes operating point at a cycle boundary. -/
  | opChange (hearth : Nat)
  /-- CEIL_LOWER, R184: Package power above 2,200 W over 1 ms lowers CEIL by one step. -/
  | ceilLower (pkg : Nat)
  /-- CEIL_RAISE, R184: Package power below 2,090 W for 1 ms raises CEIL by one step. -/
  | ceilRaise (pkg : Nat)
  /-- OPTHR_WRITE, R187: A write to OPTHR0 or OPTHR1 takes effect and sets BSTAT.THR while thresholds are invalid. -/
  | opthrWrite (pkg : Nat) (hi : Bool) (v : BitVec 64)
  /-- CEIL_WRITE, R184: A service write lowers CEIL; a higher value leaves it unchanged. -/
  | ceilWrite (pkg : Nat) (v : BitVec 64)
  /-- BSTAT_CYC_CLEAR, R187: Writing 1 to BSTAT.CYC clears it. -/
  | bstatCycClear (pkg : Nat)
  /-- QREC_COMMIT, R190: A write to the last word of QREC commits the record at the tail, or counts it LOST. -/
  | qrecCommit (pkg : Nat) (q : Nat) (v : BitVec 64)
  /-- DISPATCHER_RANKING, R192: The dispatcher ranks ready heads and starts the first that passes both gates. -/
  | dispatcherRanking (pkg : Nat)
  /-- SLOT_VACATE, R303: An exited thread's slot becomes VACANT once buffers drain and loads land. -/
  | slotVacate (tid : Nat)
  /-- GROUP_RETIREMENT, R191: A group whose last thread exited retires and gives back its resources. -/
  | groupRetirement (pkg : Nat) (grp : Nat)
  /-- COMPLETION_COUNTER_WRITE, R191: The host writes a completion counter, which may make heads ready. -/
  | completionCounterWrite (pkg : Nat) (ctr : Nat) (v : BitVec 32)
  /-- PREEMPTION, R211: A group is halted, its context saved and its slots made SAVED. -/
  | preemption (pkg : Nat) (grp : Nat)
  /-- GROUP_RESUME, R212: A saved group is placed again and its context restored. -/
  | groupResume (pkg : Nat) (grp : Nat)
  /-- CTXS_RESULT_MESSAGE, R354: The dispatcher's one-word PREEMPTED, RESUMED or FAULTED message reaches the CTXS issuer. -/
  | ctxsResultMessage (id : Nat)
  /-- HOST_WRITE, R383: The mailbox engine applies a host write through a window at the SYS ordering point. -/
  | hostWrite (pkg : Nat) (win : Option Nat) (off : Nat) (bytes : List (BitVec 8))
  /-- HOST_READ, R383: The mailbox engine performs a host read through a window. -/
  | hostRead (pkg : Nat) (win : Option Nat) (off : Nat) (n : Nat)
  /-- TENANT_REFUSED, R388: A TENANT-REFUSED service message reaches hob core 67. -/
  | tenantRefused (id : Nat)
  /-- FABRIC_DOWN, R388: A FABRIC-DOWN service message reaches hob core 67 of cluster 0, die 0. -/
  | fabricDown (id : Nat)
  /-- POWER_ALARM, R388: A POWER-ALARM service message reaches hob core 67 of cluster 0, die 0. -/
  | powerAlarm (id : Nat)
  /-- FLIT_RETRANSMIT, R386: A fabric flit that failed its CRC is retransmitted. -/
  | flitRetransmit (pkg : Nat) (port : Nat)
  /-- LINK_LOSS, R387: A fabric port loses its link and keeps unacknowledged flits. -/
  | linkLoss (pkg : Nat) (port : Nat)
  /-- LINK_RESTORE, R387: A lost fabric link returns and retransmits kept flits. -/
  | linkRestore (pkg : Nat) (port : Nat)
  /-- FTMO_EXPIRY, R387: A link stays down for FTMO and the port fails its queued requests. -/
  | ftmoExpiry (pkg : Nat) (port : Nat)
  /-- CRACKED_CONNECTION_ALARM, R389: Input stays over 4 V below prediction for 1 ms; the alarm sets and CEIL becomes 0. -/
  | crackedConnectionAlarm (pkg : Nat) (pred : BitVec 16) (vin : BitVec 16)
  /-- PWRALM_ALARM_CLEAR, R389: A write of 1 to ALARM clears it only after 100 ms of normal input. -/
  | pwralmAlarmClear (pkg : Nat)
  /-- MONITOR_REPORT, R390: A hearth reports its monitors every 100 µs and the THOT cap applies or lifts. -/
  | monitorReport (pkg : Nat) (hearth : Nat) (temp : BitVec 16) (mv : BitVec 16) (x : Readings)
  /-- POWER_STATE_ENTRY, R391: An idle package enters the deepest state within LATTOL. -/
  | powerStateEntry (pkg : Nat)
  /-- POWER_STATE_WAKE, R391: A wake event returns the package to PS0. -/
  | powerStateWake (pkg : Nat)
  /-- DEVICE_RESET, R392: Reset runs mask ROM, verifies firmware and enters SERVICE or RECOVERY. -/
  | deviceReset (pkg : Nat) (step : BootStep) (bytes : List (BitVec 8))
  /-- ATTESTATION_START, R394: A write of 1 to ATTGO starts building a signed attestation report. -/
  | attestationStart (pkg : Nat)
  /-- ATTESTATION_COMPLETE, R394: The report and signature land in ATTREP and ATTSTAT clears. -/
  | attestationComplete (pkg : Nat)
  /-- MIRMOR_STOP, R395: Mirmor stops a thread at a pair boundary. -/
  | mirmorStop (tid : Nat)
  /-- MIRMOR_RESUME, R395: Mirmor makes a stopped thread RUNNABLE or PARKED again. -/
  | mirmorResume (tid : Nat)
  /-- MIRMOR_STEP, R395: Mirmor lets a stopped thread issue one pair and stop. -/
  | mirmorStep (tid : Nat)
  /-- MIRMOR_HALT, R395: Mirmor stops every thread of the package and freezes collectives. -/
  | mirmorHalt (pkg : Nat)
  /-- MIRMOR_RELEASE, R395: Mirmor resumes the threads that HALT stopped. -/
  | mirmorRelease (pkg : Nat)
  /-- BRKSTOP_ON, R395: Sets breakpoint stopping for a group. -/
  | brkstopOn (pkg : Nat) (grp : Nat)
  /-- BRKSTOP_OFF, R395: Clears breakpoint stopping for a group. -/
  | brkstopOff (pkg : Nat) (grp : Nat)
  /-- MIRMOR_THREAD_RECORD_WRITE, R395: A write to a stopped thread's record through Mirmor changes its state. -/
  | mirmorThreadRecordWrite (pkg : Nat) (off : Nat) (v : BitVec 64)
  /-- TRCTL_WRITE, R397: A TRCTL write changes EMIT only in BOOT, TEST and RECOVERY. -/
  | trctlWrite (pkg : Nat) (v : BitVec 64)
  /-- ACCT_FREEZE, R398: ACCTCTL.FREEZE holds every slot accounting counter. -/
  | acctFreeze (cid : Nat) (v : Bool)
  /-- ACCT_ZERO, R398: A write of 1 to ACCTCTL bit 1 zeroes every slot accounting counter. -/
  | acctZero (cid : Nat)
  /-- REGISTER_WRITE, R378: A write to a device register that has no row of its own stores its value. -/
  | registerWrite (pkg : Nat) (off : Nat) (v : BitVec 64)
  /-- TLBI_COMPLETION, R352: A TLBI completes once every unit of its scope has removed matching entries, restarted walks in flight and seen prior accesses performed, and its thread becomes ready. -/
  | tlbiCompletion (id : Nat)
  /-- STATUS_ANSWER_ARRIVAL, R335: The far-net answer of BARI, LAUNCH, CTXS or an OUT QBIND arrives after the remote agent has acted, and the busy status register receives it. -/
  | statusAnswerArrival (id : Nat)
  /-- SWITCH_WAKE, R65: A powered-down far-net switch that received a wake signal becomes powered, at most 16 network cycles later, and a waiting packet may proceed. -/
  | switchWake (die : Nat) (stage : Nat) (sw : Nat)
  /-- IDLE_CYCLE, R165: In a core cycle in which no slot issues, the core classifies every slot, counts the idle cycle as memory, message or vacant, and updates the ready-slot histogram. -/
  | idleCycle (cid : Nat)
  /-- FIRMWARE_THREAD_START, R44: Firmware starts a thread outside the work queues on a hob core or a compute core, assigning its tenant and occupying its slot, local store and scratchpad. -/
  | firmwareThreadStart (f : FwStart)
  deriving DecidableEq, Repr

end Sys2Proof
end

