-- ==== Sys2Proof/WellFormed.lean ====
section
/-! DEFINITION. WellFormed.lean: the encoding rules that the operand types of Syntax.lean do not carry by themselves. A word
that breaks one of them traps with cause 0x01 (13 R231), so the decoder refuses it. -/
namespace Sys2Proof

/-- The general format that an arithmetic format stands for. -/
def AFmt.fmt : AFmt → Fmt
  | .f64 => .f64 | .f32 => .f32 | .f16 => .f16 | .bf16 => .bf16

def FFmt.fmt : FFmt → Fmt
  | .f64 => .f64 | .f32 => .f32 | .f16 => .f16 | .bf16 => .bf16 | .e4 => .e4 | .e5 => .e5 | .f4 => .f4

def IFmt.fmt : IFmt → Fmt
  | .i64 => .i64 | .i32 => .i32 | .i16 => .i16 | .i8 => .i8 | .ui32 => .ui32 | .ui8 => .ui8 | .ts8 => .ts8

def VFmt.fmt : VFmt → Fmt
  | .i64 => .i64 | .i32 => .i32 | .i16 => .i16 | .i8 => .i8 | .ui32 => .ui32 | .ui8 => .ui8

def DFmt.fmt : DFmt → Fmt
  | .f32 => .f32 | .f16 => .f16 | .bf16 => .bf16

def DIFmt.fmt : DIFmt → Fmt
  | .i16 => .i16 | .i8 => .i8 | .ui8 => .ui8

/-- Width in bits of an element inside a vector lane: F4 stands in an 8-bit lane (18 R305). -/
def Fmt.lane : Fmt → Nat
  | .f64 | .i64 => 64
  | .f32 | .i32 | .ui32 => 32
  | .f16 | .bf16 | .i16 => 16
  | .e4 | .e5 | .f4 | .i8 | .ui8 | .ts8 => 8

/-- VCVT's test of 18 R318: the widths differ by less than a factor of 8, and PART lies below their ratio. -/
def cvtOk (dst : Fmt) (src : PSrc) : Bool :=
  let r := Nat.max dst.lane src.fmt.lane / Nat.min dst.lane src.fmt.lane
  decide (r ≠ 8) && decide (src.part.val < r)

/-- VCMP's D field (18 R313): TM and AM name different masks, or both m0. -/
def cmpMasksOk (md : Fin 64) : Bool :=
  decide (md.val % 4 ≠ md.val / 4 % 4) || decide (md.val % 4 = 0)

/-- The system register numbers of 05 R108. -/
def sysListed (n : Nat) : Bool :=
  decide (n ≤ 0x14) || decide (n = 0x20) || decide (n = 0x21) || decide (n = 0x22)

/-- Scopes of a barrier instruction: CORE to POD (09 R171). -/
def Scope.barrier (sc : Scope) : Bool := decide (sc ≠ .sys)

/-- Scopes of TLBI (20 R352). -/
def Scope.tlbi : Scope → Bool
  | .cluster | .die | .pkg | .pod => true
  | .core | .quad | .sys => false

/-- Whether an instruction obeys the rules of its entry beyond its operand kinds. The constructors that the last line
covers have no further rule. -/
def Instr.wf : Instr → Bool
  | .recv d e _ _ => decide (d ≠ e)                                      -- 16 R264
  | .recvs d _ e _ _ => decide (d ≠ e)
  | .waitm d _ e _ _ => decide (d ≠ e)
  | .tqpop d e _ => decide (d ≠ e)                                       -- 13 R225, 20 R334
  | .tqpeek d e _ => decide (d ≠ e)
  | .bar _ sc _ => sc.barrier                                            -- 20 R336
  | .bara _ _ sc _ => sc.barrier
  | .barw _ _ sc _ => sc.barrier
  | .bari sc _ _ _ => sc.barrier
  | .tlbi _ sc _ => sc.tlbi                                              -- 20 R352
  | .gang n _ => decide (n.val = 1) || decide (n.val = 2) || decide (n.val = 3)   -- 20 R342
  | .mfs _ n _ => sysListed n.val                                        -- 05 R108
  | .mts _ n _ => sysListed n.val
  | .vcmpF _ md _ _ _ => cmpMasksOk md                                   -- 18 R313
  | .vcmpI _ md _ _ _ => cmpMasksOk md
  | .vrngF _ _ k _ _ => decide (k.val % 2 = 0)                           -- 18 R324
  | .vrngI _ _ k _ _ => decide (k.val % 2 = 0)
  | .vcvtF ty _ _ src _ _ => cvtOk ty.fmt src                            -- 18 R318
  | .vcvtI ty _ _ src _ _ => cvtOk ty.fmt src
  | .qbind _ kind _ _ _ _ => decide (kind.val ≠ 3)                       -- 16 R278
  | .spliceInsert _ inh _ tg ns _ =>                                     -- 07 R132, 16 R284
    decide (inh.val < 2) && decide (tg ≠ 0) && decide (ns ≠ 0)
  | .spliceRemove _ _ tg => decide (tg ≠ 0)
  | .spliceRebind _ inh _ tg ns _ => decide (inh.val < 3) && decide (tg ≠ 0) && decide (ns ≠ 0)
  | .mdrain mode cls ty _ wrap _ _ _ _ =>                                -- 19 R327
    decide (mode.val ≠ 3) && decide (ty.val ≠ 7)
      && (decide (wrap.val = 0) || (decide (cls.val = 1) && decide (mode.val ≠ 2)))
  | _ => true

end Sys2Proof
end

