-- ==== Sys2Proof/Decode.lean ====
section
/-! DEFINITION. Decode.lean: pairs, slot words and lone words to instructions and back (13 R215 to R231). Decoding is total; a
pattern that is no instruction is `none`, and the step makes it trap with cause 0x01 (13 R231). The encoder follows, from the
same tables. -/
namespace Sys2Proof

/-! ### Words as fields -/

/-- The fields of a C-slot word in the C-R layout (13 R216); the C-I and C-B fields are read from the same numbers. -/
structure CWord where
  op : Nat
  d : Nat
  s : Nat
  t : Nat
  f : Nat
  g : Nat
  deriving DecidableEq, Repr

/-- The fields of an A-slot word (13 R219). -/
structure AWord where
  op : Nat
  ty : Nat
  d : Nat
  a : Nat
  b : Nat
  m : Nat
  r : Nat
  deriving DecidableEq, Repr

/-- The opcode of a lone pair, the 23 field bits of word 0 and word 1 (13 R221). -/
structure LWord where
  op : Nat
  w0 : Nat
  w1 : Nat
  deriving DecidableEq, Repr

def CWord.ofNat (w : Nat) : CWord :=
  ⟨w / 2 ^ 24 % 2 ^ 7, w / 2 ^ 18 % 2 ^ 6, w / 2 ^ 12 % 2 ^ 6, w / 2 ^ 6 % 2 ^ 6, w / 2 ^ 3 % 2 ^ 3, w % 2 ^ 3⟩

def CWord.toNat (w : CWord) : Nat :=
  w.op * 2 ^ 24 + w.d * 2 ^ 18 + w.s * 2 ^ 12 + w.t * 2 ^ 6 + w.f * 2 ^ 3 + w.g

def AWord.ofNat (w : Nat) : AWord :=
  ⟨w / 2 ^ 25 % 2 ^ 7, w / 2 ^ 22 % 2 ^ 3, w / 2 ^ 16 % 2 ^ 6, w / 2 ^ 10 % 2 ^ 6, w / 2 ^ 4 % 2 ^ 6, w / 2 ^ 2 % 2 ^ 2, w % 2 ^ 2⟩

def AWord.toNat (w : AWord) : Nat :=
  w.op * 2 ^ 25 + w.ty * 2 ^ 22 + w.d * 2 ^ 16 + w.a * 2 ^ 10 + w.b * 2 ^ 4 + w.m * 2 ^ 2 + w.r

def LWord.ofNat (w : Nat) : LWord := ⟨w / 2 ^ 23 % 2 ^ 8, w % 2 ^ 23, w / 2 ^ 32 % 2 ^ 32⟩

def LWord.toNat (w : LWord) : Nat := 2 ^ 31 + w.op * 2 ^ 23 + w.w0 + w.w1 * 2 ^ 32

/-- IMM of a C-I word, bits [11:0] (13 R216). -/
def CWord.imm (w : CWord) : Nat := w.t * 2 ^ 6 + w.f * 2 ^ 3 + w.g

/-- PRED, SENSE and OFF of a C-B word (13 R216). -/
def CWord.pred (w : CWord) : Nat := w.d / 2 ^ 2
def CWord.sense (w : CWord) : Nat := w.d / 2 % 2
def CWord.off (w : CWord) : Nat := w.d % 2 * 2 ^ 18 + w.s * 2 ^ 12 + w.t * 2 ^ 6 + w.f * 2 ^ 3 + w.g

/-- A C-I word from its fields. -/
def CWord.ofI (op d s imm : Nat) : CWord := ⟨op, d, s, imm / 2 ^ 6, imm / 2 ^ 3 % 2 ^ 3, imm % 2 ^ 3⟩

/-- A C-B word from its fields. -/
def CWord.ofB (op pred sense off : Nat) : CWord :=
  ⟨op, pred * 2 ^ 2 + sense * 2 + off / 2 ^ 18, off / 2 ^ 12 % 2 ^ 6, off / 2 ^ 6 % 2 ^ 6, off / 2 ^ 3 % 2 ^ 3, off % 2 ^ 3⟩

/-! ### Field codes -/

def finOf (k n : Nat) : Option (Fin k) := if h : n < k then some ⟨n, h⟩ else none

/-- A field that must hold `v`. -/
def is (v n : Nat) : Option Unit := if n = v then some () else none

def flag (n : Nat) : Option Bool := some (decide (n = 1))

/-- SLEEP.W's F (20 R334): the wait bit F[2] above the class. -/
def hi4 (n : Nat) : Option (Fin 4) := finOf 4 (n - 4)

/-- Operand codes of kind S (13 R222). -/
def sOpd (n : Nat) : Option SOpd :=
  if h : n < 32 then some (.r ⟨n, h⟩)
  else if 48 ≤ n then
    if h : n - 48 < 16 then some (.q ⟨(n - 48) / 2, by omega⟩ ⟨(n - 48) % 2, by omega⟩) else none
  else none

/-- Operand codes of kind V (13 R222). -/
def vOpd (n : Nat) : Option VOpd :=
  if 32 ≤ n then
    if h : n - 32 < 16 then some (.v ⟨n - 32, h⟩)
    else if h : n - 48 < 16 then some (.q ⟨(n - 48) / 2, by omega⟩ ⟨(n - 48) % 2, by omega⟩)
    else none
  else none

/-- Codes 32 to 47 (18 R306). -/
def vReg (n : Nat) : Option VReg := if 32 ≤ n then finOf 16 (n - 32) else none

def SOpd.code : SOpd → Nat
  | .r i => i.val
  | .q n k => 48 + 2 * n.val + k.val

def VOpd.code : VOpd → Nat
  | .v i => 32 + i.val
  | .q n k => 48 + 2 * n.val + k.val

def scope (n : Nat) : Option Scope :=
  match n with
  | 0 => some .core | 1 => some .quad | 2 => some .cluster | 3 => some .die
  | 4 => some .pkg | 5 => some .pod | 6 => some .sys | _ => none

def Scope.code : Scope → Nat
  | .core => 0 | .quad => 1 | .cluster => 2 | .die => 3 | .pkg => 4 | .pod => 5 | .sys => 6

def aFmt (n : Nat) : Option AFmt :=
  match n with
  | 0 => some .f64 | 1 => some .f32 | 2 => some .f16 | 3 => some .bf16 | _ => none

def AFmt.code : AFmt → Nat
  | .f64 => 0 | .f32 => 1 | .f16 => 2 | .bf16 => 3

/-- Type codes of 01 R12. -/
def fFmt (n : Nat) : Option FFmt :=
  match n with
  | 0 => some .f64 | 1 => some .f32 | 2 => some .f16 | 3 => some .bf16 | 4 => some .e4 | 5 => some .e5 | 6 => some .f4
  | _ => none

def FFmt.code : FFmt → Nat
  | .f64 => 0 | .f32 => 1 | .f16 => 2 | .bf16 => 3 | .e4 => 4 | .e5 => 5 | .f4 => 6

/-- Type codes of 01 R17. -/
def iFmt (n : Nat) : Option IFmt :=
  match n with
  | 0 => some .i64 | 1 => some .i32 | 2 => some .i16 | 3 => some .i8 | 4 => some .ui32 | 5 => some .ui8 | 6 => some .ts8
  | _ => none

def IFmt.code : IFmt → Nat
  | .i64 => 0 | .i32 => 1 | .i16 => 2 | .i8 => 3 | .ui32 => 4 | .ui8 => 5 | .ts8 => 6

def vFmt (n : Nat) : Option VFmt :=
  match n with
  | 0 => some .i64 | 1 => some .i32 | 2 => some .i16 | 3 => some .i8 | 4 => some .ui32 | 5 => some .ui8 | _ => none

def VFmt.code : VFmt → Nat
  | .i64 => 0 | .i32 => 1 | .i16 => 2 | .i8 => 3 | .ui32 => 4 | .ui8 => 5

def dFmt (n : Nat) : Option DFmt :=
  match n with
  | 1 => some .f32 | 2 => some .f16 | 3 => some .bf16 | _ => none

def DFmt.code : DFmt → Nat
  | .f32 => 1 | .f16 => 2 | .bf16 => 3

def diFmt (n : Nat) : Option DIFmt :=
  match n with
  | 2 => some .i16 | 3 => some .i8 | 5 => some .ui8 | _ => none

def DIFmt.code : DIFmt → Nat
  | .i16 => 2 | .i8 => 3 | .ui8 => 5

/-- A source format by class and type code, FCVT's B field (17 R298); [5:4] are reserved. -/
def srcFmt (n : Nat) : Option Fmt :=
  match n with
  | 0 => some .f64 | 1 => some .f32 | 2 => some .f16 | 3 => some .bf16 | 4 => some .e4 | 5 => some .e5 | 6 => some .f4
  | 8 => some .i64 | 9 => some .i32 | 10 => some .i16 | 11 => some .i8 | 12 => some .ui32 | 13 => some .ui8
  | 14 => some .ts8
  | _ => none

def Fmt.code : Fmt → Nat
  | .f64 => 0 | .f32 => 1 | .f16 => 2 | .bf16 => 3 | .e4 => 4 | .e5 => 5 | .f4 => 6
  | .i64 => 8 | .i32 => 9 | .i16 => 10 | .i8 => 11 | .ui32 => 12 | .ui8 => 13 | .ts8 => 14

/-- VCVT's B field (18 R318). -/
def pSrc (n : Nat) : Option PSrc := do
  let part ← finOf 4 (n / 16)
  let fmt ← srcFmt (n % 16)
  some ⟨part, fmt⟩

def PSrc.code (s : PSrc) : Nat := s.part.val * 16 + s.fmt.code

def rOp (n : Nat) : Option ROp :=
  match n with
  | 0 => some .sum | 1 => some .min | 2 => some .max | 3 => some .mean | _ => none

def ROp.code : ROp → Nat
  | .sum => 0 | .min => 1 | .max => 2 | .mean => 3

def rnd (n : Nat) : Option Rnd :=
  match n with
  | 0 => some .status | 1 => some .rne | 2 => some .rtz | 3 => some .sr | _ => none

def Rnd.code : Rnd → Nat
  | .status => 0 | .rne => 1 | .rtz => 2 | .sr => 3

/-! ### The maps -/

/-! Field shapes shared by several cells. -/

def fieldsC1 (cw : CWord) (mk : Fin 8 → Instr) : Option Instr := do
  is 0 (cw.d); is 0 (cw.s); is 0 (cw.t); is 0 (cw.f); let x0 ← finOf 8 (cw.g); some (mk x0)

def fieldsC2 (cw : CWord) (mk : XReg → Fin 8 → Instr) : Option Instr := do
  is 0 (cw.d); let x0 ← finOf 32 (cw.s); is 0 (cw.t); is 0 (cw.f); let x1 ← finOf 8 (cw.g); some (mk x0 x1)

def fieldsC3 (cw : CWord) (mk : BitVec 12 → Instr) : Option Instr := do
  is 0 (cw.d); is 0 (cw.s); let x0 := BitVec.ofNat 12 (cw.imm); some (mk x0)

def fieldsC4 (cw : CWord) (mk : SOpd → SOpd → SOpd → Fin 8 → Instr) : Option Instr := do
  let x0 ← sOpd (cw.d); let x1 ← sOpd (cw.s); let x2 ← sOpd (cw.t); let x3 ← finOf 8 (cw.g); some (mk x0 x1 x2 x3)

def fieldsC5 (cw : CWord) (mk : SOpd → SOpd → Fin 8 → Instr) : Option Instr := do
  let x0 ← sOpd (cw.d); let x1 ← sOpd (cw.s); is 0 (cw.t); let x2 ← finOf 8 (cw.g); some (mk x0 x1 x2)

def fieldsC6 (cw : CWord) (mk : PReg → SOpd → SOpd → Fin 8 → Instr) : Option Instr := do
  let x0 ← finOf 16 (cw.d); let x1 ← sOpd (cw.s); let x2 ← sOpd (cw.t); let x3 ← finOf 8 (cw.g); some (mk x0 x1 x2 x3)

def fieldsC7 (cw : CWord) (mk : XReg → Fin 8 → Instr) : Option Instr := do
  let x0 ← finOf 32 (cw.d); is 0 (cw.s); is 0 (cw.t); is 0 (cw.f); let x1 ← finOf 8 (cw.g); some (mk x0 x1)

def fieldsC8 (cw : CWord) (mk : XReg → XReg → Fin 8 → Instr) : Option Instr := do
  let x0 ← finOf 32 (cw.d); let x1 ← finOf 32 (cw.s); is 0 (cw.t); let x2 ← finOf 8 (cw.g); some (mk x0 x1 x2)

def fieldsC9 (cw : CWord) (mk : SOpd → SOpd → BitVec 12 → Instr) : Option Instr := do
  let x0 ← sOpd (cw.d); let x1 ← sOpd (cw.s); let x2 := BitVec.ofNat 12 (cw.imm); some (mk x0 x1 x2)

def fieldsC10 (cw : CWord) (mk : SOpd → SOpd → Fin 64 → Instr) : Option Instr := do
  let x0 ← sOpd (cw.d); let x1 ← sOpd (cw.s); let x2 ← finOf 64 (cw.imm); some (mk x0 x1 x2)

def fieldsC11 (cw : CWord) (mk : PReg → SOpd → BitVec 12 → Instr) : Option Instr := do
  let x0 ← finOf 16 (cw.d); let x1 ← sOpd (cw.s); let x2 := BitVec.ofNat 12 (cw.imm); some (mk x0 x1 x2)

def fieldsC12 (cw : CWord) (mk : XReg → XReg → BitVec 12 → Instr) : Option Instr := do
  let x0 ← finOf 32 (cw.d); let x1 ← finOf 32 (cw.s); let x2 := BitVec.ofNat 12 (cw.imm); some (mk x0 x1 x2)

def fieldsC13 (cw : CWord) (mk : SOpd → XReg → BitVec 12 → Instr) : Option Instr := do
  let x0 ← sOpd (cw.d); let x1 ← finOf 32 (cw.s); let x2 := BitVec.ofNat 12 (cw.imm); some (mk x0 x1 x2)

def fieldsC14 (cw : CWord) (mk : XReg → XReg → SOpd → Fin 2 → Fin 8 → Instr) : Option Instr := do
  let x0 ← finOf 32 (cw.d); let x1 ← finOf 32 (cw.s); let x2 ← sOpd (cw.t); let x3 ← finOf 2 (cw.f)
  let x4 ← finOf 8 (cw.g); some (mk x0 x1 x2 x3 x4)

def fieldsC15 (cw : CWord) (mk : XReg → Fin 8 → Instr) : Option Instr := do
  is 0 (cw.d); let x0 ← finOf 32 (cw.s); is 0 (cw.t); let x1 ← finOf 8 (cw.g); some (mk x0 x1)

def fieldsC16 (cw : CWord) (mk : XReg → XReg → SOpd → Fin 8 → Instr) : Option Instr := do
  let x0 ← finOf 32 (cw.d); let x1 ← finOf 32 (cw.s); let x2 ← sOpd (cw.t); is 0 (cw.f); let x3 ← finOf 8 (cw.g)
  some (mk x0 x1 x2 x3)

def fieldsC17 (cw : CWord) (mk : XReg → Fin 8 → Instr) : Option Instr := do
  let x0 ← finOf 32 (cw.d); is 0 (cw.s); is 0 (cw.t); let x1 ← finOf 8 (cw.g); some (mk x0 x1)

def fieldsC18 (cw : CWord) (mk : XReg → BitVec 12 → Instr) : Option Instr := do
  is 0 (cw.d); let x0 ← finOf 32 (cw.s); let x1 := BitVec.ofNat 12 (cw.imm); some (mk x0 x1)

def fieldsC19 (cw : CWord) (mk : PReg → PReg → PReg → Fin 8 → Instr) : Option Instr := do
  let x0 ← finOf 16 (cw.d); let x1 ← finOf 16 (cw.s); let x2 ← finOf 16 (cw.t); let x3 ← finOf 8 (cw.g)
  some (mk x0 x1 x2 x3)

def fieldsA1 (cw : AWord) (mk : AFmt → SOpd → SOpd → SOpd → Rnd → Instr) : Option Instr := do
  let x0 ← aFmt (cw.ty); let x1 ← sOpd (cw.d); let x2 ← sOpd (cw.a); let x3 ← sOpd (cw.b); is 0 (cw.m)
  let x4 ← rnd (cw.r); some (mk x0 x1 x2 x3 x4)

def fieldsA2 (cw : AWord) (mk : AFmt → SOpd → SOpd → SOpd → Instr) : Option Instr := do
  let x0 ← aFmt (cw.ty); let x1 ← sOpd (cw.d); let x2 ← sOpd (cw.a); let x3 ← sOpd (cw.b); is 0 (cw.m); is 0 (cw.r)
  some (mk x0 x1 x2 x3)

def fieldsA3 (cw : AWord) (mk : AFmt → SOpd → SOpd → Instr) : Option Instr := do
  let x0 ← aFmt (cw.ty); let x1 ← sOpd (cw.d); let x2 ← sOpd (cw.a); is 0 (cw.b); is 0 (cw.m); is 0 (cw.r)
  some (mk x0 x1 x2)

def fieldsA4 (cw : AWord) (mk : AFmt → VOpd → VOpd → VOpd → MReg → Rnd → Instr) : Option Instr := do
  let x0 ← aFmt (cw.ty); let x1 ← vOpd (cw.d); let x2 ← vOpd (cw.a); let x3 ← vOpd (cw.b); let x4 ← finOf 4 (cw.m)
  let x5 ← rnd (cw.r); some (mk x0 x1 x2 x3 x4 x5)

def fieldsA5 (cw : AWord) (mk : AFmt → VOpd → VOpd → MReg → Instr) : Option Instr := do
  let x0 ← aFmt (cw.ty); let x1 ← vOpd (cw.d); let x2 ← vOpd (cw.a); is 0 (cw.b); let x3 ← finOf 4 (cw.m); is 0 (cw.r)
  some (mk x0 x1 x2 x3)

def fieldsA6 (cw : AWord) (mk : AFmt → VOpd → VOpd → MReg → Rnd → Instr) : Option Instr := do
  let x0 ← aFmt (cw.ty); let x1 ← vOpd (cw.d); let x2 ← vOpd (cw.a); is 0 (cw.b); let x3 ← finOf 4 (cw.m)
  let x4 ← rnd (cw.r); some (mk x0 x1 x2 x3 x4)

def fieldsA7 (cw : AWord) (mk : VFmt → VOpd → VOpd → VOpd → MReg → Instr) : Option Instr := do
  let x0 ← vFmt (cw.ty); let x1 ← vOpd (cw.d); let x2 ← vOpd (cw.a); let x3 ← vOpd (cw.b); let x4 ← finOf 4 (cw.m)
  is 0 (cw.r); some (mk x0 x1 x2 x3 x4)

def fieldsL1 (cw : LWord) (mk : XReg → Fin 4 → Instr) : Option Instr := do
  is 0 (cw.w0); let x0 ← finOf 32 (cw.w1 / 2 ^ 26); let x1 ← finOf 4 (cw.w1 / 2 ^ 24 % 2 ^ 2); is 0 (cw.w1 % 2 ^ 24)
  some (mk x0 x1)

def fieldsL2 (cw : LWord) (mk : XReg → XReg → XReg → Fin 32 → Instr) : Option Instr := do
  is 0 (cw.w0); let x0 ← finOf 32 (cw.w1 / 2 ^ 26); let x1 ← finOf 32 (cw.w1 / 2 ^ 20 % 2 ^ 6)
  let x2 ← finOf 32 (cw.w1 / 2 ^ 14 % 2 ^ 6); let x3 ← finOf 32 (cw.w1 / 2 ^ 9 % 2 ^ 5); is 0 (cw.w1 % 2 ^ 9)
  some (mk x0 x1 x2 x3)

/-- The C-slot map (13 R227, R228) with each entry's fields; a field the entry does not assign is 0. -/
def decodeCFields (cw : CWord) : Option Instr :=
  match cw.op with
  | 0x00 => fieldsC1 cw .cnop
  | 0x01 => do
    is 0 (cw.pred); is 0 (cw.sense); let off := BitVec.ofNat 19 (cw.off); some (.br off)
  | 0x02 => do
    let p ← finOf 16 (cw.pred); let sense ← flag (cw.sense); let off := BitVec.ofNat 19 (cw.off)
    some (.brp p sense off)
  | 0x03 => do
    is 0 (cw.pred); is 0 (cw.sense); let off := BitVec.ofNat 19 (cw.off); some (.call off)
  | 0x04 => do
    let c ← finOf 16 (cw.pred); is 0 (cw.sense); let off := BitVec.ofNat 19 (cw.off); some (.loop c off)
  | 0x05 => fieldsC2 cw .calli
  | 0x06 => fieldsC2 cw .ret
  | 0x07 => fieldsC2 cw .jmpi
  | 0x08 => fieldsC1 cw .exit
  | 0x09 => fieldsC3 cw .trap
  | 0x0a => fieldsC3 cw .brk
  | 0x0b => fieldsC1 cw .eret
  | 0x0c => fieldsC1 cw .ifence
  | 0x0d => fieldsC1 cw .pfence
  | 0x0e => do
    is 0 (cw.d); is 0 (cw.s); is 0 (cw.t); let sc ← scope (cw.f); let g ← finOf 8 (cw.g); some (.fence sc g)
  | 0x10 =>
    match cw.f with
    | 0 => fieldsC4 cw .add
    | 1 => fieldsC4 cw .sub
    | 2 => fieldsC4 cw .andC
    | 3 => fieldsC4 cw .orC
    | 4 => fieldsC4 cw .xorC
    | 5 => fieldsC4 cw .andn
    | _ => none
  | 0x11 =>
    match cw.f with
    | 0 => fieldsC4 cw .mul
    | 1 => fieldsC4 cw .mulhs
    | 2 => fieldsC4 cw .mulhu
    | 3 => fieldsC4 cw .divs
    | 4 => fieldsC4 cw .divu
    | 5 => fieldsC4 cw .rems
    | 6 => fieldsC4 cw .remu
    | _ => none
  | 0x12 =>
    match cw.f with
    | 0 => fieldsC4 cw .shl
    | 1 => fieldsC4 cw .shr
    | 2 => fieldsC4 cw .sha
    | 3 => fieldsC4 cw .rotr
    | _ => none
  | 0x13 =>
    match cw.f with
    | 0 => fieldsC4 cw .mins
    | 1 => fieldsC4 cw .maxs
    | 2 => fieldsC4 cw .minu
    | 3 => fieldsC4 cw .maxu
    | _ => none
  | 0x14 =>
    match cw.f with
    | 0 => fieldsC5 cw .clz
    | 1 => fieldsC5 cw .ctz
    | 2 => fieldsC5 cw .popc
    | 3 => fieldsC5 cw .brev
    | _ => none
  | 0x15 =>
    match cw.f with
    | 0 => fieldsC5 cw .sextB
    | 1 => fieldsC5 cw .sextH
    | 2 => fieldsC5 cw .sextW
    | 4 => fieldsC5 cw .zextB
    | 5 => fieldsC5 cw .zextH
    | 6 => fieldsC5 cw .zextW
    | _ => none
  | 0x16 => do
    let d ← sOpd (cw.d); let a ← sOpd (cw.s); is 0 (cw.t); is 0 (cw.f); let g ← finOf 8 (cw.g); some (.mov d a g)
  | 0x17 => do
    let d ← sOpd (cw.d); let a ← sOpd (cw.s); let b ← sOpd (cw.t); let p ← finOf 8 (cw.f); let g ← finOf 8 (cw.g)
    some (.sel d a b p g)
  | 0x18 => do
    let d ← sOpd (cw.d); let a ← sOpd (cw.s); let b ← sOpd (cw.t); let k ← finOf 4 (cw.f); let g ← finOf 8 (cw.g)
    some (.lea d a b k g)
  | 0x19 =>
    match cw.f with
    | 0 => fieldsC6 cw .cmpEq
    | 1 => fieldsC6 cw .cmpNe
    | 2 => fieldsC6 cw .cmpLt
    | 3 => fieldsC6 cw .cmpGe
    | 4 => fieldsC6 cw .cmpLtu
    | 5 => fieldsC6 cw .cmpGeu
    | _ => none
  | 0x1a =>
    match cw.f with
    | 0 => fieldsC4 cw .bext
    | 1 => fieldsC4 cw .bextS
    | _ => none
  | 0x1b => do
    let d ← sOpd (cw.d); let a ← sOpd (cw.s); let b ← sOpd (cw.t); is 0 (cw.f); let g ← finOf 8 (cw.g)
    some (.bins d a b g)
  | 0x1c => do
    is 0 (cw.d); let s ← sOpd (cw.s); is 0 (cw.t); is 0 (cw.f); let g ← finOf 8 (cw.g); some (.tremit s g)
  | 0x1d => do
    is 0 (cw.d); let s ← sOpd (cw.s); is 0 (cw.t); is 0 (cw.f); let g ← finOf 8 (cw.g); some (.rpush s g)
  | 0x1e => fieldsC7 cw .rpop
  | 0x1f =>
    match cw.f with
    | 0 => do
      let d ← finOf 32 (cw.d); let a ← finOf 32 (cw.s); let b ← finOf 32 (cw.t); let g ← finOf 8 (cw.g)
      some (.ctxs d a b g)
    | 1 => do
      let d ← finOf 32 (cw.d); let a ← finOf 32 (cw.s); let b ← finOf 32 (cw.t); let g ← finOf 8 (cw.g)
      some (.ctxsResume d a b g)
    | 2 => fieldsC8 cw .ctxsSize
    | _ => none
  | 0x20 => fieldsC9 cw .addi
  | 0x21 => fieldsC9 cw .andi
  | 0x22 => fieldsC9 cw .ori
  | 0x23 => fieldsC9 cw .xori
  | 0x24 => fieldsC10 cw .shli
  | 0x25 => fieldsC10 cw .shri
  | 0x26 => fieldsC10 cw .shai
  | 0x27 => do
    let d ← sOpd (cw.d); is 0 (cw.s); let imm := BitVec.ofNat 12 (cw.imm); some (.movi d imm)
  | 0x28 => fieldsC11 cw .cmpiEq
  | 0x29 => fieldsC11 cw .cmpiNe
  | 0x2a => fieldsC11 cw .cmpiLt
  | 0x2b => fieldsC11 cw .cmpiGe
  | 0x2c => fieldsC11 cw .cmpiLtu
  | 0x2d => fieldsC11 cw .cmpiGeu
  | 0x30 => fieldsC12 cw .ldBZ
  | 0x31 => fieldsC12 cw .ldBS
  | 0x32 => fieldsC12 cw .ldHZ
  | 0x33 => fieldsC12 cw .ldHS
  | 0x34 => fieldsC12 cw .ldWZ
  | 0x35 => fieldsC12 cw .ldWS
  | 0x36 => fieldsC12 cw .ldD
  | 0x37 => fieldsC12 cw .ldAcq
  | 0x38 => fieldsC13 cw .stB
  | 0x39 => fieldsC13 cw .stH
  | 0x3a => fieldsC13 cw .stW
  | 0x3b => fieldsC13 cw .stD
  | 0x3c => fieldsC13 cw .stRel
  | 0x3d => do
    let d ← vReg (cw.d); let b ← finOf 32 (cw.s); let imm := BitVec.ofNat 12 (cw.imm); some (.ldv d b imm)
  | 0x3e => do
    let v ← vOpd (cw.d); let b ← finOf 32 (cw.s); let imm := BitVec.ofNat 12 (cw.imm); some (.stv v b imm)
  | 0x40 => fieldsC14 cw .aadd
  | 0x41 => fieldsC14 cw .afadd
  | 0x42 => do
    let d ← finOf 32 (cw.d); let b ← finOf 32 (cw.s); let v ← sOpd (cw.t); let z ← finOf 4 (cw.f)
    let g ← finOf 8 (cw.g); some (.amin d b v z g)
  | 0x43 => do
    let d ← finOf 32 (cw.d); let b ← finOf 32 (cw.s); let v ← sOpd (cw.t); let z ← finOf 4 (cw.f)
    let g ← finOf 8 (cw.g); some (.amax d b v z g)
  | 0x44 => fieldsC14 cw .aand
  | 0x45 => fieldsC14 cw .aor
  | 0x46 => fieldsC14 cw .axor
  | 0x47 => fieldsC14 cw .axchg
  | 0x48 => fieldsC14 cw .acas
  | 0x49 =>
    match cw.f with
    | 0 => fieldsC15 cw .lock
    | 1 => fieldsC8 cw .lockStatus
    | _ => none
  | 0x4a =>
    match cw.f with
    | 0 => fieldsC15 cw .unlock
    | 1 => fieldsC8 cw .unlockStatus
    | _ => none
  | 0x4b => fieldsC16 cw .nadd
  | 0x4c => fieldsC16 cw .ncas
  | 0x4d =>
    match cw.f with
    | 0 => fieldsC17 cw .mzeroFlt
    | 1 => fieldsC17 cw .mzeroInt
    | _ => none
  | 0x4e => fieldsC7 cw .mstat
  | 0x4f => fieldsC3 cw .mhint
  | 0x50 => fieldsC12 cw .ldnW
  | 0x51 => fieldsC12 cw .ldnD
  | 0x52 => fieldsC13 cw .stnW
  | 0x53 => fieldsC13 cw .stnD
  | 0x54 => do
    let d ← vReg (cw.d); let b ← finOf 32 (cw.s); let imm := BitVec.ofNat 12 (cw.imm); some (.vldn d b imm)
  | 0x55 => do
    let v ← vOpd (cw.d); let b ← finOf 32 (cw.s); let imm := BitVec.ofNat 12 (cw.imm); some (.vstn v b imm)
  | 0x56 => fieldsC12 cw .ldf
  | 0x57 => fieldsC12 cw .ldfe
  | 0x58 => fieldsC13 cw .ste
  | 0x59 => fieldsC13 cw .stf
  | 0x5a => fieldsC18 cw .feclr
  | 0x5b => fieldsC18 cw .feset
  | 0x5c => fieldsC12 cw .feq
  | 0x5d => fieldsC18 cw .claim
  | 0x5e => do
    is 0 (cw.d); let s ← finOf 16 (cw.s); is 0 (cw.t); is 0 (cw.f); let g ← finOf 8 (cw.g); some (.flue s g)
  | 0x60 =>
    match cw.f with
    | 0 => do
      let a ← sOpd (cw.d); let t ← finOf 32 (cw.s); let b ← sOpd (cw.t); let g ← finOf 8 (cw.g); some (.send a t b g)
    | 1 => do
      let a ← sOpd (cw.d); let t ← finOf 32 (cw.s); let b ← sOpd (cw.t); let g ← finOf 8 (cw.g); some (.sendT a t b g)
    | _ => none
  | 0x61 => do
    let d ← finOf 32 (cw.d); is 0 (cw.s); let e ← finOf 32 (cw.t); let f ← finOf 8 (cw.f); let g ← finOf 8 (cw.g)
    some (.recv d e f g)
  | 0x62 => do
    let d ← finOf 32 (cw.d); let s ← finOf 32 (cw.s); let e ← finOf 32 (cw.t); let f ← finOf 8 (cw.f)
    let g ← finOf 8 (cw.g); some (.recvs d s e f g)
  | 0x63 => do
    let d ← finOf 32 (cw.d); let s ← finOf 32 (cw.s); let e ← finOf 32 (cw.t); let f ← finOf 8 (cw.f)
    let g ← finOf 8 (cw.g); some (.waitm d s e f g)
  | 0x64 => fieldsC16 cw .putr
  | 0x65 => fieldsC7 cw .pclr
  | 0x66 => do
    let d ← finOf 32 (cw.d); let s ← finOf 32 (cw.s); is 0 (cw.t); is 0 (cw.f); let g ← finOf 8 (cw.g)
    some (.ptst d s g)
  | 0x67 => do
    is 0 (cw.d); is 0 (cw.s); is 0 (cw.t); let q ← finOf 8 (cw.f); let g ← finOf 8 (cw.g); some (.qunbind q g)
  | 0x68 => do
    is 0 (cw.d); is 0 (cw.s); let k ← finOf 8 (cw.t); let q ← finOf 8 (cw.f); let g ← finOf 8 (cw.g)
    some (.qpop k q g)
  | 0x69 => do
    is 0 (cw.d); is 0 (cw.s); let k ← finOf 8 (cw.t); let q ← finOf 8 (cw.f); let g ← finOf 8 (cw.g)
    some (.qpush k q g)
  | 0x6a => do
    let d ← finOf 32 (cw.d); is 0 (cw.s); is 0 (cw.t); let q ← finOf 8 (cw.f); let g ← finOf 8 (cw.g)
    some (.qstat d q g)
  | 0x6b => fieldsC1 cw .qfwd
  | 0x6c => fieldsC7 cw .qseam
  | 0x6d => do
    is 0 (cw.d); let b ← finOf 32 (cw.s); let n ← finOf 32 (cw.t); is 0 (cw.f); let g ← finOf 8 (cw.g)
    some (.qinherit b n g)
  | 0x6e => fieldsC1 cw .markret
  | 0x70 =>
    match cw.f with
    | 0 => fieldsC19 cw .pand
    | 1 => fieldsC19 cw .por
    | 2 => fieldsC19 cw .pxor
    | 3 => do
      let d ← finOf 16 (cw.d); let a ← finOf 16 (cw.s); is 0 (cw.t); let g ← finOf 8 (cw.g); some (.pnot d a g)
    | 4 => do
      let d ← finOf 16 (cw.d); let a ← finOf 16 (cw.s); is 0 (cw.t); let g ← finOf 8 (cw.g); some (.pmov d a g)
    | _ => none
  | 0x71 => do
    is 0 (cw.d); is 0 (cw.s); let b ← finOf 16 (cw.t); let sc ← scope (cw.f); let g ← finOf 8 (cw.g)
    some (.bar b sc g)
  | 0x72 => do
    let d ← finOf 32 (cw.d); is 0 (cw.s); let b ← finOf 16 (cw.t); let sc ← scope (cw.f); let g ← finOf 8 (cw.g)
    some (.bara d b sc g)
  | 0x73 => do
    is 0 (cw.d); let s ← finOf 32 (cw.s); let b ← finOf 16 (cw.t); let sc ← scope (cw.f); let g ← finOf 8 (cw.g)
    some (.barw s b sc g)
  | 0x74 =>
    match cw.f with
    | 0 => fieldsC17 cw .emb
    | 1 => fieldsC17 cw .embHearth
    | _ => none
  | 0x75 => do
    is 0 (cw.d); is 0 (cw.s); is 0 (cw.t); let n ← finOf 8 (cw.f); let g ← finOf 8 (cw.g); some (.gang n g)
  | 0x76 => fieldsC1 cw .gangw
  | 0x77 => fieldsC1 cw .disband
  | 0x78 =>
    match cw.f with
    | 0 => do
      let d ← finOf 32 (cw.d); let w ← finOf 32 (cw.s); let c ← finOf 4 (cw.t); let g ← finOf 8 (cw.g)
      some (.tqpush d w c g)
    | 1 => do
      let d ← finOf 32 (cw.d); is 0 (cw.s); let e ← finOf 32 (cw.t); let g ← finOf 8 (cw.g); some (.tqpop d e g)
    | 2 => do
      let d ← finOf 32 (cw.d); is 0 (cw.s); let e ← finOf 32 (cw.t); let g ← finOf 8 (cw.g); some (.tqpeek d e g)
    | _ => none
  | 0x79 =>
    match cw.f with
    | 0 | 1 | 2 | 3 => do
      let d ← finOf 32 (cw.d); let w ← finOf 32 (cw.s); let t ← finOf 32 (cw.t); let c ← finOf 4 (cw.f)
      let g ← finOf 8 (cw.g); some (.sleep d w t c g)
    | 4 | 5 | 6 | 7 => do
      let d ← finOf 32 (cw.d); let w ← finOf 32 (cw.s); let t ← finOf 32 (cw.t); let c ← hi4 (cw.f)
      let g ← finOf 8 (cw.g); some (.sleepW d w t c g)
    | _ => none
  | 0x7a =>
    match cw.f with
    | 0 => fieldsC8 cw .timer
    | 1 => fieldsC8 cw .timerAbs
    | 2 => fieldsC17 cw .timerOff
    | _ => none
  | 0x7b => do
    let d ← finOf 32 (cw.d); is 0 (cw.s); let n ← finOf 64 (cw.t); is 0 (cw.f); let g ← finOf 8 (cw.g)
    some (.mfs d n g)
  | 0x7c => do
    is 0 (cw.d); let s ← finOf 32 (cw.s); let n ← finOf 64 (cw.t); is 0 (cw.f); let g ← finOf 8 (cw.g)
    some (.mts s n g)
  | 0x7d =>
    match cw.f with
    | 0 => do
      is 0 (cw.d); let b ← finOf 32 (cw.s); let n ← finOf 8 (cw.t); let g ← finOf 8 (cw.g); some (.segld b n g)
    | 1 => do
      is 0 (cw.d); let b ← finOf 32 (cw.s); let n ← finOf 8 (cw.t); let g ← finOf 8 (cw.g); some (.segst b n g)
    | _ => none
  | 0x7e => do
    is 0 (cw.d); let s ← finOf 32 (cw.s); is 0 (cw.t); let sc ← scope (cw.f); let g ← finOf 8 (cw.g)
    some (.tlbi s sc g)
  | 0x7f =>
    match cw.f with
    | 0 => fieldsC15 cw .pgrep
    | 1 => fieldsC15 cw .pgrepFail
    | _ => none
  | _ => none

/-- The A-slot map (13 R229) with each entry's fields. -/
def decodeAFields (cw : AWord) : Option Instr :=
  match cw.op with
  | 0x00 => do
    is 0 (cw.ty); is 0 (cw.d); is 0 (cw.a); is 0 (cw.b); is 0 (cw.m); is 0 (cw.r); some (.anop)
  | 0x01 => fieldsA1 cw .fadd
  | 0x02 => fieldsA1 cw .fsub
  | 0x03 => fieldsA1 cw .fmul
  | 0x04 => fieldsA1 cw .fma
  | 0x05 => fieldsA1 cw .fdiv
  | 0x06 => do
    let ty ← aFmt (cw.ty); let d ← sOpd (cw.d); let a ← sOpd (cw.a); is 0 (cw.b); is 0 (cw.m); let r ← rnd (cw.r)
    some (.fsqrt ty d a r)
  | 0x07 => fieldsA2 cw .fmin
  | 0x08 => fieldsA2 cw .fmax
  | 0x09 => fieldsA3 cw .fabs
  | 0x0a => fieldsA3 cw .fneg
  | 0x0b => fieldsA2 cw .fsgn
  | 0x0c => fieldsA2 cw .fcmp
  | 0x0d => fieldsA3 cw .fclass
  | 0x0e => do
    let ty ← fFmt (cw.ty); let d ← sOpd (cw.d); let a ← sOpd (cw.a); let src ← srcFmt (cw.b); is 0 (cw.m)
    let r ← rnd (cw.r); some (.fcvtF ty d a src r)
  | 0x4e => do
    let ty ← iFmt (cw.ty); let d ← sOpd (cw.d); let a ← sOpd (cw.a); let src ← srcFmt (cw.b); is 0 (cw.m)
    let r ← rnd (cw.r); some (.fcvtI ty d a src r)
  | 0x10 => fieldsA4 cw .vaddF
  | 0x11 => fieldsA4 cw .vsubF
  | 0x12 => fieldsA4 cw .vmulF
  | 0x13 => do
    let ty ← aFmt (cw.ty); let d ← vReg (cw.d); let a ← vOpd (cw.a); let b ← vOpd (cw.b); let m ← finOf 4 (cw.m)
    let r ← rnd (cw.r); some (.vfma ty d a b m r)
  | 0x14 => do
    let ty ← aFmt (cw.ty); let d ← vReg (cw.d); let a ← vOpd (cw.a); let b ← vOpd (cw.b); let m ← finOf 4 (cw.m)
    let r ← rnd (cw.r); some (.vfms ty d a b m r)
  | 0x15 => do
    let ty ← aFmt (cw.ty); let d ← vOpd (cw.d); let a ← vOpd (cw.a); let b ← vOpd (cw.b); let m ← finOf 4 (cw.m)
    is 0 (cw.r); some (.vminF ty d a b m)
  | 0x16 => do
    let ty ← aFmt (cw.ty); let d ← vOpd (cw.d); let a ← vOpd (cw.a); let b ← vOpd (cw.b); let m ← finOf 4 (cw.m)
    is 0 (cw.r); some (.vmaxF ty d a b m)
  | 0x17 => fieldsA5 cw .vabsF
  | 0x18 => fieldsA5 cw .vnegF
  | 0x19 => fieldsA4 cw .vdiv
  | 0x1a => fieldsA6 cw .vsqrt
  | 0x1b => fieldsA6 cw .vrcp
  | 0x1c => fieldsA6 cw .vrsq
  | 0x1d => do
    let ty ← dFmt (cw.ty); let d ← vReg (cw.d); let a ← vOpd (cw.a); let b ← vOpd (cw.b); let m ← finOf 4 (cw.m)
    let r ← rnd (cw.r); some (.vdotF ty d a b m r)
  | 0x20 => fieldsA5 cw .vexp2
  | 0x21 => fieldsA5 cw .vlog2
  | 0x22 => fieldsA5 cw .vsin
  | 0x23 => fieldsA5 cw .vcos
  | 0x24 => fieldsA5 cw .vtanh
  | 0x28 => fieldsA7 cw .vand
  | 0x29 => fieldsA7 cw .vor
  | 0x2a => fieldsA7 cw .vxor
  | 0x2b => fieldsA7 cw .vshl
  | 0x2c => fieldsA7 cw .vshr
  | 0x2d => fieldsA7 cw .vsha
  | 0x30 => do
    let ty ← aFmt (cw.ty); let md ← finOf 64 (cw.d); let a ← vOpd (cw.a); let b ← vOpd (cw.b); let m ← finOf 4 (cw.m)
    is 0 (cw.r); some (.vcmpF ty md a b m)
  | 0x31 => fieldsA7 cw .vsel
  | 0x32 => do
    let ty ← fFmt (cw.ty); let d ← vOpd (cw.d); let a ← vOpd (cw.a); let src ← pSrc (cw.b); let m ← finOf 4 (cw.m)
    let r ← rnd (cw.r); some (.vcvtF ty d a src m r)
  | 0x33 => do
    let ty ← vFmt (cw.ty); let d ← vOpd (cw.d); let s ← sOpd (cw.a); is 0 (cw.b); let m ← finOf 4 (cw.m); is 0 (cw.r)
    some (.vbcast ty d s m)
  | 0x34 => fieldsA7 cw .vperm
  | 0x35 => do
    let ty ← aFmt (cw.ty); let d ← vOpd (cw.d); let a ← vOpd (cw.a); let op ← rOp (cw.b); let m ← finOf 4 (cw.m)
    let r ← rnd (cw.r); some (.vredF ty d a op m r)
  | 0x36 => do
    let ty ← fFmt (cw.ty); let d ← sOpd (cw.d); let a ← vOpd (cw.a); is 0 (cw.b); let m ← finOf 4 (cw.m); is 0 (cw.r)
    some (.vcntF ty d a m)
  | 0x37 => do
    let ty ← fFmt (cw.ty); let md ← finOf 4 (cw.d); let a ← vOpd (cw.a); is 0 (cw.b); let m ← finOf 4 (cw.m)
    is 0 (cw.r); some (.visabF ty md a m)
  | 0x38 => do
    let ty ← fFmt (cw.ty); let d ← vOpd (cw.d); let a ← vOpd (cw.a); let n ← finOf 32 (cw.b); let m ← finOf 4 (cw.m)
    is 0 (cw.r); some (.vmkabF ty d a n m)
  | 0x39 =>
    match cw.b with
    | 0 => do
      let ty ← vFmt (cw.ty); let d ← vOpd (cw.d); let a ← vOpd (cw.a); let m ← finOf 4 (cw.m); is 0 (cw.r)
      some (.vmov ty d a m)
    | 1 => do
      is 0 (cw.ty); let md ← finOf 4 (cw.d); let s ← finOf 32 (cw.a); is 0 (cw.m); is 0 (cw.r)
      some (.vmovToMask md s)
    | 2 => do
      is 0 (cw.ty); let d ← finOf 32 (cw.d); let ms ← finOf 4 (cw.a); is 0 (cw.m); is 0 (cw.r)
      some (.vmovFromMask d ms)
    | _ => none
  | 0x3a => do
    let ty ← vFmt (cw.ty); let d ← sOpd (cw.d); let a ← vOpd (cw.a); let i ← finOf 32 (cw.b); let m ← finOf 4 (cw.m)
    is 0 (cw.r); some (.vext ty d a i m)
  | 0x3b => do
    let ty ← vFmt (cw.ty); let d ← vReg (cw.d); let s ← sOpd (cw.a); let i ← finOf 32 (cw.b); let m ← finOf 4 (cw.m)
    is 0 (cw.r); some (.vins ty d s i m)
  | 0x3c => do
    is 0 (cw.ty); let d ← vReg (cw.d); let a ← vReg (cw.a); let dp ← finOf 32 (cw.b); let m ← finOf 4 (cw.m)
    is 0 (cw.r); some (.xld d a dp m)
  | 0x3d => do
    let ty ← aFmt (cw.ty); let d ← vOpd (cw.d); let k ← finOf 32 (cw.a); let i ← finOf 32 (cw.b)
    let m ← finOf 4 (cw.m); is 0 (cw.r); some (.vrngF ty d k i m)
  | 0x50 => fieldsA7 cw .vaddI
  | 0x51 => fieldsA7 cw .vsubI
  | 0x52 => fieldsA7 cw .vmulI
  | 0x55 => fieldsA7 cw .vminI
  | 0x56 => fieldsA7 cw .vmaxI
  | 0x57 => do
    let ty ← vFmt (cw.ty); let d ← vOpd (cw.d); let a ← vOpd (cw.a); is 0 (cw.b); let m ← finOf 4 (cw.m); is 0 (cw.r)
    some (.vabsI ty d a m)
  | 0x58 => do
    let ty ← vFmt (cw.ty); let d ← vOpd (cw.d); let a ← vOpd (cw.a); is 0 (cw.b); let m ← finOf 4 (cw.m); is 0 (cw.r)
    some (.vnegI ty d a m)
  | 0x5d => do
    let ty ← diFmt (cw.ty); let d ← vReg (cw.d); let a ← vOpd (cw.a); let b ← vOpd (cw.b); let m ← finOf 4 (cw.m)
    is 0 (cw.r); some (.vdotI ty d a b m)
  | 0x70 => do
    let ty ← vFmt (cw.ty); let md ← finOf 64 (cw.d); let a ← vOpd (cw.a); let b ← vOpd (cw.b); let m ← finOf 4 (cw.m)
    is 0 (cw.r); some (.vcmpI ty md a b m)
  | 0x72 => do
    let ty ← iFmt (cw.ty); let d ← vOpd (cw.d); let a ← vOpd (cw.a); let src ← pSrc (cw.b); let m ← finOf 4 (cw.m)
    let r ← rnd (cw.r); some (.vcvtI ty d a src m r)
  | 0x75 => do
    let ty ← vFmt (cw.ty); let d ← vOpd (cw.d); let a ← vOpd (cw.a); let op ← rOp (cw.b); let m ← finOf 4 (cw.m)
    is 0 (cw.r); some (.vredI ty d a op m)
  | 0x76 => do
    let ty ← vFmt (cw.ty); let d ← sOpd (cw.d); let a ← vOpd (cw.a); is 0 (cw.b); let m ← finOf 4 (cw.m); is 0 (cw.r)
    some (.vcntI ty d a m)
  | 0x77 => do
    let ty ← vFmt (cw.ty); let md ← finOf 4 (cw.d); let a ← vOpd (cw.a); is 0 (cw.b); let m ← finOf 4 (cw.m)
    is 0 (cw.r); some (.visabI ty md a m)
  | 0x78 => do
    let ty ← vFmt (cw.ty); let d ← vOpd (cw.d); let a ← vOpd (cw.a); let n ← finOf 32 (cw.b); let m ← finOf 4 (cw.m)
    is 0 (cw.r); some (.vmkabI ty d a n m)
  | 0x7d => do
    let ty ← vFmt (cw.ty); let d ← vOpd (cw.d); let k ← finOf 32 (cw.a); let i ← finOf 32 (cw.b)
    let m ← finOf 4 (cw.m); is 0 (cw.r); some (.vrngI ty d k i m)
  | _ => none

/-- The lone map (13 R230) with each entry's fields (16 R264, R278, R284; 17 R292; 19 R326; 20 R334). -/
noncomputable def decodeLFields (cw : LWord) : Option Instr :=
  match cw.op with
  | 0x00 =>
    match cw.w0 / 2 ^ 16 % 2 ^ 1 with
    | 0 => do
      let d ← finOf 32 (cw.w0 / 2 ^ 17); let hi := BitVec.ofNat 16 (cw.w0 % 2 ^ 16); let lo := BitVec.ofNat 32 (cw.w1)
      some (.movw d hi lo)
    | 1 => do
      let d ← finOf 32 (cw.w0 / 2 ^ 17); is 0 (cw.w0 % 2 ^ 16); is 0 (cw.w1 / 2 ^ 16)
      let imm := BitVec.ofNat 16 (cw.w1 % 2 ^ 16); some (.movwHi d imm)
    | _ => none
  | 0x01 => do
    let q ← finOf 8 (cw.w0 / 2 ^ 20); let kind ← finOf 4 (cw.w0 / 2 ^ 18 % 2 ^ 2)
    let sz ← finOf 4 (cw.w0 / 2 ^ 16 % 2 ^ 2); let lc ← finOf 8 (cw.w0 / 2 ^ 13 % 2 ^ 3); is 0 (cw.w0 % 2 ^ 13)
    let d ← finOf 32 (cw.w1 / 2 ^ 26); let a ← finOf 32 (cw.w1 / 2 ^ 20 % 2 ^ 6); is 0 (cw.w1 % 2 ^ 20)
    some (.qbind q kind sz lc d a)
  | 0x02 =>
    match cw.w0 / 2 ^ 18 % 2 ^ 2 with
    | 0 => do
      let q ← finOf 8 (cw.w0 / 2 ^ 20); let inh ← finOf 4 (cw.w0 / 2 ^ 16 % 2 ^ 2)
      let snum := BitVec.ofNat 16 (cw.w0 % 2 ^ 16); let target := BitVec.ofNat 12 (cw.w1 / 2 ^ 20)
      let newstage := BitVec.ofNat 12 (cw.w1 / 2 ^ 8 % 2 ^ 12); let nt ← finOf 32 (cw.w1 / 2 ^ 2 % 2 ^ 6)
      is 0 (cw.w1 % 2 ^ 2); some (.spliceInsert q inh snum target newstage nt)
    | 1 => do
      let q ← finOf 8 (cw.w0 / 2 ^ 20); is 0 (cw.w0 / 2 ^ 16 % 2 ^ 2); let snum := BitVec.ofNat 16 (cw.w0 % 2 ^ 16)
      let target := BitVec.ofNat 12 (cw.w1 / 2 ^ 20); is 0 (cw.w1 % 2 ^ 20); some (.spliceRemove q snum target)
    | 2 => do
      let q ← finOf 8 (cw.w0 / 2 ^ 20); let inh ← finOf 4 (cw.w0 / 2 ^ 16 % 2 ^ 2)
      let snum := BitVec.ofNat 16 (cw.w0 % 2 ^ 16); let target := BitVec.ofNat 12 (cw.w1 / 2 ^ 20)
      let newstage := BitVec.ofNat 12 (cw.w1 / 2 ^ 8 % 2 ^ 12); let nt ← finOf 32 (cw.w1 / 2 ^ 2 % 2 ^ 6)
      is 0 (cw.w1 % 2 ^ 2); some (.spliceRebind q inh snum target newstage nt)
    | _ => none
  | 0x03 => do
    is 0 (cw.w0); let d ← finOf 32 (cw.w1 / 2 ^ 26); let a ← finOf 32 (cw.w1 / 2 ^ 20 % 2 ^ 6)
    let q ← finOf 32 (cw.w1 / 2 ^ 14 % 2 ^ 6); is 0 (cw.w1 % 2 ^ 14); some (.launch d a q)
  | 0x04 => do
    let sc ← scope (cw.w0 / 2 ^ 20); let b ← finOf 16 (cw.w0 / 2 ^ 16 % 2 ^ 4); is 0 (cw.w0 % 2 ^ 16)
    let d ← finOf 32 (cw.w1 / 2 ^ 26); let a ← finOf 32 (cw.w1 / 2 ^ 20 % 2 ^ 6); is 0 (cw.w1 % 2 ^ 20)
    some (.bari sc b d a)
  | 0x08 => do
    is 0 (cw.w0); let t ← finOf 32 (cw.w1 / 2 ^ 26); let da ← finOf 32 (cw.w1 / 2 ^ 20 % 2 ^ 6)
    let sa ← finOf 32 (cw.w1 / 2 ^ 14 % 2 ^ 6); let sh ← finOf 32 (cw.w1 / 2 ^ 8 % 2 ^ 6); is 0 (cw.w1 % 2 ^ 8)
    some (.tmov t da sa sh)
  | 0x09 => do
    is 0 (cw.w0); let t ← finOf 32 (cw.w1 / 2 ^ 26); let da ← finOf 32 (cw.w1 / 2 ^ 20 % 2 ^ 6)
    let sa ← finOf 32 (cw.w1 / 2 ^ 14 % 2 ^ 6); let ct ← finOf 32 (cw.w1 / 2 ^ 8 % 2 ^ 6); is 0 (cw.w1 % 2 ^ 8)
    some (.plane t da sa ct)
  | 0x0c => fieldsL1 cw .bcpy
  | 0x0d => fieldsL1 cw .gath
  | 0x0e => fieldsL1 cw .scat
  | 0x0f => fieldsL1 cw .coll
  | 0x10 => do
    let mode ← finOf 4 (cw.w0 / 2 ^ 21); let cls ← finOf 2 (cw.w0 / 2 ^ 20 % 2 ^ 1)
    let ty ← finOf 8 (cw.w0 / 2 ^ 17 % 2 ^ 3); let rm ← finOf 4 (cw.w0 / 2 ^ 15 % 2 ^ 2)
    let wrap ← finOf 2 (cw.w0 / 2 ^ 14 % 2 ^ 1); let clr ← finOf 2 (cw.w0 / 2 ^ 13 % 2 ^ 1); is 0 (cw.w0 % 2 ^ 13)
    let t ← finOf 32 (cw.w1 / 2 ^ 26); let ad ← finOf 32 (cw.w1 / 2 ^ 20 % 2 ^ 6)
    let st ← finOf 32 (cw.w1 / 2 ^ 14 % 2 ^ 6); is 0 (cw.w1 % 2 ^ 14); some (.mdrain mode cls ty rm wrap clr t ad st)
  | 0x11 =>
    match cw.w0 / 2 ^ 22 with
    | 0 => do
      is 0 (cw.w0 % 2 ^ 22); let t ← finOf 32 (cw.w1 / 2 ^ 26); let ad ← finOf 32 (cw.w1 / 2 ^ 20 % 2 ^ 6)
      let st ← finOf 32 (cw.w1 / 2 ^ 14 % 2 ^ 6); is 0 (cw.w1 % 2 ^ 14); some (.mloadFlt t ad st)
    | 1 => do
      is 0 (cw.w0 % 2 ^ 22); let t ← finOf 32 (cw.w1 / 2 ^ 26); let ad ← finOf 32 (cw.w1 / 2 ^ 20 % 2 ^ 6)
      let st ← finOf 32 (cw.w1 / 2 ^ 14 % 2 ^ 6); is 0 (cw.w1 % 2 ^ 14); some (.mloadInt t ad st)
    | _ => none
  | 0x20 => fieldsL2 cw .mmaF4F4
  | 0x21 => fieldsL2 cw .mmaE4E4
  | 0x22 => fieldsL2 cw .mmaE5E5
  | 0x23 => fieldsL2 cw .mmaE4E5
  | 0x24 => fieldsL2 cw .mmaE5E4
  | 0x25 => fieldsL2 cw .mmaBF16BF16
  | 0x26 => fieldsL2 cw .mmaF16F16
  | 0x27 => fieldsL2 cw .mmaBF16F4
  | 0x28 => fieldsL2 cw .mmaBF16E4
  | 0x29 => fieldsL2 cw .mmaBF16TS8
  | 0x2a => fieldsL2 cw .mmaE4TS8
  | 0x2b => fieldsL2 cw .mmaI8I8
  | _ => none

/-- The C-slot word of a C-slot instruction, field by field (13 R216 to R218, R227, R228). -/
def encodeCFields : Instr → Option CWord
  | .cnop g => some ⟨0x00, 0, 0, 0, 0, g.val⟩
  | .br off => some (CWord.ofB 0x01 0 0 off.toNat)
  | .brp p sense off => some (CWord.ofB 0x02 p.val sense.toNat off.toNat)
  | .call off => some (CWord.ofB 0x03 0 0 off.toNat)
  | .loop c off => some (CWord.ofB 0x04 c.val 0 off.toNat)
  | .calli s g => some ⟨0x05, 0, s.val, 0, 0, g.val⟩
  | .ret s g => some ⟨0x06, 0, s.val, 0, 0, g.val⟩
  | .jmpi s g => some ⟨0x07, 0, s.val, 0, 0, g.val⟩
  | .exit g => some ⟨0x08, 0, 0, 0, 0, g.val⟩
  | .trap imm => some (CWord.ofI 0x09 0 0 imm.toNat)
  | .brk imm => some (CWord.ofI 0x0a 0 0 imm.toNat)
  | .eret g => some ⟨0x0b, 0, 0, 0, 0, g.val⟩
  | .ifence g => some ⟨0x0c, 0, 0, 0, 0, g.val⟩
  | .pfence g => some ⟨0x0d, 0, 0, 0, 0, g.val⟩
  | .fence sc g => some ⟨0x0e, 0, 0, 0, sc.code, g.val⟩
  | .add d a b g => some ⟨0x10, d.code, a.code, b.code, 0, g.val⟩
  | .sub d a b g => some ⟨0x10, d.code, a.code, b.code, 1, g.val⟩
  | .andC d a b g => some ⟨0x10, d.code, a.code, b.code, 2, g.val⟩
  | .orC d a b g => some ⟨0x10, d.code, a.code, b.code, 3, g.val⟩
  | .xorC d a b g => some ⟨0x10, d.code, a.code, b.code, 4, g.val⟩
  | .andn d a b g => some ⟨0x10, d.code, a.code, b.code, 5, g.val⟩
  | .mul d a b g => some ⟨0x11, d.code, a.code, b.code, 0, g.val⟩
  | .mulhs d a b g => some ⟨0x11, d.code, a.code, b.code, 1, g.val⟩
  | .mulhu d a b g => some ⟨0x11, d.code, a.code, b.code, 2, g.val⟩
  | .divs d a b g => some ⟨0x11, d.code, a.code, b.code, 3, g.val⟩
  | .divu d a b g => some ⟨0x11, d.code, a.code, b.code, 4, g.val⟩
  | .rems d a b g => some ⟨0x11, d.code, a.code, b.code, 5, g.val⟩
  | .remu d a b g => some ⟨0x11, d.code, a.code, b.code, 6, g.val⟩
  | .shl d a b g => some ⟨0x12, d.code, a.code, b.code, 0, g.val⟩
  | .shr d a b g => some ⟨0x12, d.code, a.code, b.code, 1, g.val⟩
  | .sha d a b g => some ⟨0x12, d.code, a.code, b.code, 2, g.val⟩
  | .rotr d a b g => some ⟨0x12, d.code, a.code, b.code, 3, g.val⟩
  | .mins d a b g => some ⟨0x13, d.code, a.code, b.code, 0, g.val⟩
  | .maxs d a b g => some ⟨0x13, d.code, a.code, b.code, 1, g.val⟩
  | .minu d a b g => some ⟨0x13, d.code, a.code, b.code, 2, g.val⟩
  | .maxu d a b g => some ⟨0x13, d.code, a.code, b.code, 3, g.val⟩
  | .clz d a g => some ⟨0x14, d.code, a.code, 0, 0, g.val⟩
  | .ctz d a g => some ⟨0x14, d.code, a.code, 0, 1, g.val⟩
  | .popc d a g => some ⟨0x14, d.code, a.code, 0, 2, g.val⟩
  | .brev d a g => some ⟨0x14, d.code, a.code, 0, 3, g.val⟩
  | .sextB d a g => some ⟨0x15, d.code, a.code, 0, 0, g.val⟩
  | .sextH d a g => some ⟨0x15, d.code, a.code, 0, 1, g.val⟩
  | .sextW d a g => some ⟨0x15, d.code, a.code, 0, 2, g.val⟩
  | .zextB d a g => some ⟨0x15, d.code, a.code, 0, 4, g.val⟩
  | .zextH d a g => some ⟨0x15, d.code, a.code, 0, 5, g.val⟩
  | .zextW d a g => some ⟨0x15, d.code, a.code, 0, 6, g.val⟩
  | .mov d a g => some ⟨0x16, d.code, a.code, 0, 0, g.val⟩
  | .sel d a b p g => some ⟨0x17, d.code, a.code, b.code, p.val, g.val⟩
  | .lea d a b k g => some ⟨0x18, d.code, a.code, b.code, k.val, g.val⟩
  | .cmpEq d a b g => some ⟨0x19, d.val, a.code, b.code, 0, g.val⟩
  | .cmpNe d a b g => some ⟨0x19, d.val, a.code, b.code, 1, g.val⟩
  | .cmpLt d a b g => some ⟨0x19, d.val, a.code, b.code, 2, g.val⟩
  | .cmpGe d a b g => some ⟨0x19, d.val, a.code, b.code, 3, g.val⟩
  | .cmpLtu d a b g => some ⟨0x19, d.val, a.code, b.code, 4, g.val⟩
  | .cmpGeu d a b g => some ⟨0x19, d.val, a.code, b.code, 5, g.val⟩
  | .bext d a b g => some ⟨0x1a, d.code, a.code, b.code, 0, g.val⟩
  | .bextS d a b g => some ⟨0x1a, d.code, a.code, b.code, 1, g.val⟩
  | .bins d a b g => some ⟨0x1b, d.code, a.code, b.code, 0, g.val⟩
  | .tremit s g => some ⟨0x1c, 0, s.code, 0, 0, g.val⟩
  | .rpush s g => some ⟨0x1d, 0, s.code, 0, 0, g.val⟩
  | .rpop d g => some ⟨0x1e, d.val, 0, 0, 0, g.val⟩
  | .ctxs d a b g => some ⟨0x1f, d.val, a.val, b.val, 0, g.val⟩
  | .ctxsResume d a b g => some ⟨0x1f, d.val, a.val, b.val, 1, g.val⟩
  | .ctxsSize d a g => some ⟨0x1f, d.val, a.val, 0, 2, g.val⟩
  | .addi d a imm => some (CWord.ofI 0x20 d.code a.code imm.toNat)
  | .andi d a imm => some (CWord.ofI 0x21 d.code a.code imm.toNat)
  | .ori d a imm => some (CWord.ofI 0x22 d.code a.code imm.toNat)
  | .xori d a imm => some (CWord.ofI 0x23 d.code a.code imm.toNat)
  | .shli d a n => some (CWord.ofI 0x24 d.code a.code n.val)
  | .shri d a n => some (CWord.ofI 0x25 d.code a.code n.val)
  | .shai d a n => some (CWord.ofI 0x26 d.code a.code n.val)
  | .movi d imm => some (CWord.ofI 0x27 d.code 0 imm.toNat)
  | .cmpiEq d a imm => some (CWord.ofI 0x28 d.val a.code imm.toNat)
  | .cmpiNe d a imm => some (CWord.ofI 0x29 d.val a.code imm.toNat)
  | .cmpiLt d a imm => some (CWord.ofI 0x2a d.val a.code imm.toNat)
  | .cmpiGe d a imm => some (CWord.ofI 0x2b d.val a.code imm.toNat)
  | .cmpiLtu d a imm => some (CWord.ofI 0x2c d.val a.code imm.toNat)
  | .cmpiGeu d a imm => some (CWord.ofI 0x2d d.val a.code imm.toNat)
  | .ldBZ d b imm => some (CWord.ofI 0x30 d.val b.val imm.toNat)
  | .ldBS d b imm => some (CWord.ofI 0x31 d.val b.val imm.toNat)
  | .ldHZ d b imm => some (CWord.ofI 0x32 d.val b.val imm.toNat)
  | .ldHS d b imm => some (CWord.ofI 0x33 d.val b.val imm.toNat)
  | .ldWZ d b imm => some (CWord.ofI 0x34 d.val b.val imm.toNat)
  | .ldWS d b imm => some (CWord.ofI 0x35 d.val b.val imm.toNat)
  | .ldD d b imm => some (CWord.ofI 0x36 d.val b.val imm.toNat)
  | .ldAcq d b imm => some (CWord.ofI 0x37 d.val b.val imm.toNat)
  | .stB v b imm => some (CWord.ofI 0x38 v.code b.val imm.toNat)
  | .stH v b imm => some (CWord.ofI 0x39 v.code b.val imm.toNat)
  | .stW v b imm => some (CWord.ofI 0x3a v.code b.val imm.toNat)
  | .stD v b imm => some (CWord.ofI 0x3b v.code b.val imm.toNat)
  | .stRel v b imm => some (CWord.ofI 0x3c v.code b.val imm.toNat)
  | .ldv d b imm => some (CWord.ofI 0x3d (32 + d.val) b.val imm.toNat)
  | .stv v b imm => some (CWord.ofI 0x3e v.code b.val imm.toNat)
  | .aadd d b v z g => some ⟨0x40, d.val, b.val, v.code, z.val, g.val⟩
  | .afadd d b v z g => some ⟨0x41, d.val, b.val, v.code, z.val, g.val⟩
  | .amin d b v z g => some ⟨0x42, d.val, b.val, v.code, z.val, g.val⟩
  | .amax d b v z g => some ⟨0x43, d.val, b.val, v.code, z.val, g.val⟩
  | .aand d b v z g => some ⟨0x44, d.val, b.val, v.code, z.val, g.val⟩
  | .aor d b v z g => some ⟨0x45, d.val, b.val, v.code, z.val, g.val⟩
  | .axor d b v z g => some ⟨0x46, d.val, b.val, v.code, z.val, g.val⟩
  | .axchg d b v z g => some ⟨0x47, d.val, b.val, v.code, z.val, g.val⟩
  | .acas d b v z g => some ⟨0x48, d.val, b.val, v.code, z.val, g.val⟩
  | .lock b g => some ⟨0x49, 0, b.val, 0, 0, g.val⟩
  | .lockStatus d b g => some ⟨0x49, d.val, b.val, 0, 1, g.val⟩
  | .unlock b g => some ⟨0x4a, 0, b.val, 0, 0, g.val⟩
  | .unlockStatus d b g => some ⟨0x4a, d.val, b.val, 0, 1, g.val⟩
  | .nadd d b v g => some ⟨0x4b, d.val, b.val, v.code, 0, g.val⟩
  | .ncas d b v g => some ⟨0x4c, d.val, b.val, v.code, 0, g.val⟩
  | .mzeroFlt t g => some ⟨0x4d, t.val, 0, 0, 0, g.val⟩
  | .mzeroInt t g => some ⟨0x4d, t.val, 0, 0, 1, g.val⟩
  | .mstat t g => some ⟨0x4e, t.val, 0, 0, 0, g.val⟩
  | .mhint imm => some (CWord.ofI 0x4f 0 0 imm.toNat)
  | .ldnW d b imm => some (CWord.ofI 0x50 d.val b.val imm.toNat)
  | .ldnD d b imm => some (CWord.ofI 0x51 d.val b.val imm.toNat)
  | .stnW v b imm => some (CWord.ofI 0x52 v.code b.val imm.toNat)
  | .stnD v b imm => some (CWord.ofI 0x53 v.code b.val imm.toNat)
  | .vldn d b imm => some (CWord.ofI 0x54 (32 + d.val) b.val imm.toNat)
  | .vstn v b imm => some (CWord.ofI 0x55 v.code b.val imm.toNat)
  | .ldf d b imm => some (CWord.ofI 0x56 d.val b.val imm.toNat)
  | .ldfe d b imm => some (CWord.ofI 0x57 d.val b.val imm.toNat)
  | .ste v b imm => some (CWord.ofI 0x58 v.code b.val imm.toNat)
  | .stf v b imm => some (CWord.ofI 0x59 v.code b.val imm.toNat)
  | .feclr b imm => some (CWord.ofI 0x5a 0 b.val imm.toNat)
  | .feset b imm => some (CWord.ofI 0x5b 0 b.val imm.toNat)
  | .feq d b imm => some (CWord.ofI 0x5c d.val b.val imm.toNat)
  | .claim b imm => some (CWord.ofI 0x5d 0 b.val imm.toNat)
  | .flue s g => some ⟨0x5e, 0, s.val, 0, 0, g.val⟩
  | .send a t b g => some ⟨0x60, a.code, t.val, b.code, 0, g.val⟩
  | .sendT a t b g => some ⟨0x60, a.code, t.val, b.code, 1, g.val⟩
  | .recv d e f g => some ⟨0x61, d.val, 0, e.val, f.val, g.val⟩
  | .recvs d s e f g => some ⟨0x62, d.val, s.val, e.val, f.val, g.val⟩
  | .waitm d s e f g => some ⟨0x63, d.val, s.val, e.val, f.val, g.val⟩
  | .putr idx t v g => some ⟨0x64, idx.val, t.val, v.code, 0, g.val⟩
  | .pclr d g => some ⟨0x65, d.val, 0, 0, 0, g.val⟩
  | .ptst d s g => some ⟨0x66, d.val, s.val, 0, 0, g.val⟩
  | .qunbind q g => some ⟨0x67, 0, 0, 0, q.val, g.val⟩
  | .qpop k q g => some ⟨0x68, 0, 0, k.val, q.val, g.val⟩
  | .qpush k q g => some ⟨0x69, 0, 0, k.val, q.val, g.val⟩
  | .qstat d q g => some ⟨0x6a, d.val, 0, 0, q.val, g.val⟩
  | .qfwd g => some ⟨0x6b, 0, 0, 0, 0, g.val⟩
  | .qseam d g => some ⟨0x6c, d.val, 0, 0, 0, g.val⟩
  | .qinherit b n g => some ⟨0x6d, 0, b.val, n.val, 0, g.val⟩
  | .markret g => some ⟨0x6e, 0, 0, 0, 0, g.val⟩
  | .pand d a b g => some ⟨0x70, d.val, a.val, b.val, 0, g.val⟩
  | .por d a b g => some ⟨0x70, d.val, a.val, b.val, 1, g.val⟩
  | .pxor d a b g => some ⟨0x70, d.val, a.val, b.val, 2, g.val⟩
  | .pnot d a g => some ⟨0x70, d.val, a.val, 0, 3, g.val⟩
  | .pmov d a g => some ⟨0x70, d.val, a.val, 0, 4, g.val⟩
  | .bar b sc g => some ⟨0x71, 0, 0, b.val, sc.code, g.val⟩
  | .bara d b sc g => some ⟨0x72, d.val, 0, b.val, sc.code, g.val⟩
  | .barw s b sc g => some ⟨0x73, 0, s.val, b.val, sc.code, g.val⟩
  | .emb d g => some ⟨0x74, d.val, 0, 0, 0, g.val⟩
  | .embHearth d g => some ⟨0x74, d.val, 0, 0, 1, g.val⟩
  | .gang n g => some ⟨0x75, 0, 0, 0, n.val, g.val⟩
  | .gangw g => some ⟨0x76, 0, 0, 0, 0, g.val⟩
  | .disband g => some ⟨0x77, 0, 0, 0, 0, g.val⟩
  | .tqpush d w c g => some ⟨0x78, d.val, w.val, c.val, 0, g.val⟩
  | .tqpop d e g => some ⟨0x78, d.val, 0, e.val, 1, g.val⟩
  | .tqpeek d e g => some ⟨0x78, d.val, 0, e.val, 2, g.val⟩
  | .sleep d w t c g => some ⟨0x79, d.val, w.val, t.val, c.val, g.val⟩
  | .sleepW d w t c g => some ⟨0x79, d.val, w.val, t.val, (4 + c.val), g.val⟩
  | .timer d s g => some ⟨0x7a, d.val, s.val, 0, 0, g.val⟩
  | .timerAbs d s g => some ⟨0x7a, d.val, s.val, 0, 1, g.val⟩
  | .timerOff d g => some ⟨0x7a, d.val, 0, 0, 2, g.val⟩
  | .mfs d n g => some ⟨0x7b, d.val, 0, n.val, 0, g.val⟩
  | .mts s n g => some ⟨0x7c, 0, s.val, n.val, 0, g.val⟩
  | .segld b n g => some ⟨0x7d, 0, b.val, n.val, 0, g.val⟩
  | .segst b n g => some ⟨0x7d, 0, b.val, n.val, 1, g.val⟩
  | .tlbi s sc g => some ⟨0x7e, 0, s.val, 0, sc.code, g.val⟩
  | .pgrep s g => some ⟨0x7f, 0, s.val, 0, 0, g.val⟩
  | .pgrepFail s g => some ⟨0x7f, 0, s.val, 0, 1, g.val⟩
  | _ => none

/-- The A-slot word of an A-slot instruction (13 R219, R229). -/
def encodeAFields : Instr → Option AWord
  | .anop => some ⟨0x00, 0, 0, 0, 0, 0, 0⟩
  | .fadd ty d a b r => some ⟨0x01, ty.code, d.code, a.code, b.code, 0, r.code⟩
  | .fsub ty d a b r => some ⟨0x02, ty.code, d.code, a.code, b.code, 0, r.code⟩
  | .fmul ty d a b r => some ⟨0x03, ty.code, d.code, a.code, b.code, 0, r.code⟩
  | .fma ty d a b r => some ⟨0x04, ty.code, d.code, a.code, b.code, 0, r.code⟩
  | .fdiv ty d a b r => some ⟨0x05, ty.code, d.code, a.code, b.code, 0, r.code⟩
  | .fsqrt ty d a r => some ⟨0x06, ty.code, d.code, a.code, 0, 0, r.code⟩
  | .fmin ty d a b => some ⟨0x07, ty.code, d.code, a.code, b.code, 0, 0⟩
  | .fmax ty d a b => some ⟨0x08, ty.code, d.code, a.code, b.code, 0, 0⟩
  | .fabs ty d a => some ⟨0x09, ty.code, d.code, a.code, 0, 0, 0⟩
  | .fneg ty d a => some ⟨0x0a, ty.code, d.code, a.code, 0, 0, 0⟩
  | .fsgn ty d a b => some ⟨0x0b, ty.code, d.code, a.code, b.code, 0, 0⟩
  | .fcmp ty d a b => some ⟨0x0c, ty.code, d.code, a.code, b.code, 0, 0⟩
  | .fclass ty d a => some ⟨0x0d, ty.code, d.code, a.code, 0, 0, 0⟩
  | .fcvtF ty d a src r => some ⟨0x0e, ty.code, d.code, a.code, src.code, 0, r.code⟩
  | .fcvtI ty d a src r => some ⟨0x4e, ty.code, d.code, a.code, src.code, 0, r.code⟩
  | .vaddF ty d a b m r => some ⟨0x10, ty.code, d.code, a.code, b.code, m.val, r.code⟩
  | .vsubF ty d a b m r => some ⟨0x11, ty.code, d.code, a.code, b.code, m.val, r.code⟩
  | .vmulF ty d a b m r => some ⟨0x12, ty.code, d.code, a.code, b.code, m.val, r.code⟩
  | .vfma ty d a b m r => some ⟨0x13, ty.code, (32 + d.val), a.code, b.code, m.val, r.code⟩
  | .vfms ty d a b m r => some ⟨0x14, ty.code, (32 + d.val), a.code, b.code, m.val, r.code⟩
  | .vminF ty d a b m => some ⟨0x15, ty.code, d.code, a.code, b.code, m.val, 0⟩
  | .vmaxF ty d a b m => some ⟨0x16, ty.code, d.code, a.code, b.code, m.val, 0⟩
  | .vabsF ty d a m => some ⟨0x17, ty.code, d.code, a.code, 0, m.val, 0⟩
  | .vnegF ty d a m => some ⟨0x18, ty.code, d.code, a.code, 0, m.val, 0⟩
  | .vdiv ty d a b m r => some ⟨0x19, ty.code, d.code, a.code, b.code, m.val, r.code⟩
  | .vsqrt ty d a m r => some ⟨0x1a, ty.code, d.code, a.code, 0, m.val, r.code⟩
  | .vrcp ty d a m r => some ⟨0x1b, ty.code, d.code, a.code, 0, m.val, r.code⟩
  | .vrsq ty d a m r => some ⟨0x1c, ty.code, d.code, a.code, 0, m.val, r.code⟩
  | .vdotF ty d a b m r => some ⟨0x1d, ty.code, (32 + d.val), a.code, b.code, m.val, r.code⟩
  | .vexp2 ty d a m => some ⟨0x20, ty.code, d.code, a.code, 0, m.val, 0⟩
  | .vlog2 ty d a m => some ⟨0x21, ty.code, d.code, a.code, 0, m.val, 0⟩
  | .vsin ty d a m => some ⟨0x22, ty.code, d.code, a.code, 0, m.val, 0⟩
  | .vcos ty d a m => some ⟨0x23, ty.code, d.code, a.code, 0, m.val, 0⟩
  | .vtanh ty d a m => some ⟨0x24, ty.code, d.code, a.code, 0, m.val, 0⟩
  | .vand ty d a b m => some ⟨0x28, ty.code, d.code, a.code, b.code, m.val, 0⟩
  | .vor ty d a b m => some ⟨0x29, ty.code, d.code, a.code, b.code, m.val, 0⟩
  | .vxor ty d a b m => some ⟨0x2a, ty.code, d.code, a.code, b.code, m.val, 0⟩
  | .vshl ty d a b m => some ⟨0x2b, ty.code, d.code, a.code, b.code, m.val, 0⟩
  | .vshr ty d a b m => some ⟨0x2c, ty.code, d.code, a.code, b.code, m.val, 0⟩
  | .vsha ty d a b m => some ⟨0x2d, ty.code, d.code, a.code, b.code, m.val, 0⟩
  | .vcmpF ty md a b m => some ⟨0x30, ty.code, md.val, a.code, b.code, m.val, 0⟩
  | .vsel ty d a b m => some ⟨0x31, ty.code, d.code, a.code, b.code, m.val, 0⟩
  | .vcvtF ty d a src m r => some ⟨0x32, ty.code, d.code, a.code, src.code, m.val, r.code⟩
  | .vbcast ty d s m => some ⟨0x33, ty.code, d.code, s.code, 0, m.val, 0⟩
  | .vperm ty d a b m => some ⟨0x34, ty.code, d.code, a.code, b.code, m.val, 0⟩
  | .vredF ty d a op m r => some ⟨0x35, ty.code, d.code, a.code, op.code, m.val, r.code⟩
  | .vcntF ty d a m => some ⟨0x36, ty.code, d.code, a.code, 0, m.val, 0⟩
  | .visabF ty md a m => some ⟨0x37, ty.code, md.val, a.code, 0, m.val, 0⟩
  | .vmkabF ty d a n m => some ⟨0x38, ty.code, d.code, a.code, n.val, m.val, 0⟩
  | .vmov ty d a m => some ⟨0x39, ty.code, d.code, a.code, 0, m.val, 0⟩
  | .vmovToMask md s => some ⟨0x39, 0, md.val, s.val, 1, 0, 0⟩
  | .vmovFromMask d ms => some ⟨0x39, 0, d.val, ms.val, 2, 0, 0⟩
  | .vext ty d a i m => some ⟨0x3a, ty.code, d.code, a.code, i.val, m.val, 0⟩
  | .vins ty d s i m => some ⟨0x3b, ty.code, (32 + d.val), s.code, i.val, m.val, 0⟩
  | .xld d a dp m => some ⟨0x3c, 0, (32 + d.val), (32 + a.val), dp.val, m.val, 0⟩
  | .vrngF ty d k i m => some ⟨0x3d, ty.code, d.code, k.val, i.val, m.val, 0⟩
  | .vaddI ty d a b m => some ⟨0x50, ty.code, d.code, a.code, b.code, m.val, 0⟩
  | .vsubI ty d a b m => some ⟨0x51, ty.code, d.code, a.code, b.code, m.val, 0⟩
  | .vmulI ty d a b m => some ⟨0x52, ty.code, d.code, a.code, b.code, m.val, 0⟩
  | .vminI ty d a b m => some ⟨0x55, ty.code, d.code, a.code, b.code, m.val, 0⟩
  | .vmaxI ty d a b m => some ⟨0x56, ty.code, d.code, a.code, b.code, m.val, 0⟩
  | .vabsI ty d a m => some ⟨0x57, ty.code, d.code, a.code, 0, m.val, 0⟩
  | .vnegI ty d a m => some ⟨0x58, ty.code, d.code, a.code, 0, m.val, 0⟩
  | .vdotI ty d a b m => some ⟨0x5d, ty.code, (32 + d.val), a.code, b.code, m.val, 0⟩
  | .vcmpI ty md a b m => some ⟨0x70, ty.code, md.val, a.code, b.code, m.val, 0⟩
  | .vcvtI ty d a src m r => some ⟨0x72, ty.code, d.code, a.code, src.code, m.val, r.code⟩
  | .vredI ty d a op m => some ⟨0x75, ty.code, d.code, a.code, op.code, m.val, 0⟩
  | .vcntI ty d a m => some ⟨0x76, ty.code, d.code, a.code, 0, m.val, 0⟩
  | .visabI ty md a m => some ⟨0x77, ty.code, md.val, a.code, 0, m.val, 0⟩
  | .vmkabI ty d a n m => some ⟨0x78, ty.code, d.code, a.code, n.val, m.val, 0⟩
  | .vrngI ty d k i m => some ⟨0x7d, ty.code, d.code, k.val, i.val, m.val, 0⟩
  | _ => none

/-- The two words of a lone instruction (13 R221, R230). -/
def encodeLFields : Instr → Option LWord
  | .movw d hi lo => some ⟨0x00, d.val * 2 ^ 17 + hi.toNat, lo.toNat⟩
  | .movwHi d imm => some ⟨0x00, d.val * 2 ^ 17 + 1 * 2 ^ 16, imm.toNat⟩
  | .qbind q kind sz lc d a => some ⟨0x01, q.val * 2 ^ 20 + kind.val * 2 ^ 18 + sz.val * 2 ^ 16 + lc.val * 2 ^ 13, d.val * 2 ^ 26 + a.val * 2 ^ 20⟩
  | .spliceInsert q inh snum target newstage nt => some ⟨0x02, q.val * 2 ^ 20 + inh.val * 2 ^ 16 + snum.toNat, target.toNat * 2 ^ 20 + newstage.toNat * 2 ^ 8 + nt.val * 2 ^ 2⟩
  | .spliceRemove q snum target => some ⟨0x02, q.val * 2 ^ 20 + 1 * 2 ^ 18 + snum.toNat, target.toNat * 2 ^ 20⟩
  | .spliceRebind q inh snum target newstage nt => some ⟨0x02, q.val * 2 ^ 20 + 2 * 2 ^ 18 + inh.val * 2 ^ 16 + snum.toNat, target.toNat * 2 ^ 20 + newstage.toNat * 2 ^ 8 + nt.val * 2 ^ 2⟩
  | .launch d a q => some ⟨0x03, 0, d.val * 2 ^ 26 + a.val * 2 ^ 20 + q.val * 2 ^ 14⟩
  | .bari sc b d a => some ⟨0x04, sc.code * 2 ^ 20 + b.val * 2 ^ 16, d.val * 2 ^ 26 + a.val * 2 ^ 20⟩
  | .tmov t da sa sh => some ⟨0x08, 0, t.val * 2 ^ 26 + da.val * 2 ^ 20 + sa.val * 2 ^ 14 + sh.val * 2 ^ 8⟩
  | .plane t da sa ct => some ⟨0x09, 0, t.val * 2 ^ 26 + da.val * 2 ^ 20 + sa.val * 2 ^ 14 + ct.val * 2 ^ 8⟩
  | .bcpy d mb => some ⟨0x0c, 0, d.val * 2 ^ 26 + mb.val * 2 ^ 24⟩
  | .gath d mb => some ⟨0x0d, 0, d.val * 2 ^ 26 + mb.val * 2 ^ 24⟩
  | .scat d mb => some ⟨0x0e, 0, d.val * 2 ^ 26 + mb.val * 2 ^ 24⟩
  | .coll d mb => some ⟨0x0f, 0, d.val * 2 ^ 26 + mb.val * 2 ^ 24⟩
  | .mdrain mode cls ty rm wrap clr t ad st => some ⟨0x10, mode.val * 2 ^ 21 + cls.val * 2 ^ 20 + ty.val * 2 ^ 17 + rm.val * 2 ^ 15 + wrap.val * 2 ^ 14 + clr.val * 2 ^ 13, t.val * 2 ^ 26 + ad.val * 2 ^ 20 + st.val * 2 ^ 14⟩
  | .mloadFlt t ad st => some ⟨0x11, 0, t.val * 2 ^ 26 + ad.val * 2 ^ 20 + st.val * 2 ^ 14⟩
  | .mloadInt t ad st => some ⟨0x11, 1 * 2 ^ 22, t.val * 2 ^ 26 + ad.val * 2 ^ 20 + st.val * 2 ^ 14⟩
  | .mmaF4F4 t da db n => some ⟨0x20, 0, t.val * 2 ^ 26 + da.val * 2 ^ 20 + db.val * 2 ^ 14 + n.val * 2 ^ 9⟩
  | .mmaE4E4 t da db n => some ⟨0x21, 0, t.val * 2 ^ 26 + da.val * 2 ^ 20 + db.val * 2 ^ 14 + n.val * 2 ^ 9⟩
  | .mmaE5E5 t da db n => some ⟨0x22, 0, t.val * 2 ^ 26 + da.val * 2 ^ 20 + db.val * 2 ^ 14 + n.val * 2 ^ 9⟩
  | .mmaE4E5 t da db n => some ⟨0x23, 0, t.val * 2 ^ 26 + da.val * 2 ^ 20 + db.val * 2 ^ 14 + n.val * 2 ^ 9⟩
  | .mmaE5E4 t da db n => some ⟨0x24, 0, t.val * 2 ^ 26 + da.val * 2 ^ 20 + db.val * 2 ^ 14 + n.val * 2 ^ 9⟩
  | .mmaBF16BF16 t da db n => some ⟨0x25, 0, t.val * 2 ^ 26 + da.val * 2 ^ 20 + db.val * 2 ^ 14 + n.val * 2 ^ 9⟩
  | .mmaF16F16 t da db n => some ⟨0x26, 0, t.val * 2 ^ 26 + da.val * 2 ^ 20 + db.val * 2 ^ 14 + n.val * 2 ^ 9⟩
  | .mmaBF16F4 t da db n => some ⟨0x27, 0, t.val * 2 ^ 26 + da.val * 2 ^ 20 + db.val * 2 ^ 14 + n.val * 2 ^ 9⟩
  | .mmaBF16E4 t da db n => some ⟨0x28, 0, t.val * 2 ^ 26 + da.val * 2 ^ 20 + db.val * 2 ^ 14 + n.val * 2 ^ 9⟩
  | .mmaBF16TS8 t da db n => some ⟨0x29, 0, t.val * 2 ^ 26 + da.val * 2 ^ 20 + db.val * 2 ^ 14 + n.val * 2 ^ 9⟩
  | .mmaE4TS8 t da db n => some ⟨0x2a, 0, t.val * 2 ^ 26 + da.val * 2 ^ 20 + db.val * 2 ^ 14 + n.val * 2 ^ 9⟩
  | .mmaI8I8 t da db n => some ⟨0x2b, 0, t.val * 2 ^ 26 + da.val * 2 ^ 20 + db.val * 2 ^ 14 + n.val * 2 ^ 9⟩
  | _ => none
/-! ### Whole words and pairs -/

/-- An instruction that breaks a rule of its entry is no instruction (13 R231). -/
def onlyWf (o : Option Instr) : Option Instr := o.bind fun i => if i.wf then some i else none

/-- Word 0 with L = 0 (13 R215, R227). -/
def decodeC (w : Nat) : Option Instr := onlyWf (decodeCFields (CWord.ofNat w))

/-- Word 1 of a pair with L = 0 (13 R215, R229). -/
def decodeA (w : Nat) : Option Instr := onlyWf (decodeAFields (AWord.ofNat w))

/-- A pair with L = 1, word 1 in the upper half (13 R221, R230). -/
noncomputable def decodeL (w : Nat) : Option Instr := onlyWf (decodeLFields (LWord.ofNat w))

/-- What a 64-bit pair holds (13 R215): two slot instructions, or one lone instruction. -/
inductive Pair where
  | slots (c a : Instr)
  | lone (i : Instr)
  deriving DecidableEq, Repr

/-- A place that an instruction writes, as far as 13 R225 compares two slots' places: a scalar or vector register code, a ring
slot, a predicate (17 R291) or a mask (18 R307). -/
inductive Place where
  | reg (i : Nat)
  | vec (i : Nat)
  | slot (n k : Nat)
  | pred (i : Nat)
  | mask (i : Nat)
  deriving DecidableEq, Repr

def SOpd.place : SOpd → Place
  | .r i => .reg i.val
  | .q n k => .slot n.val k.val

def VOpd.place : VOpd → Place
  | .v i => .vec i.val
  | .q n k => .slot n.val k.val

/-- A mask destination; one of m0 never clashes (18 R307). -/
def maskPlace (n : Nat) : List Place := if n = 0 then [] else [.mask n]

/-- The destinations of a slot instruction under 13 R225: LOOP's counter and the link of CALL and CALLI among them (17 R301,
R302), not SEND's sources (16 R264). -/
def Instr.places : Instr → List Place
  | .call _ => [.reg 15]
  | .loop c _ => [.reg c.val]
  | .calli _ _ => [.reg 15]
  | .add d _ _ _ => [d.place]
  | .sub d _ _ _ => [d.place]
  | .andC d _ _ _ => [d.place]
  | .orC d _ _ _ => [d.place]
  | .xorC d _ _ _ => [d.place]
  | .andn d _ _ _ => [d.place]
  | .mul d _ _ _ => [d.place]
  | .mulhs d _ _ _ => [d.place]
  | .mulhu d _ _ _ => [d.place]
  | .divs d _ _ _ => [d.place]
  | .divu d _ _ _ => [d.place]
  | .rems d _ _ _ => [d.place]
  | .remu d _ _ _ => [d.place]
  | .shl d _ _ _ => [d.place]
  | .shr d _ _ _ => [d.place]
  | .sha d _ _ _ => [d.place]
  | .rotr d _ _ _ => [d.place]
  | .mins d _ _ _ => [d.place]
  | .maxs d _ _ _ => [d.place]
  | .minu d _ _ _ => [d.place]
  | .maxu d _ _ _ => [d.place]
  | .clz d _ _ => [d.place]
  | .ctz d _ _ => [d.place]
  | .popc d _ _ => [d.place]
  | .brev d _ _ => [d.place]
  | .sextB d _ _ => [d.place]
  | .sextH d _ _ => [d.place]
  | .sextW d _ _ => [d.place]
  | .zextB d _ _ => [d.place]
  | .zextH d _ _ => [d.place]
  | .zextW d _ _ => [d.place]
  | .mov d _ _ => [d.place]
  | .sel d _ _ _ _ => [d.place]
  | .lea d _ _ _ _ => [d.place]
  | .cmpEq d _ _ _ => [.pred d.val]
  | .cmpNe d _ _ _ => [.pred d.val]
  | .cmpLt d _ _ _ => [.pred d.val]
  | .cmpGe d _ _ _ => [.pred d.val]
  | .cmpLtu d _ _ _ => [.pred d.val]
  | .cmpGeu d _ _ _ => [.pred d.val]
  | .bext d _ _ _ => [d.place]
  | .bextS d _ _ _ => [d.place]
  | .bins d _ _ _ => [d.place]
  | .rpop d _ => [.reg d.val]
  | .ctxs d _ _ _ => [.reg d.val]
  | .ctxsResume d _ _ _ => [.reg d.val]
  | .ctxsSize d _ _ => [.reg d.val]
  | .addi d _ _ => [d.place]
  | .andi d _ _ => [d.place]
  | .ori d _ _ => [d.place]
  | .xori d _ _ => [d.place]
  | .shli d _ _ => [d.place]
  | .shri d _ _ => [d.place]
  | .shai d _ _ => [d.place]
  | .movi d _ => [d.place]
  | .cmpiEq d _ _ => [.pred d.val]
  | .cmpiNe d _ _ => [.pred d.val]
  | .cmpiLt d _ _ => [.pred d.val]
  | .cmpiGe d _ _ => [.pred d.val]
  | .cmpiLtu d _ _ => [.pred d.val]
  | .cmpiGeu d _ _ => [.pred d.val]
  | .ldBZ d _ _ => [.reg d.val]
  | .ldBS d _ _ => [.reg d.val]
  | .ldHZ d _ _ => [.reg d.val]
  | .ldHS d _ _ => [.reg d.val]
  | .ldWZ d _ _ => [.reg d.val]
  | .ldWS d _ _ => [.reg d.val]
  | .ldD d _ _ => [.reg d.val]
  | .ldAcq d _ _ => [.reg d.val]
  | .ldv d _ _ => [.vec d.val]
  | .aadd d _ _ _ _ => [.reg d.val]
  | .afadd d _ _ _ _ => [.reg d.val]
  | .amin d _ _ _ _ => [.reg d.val]
  | .amax d _ _ _ _ => [.reg d.val]
  | .aand d _ _ _ _ => [.reg d.val]
  | .aor d _ _ _ _ => [.reg d.val]
  | .axor d _ _ _ _ => [.reg d.val]
  | .axchg d _ _ _ _ => [.reg d.val]
  | .acas d _ _ _ _ => [.reg d.val]
  | .lockStatus d _ _ => [.reg d.val]
  | .unlockStatus d _ _ => [.reg d.val]
  | .nadd d _ _ _ => [.reg d.val]
  | .ncas d _ _ _ => [.reg d.val]
  | .mzeroFlt t _ => [.reg t.val]
  | .mzeroInt t _ => [.reg t.val]
  | .mstat t _ => [.reg t.val]
  | .ldnW d _ _ => [.reg d.val]
  | .ldnD d _ _ => [.reg d.val]
  | .vldn d _ _ => [.vec d.val]
  | .ldf d _ _ => [.reg d.val]
  | .ldfe d _ _ => [.reg d.val]
  | .feq d _ _ => [.reg d.val]
  | .recv d e _ _ => [.reg d.val, .reg e.val]
  | .recvs d _ e _ _ => [.reg d.val, .reg e.val]
  | .waitm d _ e _ _ => [.reg d.val, .reg e.val]
  | .pclr d _ => [.reg d.val]
  | .ptst d _ _ => [.reg d.val]
  | .qstat d _ _ => [.reg d.val]
  | .qseam d _ => [.reg d.val]
  | .pand d _ _ _ => [.pred d.val]
  | .por d _ _ _ => [.pred d.val]
  | .pxor d _ _ _ => [.pred d.val]
  | .pnot d _ _ => [.pred d.val]
  | .pmov d _ _ => [.pred d.val]
  | .bara d _ _ _ => [.reg d.val]
  | .emb d _ => [.reg d.val]
  | .embHearth d _ => [.reg d.val]
  | .tqpush d _ _ _ => [.reg d.val]
  | .tqpop d e _ => [.reg d.val, .reg e.val]
  | .tqpeek d e _ => [.reg d.val, .reg e.val]
  | .sleep d _ _ _ _ => [.reg d.val]
  | .sleepW d _ _ _ _ => [.reg d.val]
  | .timer d _ _ => [.reg d.val]
  | .timerAbs d _ _ => [.reg d.val]
  | .timerOff d _ => [.reg d.val]
  | .mfs d _ _ => [.reg d.val]
  | .fadd _ d _ _ _ => [d.place]
  | .fsub _ d _ _ _ => [d.place]
  | .fmul _ d _ _ _ => [d.place]
  | .fma _ d _ _ _ => [d.place]
  | .fdiv _ d _ _ _ => [d.place]
  | .fsqrt _ d _ _ => [d.place]
  | .fmin _ d _ _ => [d.place]
  | .fmax _ d _ _ => [d.place]
  | .fabs _ d _ => [d.place]
  | .fneg _ d _ => [d.place]
  | .fsgn _ d _ _ => [d.place]
  | .fcmp _ d _ _ => [d.place]
  | .fclass _ d _ => [d.place]
  | .fcvtF _ d _ _ _ => [d.place]
  | .fcvtI _ d _ _ _ => [d.place]
  | .vaddF _ d _ _ _ _ => [d.place]
  | .vsubF _ d _ _ _ _ => [d.place]
  | .vmulF _ d _ _ _ _ => [d.place]
  | .vfma _ d _ _ _ _ => [.vec d.val]
  | .vfms _ d _ _ _ _ => [.vec d.val]
  | .vminF _ d _ _ _ => [d.place]
  | .vmaxF _ d _ _ _ => [d.place]
  | .vabsF _ d _ _ => [d.place]
  | .vnegF _ d _ _ => [d.place]
  | .vdiv _ d _ _ _ _ => [d.place]
  | .vsqrt _ d _ _ _ => [d.place]
  | .vrcp _ d _ _ _ => [d.place]
  | .vrsq _ d _ _ _ => [d.place]
  | .vdotF _ d _ _ _ _ => [.vec d.val]
  | .vexp2 _ d _ _ => [d.place]
  | .vlog2 _ d _ _ => [d.place]
  | .vsin _ d _ _ => [d.place]
  | .vcos _ d _ _ => [d.place]
  | .vtanh _ d _ _ => [d.place]
  | .vand _ d _ _ _ => [d.place]
  | .vor _ d _ _ _ => [d.place]
  | .vxor _ d _ _ _ => [d.place]
  | .vshl _ d _ _ _ => [d.place]
  | .vshr _ d _ _ _ => [d.place]
  | .vsha _ d _ _ _ => [d.place]
  | .vcmpF _ md _ _ _ => maskPlace (md.val % 4) ++ maskPlace (md.val / 4 % 4)
  | .vsel _ d _ _ _ => [d.place]
  | .vcvtF _ d _ _ _ _ => [d.place]
  | .vbcast _ d _ _ => [d.place]
  | .vperm _ d _ _ _ => [d.place]
  | .vredF _ d _ _ _ _ => [d.place]
  | .vcntF _ d _ _ => [d.place]
  | .visabF _ md _ _ => maskPlace md.val
  | .vmkabF _ d _ _ _ => [d.place]
  | .vmov _ d _ _ => [d.place]
  | .vmovToMask md _ => maskPlace md.val
  | .vmovFromMask d _ => [.reg d.val]
  | .vext _ d _ _ _ => [d.place]
  | .vins _ d _ _ _ => [.vec d.val]
  | .xld d _ dp _ => [.vec d.val, .pred (dp.val % 16)]
  | .vrngF _ d _ _ _ => [d.place]
  | .vaddI _ d _ _ _ => [d.place]
  | .vsubI _ d _ _ _ => [d.place]
  | .vmulI _ d _ _ _ => [d.place]
  | .vminI _ d _ _ _ => [d.place]
  | .vmaxI _ d _ _ _ => [d.place]
  | .vabsI _ d _ _ => [d.place]
  | .vnegI _ d _ _ => [d.place]
  | .vdotI _ d _ _ _ => [.vec d.val]
  | .vcmpI _ md _ _ _ => maskPlace (md.val % 4) ++ maskPlace (md.val / 4 % 4)
  | .vcvtI _ d _ _ _ _ => [d.place]
  | .vredI _ d _ _ _ => [d.place]
  | .vcntI _ d _ _ => [d.place]
  | .visabI _ md _ _ => maskPlace md.val
  | .vmkabI _ d _ _ _ => [d.place]
  | .vrngI _ d _ _ _ => [d.place]
  | .movw d _ _ => [.reg d.val]
  | .movwHi d _ => [.reg d.val]
  | .qbind _ _ _ _ d _ => [.reg d.val]
  | .launch d _ _ => [.reg d.val]
  | .bari _ _ d _ => [.reg d.val]
  | .tmov t _ _ _ => [.reg t.val]
  | .plane t _ _ _ => [.reg t.val]
  | .bcpy d _ => [.reg d.val]
  | .gath d _ => [.reg d.val]
  | .scat d _ => [.reg d.val]
  | .coll d _ => [.reg d.val]
  | .mdrain _ _ _ _ _ _ t _ _ => [.reg t.val]
  | .mloadFlt t _ _ => [.reg t.val]
  | .mloadInt t _ _ => [.reg t.val]
  | .mmaF4F4 t _ _ _ => [.reg t.val]
  | .mmaE4E4 t _ _ _ => [.reg t.val]
  | .mmaE5E5 t _ _ _ => [.reg t.val]
  | .mmaE4E5 t _ _ _ => [.reg t.val]
  | .mmaE5E4 t _ _ _ => [.reg t.val]
  | .mmaBF16BF16 t _ _ _ => [.reg t.val]
  | .mmaF16F16 t _ _ _ => [.reg t.val]
  | .mmaBF16F4 t _ _ _ => [.reg t.val]
  | .mmaBF16E4 t _ _ _ => [.reg t.val]
  | .mmaBF16TS8 t _ _ _ => [.reg t.val]
  | .mmaE4TS8 t _ _ _ => [.reg t.val]
  | .mmaI8I8 t _ _ _ => [.reg t.val]
  | _ => []
/-- Whether the two slots of a pair write one destination (13 R225). -/
def clash (c a : Instr) : Bool := c.places.any fun p => a.places.contains p

/-- Decoding of a pair read as a 64-bit little-endian value (13 R215, R225, R231). -/
noncomputable def decodePair (w : BitVec 64) : Option Pair :=
  if w.toNat / 2 ^ 31 % 2 = 1 then (decodeL w.toNat).map .lone
  else
    (decodeC (w.toNat % 2 ^ 31)).bind fun c =>
      (decodeA (w.toNat / 2 ^ 32)).bind fun a => if clash c a then none else some (.slots c a)

/-- The pair of an instruction alone, under 14 R234: a C-slot instruction beside ANOP, an A-slot instruction beside CNOP, a
lone instruction by itself. An event has no word. -/
def encode (i : Instr) : Option (BitVec 64) :=
  match encodeCFields i with
  | some w => some (BitVec.ofNat 64 w.toNat)
  | none =>
    match encodeAFields i with
    | some w => some (BitVec.ofNat 64 (w.toNat * 2 ^ 32))
    | none => (encodeLFields i).map fun w => BitVec.ofNat 64 w.toNat

/-- The pair of two slot instructions. -/
def encodeSlots (c a : Instr) : Option (BitVec 64) :=
  (encodeCFields c).bind fun x => (encodeAFields a).map fun y => BitVec.ofNat 64 (x.toNat + y.toNat * 2 ^ 32)

/-- The instruction of a pair whose other slot is empty; the C-slot instruction where neither is. -/
def Pair.single : Pair → Instr
  | .lone i => i
  | .slots c a => if c = .cnop 0 then (if a = .anop then c else a) else c

/-- The pair that the bits of an opcode-table row stand for. The table numbers bits from the first word, so the bits are word 0
and word 1 is 0 (ANOP). An A-slot row of the table gives the 32 bits of word 1 alone; where the bits are no word 0, they are
laid in word 1 beside CNOP (notes/assumptions/2.md). -/
noncomputable def tablePair (nbits w : Nat) : BitVec 64 :=
  let p := BitVec.ofNat 64 (w % 2 ^ nbits)
  match decodePair p with
  | some _ => p
  | none => if nbits ≤ 32 then BitVec.ofNat 64 (w % 2 ^ nbits * 2 ^ 32) else p

/-- The instruction that the decoder reads from an instruction whose bits are `w`, numbered as the opcode table numbers them. -/
noncomputable def decodeTableWord (nbits w : Nat) : Option Instr := (decodePair (tablePair nbits w)).map Pair.single

end Sys2Proof
end

