-- ==== Sys2Proof/Config.lean ====
section
/-! DEFINITION. Config.lean: what the spec leaves to the device or leaves open, as constants without a body. No proof can
see a value of one of them, so a statement that mentions one holds for every value (notes/assumptions/9.md). -/
namespace Sys2Proof.Config

/-- A free choice, one for each value of the counter `State.fresh`: the die whose lock waiter is served (15 R256), the shape of a
collective's tree outside deterministic mode (04 R90). -/
opaque freeChoice : Nat → Nat

/-- Whether the integers of a collective saturate or wrap where a sum leaves their range: no rule states it (04 R90,
notes/assumptions/18.md). -/
opaque collSaturates : Bool

/-- The result of a special function within the bound of 18 R311: which of the representable values within the bound
the device delivers, by function number, format number and input code. Every device delivers the same (18 R311). -/
opaque specialPick : Nat → Nat → Nat → Nat

/-- The sign of an exact zero sum of terms that are all +0 in round-down mode, by format number: IEEE 754 and 01 R320 differ
there, and no rule states it for FADD, FSUB, FMA, VRED and MEAN (notes/assumptions/10.md). -/
opaque zeroSign : Nat → Bool

/-- The ML-DSA-87 signature (4,627 bytes) of a report under the package's fuse-derived identity key (28 R394), as
byte `i` of the signature of the report of package `pkg`. -/
opaque signature : Nat → List Byte → Nat → Byte

/-- The SHA3-512 hash of the package's identity public key (28 R394), 64 bytes. -/
opaque identityHash : Nat → Nat → Byte

/-- The sizes in bytes of the bookkeeping that the context-save engine adds to the scratchpad, accumulator and queue sections of a save
area, from the launch record's words 3 and 4 alone (12 R214 publishes no formula), each below 2^48: an area that passes VA 2^52 is
never accepted (20 R354). -/
opaque saveSections : Word → Word → BitVec 48 × BitVec 48 × BitVec 48

/-- The words of a thread record whose layout belongs to the context-save engine (12 R214: q0 to q7, the draining state and the
stage-state declaration), as a function of what they encode: a tag, the fields, and which word. -/
opaque engineWord : Nat → List Nat → Nat → Word

/-- What a write of such a word through Mirmor makes of the fields, from the tag, the fields before, which word and the value written
(28 R395). -/
opaque engineFields : Nat → List Nat → Nat → Word → List Nat

/-- The SHA3-512 hash of the signing key that the fuses of a package hold, 64 bytes (28 R392). -/
opaque fusedKey : Nat → Nat → Byte

/-- The least security version that the fuses of a package admit (28 R392). -/
opaque fusedVersion : Nat → BitVec 16


end Sys2Proof.Config
end

