-- ==== Sys2Proof/Machine/Map.lean ====
section
/-! DEFINITION. Machine/Map.lean: sparse maps from numbers, as lists sorted by key, and the arithmetic helpers the machine
shares. -/
namespace Sys2Proof.Machine

/-- The first entry for a key, else the value of an unlisted key. -/
def lookup {α : Type} (d : α) : List (Nat × α) → Nat → α
  | [], _ => d
  | (k, v) :: t, i => if k = i then v else lookup d t i

/-- Writes an entry at its sorted place. -/
def insert {α : Type} : List (Nat × α) → Nat → α → List (Nat × α)
  | [], i, x => [(i, x)]
  | (k, v) :: t, i, x =>
    if k < i then (k, v) :: insert t i x
    else if k = i then (i, x) :: t
    else (i, x) :: (k, v) :: t

/-- Removes every entry of a key. -/
def erase {α : Type} : List (Nat × α) → Nat → List (Nat × α)
  | [], _ => []
  | (k, v) :: t, i => if k = i then erase t i else (k, v) :: erase t i

/-- Writes an entry, keeping no entry that holds what an unlisted key reads as. -/
def store {α : Type} [DecidableEq α] (d : α) (m : List (Nat × α)) (i : Nat) (x : α) : List (Nat × α) :=
  if x = d then erase m i else insert m i x

/-- A set of numbers as a sorted list. -/
def addKey : List Nat → Nat → List Nat
  | [], i => [i]
  | k :: t, i => if k < i then k :: addKey t i else if k = i then k :: t else i :: k :: t

/-- Removes a number from a set. -/
def delKey : List Nat → Nat → List Nat
  | [], _ => []
  | k :: t, i => if k = i then delKey t i else k :: delKey t i

/-- Bits [hi:lo] of a number. -/
def bits (x hi lo : Nat) : Nat := x / 2 ^ lo % 2 ^ (hi + 1 - lo)

/-- Bits [hi:lo] of a word, as a number. -/
def Fld (w : Word) (hi lo : Nat) : Nat := bits w.toNat hi lo

/-- The low `n` bits of `x` read as a two's-complement number. -/
def toSigned (n x : Nat) : Int :=
  let y := x % 2 ^ n
  if n = 0 then 0 else if y < 2 ^ (n - 1) then (y : Int) else (y : Int) - (2 ^ n : Nat)

/-- The low `n` bits of an integer. -/
def toBits (n : Nat) (x : Int) : Nat := (x % ((2 ^ n : Nat) : Int)).toNat

/-- SignExtend(x, n) of 13 R232. -/
def signExtend64 (n x : Nat) : Word := BitVec.ofInt 64 (toSigned n x)

/-- Little-endian bytes of a number (00 R9). -/
def toBytes : Nat → Nat → List Byte
  | 0, _ => []
  | n + 1, x => BitVec.ofNat 8 x :: toBytes n (x / 256)

/-- The number that little-endian bytes hold (00 R9). -/
def ofBytes : List Byte → Nat
  | [] => 0
  | b :: t => b.toNat + 256 * ofBytes t

/-- Two runs of bytes overlap. -/
def overlap (a n b m : Nat) : Bool := decide (a < b + m) && decide (b < a + n)

/-- Replaces bits [hi:lo] of a number. -/
def setBits (x hi lo v : Nat) : Nat :=
  x / 2 ^ (hi + 1) * 2 ^ (hi + 1) + v % 2 ^ (hi + 1 - lo) * 2 ^ lo + x % 2 ^ lo

/-! ### Sorting -/

/-- `x` in a sorted list, before the elements that equal it. -/
def placeIn {α : Type} (le : α → α → Bool) (x : α) : List α → List α
  | [] => [x]
  | y :: t => if le x y then x :: y :: t else y :: placeIn le x t

/-- A list in the order `le`; equal elements keep their order. -/
def inOrderOf {α : Type} (le : α → α → Bool) (l : List α) : List α := l.foldr (placeIn le) []

end Sys2Proof.Machine
end

