-- ==== Sys2Proof/Machine/State.lean ====
section
/-! DEFINITION. Machine/State.lean: everything the spec gives the machine, as plain data, and the machine after reset. One
State is the whole pod. Threads are named by their pod-wide identifier (00 R6): package × 2^17 + core × 16 + slot; cores by
package × 8192 + core; clusters by core / 128; dies by core / 2048. Sparse parts are sorted lists by key (Machine/Map.lean). -/
namespace Sys2Proof.Machine

/-! ### Threads -/

/-- Slot states (09 R161). -/
inductive SlotState where
  | vacant | runnable | parked | stopped | saved
  deriving DecidableEq, Repr

/-- Classes of a slot in a cycle (09 R165). -/
inductive Cls where
  | issued | passed | mem | msg | vacant
  deriving DecidableEq, Repr

/-- What a thread that is not ready waits for: its class (09 R165), the row of 10 R177 with the group it awaits, and the ring
handle that holds it back; 8 in its place says that a RET awaits a window fill (05 R99), and 9 that an XLD awaits its neighbour (09
R170). -/
structure Waiting where
  cls : Cls
  row : Nat
  grp : Option Nat
  ring : Option Nat
  deriving DecidableEq, Repr

/-- The event a PARKED thread waits for (09 R161). -/
inductive Park where
  | none
  | page (ea : Word)
  | sync
  | mailbox
  | lock
  | barrier (ctx ticket : Nat)
  | sleep
  | gangw
  | recvs (sender seq : Nat)
  | waitm (tag : Nat)
  | flue
  deriving DecidableEq, Repr

/-- A slot of a ring as the channel records it: mark, TX and typed bits and, for the TVAL of cause 0x08, the thread that first wrote the
slot, whoever forwards it later (05 R103, 01 R25; that it is the first writer is the model's choice, notes/assumptions/26.md). -/
structure SlotBits where
  mark : Bool
  tx : Bool
  typed : Bool
  sender : Nat
  deriving DecidableEq, Repr

inductive RingKind where
  | unbound | loc | inn | out
  deriving DecidableEq, Repr

/-- A pending merge of a channel (07 R138): the splice that made it and the producer that becomes current. -/
structure Merge where
  snum : Nat
  orig : Nat
  newTid : Nat
  newQ : Nat
  deriving DecidableEq, Repr

/-- A slot staged in an OUT handle since the last commit (16 R281). -/
structure Staged where
  data : Nat
  bits : SlotBits
  deriving DecidableEq, Repr

/-- A ring handle (05 R103, 16 R278 to R281). A LOCAL or IN handle holds its channel: the key of its buffer in the local
store, HEAD, TAIL, FILLED, the slots' bits, the producers, the current one and the pending merge (16 R279). An OUT handle holds
its consumer, its count of free slots, TAIL and the staged slots. `bound` numbers the binding, `consBound` is the binding of the
channel that an OUT handle feeds, and `term` numbers its time as the current producer: a later binding of the same handle is another
channel (16 R280, R281). -/
structure Ring where
  kind : RingKind := .unbound
  size : Nat := 8
  cap : Nat := 2
  base : Nat := 0
  head : Nat := 0
  tail : Nat := 0
  filled : Nat := 0
  bits : List (Nat × SlotBits) := []
  prods : List (Nat × Nat) := []
  cur : Option (Nat × Nat) := none
  merge : Option Merge := none
  cons : Nat := 0
  consQ : Nat := 0
  free : Nat := 0
  staged : List (Nat × Staged) := []
  bound : Nat := 0
  consBound : Nat := 0
  term : Nat := 0
  deriving DecidableEq, Repr

/-- The software-visible system registers of 05 R108 that hold a value of their own. -/
structure SysRegs where
  status : Word := 0
  epc : Word := 0
  cause : Word := 0
  tval : Word := 0
  tvec : Word := 0
  wbase : Word := 0
  wsp : Word := 0
  wlim : Word := 0
  markvec : Word := 0
  markpc : Word := 0
  stage : Word := 0
  timer : Word := 0
  deadline : Word := 0
  embheld : Word := 0
  xlto : Word := 256
  synclim : Word := 0
  rootsel : Word := 0
  deriving DecidableEq, Repr

/-- Where a store in the store buffer goes once it drains: bytes at a physical key, or a slot that OUT handle
`q` commits to the binding `bnd` of its consumer's handle (08 R149, R155). `rest` is (m, k) where a 64-byte access runs into a second page: its bytes
from number m on stand at key k. -/
inductive StoreKind where
  | bytes (key : Nat) (data : List Byte) (rest : Option (Nat × Nat))
  | push (q cons consQ bnd : Nat) (slot : Staged)
  deriving DecidableEq, Repr

/-- An entry of the store buffer (08 R149): its order stamp, its effective address, whether it is a far access and whether it is a
release (15 R249), the deadline that its far-net packets carry (03 R63), and whether they have left. -/
structure StoreEntry where
  id : Nat
  ea : Word
  far : Bool
  release : Bool
  kind : StoreKind
  deadline : Nat := 0
  sent : Bool := false
  deriving DecidableEq, Repr

/-- Gang membership (09 R167): the leader, the member's index and the number of members. -/
structure Gang where
  leader : Nat
  idx : Nat
  n : Nat
  deriving DecidableEq, Repr

/-- Draining state of an outgoing stage (07 R138, R140); `ended` says that it has forwarded its SEAM and ended. -/
structure Drain where
  snum : Nat
  orig : Nat
  inh : Nat
  x : Nat
  ended : Bool := false
  deriving DecidableEq, Repr

/-- A rotation that a long-latency A-slot result holds back (13 R226): CALL with its target, or RET with its. -/
inductive Rotation where
  | call (target : Word)
  | ret (target : Word)
  deriving DecidableEq, Repr

/-- What an INSERT-AFTER with COPY brings a new stage: the bytes of the commit stage's area, its words' full bits and its poisoned
words by number (07 R142, 12 R210). -/
structure Arriving where
  data : List Byte
  full : List Bool
  bad : List Nat
  deriving DecidableEq, Repr

/-- The boundary causes pending on a thread (12 R205, R207): 0x0B, 0x09 (with the EPC of an unlinked STE, R206) and 0x10 with
their TVAL, and 0x0F. -/
structure Pending where
  poison : Option Word := none
  sync : Option (Word × Option Word) := none
  late : Option Word := none
  timer : Bool := false
  deriving DecidableEq, Repr

/-- One thread, in one slot (09 R160). `held` says that pre-emption has stopped its issue (12 R211), `stepping` that Mirmor lets it
issue one pair and `stopping` that it stops once a held rotation has ended its pair (28 R395), `xldCycles` the cycles of its core for which an XLD has waited (09 R170). -/
structure Thread where
  slot : SlotState := .vacant
  pc : Word := 0
  regs : Vector Word 32 := Vector.replicate 32 0
  present : BitVec 32 := BitVec.allOnes 32
  busy : BitVec 32 := 0
  pend : BitVec 32 := 0
  v : Vector (BitVec 512) 16 := Vector.replicate 16 0
  vbusy : BitVec 16 := 0
  m : Vector Word 4 := Vector.replicate 4 0
  p : BitVec 16 := 0
  rings : Vector Ring 8 := Vector.replicate 8 {}
  segs : Vector (Word × Word) 8 := Vector.replicate 8 (0, 0)
  sys : SysRegs := {}
  tenant : Nat := 0
  grp : Option Nat := none
  rank : Nat := 0
  sb : List StoreEntry := []
  fetch : List (Word × Word) := []
  markActive : Bool := false
  draws : Word := 0
  ranges : List (BitVec 16) := []
  overflow : BitVec 32 := 0
  pending : Pending := {}
  park : Park := .none
  wait : Option Waiting := none
  walk : Option Nat := none
  pageFail : Option Word := none
  gang : Option Gang := none
  inherit : Option (Nat × Nat) := none
  drain : Option Drain := none
  inheriting : Bool := false
  arriving : Option Arriving := none
  exited : Bool := false
  windowFault : Option (Nat × Word) := none
  rotate : Option Rotation := none
  xldCycles : Nat := 0
  xldExpired : Bool := false
  stepping : Bool := false
  stopping : Bool := false
  held : Bool := false
  deriving DecidableEq, Repr

/-! ### Accesses, messages and everything in flight -/

/-- The register a value lands in. -/
inductive Dest where
  | none
  | reg (i : Nat)
  | vec (i : Nat)
  deriving DecidableEq, Repr

/-- What an access does at its home (08 R147; 15 R249, R252, R255, R256, R260, R263). -/
inductive AccOp where
  | load (sext : Bool) (acq : Bool)
  | add | fadd (rm : Nat) (draw : Nat) | mins | maxs | minu | maxu | and | or | xor | xchg
  | cas (cmp : Word)
  | lock | unlock
  deriving DecidableEq, Repr

/-- A load or atomic on its way to its location's home; `late` keeps the late bit of a LOCK that its die's waits hold back, whose packet
is gone. -/
structure Access where
  tid : Nat
  op : AccOp
  far : Bool
  key : Nat
  rest : Option (Nat × Nat)
  ea : Word
  n : Nat
  src : Word
  dst : Dest
  deadline : Nat
  late : Bool := false
  deriving DecidableEq, Repr

/-- The synchronising operations (03 R73). -/
inductive SyncOp where
  | ldf | ldfe | ste | stf | feclr | feset | feq | claim
  deriving DecidableEq, Repr

/-- A synchronising access on its way to the word's owner, or a continuation in a deferred-access queue (03 R74, R77), with the
deadline its packet carries and its late bit (03 R63, R64). -/
structure Sync where
  id : Nat
  tid : Nat
  op : SyncOp
  key : Nat
  na : Word
  val : Word
  reg : Nat
  grp : Option Nat
  limit : Nat
  count : Nat
  pc : Word
  deadline : Nat := 0
  late : Bool := false
  deriving DecidableEq, Repr

/-- A message with its header fields (16 R273), its target thread, whether a SEND made it, and the tenant it carries (02 R44). -/
structure Msg where
  sender : Nat
  tag : Nat
  seq : Nat
  typed : Bool
  tx : Bool
  words : List Word
  dst : Nat
  soft : Bool
  tenant : Nat
  deriving DecidableEq, Repr

/-- A translation walk (02 R50) and the access it serves (02 R53). -/
structure Walk where
  tid : Nat
  clid : Nat
  pkg : Nat
  tenant : Nat
  pod : Bool
  va : Nat
  ea : Word
  acc : Nat
  eng : Option Nat
  deriving DecidableEq, Repr

/-- A tile move (16 R267): token, rows, bytes a row, keys and strides in bytes, and whether it is refused (04 R80), with the tenant
and the deadline of its packets and the address of its source. -/
structure Move where
  tid : Nat
  tenant : Nat
  deadline : Nat
  tok : Nat
  rows : Nat
  len : Nat
  src : Nat
  dst : Nat
  sstr : Nat
  dstr : Nat
  refused : Bool
  ea : Word
  deriving DecidableEq, Repr

/-- A PLANE conversion (16 R268, R269), with the TX mode at issue, the tenant and the deadline of its packets and the addresses of its
source and its scales. -/
structure Plane where
  tid : Nat
  tenant : Nat
  deadline : Nat
  tok : Nat
  fmt : Nat
  d : Nat
  roleB : Bool
  sg : Nat
  sstr : Nat
  src : Nat
  dst : Nat
  sscale : Nat
  dscale : Nat
  tx : Bool
  ea : Word
  scaleEa : Word
  deriving DecidableEq, Repr

/-- An endpoint of an engine request (04 R84, R85): a far VA with its space, a near key or a host bus address; `room` is the
number of bytes up to the segment's limit, or to the end of the near range. -/
inductive EndPt where
  | far (pod : Bool) (va : Nat) (room : Nat) (ea : Word)
  | near (key : Nat) (room : Nat)
  | host (addr : Nat)
  deriving DecidableEq, Repr

/-- What holds an engine's request back: nothing, a walk, or a fault that awaits its pager (02 R54). -/
inductive Pause where
  | no | walk | fault
  deriving DecidableEq, Repr

/-- What an engine moves at once: the runs of keys that it reads, none for an absent element, and those that it writes; which
half of a byte an element of 4 bits is, in each; and whether the index of the element was poisoned. -/
structure Hop where
  rd : List (Nat × Nat)
  wr : List (Nat × Nat)
  rn : Nat := 0
  wn : Nat := 0
  bad : Bool := false
  deriving DecidableEq, Repr

/-- A request in a mailbox or with an engine (04 R84, R85): the thread and what FLUE captured, the words of the block, the key
of the index list, how far the engine has come (bytes or indices), bits written, absent or skipped indices, words written
poisoned, when a COLL joined, the logical order of its group (11 R203), the accesses that it has translated and not yet performed,
whose far-net packets may be on their way (03 R63), the order stamp of the first of them, and whether a port has refused one
(03 R66). -/
structure Req where
  tid : Nat
  tenant : Nat
  grp : Option Nat
  deadline : Nat
  det : Bool
  w0 : Word
  w1 : Word
  w2 : Word
  w3 : Word
  idx : Nat
  src : EndPt
  dst : EndPt
  pos : Nat
  done : Nat
  exc : Nat
  bad : Nat
  pause : Pause
  fail : Bool
  since : Nat
  rank : Nat := 0
  path : List Hop := []
  used : Nat := 0
  refused : Bool := false
  deriving DecidableEq, Repr

/-- A matrix command of a core's queue (06 R111), its near addresses as issued (06 R125). MMA: formats, descriptors and
number of blocks; MDRAIN: mode, target, rounding, WRAP, CLR, address and row stride. -/
inductive MatCmd where
  | zero (int : Bool)
  | load (int : Bool) (ad stride : Nat)
  | mma (fa fb : Fmt) (a b : Word) (blocks : Nat)
  | drain (mode : Nat) (fmt : Fmt) (rm : Nat) (wrap clr : Bool) (ad stride : Nat)
  | stat
  deriving DecidableEq, Repr

/-- A queued command with what its issue captured (19 R328): thread, token, group and STATUS.TX; and the blocks that it has
performed. -/
structure Matrix where
  tid : Nat
  tok : Nat
  grp : Option Nat
  cmd : MatCmd
  tx : Bool
  done : Nat
  deriving DecidableEq, Repr

/-- One far-net packet (03 R59 to R66) on its die's net: the next stage (7: at its destination port), its line, its destination
port, the home of its bytes, the NODL bit with the deadline, the late bit, when it reached its switch, its tenant, the core it comes
from, the first key and the number of its bytes, whether it writes, and the accesses it carries, more than one once packets have
combined (03 R62), with those of them that are late. Packets stand in a list in order of arrival. -/
structure Packet where
  stage : Nat
  line : Nat
  dport : Nat
  home : Nat
  nodl : Bool
  deadline : Nat
  late : Bool
  since : Nat
  tenant : Nat
  cid : Nat
  key : Nat
  len : Nat
  wr : Bool
  ids : List Nat
  lates : List Nat
  deriving DecidableEq, Repr

/-- A reply to a load or an atomic: its value, or the address of a poisoned one; the address of a late one; whether it acquires; the
source and destination port of each of its packets, whose replies keep their order (03 R61, R64; 15 R250); the address of its access; and
whether it grants a lock that has waited, which leaves its home when the lock is handed over and follows no older access (15 R256). -/
structure Reply where
  tid : Nat
  dst : Dest
  val : Nat
  poison : Option Word := none
  late : Option Word := none
  acq : Bool := false
  ways : List (Nat × Nat) := []
  ea : Word := 0
  grant : Bool := false
  deriving DecidableEq, Repr

/-- The delivery of an LDF or LDFE: its value, or the address of a poisoned word, and that of a late access (03 R64, R75). -/
structure Delivery where
  tid : Nat
  reg : Nat
  val : Word
  poison : Option Word := none
  late : Option Word := none
  deriving DecidableEq, Repr

/-- Everything that has left its thread and has not ended, by its stamp (State.flight). The row of the table that moves each
one on is named. -/
inductive Item where
  /-- MEMORY_ACCESS_AT_HOME performs it. -/
  | access (a : Access)
  /-- LOAD_REPLY lands it. -/
  | reply (r : Reply)
  /-- LOAD_REPLY lands the result of an instruction of more than 4 cycles (09 R162): a register, a mask or a predicate too. -/
  | result (tid : Nat) (dst : Dest) (val : Nat)
  /-- PUT_ARRIVAL performs it. -/
  | put (tid key : Nat) (data : List Byte)
  /-- PUT_ACKNOWLEDGEMENT ends it; `from_` is a thread of the core that answers, and `late` the late bit (03 R64). -/
  | ack (tid from_ : Nat) (late : Bool)
  /-- REMOTE_REGISTER_WRITE lands it. -/
  | regPut (tid target idx : Nat) (val : Word) (tenant : Nat)
  /-- DELIVERY_LANDING lands it. -/
  | deliver (d : Delivery)
  /-- SYNC_ACCESS_ARRIVAL takes it to the word's owner. -/
  | sync (a : Sync)
  /-- SYNC_REISSUE sends it again. -/
  | refused (a : Sync)
  /-- SEND_DEPARTURE lets it leave the send buffer, with the deadline of its issue (03 R63). -/
  | sending (m : Msg) (deadline : Nat)
  /-- INBOX_ARRIVAL takes it to the inbox. -/
  | message (m : Msg)
  /-- INBOX_RETRY sends it again: with its deadline where it waits on another die than its target's. -/
  | waiting (m : Msg) (deadline : Option Nat)
  /-- RING_RECORD_ARRIVAL puts it into the consumer's channel. -/
  | record (tid q cons consQ bnd : Nat) (slot : Staged)
  /-- RING_CREDIT_RETURN gives `k` free slots back to handle `q` of a producer, while its term as the current producer lasts. -/
  | credit (tid q term k : Nat)
  /-- TILE_MOVE_COMPLETION ends it. -/
  | move (x : Move)
  /-- PLANE_COMPLETION ends it. -/
  | plane (x : Plane)
  /-- COMPLETION_MESSAGE ends it: an engine command of the flue slot of core `cid`. -/
  | engine (cid : Nat) (r : Req)
  /-- A collective that core `cid`'s cluster has joined (04 R90, R91). -/
  | coll (cid : Nat) (r : Req) (frozen : Bool)
  /-- MATRIX_COMMAND_COMPLETION writes its token word. -/
  | matrixDone (tid tok : Nat) (word : Word)
  /-- TABLE_WALK ends it. -/
  | walk (w : Walk)
  /-- FAULT_MESSAGE delivers it to its pager. -/
  | fault (w : Walk) (kind : Nat)
  /-- PAGER_REPLY delivers it. -/
  | pager (tid : Nat) (fail : Bool) (eng : Bool)
  /-- SPLICE_MESSAGE, WAIT_CYCLE, TENANT_REFUSED, FABRIC_DOWN, POWER_ALARM and CTXS_RESULT_MESSAGE deliver hardware messages,
  told apart by `kind` 0 to 5. -/
  | hardware (kind : Nat) (m : Msg)
  /-- TLBI_COMPLETION takes its entries out, and ends it; `gone` is the stamp of the first. -/
  | tlbi (tid : Nat) (desc : Word) (scope : Scope) (gone : Option Nat)
  /-- STATUS_ANSWER_ARRIVAL delivers it. -/
  | status (tid reg : Nat) (val : Word)
  /-- STATUS_ANSWER_ARRIVAL: the consumer's channel performs the binding of OUT handle `q` of `tid`, or refuses it, and the status lands
  (25 R374). -/
  | bind (tid q size cap cons consQ reg : Nat)
  deriving DecidableEq, Repr

/-! ### Cores, clusters, dies -/

/-- An accumulator tile (06 R113, R119): elements by row × 128 + column in the layout of R119, unlisted ones 0, and the elements
that a soft error has poisoned (12 R210). -/
structure Tile where
  elems : List (Nat × Nat) := []
  bad : List Nat := []
  int : Bool := false
  nv : Bool := false
  ov : Bool := false
  csat : Bool := false
  iov : Bool := false
  owner : Option Nat := none
  deriving DecidableEq, Repr

/-- An entry of the ready queue, in insertion order (11 R199, R200). -/
structure Task where
  cls : Nat
  word : Word
  deriving DecidableEq, Repr

/-- An entry of the sleep table (11 R201); `woken` says that its message has arrived and its class had no room. -/
structure Sleeper where
  tag : Nat
  word : Word
  cls : Nat
  woken : Bool
  deriving DecidableEq, Repr

/-- One core: its search pointer (09 R164), the slots that issued in its last three cycles (09 R163), inbox (16 R272), request mailboxes in the order they were filled (04 R83, R85),
matrix command queue and tile (06 R111), task queues (11 R199), slot accounting (28 R398) and whether the flue slot has an event to see (09 R166). -/
structure Core where
  last : Nat := 15
  recent : List (Option Nat) := []
  inbox : List Msg := []
  mail : List (Nat × Req) := []
  queue : List (Nat × Matrix) := []
  tile : Tile := {}
  ready : List Task := []
  sleepers : List Sleeper := []
  tasksOwner : Option Nat := none
  acct : List (Nat × Nat) := []
  freeze : Bool := false
  event : Bool := false
  deriving DecidableEq, Repr

/-- One matrix unit (06 R126 to R128): the arbiter's pointer, the blocks left of the current visit, whether the array is up,
and a hinted ramp-up. -/
structure MatUnit where
  ptr : Nat := 0
  left : Nat := 0
  up : Bool := false
  hinted : Bool := false
  deriving DecidableEq, Repr

/-- An entry of a cluster translation unit (02 R45): tenant, space, page number in units of its page size, whether it is a
2 MiB page, the leaf's key and its contents, and whether D has been set through it (02 R50). -/
structure TuEntry where
  tenant : Nat
  pod : Bool
  big : Bool
  vpn : Nat
  leafKey : Nat
  leaf : Word
  dirty : Bool
  deriving DecidableEq, Repr

/-- One cluster: its translation unit, root registers (02 R46; index tenant × 2 + space) and the tenant that owns it
(03 R66). -/
structure Cluster where
  tu : List TuEntry := []
  roots : List (Nat × Word) := []
  tenant : Nat := 0
  deriving DecidableEq, Repr

/-- One die: late and refusal counters (03 R64, R66), membership bitmaps by port (128 × PKIND + port; unlisted: every tenant),
far-net packets, the switches (64 × stage + switch) that are powered down or waking, the TIME from which each counts idle cycles
(03 R65), and the LOCK accesses that found
the die's 1,024 waits in use, in the order in which they found it (15 R255). -/
structure Die where
  latecnt : BitVec 32 := 0
  tenvcnt : BitVec 32 := 0
  members : List (Nat × BitVec 256) := []
  packets : List Packet := []
  off : List Nat := []
  waking : List Nat := []
  idleFrom : List (Nat × Nat) := []
  heldLocks : List Nat := []
  deriving DecidableEq, Repr

/-! ### Barriers, locks, groups, packages -/

/-- A member of an INITIALISED barrier context, or a group with counts in a DEFAULT one (20 R336 to R338). -/
structure Member where
  pkg : Nat
  grp : Nat
  need : Nat
  cur : Nat
  next : Nat
  gen : BitVec 16
  deriving DecidableEq, Repr

/-- A barrier context (20 R336). -/
structure Barrier where
  init : Bool := false
  gen : BitVec 16 := 0
  members : List Member := []
  deriving DecidableEq, Repr

/-- A LOCK that waits: its thread, its status register, its address, its late bit, and the stamp of its issue (03 R64; 08 R152; 15
R255). -/
structure Waiter where
  tid : Nat
  dst : Dest
  ea : Word
  late : Bool
  id : Nat
  deriving DecidableEq, Repr

/-- A wait queue of a lock word for one die (15 R255). -/
structure LockQueue where
  key : Nat
  die : Nat
  waiters : List Waiter
  deriving DecidableEq, Repr

inductive GroupState where
  | running | saving | saved | resuming
  deriving DecidableEq, Repr

/-- A save area (20 R354): the cluster, tenant, space and VA that it is reached by, and the keys of its pages. -/
structure Area where
  clid : Nat
  tenant : Nat
  pod : Bool
  va : Nat
  pages : List Nat
  deriving DecidableEq, Repr

/-- What the context-save engine keeps of a group beside what it writes to the save area (12 R211, R214; notes/assumptions/22.md). The
threads stay in State.threads as SAVED, under numbers of their own, with their local store under the cores of those numbers
(notes/assumptions/5.md). Here stand the save area, the area that the first accepted CTXS.RESUME names, the cores left, the poisoned words of
the scratchpad runs, and by core of the placement the tiles' state with queued commands, task queues and mailbox requests; the inbox
messages, those that have come since, the lock waits by key, the registers, by rank, that have changed since the save (12 R213), and
whether the requested resume has reserved (12 R212). -/
structure Saved where
  area : Area
  named : Option Area := none
  cores : List Nat := []
  bad : List (List Nat) := []
  tiles : List (Nat × Tile × List Matrix) := []
  tasks : List (Nat × List Task × List Sleeper) := []
  reqs : List (Nat × Req) := []
  inbox : List Msg := []
  msgs : List Msg := []
  locks : List (Nat × Waiter) := []
  changed : List (Nat × Nat) := []
  reserved : Bool := false
  deriving DecidableEq, Repr

/-- A launched group (11 R188 to R198), or one that firmware started (`launched` false). `lsOff` lists the cores of its placement
with their local-store runs; `csp` is its scratchpad run's offset and length; `issuer` and `resumers` are the threads that asked
for its save and its resume, and `again` is a save accepted while it is RESUMING, with the thread that asked (20 R354); `seg0` is SEG0 of its SEGTAB (11 R204). -/
structure Group where
  launched : Bool
  record : List Word
  queue : Option Nat
  tenant : Nat
  grant : Nat
  deadline : Nat
  threads : List Nat
  lsOff : List (Nat × Nat × Nat)
  csp : Option (Nat × Nat)
  state : GroupState := .running
  faulted : Bool := false
  saved : Option Saved := none
  issuer : Option Nat := none
  resumers : List Nat := []
  again : Option (Area × Nat) := none
  seg0 : Word × Word := (0, 0)
  deriving DecidableEq, Repr

/-- A work queue (11 R190): registers, whether the last write of QSTC set a reserved bit, which reads as 0 (00 R10, 11 R198), the record
being written, the committed records with their arrivals, and whether the one at the head has passed the SEGTAB tests (11 R189) and has
reserved (11 R192). -/
structure Queue where
  qcfg : Word := 0
  qstb : Word := 0
  qstc : Word := 0
  tail : Nat := 0
  lost : Nat := 0
  qsth : Word := 0
  qrec : List (Nat × Word) := []
  recs : List (List Word × Nat) := []
  badStc : Bool := false
  checked : Bool := false
  reserved : Bool := false
  deriving DecidableEq, Repr

/-- The bellows registers of 10 R187 that hold a value of their own, the controller's ceiling (10 R184) and the cyclic sets
already reported (10 R181). -/
structure Bellows where
  opthr0 : Word := 0x1000080004000000
  opthr1 : Word := 0x4000300020001800
  ceil : Nat := 7
  ctlCeil : Nat := 7
  free : Nat := 0x400000
  spare : Nat := 0
  cyccnt : Nat := 0
  cyc : Bool := false
  cyclic : List (List Nat) := []
  deriving DecidableEq, Repr

/-- An access of the host through a mailbox window: the window, the offset, the length, and what it writes (28 R382, R383). -/
structure HostAccess where
  win : Nat
  off : Nat
  n : Nat
  data : Option (List Byte)
  deriving DecidableEq, Repr

/-- Mailbox, fabric and power registers (28 R382, R387, R390), ports that are down and since when, those of them whose FTMO has passed, the routing table by package
(28 R386), the power state (28 R391), the alarm, whether the input is low and since when it has been low or normal (28 R389), the
hearths above THOT, and the host accesses that wait for a link (28 R387). -/
structure Surround where
  mbwa : List (Nat × Word) := []
  mbwb : List (Nat × Word) := []
  mberr : Nat := 0
  ftmo : Word := 10000
  down : List Nat := []
  downAt : List (Nat × Nat) := []
  failed : List Nat := []
  routes : List (Nat × Nat) := []
  lattol : Word := 0
  pscur : Nat := 0
  pin : Word := 0
  alarm : Bool := false
  low : Bool := false
  inputAt : Nat := 0
  coolAt : Nat := 0
  thot : Word := 0x0690
  mon : List (Nat × Word) := []
  capped : List Nat := []
  held : List HostAccess := []
  deriving DecidableEq, Repr

/-- Trace, security and Mirmor state (28 R393 to R397). -/
structure Service where
  trbase : Word := 0
  trsize : Word := 0
  trhead : Word := 0
  trtail : Nat := 0
  trctl : Word := 0
  trlost : Nat := 0
  trdrop : Nat := 0
  trfilt : List (Nat × Word) := []
  secmode : Nat := 0
  version : Nat := 0
  mr : List (Nat × Word) := []
  nonce : List (Nat × Word) := []
  attbusy : Bool := false
  attrep : List (Nat × Byte) := []
  mcmd : Word := 0
  mstat : Nat := 0
  brkstop : List Nat := []
  halted : List Nat := []
  halt : Bool := false
  deriving DecidableEq, Repr

/-- What a host read returns (28 R378, R383): its data with the EP bit, Completer Abort, or Unsupported Request. -/
inductive HostAnswer where
  | data (bytes : List Byte) (ep : Bool)
  | abort
  | unsupported
  deriving DecidableEq, Repr

/-- One package. `next` is the last group number given (11 R194), `reserved` the numbers firmware keeps, `fw` what firmware
threads hold (11 R195), `ops` the hearths' operating points and `moving` the changes in progress (10 R183), `irqs` the MSI-X vectors raised (28 R385) and `answers` what host reads returned (28 R383). -/
structure Pkg where
  groups : List (Nat × Group) := []
  next : Nat := 0
  reserved : List Nat := []
  fw : List FwStart := []
  queues : List (Nat × Queue) := []
  counters : List (Nat × BitVec 32) := []
  resumes : List Nat := []
  bellows : Bellows := {}
  ops : List (Nat × Nat) := []
  moving : List (Nat × Nat) := []
  around : Surround := {}
  service : Service := {}
  irqs : List Nat := []
  answers : List HostAnswer := []
  deriving DecidableEq, Repr

/-! ### The machine -/

/-- What keeps an instruction from taking effect: its wait (13 R232), a translation that misses (15 R248), a precise cause with
its TVAL (12 R205), a mark event with word 0 of the record and its sender (07 R133), or a park with its pair unissued
(16 R275). -/
inductive Stop where
  | wait (w : Waiting)
  | walk (w : Walk)
  | trap (cause : Nat) (tval : Word)
  | mark (word : Word)
  | brk
  | park (p : Park) (w : Waiting)
  | vanish
  deriving DecidableEq, Repr

/-- The context of the pair being issued: the 64-bit pair, what stopped the instruction executed last, the threads and the
memory as they stood before the pair (13 R225), the flags the A slot raised (01 R26) and the draws the C slot takes before
the A slot (18 R325). -/
structure Issue where
  word : Word := 0
  stop : Option Stop := none
  before : List (Nat × Thread) := []
  mem : Option (List Host.Cell) := none
  flags : BitVec 6 := 0
  cdraws : Nat := 0
  ganged : Bool := false
  deriving DecidableEq, Repr

/-- Which agent acts next (notes/assumptions/1.md): a core takes a cycle, an event of the table occurs, TIME passes, or a
thread fetches a pair ahead. -/
inductive Turn where
  | core (cid : Nat)
  | event (i : Instr)
  | time (ns : Nat)
  | prefetch (tid : Nat)
  deriving DecidableEq, Repr

/-- The pod. `cur` is the thread that issues; `agenda`, `focus`, `serial`, `fresh` and `iss` are the model's own
(notes/assumptions/5.md). -/
structure State where
  mem : List Host.Cell
  empty : List Nat
  poison : List Nat
  claims : List (Nat × Nat)
  deferred : List (Nat × List Sync)
  threads : List (Nat × Thread)
  cores : List (Nat × Core)
  units : List (Nat × MatUnit)
  clusters : List (Nat × Cluster)
  dies : List (Nat × Die)
  pkgs : List (Nat × Pkg)
  barriers : List (Nat × Barrier)
  locks : List LockQueue
  flight : List (Nat × Item)
  time : BitVec 48
  npkg : Nat
  serial : Nat
  fresh : Nat
  cur : Nat
  focus : Nat
  agenda : List Turn
  iss : Issue
  deriving DecidableEq, Repr

/-- The faults of the machine. None of them is an architectural trap: those are states. -/
inductive Fault where
  /-- Raised by an access whose frame lies outside the 48 GiB or 384 GiB of its tier (02 R39), or whose REMOTE leaf names a package that
  the pod does not have (02 R51): no such memory exists. Safe: the model stops where the spec gives no memory. -/
  | noSuchFrame
  deriving DecidableEq, Repr

/-- The refusals of the machine. -/
inductive Refusal where
  /-- Raised by no meaning: it stands for an instruction of the table without one. Safe. -/
  | notModelled (mnemonic : String)
  deriving DecidableEq, Repr

/-- The pod right after device reset: TIME, memory and every map empty, so every thread is VACANT, every scratchpad byte 0 and
full (03 R72), every tile zero and unowned (06 R113). notes/assumptions/4.md lists the values the spec does not give. -/
def State.reset : State where
  mem := []
  empty := []
  poison := []
  claims := []
  deferred := []
  threads := []
  cores := []
  units := []
  clusters := []
  dies := []
  pkgs := []
  barriers := []
  locks := []
  flight := []
  time := 0
  npkg := 1
  serial := 0
  fresh := 0
  cur := 0
  focus := 0
  agenda := []
  iss := {}

end Sys2Proof.Machine
end

