-- ==== Sys2Proof/Machine/Ops.lean ====
section
/-! DEFINITION. Machine/Ops.lean: the named operations over the state: threads, memory, everything in flight, taking a trap and
returning from one, and how an instruction ends. -/
namespace Sys2Proof.Machine

/-! ### Names of threads and cores (00 R2 to R5) -/

def cidOf (tid : Nat) : Nat := tid / 16
def slotOf (tid : Nat) : Nat := tid % 16
def clidOf (cid : Nat) : Nat := cid / 128
def didOf (cid : Nat) : Nat := cid / 2048
/-- Package of a core. A saved thread whose slot has gone to another keeps its package under a number of its own, above 2^25
(notes/assumptions/5.md). -/
def pkgOf (cid : Nat) : Nat := cid / 8192 % 256

/-- Core index within its cluster (00 R4). -/
def idxOf (cid : Nat) : Nat := cid % 128
def isHob (cid : Nat) : Bool := decide (64 ≤ idxOf cid)
def rowOf (cid : Nat) : Nat := idxOf cid / 8
def colOf (cid : Nat) : Nat := idxOf cid % 8

/-- Hearth within the cluster; 16 holds the hob cores (00 R3). -/
def hearthOf (cid : Nat) : Nat := if isHob cid then 16 else rowOf cid / 2 * 4 + colOf cid / 2

/-- An index that names a core (00 R4). -/
def coreExists (cid : Nat) : Bool := decide (idxOf cid < 68)

/-- A thread's instance of a scope (09 R171). -/
def instanceOf (sc : Scope) (cid : Nat) : Nat :=
  match sc with
  | .core => cid
  | .quad => clidOf cid * 17 + hearthOf cid
  | .cluster => clidOf cid
  | .die => didOf cid
  | .pkg => pkgOf cid
  | .pod | .sys => 0

/-! ### Accessors -/

def State.th (s : State) (t : Nat) : Thread := lookup {} s.threads t
def State.setTh (s : State) (t : Nat) (x : Thread) : State := { s with threads := insert s.threads t x }
def State.core (s : State) (c : Nat) : Core := lookup {} s.cores c
def State.setCore (s : State) (c : Nat) (x : Core) : State := { s with cores := insert s.cores c x }
def State.unit (s : State) (u : Nat) : MatUnit := lookup {} s.units u
def State.setUnit (s : State) (u : Nat) (x : MatUnit) : State := { s with units := insert s.units u x }
def State.cluster (s : State) (c : Nat) : Cluster := lookup {} s.clusters c
def State.setCluster (s : State) (c : Nat) (x : Cluster) : State := { s with clusters := insert s.clusters c x }
def State.die (s : State) (d : Nat) : Die := lookup {} s.dies d
def State.setDie (s : State) (d : Nat) (x : Die) : State := { s with dies := insert s.dies d x }
def State.pkg (s : State) (p : Nat) : Pkg := lookup {} s.pkgs p
def State.setPkg (s : State) (p : Nat) (x : Pkg) : State := { s with pkgs := insert s.pkgs p x }
def State.barrier (s : State) (b : Nat) : Barrier := lookup {} s.barriers b
def State.setBarrier (s : State) (b : Nat) (x : Barrier) : State := { s with barriers := insert s.barriers b x }

/-- A thread enters a slot. It has issued nothing there yet, so that no spacing holds it back (09 R163). -/
def State.seat (s : State) (t : Nat) (x : Thread) : State :=
  let c := s.core (t / 16)
  let s := if c.recent.contains (some (t % 16)) then
      s.setCore (t / 16) { c with recent := c.recent.map fun o => if o = some (t % 16) then none else o }
    else s
  s.setTh t x

/-- The thread that issues. -/
def State.me (s : State) : Thread := s.th s.cur
def State.setMe (s : State) (x : Thread) : State := s.setTh s.cur x
def State.updMe (s : State) (f : Thread → Thread) : State := s.setMe (f s.me)
def State.updTh (s : State) (t : Nat) (f : Thread → Thread) : State := s.setTh t (f (s.th t))
def State.cid (s : State) : Nat := cidOf s.cur

/-- A thread as it stood before the pair being issued: every source is read there (13 R225). -/
def State.before (s : State) (t : Nat) : Thread := lookup (s.th t) s.iss.before t
def State.src (s : State) : Thread := s.before s.cur

/-- Memory as it stood before the pair being issued. -/
def State.srcMem (s : State) : List Host.Cell := s.iss.mem.getD s.mem

/-- STATUS.SUP (05 R109). -/
def Thread.sup (t : Thread) : Bool := t.sys.status.getLsbD 31
def Thread.psup (t : Thread) : Bool := t.sys.status.getLsbD 32
def Thread.det (t : Thread) : Bool := t.sys.status.getLsbD 30
def Thread.tx (t : Thread) : Bool := t.sys.status.getLsbD 29
def Thread.ftz (t : Thread) : Bool := t.sys.status.getLsbD 25
def Thread.sat (t : Thread) : Bool := t.sys.status.getLsbD 24
def Thread.rm (t : Thread) : Nat := Fld t.sys.status 28 26
def Thread.fe (t : Thread) : Nat := Fld t.sys.status 17 12

/-- A thread with another STATUS. -/
def Thread.setStatus (t : Thread) (w : Word) : Thread := { t with sys := { t.sys with status := w } }

/-- SUP and PSUP of a STATUS word replaced. -/
def statusMode (w : Word) (psup sup : Bool) : Word :=
  BitVec.ofNat 64 (setBits (setBits w.toNat 32 32 psup.toNat) 31 31 sup.toNat)

/-- p0 reads as true (05 R96). -/
def Thread.pred (t : Thread) (i : Nat) : Bool := i = 0 || t.p.getLsbD i

/-- A write to p0 has no effect (05 R96). -/
def Thread.setPred (t : Thread) (i : Nat) (b : Bool) : Thread :=
  if i = 0 then t else { t with p := BitVec.ofNat 16 (setBits t.p.toNat i i b.toNat) }

/-- m0 reads as all ones (05 R96). -/
def Thread.mask (t : Thread) (i : Nat) : Word := if i = 0 then BitVec.allOnes 64 else t.m.getD i 0

/-- A write to m0 has no effect (05 R96). -/
def Thread.setMask (t : Thread) (i : Nat) (w : Word) : Thread :=
  if i = 0 then t else { t with m := t.m.setIfInBounds i w }

def setBitOf {n : Nat} (x : BitVec n) (i : Nat) (b : Bool) : BitVec n := BitVec.ofNat n (setBits x.toNat i i b.toNat)

def Thread.reg (t : Thread) (i : Nat) : Word := t.regs.getD i 0
def Thread.vec (t : Thread) (i : Nat) : BitVec 512 := t.v.getD i 0
def Thread.ring (t : Thread) (i : Nat) : Ring := t.rings.getD i {}
def Thread.seg (t : Thread) (i : Nat) : Word × Word := t.segs.getD i (0, 0)

/-- A write of a scalar register sets its presence (05 R95). -/
def Thread.setReg (t : Thread) (i : Nat) (w : Word) : Thread :=
  { t with regs := t.regs.setIfInBounds i w, present := setBitOf t.present i true }
def Thread.setVec (t : Thread) (i : Nat) (w : BitVec 512) : Thread := { t with v := t.v.setIfInBounds i w }
def Thread.setRing (t : Thread) (i : Nat) (r : Ring) : Thread := { t with rings := t.rings.setIfInBounds i r }
def Thread.setSeg (t : Thread) (i : Nat) (x : Word × Word) : Thread := { t with segs := t.segs.setIfInBounds i x }
def Thread.setBusy (t : Thread) (i : Nat) (b : Bool) : Thread := { t with busy := setBitOf t.busy i b }
def Thread.setVBusy (t : Thread) (i : Nat) (b : Bool) : Thread := { t with vbusy := setBitOf t.vbusy i b }
def Thread.setPend (t : Thread) (i : Nat) (b : Bool) : Thread := { t with pend := setBitOf t.pend i b }
def Thread.clearPresent (t : Thread) (i : Nat) : Thread := { t with present := setBitOf t.present i false }

/-- A live thread (10 R176). -/
def Thread.live (t : Thread) : Bool :=
  !t.exited && (t.slot = .runnable || t.slot = .parked || t.slot = .stopped)

/-! ### Physical keys

Every byte of the pod has one key: far memory by package, die, tier and offset; the scratchpads, the accumulator store and the
register aperture in ranges of their own; host memory above 2^64; the local stores of saved threads above 2^66. -/

def keyFar (pkg die tier off : Nat) : Nat := ((pkg * 4 + die) * 2 + tier) * 2 ^ 39 + off
def keyLocal (cid off : Nat) : Nat := (if cid < 2 ^ 21 then 2 ^ 50 else 2 ^ 66) + cid * 2 ^ 18 + off
def keyCluster (clid off : Nat) : Nat := 2 ^ 51 + clid * 2 ^ 23 + off
def keyDie (did off : Nat) : Nat := 2 ^ 52 + did * 2 ^ 26 + off
def keyAcc (cid idx : Nat) : Nat := 2 ^ 53 + (cid * 2 ^ 14 + idx) * 8
def keyAper (pkg off : Nat) : Nat := 2 ^ 55 + pkg * 2 ^ 26 + off
def keyHost (addr : Nat) : Nat := 2 ^ 64 + addr

def isFarKey (k : Nat) : Bool := decide (k < 2 ^ 50)
def isLocalKey (k : Nat) : Bool := (decide (2 ^ 50 ≤ k) && decide (k < 2 ^ 51)) || decide (2 ^ 66 ≤ k)
/-- The core of a local-store key. -/
def localCore (k : Nat) : Nat := (k - (if k < 2 ^ 66 then 2 ^ 50 else 2 ^ 66)) / 2 ^ 18
def isAperKey (k : Nat) : Bool := decide (2 ^ 55 ≤ k) && decide (k < 2 ^ 56)

/-- A far byte that its tier holds: 48 GiB of stacked DRAM or 384 GiB of LPDDR (02 R39). -/
def farExists (k : Nat) : Bool :=
  decide (k % 2 ^ 39 < (if k / 2 ^ 39 % 2 = 0 then 48 * 2 ^ 30 else 384 * 2 ^ 30))

def isHostKey (k : Nat) : Bool := decide (2 ^ 64 ≤ k) && decide (k < 2 ^ 66)

/-- The die a byte is homed on (08 before R149): package × 4 + die. -/
def homeOf (k : Nat) : Nat :=
  if isFarKey k then k / 2 ^ 40
  else if isLocalKey k then didOf (localCore k)
  else if k < 2 ^ 52 then (k - 2 ^ 51) / 2 ^ 23 / 16
  else (k - 2 ^ 52) / 2 ^ 26

/-! ### Memory -/

/-- What a byte that nothing has written reads as: scratchpads 0 (03 R72); far and host memory notes/assumptions/3.md. -/
def unlisted : Byte := 0

/-- The canonical form of a memory: addresses strictly rising, and no entry that holds what an unlisted address reads as. -/
def Memory.wf (m : List Host.Cell) : Bool :=
  decide (m.Pairwise fun a b => a.1 < b.1) && m.all fun c => decide (c.2 ≠ unlisted)

def readByte (m : List Host.Cell) (k : Nat) : Byte := lookup unlisted m k

def readBytes (m : List Host.Cell) (k : Nat) : Nat → List Byte
  | 0 => []
  | n + 1 => readByte m k :: readBytes m (k + 1) n

/-- Writes bytes upward from a key, but for the bytes that `skip` names. -/
def writeBytes (skip : Nat → Bool) (m : List Host.Cell) (k : Nat) : List Byte → List Host.Cell
  | [] => m
  | b :: t => writeBytes skip (if skip k then m else store unlisted m k b) (k + 1) t

/-- The channel descriptor of a bound LOCAL or IN ring covers a local-store byte: it reads 0 and discards writes (16 R279). -/
def State.hidden (s : State) (k : Nat) : Bool :=
  isLocalKey k &&
    (List.range 16).any fun sl =>
      (s.th (localCore k * 16 + sl)).rings.toList.any fun r =>
        (r.kind = .loc || r.kind = .inn) && decide (r.base ≤ k) && decide (k < r.base + 128)

/-- The value of `n` bytes of `m` as an access reads them. -/
def State.loadFrom (s : State) (m : List Host.Cell) (k n : Nat) : Nat :=
  ofBytes ((List.range n).map fun i => if s.hidden (k + i) then 0 else readByte m (k + i))

def State.load (s : State) (k n : Nat) : Nat := s.loadFrom s.mem k n

/-- Whether an access of `n` bytes from `k` meets a poisoned word (02 R58, 12 R210). One of a bound channel descriptor reads 0 (16 R279). -/
def State.poisoned (s : State) (k n : Nat) : Bool :=
  s.poison.any fun w => decide (w * 8 < k + n) && decide (k < w * 8 + 8) && !s.hidden (w * 8)

/-- An aligned word that the `n` bytes from `k` cover whole. -/
def coversWord (k n w : Nat) : Bool := decide (k ≤ w * 8) && decide (w * 8 + 8 ≤ k + n)

/-- A write of bytes: whole words lose their poison, a narrower write to a poisoned word writes nothing there (02 R58,
12 R210, 15 R260). A store that has passed its check and whose word is poisoned before it drains is such a write: it is dropped, with no
trap, which is the model's choice (notes/assumptions/26.md). What is written to a bound channel descriptor is discarded, and its words
keep their poison (16 R279). -/
def State.storeAt (s : State) (k : Nat) (data : List Byte) : State :=
  let n := data.length
  let skip (b : Nat) : Bool := s.hidden b || (s.poison.contains (b / 8) && !coversWord k n (b / 8))
  { s with
    mem := writeBytes skip s.mem k data
    poison := s.poison.filter fun w => !coversWord k n w || s.hidden (w * 8) }

def State.isFull (s : State) (k : Nat) : Bool := !s.empty.contains (k / 8)
def State.setFull (s : State) (k : Nat) (full : Bool) : State :=
  { s with empty := if full then delKey s.empty (k / 8) else addKey s.empty (k / 8) }
def State.claim (s : State) (k : Nat) : Option Nat := (s.claims.find? fun p => p.1 = k / 8).map (·.2)
def State.setClaim (s : State) (k : Nat) (g : Option Nat) : State :=
  { s with claims := match g with
    | some g => insert s.claims (k / 8) g
    | none => erase s.claims (k / 8) }
def State.addPoison (s : State) (k : Nat) : State := { s with poison := addKey s.poison (k / 8) }

/-! ### In flight -/

def State.item (s : State) (id : Nat) : Option Item := (s.flight.find? fun p => p.1 = id).map (·.2)
def State.setItem (s : State) (id : Nat) (x : Item) : State := { s with flight := insert s.flight id x }
def State.dropItem (s : State) (id : Nat) : State := { s with flight := erase s.flight id }

/-- Sends something off with the next order stamp. -/
def State.post (s : State) (x : Item) : State :=
  { s with flight := insert s.flight s.serial x, serial := s.serial + 1 }

/-- An order stamp is used up: by a store, a binding of a ring, a term as the current producer, or an access of an engine. -/
def State.numbered (s : State) : State := { s with serial := s.serial + 1 }

/-- The thread an item belongs to, where it holds that thread's order (08 R149 to R154). -/
def Item.owner : Item → Option Nat
  | .access a => some a.tid
  | .reply r => some r.tid
  | .deliver d => some d.tid
  | .result t _ _ | .put t _ _ | .ack t _ _ | .regPut t _ _ _ _ => some t
  | .sync a | .refused a => some a.tid
  | .sending m _ => some m.sender
  | .record t _ _ _ _ _ => some t
  | .move x => some x.tid
  | .plane x => some x.tid
  | .matrixDone t _ _ => some t
  | .tlbi t _ _ _ | .status t _ _ | .bind t _ _ _ _ _ _ => some t
  | _ => none

/-- Earlier loads and atomics of the thread that have not delivered (08 R152 step 1 and 3). -/
def Item.undelivered : Item → Bool
  | .access _ => true
  | .reply _ => true
  | .sync a | .refused a => a.op = .ldf || a.op = .ldfe || a.op = .feq || a.op = .feclr || a.op = .feset || a.op = .claim
  | .deliver _ => true
  | _ => false

/-- Puts not yet acknowledged (08 R151). -/
def Item.isPut : Item → Bool
  | .put _ _ _ | .ack _ _ _ | .regPut _ _ _ _ _ => true
  | _ => false

def State.ofThread (s : State) (t : Nat) : List (Nat × Item) := s.flight.filter fun p => p.2.owner = some t

/-- Every parked synchronising access of a thread. -/
def State.parkedSyncs (s : State) (t : Nat) : List Sync :=
  (s.deferred.map fun p => p.2.filter fun a => a.tid = t).flatten

/-- The waits of a thread's LOCKs in the queues of their words (15 R255). -/
def State.queuedLocks (s : State) (t : Nat) : List Waiter :=
  s.locks.flatMap fun q => q.waiters.filter fun w => decide (w.tid = t)

/-- Stores that entered the thread's buffer before stamp `id` have drained (08 R149). -/
def State.drained (s : State) (t id : Nat) : Bool := (s.th t).sb.all fun e => decide (id ≤ e.id)

/-- Puts issued before stamp `id` are acknowledged (08 R151). -/
def State.putsAcked (s : State) (t id : Nat) : Bool :=
  (s.ofThread t).all fun p => !(decide (p.1 < id) && p.2.isPut)

/-- The waits of 08 R152 for a release with stamp `id`; a LOCK that waits in its word's queue has not delivered its value. -/
def State.released (s : State) (t id : Nat) : Bool :=
  s.drained t id &&
    (s.ofThread t).all (fun p => !(decide (p.1 < id) && (p.2.isPut || p.2.undelivered))) &&
    ((s.parkedSyncs t).all fun a => !(decide (a.id < id) && (a.op = .ldf || a.op = .ldfe))) &&
    (s.queuedLocks t).all fun w => decide (id ≤ w.id)

/-- An acquire whose value has not been delivered holds later accesses back (08 R152). -/
def Item.isAcquire : Item → Bool
  | .access a => match a.op with
    | .load _ acq => acq
    | .lock => true
    | _ => false
  | .reply r => r.acq
  | .sync a | .refused a => a.op = .ldf || a.op = .ldfe
  | .deliver _ => true
  | _ => false

/-- An atomic that has not been performed holds later loads, stores and atomics back (08 R150; 15 R247, R252). -/
def Item.isAtomic : Item → Bool
  | .access a => match a.op with
    | .load _ _ | .lock | .unlock => false
    | _ => true
  | .sync a | .refused a => a.op = .feq || a.op = .feclr || a.op = .feset || a.op = .claim
  | _ => false

def State.acquiring (s : State) (t : Nat) : Bool :=
  (s.ofThread t).any (fun p => p.2.isAcquire) || (s.parkedSyncs t).any fun a => a.op = .ldf || a.op = .ldfe

def State.atomicPending (s : State) (t : Nat) : Bool := (s.ofThread t).any fun p => p.2.isAtomic

/-- Counts as one of the 8 outstanding loads until it lands (09 R162). -/
def Item.isLoad : Item → Bool
  | .access a => a.dst ≠ .none
  | .reply r => r.dst ≠ .none
  | .sync a | .refused a => a.op = .ldf || a.op = .ldfe || a.op = .feq
  | .deliver _ => true
  | _ => false

def State.loads (s : State) (t : Nat) : Nat :=
  ((s.ofThread t).filter fun p => p.2.isLoad).length +
    ((s.parkedSyncs t).filter fun a => a.op = .ldf || a.op = .ldfe).length

/-- Tile moves, PLANEs and matrix commands outstanding (04 R80, 06 R121). -/
def State.moves (s : State) (t : Nat) : Nat :=
  ((s.ofThread t).filter fun p => match p.2 with
    | .move _ | .plane _ | .matrixDone _ _ _ => true
    | _ => false).length +
    ((s.core (cidOf t)).queue.filter fun p => p.2.tid = t).length

/-! ### Groups -/

def State.group (s : State) (pkg g : Nat) : Option Group := ((s.pkg pkg).groups.find? fun p => p.1 = g).map (·.2)
def State.setGroup (s : State) (pkg g : Nat) (x : Group) : State :=
  let p := s.pkg pkg
  s.setPkg pkg { p with groups := insert p.groups g x }

/-- The group number that an edge or a holder word names; 0 names no group (11 R194). -/
def Thread.groupNo (t : Thread) : Nat := t.grp.getD 0

/-- A thread ends as by EXIT: it issues nothing more and is no longer live (09 R161, 17 R303). -/
def Thread.exit (t : Thread) : Thread := { t with exited := true, slot := .runnable, park := .none, wait := none }

/-- The thread that a pod-wide identifier reaches: while a slot stays SAVED, the saved thread that held it (05 R101, 12 R213). -/
def State.savedAs (s : State) (t : Nat) : Nat :=
  if (s.th t).slot = .saved then
    match s.threads.find? fun p => decide (p.1 % 2 ^ 25 = t) && decide (p.1 ≠ t) && p.2.slot = .saved && p.2.grp = (s.th t).grp with
    | some p => p.1
    | none => t
  else t

/-! ### Barrier contexts (20 R336, R338) -/

def scopeCode : Scope → Nat
  | .core => 0 | .quad => 1 | .cluster => 2 | .die => 3 | .pkg => 4 | .pod => 5 | .sys => 6

/-- A barrier context's number: scope, instance, tenant and context. -/
def barrierKey (sc : Scope) (inst tenant b : Nat) : Nat := ((scopeCode sc * 2 ^ 22 + inst) * 256 + tenant % 256) * 16 + b

def scopeOfCode (n : Nat) : Scope :=
  match n with
  | 0 => .core | 1 => .quad | 2 => .cluster | 3 => .die | 4 => .pkg | _ => .pod

/-- A core lies in the scope instance of a context. -/
def inContext (key cid : Nat) : Bool :=
  decide (instanceOf (scopeOfCode (key / 2 ^ 34)) cid = key / 2 ^ 12 % 2 ^ 22)

/-- The need of a group in a DEFAULT context: its live threads in the scope instance. A thread of no group arrives alone
(notes/assumptions/14.md). -/
def State.needOf (s : State) (key pkg g : Nat) : Nat :=
  if g = 0 then 1
  else s.threads.countP fun p =>
    p.2.live && p.2.grp = some g && pkgOf (cidOf p.1) = pkg && inContext key (cidOf p.1)

/-- Whether a phase completes: an arrival has counted, and every member has met its need. -/
def phaseDone (ms : List (Member × Nat)) : Bool :=
  ms.any (fun m => decide (0 < m.1.cur)) && ms.all fun m => decide (m.2 ≤ m.1.cur)

def Member.shift (m : Member) : Member := { m with cur := m.next, next := 0, gen := m.gen + 1 }

/-- One turn of the completion loop of 20 R338. -/
def Barrier.turn (need : Member → Nat) (b : Barrier) : Barrier :=
  if b.init then
    if phaseDone (b.members.map fun m => (m, m.need)) then { b with gen := b.gen + 1, members := b.members.map Member.shift } else b
  else { b with members := b.members.map fun m => if phaseDone [(m, need m)] then m.shift else m }

/-- A SAVED group's arrivals stay counted: its phase does not complete while it is saved (12 R213, 20 R338). -/
def State.needNow (s : State) (key : Nat) (m : Member) : Nat :=
  if (s.group m.pkg m.grp).any fun x => x.state = .saved || x.state = .resuming then m.cur + 1 else s.needOf key m.pkg m.grp

/-- Completion is re-evaluated; the counts of one phase and the next are all there are, so two turns end the loop. -/
def State.evalBarrier (s : State) (key : Nat) : State :=
  let need (m : Member) : Nat := s.needNow key m
  s.setBarrier key (((s.barrier key).turn need).turn need)

/-- A thread of a group has ended: the DEFAULT contexts in which the group counts re-evaluate completion. -/
def State.evalGroup (s : State) (pkg : Nat) (g : Option Nat) : State :=
  match g with
  | none => s
  | some g => s.barriers.foldl (fun s b =>
      if !b.2.init && b.2.members.any fun m => m.pkg = pkg && m.grp = g then
        let need (m : Member) : Nat := if m.pkg = pkg && m.grp = g then s.needNow b.1 m else m.cur + 1
        s.setBarrier b.1 (((s.barrier b.1).turn need).turn need)
      else s) s

/-- A thread ends as by EXIT: its core discards the messages addressed to its slot (16 R272), and every need that falls with it is
re-evaluated (20 R338). -/
def State.exitThread (s : State) (t : Nat) : State :=
  let c := s.core (cidOf t)
  let s := if c.inbox.any fun m => decide (m.dst = t) then
      s.setCore (cidOf t) { c with inbox := c.inbox.filter fun m => decide (m.dst ≠ t) }
    else s
  (s.updTh t Thread.exit).evalGroup (pkgOf (cidOf t)) (s.th t).grp

/-! ### Status rings (11 R190, R198) -/

def Pkg.queue (p : Pkg) (q : Nat) : Queue := lookup {} p.queues q
def Pkg.setQueue (p : Pkg) (q : Nat) (x : Queue) : Pkg := { p with queues := insert p.queues q x }
def State.updPkg (s : State) (p : Nat) (f : Pkg → Pkg) : State := s.setPkg p (f (s.pkg p))
def State.updAround (s : State) (pkg : Nat) (f : Surround → Surround) : State :=
  s.updPkg pkg fun p => { p with around := f p.around }

/-- The package returns to PS0 (28 R391). -/
def State.wakePkg (s : State) (pkg : Nat) : State :=
  if (s.pkg pkg).around.pscur = 0 then s else s.updAround pkg fun a => { a with pscur := 0 }

/-- What comes over the fabric from a thread of another package wakes the package of the thread that it is for (28 R391). -/
def State.wakeFrom (s : State) (from_ to_ : Nat) : State :=
  if pkgOf (cidOf from_) = pkgOf (cidOf to_) then s else s.wakePkg (pkgOf (cidOf to_))

/-- An interrupt vector is raised; a value above 4,095 raises none (28 R385). -/
def Pkg.raise (p : Pkg) (v : Nat) : Pkg := if v < 4096 then { p with irqs := p.irqs ++ [v] } else p

/-- Ring entries of QSTC: a power of two from 2 to 32,768, and no reserved bit written (11 R198). -/
def Queue.ringOk (q : Queue) : Bool :=
  (List.range 15).any (fun i => decide (Fld q.qstc 15 0 = 2 ^ (i + 1))) && !q.badStc

/-- LOST saturates (11 R190). -/
def Queue.lose (q : Queue) : Queue := { q with lost := min (q.lost + 1) 0xFFFF }

/-- Word 0 and word 1 of a status record (11 R198). -/
def statusWords (event time group task q : Nat) : List Nat :=
  [event * 2 ^ 56 + time, group * 2 ^ 48 + task * 2 ^ 32 + q]

/-- The dispatcher writes a status record into a queue's ring and raises its vector, skips it, or counts it lost (11 R198). -/
def State.statusRecord (s : State) (pkg q event group task : Nat) : State :=
  let x := (s.pkg pkg).queue q
  let base := Fld x.qstb 63 6 * 64
  if base = 0 then s
  else if !x.ringOk then s.updPkg pkg fun p => p.setQueue q x.lose
  else
    let n := Fld x.qstc 15 0
    if (x.tail + 1) % n = Fld x.qsth 15 0 % n then s.updPkg pkg fun p => p.setQueue q x.lose
    else
      let s := s.storeAt (keyHost (base + 16 * x.tail))
        ((statusWords event s.time.toNat group task q).map (toBytes 8)).flatten
      s.updPkg pkg fun p => (p.setQueue q { x with tail := (x.tail + 1) % n }).raise (Fld x.qstc 47 32)

/-- A record about a group goes into the ring of its launching queue; a group without one gets none (11 R198). -/
def State.groupRecord (s : State) (pkg g event task : Nat) : State :=
  match (s.group pkg g).bind (·.queue) with
  | some q => s.statusRecord pkg q event g task
  | none => s

/-- A trap with TVEC 0 ends the thread's group: every thread exits, and the group ends FAULTED (11 R198, 12 R208). -/
def State.endGroup (s : State) (t : Nat) : State :=
  let pkg := pkgOf (cidOf t)
  match (s.th t).grp with
  | none => s.exitThread t
  | some g =>
    match s.group pkg g with
    | none => s.exitThread t
    | some x =>
      let s := if x.faulted then s else (s.setGroup pkg g { x with faulted := true }).groupRecord pkg g 3 0
      (t :: x.threads).foldl (fun s u => if (s.th u).slot = .vacant then s else s.exitThread u) s

/-! ### Gangs (09 R167 to R169) -/

/-- The thread of member `j` of a gang: the leader's slot on the core at its row, `j` columns on. -/
def gangMember (leader j : Nat) : Nat :=
  let c := cidOf leader
  (c / 8 * 8 + (c % 8 + j) % 8) * 16 + slotOf leader

def gangMembers (g : Gang) : List Nat := (List.range g.n).map (gangMember g.leader)

/-- The gang ends and every member continues alone. -/
def State.endGang (s : State) (t : Nat) : State :=
  match (s.th t).gang with
  | none => s
  | some g => (gangMembers g).foldl (fun s u => s.updTh u fun x => { x with gang := none }) s

/-! ### Traps -/

/-- Trap entry (12 R208): the address named by R205, the cause and its TVAL are saved, PSUP takes SUP, SUP is set, the fetch
buffer is discarded, and the PC goes to TVEC; TVEC 0 ends the group. A pager's FAIL that the pair has not met yet is forgotten: the pair
walks afresh when it issues again, which is the model's choice (02 R52; notes/assumptions/26.md). -/
def State.enterTrap (s : State) (t : Nat) (epc : Word) (cause : Nat) (tval : Word) : State :=
  let x := s.th t
  let s := s.endGang t
  let s := s.updTh t fun y =>
    { y with
      sys := { y.sys with
        epc := epc
        cause := BitVec.ofNat 64 cause
        tval := tval
        status := statusMode y.sys.status y.sup true }
      fetch := []
      wait := none
      walk := none
      windowFault := none
      pageFail := none
      xldCycles := 0
      xldExpired := false }
  if x.sys.tvec = 0 then s.endGroup t else s.updTh t fun y => { y with pc := x.sys.tvec }

/-- Return from a trap (20 R349): SUP takes PSUP, the fetch buffer is discarded, the PC goes to EPC. -/
def State.leaveTrap (s : State) (t : Nat) : State :=
  s.updTh t fun y =>
    { y with
      pc := y.sys.epc
      fetch := []
      sys := { y.sys with status := statusMode y.sys.status y.psup y.psup } }

/-- A mark event, or the trap that MARKVEC gives in its place: 0x0A with word 0 of the record, or 0x05 (07 R133). -/
def State.enterMark (s : State) (t : Nat) (word : Word) : State :=
  let vec := (s.th t).sys.markvec
  if vec = 0 then s.enterTrap t (s.th t).pc 0x0A word
  else if vec.toNat % 8 ≠ 0 then s.enterTrap t (s.th t).pc 0x05 vec
  else
    (s.endGang t).updTh t fun y =>
      { y with
        sys := { y.sys with markpc := y.pc }
        markActive := true
        fetch := []
        wait := none
        pc := vec
        xldCycles := 0
        xldExpired := false }

/-! ### How an instruction ends -/

abbrev Out := Host.Outcome State Fault Refusal
abbrev R := Except Stop State

/-- The walks in flight of a cluster translation unit (02 R45). -/
def State.walksOf (s : State) (clid : Nat) : List (Nat × Walk) :=
  s.flight.filterMap fun p => match p.2 with
    | .walk w => if w.clid = clid then some (p.1, w) else none
    | _ => none

/-- Two walks for one page: a miss joins the walk of its page, whatever kind of access started it (02 R45). While a walk runs the page is
known by its 64 KiB number, so misses to two 64 KiB blocks of one 2 MiB page start two walks: the model's choice
(notes/assumptions/26.md). -/
def sameWalk (a b : Walk) : Bool := a.tenant = b.tenant && a.pod = b.pod && a.va / 2 ^ 16 = b.va / 2 ^ 16

/-- A walk may start: none runs for its page, and a walker is free (02 R45). -/
def State.walkFree (s : State) (w : Walk) : Bool :=
  let ws := s.walksOf w.clid
  !(ws.any fun p => sameWalk p.2 w) && decide (ws.length < 64)

/-- A miss starts a walk, joins one that runs for its page, or waits while all 64 walkers are busy (02 R45). A thread that has joined
another's walk looks again once that has ended, and starts its own where the leaf found there does not serve it. -/
def State.startWalk (s : State) (w : Walk) : State :=
  let mine := (s.walksOf w.clid).find? fun p => p.2 = w
  let s := s.updTh w.tid fun t => { t with wait := some ⟨.mem, 1, none, none⟩, walk := none }
  match mine with
  | some p => s.updTh w.tid fun t => { t with walk := some p.1 }
  | none =>
    if !s.walkFree w then s
    else
      let s := s.updTh w.tid fun t => { t with walk := some s.serial }
      s.post (.walk w)

/-- Records what stopped the instruction and does what that entails. -/
def State.halted (s : State) (st : Stop) : State :=
  let s := { s with iss := { s.iss with stop := some st } }
  let s := match st with
    | .walk _ => s
    | _ => s.updMe fun t => { t with walk := none }
  match st with
  | .wait w => s.updMe fun t => { t with wait := some w }
  | .walk w => s.startWalk w
  | .trap c v => s.enterTrap s.cur s.me.pc c v
  | .mark w => s.enterMark s.cur w
  | .brk => (s.endGang s.cur).updMe fun t => { t with slot := .stopped, wait := none, stepping := false }
  | .park p w => s.updMe fun t => { t with slot := .parked, park := p, wait := some w }
  | .vanish => s

/-- An instruction ends: its next state, or what stopped it. -/
def State.conclude (s : State) (r : R) : Out :=
  match r with
  | .ok s' => .next s'
  | .error st => .next (s.halted st)

/-- The PC moves past the pair (13 R225). -/
def State.advance (s : State) : State := s.updMe fun t => { t with pc := t.pc + 8, wait := none }

/-- The PC goes to a transfer target (13 R225). -/
def State.jump (s : State) (target : Word) : State := s.updMe fun t => { t with pc := target, wait := none }

/-- The guard of a pair, read before it (13 R224). -/
def State.guarded (s : State) (g : Fin 8) : Bool := s.src.pred g.val

/-- A C-R instruction: with a false guard the pair does nothing but advance; otherwise the PC moves past it. -/
def State.issueC (s : State) (g : Fin 8) (f : State → R) : Out :=
  if s.guarded g then s.conclude ((f s).map State.advance) else .next s.advance

/-- A C-I instruction or a lone pair that does not transfer. -/
def State.issue (s : State) (f : State → R) : Out := s.conclude ((f s).map State.advance)

/-- An A-slot instruction: the C slot of the pair moves the PC. -/
def State.issueA (s : State) (f : State → R) : Out := s.conclude (f s)

/-- A transfer: `f` itself sets the PC. -/
def State.issueJ (s : State) (g : Fin 8) (f : State → R) : Out :=
  if s.guarded g then s.conclude (f s) else .next s.advance

def trap (cause : Nat) (tval : Word) : R := .error (.trap cause tval)

/-- A cause whose TVAL is the pair as fetched (12 R205: 0x01, 0x02, 0x07). -/
def State.trapPair (s : State) (cause : Nat) : R := .error (.trap cause s.iss.word)

/-- Continues unless `bad`, which raises a cause. -/
def raiseIf (bad : Bool) (cause : Nat) (tval : Word) : Except Stop Unit :=
  if bad then .error (.trap cause tval) else .ok ()

def waitIf (no : Bool) (w : Waiting) : Except Stop Unit := if no then .error (.wait w) else .ok ()

/-- Not ready on memory, share to the own hearth (10 R177 row 1). -/
def onMemory : Waiting := ⟨.mem, 1, none, none⟩

/-- The place of a row of 10 R177 among several that apply: row 1 holds only of what waits on nothing else. -/
def rowPlace (row : Nat) : Nat := if row = 1 then 9 else row

/-- Two conditions at once: the first row that applies decides (10 R177). The class is MEM where one of them is, and PASSED where both
are (09 R165; notes/assumptions/11.md). A wait on q0 shows among waits on several rings, whatever the order of the operands, since a held
splice and a drain-through look for it (07 R137, R140). -/
def Waiting.and (a b : Waiting) : Waiting :=
  let x := if rowPlace a.row ≤ rowPlace b.row then a else b
  { x with
    cls := if a.cls = .mem || b.cls = .mem then .mem else if a.cls = .msg || b.cls = .msg then .msg else a.cls
    ring := if a.ring = some 0 || b.ring = some 0 then some 0 else a.ring.or b.ring }

/-- The waits that hold, counted together. -/
def joinWaits (l : List (Option Waiting)) : Option Waiting :=
  match l.filterMap id with
  | [] => none
  | w :: ws => some (ws.foldl Waiting.and w)

/-- The wait that keeps an instruction from issuing. -/
def waitOf : Except Stop Unit → Option Waiting
  | .error (.wait w) => some w
  | _ => none

/-- All the conditions of an instruction: it waits while one of them does, and meets the first cause of the others (09 R163). -/
def allOf (l : List (Except Stop Unit)) : Except Stop Unit :=
  match joinWaits (l.map waitOf) with
  | some w => .error (.wait w)
  | none => l.foldl (fun r x => match r with
    | .ok () => x
    | .error st => .error st) (.ok ())

/-- Needs STATUS.SUP (20 R335). -/
def State.needSup (s : State) : Except Stop Unit := raiseIf (!s.src.sup) 0x02 s.iss.word

/-- Needs a hob core (20 R335). -/
def State.needHob (s : State) : Except Stop Unit := raiseIf (!isHob s.cid) 0x01 s.iss.word

/-- A wake: the thread is RUNNABLE again, or stays STOPPED with its event done (09 R161, R173; 28 R395). -/
def Thread.wake (t : Thread) : Thread :=
  { t with park := .none, wait := none, slot := if t.slot = .parked then .runnable else t.slot }

end Sys2Proof.Machine
end

