-- ==== Sys2Proof/Machine/Operands.lean ====
section
/-! DEFINITION. Machine/Operands.lean: when a pair may issue and how its operands are read and written (05 R95, R104 to R107;
09 R162, R163; 13 R222, R232), and how near and far addresses are checked and resolved (02 R42, R45; 03 R71; 15 R248, R259). -/
namespace Sys2Proof.Machine

/-! ### Order (08 R147 to R149) -/

/-- The runs of keys that an access of `n` bytes touches: one, or two where it runs into a second page (02 R45). -/
def spanOf (key : Nat) (rest : Option (Nat × Nat)) (n : Nat) : List (Nat × Nat) :=
  match rest with
  | none => [(key, n)]
  | some (m, k) => [(key, m), (k, n - m)]

/-- The runs of bytes that a buffered store writes. -/
def StoreEntry.runs (e : StoreEntry) : List (Nat × List Byte) :=
  match e.kind with
  | .bytes k d none => [(k, d)]
  | .bytes k d (some (m, k2)) => [(k, d.take m), (k2, d.drop m)]
  | .push _ _ _ _ _ => []

/-- Runs of bytes meet in an aligned word. -/
def meet (a b : List (Nat × Nat)) : Bool :=
  a.any fun x => b.any fun y => overlap (x.1 / 8 * 8) (x.2 + x.1 % 8) (y.1 / 8 * 8) (y.2 + y.1 % 8)

/-- A run of bytes is homed on a die; the register aperture is no memory of a die. -/
def homedOn (die : Nat) (r : Nat × Nat) : Bool := !isAperKey r.1 && decide (homeOf r.1 = die)

/-- Two accesses of one thread on a die keep their order: bytes of both are homed on that die, both are of the register aperture (28
R378), or they meet in a word. -/
def ordered (die : Nat) (a b : List (Nat × Nat)) : Bool :=
  (a.any (homedOn die) && b.any (homedOn die)) || (a.any (fun r => isAperKey r.1) && b.any fun r => isAperKey r.1) || meet a b

/-- No older load or atomic of the thread has still to be performed that an access of these bytes must follow (08 R149). -/
def State.inOrder (s : State) (tid id : Nat) (span : List (Nat × Nat)) : Bool :=
  (s.ofThread tid).all fun p => match p.2 with
    | .access a => !(decide (p.1 < id) && ordered (didOf (cidOf tid)) (spanOf a.key a.rest a.n) span)
    | .sync a => !(decide (p.1 < id) && meet [(a.key, 8)] span)
    | _ => true

/-- The byte that the youngest buffered store with a stamp below `id` holds for a key. -/
def youngest (sb : List StoreEntry) (id k : Nat) : Option Byte :=
  (sb.filterMap fun e =>
    if id ≤ e.id then none
    else (e.runs.filterMap fun r =>
      if r.1 ≤ k ∧ k < r.1 + r.2.length then some (r.2.getD (k - r.1) 0) else none).head?).getLast?

/-- How the buffered stores meet a load of `n` bytes: none of its bytes, all of them (the load takes them from there), or some
(the load waits) (08 R149). What is stored to a channel descriptor is discarded, so it forwards nothing (16 R279). -/
inductive Forward where
  | none
  | all (val : Nat)
  | part
  deriving DecidableEq, Repr

def forward (hidden : Nat → Bool) (sb : List StoreEntry) (id : Nat) (span : List (Nat × Nat)) : Forward :=
  let bs := (span.map fun r => (List.range r.2).map fun i => if hidden (r.1 + i) then none else youngest sb id (r.1 + i)).flatten
  if bs.all (·.isNone) then .none
  else if bs.all (·.isSome) then .all (ofBytes (bs.map (·.getD 0)))
  else .part

/-- No older buffered store of the thread meets these bytes. -/
def State.noOlderStore (s : State) (tid id : Nat) (span : List (Nat × Nat)) : Bool :=
  (s.th tid).sb.all fun e => decide (id ≤ e.id) || !(e.runs.any fun r => meet [(r.1, r.2.length)] span)

/-- A read that the issuing thread makes as its pair issues is performed then, so it waits for the older loads and atomics that it
must follow (08 R149, R155). -/
def State.readsNow (s : State) (key n : Nat) : Bool := s.inOrder s.cur s.serial [(key, n)]

/-! ### Readiness (09 R163) -/

/-- The load, atomic or FEQ that keeps a register busy; a busy register without one waits for a long-latency result or an answer of the
package's units, which are no loads (09 R162, R165). -/
def State.busyLoad (s : State) (t : Nat) (d : Dest) : Bool :=
  (s.ofThread t).any fun p => match p.2 with
    | .access a => a.dst = d
    | .reply r => r.dst = d
    | .sync a | .refused a => a.op = .feq && Dest.reg a.reg = d
    | _ => false

/-- A wait for a synchronising access follows the claim of its word, and goes to the spare pool without one (03 R76, 10 R177). -/
def State.claimWait (s : State) (k : Nat) : Waiting :=
  match s.claim k with
  | some g => ⟨.mem, 2, some g, none⟩
  | none => ⟨.mem, 8, none, none⟩

/-- What a thread waits for that only a parked LDF or LDFE holds back, for whatever reason: that access's claim (03 R76). -/
def State.parkedWait (s : State) (t : Nat) (other : Bool) : Waiting :=
  match s.parkedSyncs t with
  | a :: _ => if other then onMemory else s.claimWait a.key
  | [] => onMemory

/-- A wait for an LDF or LDFE follows the claim of its word (10 R177 row 2, R76); any other pending delivery is row 1. -/
def State.pendWait (s : State) (t reg : Nat) : Waiting :=
  let away := (s.ofThread t).filterMap fun p => match p.2 with
    | .sync a | .refused a => if a.reg = reg && (a.op = .ldf || a.op = .ldfe) then some a.key else none
    | _ => none
  let parked := ((s.parkedSyncs t).filter fun a => a.reg = reg && (a.op = .ldf || a.op = .ldfe)).map (·.key)
  match away ++ parked with
  | [] => onMemory
  | k :: _ => s.claimWait k

/-- The group of a thread, for an edge (10 R177). -/
def State.groupOf (s : State) (t : Nat) : Option Nat := (s.th t).grp

/-- A register that is read must be present and not busy. An absent register with no delivery on its way waits for a PUTR, which
arrives as a message does (notes/assumptions/11.md). -/
def State.readReg? (s : State) (i : Nat) : Option Waiting :=
  let t := s.src
  if t.busy.getLsbD i then
    some (if s.busyLoad s.cur (.reg i) then onMemory else ⟨.passed, 1, none, none⟩)
  else if t.present.getLsbD i then none
  else if t.pend.getLsbD i then some (s.pendWait s.cur i)
  else some ⟨.msg, 8, none, none⟩

/-- A register that is written must not be busy and must have no pending delivery. -/
def State.writeReg? (s : State) (i : Nat) : Option Waiting :=
  let t := s.src
  if t.busy.getLsbD i then
    some (if s.busyLoad s.cur (.reg i) then onMemory else ⟨.passed, 1, none, none⟩)
  else if t.pend.getLsbD i then some (s.pendWait s.cur i)
  else none

def State.vec? (s : State) (i : Nat) : Option Waiting :=
  if s.src.vbusy.getLsbD i then
    some (if s.busyLoad s.cur (.vec i) then onMemory else ⟨.passed, 1, none, none⟩)
  else none

/-- Key of slot `i` of a LOCAL or IN channel (16 R278). -/
def Ring.slotKey (r : Ring) (i : Nat) : Nat := r.base + 128 + i % r.cap * r.size

def Ring.slotBits (r : Ring) (i : Nat) : SlotBits := lookup ⟨false, false, false, 0⟩ r.bits (i % r.cap)

/-- How the thread's buffered stores meet a read of slot `i` of an IN channel, which is ordered as a plain load (08 R149, R155). -/
def State.slotForward (s : State) (r : Ring) (i : Nat) : Forward :=
  if r.kind = .inn then forward s.hidden s.src.sb s.serial [(r.slotKey i, r.size)] else .none

/-- The bytes of slot `i` as the issuing thread reads them. -/
def State.slotBytes (s : State) (r : Ring) (i : Nat) : Nat :=
  match s.slotForward r i with
  | .all v => v
  | _ => s.loadFrom s.srcMem (r.slotKey i) r.size

/-- Word 0 of the slot at HEAD + `k`. -/
def State.slotWord (s : State) (r : Ring) (k : Nat) : Word := BitVec.ofNat 64 (s.load (r.slotKey (r.head + k)) 8)

/-- Word 2 of a control record: ORIG (07 R131). -/
def State.slotOrig (s : State) (r : Ring) : Nat := s.load (r.slotKey r.head + 16) 8 % 2 ^ 25

/-- The head slot is the SEAM record that the channel's pending merge awaits (07 R139). -/
def State.seamAtHead (s : State) (r : Ring) : Bool :=
  match r.merge with
  | none => false
  | some m =>
    decide (0 < r.filled) && (r.slotBits r.head).mark && decide (Fld (s.slotWord r 0) 63 60 = 1) &&
      decide (Fld (s.slotWord r 0) 15 0 = m.snum) && decide (s.slotOrig r = m.orig)

/-- A draining stage finds its SEAM at the head of q0 (07 R140). -/
def State.drainAtHead (s : State) (t : Thread) (q : Nat) : Bool :=
  match t.drain with
  | none => false
  | some d =>
    let r := t.ring 0
    q = 0 && decide (0 < r.filled) && (r.slotBits r.head).mark && decide (Fld (s.slotWord r 0) 63 60 = 1) &&
      decide (Fld (s.slotWord r 0) 15 0 = d.snum) && decide (s.slotOrig r = d.orig)

/-- The wait on an empty LOCAL or IN slot of handle `q` (10 R177 row 5). -/
def State.emptyRing (s : State) (q : Nat) : Waiting :=
  let r := s.src.ring q
  match r.kind, r.cur with
  | .inn, some p => ⟨.msg, 5, s.groupOf p.1, some q⟩
  | _, _ => ⟨.msg, 8, none, some q⟩

/-- The wait on a full ring, or on a push held back under 07 R130 (10 R177 row 6). -/
def State.fullRing (s : State) (r : Ring) : Waiting :=
  if r.kind = .out then ⟨.msg, 6, s.groupOf r.cons, none⟩ else ⟨.msg, 8, none, none⟩

/-- The wait for an undelivered acquire: that of the parked access where nothing else of the thread is on its way (03 R76). -/
def State.acquireWait (s : State) : Waiting := s.parkedWait s.cur ((s.ofThread s.cur).any fun p => p.2.isAcquire)

/-- A slot source waits until FILLED ≥ k + 1 (05 R104), for an inheritance (07 R142), while the hardware takes a SEAM and, of an
IN ring, as a ring operation behind an acquire and as a plain load behind an atomic and the older loads (08 R147, R150, R152, R155). Of
several of these waits the first row of 10 R177 counts. -/
def State.readSlot? (s : State) (q k : Nat) : Option Waiting :=
  let t := s.src
  let r := t.ring q
  let empty := s.seamAtHead r || s.drainAtHead t q || decide (r.filled ≤ k)
  let behind := s.atomicPending s.cur || !s.readsNow (r.slotKey (r.head + k)) r.size || s.slotForward r (r.head + k) = .part
  if (r.kind ≠ .loc && r.kind ≠ .inn) || r.cap ≤ k then none
  else
    joinWaits
      [if r.kind = .inn && s.acquiring s.cur then some s.acquireWait else none,
        if r.kind = .inn && behind then some onMemory else none,
        if q = 0 && t.inheriting then some ⟨.mem, 8, none, none⟩ else none,
        if empty then some (s.emptyRing q) else none]

/-- A QBIND of OUT handle `q` that the consumer's channel has not yet performed or refused (25 R374). -/
def State.binding (s : State) (q : Nat) : Bool :=
  (s.ofThread s.cur).any fun p => match p.2 with
    | .bind _ n _ _ _ _ _ => n = q
    | _ => false

/-- The wait for an answer, which is a busy result and no load (09 R162, R165). -/
def onAnswer : Waiting := ⟨.passed, 1, none, none⟩

/-- A slot destination waits until C − FILLED, or the free count of an OUT handle, is at least k + 1 (05 R104), and for the answer of the
handle's QBIND (25 R374; notes/assumptions/26.md). -/
def State.writeSlot? (s : State) (q k : Nat) : Option Waiting :=
  let r := s.src.ring q
  if s.binding q then some onAnswer
  else if (r.kind ≠ .loc && r.kind ≠ .out) || r.cap ≤ k then none
  else if k < (if r.kind = .out then r.free else r.cap - r.filled) then none
  else some (s.fullRing r)

def State.read? (s : State) : Place → Option Waiting
  | .reg i => s.readReg? i
  | .vec i => s.vec? i
  | .slot q k => s.readSlot? q k
  | .pred _ | .mask _ => none

def State.write? (s : State) : Place → Option Waiting
  | .reg i => s.writeReg? i
  | .vec i => s.vec? i
  | .slot q k => s.writeSlot? q k
  | .pred _ | .mask _ => none

/-- Slot uses that trap with cause 0x0A, TVAL the handle number (05 R105). -/
def State.badRead (s : State) : Place → Option Nat
  | .slot q k =>
    let r := s.src.ring q
    if (r.kind = .loc || r.kind = .inn) && k < r.cap then none else some q
  | _ => none

def State.badWrite (s : State) : Place → Option Nat
  | .slot q k =>
    let r := s.src.ring q
    if (r.kind = .loc || r.kind = .out) && k < r.cap then none else some q
  | _ => none

/-- Every source and destination of an instruction is ready (09 R163). -/
def State.waits (s : State) (rs ws : List Place) : Except Stop Unit :=
  match joinWaits (rs.map s.read? ++ ws.map s.write?) with
  | none => .ok ()
  | some w => .error (.wait w)

/-- No slot use is an error (05 R105). -/
def State.slotUses (s : State) (rs ws : List Place) : Except Stop Unit :=
  match rs.findSome? s.badRead with
  | some q => .error (.trap 0x0A (BitVec.ofNat 64 q))
  | none =>
    match ws.findSome? s.badWrite with
    | some q => .error (.trap 0x0A (BitVec.ofNat 64 q))
    | none => .ok ()

/-- `waits` and then `slotUses`, for an instruction with no check of causes 0x01, 0x02 and 0x0C between them (12 R207). -/
def State.need (s : State) (rs ws : List Place) : Except Stop Unit := do
  s.waits rs ws
  s.slotUses rs ws

/-- A marked slot that is read starts a mark event while mark-active is 0 (05 R107, 07 R133, R134). -/
def State.markOf (s : State) : Place → Option Stop
  | .slot q k =>
    let t := s.src
    let r := t.ring q
    if (r.slotBits (r.head + k)).mark && !t.markActive then some (.mark (BitVec.ofNat 64 (s.slotBytes r (r.head + k)))) else none
  | _ => none

/-- A typed slot whose TX differs from the thread's traps with cause 0x08, TVAL its sender (01 R25). -/
def State.txOf (s : State) : Place → Option Stop
  | .slot q k =>
    let t := s.src
    let r := t.ring q
    let b := r.slotBits (r.head + k)
    if b.typed && b.tx != t.tx then some (.trap 0x08 (BitVec.ofNat 64 b.sender)) else none
  | _ => none

/-- The checks that a pair makes as it reads its slots, in the order of 12 R207. -/
def State.reading (s : State) (rs : List Place) : Except Stop Unit :=
  match rs.findSome? s.markOf with
  | some st => .error st
  | none =>
    match rs.findSome? s.txOf with
    | some st => .error st
    | none => .ok ()

/-- `need` and then `reading`, for an instruction with no other check between them. -/
def State.operands (s : State) (rs ws : List Place) : Except Stop Unit := do
  s.need rs ws
  s.reading rs

/-! ### Reading and writing (13 R232) -/

/-- The bytes of a source slot, with zeros beyond the slot size (05 R104). -/
def State.slotValue (s : State) (q k : Nat) : Nat :=
  let r := s.src.ring q
  s.slotBytes r (r.head + k)

def State.readX (s : State) (r : XReg) : Word := s.src.reg r.val

def State.readS (s : State) : SOpd → Word
  | .r i => s.src.reg i.val
  | .q n k => BitVec.ofNat 64 (s.slotValue n.val k.val)

/-- A vector operand as a number of 512 bits. -/
def State.readV (s : State) : VOpd → Nat
  | .v i => (s.src.vec i.val).toNat
  | .q n k => s.slotValue n.val k.val

/-- What a destination slot holds before the write: the buffer's bytes, or the bytes staged since the last commit (05 R104). -/
def State.slotOld (s : State) (q k : Nat) : Nat :=
  let r := s.me.ring q
  if r.kind = .out then (lookup ⟨0, ⟨false, false, false, 0⟩⟩ r.staged k).data
  else s.load (r.slotKey (r.tail + k)) r.size

/-- Writes slot TAIL + k with `data`: its mark is cleared, its TX bit is the thread's and its typed bit is given (05 R103). -/
def State.writeSlot (s : State) (q k data : Nat) (typed : Bool) : State :=
  let t := s.me
  let r := t.ring q
  let b : SlotBits := ⟨false, s.src.tx, typed, s.cur⟩
  let data := data % 2 ^ (8 * r.size)
  if r.kind = .out then s.setMe (t.setRing q { r with staged := insert r.staged k ⟨data, b⟩ })
  else
    let s := s.setMe (t.setRing q { r with bits := insert r.bits ((r.tail + k) % r.cap) b })
    s.storeAt (r.slotKey (r.tail + k)) (toBytes r.size data)

def State.writeX (s : State) (r : XReg) (w : Word) : State := s.updMe fun t => t.setReg r.val w

/-- A scalar result: a register, or bytes [7:0] of a slot (05 R104). -/
def State.writeS (s : State) (o : SOpd) (w : Word) (typed : Bool := false) : State :=
  match o with
  | .r i => s.updMe fun t => t.setReg i.val w
  | .q n k => s.writeSlot n.val k.val (s.slotOld n.val k.val / 2 ^ 64 * 2 ^ 64 + w.toNat) typed

/-- The value a vector destination holds before the write. -/
def State.oldV (s : State) : VOpd → Nat
  | .v i => (s.src.vec i.val).toNat
  | .q n k => s.slotOld n.val k.val

def State.writeV (s : State) (o : VOpd) (x : Nat) (typed : Bool := false) : State :=
  match o with
  | .v i => s.updMe fun t => t.setVec i.val (BitVec.ofNat 512 x)
  | .q n k => s.writeSlot n.val k.val x typed

/-- A scalar result of more than 4 cycles: a register is busy until it lands (09 R162); a slot is written at once. -/
def State.resultS (s : State) (o : SOpd) (w : Word) : State :=
  match o with
  | .r i => (s.updMe fun t => t.setBusy i.val true).post (.result s.cur (.reg i.val) w.toNat)
  | .q _ _ => s.writeS o w

/-- A vector result of more than 4 cycles. -/
def State.resultV (s : State) (o : VOpd) (x : Nat) : State :=
  match o with
  | .v i => (s.updMe fun t => t.setVBusy i.val true).post (.result s.cur (.vec i.val) (x % 2 ^ 512))
  | .q _ _ => s.writeV o x

/-- A kind X operand as a place. -/
def xplace (r : XReg) : Place := .reg r.val

/-! ### Far addresses (02 R42 to R51) -/

/-- The rights an access needs of its segment (02 R42). -/
structure Rights where
  rd : Bool := false
  w : Bool := false
  x : Bool := false
  a : Bool := false
  s : Bool := false
  deriving DecidableEq, Repr

/-- The checks of 02 R42 in their order; answers the space and the VA. -/
def Thread.segCheck (t : Thread) (ea : Word) (n : Nat) (r : Rights) (al : Nat) : Except Stop (Bool × Nat) := do
  let (w0, w1) := t.seg (Fld ea 63 61)
  let o := ea.toNat % 2 ^ 61
  let base := Fld w0 51 16 * 2 ^ 16
  raiseIf (decide (w1.toNat % 2 ^ 61 ≤ o + n - 1) || decide (2 ^ 52 ≤ base + o + n - 1)) 0x03 ea
  raiseIf ((r.rd && !w0.getLsbD 0) || (r.w && !w0.getLsbD 1) || (r.x && !w0.getLsbD 2) || (r.a && !w0.getLsbD 3)
    || (r.s && !w0.getLsbD 4)) 0x04 ea
  raiseIf (decide (ea.toNat % al ≠ 0)) 0x05 ea
  pure (w0.getLsbD 5, base + o)

/-- ACCESS codes of a fault message (02 R53). -/
def accLoad : Nat := 0
def accStore : Nat := 1
def accAtomic : Nat := 2
def accFetch : Nat := 3
def accFill : Nat := 4
def accSpill : Nat := 5
def accEngRead : Nat := 6
def accEngWrite : Nat := 7

/-- A window spill or fill (02 R54). -/
def Walk.isWindow (w : Walk) : Bool := w.acc = accFill || w.acc = accSpill

/-- A spill or fill of a thread is in flight: the walk that it needs, or the fault of that walk (05 R100). -/
def State.movingWindow (s : State) (tid : Nat) : Bool :=
  s.flight.any fun p => match p.2 with
    | .walk w | .fault w _ => decide (w.tid = tid) && w.isWindow
    | _ => false

/-- An access that writes, for W and D (02 R50). -/
def accWrites (acc : Nat) : Bool := acc = 1 || acc = 2 || acc = 5 || acc = 7

/-- The write side of a leaf's rights (02 R50): WRITE_PROTECT otherwise. -/
def leafWritable (leaf : Word) : Bool := leaf.getLsbD 1 && decide (Fld leaf 62 61 ≠ 2)

/-- The rights among Rd, X and A that an access needs of a leaf (02 R50). -/
def leafRights (leaf : Word) (acc : Nat) : Bool :=
  if acc = 3 then leaf.getLsbD 2
  else if acc = 2 then leaf.getLsbD 0 && leaf.getLsbD 3
  else if acc = 0 || acc = 4 || acc = 6 then leaf.getLsbD 0
  else true

def leafAllows (leaf : Word) (acc : Nat) : Bool := (!accWrites acc || leafWritable leaf) && leafRights leaf acc

/-- The key that a leaf gives a VA (02 R48, R49, R51). -/
def leafKeyOf (leaf : Word) (va : Nat) : Nat :=
  keyFar (Fld leaf 59 52) (Fld leaf 51 50) (Fld leaf 49 49)
    (Fld leaf 48 26 * 2 ^ 16 + (if leaf.getLsbD 60 then va % 2 ^ 21 else va % 2 ^ 16))

def TuEntry.covers (e : TuEntry) (tenant : Nat) (pod : Bool) (va : Nat) : Bool :=
  e.tenant = tenant && e.pod = pod && decide (e.vpn = va / (if e.big then 2 ^ 21 else 2 ^ 16))

/-- A hit: a cached leaf that allows the access (02 R45). -/
def State.tuHit (s : State) (clid tenant : Nat) (pod : Bool) (va acc : Nat) : Option TuEntry :=
  (s.cluster clid).tu.find? fun e => e.covers tenant pod va && leafAllows e.leaf acc

/-- Translation of one access of a thread: its key, or the walk it needs (15 R248). -/
def State.translate (s : State) (tid tenant : Nat) (pod : Bool) (va : Nat) (ea : Word) (acc : Nat) : Except Stop Nat :=
  let clid := clidOf (cidOf tid)
  match s.tuHit clid tenant pod va acc with
  | some e => .ok (leafKeyOf e.leaf va)
  | none => .error (.walk ⟨tid, clid, pkgOf (cidOf tid), tenant, pod, va, ea, acc, none⟩)

/-- A far access of the issuing thread: checks, then translation (15 R248). -/
def State.far (s : State) (ea : Word) (n : Nat) (r : Rights) (al acc : Nat) : Except Stop Nat := do
  let t := s.src
  let (pod, va) ← t.segCheck ea n r al
  s.translate s.cur t.tenant pod va ea acc

/-- A far access of 64 bytes that is only 8-aligned: its second page, where it runs into one, is translated as the first is; the
answer is the key and the key of its bytes from number m on (02 R45). -/
def State.farWide (s : State) (ea : Word) (n : Nat) (r : Rights) (al acc : Nat) : Except Stop (Nat × Option (Nat × Nat)) := do
  let key ← s.far ea n r al acc
  let t := s.src
  let (w0, _) := t.seg (Fld ea 63 61)
  let va := Fld w0 51 16 * 2 ^ 16 + ea.toNat % 2 ^ 61
  let m := 2 ^ 16 - va % 2 ^ 16
  if n ≤ m then pure (key, none)
  else do
    let key2 ← s.translate s.cur t.tenant (w0.getLsbD 5) (va + m) ea acc
    pure (key, some (m, key2))

/-- The value of an access's bytes. -/
def State.loadSpan (s : State) (span : List (Nat × Nat)) : Nat :=
  match span with
  | [] => 0
  | r :: rest => s.load r.1 r.2 + 2 ^ (8 * r.2) * s.loadSpan rest

/-- D is set on the first store or atomic through an installed translation (02 R50). -/
def State.dirtied (s : State) (tid : Nat) (ea : Word) (acc : Nat) : State :=
  let t := s.before tid
  let clid := clidOf (cidOf tid)
  let w0 := (t.seg (Fld ea 63 61)).1
  let va := Fld w0 51 16 * 2 ^ 16 + ea.toNat % 2 ^ 61
  match s.tuHit clid t.tenant (w0.getLsbD 5) va acc with
  | none => s
  | some e =>
    if e.dirty then s
    else
      let c := s.cluster clid
      let leaf := s.load e.leafKey 8 ||| 2 ^ 7
      let s := s.storeAt e.leafKey (toBytes 8 leaf)
      s.setCluster clid
        { c with tu := c.tu.map fun x => if x = e then { x with dirty := true, leaf := x.leaf ||| 0x80 } else x }

/-! ### Near addresses (03 R71, 15 R259) -/

/-- How an access uses a near address: only ranges that permit it are mapped for it (03 R71). -/
inductive NearUse where
  | load | store | sync
  deriving DecidableEq, Repr

/-- A resolved near address: its key, and whether a store through it is a put. -/
structure Near where
  key : Nat
  put : Bool
  deriving DecidableEq, Repr

/-- The range of 03 R71 that holds `n` bytes from `na`, for a core; the aperture only for 8-byte accesses of plain forms on hob
cores (28 R378). -/
def nearRange (cid na n : Nat) (use : NearUse) : Option Near :=
  if na + n ≤ 0x30000 then some ⟨keyLocal cid na, false⟩
  else if 0x40000000 ≤ na && na < 0x80000000 then
    let i := (na - 0x40000000) / 0x40000
    let o := (na - 0x40000000) % 0x40000
    if i < 68 && o + n ≤ 0x30000 && use ≠ .load then some ⟨keyLocal (clidOf cid * 128 + i) o, true⟩ else none
  else if 0x80000000 ≤ na && na + n ≤ 0x80800000 then some ⟨keyCluster (clidOf cid) (na - 0x80000000), false⟩
  else if 0xC0000000 ≤ na && na + n ≤ 0xC4000000 then some ⟨keyDie (didOf cid) (na - 0xC0000000), false⟩
  else if 0xE0000000 ≤ na && na + n ≤ 0xE4000000 && isHob cid && n = 8 && use ≠ .sync then
    some ⟨keyAper (pkgOf cid) (na - 0xE0000000), false⟩
  else none

/-- Bytes from `na` on that lie in the window of a hob core, or in the aperture of one, which a thread with SUP = 0 may not reach
(03 R71, 28 R378). -/
def nearPrivileged (cid na n : Nat) : Bool :=
  ((List.range 4).any fun h => overlap na n (0x41000000 + h * 0x40000) 0x30000) ||
    (overlap na n 0xE0000000 0x4000000 && isHob cid)

/-- Cause 0x02 of a near access, with its address as TVAL (03 R71, 15 R259). -/
def State.nearMode (s : State) (na : Word) (n : Nat) : Except Stop Unit :=
  raiseIf (nearPrivileged s.cid na.toNat n && !s.src.sup) 0x02 na

/-- The core windows (03 R71): a store there is a put. -/
def inWindows (na : Nat) : Bool := decide (0x40000000 ≤ na) && decide (na < 0x80000000)

/-- The checks of a near access in the order of 15 R259. -/
def State.near (s : State) (na : Word) (n al : Nat) (use : NearUse) : Except Stop Near := do
  s.nearMode na n
  match nearRange s.cid na.toNat n use with
  | none => .error (.trap 0x03 na)
  | some r => do
    raiseIf (decide (na.toNat % al ≠ 0)) 0x05 na
    pure r

/-- `n` bytes of the own local store, `al`-aligned, of a form that only the own local store serves. -/
def State.ownStore (s : State) (na : Word) (n al : Nat) : Except Stop Nat := do
  raiseIf (decide (0x30000 < na.toNat + n)) 0x03 na
  raiseIf (decide (na.toNat % al ≠ 0)) 0x05 na
  pure (keyLocal s.cid na.toNat)

/-! ### The store buffer (08 R149) -/

/-- What a plain load meets that an instruction makes as it issues (20 R337, R346, R348; 16 R270): its value, forwarded or from the
memory before the pair (13 R225); a wait, where it overlaps buffered bytes in part or an older load has still to be performed (08
R149); or cause 0x0B with the address of a poisoned word (12 R210). -/
def State.plainLoad (s : State) (na k n : Nat) : Except Stop Nat := do
  waitIf (!s.readsNow k n) onMemory
  match forward s.hidden s.src.sb s.serial [(k, n)] with
  | .part => .error (.wait onMemory)
  | .all v => pure v
  | .none => do
    raiseIf (s.poisoned k n) 0x0B (BitVec.ofNat 64 na)
    pure (s.loadFrom s.srcMem k n)

/-- Words of the own local store read as a plain load, 8 bytes at a time. -/
def State.plainWords (s : State) (na k : Nat) : Nat → Except Stop (List Word)
  | 0 => .ok []
  | n + 1 => do
    let v ← s.plainLoad na k 8
    let t ← s.plainWords (na + 8) (k + 8) n
    pure (BitVec.ofNat 64 v :: t)

/-- Enters the store buffer (08 R149). -/
def State.buffer (s : State) (ea : Word) (far release : Bool) (kind : StoreKind) : State :=
  let s' := s.updMe fun t => { t with sb := t.sb ++ [⟨s.serial, ea, far, release, kind, Fld s.src.sys.deadline 47 0, false⟩] }
  { s' with serial := s.serial + 1 }

/-- A thread whose buffer is full is not ready on memory (08 R149). -/
def State.bufferRoom (s : State) (n : Nat) : Except Stop Unit := waitIf (decide (16 < s.src.sb.length + n)) onMemory

/-- Later accesses wait for an undelivered acquire (08 R152) and an unperformed atomic (08 R150, 15 R252). -/
def State.accessGate (s : State) : Except Stop Unit :=
  allOf [waitIf (s.acquiring s.cur) s.acquireWait, waitIf (s.atomicPending s.cur) onMemory]

/-- Puts, ring operations and engine commands wait for an undelivered acquire alone (08 R152). -/
def State.acquireGate (s : State) : Except Stop Unit := waitIf (s.acquiring s.cur) s.acquireWait

/-- At most 8 outstanding loads (09 R162). A pair that a gate or a resource limit holds back does not issue, so it meets no cause
(09 R163). -/
def State.loadRoom (s : State) : Except Stop Unit :=
  waitIf (decide (8 ≤ s.loads s.cur)) (s.parkedWait s.cur ((s.ofThread s.cur).any fun p => p.2.isLoad))

/-- What holds `k` near stores back beside their operands: puts do not use the store buffer (08 R149, R151, R152). -/
def State.storeGate (s : State) (na : Word) (k : Nat) : Except Stop Unit :=
  if inWindows na.toNat then s.acquireGate else allOf [s.accessGate, s.bufferRoom k]

/-- What holds `k` near stores back, their operands with it. An address that is not there yet names no window: until it is, the store
waits as both kinds do. -/
def State.storeReady (s : State) (operands : Except Stop Unit) (na : Word) (k : Nat) : Except Stop Unit :=
  allOf [operands, if (waitOf operands).isSome then s.acquireGate else s.storeGate na k]

end Sys2Proof.Machine
end

