-- ==== Sys2Proof/Machine/FarNet.lean ====
section
/-! DEFINITION. Machine/FarNet.lean: the far net of each die (03 R59 to R66). Loads, atomics, stores, full/empty accesses and the
accesses of copy engines and collectives cross it in packets; tile moves, PLANEs, spills, fills and fetches cross it within the event
that performs them, port by port (notes/assumptions/12.md). -/
namespace Sys2Proof.Machine

/-! ### Routes (03 R59, R60) -/

def isDieKey (k : Nat) : Bool := decide (2 ^ 52 ≤ k) && decide (k < 2 ^ 53)

/-- Whether a byte is reached over the far net: far memory, the die scratchpad and, through the mailbox engine, the host (03 R59). -/
def crosses (k : Nat) : Bool := isFarKey k || isDieKey k || isHostKey k

/-- Bytes that one destination port serves in a row: a channel's 256, or a die-scratchpad bank's 64 (03 R60). -/
def granule (k : Nat) : Nat := if isDieKey k then 64 else 256

/-- A run of bytes cut where its destination port changes. -/
def cutRun : Nat → Nat → Nat → List (Nat × Nat)
  | 0, _, _ => []
  | fuel + 1, k, n =>
    if n = 0 then []
    else
      let m := min n (granule k - k % granule k)
      (k, m) :: cutRun fuel (k + m) (n - m)

/-- The packets' runs of an access: each goes to one port (03 R60). Runs that do not cross the net have none. -/
def pieces (runs : List (Nat × Nat)) : List (Nat × Nat) :=
  runs.flatMap fun r => if crosses r.1 then cutRun (r.2 / 64 + 2) r.1 r.2 else []

/-- Source port 8c + k of a core's accesses. The near net brings them to one of the cluster's 8 far-net ports, one at each row
(03 R59, R67); that it is the one at the core's own row is DEDUCED (notes/assumptions/12.md). -/
def srcPort (cid : Nat) : Nat :=
  clidOf cid % 16 * 8 + (if isHob cid then (idxOf cid - 64) / 2 * 4 else rowOf cid)

/-- The die that serves a byte for an access from die `from_`: its home, or its own mailbox engine for the host (03 R59). -/
def servedOn (from_ k : Nat) : Nat := if isHostKey k then from_ else homeOf k

/-- Destination port on the die that serves a byte (03 R59, R60). Which of the mailbox engine's two ports it is is the model's
(notes/assumptions/12.md). -/
def homePort (k : Nat) : Nat :=
  if isFarKey k then
    if k / 2 ^ 39 % 2 = 0 then k / 2 ^ 8 % 64 else 96 + k / 2 ^ 8 % 16
  else if isHostKey k then 124 + k / 2 ^ 8 % 2
  else 64 + k / 2 ^ 6 % 32

/-- The fabric port, 0 to 7, that a package's routing table names for another package (28 R386). A package that no table entry names
goes through the port of its number modulo 8, which is the model's choice (notes/assumptions/12.md). -/
def State.fabricPort (s : State) (pkg to_ : Nat) : Nat := lookup (to_ % 8) (s.pkg pkg).around.routes to_

/-- Destination port on die `die` (package × 4 + die) for bytes that die `home` serves: a die-to-die port for another die, a fabric
port for another package (03 R60). Which port serves which target is the model's (notes/assumptions/12.md). -/
def State.portFor (s : State) (die home k : Nat) : Nat :=
  if home = die then homePort k
  else if home / 4 = die / 4 then 112 + home % 4 * 2
  else 120 + s.fabricPort (die / 4) (home / 4) / 2

/-- PKIND of a far-net port, as R388 names it. -/
def portKind (port : Nat) : Nat := if port < 112 then 0 else if port < 120 then 1 else if port < 124 then 2 else 0

/-- The number of a port within its kind, for a packet that is bound for die `home` (28 R388). -/
def State.portNumber (s : State) (die port home : Nat) : Nat :=
  if portKind port = 1 then port - 112 else if portKind port = 2 then s.fabricPort (die / 4) (home / 4) else port

/-- A port's membership bitmap admits a tenant (03 R66). -/
def State.admits (s : State) (die port home tenant : Nat) : Bool :=
  (lookup (BitVec.allOnes 256) (s.die die).members (portKind port * 128 + s.portNumber die port home)).getLsbD tenant

/-- DEADLINE[47:0], which a far-net packet carries (03 R63). -/
def Thread.dueBy (t : Thread) : Nat := Fld t.sys.deadline 47 0

/-- TIME has passed a deadline (03 R63, R64). -/
def passed (d : Nat) (time : BitVec 48) : Bool := decide ((d + 2 ^ 48 - time.toNat) % 2 ^ 48 ≥ 2 ^ 47)

/-- Deadline d1 is earlier than d2 (03 R63). -/
def earlier (d1 d2 : Nat) : Bool := decide ((d1 + 2 ^ 48 - d2 % 2 ^ 48) % 2 ^ 48 ≥ 2 ^ 47)

/-- LATECNT saturates (03 R64). -/
def satInc (x : BitVec 32) : BitVec 32 := if x = BitVec.allOnes 32 then x else x + 1

def State.countLate (s : State) (die : Nat) : State :=
  let d := s.die die
  s.setDie die { d with latecnt := satInc d.latecnt }

/-- The area, 0 stacked DRAM, 1 LPDDR, 2 die scratchpad, 3 host mailbox engine, and the offset of a key (28 R388). -/
def areaOf (k : Nat) : Nat × Nat :=
  if isFarKey k then (k / 2 ^ 39 % 2, k % 2 ^ 39) else if isHostKey k then (3, k % 2 ^ 39) else (2, k % 2 ^ 26)

/-- A refusal: TENVCNT and a TENANT-REFUSED message to hob core 67 of the issuing cluster (03 R66, 28 R388). The area and offset of a
PUTR's or a message's target, which is no memory, are free values (notes/assumptions/12.md). -/
def State.refuse (s : State) (die port cid tenant k : Nat) (wr : Bool) : State :=
  let d := s.die die
  let s := s.setDie die { d with tenvcnt := satInc d.tenvcnt }
  let (area, off) := if isLocalKey k then (Config.freeChoice s.fresh % 4, Config.freeChoice (s.fresh + 1)) else areaOf k
  let s := if isLocalKey k then { s with fresh := s.fresh + 2 } else s
  let home := servedOn (didOf cid) k
  let n := s.portNumber die port home
  let w0 := 0x50 * 2 ^ 56 + s.time.toNat
  let w1 := tenant % 256 * 2 ^ 56 + portKind port * 2 ^ 54 + die % 4 * 2 ^ 48 + n % 128 * 2 ^ 41 + wr.toNat
  let w2 := home / 4 % 256 * 2 ^ 56 + home % 4 * 2 ^ 54 + area * 2 ^ 52 + off % 2 ^ 39
  let m : Msg := ⟨0x1FFFFFD, 0, 0, false, false, [w0, w1, w2].map (BitVec.ofNat 64), (clidOf cid * 128 + 67) * 16, false, 0⟩
  s.post (.hardware 2 m)

/-- Every port that an access from die `from_` to a key passes, with its die. -/
def State.portsOn (s : State) (from_ k : Nat) : List (Nat × Nat) :=
  let home := servedOn from_ k
  if home = from_ then [(from_, homePort k)] else [(from_, s.portFor from_ home k), (home, homePort k)]

/-- The first port that refuses a tenant on the way from a core to a key. -/
def State.refuser (s : State) (cid tenant k : Nat) : Option (Nat × Nat) :=
  if crosses k then (s.portsOn (didOf cid) k).find? fun p => !s.admits p.1 p.2 (servedOn (didOf cid) k) tenant else none

/-- An access that crosses the net within its event is late: TIME has passed its deadline (03 R63, R64). -/
def State.pastDue (s : State) (deadline : Nat) (runs : List (Nat × Nat)) : Bool :=
  deadline ≠ 0 && passed deadline s.time && !(pieces runs).isEmpty

/-- The packets that a port refuses, of an access that crosses the net within its event, each with its port and die. -/
def State.refusals (s : State) (cid tenant : Nat) (runs : List (Nat × Nat)) : List ((Nat × Nat) × (Nat × Nat)) :=
  (pieces runs).filterMap fun r => (s.refuser cid tenant r.1).map fun p => (p, r)

/-- The packets of an access that crosses the net within its event: each whose deadline has passed counts late (03 R63, R64). -/
def State.countPast (s : State) (cid deadline : Nat) (runs : List (Nat × Nat)) : State :=
  if s.pastDue deadline runs then (pieces runs).foldl (fun (s : State) _ => s.countLate (didOf cid)) s else s

/-! ### Links of the fabric (28 R387) -/

/-- The fabric port that stands between two packages has lost its link. -/
def State.linkDown (s : State) (a b : Nat) : Bool := decide (a ≠ b) && (s.pkg a).around.down.contains (s.fabricPort a b)

/-- One of the two ports between packages has no link, so nothing passes. -/
def State.unlinked (s : State) (a b : Nat) : Bool := s.linkDown a b || s.linkDown b a

/-- The port from package `a` to package `b` has been without its link for FTMO: it fails what comes to it. That it fails what comes
after its queued requests too is DEDUCED (notes/assumptions/12.md). -/
def State.linkFailed (s : State) (a b : Nat) : Bool := decide (a ≠ b) && (s.pkg a).around.failed.contains (s.fabricPort a b)

/-- The package that serves a byte for core `cid`. -/
def servedIn (cid k : Nat) : Nat := servedOn (didOf cid) k / 4

/-- An access that crosses the net within its event waits for a link. -/
def State.awaitsLink (s : State) (cid k : Nat) : Bool :=
  crosses k && s.unlinked (pkgOf cid) (servedIn cid k) && !s.linkFailed (pkgOf cid) (servedIn cid k)

/-- Such an access finds a port that fails it. -/
def State.lost (s : State) (cid k : Nat) : Bool := crosses k && s.linkFailed (pkgOf cid) (servedIn cid k)

/-- The packet to a key comes over the fabric to another package. -/
def State.comesOver (s : State) (cid tenant k : Nat) : Bool :=
  crosses k && decide (servedIn cid k ≠ pkgOf cid) && !s.lost cid k && (s.refuser cid tenant k).all fun p => decide (p.1 ≠ didOf cid)

/-- What the packets of an access that crosses the net within its event leave at the ports and switches that they pass: each that is late
counts, each that a port refuses counts and is reported, and one that comes over the fabric, or whose reply does, wakes the package it
comes to (03 R63, R64, R66; 28 R391). -/
def State.crossing (s : State) (cid tenant deadline : Nat) (wr : Bool) (runs : List (Nat × Nat)) : State :=
  let remote := (pieces runs).filter fun r => s.comesOver cid tenant r.1
  let s := (s.refusals cid tenant runs).foldl (fun (s : State) q => s.refuse q.1.1 q.1.2 cid tenant q.2.1 wr)
    (s.countPast cid deadline runs)
  remote.foldl (fun (s : State) r =>
    let s := s.wakePkg (servedIn cid r.1)
    if wr then s else s.wakePkg (pkgOf cid)) s

/-- The bytes of such an access whose packets a port refuses, or fails without its link: what is read there comes poisoned, and what is
written there is discarded (03 R66, 28 R387). -/
def State.cutOff (s : State) (cid tenant : Nat) (runs : List (Nat × Nat)) : List (Nat × Nat) :=
  (pieces runs).filter fun r => (s.refuser cid tenant r.1).isSome || s.lost cid r.1

/-- A byte lies in one of some runs. -/
def inRuns (runs : List (Nat × Nat)) (k : Nat) : Bool := runs.any fun r => decide (r.1 ≤ k) && decide (k < r.1 + r.2)

/-! ### Switches (03 R59, R61 to R65) -/

/-- The perfect shuffle between stages: line numbers turn left by one bit. -/
def shuffle (line : Nat) : Nat := line * 2 % 128 + line / 64

/-- The switch input that a packet stands at: stage and line after the shuffle; input 0 is the even line. -/
def Packet.at (p : Packet) : Nat × Nat := (p.stage, shuffle p.line)

/-- The output, 0 or 1, that a packet takes at its stage: its destination port's bits from the highest down. -/
def Packet.out (p : Packet) : Nat := p.dport / 2 ^ (6 - p.stage) % 2

/-- The head of a switch input: the packet that reached it first. -/
def Die.head (d : Die) (stage sw input : Nat) : Option Packet :=
  d.packets.find? fun p => p.stage = stage && decide (shuffle p.line = 2 * sw + input)

def switchNo (stage sw : Nat) : Nat := 64 * stage + sw

/-- A wake signal: a powered-down switch starts to wake, and a powered one starts its idle count again (03 R65). -/
def Die.wake (d : Die) (n time : Nat) : Die :=
  if d.off.contains n then { d with waking := addKey d.waking n } else { d with idleFrom := insert d.idleFrom n time }

/-- The two switches that a packet is to pass next get its wake signal. -/
def Die.awaken (d : Die) (p : Packet) (time : Nat) : Die :=
  let sw := shuffle p.line / 2
  let next := shuffle (sw * 2 + p.out) / 2
  (d.wake (switchNo p.stage sw) time).wake (switchNo (p.stage + 1) next) time

/-- A packet enters a die's net at a source port and wakes the first two switches on its way. -/
def State.enterNet (s : State) (die : Nat) (p : Packet) : State :=
  let d := s.die die
  s.setDie die { d.awaken p s.time.toNat with packets := d.packets ++ [p] }

/-- The packets of one access leave core `cid` for their ports, with the deadline of its issue (03 R59, R60, R63). -/
def State.sendOut (s : State) (id cid tenant deadline : Nat) (wr : Bool) (runs : List (Nat × Nat)) : State :=
  let die := didOf cid
  (pieces runs).foldl (fun (s : State) (r : Nat × Nat) =>
    let home := servedOn die r.1
    s.enterNet die
      { stage := 0, line := srcPort cid, dport := s.portFor die home r.1, home := home, nodl := decide (deadline = 0),
        deadline := deadline, late := false, since := s.time.toNat, tenant := tenant, cid := cid, key := r.1, len := r.2, wr := wr,
        ids := [id], lates := [] }) s

/-- A PUTR or a message of a thread for one on another die leaves by a die-to-die or fabric port, as a packet of that thread (03 R60, R63,
R66; 16 R274). No far-net port serves a core, so on the target's die it passes none (notes/assumptions/12.md). -/
def State.sendAway (s : State) (id from_ to_ tenant deadline : Nat) : State :=
  let die := didOf (cidOf from_)
  let home := didOf (cidOf to_)
  if home = die then s
  else s.enterNet die
    { stage := 0, line := srcPort (cidOf from_), dport := s.portFor die home 0, home := home, nodl := decide (deadline = 0),
      deadline := deadline, late := false, since := s.time.toNat, tenant := tenant, cid := cidOf from_, key := keyLocal (cidOf to_) 0,
      len := 8, wr := true, ids := [id], lates := [] }

def Access.span (a : Access) : List (Nat × Nat) := spanOf a.key a.rest a.n

/-- Source and destination port, with their dies, of each packet that core `cid` sends for an access (03 R61). -/
def waysOf (cid : Nat) (runs : List (Nat × Nat)) : List (Nat × Nat) :=
  ((pieces runs).map fun r => (didOf cid * 128 + srcPort cid, servedOn (didOf cid) r.1 * 128 + homePort r.1)).eraseDups

/-- Source and destination ports of a load's or an atomic's packets with their dies (03 R61). -/
def Access.ways (a : Access) : List (Nat × Nat) := waysOf (cidOf a.tid) a.span

/-- Two accesses have packets of one source and destination port. -/
def sharesWay (a b : List (Nat × Nat)) : Bool := a.any fun w => b.contains w

/-- The packages of a thread and of the home that answers it. -/
def wayPkgs (way : Nat × Nat) : Nat × Nat := (way.1 / 512, way.2 / 512)

/-- A reply whose way passes a fabric port without a link is kept there (28 R387). -/
def State.replyCut (s : State) (ways : List (Nat × Nat)) : Bool :=
  ways.any fun w => s.unlinked (wayPkgs w).1 (wayPkgs w).2

/-- A reply that comes over the fabric wakes the package of its thread (28 R391). -/
def State.wakeReply (s : State) (ways : List (Nat × Nat)) : State :=
  ways.foldl (fun (s : State) w => if (wayPkgs w).1 = (wayPkgs w).2 then s else s.wakePkg (wayPkgs w).1) s

/-- A load or atomic leaves its thread: where it crosses the far net, in packets (03 R59, R63). -/
def State.depart (s : State) (a : Access) : State :=
  (s.post (.access a)).sendOut s.serial (cidOf a.tid) (s.th a.tid).tenant a.deadline false a.span

/-- The packets that an access still has on its way, with their dies. -/
def State.packetsOf (s : State) (id : Nat) : List (Nat × Packet) :=
  s.dies.flatMap fun d => (d.2.packets.filter fun p => p.ids.contains id).map fun p => (d.1, p)

/-- A packet stands at the port that serves its bytes. -/
def Packet.atHome (p : Packet) (die : Nat) : Bool := decide (p.stage = 7) && decide (p.home = die)

/-- Every packet of an access has come to its port. -/
def State.arrived (s : State) (id : Nat) : Bool := (s.packetsOf id).all fun q => q.2.atHome q.1

/-- The late bit of an access, on any of its packets (03 R64). -/
def State.isLate (s : State) (id : Nat) : Bool := (s.packetsOf id).any fun q => q.2.lates.contains id

/-- Accesses leave their packets. A packet that no access is left in is gone if it has come to its port; one on its way goes on to the
ports that it has still to pass, each of which may refuse it (03 R66). -/
def State.unpack (s : State) (ids : List Nat) : State :=
  { s with
    dies := s.dies.map fun (d : Nat × Die) =>
      (d.1, { d.2 with
        packets := (d.2.packets.map fun (p : Packet) => { p with ids := p.ids.filter fun i => !ids.contains i }).filter
          fun p => !p.ids.isEmpty || !p.atHome d.1 }) }

/-- What has come to its port leaves its packets. -/
def State.landed (s : State) (id : Nat) : State := if (s.packetsOf id).isEmpty then s else s.unpack [id]

/-- A load or atomic may be performed (08 R149, R150, R152; 28 R378). -/
def State.performable (s : State) (id : Nat) (a : Access) : Bool :=
  s.inOrder a.tid id a.span &&
    (match a.op with
      | .load _ _ => if isAperKey a.key then s.drained a.tid id else s.noOlderStore a.tid id a.span
      | .lock => s.noOlderStore a.tid id a.span
      | .unlock => s.released a.tid id
      | _ => s.drained a.tid id)

/-- The access of a packet's first request. -/
def State.access? (s : State) (id : Nat) : Option Access :=
  match s.item id with
  | some (.access a) => some a
  | _ => none

/-- Two requests that a switch may combine: loads, AADDs and AFADDs, and no NADD, of one size at one physical address (03 R62). -/
def combines (a b : Access) : Bool :=
  decide (a.span = b.span) &&
    match a.op, b.op with
    | .load _ _, .load _ _ => true
    | .add, .add | .fadd _ _, .fadd _ _ => a.far && b.far
    | _, _ => false

/-- Every one of some requests may be performed at once. -/
def State.inTurn (s : State) (ids : List Nat) : Bool := ids.all fun i => (s.access? i).any fun a => s.performable i a

/-- The requests that one reply serves with those of `ids`: all that their packets carry, and so on (03 R62). A load has as many packets as
ports to its bytes, and each may have been combined with another load's. -/
def State.served (s : State) : Nat → List Nat → List Nat
  | 0, ids => ids
  | fuel + 1, ids =>
    let more := (ids.flatMap fun i => (s.packetsOf i).flatMap fun q => q.2.ids).eraseDups
    if more.length ≤ ids.length then ids else s.served fuel more

/-- Whether the packets of both inputs combine: same kind, size and address; loads of one tenant; at most 8 AFADD operands. One reply
serves all, so requests that their threads' order does not yet let be performed go on alone: those are accesses that have still to leave
their cores (03 R62, 08 R149; notes/assumptions/12.md). -/
def State.joinable (s : State) (p q : Packet) : Bool :=
  match p.ids.head?.bind s.access?, q.ids.head?.bind s.access? with
  | some a, some b =>
    decide (p.key = q.key) && decide (p.len = q.len) && combines a b && (match a.op with
      | .load _ _ => p.tenant = q.tenant
      | .fadd _ _ => decide (p.ids.length + q.ids.length ≤ 8)
      | _ => true) && s.inTurn p.ids && s.inTurn q.ids
  | _, _ => false

/-- A head has waited 256 network cycles of 1.2 GHz (03 R63). -/
def Packet.aged (p : Packet) (time : BitVec 48) : Bool :=
  decide (1280 ≤ (time.toNat + 2 ^ 48 - p.since) % 2 ^ 48 * 6)

/-- The head that goes first at one output: `true` for input 1 (03 R63). -/
def upperLoses (p q : Packet) (time : BitVec 48) : Bool :=
  if p.aged time then false
  else if q.aged time then true
  else if p.nodl != q.nodl then p.nodl
  else if p.nodl then false
  else earlier q.deadline p.deadline

/-- A load or atomic answered poisoned, with its late bit (03 R64, R66; 28 R387). It acquires as it would have (15 R249). -/
def State.answerPoisoned (s : State) (id : Nat) (late : Bool) : State :=
  match s.item id with
  | some (.access a) =>
    let acq := match a.op with
      | .load _ acq => acq
      | .lock => true
      | _ => false
    s.setItem id (.reply ⟨a.tid, a.dst, 0, some a.ea, if late then some a.ea else none, acq, a.ways, a.ea, false⟩)
  | _ => s

/-- A synchronising access that a port refuses or fails: one that reads is answered poisoned, and one that only writes is discarded,
so that a parked STE's thread goes on (03 R66; notes/assumptions/12.md). -/
def State.failSync (s : State) (a : Sync) (id : Nat) (late : Bool) : State :=
  let la := if late then some a.na else none
  match a.op with
  | .ldf | .ldfe => s.setItem id (.deliver ⟨a.tid, a.reg, 0, some a.na, la⟩)
  | .feq => s.setItem id (.reply ⟨a.tid, .reg a.reg, 0, some a.na, la, false, waysOf (cidOf a.tid) [(a.key, 8)], a.na, false⟩)
  | .ste =>
    let s := s.dropItem id
    if (s.th a.tid).park = .sync then s.updTh a.tid Thread.wake else s
  | .stf | .feclr | .feset | .claim => s.dropItem id

/-- The request of an engine or a collective changes. -/
def State.mapReq (s : State) (id : Nat) (f : Req → Req) : State :=
  match s.item id with
  | some (.engine c r) => s.setItem id (.engine c (f r))
  | some (.coll c r z) => s.setItem id (.coll c (f r) z)
  | _ => s

/-- One of a packet's accesses fails with it: a load or atomic is answered poisoned, and its other packets go on for nobody; a store's bytes, a
PUTR and a message are discarded (03 R66, 28 R387). -/
def State.failPacket (s : State) (p : Packet) (id : Nat) : State :=
  match s.item id with
  | some (.access _) => (s.answerPoisoned id (p.lates.contains id)).unpack [id]
  | some (.sync a) => (s.failSync a id (p.lates.contains id)).unpack [id]
  | some (.regPut t target _ _ _) => (s.setItem id (.ack t target (p.lates.contains id))).unpack [id]
  | some (.message _) => (s.dropItem id).unpack [id]
  | _ => s

/-- The port refuses one of a packet's accesses; an engine's request ends with REFUSED (03 R66, 04 R86). -/
def State.turnAway (s : State) (p : Packet) (id : Nat) : State :=
  match s.item id with
  | some (.engine _ _) | some (.coll _ _ _) => s.mapReq id fun r => { r with refused := true }
  | _ => s.failPacket p id

/-- Somebody still waits for a packet: an access, an engine's request, or a store that has not left its buffer. -/
def State.wanted (s : State) (p : Packet) : Bool :=
  p.ids.any fun id => (match s.item id with
    | some (.access _) | some (.sync _) | some (.engine _ _) | some (.coll _ _ _) | some (.regPut _ _ _ _ _) | some (.message _) => true
    | _ => false) || s.threads.any fun t => t.2.sb.any fun e => decide (e.id = id)

def State.keep (s : State) (die : Nat) (p : Packet) : State :=
  let d := s.die die
  s.setDie die { d with packets := d.packets ++ [{ p with stage := 7 }] }

/-- A packet goes on at the net of the die that serves its bytes, or comes to its core there. It enters there at the line of the port it
left by, since the spec names no source port for an arriving packet: the model's choice (03 R60, notes/assumptions/12.md). -/
def State.passOn (s : State) (p : Packet) : State :=
  if isLocalKey p.key then (if s.wanted p then s.keep p.home p else s)
  else s.enterNet p.home { p with stage := 0, line := p.dport, dport := homePort p.key, since := s.time.toNat }

/-- A packet reaches a destination port: its port may refuse it, whether somebody still waits for it or not; a die-to-die or fabric port
passes it to its home's net, and a fabric port without a link keeps it, or fails it once FTMO has passed (03 R60, R66; 28 R387). -/
def State.reachPort (s : State) (die : Nat) (p : Packet) : State :=
  if !s.admits die p.dport p.home p.tenant then
    p.ids.foldl (fun (s : State) id => s.turnAway p id) (s.refuse die p.dport p.cid p.tenant p.key p.wr)
  else if p.home = die then (if s.wanted p then s.keep die p else s)
  else if s.linkFailed (die / 4) (p.home / 4) then p.ids.foldl (fun (s : State) id => s.failPacket p id) s
  else if s.linkDown (die / 4) (p.home / 4) then s.keep die p
  else (if portKind p.dport = 2 then s.wakePkg (p.home / 4) else s).passOn p

/-- A switch sends a packet through an output; past its deadline it marks the packet and each of its requests late (03 R64). -/
def State.sendOn (s : State) (die sw : Nat) (p : Packet) (out : Nat) : State :=
  let isLate := !p.nodl && !p.late && passed p.deadline s.time
  let s := if isLate then s.countLate die else s
  let d := s.die die
  let s := s.setDie die { d with idleFrom := insert d.idleFrom (switchNo p.stage sw) s.time.toNat }
  let p := { p with
    stage := p.stage + 1, line := 2 * sw + out, late := p.late || isLate, since := s.time.toNat
    lates := if isLate then p.ids else p.lates }
  if p.stage = 7 then s.reachPort die p
  else
    let d := s.die die
    s.setDie die { d.awaken p s.time.toNat with packets := d.packets ++ [p] }

def Die.without (d : Die) (p : Packet) : Die := { d with packets := d.packets.filter fun q => decide (q ≠ p) }

/-- Two packets combined: input 0's requests come first (03 R62). The packet keeps the deadline, NODL, tenant and late bit of input
0's, which is the model's choice, since the spec gives the combined packet none (notes/assumptions/12.md); each request keeps its own
late bit. -/
def Packet.combine (p q : Packet) : Packet := { p with ids := p.ids ++ q.ids, lates := p.lates ++ q.lates }

/-- FAR_NET_FORWARD: the switch chooses among the heads bound for one output, or combines them (03 R61 to R65). -/
def execFarNetForward (die stage sw out : Nat) (s : State) : Out :=
  let d := s.die die
  if d.off.contains (switchNo stage sw) then .next s
  else
    let bound (o : Option Packet) : Option Packet := o.filter fun p => p.out = out
    match bound (d.head stage sw 0), bound (d.head stage sw 1) with
    | none, none => .next s
    | some p, none => .next ((s.setDie die (d.without p)).sendOn die sw p out)
    | none, some q => .next ((s.setDie die (d.without q)).sendOn die sw q out)
    | some p, some q =>
      if s.joinable p q then
        let s := s.setDie die ((d.without p).without q)
        .next (s.sendOn die sw (p.combine q) out)
      else
        let w := if upperLoses p q s.time then q else p
        .next ((s.setDie die (d.without w)).sendOn die sw w out)

/-- 512 cycles of the 1.2 GHz network clock have passed since a TIME in nanoseconds (03 R65). -/
def idleLong (since : Nat) (time : BitVec 48) : Bool := decide (512 * 10 ≤ (time.toNat + 2 ^ 48 - since) % 2 ^ 48 * 12)

/-- SWITCH_POWER_DOWN: a switch powers down once both its inputs have been empty for 512 network cycles; a wake in the same cycle
wins and starts the count again (03 R65). -/
def execSwitchPowerDown (die stage sw : Nat) (s : State) : Out :=
  let d := s.die die
  let n := switchNo stage sw
  if (d.head stage sw 0).isNone && (d.head stage sw 1).isNone && idleLong (lookup 0 d.idleFrom n) s.time then
    .next (s.setDie die { d with off := addKey d.off n })
  else .next s

/-- SWITCH_WAKE (03 R65). -/
def execSwitchWake (die stage sw : Nat) (s : State) : Out :=
  let d := s.die die
  let n := switchNo stage sw
  if d.waking.contains n then
    .next (s.setDie die
      { d with off := delKey d.off n, waking := delKey d.waking n, idleFrom := insert d.idleFrom n s.time.toNat })
  else .next s

end Sys2Proof.Machine
end

