-- ==== Sys2Proof/Machine/Locks.lean ====
section
/-! DEFINITION. Machine/Locks.lean: lock words and their wait queues at the home (15 R254 to R256), and what a write of any kind
entails for those who wait on its word: a lock handed over (State.settleLocks), and a parked access of a word that becomes poisoned (12
R210). -/
namespace Sys2Proof.Machine

/-- The holder word of a thread (15 R254). -/
def State.holderWord (s : State) (tid : Nat) : Word :=
  let t := s.th tid
  BitVec.ofNat 64 (2 ^ 63 + pkgOf (cidOf tid) * 2 ^ 48 + t.groupNo * 2 ^ 32 + t.rank % 2 ^ 16)

/-- Two words name one holder: HELD, PKG, GROUP and RANK (15 R254). -/
def sameHolder (a b : Word) : Bool :=
  a.getLsbD 63 && b.getLsbD 63 && decide (Fld a 55 32 = Fld b 55 32) && decide (Fld a 15 0 = Fld b 15 0)

/-- Lock waits of a die; 1,024 at most (15 R255). -/
def State.lockWaits (s : State) (die : Nat) : Nat :=
  ((s.locks.filter fun q => decide (q.die = die)).map fun q => q.waiters.length).foldl (· + ·) 0

/-- Joins the tail of a word's queue for a die. -/
def joinLock (qs : List LockQueue) (key die : Nat) (w : Waiter) : List LockQueue :=
  if qs.any fun q => decide (q.key = key) && decide (q.die = die) then
    qs.map fun q => if q.key = key ∧ q.die = die then { q with waiters := q.waiters ++ [w] } else q
  else qs ++ [⟨key, die, [w]⟩]

/-- Takes one waiter from a queue; an empty queue goes. -/
def dropHead (qs : List LockQueue) (key die : Nat) : List LockQueue :=
  (qs.map fun q => if q.key = key ∧ q.die = die then { q with waiters := q.waiters.drop 1 } else q).filter
    fun q => !q.waiters.isEmpty

/-- A thread leaves every lock queue (12 R213). -/
def State.leaveLocks (s : State) (tid : Nat) : State :=
  { s with
    locks := (s.locks.map fun (q : LockQueue) =>
      { q with waiters := q.waiters.filter fun w => decide (w.tid ≠ tid) }).filter fun q => !q.waiters.isEmpty }

/-- The lock goes to the head of one of the word's queues, the home choosing the die: one write, and a reply that wakes the thread as it
lands, over the way of the LOCK (15 R256; 28 R387, R391). -/
def State.grantLock (s : State) (key : Nat) : State :=
  let qs := s.locks.filter fun q => decide (q.key = key)
  match qs[Config.freeChoice s.fresh % qs.length]? with
  | none => s
  | some q =>
    match q.waiters with
    | [] => s
    | w :: _ =>
      let s := { s with fresh := s.fresh + 1, locks := dropHead s.locks key q.die }
      let s := s.storeAt key (toBytes 8 (s.holderWord w.tid).toNat)
      s.setItem w.id (.reply
        { tid := w.tid, dst := w.dst, val := 0, late := if w.late then some w.ea else none, acq := true,
          ways := waysOf (cidOf w.tid) [(key, 8)], ea := w.ea, grant := true })

/-- Every write that leaves HELD = 0 in a word with waiters hands the lock over (15 R256). -/
def State.settleLocks (s : State) : State :=
  (s.locks.map (·.key)).eraseDups.foldl (fun (s : State) (k : Nat) =>
    if !s.poisoned k 8 && decide (s.load k 8 / 2 ^ 63 = 0) then s.grantLock k else s) s

/-! ### Parked accesses (03 R74, 12 R210) -/

/-- The deferred-access queue of a word. -/
def State.waiters (s : State) (word : Nat) : List Sync := lookup [] s.deferred word
def State.setWaiters (s : State) (word : Nat) (l : List Sync) : State :=
  { s with deferred := if l.isEmpty then erase s.deferred word else insert s.deferred word l }

/-- A poisoned reply makes cause 0x0B pending, the first before a boundary counting (15 R250). -/
def Thread.notePoison (t : Thread) (ea : Word) : Thread :=
  if t.pending.poison.isNone then { t with pending := { t.pending with poison := some ea } } else t

/-- The first late reply before a boundary traps, while DEADLINE[63] is 1 (03 R64). -/
def Thread.noteLate (t : Thread) (late : Option Word) : Thread :=
  match late with
  | some ea =>
    if t.sys.deadline.getLsbD 63 && t.pending.late.isNone then { t with pending := { t.pending with late := some ea } } else t
  | none => t

/-- A parked access whose word becomes poisoned leaves the queue and traps at its thread's next boundary: the delivery of an LDF or
LDFE comes poisoned, and an STE's thread leaves its wait with its store undone (12 R210). -/
def State.spoilParked (s : State) (a : Sync) : State :=
  match a.op with
  | .ste =>
    let s := s.updTh a.tid fun t => t.notePoison a.na
    if (s.th a.tid).park = .sync then s.updTh a.tid Thread.wake else s
  | _ =>
    s.setItem a.id (.deliver
      { tid := a.tid, reg := a.reg, val := 0, poison := some a.na, late := if a.late then some a.na else none })

/-- A word becomes poisoned, and every access that is parked on it traps; one that parks later waits for the word as it is (12 R210). -/
def State.spoil (s : State) (k : Nat) : State :=
  if s.poison.contains (k / 8) then s
  else (s.waiters (k / 8)).foldl (fun (s : State) a => s.spoilParked a) ((s.addPoison k).setWaiters (k / 8) [])

/-- A write brings a poisoned word; what is written to a bound channel descriptor is discarded (16 R279). -/
def State.writePoison (s : State) (k : Nat) : State := if s.hidden k then s else s.spoil k

end Sys2Proof.Machine
end

