-- ==== Sys2Proof/Machine/Boundary.lean ====
section
/-! DEFINITION. Machine/Boundary.lean: the causes taken between pairs (05 R110; 12 R205 to R207), and how a pair is fetched
(02 R43, 08 R158). -/
namespace Sys2Proof.Machine

/-- The boundary cause taken first, with its TVAL and EPC, and what stays pending (12 R206, R207). The timer comes last and has
a rule of its own. -/
def Thread.boundary (t : Thread) : Option (Nat × Word × Word × Pending) :=
  match t.pending.poison with
  | some v => some (0x0B, v, t.pc, { t.pending with poison := none })
  | none =>
    match t.pending.sync with
    | some (v, pc) => some (0x09, v, pc.getD t.pc, { t.pending with sync := none })
    | none =>
      match t.pending.late with
      | some v => some (0x10, v, t.pc, { t.pending with late := none })
      | none => none

/-- TIME has reached an armed target (05 R110). -/
def timerReached (timer : Word) (time : BitVec 48) : Bool :=
  timer.getLsbD 63 && decide ((time.toNat + 2 ^ 48 - timer.toNat % 2 ^ 48) % 2 ^ 48 < 2 ^ 47)

def Thread.timerDue (t : Thread) (time : BitVec 48) : Bool := t.pending.timer || timerReached t.sys.timer time

/-- A thread that may issue: RUNNABLE, not past its EXIT (09 R161), and of a group that is not being pre-empted (12 R211). -/
def Thread.issuing (t : Thread) : Bool := t.slot = .runnable && !t.exited && !t.held

def State.takeBoundary (s : State) (tid : Nat) (b : Nat × Word × Word × Pending) : State :=
  (s.updTh tid fun t => { t with pending := b.2.2.2 }).enterTrap tid b.2.2.1 b.1 b.2.1

/-- Cause 0x0F, with TIME as its TVAL; EN clears as it is taken (05 R110). -/
def State.takeTimer (s : State) (tid : Nat) : State :=
  let s := s.updTh tid fun t =>
    { t with
      pending := { t.pending with timer := false }
      sys := { t.sys with timer := BitVec.ofNat 64 (setBits t.sys.timer.toNat 63 63 0) } }
  s.enterTrap tid (s.th tid).pc 0x0F (s.time.setWidth 64)

/-- BOUNDARY_TRAP (12 R207): before the next pair issues, so not while the rotation of an issued one is held back (13 R226). The
timer's is taken when the thread next issues (05 R110), so not while it waits. -/
def execBoundaryTrap (tid : Nat) (s : State) : Out :=
  let t := s.th tid
  if !t.issuing || t.rotate.isSome then .next s
  else
    match t.boundary with
    | some b => .next (s.takeBoundary tid b)
    | none => if t.timerDue s.time && t.wait.isNone then .next (s.takeTimer tid) else .next s

/-- TIMER_EXPIRY: the cause becomes pending; EN stays set until the trap is taken (05 R110). That of a hob core wakes the package (28
R391). -/
def execTimerExpiry (tid : Nat) (s : State) : Out :=
  let t := s.th tid
  if t.slot ≠ .vacant && timerReached t.sys.timer s.time then
    let s := s.updTh tid fun t => { t with pending := { t.pending with timer := true } }
    .next (if isHob (cidOf tid) then s.wakePkg (pkgOf (cidOf tid)) else s)
  else .next s

/-! ### Fetching -/

/-- The buffered pairs from the PC on. -/
def Thread.buffered (t : Thread) : List (Word × Word) := t.fetch.dropWhile fun p => decide (p.1 ≠ t.pc)

/-- The key of the pair at an address, after the checks of a fetch (02 R43). -/
def State.fetchKey (s : State) (pc : Word) : Except Stop Nat := s.far pc 8 { x := true } 8 accFetch

/-- The packet of a fetch is refused by a port, or failed by one without its link (03 R66, 28 R387). -/
def State.fetchCut (s : State) (k : Nat) : Bool := !(s.cutOff s.cid s.src.tenant [(k, 8)]).isEmpty

/-- The pair at an address, fetched whole (02 R43, R58; 08 R158); one that a port refuses, or fails without its link, comes poisoned (03
R66, 28 R387). -/
def State.fetchAt (s : State) (pc : Word) : Except Stop Word := do
  let key ← s.fetchKey pc
  waitIf (s.awaitsLink s.cid key) onMemory
  raiseIf (s.fetchCut key || s.poisoned key 8) 0x0B pc
  pure (BitVec.ofNat 64 (s.load key 8))

/-- What the packet of a fetch leaves behind at the ports, switches and packages that it passes, and in its thread where it is late (03 R64,
R66; 28 R391). -/
def State.fetchTrail (s : State) (pc : Word) : State :=
  match s.fetchKey pc with
  | .error _ => s
  | .ok k =>
    (s.crossing s.cid s.src.tenant s.src.dueBy false [(k, 8)]).updMe fun t =>
      t.noteLate (if s.pastDue s.src.dueBy [(k, 8)] then some pc else none)

/-- A fetch whose pair comes poisoned has passed its ports and switches as well (03 R64, R66). -/
def State.fetchFailed (s : State) (st : Stop) : State :=
  match st with
  | .trap 0x0B _ => s.fetchTrail s.me.pc
  | _ => s

/-- The pair the thread issues next stands in its fetch buffer, or is fetched into it now. -/
def State.fetchPair (s : State) : Except Stop (State × Word) :=
  match s.me.buffered with
  | p :: _ => .ok (s, p.2)
  | [] => do
    let w ← s.fetchAt s.me.pc
    pure ((s.fetchTrail s.me.pc).updMe fun t => { t with fetch := [(t.pc, w)] }, w)

/-- A thread buffers the next pair ahead of issue, up to 8; a fetch ahead that would trap or miss does nothing (02 R43,
08 R158). A follower of a gang fetches nothing (09 R167). -/
def State.prefetch (s : State) (tid : Nat) : State :=
  let s' := { s with cur := tid, iss := {} }
  let t := s'.me
  let pc := t.pc + 8 * BitVec.ofNat 64 t.buffered.length
  if !t.issuing || (t.gang.any fun g => decide (g.idx ≠ 0)) || decide (8 ≤ t.buffered.length) then s
  else
    match s'.fetchAt pc with
    | .ok w => { s'.fetchTrail pc with cur := s.cur, iss := s.iss }.updTh tid fun t => { t with fetch := t.buffered ++ [(pc, w)] }
    | .error _ => s

end Sys2Proof.Machine
end

