-- ==== Sys2Proof/Machine/Status.lean ====
section
/-! DEFINITION. Machine/Status.lean: what the device writes about programs: trace records (20 R355, R356; 28 R396, R397). -/
namespace Sys2Proof.Machine

/-- In RECOVERY only the security block of the package accepts writes (28 R392). -/
def State.recovery (s : State) (pkg : Nat) : Bool := decide ((s.pkg pkg).service.secmode = 3)

/-- An access to a register of the package, which wakes it (28 R391); in RECOVERY it changes nothing (28 R392). -/
def State.register (s : State) (pkg : Nat) (f : State → State) : Out :=
  let s := s.wakePkg pkg
  .next (if s.recovery pkg then s else f s)

/-! ### Trace (28 R397) -/

/-- The trace ring: its first key and its length, while TRBASE.V is set and TRSIZE is a power of two from 64 KiB to 1 GiB. -/
def Service.ring (v : Service) (pkg : Nat) : Option (Nat × Nat) :=
  let b := v.trbase
  let n := v.trsize.toNat
  if b.getLsbD 63 && (List.range 15).any fun i => decide (n = 2 ^ (16 + i)) then
    some (keyFar pkg (Fld b 32 31) (Fld b 30 30) (Fld b 26 0 * 2 ^ 12), n)
  else none

/-- Free words of the ring; head and tail equal is an empty ring, so one word stays free (notes/assumptions/13.md). -/
def Service.free (v : Service) (n : Nat) : Nat := (v.trhead.toNat % n / 8 * 8 + n - v.trtail % n - 8) % n / 8

/-- Writes words at the tail, one after another. -/
def State.traceWords (s : State) (pkg : Nat) : List Nat → State
  | [] => s
  | w :: rest =>
    let v := (s.pkg pkg).service
    match v.ring pkg with
    | none => s
    | some (k, n) =>
      let s := (s.storeAt (k + v.trtail % n) (toBytes 8 w)).settleLocks
      (s.updPkg pkg fun p => { p with service := { v with trtail := (v.trtail % n + 8) % n } }).traceWords pkg rest

/-- Word 0 of a trace record (20 R355). -/
def traceHeader (kind len time : Nat) : Nat := 3 * 2 ^ 62 + kind * 2 ^ 56 + (len - 1) * 2 ^ 54 + time

/-- A LOST record, once 2 words are free again, goes before any other (28 R397). -/
def State.traceLost (s : State) (pkg : Nat) : State :=
  let v := (s.pkg pkg).service
  match v.ring pkg with
  | none => s
  | some (_, n) =>
    if 0 < v.trdrop ∧ 2 ≤ v.free n then
      let s := s.traceWords pkg [traceHeader 4 2 s.time.toNat, v.trdrop % 2 ^ 62]
      s.updPkg pkg fun p => { p with service := { p.service with trdrop := 0 } }
    else s

/-- Writes a trace record whole, or drops it and counts it (28 R397). -/
def State.trace (s : State) (pkg kind : Nat) (body : List Nat) : State :=
  let s := s.traceLost pkg
  let v := (s.pkg pkg).service
  match v.ring pkg with
  | none => s
  | some (_, n) =>
    let len := body.length + 1
    if v.trdrop = 0 ∧ len ≤ v.free n then s.traceWords pkg (traceHeader kind len s.time.toNat :: body)
    else
      s.updPkg pkg fun p =>
        { p with service := { p.service with trlost := min (v.trlost + 1) (2 ^ 32 - 1), trdrop := v.trdrop + 1 } }

/-- A label passes when no filter is enabled or an enabled one matches (28 R397). -/
def Service.passes (v : Service) (label : Nat) : Bool :=
  let fs := (List.range 4).map fun i => lookup 0 v.trfilt i
  let on := fs.filter fun f => f.getLsbD 32
  on.isEmpty || on.any fun f => decide (label &&& Fld f 31 16 = Fld f 15 0)

/-- The package thread identifier (00 R5). -/
def ptid (tid : Nat) : Nat := tid % 2 ^ 17

/-- A RANGE-IN (2) or RANGE-OUT (3) record, while capture is on and the label passes (20 R356). -/
def State.traceRange (s : State) (tid kind depth label : Nat) : State :=
  let pkg := pkgOf (cidOf tid)
  let v := (s.pkg pkg).service
  if v.trctl.getLsbD 1 && v.passes label then s.trace pkg kind [depth * 2 ^ 48 + label * 2 ^ 32 + ptid tid] else s

/-- A STOP record, while TRCTL enables them (28 R396, R397). -/
def State.traceStop (s : State) (tid : Nat) : State :=
  let pkg := pkgOf (cidOf tid)
  if (s.pkg pkg).service.trctl.getLsbD 2 then
    s.trace pkg 5 [cidOf tid % 2 ^ 13 * 2 ^ 48 + slotOf tid * 2 ^ 44 + Fld (s.th tid).pc 43 3 * 8]
  else s

/-- A thread becomes STOPPED, with a STOP record (28 R395, R396). -/
def State.stopNow (s : State) (tid : Nat) : State :=
  (s.updTh tid fun t => { t with slot := .stopped, stepping := false, stopping := false }).traceStop tid

/-- A thread stops at a pair boundary: where a rotation is held back, once it has ended (13 R226; 28 R395). -/
def State.stopAt (s : State) (tid : Nat) : State :=
  if (s.th tid).rotate.isNone then s.stopNow tid else s.updTh tid fun t => { t with stepping := false, stopping := true }

end Sys2Proof.Machine
end

