-- ==== Sys2Proof/Machine/Float.lean ====
section
/-! DEFINITION. Machine/Float.lean: the values of the element formats and their exact arithmetic (01 R12 to R33; 17 R295 to
R298; 18 R310, R320). -/
namespace Sys2Proof.Machine

/-- Field widths and bias of a floating format, and whether its top exponent code holds Inf and NaN (01 R12, R15). -/
structure FpParams where
  e : Nat
  f : Nat
  bias : Nat
  ieee : Bool
  deriving DecidableEq, Repr

/-- The floating formats of 01 R12, under STATUS.TX (01 R15); `none` for the integer formats. -/
def fpParams (tx : Bool) : Fmt → Option FpParams
  | .f64 => some ⟨11, 52, 1023, true⟩
  | .f32 => some ⟨8, 23, 127, true⟩
  | .f16 => some ⟨5, 10, 15, true⟩
  | .bf16 => some ⟨8, 7, 127, true⟩
  | .e4 => some ⟨4, 3, 7, tx⟩
  | .e5 => some ⟨5, 2, 15, tx⟩
  | .f4 => some ⟨2, 1, 1, false⟩
  | _ => none

/-- Width of an element in bits (01 R12, R17). -/
def fmtWidth : Fmt → Nat
  | .f64 | .i64 => 64
  | .f32 | .i32 | .ui32 => 32
  | .f16 | .bf16 | .i16 => 16
  | .e4 | .e5 | .i8 | .ui8 | .ts8 => 8
  | .f4 => 4

/-- Absent(f) of 13 R232 (01 R12, R17). -/
def absentCode : Fmt → Nat
  | .f64 => 0xFFF8000000000001
  | .f32 => 0xFFC00001
  | .f16 => 0xFE01
  | .bf16 => 0xFFC1
  | .e4 | .e5 => 0x80
  | .f4 => 8
  | .i64 => 0x8000000000000000
  | .i32 => 0x80000000
  | .i16 => 0x8000
  | .i8 => 0x80
  | .ui32 => 0xFFFFFFFF
  | .ui8 => 0xFF
  | .ts8 => 0x88

/-- The unsigned formats of 01 R17. -/
def fmtUnsigned : Fmt → Bool
  | .ui32 | .ui8 => true
  | _ => false

/-- What a code stands for: absent, a NaN with its fraction field and that field's width, an infinity, or
(−1)^neg × m × 2^e. -/
inductive Val where
  | absent
  | nan (neg : Bool) (frac fbits : Nat)
  | inf (neg : Bool)
  | fin (neg : Bool) (m : Nat) (e : Int)
  deriving DecidableEq, Repr

/-- Rounding modes (01 R27). -/
inductive Mode where
  | rne | rtz | up | down | sr
  deriving DecidableEq, Repr

/-- A delivered code, the flags it raises in FLAGS bit order (01 R29), and the rounding draws it takes (01 R28). -/
structure Rounded where
  code : Nat
  flags : Nat
  draws : Nat
  deriving DecidableEq, Repr

def flagNX : Nat := 1
def flagUF : Nat := 2
def flagOF : Nat := 4
def flagDZ : Nat := 8
def flagNV : Nat := 16
def flagIO : Nat := 32

/-- The mode that STATUS.RM holds (01 R27); the codes that read as RNE never stand in STATUS. -/
def modeOf (rm : Nat) : Mode :=
  match rm with
  | 1 => .rtz
  | 2 => .up
  | 3 => .down
  | 4 => .sr
  | _ => .rne

/-- The mode of a rounding instruction: RND over STATUS.RM (01 R27). -/
def resolve (r : Rnd) (rm : Nat) : Mode :=
  match r with
  | .status => modeOf rm
  | .rne => .rne
  | .rtz => .rtz
  | .sr => .sr

/-! ### Decoding -/

/-- TS8 in units of 2^−7 (01 R18). -/
def ts8Value (x : Nat) : Int :=
  let t1 : Int := ((2 ^ (7 - x / 16 % 8) : Nat) : Int)
  let t2 : Int := ((2 ^ (7 - x % 8) : Nat) : Int)
  (if x / 128 % 2 = 1 then -t1 else t1) + (if x / 8 % 2 = 1 then -t2 else t2)

def ofInt (x e : Int) : Val := .fin (decide (x < 0)) x.natAbs e

/-- The value of a code (01 R12 to R18). With `ftz`, a subnormal reads as zero of its sign (01 R30). -/
def decode (f : Fmt) (tx ftz : Bool) (code : Nat) : Val :=
  let c := code % 2 ^ fmtWidth f
  if c = absentCode f then .absent
  else
    match fpParams tx f with
    | none =>
      if f = .ts8 then ofInt (ts8Value c) (-7)
      else if fmtUnsigned f then .fin false c 0
      else ofInt (toSigned (fmtWidth f) c) 0
    | some p =>
      let neg := decide (c / 2 ^ (p.e + p.f) = 1)
      let x := c / 2 ^ p.f % 2 ^ p.e
      let fr := c % 2 ^ p.f
      if p.ieee && decide (x = 2 ^ p.e - 1) then
        if fr = 0 then .inf neg else .nan neg fr p.f
      else if x = 0 then
        if ftz then .fin neg 0 0 else .fin neg fr (1 - (p.bias : Int) - p.f)
      else .fin neg (2 ^ p.f + fr) ((x : Int) - p.bias - p.f)

def Val.isAbsent : Val → Bool
  | .absent => true
  | _ => false

def Val.isNan : Val → Bool
  | .nan _ _ _ => true
  | _ => false

/-- A signalling NaN: its quiet bit, the top fraction bit (01 R13), is clear. -/
def Val.signalling : Val → Bool
  | .nan _ fr k => decide (fr / 2 ^ (k - 1) % 2 = 0)
  | _ => false

def Val.isInf : Val → Bool
  | .inf _ => true
  | _ => false

def Val.isZero : Val → Bool
  | .fin _ m _ => decide (m = 0)
  | _ => false

def Val.neg : Val → Bool
  | .nan n _ _ | .inf n | .fin n _ _ => n
  | .absent => false

def Val.negate : Val → Val
  | .absent => .absent
  | .nan n f k => .nan (!n) f k
  | .inf n => .inf (!n)
  | .fin n m e => .fin (!n) m e

/-! ### Rounding -/

/-- Whether a magnitude with `n` whole units and remainder `rem` of 2^`sh` parts goes up a unit (01 R27, R28). -/
def roundsUp (mode : Mode) (w : Nat) (neg : Bool) (n rem sh : Nat) : Bool :=
  match mode with
  | .rne => decide (2 ^ sh < 2 * rem) || (decide (2 * rem = 2 ^ sh) && decide (n % 2 = 1))
  | .rtz => false
  | .up => !neg && decide (rem ≠ 0)
  | .down => neg && decide (rem ≠ 0)
  | .sr => decide (w < rem * 2 ^ 24 / 2 ^ sh)

/-- m × 2^e as a whole number of 2^q, rounded, and whether that is inexact. -/
def roundAt (mode : Mode) (w : Nat) (neg : Bool) (m : Nat) (e q : Int) : Nat × Bool :=
  if q ≤ e then (m * 2 ^ (e - q).toNat, false)
  else
    let sh := (q - e).toNat
    let n := m / 2 ^ sh
    let rem := m % 2 ^ sh
    (if roundsUp mode w neg n rem sh then n + 1 else n, decide (rem ≠ 0))

/-- The magnitude code of the largest finite value (01 R12, R15). -/
def maxCode (p : FpParams) : Nat := if p.ieee then (2 ^ p.e - 1) * 2 ^ p.f - 1 else 2 ^ (p.e + p.f) - 1

def signCode (p : FpParams) (neg : Bool) : Nat := if neg then 2 ^ (p.e + p.f) else 0

/-- −0 becomes +0 in E4, E5 and F4 (01 R14). -/
def zeroCode (f : Fmt) (p : FpParams) (neg : Bool) : Nat :=
  if f = .e4 || f = .e5 || f = .f4 then 0 else signCode p neg

/-- What a value beyond the largest finite one delivers (01 R33). -/
def overflowCode (p : FpParams) (mode : Mode) (neg : Bool) : Nat :=
  let toInf := match mode with
    | .rne | .sr => true
    | .rtz => false
    | .up => !neg
    | .down => neg
  if p.ieee && toInf then (2 ^ p.e - 1) * 2 ^ p.f else maxCode p

/-- Under SR, the part of R28's T that measures a value from the largest finite one: floor of (|x| − max) / ulp × 2^24, or `none`
where |x| is not above max. -/
def srBeyond (p : FpParams) (m : Nat) (e : Int) : Option Nat :=
  let top := 2 ^ (p.f + 1) - 1
  let q : Int := (if p.ieee then (2 ^ p.e : Nat) - 2 else (2 ^ p.e : Nat) - 1 : Int) - p.bias - p.f
  if q ≤ e then
    let n := m * 2 ^ (e - q).toNat
    if top < n then some ((n - top) * 2 ^ 24) else none
  else
    let sh := (q - e).toNat
    if top * 2 ^ sh < m then some ((m - top * 2 ^ sh) * 2 ^ 24 / 2 ^ sh) else none

/-- RoundTo for a finite value (01 R28, R29, R30, R33): the magnitude code before the sign, and the flags. A tiny result raises UF only where
it is inexact too: the model's choice, since the rule says of tininess alone how it is detected (01 R30; notes/assumptions/26.md). -/
def roundFin (p : FpParams) (mode : Mode) (w : Nat) (neg : Bool) (m : Nat) (e : Int) : Nat × Nat :=
  let qmin : Int := 1 - (p.bias : Int) - p.f
  let e2 : Int := (Nat.log2 m : Int) + e
  let q : Int := if e2 - p.f < qmin then qmin else e2 - p.f
  let (n, inx) := roundAt mode w neg m e q
  let code := (q - qmin).toNat * 2 ^ p.f + n
  let tiny := decide (e2 < 1 - (p.bias : Int)) &&
    !(decide (e2 = -(p.bias : Int)) && decide (2 ^ (p.f + 1) ≤ (roundAt mode w neg m e (e2 - p.f)).1))
  match mode, srBeyond p m e with
  | .sr, some t =>
    if w < t then (overflowCode p .sr neg, flagOF ||| flagNX) else (maxCode p, flagNX)
  | _, _ =>
    if maxCode p < code then (overflowCode p mode neg, flagOF ||| flagNX)
    else (code, if inx then (if tiny then flagNX ||| flagUF else flagNX) else 0)

/-- A NaN delivered in a format that has NaNs: quiet bit set, sign kept, payload cut from the top or padded below, and never the
absent code (01 R31, R33). -/
def nanCode (f : Fmt) (p : FpParams) (neg : Bool) (frac fbits : Nat) : Nat :=
  let fr := if fbits ≤ p.f then frac * 2 ^ (p.f - fbits) else frac / 2 ^ (fbits - p.f)
  let quiet := 2 ^ (p.f - 1)
  let code := signCode p neg + (2 ^ p.e - 1) * 2 ^ p.f + (if fr / quiet % 2 = 1 then fr else fr + quiet)
  if code = absentCode f then code / quiet * quiet else code

/-- The default NaN (01 R31). -/
def defaultNan : Val := .nan false 1 1

/-- Clamps a rounded integer into the present range of an integer format (01 R17, R33). -/
def clampInt (f : Fmt) (x : Int) : Nat × Bool :=
  let w := fmtWidth f
  let lo : Int := if fmtUnsigned f then 0 else -((2 ^ (w - 1) - 1 : Nat) : Int)
  let hi : Int := if fmtUnsigned f then ((2 ^ w - 2 : Nat) : Int) else ((2 ^ (w - 1) - 1 : Nat) : Int)
  if x < lo then (toBits w lo, true) else if hi < x then (toBits w hi, true) else (toBits w x, false)

/-- The TS8 codes but the absent one, in order, each the smallest of its value (01 R19). -/
def ts8Better (x : Int) (sh : Nat) (best c : Nat) : Bool :=
  let s : Int := ((2 ^ sh : Nat) : Int)
  let d (k : Nat) : Nat := (x - ts8Value k * s).natAbs
  decide (d c < d best) || (decide (d c = d best) && decide ((ts8Value c).natAbs < (ts8Value best).natAbs))

/-- The TS8 code nearest x × 2^−sh in units of 2^−7 (01 R19). -/
def ts8Near (x : Int) (sh : Nat) : Nat :=
  (List.range 256).foldl (fun best c => if c ≠ 0x88 && ts8Better x sh best c then c else best) 0

def ts8Encode (neg : Bool) (m : Nat) (e : Int) : Nat × Nat :=
  let sh := (-(e + 7)).toNat
  let y := m * 2 ^ (e + 7).toNat
  let x : Int := if neg then -(y : Int) else y
  let c := ts8Near x sh
  let s : Int := ((2 ^ sh : Nat) : Int)
  (c, (if ts8Value c * s = x then 0 else flagNX) ||| (if x < -192 * s || 256 * s < x then flagOF else 0))

/-- RoundTo(f, x, m) of 13 R232, with the conversion exceptions of 01 R33: the code and the flags. `w` is the low 24 bits of the
draw that SR takes. With `ftz`, a subnormal result is flushed (01 R30). -/
def encodeVal (f : Fmt) (tx ftz : Bool) (mode : Mode) (w : Nat) (v : Val) : Nat × Nat :=
  match fpParams tx f, v with
  | _, .absent => (absentCode f, 0)
  | some p, .nan neg fr k =>
    if p.ieee then (nanCode f p neg fr k, if v.signalling then flagNV else 0)
    else (signCode p neg + maxCode p, flagNV)
  | some p, .inf neg =>
    if p.ieee then (signCode p neg + (2 ^ p.e - 1) * 2 ^ p.f, 0) else (signCode p neg + maxCode p, flagNV)
  | some p, .fin neg m e =>
    if m = 0 then (zeroCode f p neg, 0)
    else
      let (c, fl) := roundFin p mode w neg m e
      if c = 0 then (zeroCode f p neg, fl)
      else if ftz && decide (c < 2 ^ p.f) then (signCode p neg, fl ||| flagUF ||| flagNX)
      else (signCode p neg + c, fl)
  | none, .nan neg _ _ =>
    if f = .ts8 then (if neg then 0x89 else 0, flagNV)
    else ((clampInt f (if neg then -(2 ^ 64 : Nat) else (2 ^ 64 : Nat))).1, flagNV)
  | none, .inf neg =>
    if f = .ts8 then (if neg then 0x89 else 0, flagNV)
    else ((clampInt f (if neg then -(2 ^ 64 : Nat) else (2 ^ 64 : Nat))).1, flagNV)
  | none, .fin neg m e =>
    if f = .ts8 then ts8Encode neg m e
    else
      let (n, inx) := roundAt mode w neg m e 0
      let (c, out) := clampInt f (if neg then -(n : Int) else n)
      (c, if out then flagNV else if inx then flagNX else 0)

/-! ### Exact arithmetic -/

/-- The largest `r` with r × r ≤ n, below 2^k. -/
def isqrt (n : Nat) : Nat → Nat
  | 0 => 0
  | k + 1 =>
    let hi := isqrt (n / 4) k * 2
    if (hi + 1) * (hi + 1) ≤ n then hi + 1 else hi

/-- The sign of an exact zero sum (01 R320, and IEEE 754 where it agrees; notes/assumptions/10.md). -/
def zeroNeg (mode : Mode) (negs : List Bool) (dot : Bool) (fmt : Nat) : Bool :=
  if negs.all (· = true) && !negs.isEmpty then true
  else if mode = .down then
    if !dot && negs.all (· = false) then Config.zeroSign fmt else true
  else false

def signedTerm (neg : Bool) (m : Nat) : Int := if neg then -(m : Int) else m

/-- The exact sum of finite values: its value, or the value zero with the signs of its terms. `zs` gives the sign of a zero
sum. -/
def exactSum (zs : List Bool → Bool) (terms : List (Bool × Nat × Int)) : Val :=
  let e := terms.foldl (fun acc t => if t.2.2 < acc then t.2.2 else acc) (terms.headD (false, 0, 0)).2.2
  let tot := terms.foldl (fun acc t => acc + signedTerm t.1 (t.2.1 * 2 ^ (t.2.2 - e).toNat)) (0 : Int)
  if tot = 0 then
    .fin (if terms.all (fun t => t.2.1 = 0) then zs (terms.map (·.1)) else zs [true, false]) 0 0
  else ofInt tot e

/-- The quotient of two nonzero magnitudes with a sticky bit below 100 exact ones, which no rounding of 01 R28 looks past. -/
def exactQuot (neg : Bool) (m : Nat) (e : Int) (m' : Nat) (e' : Int) : Val :=
  let sh := Nat.log2 m' + 100
  let n := m * 2 ^ sh
  .fin neg (n / m' * 2 + (if n % m' = 0 then 0 else 1)) (e - e' - sh - 1)

/-- The square root of a magnitude, with a sticky bit likewise. -/
def exactSqrt (m : Nat) (e : Int) : Val :=
  let m1 := if e % 2 = 0 then m else m * 2
  let e1 := if e % 2 = 0 then e else e - 1
  let n := m1 * 2 ^ 220
  let r := isqrt n (Nat.log2 n + 1)
  .fin false (r * 2 + (if r * r = n then 0 else 1)) (e1 / 2 - 111)

/-- The first NaN of a list of inputs (01 R31). -/
def firstNan (vs : List Val) : Option Val := vs.find? Val.isNan

def anySignalling (vs : List Val) : Bool := vs.any Val.signalling

/-- RoundTo of a result with flags already raised, taking a draw under SR (01 R28; 17 R295). -/
def deliver (f : Fmt) (tx ftz : Bool) (mode : Mode) (w : Nat) (v : Val) (fl : Nat) : Rounded :=
  let (c, fl') := encodeVal f tx ftz mode w v
  ⟨c, fl ||| fl', if mode = .sr then 1 else 0⟩

/-- Pass(x) of 17 R295. -/
def pass (f : Fmt) (v : Val) : Rounded :=
  let (c, fl) := encodeVal f false false .rne 0 v
  ⟨c, fl, 0⟩

/-- The rounding operations of 17 R294 and 18 R309. -/
inductive FOp where
  | add | sub | mul | div | sqrt | rcp | rsq
  deriving DecidableEq, Repr

/-- An operation's exact result on present inputs that are not NaNs, and its flags (01 R31; 17 R294; 18 R309). -/
def exactOp (op : FOp) (mode : Mode) (fmt : Nat) (a b : Val) : Val × Nat :=
  match op, a, b with
  | .add, .inf n, .inf n' => if n = n' then (.inf n, 0) else (defaultNan, flagNV)
  | .add, .inf n, _ => (.inf n, 0)
  | .add, _, .inf n => (.inf n, 0)
  | .add, .fin n m e, .fin n' m' e' => (exactSum (fun l => zeroNeg mode l false fmt) [(n, m, e), (n', m', e')], 0)
  | .sub, .inf n, .inf n' => if n = n' then (defaultNan, flagNV) else (.inf n, 0)
  | .sub, .inf n, _ => (.inf n, 0)
  | .sub, _, .inf n => (.inf (!n), 0)
  | .sub, .fin n m e, .fin n' m' e' => (exactSum (fun l => zeroNeg mode l false fmt) [(n, m, e), (!n', m', e')], 0)
  | .mul, .inf n, y => if y.isZero then (defaultNan, flagNV) else (.inf (n != y.neg), 0)
  | .mul, x, .inf n => if x.isZero then (defaultNan, flagNV) else (.inf (n != x.neg), 0)
  | .mul, .fin n m e, .fin n' m' e' => (.fin (n != n') (m * m') (e + e'), 0)
  | .div, .inf _, .inf _ => (defaultNan, flagNV)
  | .div, .inf n, y => (.inf (n != y.neg), 0)
  | .div, x, .inf n => (.fin (n != x.neg) 0 0, 0)
  | .div, .fin n m e, .fin n' m' e' =>
    if m' = 0 then (if m = 0 then (defaultNan, flagNV) else (.inf (n != n'), flagDZ))
    else if m = 0 then (.fin (n != n') 0 0, 0)
    else (exactQuot (n != n') m e m' e', 0)
  | .sqrt, .inf n, _ => if n then (defaultNan, flagNV) else (.inf false, 0)
  | .sqrt, .fin n m e, _ =>
    if m = 0 then (.fin n 0 0, 0) else if n then (defaultNan, flagNV) else (exactSqrt m e, 0)
  | .rcp, .inf n, _ => (.fin n 0 0, 0)
  | .rcp, .fin n m e, _ => if m = 0 then (.inf n, flagDZ) else (exactQuot n 1 0 m e, 0)
  | .rsq, .inf n, _ => if n then (defaultNan, flagNV) else (.fin false 0 0, 0)
  | .rsq, .fin n m e, _ =>
    if m = 0 then (.inf n, flagDZ)
    else if n then (defaultNan, flagNV)
    else
      -- 1 / sqrt(m × 2^e): the root of the quotient 2^k / m, sticky below
      let m1 := if e % 2 = 0 then m else m * 2
      let e1 := if e % 2 = 0 then e else e - 1
      let k := 2 * (Nat.log2 m1 + 120)
      let q := 2 ^ k / m1
      let r := isqrt q (Nat.log2 q + 1)
      (.fin false (r * 2 + (if r * r * m1 = 2 ^ k then 0 else 1)) (-((k / 2 : Nat) : Int) - e1 / 2 - 1), 0)
  | _, _, _ => (.absent, 0)

/-- Whether an operation takes one input. -/
def FOp.unary : FOp → Bool
  | .sqrt | .rcp | .rsq => true
  | _ => false

/-- FTZ touches F32, F16 and BF16 (01 R30). -/
def ftzFor (f : Fmt) (ftz : Bool) : Bool := ftz && (f = .f32 || f = .f16 || f = .bf16)

/-- A rounding operation of 17 R295 on codes, absent and NaNs first (01 R20, R21, R31). -/
def fArith (op : FOp) (f : Fmt) (ftz : Bool) (mode : Mode) (w : Nat) (a b : Nat) : Rounded :=
  let z := ftzFor f ftz
  let x := decode f false z a
  let y := decode f false z b
  if op = .add && x.isAbsent then pass f y
  else if op = .add && y.isAbsent then pass f x
  else if x.isAbsent || (!op.unary && y.isAbsent) then ⟨absentCode f, 0, 0⟩
  else
    let ins := if op.unary then [x] else [x, y]
    match firstNan ins with
    | some v => deliver f false z mode w v (if anySignalling ins then flagNV else 0)
    | none =>
      let (v, fl) := exactOp op mode f.code x y
      deliver f false z mode w v fl

def mulInvalid (x y : Val) : Bool := (x.isInf && y.isZero) || (x.isZero && y.isInf)

/-- The product of two present values that are not NaNs and not 0 × ∞. -/
def product (neg : Bool) : Val → Val → Val
  | .fin n m e, .fin n' m' e' => .fin ((n != n') != neg) (m * m') (e + e')
  | x, y => .inf ((x.neg != y.neg) != neg)

/-- FMA and VFMS (`neg`): a × b + d, rounded once (01 R20, R31; 17 R295; 18 R309). -/
def fFma (f : Fmt) (ftz : Bool) (mode : Mode) (w : Nat) (neg : Bool) (a b c : Nat) : Rounded :=
  let z := ftzFor f ftz
  let x := decode f false z a
  let y := decode f false z b
  let d := decode f false z c
  if x.isAbsent || y.isAbsent then pass f d
  else
    let ins := [x, y, d]
    let inv := mulInvalid x y
    match firstNan ins with
    | some v => deliver f false z mode w v (if anySignalling ins || inv then flagNV else 0)
    | none =>
      if inv then deliver f false z mode w defaultNan flagNV
      else
        match product neg x y, d with
        | p, .absent => deliver f false z mode w p 0
        | .inf n, .inf n' => if n = n' then deliver f false z mode w (.inf n) 0 else deliver f false z mode w defaultNan flagNV
        | .inf n, _ => deliver f false z mode w (.inf n) 0
        | _, .inf n => deliver f false z mode w (.inf n) 0
        | .fin n m e, .fin n' m' e' =>
          deliver f false z mode w (exactSum (fun l => zeroNeg mode l false f.code) [(n, m, e), (n', m', e')]) 0
        | p, _ => deliver f false z mode w p 0

/-- Compares two present values that are not NaNs, −0 equal to +0: less, equal, greater as −1, 0, 1. -/
def compareVal : Val → Val → Int
  | .inf n, .inf n' => if n = n' then 0 else if n then -1 else 1
  | .inf n, _ => if n then -1 else 1
  | _, .inf n => if n then 1 else -1
  | .fin n m e, .fin n' m' e' =>
    let q := if e ≤ e' then e else e'
    let x := signedTerm n (m * 2 ^ (e - q).toNat)
    let y := signedTerm n' (m' * 2 ^ (e' - q).toNat)
    if x < y then -1 else if x = y then 0 else 1
  | _, _ => 0

/-- FMIN and FMAX, VMIN.F and VMAX.F (01 R20, R21, R32). -/
def fMinMax (maxi : Bool) (f : Fmt) (ftz : Bool) (a b : Nat) : Rounded :=
  let z := ftzFor f ftz
  let x := decode f false z a
  let y := decode f false z b
  if x.isAbsent then pass f y
  else if y.isAbsent then pass f x
  else if anySignalling [x, y] then
    let r := pass f ((firstNan [x, y]).getD x)
    ⟨r.code, r.flags ||| flagNV, 0⟩
  else if x.isNan && !y.isNan then pass f y
  else if y.isNan && !x.isNan then pass f x
  else if x.isNan then pass f x
  else
    let c := compareVal x y
    let c := if c = 0 && x.neg != y.neg then (if x.neg then -1 else 1) else c
    pass f (if (decide (c ≤ 0)) != maxi || (c = 0) then x else y)

/-- FABS, FNEG, FSGN, VABS.F and VNEG.F (17 R296): the sign bit only. -/
inductive SignOp where
  | abs | neg | sgn
  deriving DecidableEq, Repr

def fSign (op : SignOp) (f : Fmt) (ftz : Bool) (a b : Nat) : Rounded :=
  let w := fmtWidth f
  let s := 2 ^ (w - 1)
  let a := a % 2 ^ w
  let b := b % 2 ^ w
  let fb := match fpParams false f with
    | some p => p.f
    | none => 0
  if a = absentCode f || (op = .sgn && b = absentCode f) then ⟨absentCode f, 0, 0⟩
  else
    let mag := a % s
    let mag := if ftzFor f ftz && decide (mag < 2 ^ fb) then 0 else mag
    let neg := match op with
      | .abs => false
      | .neg => decide (a < s)
      | .sgn => decide (s ≤ b)
    let x := mag + (if neg then s else 0)
    ⟨if x = absentCode f then x / 2 ^ (fb - 1) * 2 ^ (fb - 1) else x, 0, 0⟩

/-- FCMP's relation word and flags (17 R297). -/
def fCompare (f : Fmt) (a b : Nat) : Nat × Nat :=
  let x := decode f false false a
  let y := decode f false false b
  if x.isAbsent || y.isAbsent then (16, 0)
  else if x.isNan || y.isNan then (8, if anySignalling [x, y] then flagNV else 0)
  else
    let c := compareVal x y
    (if c = 0 then 1 else if c < 0 then 2 else 4, 0)

/-- FCLASS's mask (01 R24). -/
def fClass (f : Fmt) (a : Nat) : Nat :=
  match decode f false false a with
  | .absent => 2 ^ 10
  | .nan n fr k => if Val.signalling (.nan n fr k) then 2 ^ 8 else 2 ^ 9
  | .inf n => if n then 1 else 2 ^ 7
  | .fin n m _ =>
    let sub := match fpParams false f with
      | some p => decide (m < 2 ^ p.f)
      | none => false
    if m = 0 then (if n then 2 ^ 3 else 2 ^ 4)
    else if sub then (if n then 2 ^ 2 else 2 ^ 5)
    else (if n then 2 else 2 ^ 6)

/-- A conversion (01 R19, R33; 17 R298): one draw for every present source under SR, none toward TS8. -/
def fConvert (dst src : Fmt) (tx : Bool) (mode : Mode) (w : Nat) (a : Nat) : Rounded :=
  let v := decode src tx false a
  let (c, fl) := encodeVal dst tx false mode w v
  ⟨c, fl, if mode = .sr && !v.isAbsent && dst ≠ .ts8 then 1 else 0⟩

/-! ### Integer lanes -/

/-- Fit(t, v) of 18 R310 (01 R23). -/
def fit (f : Fmt) (sat : Bool) (v : Int) : Nat × Nat :=
  let w := fmtWidth f
  let (c, out) := clampInt f v
  if !out then (c, 0)
  else if sat then (c, flagIO)
  else
    let x := toBits w v
    (if x = absentCode f then (if fmtUnsigned f then x - 1 else x + 1) else x, flagIO)

/-- The integer a present code stands for. -/
def intVal (f : Fmt) (c : Nat) : Int :=
  if fmtUnsigned f then ((c % 2 ^ fmtWidth f : Nat) : Int) else toSigned (fmtWidth f) c

inductive IOp where
  | add | sub | mul | min | max | abs | neg
  deriving DecidableEq, Repr

/-- The integer lane operations (18 R310). -/
def iArith (op : IOp) (f : Fmt) (sat : Bool) (a b : Nat) : Nat × Nat :=
  let a := a % 2 ^ fmtWidth f
  let b := b % 2 ^ fmtWidth f
  let na := decide (a = absentCode f)
  let nb := decide (b = absentCode f)
  let x := intVal f a
  let y := intVal f b
  match op with
  | .add => if na then (b, 0) else if nb then (a, 0) else fit f sat (x + y)
  | .min => if na then (b, 0) else if nb then (a, 0) else fit f sat (if x ≤ y then x else y)
  | .max => if na then (b, 0) else if nb then (a, 0) else fit f sat (if x ≤ y then y else x)
  | .sub => if na || nb then (absentCode f, 0) else fit f sat (x - y)
  | .mul => if na || nb then (absentCode f, 0) else fit f sat (x * y)
  | .abs => if na then (absentCode f, 0) else fit f sat (x.natAbs : Int)
  | .neg => if na then (absentCode f, 0) else fit f sat (-x)

/-- A floating VDOT lane (18 R320). -/
def fDot (src dst : Fmt) (ftz : Bool) (mode : Mode) (w : Nat) (pairs : List (Nat × Nat)) (c : Nat) : Rounded :=
  let zi := ftzFor src ftz
  let zo := ftzFor dst ftz
  let ps := (pairs.map fun p => (decode src false zi p.1, decode src false zi p.2)).filter
    fun p => !p.1.isAbsent && !p.2.isAbsent
  let d := decode dst false zo c
  if ps.isEmpty then pass dst d
  else
    let ins := ps.foldr (fun p acc => p.1 :: p.2 :: acc) [d]
    let inv := ps.any fun p => mulInvalid p.1 p.2
    match firstNan ins with
    | some v => deliver dst false zo mode w v (if anySignalling ins || inv then flagNV else 0)
    | none =>
      if inv then deliver dst false zo mode w defaultNan flagNV
      else
        let prods := ps.map fun p => product false p.1 p.2
        let all := if d.isAbsent then prods else prods ++ [d]
        let infs := all.filter Val.isInf
        match infs with
        | i :: _ =>
          if infs.all (fun v => v.neg = i.neg) then deliver dst false zo mode w i 0
          else deliver dst false zo mode w defaultNan flagNV
        | [] =>
          let terms := all.map fun v => match v with
            | .fin n m e => (n, m, e)
            | _ => (false, 0, 0)
          deliver dst false zo mode w (exactSum (fun l => zeroNeg mode l true dst.code) terms) 0

/-- RoundTo(t, sum / count, m) of VRED.MEAN (18 R319). -/
def fMean (f : Fmt) (ftz : Bool) (mode : Mode) (w : Nat) (sum count : Nat) : Rounded :=
  let z := ftzFor f ftz
  match decode f false z sum with
  | .fin n m e =>
    if m = 0 then deliver f false z mode w (.fin n 0 0) 0
    else deliver f false z mode w (exactQuot n m e count 0) 0
  | v => deliver f false z mode w v 0

/-! ### Random numbers (18 R323, R325) -/

def rotl32 (x k : Nat) : Nat := (x * 2 ^ k + x / 2 ^ (32 - k)) % 2 ^ 32

/-- One round of Mix for each entry of its rotation table. -/
def mixRounds (k0 k1 : Nat) : List (Nat × Nat × Nat) → Nat × Nat × Nat × Nat → Nat × Nat × Nat × Nat
  | [], x => x
  | (j, ra, rb) :: t, (x0, x1, x2, x3) =>
    let x0 := (x0 + x1 + (if j % 2 = 0 then k0 else k1) + j) % 2 ^ 32
    let x3 := rotl32 (x3 ^^^ x0) ra
    let x2 := (x2 + x3) % 2 ^ 32
    let x1 := rotl32 (x1 ^^^ x2) rb
    mixRounds k0 k1 t (x0, x1, x2, x3)

/-- Mix(seed, stream, n) of 18 R323. -/
def mix (seed stream n : Nat) : Nat :=
  let (x0, x1, x2, x3) := mixRounds (seed % 2 ^ 32) (seed / 2 ^ 32 % 2 ^ 32)
    [(0, 13, 9), (1, 7, 21), (2, 19, 3), (3, 11, 15), (4, 23, 27), (5, 5, 25), (6, 17, 6), (7, 29, 14)]
    (n % 2 ^ 32, n / 2 ^ 32 % 2 ^ 32, stream % 2 ^ 32, 0x6A5D39C3)
  (x1 ^^^ x3) * 2 ^ 32 + (x0 ^^^ x2)

/-- The low 24 bits of rounding draw `n` of a thread with rank `r` (01 R28, 18 R325). -/
def drawOf (r n : Nat) : Nat := mix 0 (0x80000000 + r) n % 2 ^ 24

end Sys2Proof.Machine
end

