-- ==== Sys2Proof/Machine/Flags.lean ====
section
/-! DEFINITION. Machine/Flags.lean: STATUS.FLAGS and its enables (01 R26, R29), and the rounding draws (01 R28, 18 R325). -/
namespace Sys2Proof.Machine

/-- A raised flag whose enable is set makes the pair trap with cause 0x06, TVAL the raised flags (01 R29). -/
def State.enabled (s : State) (fl : Nat) : Except Stop Unit :=
  raiseIf (decide (fl &&& s.src.fe ≠ 0)) 0x06 (BitVec.ofNat 64 fl)

/-- Flags are ORed into FLAGS (01 R29), and kept for an MTS of the same pair (01 R26). -/
def State.orFlags (s : State) (fl : Nat) : State :=
  let s := s.updMe fun t => t.setStatus (t.sys.status ||| BitVec.ofNat 64 (fl % 64))
  { s with iss := { s.iss with flags := s.iss.flags ||| BitVec.ofNat 6 fl } }

/-- The rank of a thread that a launch placed; any other uses rank 0 (18 R325). -/
def State.drawRank (s : State) : Nat :=
  if (s.src.grp.bind (s.group (pkgOf s.cid))).any (·.launched) then s.src.rank else 0

/-- The low 24 bits of the A slot's draw number `i` in this pair: the C slot draws first (18 R325). -/
def State.draw (s : State) (i : Nat) : Nat := drawOf s.drawRank ((s.src.draws.toNat + s.iss.cdraws + i) % 2 ^ 64)

/-- The draw counter moves on (18 R325). -/
def State.drew (s : State) (n : Nat) : State := s.updMe fun t => { t with draws := t.draws + BitVec.ofNat 64 n }

end Sys2Proof.Machine
end

