-- ==== Sys2Proof/Machine/Special.lean ====
section
/-! DEFINITION. Machine/Special.lean: the special functions of 18 R311, in fixed point with bits to spare. Every result but the
exact cases is irrational, so a computed value stands for the exact one with a sticky bit at its end. -/
namespace Sys2Proof.Machine

/-- π / 2 × 2^1400, ln 2 × 2^400 and log2 e × 2^400, rounded down. -/
def halfPi : Nat :=
  0x1921fb54442d18469898cc51701b839a252049c1114cf98e804177d4c76273644a29410f31c6809bbdf2a33679a748636605614dbe4be286e9fc26adadaa3848bc90b6aecc4bcfd8de89885d34c6fdad617feb96de80d6fdbdc70d7f6b5133f4b5d3e4822f8963fcc9250cca3d9c8b67b8400f97142c77e0b31b4906c38aba734d22c7f51fa499ebf06caba47b9475b2c38c5e6ac410aa5773daa520ee12d2cdace186a9c95793009e2e8d811943042
def ln2Fix : Nat :=
  0xb17217f7d1cf79abc9e3b39803f2f6af40f343267298b62d8a0d175b8baafa2be7b876206debac98559552fb4afa1b10ed2e
def log2eFix : Nat :=
  0x171547652b82fe1777d0ffda0d23a7d11d6aef551bad2b4b1164a2cd9a342648fbc3887eeaa2ed9ac49b25eeb82d7c167d521

/-- Fraction bits of the fixed-point values below. -/
def fixBits : Nat := 320

/-- Sum of `t`, t × y / (k+1), t × y × y / ((k+1)(k+2)), … : the series of e^y from its term `k`. -/
def expSeries (y : Nat) : Nat → Nat → Nat → Nat
  | 0, _, _ => 0
  | n + 1, k, t => t + expSeries y n (k + 1) (t * y / 2 ^ fixBits / (k + 1))

/-- 2^f for a fraction f in [0, 1), in fixed point. -/
def exp2Fix (f : Nat) : Nat := expSeries (f * ln2Fix / 2 ^ 400) 90 0 (2 ^ fixBits)

/-- Alternating series of sin (from k = 1, t = r) and cos (from k = 0, t = 1): t − t r² / ((k+1)(k+2)) + … -/
def altSeries (r2 : Nat) : Nat → Nat → Int → Int
  | 0, _, _ => 0
  | n + 1, k, t => t + altSeries r2 n (k + 2) (-(t * r2 / (2 ^ fixBits : Nat) / (((k + 1) * (k + 2) : Nat) : Int)))

def sinFix (r : Nat) : Nat := (altSeries (r * r / 2 ^ fixBits) 60 1 r).toNat
def cosFix (r : Nat) : Nat := (altSeries (r * r / 2 ^ fixBits) 60 0 ((2 ^ fixBits : Nat) : Int)).toNat

/-- `n` further bits of log2 x after `acc`, for x in [1, 2) with 480 fraction bits. -/
def log2Bits : Nat → Nat → Nat → Nat
  | 0, _, acc => acc
  | n + 1, x, acc =>
    let y := x * x / 2 ^ 480
    if 2 ^ 481 ≤ y then log2Bits n (y / 2) (2 * acc + 1) else log2Bits n y (2 * acc)

/-- m × 2^e × 2^bits, rounded down. -/
def scaled (m : Nat) (e : Int) (bits : Nat) : Nat :=
  let k := e + bits
  if 0 ≤ k then m * 2 ^ k.toNat else m / 2 ^ (-k).toNat

/-- A magnitude with a sticky bit below it. -/
def sticky (neg : Bool) (n : Nat) (e : Int) : Val := .fin neg (2 * n + 1) (e - 1)

/-- A magnitude slightly below m × 2^e. -/
def justBelow (neg : Bool) (m : Nat) (e : Int) : Val := sticky neg (m * 2 ^ 100 - 1) (e - 100)

/-- m × 2^e < 2^k. -/
def below (m : Nat) (e k : Int) : Bool := decide ((Nat.log2 m : Int) + e < k)

inductive SpecialFn where
  | exp2 | log2 | sin | cos | tanh
  deriving DecidableEq, Repr

def SpecialFn.code : SpecialFn → Nat
  | .exp2 => 0 | .log2 => 1 | .sin => 2 | .cos => 3 | .tanh => 4

/-- 2^a for a finite nonzero a: exact for an integer, and no smaller than what any format distinguishes from 0. -/
def exp2Of (neg : Bool) (m : Nat) (e : Int) : Val :=
  if !below m e 12 then (if neg then sticky false 1 (-4096) else .fin false 1 4096)
  else if 0 ≤ e || m % 2 ^ (-e).toNat = 0 then
    let n := Int.ofNat (scaled m e 0)
    .fin false 1 (if neg then -n else n)
  else
    let y := Int.ofNat (scaled m e fixBits)
    let x : Int := if neg then -y - 1 else y
    let one : Int := (2 ^ fixBits : Nat)
    sticky false (exp2Fix (x % one).toNat) (x / one - fixBits)

/-- log2 a for a finite a > 0. -/
def log2Of (m : Nat) (e : Int) : Val :=
  let k := Nat.log2 m
  if m = 2 ^ k then ofInt (k + e) 0
  else
    let t := ((k : Int) + e) * 2 ^ 200 + Int.ofNat (log2Bits 200 (m * 2 ^ 480 / 2 ^ k) 0)
    if t < 0 then sticky true (-t - 1).toNat (-200) else sticky false t.toNat (-200)

/-- sin and cos of a finite nonzero a. -/
def sinOf (cos neg : Bool) (m : Nat) (e : Int) : Val :=
  if below m e (-60) then (if cos then justBelow false 1 0 else justBelow neg m e)
  else
    let x := m * 2 ^ (e + 1400).toNat
    let q := x / halfPi
    let r := x % halfPi / 2 ^ (1400 - fixBits)
    let q := (if cos then q + 1 else q) % 4
    sticky ((neg && !cos) != decide (2 ≤ q)) (if q % 2 = 0 then sinFix r else cosFix r) (-(fixBits : Int))

/-- tanh of a finite nonzero a: (1 − t) / (1 + t) with t = e^(−2|a|). -/
def tanhOf (neg : Bool) (m : Nat) (e : Int) : Val :=
  if below m e (-60) then justBelow neg m e
  else if !below m e 5 then justBelow neg 1 0
  else
    let y := scaled m (e + 1) fixBits * log2eFix / 2 ^ 400
    let n : Int := -Int.ofNat y - 1
    let one : Int := (2 ^ fixBits : Nat)
    let t := scaled (exp2Fix (n % one).toNat) (n / one) 0
    sticky neg ((2 ^ fixBits - t) * 2 ^ fixBits / (2 ^ fixBits + t)) (-(fixBits : Int))

/-- The exact result of a special function on a value that is present and no NaN, with the flags of its special cases. -/
def specialVal (fn : SpecialFn) : Val → Val × Nat
  | .inf neg =>
    match fn with
    | .exp2 => (if neg then .fin false 0 0 else .inf false, 0)
    | .log2 => if neg then (defaultNan, flagNV) else (.inf false, 0)
    | .sin | .cos => (defaultNan, flagNV)
    | .tanh => (.fin neg 1 0, 0)
  | .fin neg m e =>
    if m = 0 then
      match fn with
      | .exp2 | .cos => (.fin false 1 0, 0)
      | .log2 => (.inf true, flagDZ)
      | .sin | .tanh => (.fin neg 0 0, 0)
    else
      match fn with
      | .exp2 => (exp2Of neg m e, 0)
      | .log2 => if neg then (defaultNan, flagNV) else (log2Of m e, 0)
      | .sin => (sinOf false neg m e, 0)
      | .cos => (sinOf true neg m e, 0)
      | .tanh => (tanhOf neg m e, 0)
  | v => (v, 0)

/-- Twice the bound of 18 R311 in units in the last place, for F64 and F32. -/
def specialBound (fn : SpecialFn) (f : Fmt) : Nat :=
  match fn, f with
  | .exp2, _ | .log2, _ => 2
  | .sin, .f64 | .cos, .f64 => 3
  | .sin, _ | .cos, _ => 2
  | .tanh, .f64 => 4
  | .tanh, _ => 3

/-- The magnitude of a finite code. -/
def codeMag (p : FpParams) (c : Nat) : Nat × Int :=
  let ex := c / 2 ^ p.f
  if ex = 0 then (c, 1 - (p.bias : Int) - p.f) else (c % 2 ^ p.f + 2 ^ p.f, (ex : Int) - p.bias - p.f)

/-- The finite codes within `bound` half units in the last place of m × 2^e, of the binade that holds it; those of the binade below lie half
as far apart. -/
def within (p : FpParams) (bound : Nat) (m : Nat) (e : Int) : List Nat :=
  let lo := (roundFin p .rtz 0 false m e).1
  let e2 : Int := (Nat.log2 m : Int) + e
  let qmin : Int := 1 - (p.bias : Int) - p.f
  let q : Int := if e2 - p.f < qmin then qmin else e2 - p.f
  ((List.range 9).filterMap fun i => if lo + i < 4 then none else some (lo + i - 4)).filter fun c =>
    decide (c ≤ maxCode p) &&
      (let v := codeMag p c
       let s := if e ≤ v.2 then e else v.2
       let a : Int := (m * 2 ^ (e - s).toNat : Nat)
       let b : Int := (v.1 * 2 ^ (v.2 - s).toNat : Nat)
       decide (2 * (a - b).natAbs ≤ bound * 2 ^ (q - s).toNat))

/-- An inexact F64 or F32 result: the device's choice among the values within the bound (18 R311, notes/assumptions/9.md). -/
def specialPicked (fn : SpecialFn) (f : Fmt) (p : FpParams) (z : Bool) (input : Nat) (neg : Bool) (m : Nat) (e : Int) : Rounded :=
  let cs := within p (specialBound fn f) m e
  let c := cs.getD (Config.specialPick fn.code f.code input % cs.length) 0
  if c < 2 ^ p.f then ⟨signCode p neg + (if z then 0 else c), flagNX ||| flagUF, 0⟩
  else ⟨signCode p neg + c, flagNX, 0⟩

/-- A special function on a code (18 R311): producing under 01 R20. -/
def special (fn : SpecialFn) (f : Fmt) (ftz : Bool) (a : Nat) : Rounded :=
  let z := ftzFor f ftz
  let x := decode f false z a
  match x with
  | .absent => ⟨absentCode f, 0, 0⟩
  | .nan _ _ _ =>
    let r := encodeVal f false z .rne 0 x
    ⟨r.1, r.2, 0⟩
  | _ =>
    let (v, fl) := specialVal fn x
    let r := encodeVal f false z .rne 0 v
    match v, fpParams false f with
    | .fin neg m e, some p =>
      -- overflow, an exact value and the correctly rounded formats need no choice
      if (f = .f64 || f = .f32) && r.2 &&& flagNX ≠ 0 && r.2 &&& flagOF = 0 then specialPicked fn f p z a neg m e
      else ⟨r.1, r.2 ||| fl, 0⟩
    | _, _ => ⟨r.1, r.2 ||| fl, 0⟩

end Sys2Proof.Machine
end

