-- ==== Sys2Proof/Machine/Vector.lean ====
section
/-! DEFINITION. Machine/Vector.lean: the vector instructions (18 R305 to R325). -/
namespace Sys2Proof.Machine

/-! ### Lanes (18 R305) -/

/-- Lane `i` of width `w`. -/
def laneOf (w x i : Nat) : Nat := x / 2 ^ (w * i) % 2 ^ w

/-- Lanes joined, lane 0 lowest. -/
def joinLanes (w : Nat) : List Nat → Nat
  | [] => 0
  | x :: t => x % 2 ^ w + 2 ^ w * joinLanes w t

/-- A vector result with the flags it raises and the draws it takes. -/
structure VRes where
  val : Nat
  flags : Nat := 0
  draws : Nat := 0
  deriving DecidableEq, Repr

/-- Lanes `i` and above of `n` lanes of width `w`: an enabled lane takes `f` of its number and draw, with its flags; any other
keeps its old contents (13 R220). -/
def lanesFrom (w : Nat) (mask : Word) (old : Nat) (f : Nat → Nat → Rounded) : Nat → Nat → Nat → List Nat × Nat × Nat
  | 0, _, _ => ([], 0, 0)
  | n + 1, i, dr =>
    if mask.getLsbD i then
      let r := f i dr
      let t := lanesFrom w mask old f n (i + 1) (dr + r.draws)
      (r.code :: t.1, r.flags ||| t.2.1, r.draws + t.2.2)
    else
      let t := lanesFrom w mask old f n (i + 1) dr
      (laneOf w old i :: t.1, t.2.1, t.2.2)

def lanewise (w : Nat) (mask : Word) (old : Nat) (f : Nat → Nat → Rounded) : VRes :=
  let r := lanesFrom w mask old f (512 / w) 0 0
  ⟨joinLanes w r.1, r.2.1, r.2.2⟩

/-- Bits of a mask, lane 0 in bit 0; bits at and above the lane count are 0 (18 R307). -/
def maskBits (l : List Bool) : Word := BitVec.ofNat 64 (l.foldr (fun b acc => b.toNat + 2 * acc) 0)

/-- The lane mask of an instruction, read at issue (18 R307). -/
def State.enables (s : State) (m : MReg) : Word := s.src.mask m.val

/-- Delivers a vector result: flags, draws and the destination; `long` marks a latency above 4 (18 R306, R308). -/
def State.vecResult (s : State) (d : VOpd) (r : VRes) (long typed : Bool) : R := do
  s.enabled r.flags
  let s := if long then s.resultV d r.val else s.writeV d r.val typed
  pure ((s.orFlags r.flags).drew r.draws)

/-- A lane result without flags or draws. -/
def plain (x : Nat) : Rounded := ⟨x, 0, 0⟩

/-- A two-source lane instruction of `w`-bit lanes. -/
def State.vec2 (s : State) (d a b : VOpd) (m : MReg) (w : Nat) (long : Bool) (f : Nat → Nat → Nat → Rounded) : R := do
  s.operands [a.place, b.place] [d.place]
  let x := s.readV a
  let y := s.readV b
  s.vecResult d (lanewise w (s.enables m) (s.oldV d) fun i dr => f dr (laneOf w x i) (laneOf w y i)) long false

/-- A one-source lane instruction. -/
def State.vec1 (s : State) (d a : VOpd) (m : MReg) (w : Nat) (long : Bool) (f : Nat → Nat → Rounded) : R := do
  s.operands [a.place] [d.place]
  let x := s.readV a
  s.vecResult d (lanewise w (s.enables m) (s.oldV d) fun i dr => f dr (laneOf w x i)) long false

/-! ### Floating lanes (18 R309, R311) -/

def State.vecF2 (s : State) (op : FOp) (f : Fmt) (d a b : VOpd) (m : MReg) (r : Rnd) (long : Bool) : R :=
  s.vec2 d a b m f.lane long fun dr x y => fArith op f s.src.ftz (resolve r s.src.rm) (s.draw dr) x y

def State.vecF1 (s : State) (op : FOp) (f : Fmt) (d a : VOpd) (m : MReg) (r : Rnd) : R :=
  s.vec1 d a m f.lane true fun dr x => fArith op f s.src.ftz (resolve r s.src.rm) (s.draw dr) x 0

/-- VFMA and VFMS read their destination as the accumulated input (18 R309). -/
def State.vecFma (s : State) (neg : Bool) (f : Fmt) (d : VReg) (a b : VOpd) (m : MReg) (r : Rnd) : R := do
  s.operands [a.place, b.place, .vec d.val] [.vec d.val]
  let x := s.readV a
  let y := s.readV b
  let z := (s.src.vec d.val).toNat
  let w := f.lane
  s.vecResult (.v d)
    (lanewise w (s.enables m) z fun i dr =>
      fFma f s.src.ftz (resolve r s.src.rm) (s.draw dr) neg (laneOf w x i) (laneOf w y i) (laneOf w z i)) false false

def State.vecSpecial (s : State) (fn : SpecialFn) (f : Fmt) (d a : VOpd) (m : MReg) : R :=
  s.vec1 d a m f.lane true fun _ x => special fn f s.src.ftz x

def execVaddF (ty : AFmt) (d a b : VOpd) (m : MReg) (r : Rnd) (s : State) : Out :=
  s.issueA fun s => s.vecF2 .add ty.fmt d a b m r false
def execVsubF (ty : AFmt) (d a b : VOpd) (m : MReg) (r : Rnd) (s : State) : Out :=
  s.issueA fun s => s.vecF2 .sub ty.fmt d a b m r false
def execVmulF (ty : AFmt) (d a b : VOpd) (m : MReg) (r : Rnd) (s : State) : Out :=
  s.issueA fun s => s.vecF2 .mul ty.fmt d a b m r false
def execVdiv (ty : AFmt) (d a b : VOpd) (m : MReg) (r : Rnd) (s : State) : Out :=
  s.issueA fun s => s.vecF2 .div ty.fmt d a b m r true
def execVfma (ty : AFmt) (d : VReg) (a b : VOpd) (m : MReg) (r : Rnd) (s : State) : Out :=
  s.issueA fun s => s.vecFma false ty.fmt d a b m r
def execVfms (ty : AFmt) (d : VReg) (a b : VOpd) (m : MReg) (r : Rnd) (s : State) : Out :=
  s.issueA fun s => s.vecFma true ty.fmt d a b m r
def execVminF (ty : AFmt) (d a b : VOpd) (m : MReg) (s : State) : Out :=
  s.issueA fun s => s.vec2 d a b m ty.fmt.lane false fun _ x y => fMinMax false ty.fmt s.src.ftz x y
def execVmaxF (ty : AFmt) (d a b : VOpd) (m : MReg) (s : State) : Out :=
  s.issueA fun s => s.vec2 d a b m ty.fmt.lane false fun _ x y => fMinMax true ty.fmt s.src.ftz x y
def execVabsF (ty : AFmt) (d a : VOpd) (m : MReg) (s : State) : Out :=
  s.issueA fun s => s.vec1 d a m ty.fmt.lane false fun _ x => fSign .abs ty.fmt s.src.ftz x 0
def execVnegF (ty : AFmt) (d a : VOpd) (m : MReg) (s : State) : Out :=
  s.issueA fun s => s.vec1 d a m ty.fmt.lane false fun _ x => fSign .neg ty.fmt s.src.ftz x 0
def execVsqrt (ty : AFmt) (d a : VOpd) (m : MReg) (r : Rnd) (s : State) : Out :=
  s.issueA fun s => s.vecF1 .sqrt ty.fmt d a m r
def execVrcp (ty : AFmt) (d a : VOpd) (m : MReg) (r : Rnd) (s : State) : Out :=
  s.issueA fun s => s.vecF1 .rcp ty.fmt d a m r
def execVrsq (ty : AFmt) (d a : VOpd) (m : MReg) (r : Rnd) (s : State) : Out :=
  s.issueA fun s => s.vecF1 .rsq ty.fmt d a m r
def execVexp2 (ty : AFmt) (d a : VOpd) (m : MReg) (s : State) : Out :=
  s.issueA fun s => s.vecSpecial .exp2 ty.fmt d a m
def execVlog2 (ty : AFmt) (d a : VOpd) (m : MReg) (s : State) : Out :=
  s.issueA fun s => s.vecSpecial .log2 ty.fmt d a m
def execVsin (ty : AFmt) (d a : VOpd) (m : MReg) (s : State) : Out :=
  s.issueA fun s => s.vecSpecial .sin ty.fmt d a m
def execVcos (ty : AFmt) (d a : VOpd) (m : MReg) (s : State) : Out :=
  s.issueA fun s => s.vecSpecial .cos ty.fmt d a m
def execVtanh (ty : AFmt) (d a : VOpd) (m : MReg) (s : State) : Out :=
  s.issueA fun s => s.vecSpecial .tanh ty.fmt d a m

/-! ### Integer lanes (18 R310) -/

def iRes (x : Nat × Nat) : Rounded := ⟨x.1, x.2, 0⟩

def State.vecI2 (s : State) (op : IOp) (f : Fmt) (d a b : VOpd) (m : MReg) : R :=
  s.vec2 d a b m f.lane false fun _ x y => iRes (iArith op f s.src.sat x y)

def State.vecI1 (s : State) (op : IOp) (f : Fmt) (d a : VOpd) (m : MReg) : R :=
  s.vec1 d a m f.lane false fun _ x => iRes (iArith op f s.src.sat x 0)

def execVaddI (ty : VFmt) (d a b : VOpd) (m : MReg) (s : State) : Out := s.issueA fun s => s.vecI2 .add ty.fmt d a b m
def execVsubI (ty : VFmt) (d a b : VOpd) (m : MReg) (s : State) : Out := s.issueA fun s => s.vecI2 .sub ty.fmt d a b m
def execVmulI (ty : VFmt) (d a b : VOpd) (m : MReg) (s : State) : Out := s.issueA fun s => s.vecI2 .mul ty.fmt d a b m
def execVminI (ty : VFmt) (d a b : VOpd) (m : MReg) (s : State) : Out := s.issueA fun s => s.vecI2 .min ty.fmt d a b m
def execVmaxI (ty : VFmt) (d a b : VOpd) (m : MReg) (s : State) : Out := s.issueA fun s => s.vecI2 .max ty.fmt d a b m
def execVabsI (ty : VFmt) (d a : VOpd) (m : MReg) (s : State) : Out := s.issueA fun s => s.vecI1 .abs ty.fmt d a m
def execVnegI (ty : VFmt) (d a : VOpd) (m : MReg) (s : State) : Out := s.issueA fun s => s.vecI1 .neg ty.fmt d a m

/-! ### Logic, shifts, selection, moves (18 R312, R314, R316, R317) -/

/-- VSHL, VSHR and VSHA on a lane of `w` bits. -/
def laneShl (w x n : Nat) : Nat := if w ≤ n then 0 else x * 2 ^ n % 2 ^ w
def laneShr (w x n : Nat) : Nat := if w ≤ n then 0 else x / 2 ^ n
def laneSha (w x n : Nat) : Nat := toBits w (toSigned w x / ((2 ^ (if w ≤ n then w else n) : Nat) : Int))

def execVand (ty : VFmt) (d a b : VOpd) (m : MReg) (s : State) : Out :=
  s.issueA fun s => s.vec2 d a b m ty.fmt.lane false fun _ x y => plain (x &&& y)
def execVor (ty : VFmt) (d a b : VOpd) (m : MReg) (s : State) : Out :=
  s.issueA fun s => s.vec2 d a b m ty.fmt.lane false fun _ x y => plain (x ||| y)
def execVxor (ty : VFmt) (d a b : VOpd) (m : MReg) (s : State) : Out :=
  s.issueA fun s => s.vec2 d a b m ty.fmt.lane false fun _ x y => plain (x ^^^ y)
def execVshl (ty : VFmt) (d a b : VOpd) (m : MReg) (s : State) : Out :=
  s.issueA fun s => s.vec2 d a b m ty.fmt.lane false fun _ x n => plain (laneShl ty.fmt.lane x n)
def execVshr (ty : VFmt) (d a b : VOpd) (m : MReg) (s : State) : Out :=
  s.issueA fun s => s.vec2 d a b m ty.fmt.lane false fun _ x n => plain (laneShr ty.fmt.lane x n)
def execVsha (ty : VFmt) (d a b : VOpd) (m : MReg) (s : State) : Out :=
  s.issueA fun s => s.vec2 d a b m ty.fmt.lane false fun _ x n => plain (laneSha ty.fmt.lane x n)

/-- VSEL writes every lane; MASK is its selector (18 R314). -/
def execVsel (ty : VFmt) (d a b : VOpd) (m : MReg) (s : State) : Out :=
  s.issueA fun s => do
    s.operands [a.place, b.place] [d.place]
    let w := ty.fmt.lane
    let x := s.readV a
    let y := s.readV b
    let r := lanewise w (BitVec.allOnes 64) 0 fun i _ =>
      plain (if (s.enables m).getLsbD i then laneOf w x i else laneOf w y i)
    s.vecResult d r false false

def execVbcast (ty : VFmt) (d : VOpd) (x : SOpd) (m : MReg) (s : State) : Out :=
  s.issueA fun s => do
    s.operands [x.place] [d.place]
    let v := (s.readS x).toNat
    s.vecResult d (lanewise ty.fmt.lane (s.enables m) (s.oldV d) fun _ _ => plain v) false false

def execVperm (ty : VFmt) (d a b : VOpd) (m : MReg) (s : State) : Out :=
  s.issueA fun s => do
    s.operands [a.place, b.place] [d.place]
    let w := ty.fmt.lane
    let x := s.readV a
    let y := s.readV b
    let r := lanewise w (s.enables m) (s.oldV d) fun i _ =>
      plain (if laneOf w y i < 512 / w then laneOf w x (laneOf w y i) else 0)
    s.vecResult d r false false

def execVmov (ty : VFmt) (d a : VOpd) (m : MReg) (s : State) : Out :=
  s.issueA fun s => s.vec1 d a m ty.fmt.lane false fun _ x => plain x

def execVmovToMask (md : Fin 4) (x : XReg) (s : State) : Out :=
  s.issueA fun s => do
    s.operands [xplace x] []
    pure (s.updMe fun t => t.setMask md.val (s.readX x))

def execVmovFromMask (d : XReg) (ms : Fin 4) (s : State) : Out :=
  s.issueA fun s => do
    s.operands [] [xplace d]
    pure (s.writeX d (s.src.mask ms.val))

/-- VEXT: `d` is unchanged when the lane's mask bit is 0 (18 R317). -/
def execVext (ty : VFmt) (d : SOpd) (a : VOpd) (i : XReg) (m : MReg) (s : State) : Out :=
  s.issueA fun s => do
    s.operands [a.place, xplace i] [d.place]
    let w := ty.fmt.lane
    let j := (s.readX i).toNat % (512 / w)
    pure (if (s.enables m).getLsbD j then s.writeS d (BitVec.ofNat 64 (laneOf w (s.readV a) j)) else s)

/-- VINS: `d` is unchanged when the lane's mask bit is 0 (18 R317). -/
def execVins (ty : VFmt) (d : VReg) (x : SOpd) (i : XReg) (m : MReg) (s : State) : Out :=
  s.issueA fun s => do
    s.operands [x.place, xplace i, .vec d.val] [.vec d.val]
    let w := ty.fmt.lane
    let j := (s.readX i).toNat % (512 / w)
    let old := (s.src.vec d.val).toNat
    pure (if (s.enables m).getLsbD j then
        s.writeV (.v d) (setBits old (w * j + w - 1) (w * j) (s.readS x).toNat)
      else s)

/-! ### Comparison and absent (18 R313, R315) -/

/-- The relation of VCMP's F cell on two present lanes, with its NV flag. -/
def relF (cond : Nat) (x y : Val) : Bool × Nat :=
  let nan := x.isNan || y.isNan
  let sig := anySignalling [x, y]
  let c := compareVal x y
  match cond with
  | 0 => (!nan && decide (c = 0), if sig then flagNV else 0)
  | 1 => (!nan && decide (c < 0), if nan then flagNV else 0)
  | 2 => (!nan && decide (c ≤ 0), if nan then flagNV else 0)
  | _ => (nan, if sig then flagNV else 0)

/-- The relation of VCMP's I cell. -/
def relI (cond : Nat) (x y : Int) : Bool :=
  match cond with
  | 0 => decide (x = y)
  | 1 => decide (x < y)
  | 2 => decide (x ≤ y)
  | _ => decide (x ≠ y)

/-- Truth bit, absent bit and flags of one lane. -/
abbrev CmpLane := Bool × Bool × Nat

/-- VCMP writes its two masks (18 R313). -/
def State.vcmp (s : State) (md : Fin 64) (a b : VOpd) (m : MReg) (w : Nat) (rel : Nat → Nat → CmpLane) : R := do
  s.operands [a.place, b.place] []
  let x := s.readV a
  let y := s.readV b
  let rs := (List.range (512 / w)).map fun i =>
    if (s.enables m).getLsbD i then rel (laneOf w x i) (laneOf w y i) else (false, false, 0)
  let fl := rs.foldl (fun acc r => acc ||| r.2.2) 0
  s.enabled fl
  let s := s.updMe fun t =>
    (t.setMask (md.val % 4) (maskBits (rs.map (·.1)))).setMask (md.val / 4 % 4) (maskBits (rs.map (·.2.1)))
  pure (s.orFlags fl)

def execVcmpF (ty : AFmt) (md : Fin 64) (a b : VOpd) (m : MReg) (s : State) : Out :=
  s.issueA fun s => s.vcmp md a b m ty.fmt.lane fun x y =>
    let z := ftzFor ty.fmt s.src.ftz
    let p := decode ty.fmt false z x
    let q := decode ty.fmt false z y
    if p.isAbsent || q.isAbsent then (false, true, 0) else ((relF (md.val / 16) p q).1, false, (relF (md.val / 16) p q).2)

def execVcmpI (ty : VFmt) (md : Fin 64) (a b : VOpd) (m : MReg) (s : State) : Out :=
  s.issueA fun s => s.vcmp md a b m ty.fmt.lane fun x y =>
    if x = absentCode ty.fmt || y = absentCode ty.fmt then (false, true, 0)
    else (relI (md.val / 16) (intVal ty.fmt x) (intVal ty.fmt y), false, 0)

/-- Whether a lane holds the absent code; an F4 lane counts its low nibble (18 R305, R315). -/
def laneAbsent (f : Fmt) (x : Nat) : Bool := x % 2 ^ fmtWidth f = absentCode f

def State.visab (s : State) (f : Fmt) (md : Fin 4) (a : VOpd) (m : MReg) : R := do
  s.operands [a.place] []
  let w := f.lane
  let x := s.readV a
  let bs := (List.range (512 / w)).map fun i => (s.enables m).getLsbD i && laneAbsent f (laneOf w x i)
  pure (s.updMe fun t => t.setMask md.val (maskBits bs))

def State.vcnt (s : State) (f : Fmt) (d : SOpd) (a : VOpd) (m : MReg) : R := do
  s.operands [a.place] [d.place]
  let w := f.lane
  let x := s.readV a
  let n := (List.range (512 / w)).countP fun i => (s.enables m).getLsbD i && !laneAbsent f (laneOf w x i)
  pure (s.writeS d (BitVec.ofNat 64 n))

/-- A lane that VMKAB copies: FTZ reads a subnormal F32, F16 or BF16 as zero of its sign (01 R30, 18 R308); an F4 lane keeps its
low nibble (18 R305). -/
def copied (f : Fmt) (ftz : Bool) (x : Nat) : Nat :=
  let c := x % 2 ^ fmtWidth f
  match fpParams false f with
  | some p => if ftzFor f ftz && decide (c / 2 ^ p.f % 2 ^ p.e = 0) then c / 2 ^ (p.e + p.f) * 2 ^ (p.e + p.f) else c
  | none => c

def State.vmkab (s : State) (f : Fmt) (d a : VOpd) (n : XReg) (m : MReg) : R := do
  s.operands [a.place, xplace n] [d.place]
  let w := f.lane
  let x := s.readV a
  let k := (s.readX n).toNat
  s.vecResult d
    (lanewise w (s.enables m) (s.oldV d) fun i _ =>
      plain (if i < k then copied f s.src.ftz (laneOf w x i) else absentCode f)) false (f = .e4 || f = .e5)

def execVisabF (ty : FFmt) (md : Fin 4) (a : VOpd) (m : MReg) (s : State) : Out := s.issueA fun s => s.visab ty.fmt md a m
def execVisabI (ty : VFmt) (md : Fin 4) (a : VOpd) (m : MReg) (s : State) : Out := s.issueA fun s => s.visab ty.fmt md a m
def execVcntF (ty : FFmt) (d : SOpd) (a : VOpd) (m : MReg) (s : State) : Out := s.issueA fun s => s.vcnt ty.fmt d a m
def execVcntI (ty : VFmt) (d : SOpd) (a : VOpd) (m : MReg) (s : State) : Out := s.issueA fun s => s.vcnt ty.fmt d a m
def execVmkabF (ty : FFmt) (d a : VOpd) (n : XReg) (m : MReg) (s : State) : Out :=
  s.issueA fun s => s.vmkab ty.fmt d a n m
def execVmkabI (ty : VFmt) (d a : VOpd) (n : XReg) (m : MReg) (s : State) : Out :=
  s.issueA fun s => s.vmkab ty.fmt d a n m

/-! ### Conversions (18 R318) -/

def State.vcvt (s : State) (dst : Fmt) (d a : VOpd) (src : PSrc) (m : MReg) (r : Rnd) : R := do
  s.operands [a.place] [d.place]
  let ws := src.fmt.lane
  let wd := dst.lane
  let n := 512 / Nat.max ws wd
  let base := src.part.val * n
  let x := s.readV a
  let old := s.oldV d
  let mode := resolve r s.src.rm
  let res := lanewise wd (s.enables m) old fun j dr =>
    if ws ≤ wd then fConvert dst src.fmt s.src.tx mode (s.draw dr) (laneOf ws x (base + j))
    else if base ≤ j ∧ j < base + n then fConvert dst src.fmt s.src.tx mode (s.draw dr) (laneOf ws x (j - base))
    else plain (laneOf wd old j)
  s.vecResult d res false (dst = .e4 || dst = .e5)

def execVcvtF (ty : FFmt) (d a : VOpd) (src : PSrc) (m : MReg) (r : Rnd) (s : State) : Out :=
  s.issueA fun s => s.vcvt ty.fmt d a src m r
def execVcvtI (ty : IFmt) (d a : VOpd) (src : PSrc) (m : MReg) (r : Rnd) (s : State) : Out :=
  s.issueA fun s => s.vcvt ty.fmt d a src m r

/-! ### Reductions and dot products (18 R319, R320) -/

/-- One level of the tree of 01 R36, left to right: the nodes, their flags and draws. -/
def treeLevel (f : Nat → Nat → Nat → Rounded) : Nat → List Nat → List Nat × Nat × Nat
  | dr, x :: y :: t =>
    let r := f dr x y
    let (l, fl, n) := treeLevel f (dr + r.draws) t
    (r.code :: l, r.flags ||| fl, r.draws + n)
  | _, l => (l, 0, 0)

/-- The tree of 01 R36, level by level. -/
def tree (f : Nat → Nat → Nat → Rounded) : Nat → Nat → List Nat → Rounded
  | 0, _, l => ⟨l.headD 0, 0, 0⟩
  | k + 1, dr, l =>
    let (l, fl, n) := treeLevel f dr l
    let r := tree f k (dr + n) l
    ⟨r.code, fl ||| r.flags, n + r.draws⟩

/-- Lane 0 the result, lane 1 the count, 0 elsewhere (18 R319). -/
def redLanes (w code count : Nat) : Nat := code % 2 ^ w + 2 ^ w * (count % 2 ^ w)

/-- The leaves: a lane whose mask bit is 0 enters as absent. -/
def State.leaves (s : State) (f : Fmt) (a : VOpd) (m : MReg) : List Nat :=
  (List.range (512 / f.lane)).map fun i =>
    if (s.enables m).getLsbD i then laneOf f.lane (s.readV a) i else absentCode f

def redF (f : Fmt) (ftz : Bool) (mode : Mode) (draw : Nat → Nat) (op : ROp) (l : List Nat) (count : Nat) : Rounded :=
  let k := Nat.log2 l.length
  match op with
  | .sum => tree (fun dr => fArith .add f ftz mode (draw dr)) k 0 l
  | .min => tree (fun _ => fMinMax false f ftz) k 0 l
  | .max => tree (fun _ => fMinMax true f ftz) k 0 l
  | .mean =>
    let r := tree (fun dr => fArith .add f ftz mode (draw dr)) k 0 l
    if count = 0 then r
    else
      let q := fMean f ftz mode (draw r.draws) r.code count
      ⟨q.code, r.flags ||| q.flags, r.draws + q.draws⟩

/-- x / n rounded to the nearest integer, ties to even. -/
def nearestEven (x : Int) (n : Nat) : Int :=
  let q := x / (n : Int)
  let r := (x % (n : Int)).toNat
  if 2 * r < n then q else if n < 2 * r then q + 1 else if q % 2 = 0 then q else q + 1

def redI (f : Fmt) (sat : Bool) (op : ROp) (l : List Nat) : Nat × Nat :=
  let xs := (l.filter fun x => decide (x ≠ absentCode f)).map (intVal f)
  match xs with
  | [] => (absentCode f, 0)
  | x :: t =>
    match op with
    | .sum => fit f sat (t.foldl (· + ·) x)
    | .min => fit f sat (t.foldl (fun a b => if a ≤ b then a else b) x)
    | .max => fit f sat (t.foldl (fun a b => if a ≤ b then b else a) x)
    | .mean => fit f sat (nearestEven (t.foldl (· + ·) x) (t.length + 1))

def execVredF (ty : AFmt) (d a : VOpd) (op : ROp) (m : MReg) (r : Rnd) (s : State) : Out :=
  s.issueA fun s => do
    s.operands [a.place] [d.place]
    let f := ty.fmt
    let l := s.leaves f a m
    let count := l.countP fun x => decide (x ≠ absentCode f)
    let x := redF f s.src.ftz (resolve r s.src.rm) s.draw op l count
    s.vecResult d ⟨redLanes f.lane x.code count, x.flags, x.draws⟩ true false

def execVredI (ty : VFmt) (d a : VOpd) (op : ROp) (m : MReg) (s : State) : Out :=
  s.issueA fun s => do
    s.operands [a.place] [d.place]
    let f := ty.fmt
    let l := s.leaves f a m
    let count := l.countP fun x => decide (x ≠ absentCode f)
    let x := redI f s.src.sat op l
    s.vecResult d ⟨redLanes f.lane x.1 count, x.2, 0⟩ true false

/-- The destination format of VDOT (18 R320). -/
def dotDst : Fmt → Fmt
  | .f32 => .f64
  | .f16 | .bf16 => .f32
  | .i16 => .i64
  | _ => .i32

/-- The source lanes of destination lane `j` as pairs of codes. -/
def dotPairs (w g x y j : Nat) : List (Nat × Nat) :=
  (List.range g).map fun i => (laneOf w x (g * j + i), laneOf w y (g * j + i))

def State.vdot (s : State) (src : Fmt) (d : VReg) (a b : VOpd) (m : MReg) (f : Nat → List (Nat × Nat) → Nat → Rounded) : R := do
  s.operands [a.place, b.place, .vec d.val] [.vec d.val]
  let x := s.readV a
  let y := s.readV b
  let z := (s.src.vec d.val).toNat
  let w := (dotDst src).lane
  let r := lanewise w (s.enables m) z fun j dr => f dr (dotPairs src.lane (w / src.lane) x y j) (laneOf w z j)
  s.vecResult (.v d) r true false

/-- An integer VDOT lane. -/
def iDot (src dst : Fmt) (sat : Bool) (ps : List (Nat × Nat)) (c : Nat) : Nat × Nat :=
  let qs := ps.filter fun p => decide (p.1 ≠ absentCode src) && decide (p.2 ≠ absentCode src)
  if qs.isEmpty then (c, 0)
  else
    let sum := qs.foldl (fun acc p => acc + intVal src p.1 * intVal src p.2) (0 : Int)
    fit dst sat (sum + if c = absentCode dst then 0 else intVal dst c)

def execVdotF (ty : DFmt) (d : VReg) (a b : VOpd) (m : MReg) (r : Rnd) (s : State) : Out :=
  s.issueA fun s => s.vdot ty.fmt d a b m fun dr ps c =>
    fDot ty.fmt (dotDst ty.fmt) s.src.ftz (resolve r s.src.rm) (s.draw dr) ps c

def execVdotI (ty : DIFmt) (d : VReg) (a b : VOpd) (m : MReg) (s : State) : Out :=
  s.issueA fun s => s.vdot ty.fmt d a b m fun _ ps c => iRes (iDot ty.fmt (dotDst ty.fmt) s.src.sat ps c)

/-! ### Cross-lane reads (09 R170; 18 R321, R322) -/

/-- The thread in the same slot one column to the left or right, wrapping. -/
def neighbour (tid : Nat) (right : Bool) : Nat :=
  let c := cidOf tid
  (c / 8 * 8 + (c % 8 + (if right then 1 else 7)) % 8) * 16 + slotOf tid

/-- XLD ends without reading: its predicate is false and `d` is unchanged. -/
def State.xldFails (s : State) (prd : Nat) : State :=
  s.updMe fun t => { t.setPred prd false with xldCycles := 0, xldExpired := false }

/-- The wait of an XLD for its neighbour (09 R170, 18 R322). -/
def onNeighbour : Waiting := ⟨.msg, 8, none, some 9⟩

/-- XLTO[15:0]: the cycles for which an XLD waits (05 R108, 09 R170). -/
def Thread.xldBound (t : Thread) : Nat := Fld t.sys.xlto 15 0

def execXld (d a : VReg) (dp : Fin 32) (m : MReg) (s : State) : Out :=
  s.issueA fun s => do
    s.operands [] [.vec d.val]
    let prd := dp.val % 16
    let u := neighbour s.cur (decide (16 ≤ dp.val))
    let n := s.before u
    if isHob s.cid || n.slot = .vacant || n.grp ≠ s.src.grp then pure (s.xldFails prd)
    else if n.slot = .runnable then
      let x := (n.vec a.val).toNat
      let r := lanewise 64 (s.enables m) (s.oldV (.v d)) fun i _ => plain (laneOf 64 x i)
      pure ((s.writeV (.v d) r.val).updMe fun t => { t.setPred prd true with xldCycles := 0, xldExpired := false })
    else if s.src.xldExpired || decide (s.src.xldBound ≤ s.src.xldCycles) then pure (s.xldFails prd)
    else .error (.wait onNeighbour)

/-- The thread waits on the neighbour of an XLD. -/
def Thread.awaitsNeighbour (t : Thread) : Bool := t.issuing && (t.wait.any fun w => w.ring = some 9)

/-- XLD_TIMEOUT: the XLD has waited XLTO cycles and the neighbour is not RUNNABLE (09 R170). -/
def execXldTimeout (tid : Nat) (s : State) : Out :=
  let t := s.th tid
  if t.awaitsNeighbour && decide (t.xldBound ≤ t.xldCycles) then .next (s.updTh tid fun t => { t with xldExpired := true })
  else .next s

/-! ### Random numbers (18 R324) -/

/-- VRNG's F cell: u[63:64 − p] × 2^−p, exact. -/
def rngF (f : Fmt) (u : Nat) : Nat :=
  let p : Nat := match fpParams false f with
    | some q => q.f + 1
    | none => 0
  (encodeVal f false false .rne 0 (.fin false (u / 2 ^ (64 - p)) (-Int.ofNat p))).1

/-- VRNG's I cell: the top bits, the absent code replaced by the adjacent code of smaller magnitude (01 R23). -/
def rngI (f : Fmt) (u : Nat) : Nat :=
  let x := u / 2 ^ (64 - fmtWidth f)
  if x = absentCode f then (if fmtUnsigned f then x - 1 else x + 1) else x

def State.vrng (s : State) (w : Nat) (d : VOpd) (k i : XReg) (m : MReg) (f : Nat → Nat) : R := do
  s.waits [xplace k, .reg (k.val + 1), xplace i] [d.place]
  let stream := (s.src.reg (k.val + 1)).toNat
  raiseIf (decide (2 ^ 32 ≤ stream)) 0x01 s.iss.word
  s.slotUses [] [d.place]
  let seed := (s.readX k).toNat
  let base := (s.readX i).toNat
  s.vecResult d
    (lanewise w (s.enables m) (s.oldV d) fun j _ => plain (f (mix seed stream ((base + j) % 2 ^ 64)))) true false

def execVrngF (ty : AFmt) (d : VOpd) (k i : XReg) (m : MReg) (s : State) : Out :=
  s.issueA fun s => s.vrng ty.fmt.lane d k i m (rngF ty.fmt)
def execVrngI (ty : VFmt) (d : VOpd) (k i : XReg) (m : MReg) (s : State) : Out :=
  s.issueA fun s => s.vrng ty.fmt.lane d k i m (rngI ty.fmt)

end Sys2Proof.Machine
end

