-- ==== Sys2Proof/Machine/Account.lean ====
section
/-! DEFINITION. Machine/Account.lean: the slot classes of a cycle and their counters (09 R165, 28 R398). -/
namespace Sys2Proof.Machine

/-- The class of a slot in a cycle in which `winner` issues (09 R165). -/
def State.classOf (s : State) (winner : Option Nat) (tid : Nat) : Cls :=
  let t := s.th tid
  if winner = some tid then .issued
  else if t.exited then .vacant
  else
    match t.slot with
    | .vacant | .stopped | .saved => .vacant
    | .runnable => match t.wait with
      | some w => w.cls
      | none => .passed
    | .parked => match t.park with
      | .page _ | .sync => .mem
      | _ => .msg

def Cls.code : Cls → Nat
  | .issued => 0 | .passed => 1 | .mem => 2 | .msg => 3 | .vacant => 4

/-- Slots that are ready in the cycle, the one that issued included. -/
def State.readySlots (s : State) (cid : Nat) (winner : Option Nat) : Nat :=
  ((List.range 16).map fun sl => cid * 16 + sl).countP fun t =>
    winner = some t || ((s.th t).issuing && (s.th t).wait.isNone)

/-- Counter numbers within a core's block: 5 × slot + class, 80 to 82 for idle cycles, 83 + n for the histogram. -/
def State.counted (s : State) (cid : Nat) (winner : Option Nat) : List Nat :=
  let cls := (List.range 16).map fun sl => s.classOf winner (cid * 16 + sl)
  let slots := (List.range 16).zipWith (fun sl c => 5 * sl + c.code) cls
  let idle := if winner.isSome then [] else if cls.contains .mem then [80] else if cls.contains .msg then [81] else [82]
  slots ++ idle ++ [83 + s.readySlots cid winner]

/-- Counters count in 48 bits and wrap (28 R398). -/
def countUp (m : List (Nat × Nat)) (k : Nat) : List (Nat × Nat) := store 0 m k ((lookup 0 m k + 1) % 2 ^ 48)

/-- The core counts one cycle, unless its counters are frozen (28 R398). -/
def State.account (s : State) (cid : Nat) (winner : Option Nat) : State :=
  let c := s.core cid
  if c.freeze then s else s.setCore cid { c with acct := (s.counted cid winner).foldl countUp c.acct }

/-- The slots in the order in which the search takes them. -/
def State.rotation (s : State) (cid : Nat) : List Nat :=
  (List.range 16).map fun i => cid * 16 + ((s.core cid).last + 1 + i) % 16

def State.cleared (s : State) : State := { s with iss := {} }

/-- Whether a thread issues alone. -/
def Thread.alone (t : Thread) : Bool := t.issuing && t.gang.isNone

/-- The gangs with a member on a core, by slot: leader and members. -/
def State.gangsOn (s : State) (cid : Nat) : List (Nat × List Nat) :=
  ((List.range 16).filterMap fun sl => (s.th (cid * 16 + sl)).gang).map fun g => (g.leader, gangMembers g)

/-- The first ready slot outside a gang, counting up from the slot issued last (09 R164). -/
def State.pick (s : State) (cid : Nat) : Option Nat :=
  (s.rotation cid).find? fun t => (s.th t).alone && (s.th t).wait.isNone

/-- A cycle of a core passes for an XLD that waits for its neighbour (09 R170). -/
def Thread.tick (t : Thread) : Thread := if t.awaitsNeighbour then { t with xldCycles := t.xldCycles + 1 } else t

/-- A core's waiting XLDs count a cycle. -/
def State.ticked (s : State) (cid : Nat) : State :=
  { s with threads := s.threads.map fun (p : Nat × Thread) => if cidOf p.1 = cid then (p.1, p.2.tick) else p }

/-- The core counts a cycle and notes who issued in it. -/
def State.endCycle (s : State) (cid : Nat) (winner : Option Nat) : State :=
  let s := (s.account cid winner).ticked cid
  let c := s.core cid
  (s.setCore cid { c with recent := (winner.map slotOf :: c.recent).take 3 }).cleared

/-- A slot of the core may issue, as its threads' waits are noted: one alone, or a gang of which no member waits (09 R163, R168). -/
def State.someReady (s : State) (cid : Nat) : Bool :=
  (s.pick cid).isSome || (s.gangsOn cid).any fun g => g.2.all fun m => (s.th m).issuing && (s.th m).wait.isNone

/-- IDLE_CYCLE: a cycle in which no slot of the core is ready. The waits have been noted for it (State.turn; 09 R165). -/
def execIdleCycle (cid : Nat) (s : State) : Out := if s.someReady cid then .next s else .next (s.endCycle cid none)

/-- ACCT_FREEZE (28 R398). -/
def execAcctFreeze (cid : Nat) (v : Bool) (s : State) : Out :=
  s.register (pkgOf cid) fun s => s.setCore cid { s.core cid with freeze := v }

/-- ACCT_ZERO (28 R398). -/
def execAcctZero (cid : Nat) (s : State) : Out :=
  s.register (pkgOf cid) fun s => s.setCore cid { s.core cid with acct := [] }

end Sys2Proof.Machine
end

