-- ==== Sys2Proof/Machine/Memory.lean ====
section
/-! DEFINITION. Machine/Memory.lean: the memory instructions as they issue (15 R247 to R263). What happens at a location's home
stands in Machine/Home.lean. -/
namespace Sys2Proof.Machine

/-- An address base with its sign-extended offset, modulo 2^64 (15 R248, R259). -/
def State.baseImm (s : State) (b : XReg) (imm : BitVec 12) : Word := s.readX b + imm.signExtend 64

/-- A destination that a load, an atomic or FEQ keeps busy (09 R162). -/
def State.occupy (s : State) : Dest → State
  | .none => s
  | .reg i => s.updMe fun t => t.setBusy i true
  | .vec i => s.updMe fun t => t.setVBusy i true

def Dest.places : Dest → List Place
  | .none => []
  | .reg i => [.reg i]
  | .vec i => [.vec i]

/-- Sign or zero extension of an `n`-byte value (15 R249). -/
def extend (sext : Bool) (n v : Nat) : Nat := if sext then (signExtend64 (8 * n) v).toNat else v

/-- A load that has passed its checks: forwarded from the store buffer, held back by a partial overlap, or sent to its home
(08 R149; 15 R249). A forwarded load is performed as it issues, so it waits for the older loads that it must follow. A
register-aperture load is never forwarded (28 R378). -/
def State.issueLoad (s : State) (d : Dest) (key : Nat) (rest : Option (Nat × Nat)) (ea : Word) (n : Nat) (far sext acq : Bool) :
    R := do
  match (if isAperKey key then Forward.none else forward s.hidden s.src.sb s.serial (spanOf key rest n)) with
  | .part => .error (.wait onMemory)
  | .all v => do
    waitIf (!s.inOrder s.cur s.serial (spanOf key rest n)) onMemory
    pure ((s.occupy d).post (.reply { tid := s.cur, dst := d, val := extend sext n v, acq := acq, ea := ea }))
  | .none => pure ((s.occupy d).depart ⟨s.cur, .load sext acq, far, key, rest, ea, n, 0, d, s.src.dueBy, false⟩)

/-- A far load (15 R249). -/
def State.loadFar (s : State) (d : Dest) (b : XReg) (imm : BitVec 12) (n al : Nat) (sext acq : Bool) : R := do
  allOf [s.need [xplace b] d.places, s.accessGate, s.loadRoom]
  let ea := s.baseImm b imm
  let (key, rest) ← s.farWide ea n { rd := true, s := acq } al accLoad
  s.issueLoad d key rest ea n true sext acq

/-- A far store: it enters the store buffer (15 R249). A narrower store to a poisoned word traps with cause 0x0B (02 R58). -/
def State.storeFar (s : State) (o : Place) (val : Nat) (b : XReg) (imm : BitVec 12) (n al : Nat) (rel : Bool) : R := do
  allOf [s.waits [o, xplace b] [], s.accessGate, s.bufferRoom 1]
  s.slotUses [o, xplace b] []
  let ea := s.baseImm b imm
  let (key, rest) ← s.farWide ea n { w := true, s := rel } al accStore
  s.reading [o]
  raiseIf (decide (n < 8) && s.poisoned key n) 0x0B ea
  let s := s.dirtied s.cur ea accStore
  let s := match rest with
    | some (m, _) => s.dirtied s.cur (ea + BitVec.ofNat 64 m) accStore
    | none => s
  pure (s.buffer ea true rel (.bytes key (toBytes n val) rest))

def execLdBZ (d b : XReg) (imm : BitVec 12) (s : State) : Out :=
  s.issue fun s => s.loadFar (.reg d.val) b imm 1 1 false false
def execLdBS (d b : XReg) (imm : BitVec 12) (s : State) : Out :=
  s.issue fun s => s.loadFar (.reg d.val) b imm 1 1 true false
def execLdHZ (d b : XReg) (imm : BitVec 12) (s : State) : Out :=
  s.issue fun s => s.loadFar (.reg d.val) b imm 2 2 false false
def execLdHS (d b : XReg) (imm : BitVec 12) (s : State) : Out :=
  s.issue fun s => s.loadFar (.reg d.val) b imm 2 2 true false
def execLdWZ (d b : XReg) (imm : BitVec 12) (s : State) : Out :=
  s.issue fun s => s.loadFar (.reg d.val) b imm 4 4 false false
def execLdWS (d b : XReg) (imm : BitVec 12) (s : State) : Out :=
  s.issue fun s => s.loadFar (.reg d.val) b imm 4 4 true false
def execLdD (d b : XReg) (imm : BitVec 12) (s : State) : Out :=
  s.issue fun s => s.loadFar (.reg d.val) b imm 8 8 false false
def execLdAcq (d b : XReg) (imm : BitVec 12) (s : State) : Out :=
  s.issue fun s => s.loadFar (.reg d.val) b imm 8 8 false true
def execLdv (d : VReg) (b : XReg) (imm : BitVec 12) (s : State) : Out :=
  s.issue fun s => s.loadFar (.vec d.val) b imm 64 8 false false

def execStB (v : SOpd) (b : XReg) (imm : BitVec 12) (s : State) : Out :=
  s.issue fun s => s.storeFar v.place (s.readS v).toNat b imm 1 1 false
def execStH (v : SOpd) (b : XReg) (imm : BitVec 12) (s : State) : Out :=
  s.issue fun s => s.storeFar v.place (s.readS v).toNat b imm 2 2 false
def execStW (v : SOpd) (b : XReg) (imm : BitVec 12) (s : State) : Out :=
  s.issue fun s => s.storeFar v.place (s.readS v).toNat b imm 4 4 false
def execStD (v : SOpd) (b : XReg) (imm : BitVec 12) (s : State) : Out :=
  s.issue fun s => s.storeFar v.place (s.readS v).toNat b imm 8 8 false
def execStRel (v : SOpd) (b : XReg) (imm : BitVec 12) (s : State) : Out :=
  s.issue fun s => s.storeFar v.place (s.readS v).toNat b imm 8 8 true
def execStv (v : VOpd) (b : XReg) (imm : BitVec 12) (s : State) : Out :=
  s.issue fun s => s.storeFar v.place (s.readV v) b imm 64 8 false

/-! ### Far atomics and locks (15 R251 to R256) -/

/-- Bytes of an atomic: F = 0 names 8, F = 1 names 4 (15 R251). -/
def atomicSize (f : Nat) : Nat := if f % 2 = 0 then 8 else 4

/-- What holds an atomic back (08 R150, R152; 09 R162). -/
def State.atomicGate (s : State) (d : Dest) : Except Stop Unit := if d = .none then s.accessGate else allOf [s.accessGate, s.loadRoom]

/-- An atomic that has passed its checks is sent to the word's home; its destination is busy (15 R252). -/
def State.issueAtomic (s : State) (d : Dest) (op : AccOp) (key : Nat) (ea : Word) (n : Nat) (far : Bool) (v : Word) : R :=
  pure ((s.occupy d).depart ⟨s.cur, op, far, key, none, ea, n, v, d, s.src.dueBy, false⟩)

/-- A far atomic (15 R252). The D bit counts it whether it writes or not. -/
def State.atomicFar (s : State) (op : AccOp) (d b : XReg) (v : SOpd) (n : Nat) (also : List Place) : R := do
  allOf [s.waits ([xplace b, v.place] ++ also) [xplace d], s.atomicGate (.reg d.val)]
  s.slotUses ([xplace b, v.place] ++ also) [xplace d]
  let ea := s.readX b
  let key ← s.far ea n { rd := true, w := true, a := true } n accAtomic
  s.reading [v.place]
  (s.dirtied s.cur ea accAtomic).issueAtomic (.reg d.val) op key ea n true (s.readS v)

def execAadd (d b : XReg) (v : SOpd) (z : Fin 2) (g : Fin 8) (s : State) : Out :=
  s.issueC g fun s => s.atomicFar .add d b v (atomicSize z.val) []

/-- The rounding draw of a C slot: it draws before the A slot (18 R325). -/
def State.cDraw (s : State) : Nat := drawOf s.drawRank s.src.draws.toNat

/-- AFADD carries its rounding mode and, under SR, its draw (15 R253). -/
def execAfadd (d b : XReg) (v : SOpd) (z : Fin 2) (g : Fin 8) (s : State) : Out :=
  s.issueC g fun s => do
    let s' ← s.atomicFar (.fadd s.src.rm s.cDraw) d b v (atomicSize z.val) []
    pure (if modeOf s.src.rm = .sr then s'.drew 1 else s')

/-- AMIN's and AMAX's F: size in bit 0, unsigned in bit 1 (15 R251). -/
def execAmin (d b : XReg) (v : SOpd) (z : Fin 4) (g : Fin 8) (s : State) : Out :=
  s.issueC g fun s => s.atomicFar (if z.val < 2 then .mins else .minu) d b v (atomicSize z.val) []
def execAmax (d b : XReg) (v : SOpd) (z : Fin 4) (g : Fin 8) (s : State) : Out :=
  s.issueC g fun s => s.atomicFar (if z.val < 2 then .maxs else .maxu) d b v (atomicSize z.val) []
def execAand (d b : XReg) (v : SOpd) (z : Fin 2) (g : Fin 8) (s : State) : Out :=
  s.issueC g fun s => s.atomicFar .and d b v (atomicSize z.val) []
def execAor (d b : XReg) (v : SOpd) (z : Fin 2) (g : Fin 8) (s : State) : Out :=
  s.issueC g fun s => s.atomicFar .or d b v (atomicSize z.val) []
def execAxor (d b : XReg) (v : SOpd) (z : Fin 2) (g : Fin 8) (s : State) : Out :=
  s.issueC g fun s => s.atomicFar .xor d b v (atomicSize z.val) []
def execAxchg (d b : XReg) (v : SOpd) (z : Fin 2) (g : Fin 8) (s : State) : Out :=
  s.issueC g fun s => s.atomicFar .xchg d b v (atomicSize z.val) []

/-- ACAS reads its destination as the value to compare with (15 R252). -/
def execAcas (d b : XReg) (v : SOpd) (z : Fin 2) (g : Fin 8) (s : State) : Out :=
  s.issueC g fun s => s.atomicFar (.cas (s.readX d)) d b v (atomicSize z.val) [xplace d]

/-- LOCK and UNLOCK at issue: rights Rd, W, A and S, alignment 8 (15 R255, R256). -/
def State.lockOp (s : State) (op : AccOp) (d : Dest) (b : XReg) : R := do
  allOf [s.need [xplace b] d.places, s.atomicGate d]
  let ea := s.readX b
  let key ← s.far ea 8 { rd := true, w := true, a := true, s := true } 8 accAtomic
  (s.dirtied s.cur ea accAtomic).issueAtomic d op key ea 8 true 0

def execLock (b : XReg) (g : Fin 8) (s : State) : Out := s.issueC g fun s => s.lockOp .lock .none b
def execLockStatus (d b : XReg) (g : Fin 8) (s : State) : Out := s.issueC g fun s => s.lockOp .lock (.reg d.val) b
def execUnlock (b : XReg) (g : Fin 8) (s : State) : Out := s.issueC g fun s => s.lockOp .unlock .none b
def execUnlockStatus (d b : XReg) (g : Fin 8) (s : State) : Out := s.issueC g fun s => s.lockOp .unlock (.reg d.val) b

/-! ### Near loads, stores and atomics (15 R259, R260, R263) -/

def State.loadNear (s : State) (d : Dest) (b : XReg) (imm : BitVec 12) (n al : Nat) : R := do
  allOf [s.need [xplace b] d.places, s.accessGate, s.loadRoom]
  let na := s.baseImm b imm
  let r ← s.near na n al .load
  s.issueLoad d r.key none na n false false false

/-- A near store: into the store buffer, or through a core window as a put, which does not use it (15 R260). -/
def State.storeNear (s : State) (o : Place) (val : Nat) (b : XReg) (imm : BitVec 12) (n al : Nat) : R := do
  let na := s.baseImm b imm
  s.storeReady (s.waits [o, xplace b] []) na 1
  s.nearMode na n
  s.slotUses [o] []
  let r ← s.near na n al .store
  s.reading [o]
  pure (if r.put then s.post (.put s.cur r.key (toBytes n val))
    else s.buffer na false false (.bytes r.key (toBytes n val) none))

def execLdnW (d b : XReg) (imm : BitVec 12) (s : State) : Out := s.issue fun s => s.loadNear (.reg d.val) b imm 4 4
def execLdnD (d b : XReg) (imm : BitVec 12) (s : State) : Out := s.issue fun s => s.loadNear (.reg d.val) b imm 8 8
def execVldn (d : VReg) (b : XReg) (imm : BitVec 12) (s : State) : Out :=
  s.issue fun s => s.loadNear (.vec d.val) b imm 64 8
def execStnW (v : SOpd) (b : XReg) (imm : BitVec 12) (s : State) : Out :=
  s.issue fun s => s.storeNear v.place (s.readS v).toNat b imm 4 4
def execStnD (v : SOpd) (b : XReg) (imm : BitVec 12) (s : State) : Out :=
  s.issue fun s => s.storeNear v.place (s.readS v).toNat b imm 8 8
def execVstn (v : VOpd) (b : XReg) (imm : BitVec 12) (s : State) : Out :=
  s.issue fun s => s.storeNear v.place (s.readV v) b imm 64 8

/-- NADD and NCAS act at the word's owner without a segment check (15 R263). -/
def State.atomicNear (s : State) (op : AccOp) (d b : XReg) (v : SOpd) (also : List Place) : R := do
  allOf [s.waits ([xplace b, v.place] ++ also) [xplace d], s.atomicGate (.reg d.val)]
  let na := s.readX b
  s.nearMode na 8
  s.slotUses [v.place] []
  let r ← s.near na 8 8 .sync
  s.reading [v.place]
  s.issueAtomic (.reg d.val) op r.key na 8 false (s.readS v)

def execNadd (d b : XReg) (v : SOpd) (g : Fin 8) (s : State) : Out := s.issueC g fun s => s.atomicNear .add d b v []
def execNcas (d b : XReg) (v : SOpd) (g : Fin 8) (s : State) : Out :=
  s.issueC g fun s => s.atomicNear (.cas (s.readX d)) d b v [xplace d]

/-! ### Full/empty operations (15 R261) -/

/-- SYNCLIM[15:0], which an access carries from its issue on (03 R77). -/
def Thread.retryLimit (t : Thread) : Nat := Fld t.sys.synclim 15 0

/-- An operation that only writes, for WR of a refusal (28 R388). -/
def SyncOp.stores (op : SyncOp) : Bool :=
  match op with
  | .ste | .stf | .feclr | .feset | .claim => true
  | .ldf | .ldfe | .feq => false

/-- A synchronising access leaves for the word's owner, to a die-scratchpad word as a packet of the far net (03 R59, R63). -/
def State.sendSync (s : State) (op : SyncOp) (key : Nat) (na val : Word) (reg : Nat) : State :=
  let t := s.src
  let a : Sync := ⟨s.serial, s.cur, op, key, na, val, reg, t.grp, t.retryLimit, 0, t.pc, t.dueBy, false⟩
  (s.post (.sync a)).sendOut s.serial s.cid t.tenant t.dueBy (op.stores) [(key, 8)]

/-- LDF and LDFE: the destination's presence is cleared and the pair completes (03 R75). -/
def State.loadSync (s : State) (op : SyncOp) (d b : XReg) (imm : BitVec 12) : R := do
  allOf [s.need [xplace b] [xplace d], s.accessGate, s.loadRoom]
  let na := s.baseImm b imm
  let r ← s.near na 8 8 .sync
  pure ((s.updMe fun t => (t.clearPresent d.val).setPend d.val true).sendSync op r.key na 0 d.val)

def execLdf (d b : XReg) (imm : BitVec 12) (s : State) : Out := s.issue fun s => s.loadSync .ldf d b imm
def execLdfe (d b : XReg) (imm : BitVec 12) (s : State) : Out := s.issue fun s => s.loadSync .ldfe d b imm

/-- STE and STF send their value once the waits of 08 R154 are over. -/
def State.storeSync (s : State) (op : SyncOp) (v : SOpd) (b : XReg) (imm : BitVec 12) : R := do
  allOf [s.waits [v.place, xplace b] [], s.accessGate]
  let na := s.baseImm b imm
  s.nearMode na 8
  s.slotUses [v.place] []
  let r ← s.near na 8 8 .sync
  s.reading [v.place]
  pure (s.sendSync op r.key na (s.readS v) 0)

/-- STE: the thread leaves the rotation until its store proceeds (15 R261). -/
def execSte (v : SOpd) (b : XReg) (imm : BitVec 12) (s : State) : Out :=
  s.issue fun s => do
    let s ← s.storeSync .ste v b imm
    pure (s.updMe fun t => { t with slot := .parked, park := .sync })
def execStf (v : SOpd) (b : XReg) (imm : BitVec 12) (s : State) : Out := s.issue fun s => s.storeSync .stf v b imm

/-- FECLR, FESET and CLAIM are ordered as atomics (15 R247). -/
def State.stateSync (s : State) (op : SyncOp) (b : XReg) (imm : BitVec 12) : R := do
  allOf [s.need [xplace b] [], s.accessGate]
  let na := s.baseImm b imm
  let r ← s.near na 8 8 .sync
  pure (s.sendSync op r.key na 0 0)

def execFeclr (b : XReg) (imm : BitVec 12) (s : State) : Out := s.issue fun s => s.stateSync .feclr b imm
def execFeset (b : XReg) (imm : BitVec 12) (s : State) : Out := s.issue fun s => s.stateSync .feset b imm
def execClaim (b : XReg) (imm : BitVec 12) (s : State) : Out := s.issue fun s => s.stateSync .claim b imm

def execFeq (d b : XReg) (imm : BitVec 12) (s : State) : Out :=
  s.issue fun s => do
    allOf [s.need [xplace b] [xplace d], s.accessGate, s.loadRoom]
    let na := s.baseImm b imm
    let r ← s.near na 8 8 .sync
    pure ((s.occupy (.reg d.val)).sendSync .feq r.key na 0 d.val)

end Sys2Proof.Machine
end

