-- ==== Sys2Proof/Machine/Rings.lean ====
section
/-! DEFINITION. Machine/Rings.lean: ring binding, advancing and splicing (05 R103 to R107; 07 R129 to R146; 16 R278 to R284).
-/
namespace Sys2Proof.Machine

/-! ### Channels -/

def ringTrap (q : Nat) : R := .error (.trap 0x0A (BitVec.ofNat 64 q))

/-- Raises cause 0x0A with the handle number (05 R105, 12 R205). -/
def ringIf (bad : Bool) (q : Nat) : Except Stop Unit := raiseIf bad 0x0A (BitVec.ofNat 64 q)

/-- The consumer's end of the channel that an OUT handle feeds. -/
def State.consumer (s : State) (r : Ring) : Ring := (s.th r.cons).ring r.consQ

/-- A consumer thread that has ended, or whose handle has left the binding that the OUT handle feeds (16 R280, 17 R303). -/
def State.consumerEnded (s : State) (r : Ring) : Bool :=
  let t := s.th r.cons
  let c := t.ring r.consQ
  t.slot = .vacant || t.exited || c.kind ≠ .inn || c.bound ≠ r.consBound

/-- A pending merge names the handle as its new producer. -/
def Ring.merges (c : Ring) (p : Nat × Nat) : Bool := c.merge.any fun m => (m.newTid, m.newQ) = p

/-- The handle is its channel's current producer (07 R130), for the term that it has: one that has been bound anew since the channel last
named it, or that a splice has bound to it, has none. -/
def State.isCurrent (s : State) (tid q : Nat) : Bool :=
  let r := (s.th tid).ring q
  decide (r.term ≠ 0) && (s.consumer r).cur = some (tid, q)

/-- The handle may push: it is current, and no pending merge that names it awaits its SEAM (07 R130, R139). -/
def State.mayPush (s : State) (tid q : Nat) : Bool :=
  s.isCurrent tid q && !(s.consumer ((s.th tid).ring q)).merges (tid, q)

/-- Records on their way to a channel: in flight, or in a store buffer. -/
def State.onTheWay (s : State) (cons consQ bnd : Nat) : Nat :=
  (s.flight.countP fun p => match p.2 with
    | .record _ _ c q b _ => decide (c = cons) && decide (q = consQ) && decide (b = bnd)
    | _ => false) +
    (s.threads.map fun p => p.2.sb.countP fun e => match e.kind with
      | .push _ c q b _ => decide (c = cons) && decide (q = consQ) && decide (b = bnd)
      | .bytes _ _ _ => false).foldl (· + ·) 0

/-- The free slots that a handle has as it becomes the current producer. -/
def State.freeSlots (s : State) (cons consQ : Nat) : Nat :=
  let r := (s.th cons).ring consQ
  r.cap - r.filled - s.onTheWay cons consQ r.bound

def State.updRing (s : State) (tid q : Nat) (f : Ring → Ring) : State := s.updTh tid fun t => t.setRing q (f (t.ring q))

/-- A channel has a current producer among those bound to it. -/
def State.hasCurrent (s : State) (cons consQ : Nat) : Bool :=
  let r := (s.th cons).ring consQ
  r.cur.any fun p => r.prods.contains p && s.isCurrent p.1 p.2

/-- A producer of a channel becomes current, and its term begins (07 R139, R141): its TAIL is then the slot after the last one committed
to the channel, arrived or not (16 R279, R281; DEDUCED, notes/assumptions/18.md). -/
def State.beginTerm (s : State) (cons consQ : Nat) (p : Nat × Nat) : State :=
  let r := (s.th cons).ring consQ
  let s' := s.numbered.updRing cons consQ fun r => { r with cur := some p }
  s'.updRing p.1 p.2 fun x =>
    { x with free := s'.freeSlots cons consQ, tail := (r.tail + s.onTheWay cons consQ r.bound) % r.cap, term := s'.serial }

/-- A producer becomes current, if it is still bound to the channel. Otherwise the one that is current stays so, or the first of those
bound since becomes current, or there is none (07 R130, R139). -/
def State.makeCurrent (s : State) (cons consQ : Nat) (p : Nat × Nat) : State :=
  let r := (s.th cons).ring consQ
  if r.prods.contains p then s.beginTerm cons consQ p
  else if s.hasCurrent cons consQ then s
  else match r.prods with
    | q :: _ => s.beginTerm cons consQ q
    | [] => s.updRing cons consQ fun r => { r with cur := none }

/-- An OUT handle leaves its channel: a current one passes its role to the other producer, whose pushes wait while a pending merge
names it (16 R280; 07 R139, R141). -/
def State.leaveChannel (s : State) (tid q : Nat) : State :=
  let r := (s.th tid).ring q
  let c := s.consumer r
  if c.kind ≠ .inn || c.bound ≠ r.consBound then s
  else
    let s' := s.updRing r.cons r.consQ fun c => { c with prods := c.prods.filter fun p => decide (p ≠ (tid, q)) }
    if s.isCurrent tid q then s'.makeCurrent r.cons r.consQ (tid, q) else s'

def State.unbind (s : State) (tid q : Nat) : State :=
  let r := (s.th tid).ring q
  let s := if r.kind = .out then s.leaveChannel tid q else s
  s.updRing tid q fun _ => {}

/-- Every handle of a thread that ends is unbound (07 R140, 17 R303). -/
def State.unbindAll (s : State) (tid : Nat) : State := (List.range 8).foldl (fun s q => s.unbind tid q) s

/-- The slot at HEAD of a LOCAL or IN handle, whole. -/
def State.headSlot (s : State) (r : Ring) : Staged := ⟨s.load (r.slotKey r.head) r.size, r.slotBits r.head⟩

/-- An OUT handle feeds the present binding of handle `q` of a thread. -/
def Ring.feeds (r : Ring) (tid q bnd : Nat) : Bool := r.kind = .out && decide (r.cons = tid) && decide (r.consQ = q) && decide (r.consBound = bnd)

/-- Pops `k` slots; an IN handle returns them to the current producer, for its present term (16 R281). A commit may have bound that
producer's handle to another channel (07 R138): it then gets none of them, and the next producer counts them as it becomes current. So it
is where that handle has been bound to the channel anew and has no term yet. -/
def State.popRing (s : State) (tid q k : Nat) : State :=
  let r := (s.th tid).ring q
  let s := s.updRing tid q fun r => { r with head := (r.head + k) % r.cap, filled := r.filled - k }
  match r.kind, r.cur with
  | .inn, some p =>
    let o := (s.th p.1).ring p.2
    if o.feeds tid q r.bound && decide (o.term ≠ 0) then s.post (.credit p.1 p.2 o.term k) else s
  | _, _ => s

/-- Commits slots of an OUT handle through the store buffer, one entry a slot, and empties the staging (08 R149, R155; 16 R281).
-/
def State.pushOut (s : State) (tid q : Nat) (slots : List Staged) : State :=
  let r := (s.th tid).ring q
  let s := slots.foldl (fun s x =>
    let e : StoreEntry :=
      { id := s.serial, ea := 0, far := false, release := false, kind := .push q r.cons r.consQ r.consBound x }
    s.numbered.updTh tid fun t => { t with sb := t.sb ++ [e] }) s
  s.updRing tid q fun r =>
    { r with tail := (r.tail + slots.length) % r.cap, free := r.free - slots.length, staged := [] }

/-- An empty slot of an OUT handle that no pair wrote: zeros, unmarked, untyped (16 R281). -/
def blankSlot (tid : Nat) : Staged := ⟨0, ⟨false, false, false, tid⟩⟩

/-- What holds a push of `k` slots back (08 R149, R152). -/
def State.pushGate (s : State) (k : Nat) : Except Stop Unit := allOf [s.acquireGate, s.bufferRoom k]

/-- The wait of a push of `k` slots into an OUT handle (07 R130; 16 R281). One whose consumer has ended traps and does not wait
(16 R280). -/
def State.pushWait (s : State) (q k : Nat) : Except Stop Unit :=
  let r := s.src.ring q
  waitIf (!s.consumerEnded r && (decide (r.free < k) || !s.mayPush s.cur q)) (s.fullRing r)

/-- Everything that holds a push of `k` slots back: the store buffer and acquires (08 R149, R152), and for an OUT handle its channel, or
the answer of its QBIND (25 R374). -/
def State.pushHeld (s : State) (q k : Nat) : Except Stop Unit :=
  if s.binding q then .error (.wait onAnswer)
  else if (s.src.ring q).kind = .out then allOf [s.pushGate k, s.pushWait q k] else .ok ()

/-- What holds an instruction back that moves the head slot of an IN channel on, or rewrites it: its read is ordered as a plain load (08
R147, R152, R155), and the thread's own earlier stores to the slot have left the buffer. -/
def State.headRead (s : State) (q : Nat) : Except Stop Unit :=
  let r := s.src.ring q
  let k := r.slotKey r.head
  if r.kind = .inn then
    allOf [s.accessGate, waitIf (!s.readsNow k r.size || !s.noOlderStore s.cur s.serial [(k, r.size)]) onMemory]
  else .ok ()

/-- A push into an OUT handle whose consumer has ended (16 R280). -/
def State.pushEnded (s : State) (q : Nat) : Except Stop Unit := ringIf (s.consumerEnded (s.src.ring q)) q

/-- What holds a read of the head slots of `q` back beside an empty ring: an inheritance (07 R142), and a SEAM that the hardware takes
(07 R139, R140). -/
def State.headHeld (s : State) (q : Nat) : Except Stop Unit :=
  let r := s.src.ring q
  allOf [waitIf (q = 0 && s.src.inheriting) ⟨.mem, 8, none, none⟩,
    waitIf (s.seamAtHead r || s.drainAtHead s.src q) (s.emptyRing q)]

/-! ### Binding (16 R278 to R280, R282) -/

def ringSize (sz : Nat) : Nat := 8 * 2 ^ sz

/-- The bytes of a bound channel area: its first key and its length (16 R278). -/
def Ring.area (r : Ring) : Nat × Nat := (r.base, 128 + r.cap * r.size)

/-- Some bound LOCAL or IN handle on a core covers a byte of an area (16 R278). -/
def State.areaTaken (s : State) (cid base len : Nat) : Bool :=
  (List.range 16).any fun sl => (s.th (cid * 16 + sl)).rings.toList.any fun r =>
    (r.kind = .loc || r.kind = .inn) && decide (r.base < base + len) && decide (base < r.base + r.area.2)

def State.bindOwn (s : State) (kind : RingKind) (q size cap : Nat) (a : Word) (d : XReg) : R := do
  let len := 128 + cap * size
  raiseIf (decide (0x30000 < a.toNat + len)) 0x03 a
  let key := keyLocal s.cid a.toNat
  raiseIf (s.areaTaken s.cid key len) 0x03 a
  raiseIf (decide (a.toNat % 64 ≠ 0)) 0x05 a
  let s' := s.numbered.updMe fun t => t.setRing q { kind := kind, size := size, cap := cap, base := key, bound := s.serial }
  pure (s'.writeX d 0)

/-- The status of a QBIND of an OUT handle of thread `tid` (16 R278). -/
def State.bindStatus (s : State) (tid size cap cons consQ : Nat) : Nat :=
  let c := s.th (s.savedAs cons)
  let r := c.ring consQ
  if c.slot = .vacant || r.kind ≠ .inn then 1
  else if clidOf (cidOf cons) ≠ clidOf (cidOf tid) || c.tenant ≠ (s.th tid).tenant then 3
  else if r.size ≠ size || r.cap ≠ cap then 2
  else 0

/-- The bindings that are on their way to a channel. -/
def State.bindsTo (s : State) (cons consQ : Nat) : Nat :=
  s.flight.countP fun p => match p.2 with
    | .bind _ _ _ _ c q _ => decide (c = cons) && decide (q = consQ)
    | _ => false

/-- A QBIND of an OUT handle goes to the consumer's channel, which performs the bindings in the order of their arrival, and its status
register is busy until then (16 R278, 25 R374). A third OUT handle traps; while it depends on bindings that are on their way whether it
is a third, the QBIND waits, which is the model's choice (notes/assumptions/26.md). -/
def State.bindOut (s : State) (q size cap : Nat) (a : Word) (d : XReg) : R := do
  let cons := Fld a 24 0
  let consQ := Fld a 34 32
  let fits := s.bindStatus s.cur size cap cons consQ = 0
  let n := ((s.th (s.savedAs cons)).ring consQ).prods.length
  waitIf (fits && decide (n < 2) && decide (2 ≤ n + s.bindsTo cons consQ)) onAnswer
  ringIf (fits && decide (2 ≤ n)) q
  pure ((s.updMe fun t => t.setBusy d.val true).post (.bind s.cur q size cap cons consQ d.val))

/-- The consumer's channel performs a binding; the producer becomes current where the channel has none, and awaits none by a SEAM (07
R130; 16 R278). -/
def State.bindAt (s : State) (tid q size cap cons consQ : Nat) : State :=
  let c := (s.th cons).ring consQ
  let s := s.updRing tid q fun _ =>
    { kind := .out, size := size, cap := cap, cons := cons, consQ := consQ, free := cap, consBound := c.bound }
  let s := s.updRing cons consQ fun r => { r with prods := r.prods ++ [(tid, q)] }
  if c.cur.isNone || (c.merge.isNone && !s.hasCurrent cons consQ) then s.makeCurrent cons consQ (tid, q) else s

/-- An answer lands in its status register (20 R335). -/
def State.landStatus (s : State) (tid reg st : Nat) : State :=
  s.updTh tid fun t => (t.setReg reg (BitVec.ofNat 64 st)).setBusy reg false

/-- A QBIND of an OUT handle has come to the consumer's channel: it is performed or refused, and the status lands. An exited thread binds
nothing. One that finds two producers, where a splice has brought the second, waits until one has left (notes/assumptions/26.md). -/
def State.bindArrives (s : State) (id tid q size cap cons consQ reg : Nat) : State :=
  let st := s.bindStatus tid size cap cons consQ
  let c := s.savedAs cons
  if (s.th tid).exited then s.dropItem id
  else if st ≠ 0 then (s.dropItem id).landStatus tid reg st
  else if 2 ≤ ((s.th c).ring consQ).prods.length then s
  else ((s.dropItem id).bindAt tid q size cap c consQ).landStatus tid reg 0

def execQbind (q : Fin 8) (kind sz : Fin 4) (lc : Fin 8) (d a : XReg) (s : State) : Out :=
  s.issue fun s => do
    s.need [xplace a] [xplace d]
    let w := s.readX a
    waitIf (s.binding q.val) onAnswer
    raiseIf (decide (2 ≤ kind.val) && (decide (Fld w 31 25 ≠ 0) || decide (Fld w 63 35 ≠ 0))) 0x01 s.iss.word
    ringIf ((s.src.ring q.val).kind ≠ .unbound) q.val
    let size := ringSize sz.val
    let cap := 2 ^ (lc.val + 1)
    match kind.val with
    | 0 => s.bindOwn .loc q.val size cap w d
    | 1 => s.bindOwn .inn q.val size cap w d
    | _ => s.bindOut q.val size cap w d

def execQunbind (q : Fin 8) (g : Fin 8) (s : State) : Out :=
  s.issueC g fun s => do
    let r := s.me.ring q.val
    waitIf (s.binding q.val) onAnswer
    ringIf (r.kind = .unbound) q.val
    ringIf (r.kind = .inn && !r.prods.isEmpty) q.val
    ringIf (r.kind = .out && ((s.consumer r).merge.any fun m => m.newTid = s.cur && m.newQ = q.val)) q.val
    pure (s.unbind s.cur q.val)

def ringKindCode : RingKind → Nat
  | .unbound => 0 | .loc => 1 | .inn => 2 | .out => 3

/-- The QSTAT word (16 R282). -/
def State.ringStat (s : State) (q : Nat) : Word :=
  let r := s.src.ring q
  if r.kind = .unbound then 0
  else
    let own := r.kind = .loc || r.kind = .inn
    BitVec.ofNat 64
      (ringKindCode r.kind * 2 ^ 62 + (Nat.log2 r.size - 3) * 2 ^ 60 + Nat.log2 r.cap * 2 ^ 56 +
        (own && decide (1 ≤ r.filled) && (r.slotBits r.head).mark).toNat * 2 ^ 55 +
        (r.kind = .out && s.isCurrent s.cur q).toNat * 2 ^ 54 +
        (r.kind = .inn && r.merge.isSome).toNat * 2 ^ 53 +
        (r.kind = .inn && decide (r.prods.length = 2)).toNat * 2 ^ 52 +
        r.staged.length * 2 ^ 32 + (if own then r.head else 0) * 2 ^ 24 +
        (if r.kind = .inn then 0 else r.tail) * 2 ^ 16 + (if own then r.filled else r.cap - r.free))

def execQstat (d : XReg) (q : Fin 8) (g : Fin 8) (s : State) : Out :=
  s.issueC g fun s => do
    s.need [] [xplace d]
    pure (s.writeX d (s.ringStat q.val))

/-! ### Advancing (16 R281) -/

/-- A typed slot that is popped while its TX differs from the thread's traps (01 R25). -/
def State.popCheck (s : State) (q n : Nat) : Except Stop Unit :=
  match (List.range n).findSome? fun i => s.txOf (.slot q i) with
  | some st => .error st
  | none => .ok ()

def execQpop (k q : Fin 8) (g : Fin 8) (s : State) : Out :=
  s.issueC g fun s => do
    let r := s.src.ring q.val
    let n := k.val + 1
    ringIf ((r.kind ≠ .loc && r.kind ≠ .inn) || decide (r.cap < n)) q.val
    allOf [s.headHeld q.val, waitIf (decide (r.filled < n)) (s.emptyRing q.val)]
    s.popCheck q.val n
    pure (s.popRing s.cur q.val n)

def execQpush (k q : Fin 8) (g : Fin 8) (s : State) : Out :=
  s.issueC g fun s => do
    let r := s.src.ring q.val
    let n := k.val + 1
    if n ≤ r.cap || s.binding q.val then s.pushHeld q.val n else pure ()
    ringIf ((r.kind ≠ .loc && r.kind ≠ .out) || decide (r.cap < n)) q.val
    if r.kind = .loc then do
      waitIf (decide (r.cap - r.filled < n)) (s.fullRing r)
      pure (s.updRing s.cur q.val fun r => { r with tail := (r.tail + n) % r.cap, filled := r.filled + n })
    else do
      s.pushEnded q.val
      let staged := (s.me.ring q.val).staged
      pure (s.pushOut s.cur q.val ((List.range n).map fun i => lookup (blankSlot s.cur) staged i))

/-! ### Moving records (07 R135, R136 to R138) -/

/-- A thread with STAGE 0 traps (07 R129). -/
def State.stageNo (s : State) : Nat := Fld s.src.sys.stage 11 0

/-- The head slot of q0 moves to the tail of q1, with its bits: the record's sender stays its first writer, the model's choice
(notes/assumptions/26.md). -/
def State.forwardHead (s : State) (tid : Nat) : State :=
  let x := s.headSlot ((s.th tid).ring 0)
  (s.popRing tid 0 1).pushOut tid 1 [x]

def execQfwd (g : Fin 8) (s : State) : Out :=
  s.issueC g fun s => do
    let a := s.src.ring 0
    let b := s.src.ring 1
    allOf [s.headRead 0, s.headHeld 0, s.pushHeld 1 1]
    ringIf (s.stageNo = 0) 0
    ringIf (a.kind ≠ .inn) 0
    ringIf (b.kind ≠ .out) 1
    ringIf (a.filled = 0) 0
    ringIf (decide (b.size < a.size) || ((a.slotBits a.head).mark && decide (b.size < 32)) || !b.staged.isEmpty) 1
    s.pushEnded 1
    s.popCheck 0 1
    pure (s.forwardHead s.cur)

/-- A control record of 07 R131. -/
structure Control where
  w0 : Word
  newThr : Nat
  orig : Nat
  tx : Bool
  deriving DecidableEq, Repr

def Control.kind (c : Control) : Nat := Fld c.w0 63 60
def Control.op (c : Control) : Nat := Fld c.w0 59 58
def Control.inh (c : Control) : Nat := Fld c.w0 57 56
def Control.targetStage (c : Control) : Nat := Fld c.w0 47 36
def Control.newStage (c : Control) : Nat := Fld c.w0 35 24
def Control.snum (c : Control) : Nat := Fld c.w0 15 0

def Control.ofSlot (x : Staged) : Control :=
  ⟨BitVec.ofNat 64 x.data, x.data / 2 ^ 64 % 2 ^ 25, x.data / 2 ^ 128 % 2 ^ 25, x.bits.tx⟩

/-- The record as a marked, untyped slot. -/
def Control.slot (c : Control) (sender : Nat) : Staged :=
  ⟨c.w0.toNat + c.newThr * 2 ^ 64 + c.orig * 2 ^ 128, ⟨true, c.tx, false, sender⟩⟩

/-- The record with another KIND and REASON. -/
def Control.as (c : Control) (kind reason : Nat) : Control :=
  { c with w0 := BitVec.ofNat 64 (setBits (setBits c.w0.toNat 63 60 kind) 55 48 reason) }

/-- The splice message of 07 R144. -/
def State.tellOrigin (s : State) (c : Control) (result : Nat) : State :=
  let w0 := result * 2 ^ 56 + c.op * 2 ^ 54 + c.targetStage * 2 ^ 36 + c.snum
  s.post (.hardware 0 ⟨s.cur, 0, 0, false, s.src.tx, [BitVec.ofNat 64 w0, BitVec.ofNat 64 s.cur], c.orig, false, 0⟩)

/-- X waits, not ready on message, on its empty q0 (07 R137). -/
def Thread.heldOnQ0 (t : Thread) : Bool :=
  t.issuing && (t.wait.any fun w => w.cls = .msg && w.ring = some 0) && (t.ring 0).filled = 0

/-- X's group is pre-empted (07 R137). -/
def State.preempted (s : State) (tid : Nat) : Bool :=
  let t := s.th tid
  t.slot = .saved || (t.grp.any fun g => (s.group (pkgOf (cidOf tid)) g).any fun x => x.state ≠ .running)

/-- NOT-PRIMED for an X that a record names (07 R137): `r` is the commit stage's q1 and `m` the merge channel. -/
def State.unprimed (s : State) (c : Control) (r : Ring) (m : Nat × Nat) : Bool :=
  let x := s.th c.newThr
  let q0 := x.ring 0
  let q1 := x.ring 1
  !x.live || Fld x.sys.stage 11 0 ≠ c.newStage || q0.kind ≠ .inn || !q0.prods.isEmpty ||
    q0.cur.isSome || decide (0 < q0.filled) || q0.size ≠ r.size || q0.cap ≠ r.cap || q1.kind ≠ .out || (q1.cons, q1.consQ) ≠ m ||
    q1.consBound ≠ ((s.th m.1).ring m.2).bound

/-- STATE: the declared areas do not allow the inheritance; `src` is the thread that holds the state (07 R137). -/
def State.badState (s : State) (c : Control) (src : Nat) : Bool :=
  let x := s.th c.newThr
  match c.inh with
  | 1 => match (s.th src).inherit, x.inherit with
    | some a, some b => decide (a.2 ≠ b.2)
    | _, _ => true
  | 2 => (s.th src).inherit.isNone || decide (cidOf c.newThr ≠ cidOf src)
  | _ => false

/-- The checks of 07 R137 at the commit stage, in table order: the first reason, 0 where all pass. Where the channel that Y's q1 fed has been
unbound, there is no M: nothing is pending there, and the splice is NOT-PRIMED, which is the model's choice (notes/assumptions/26.md). -/
def State.spliceReason (s : State) (c : Control) : Nat :=
  let r := s.src.ring 1
  let insert := c.op = 0
  let y := s.consumer r
  let yt := s.th r.cons
  let yq := yt.ring 1
  let mch : Nat × Nat := if insert then (r.cons, r.consQ) else (yq.cons, yq.consQ)
  let m := if insert then y else s.consumer yq
  let gone := !insert && (m.kind ≠ .inn || m.bound ≠ yq.consBound)
  if r.kind ≠ .out || (!insert && yq.kind ≠ .out) then 2
  else if (!gone && m.merge.isSome) || (!insert && yt.drain.isSome) then 7
  else if gone then 3
  else if c.op = 1 then (if m.size ≠ r.size || m.cap ≠ r.cap then 3 else 0)
  else if s.unprimed c r mch then 3
  else if s.preempted c.newThr then 5
  else if !(s.th c.newThr).heldOnQ0 then 4
  else if s.badState c (if insert then s.cur else r.cons) then 6
  else 0

/-- The stage-state area of a thread as its own later loads would read it: what its store buffer holds comes first (07 R142, 08
R149). -/
def State.stageState (s : State) (tid : Nat) : Arriving :=
  match (s.th tid).inherit with
  | none => ⟨[], [], []⟩
  | some a =>
    let k := keyLocal (cidOf tid) a.1
    { data := (List.range a.2).map fun i =>
        if s.hidden (k + i) then 0 else (youngest (s.th tid).sb s.serial (k + i)).getD (readByte s.mem (k + i))
      full := (List.range (a.2 / 8)).map fun i => s.isFull (k + 8 * i)
      bad := (List.range (a.2 / 8)).filter fun i => s.poison.contains (k / 8 + i) }

/-- A copied stage state lands in the area of a new stage, with its full/empty bits and its poison (07 R142, 12 R210). -/
def State.landState (s : State) (tid : Nat) (x : Arriving) : State :=
  match (s.th tid).inherit with
  | none => s
  | some a =>
    let k := keyLocal (cidOf tid) a.1
    let s := s.storeAt k x.data
    let s := (x.full.zipIdx).foldl (fun (s : State) p => s.setFull (k + 8 * p.2) p.1) s
    x.bad.foldl (fun (s : State) i => s.writePoison (k + 8 * i)) s

/-- The commit of 07 R138, after its checks. -/
def State.commitSplice (s : State) (c : Control) : State :=
  let me := s.cur
  let r := s.me.ring 1
  let s := s.pushOut me 1 [(c.as 1 0).slot me]
  let bindTo (s : State) (cons consQ : Nat) : State :=
    let s := s.updRing me 1 fun x =>
      { x with cons := cons, consQ := consQ, tail := 0, staged := [], free := 0, consBound := ((s.th cons).ring consQ).bound, term := 0 }
    s.updRing cons consQ fun x => { x with prods := x.prods ++ [(me, 1)] }
  let drop (s : State) (cons consQ : Nat) (p : Nat × Nat) : State :=
    s.updRing cons consQ fun x => { x with prods := x.prods.filter fun q => decide (q ≠ p) }
  let merge (s : State) (m : Nat × Nat) (new : Nat) : State :=
    s.updRing m.1 m.2 fun x => { x with merge := some ⟨c.snum, c.orig, new, 1⟩ }
  if c.op = 0 then
    let s := drop s r.cons r.consQ (me, 1)
    let s := merge s (r.cons, r.consQ) c.newThr
    let s := (bindTo s c.newThr 0).makeCurrent c.newThr 0 (me, 1)
    if c.inh = 1 then s.updTh c.newThr fun t => { t with inheriting := true, arriving := some (s.stageState me) } else s
  else
    let y := r.cons
    let yq := (s.th y).ring 1
    let s := drop s y r.consQ (me, 1)
    let s := s.updTh y fun t => { t with drain := some { snum := c.snum, orig := c.orig, inh := c.inh, x := c.newThr } }
    let s := merge s (yq.cons, yq.consQ) (if c.op = 1 then me else c.newThr)
    if c.op = 1 then bindTo s yq.cons yq.consQ
    else
      let s := (bindTo s c.newThr 0).makeCurrent c.newThr 0 (me, 1)
      if c.inh = 0 then s else s.updTh c.newThr fun t => { t with inheriting := true }

/-- A splice that fails: the record becomes SPLICE-FAILED and travels on, or stays for the sink to pop (07 R143). -/
def State.failSplice (s : State) (c : Control) (reason : Nat) (out : Bool) : State :=
  let r := s.me.ring 0
  let s := s.storeAt (r.slotKey r.head) (toBytes 8 (c.as 2 reason).w0.toNat)
  let s := s.tellOrigin c reason
  if out then s.forwardHead s.cur else s

/-- QSEAM (07 R136 to R138, R143; 16 R283): it waits for a record in q0 and a free slot in q1, and only then checks. It reads the slot
at q0's head, as a read of an IN slot (08 R147, R155). -/
def execQseam (d : XReg) (g : Fin 8) (s : State) : Out :=
  s.issueC g fun s => do
    let a := s.src.ring 0
    let b := s.src.ring 1
    let out := b.kind = .out
    let own := a.kind = .inn || a.kind = .loc
    allOf [s.waits [] [xplace d], s.headRead 0, s.headHeld 0, waitIf (own && a.filled = 0) (s.emptyRing 0), s.pushHeld 1 1]
    ringIf (s.stageNo = 0 || !own) 0
    if out then s.pushEnded 1 else pure ()
    let x := s.headSlot a
    let c := Control.ofSlot x
    ringIf (!x.bits.mark || c.kind ≠ 0) 0
    ringIf (out && (decide (b.size < 32) || !b.staged.isEmpty)) 1
    let atCommit :=
      if c.op = 0 then s.stageNo = c.targetStage
      else out && Fld (s.th b.cons).sys.stage 11 0 = c.targetStage
    if !atCommit then
      if out then do
        ringIf (decide (b.size < a.size)) 1
        pure ((s.forwardHead s.cur).writeX d 0xFF)
      else pure ((s.failSplice c 1 out).writeX d 1)
    else
      let reason := s.spliceReason c
      if reason ≠ 0 then do
        ringIf (out && decide (b.size < a.size)) 1
        pure ((s.failSplice c reason out).writeX d (BitVec.ofNat 64 reason))
      else pure ((((s.commitSplice c).popRing s.cur 0 1).tellOrigin c 0).writeX d 0)

/-- QINHERIT (07 R142, 16 R283). -/
def execQinherit (b n : XReg) (g : Fin 8) (s : State) : Out :=
  s.issueC g fun s => do
    s.need [xplace b, xplace n] []
    let base := s.readX b
    let len := (s.readX n).toNat
    if len = 0 then pure (s.updMe fun t => { t with inherit := none })
    else do
      raiseIf (decide (len % 8 ≠ 0) || decide (65536 < len) || decide (0x30000 < base.toNat + len)) 0x03 base
      raiseIf (decide (base.toNat % 8 ≠ 0)) 0x05 base
      pure (s.updMe fun t => { t with inherit := some (base.toNat, len) })

/-- MARKRET (07 R134). The fetch buffer refills from the target (08 R158). -/
def execMarkret (g : Fin 8) (s : State) : Out :=
  s.issueJ g fun s => do
    let t := s.src
    ringIf (!t.markActive) 0
    raiseIf (decide (t.sys.markpc.toNat % 8 ≠ 0)) 0x05 t.sys.markpc
    pure ((s.jump t.sys.markpc).updMe fun t => { t with markActive := false, fetch := [] })

/-- SPLICE builds its record and pushes it (07 R132, 16 R284); `rs` is the register that it reads. -/
def State.splice (s : State) (rs : List Place) (q op inh snum target newStage : Nat) (newThr : Word) : R := do
  let r := s.src.ring q
  allOf [s.waits rs [], s.pushHeld q 1]
  raiseIf (decide (Fld newThr 63 25 ≠ 0)) 0x01 s.iss.word
  ringIf (r.kind ≠ .out || decide (r.size < 32) || !r.staged.isEmpty) q
  s.pushEnded q
  let w0 := op * 2 ^ 58 + inh * 2 ^ 56 + target * 2 ^ 36 + newStage * 2 ^ 24 + snum
  let c : Control := ⟨BitVec.ofNat 64 w0, Fld newThr 24 0, s.cur, s.src.tx⟩
  pure (s.pushOut s.cur q [c.slot s.cur])

def execSpliceInsert (q : Fin 8) (inh : Fin 4) (snum : BitVec 16) (target newstage : BitVec 12) (nt : XReg) (s : State) : Out :=
  s.issue fun s => s.splice [xplace nt] q.val 0 inh.val snum.toNat target.toNat newstage.toNat (s.readX nt)

def execSpliceRemove (q : Fin 8) (snum : BitVec 16) (target : BitVec 12) (s : State) : Out :=
  s.issue fun s => s.splice [] q.val 1 0 snum.toNat target.toNat 0 0

def execSpliceRebind (q : Fin 8) (inh : Fin 4) (snum : BitVec 16) (target newstage : BitVec 12) (nt : XReg) (s : State) : Out :=
  s.issue fun s => s.splice [xplace nt] q.val 2 inh.val snum.toNat target.toNat newstage.toNat (s.readX nt)

/-! ### Events -/

/-- No older record of the same channel is on its way (03 R69). -/
def State.firstRecord (s : State) (id cons consQ : Nat) : Bool :=
  s.flight.all fun p => match p.2 with
    | .record _ _ c q _ _ => !(decide (p.1 < id) && decide (c = cons) && decide (q = consQ))
    | _ => true

/-- RING_RECORD_ARRIVAL (03 R69, 08 R155). The record of a channel that is unbound by then is lost; one of a saved consumer
waits for its resume. -/
def execRingRecordArrival (id : Nat) (s : State) : Out :=
  match s.item id with
  | some (.record _ _ cons q bnd x) =>
    let t := s.th cons
    let r := t.ring q
    if !s.firstRecord id cons q || t.slot = .saved then .next s
    else if r.kind ≠ .inn || r.bound ≠ bnd then .next (s.dropItem id)
    else
      let s := s.storeAt (r.slotKey r.tail) (toBytes r.size x.data)
      let s := s.updRing cons q fun r =>
        { r with bits := insert r.bits (r.tail % r.cap) x.bits, tail := (r.tail + 1) % r.cap, filled := r.filled + 1 }
      .next (s.dropItem id)
  | _ => .next s

/-- RING_CREDIT_RETURN (16 R281). Free slots of an earlier term have been counted already as the present one began. -/
def execRingCreditReturn (id : Nat) (s : State) : Out :=
  match s.item id with
  | some (.credit tid q term k) =>
    let r := (s.th tid).ring q
    let s := s.dropItem id
    if r.kind = .out && r.term = term then .next (s.updRing tid q fun r => { r with free := r.free + k })
    else .next s
  | _ => .next s

/-- SEAM_TAKE (07 R139, R141). -/
def execSeamTake (tid q : Nat) (s : State) : Out :=
  let t := s.th tid
  let r := t.ring q
  match r.kind, r.merge with
  | .inn, some m =>
    if s.seamAtHead r && t.slot ≠ .saved then
      let s := s.updRing tid q fun r => { r with head := (r.head + 1) % r.cap, filled := r.filled - 1, merge := none }
      .next (s.makeCurrent tid q (m.newTid, m.newQ))
    else .next s
  | _, _ => .next s

/-- DRAIN_THROUGH: an outgoing stage that has come to its SEAM forwards it and ends as by EXIT (07 R140). Its inheritance follows once
it has ended, in INHERITANCE_COPY. -/
def execDrainThrough (tid : Nat) (s : State) : Out :=
  let t := s.th tid
  match t.drain with
  | none => .next s
  | some d =>
    let b := t.ring 1
    if t.issuing && s.drainAtHead t 0 && (t.wait.any fun w => w.ring = some 0) && b.kind = .out && decide (1 ≤ b.free) &&
        s.mayPush tid 1 && decide (t.sb.length < 16) then
      let s := ((s.forwardHead tid).endGang tid).unbindAll tid
      .next ((s.exitThread tid).updTh tid fun t => { t with drain := if d.inh = 0 then none else some { d with ended := true } })
    else .next s

/-- The outgoing stage whose state a new stage inherits (07 R142). -/
def State.heirOf (s : State) (tid : Nat) : Option (Nat × Drain) :=
  s.threads.findSome? fun p => (p.2.drain.filter fun d => decide (d.x = tid) && decide (d.inh ≠ 0)).map fun d => (p.1, d)

/-- The outgoing stage has ended, and its stores and puts have been performed (07 R140, 17 R303). -/
def State.drainedOut (s : State) (y : Nat) (d : Drain) : Bool := d.ended && (s.th y).sb.isEmpty && s.putsAcked y s.serial

/-- INHERITANCE_COPY: the copy or move into a new stage is made (07 R142), behind the new stage's own earlier stores; that of a REBIND
once the outgoing stage has ended. A new stage that is SAVED gets it after its resume (12 R212). -/
def execInheritanceCopy (tid : Nat) (s : State) : Out :=
  let t := s.th tid
  let done (s : State) : State := s.updTh tid fun t => { t with inheriting := false, arriving := none }
  if !t.inheriting || t.slot = .saved then .next s
  else
    match s.heirOf tid with
    | some (y, d) =>
      if !s.drainedOut y d then .next s
      else
        let s' := s.updTh y fun t => { t with drain := none }
        if d.inh = 2 then .next (done (s'.updTh tid fun x => { x with inherit := (s.th y).inherit }))
        else if t.sb.isEmpty then .next (done (s'.landState tid (s.stageState y)))
        else .next s
    | none =>
      if !t.sb.isEmpty then .next s
      else .next (done (match t.arriving with
        | some x => s.landState tid x
        | none => s))

end Sys2Proof.Machine
end

