-- ==== Sys2Proof/Machine/Barriers.lean ====
section
/-! DEFINITION. Machine/Barriers.lean: barrier contexts (20 R336 to R340). -/
namespace Sys2Proof.Machine

/-- The context that an instruction of the issuing thread names; SYS is no barrier scope (09 R171, 20 R336). -/
def State.contextOf (s : State) (sc : Scope) (b : Fin 16) : Except Stop Nat := do
  raiseIf (sc = .sys) 0x01 s.iss.word
  pure (barrierKey sc (instanceOf sc s.cid) s.src.tenant b.val)

/-- The member of a group, with its place in the list. -/
def Barrier.member (b : Barrier) (pkg g : Nat) : Option Member := b.members.find? fun m => m.pkg = pkg && m.grp = g

def Barrier.setMember (b : Barrier) (m : Member) : Barrier :=
  if b.members.any fun x => x.pkg = m.pkg && x.grp = m.grp then
    { b with members := b.members.map fun x => if x.pkg = m.pkg && x.grp = m.grp then m else x }
  else { b with members := b.members ++ [m] }

/-- The generation that a group's threads wait against (20 R338). -/
def Barrier.genOf (b : Barrier) (pkg g : Nat) : BitVec 16 :=
  if b.init then b.gen
  else match b.member pkg g with
    | some m => m.gen
    | none => b.gen

/-- A ticket that a generation has passed is released (20 R338). -/
def ticketPassed (ticket gen : BitVec 16) : Bool := decide (2 ^ 15 ≤ (ticket - gen).toNat)

/-- An arrival (20 R338): its ticket, none where a member's phase and next phase are full, or a non-member's answer. -/
inductive Arrival where
  | notMember
  | full
  | ticket (t : BitVec 16) (b : Barrier)
  deriving DecidableEq, Repr

def State.arrival (s : State) (key : Nat) : Arrival :=
  let b := s.barrier key
  let pkg := pkgOf s.cid
  let g := s.src.groupNo
  let m? := if b.init then b.member pkg g else some ((b.member pkg g).getD ⟨pkg, g, 0, 0, 0, b.gen⟩)
  match m? with
  | none => .notMember
  | some m =>
    let need := if b.init then m.need else s.needOf key pkg g
    let gen := if b.init then b.gen else m.gen
    if m.cur < need then .ticket gen (b.setMember { m with cur := m.cur + 1 })
    else if m.next < need then .ticket (gen + 1) (b.setMember { m with next := m.next + 1 })
    else .full

/-- The value of BARA's ticket for a non-member (20 R339). -/
def noTicket : Word := 0x8000000000000000

/-- Arrives in a context and re-evaluates completion; `none` for a non-member. -/
def State.arrive (s : State) (key : Nat) : Except Stop (State × Option (BitVec 16)) :=
  match s.arrival key with
  | .notMember => .ok (s, none)
  | .full => .error (.wait ⟨.msg, 8, none, none⟩)
  | .ticket t b => .ok ((s.setBarrier key b).evalBarrier key, some t)

/-- The thread parks until its ticket is released, unless it is already (20 R339). -/
def State.awaitTicket (s : State) (key : Nat) (t : BitVec 16) : State :=
  if ticketPassed t ((s.barrier key).genOf (pkgOf s.cid) s.src.groupNo) then s
  else s.updMe fun x => { x with slot := .parked, park := .barrier key t.toNat }

def execBar (b : Fin 16) (sc : Scope) (g : Fin 8) (s : State) : Out :=
  s.issueC g fun s => do
    let key ← s.contextOf sc b
    let (s, t) ← s.arrive key
    match t with
    | none => pure s
    | some t => pure (s.awaitTicket key t)

def execBara (d : XReg) (b : Fin 16) (sc : Scope) (g : Fin 8) (s : State) : Out :=
  s.issueC g fun s => do
    s.need [] [xplace d]
    let key ← s.contextOf sc b
    let (s, t) ← s.arrive key
    match t with
    | none => pure (s.writeX d noTicket)
    | some t => pure (s.writeX d (t.setWidth 64))

def execBarw (x : XReg) (b : Fin 16) (sc : Scope) (g : Fin 8) (s : State) : Out :=
  s.issueC g fun s => do
    s.need [xplace x] []
    let key ← s.contextOf sc b
    let w := s.readX x
    if w = noTicket then pure s
    else do
      raiseIf (decide (Fld w 63 16 ≠ 0)) 0x01 s.iss.word
      pure (s.awaitTicket key (w.setWidth 16))

/-- A member block word's fields: V, PKG, GROUP, COUNT (20 R337). -/
def memberOf (w : Word) : Option Member :=
  if w.getLsbD 63 then some ⟨Fld w 55 48, Fld w 47 32, Fld w 12 0, 0, 0, 0⟩ else none

/-- A word of the block that traps: a reserved bit, a nonzero word without V, or a COUNT outside 1 to 4,096. -/
def badMember (w : Word) : Bool :=
  if w.getLsbD 63 then
    decide (Fld w 62 56 ≠ 0) || decide (Fld w 31 13 ≠ 0) || decide (Fld w 12 0 = 0) || decide (4096 < Fld w 12 0)
  else decide (w ≠ 0)

/-- Two members that name one group. -/
def repeated : List Member → Bool
  | [] => false
  | m :: ms => (ms.any fun x => x.pkg = m.pkg && x.grp = m.grp) || repeated ms

/-- BARI (20 R337): BUSY changes nothing; no valid word makes the context DEFAULT; otherwise it is INITIALISED. -/
def Barrier.declare (b : Barrier) (ms : List Member) : Barrier × Nat :=
  if b.members.any fun m => decide (0 < m.cur) || decide (0 < m.next) then (b, 1)
  else if ms.isEmpty then (if b.init then { b with init := false, members := [] } else b, 0)
  else ({ b with init := true, members := ms }, 0)

/-- The answer of a far agent: the register is busy until it arrives (20 R335). -/
def State.answer (s : State) (d : XReg) (st : Word) : State :=
  (s.updMe fun t => t.setBusy d.val true).post (.status s.cur d.val st)

def execBari (sc : Scope) (b : Fin 16) (d a : XReg) (s : State) : Out :=
  s.issue fun s => do
    allOf [s.need [xplace a] [xplace d], s.accessGate]
    let key ← s.contextOf sc b
    let na := s.readX a
    let k ← s.ownStore na 64 64
    let ws ← s.plainWords na.toNat k 8
    let ms := ws.filterMap memberOf
    raiseIf (ws.any badMember || repeated ms) 0x01 s.iss.word
    let (b', st) := (s.barrier key).declare ms
    pure ((s.setBarrier key b').answer d (BitVec.ofNat 64 st))

/-- A group leaves every context: an INITIALISED one without members becomes DEFAULT, and the others re-evaluate completion
(20 R337, R338). -/
def State.leaveBarriers (s : State) (pkg g : Nat) : State :=
  s.barriers.foldl (fun s p =>
    let b := s.barrier p.1
    if (b.member pkg g).isNone then s
    else
      let b := { b with members := b.members.filter fun m => !(m.pkg = pkg && m.grp = g) }
      let b := if b.members.isEmpty then { b with init := false } else b
      let s := s.setBarrier p.1 b
      if b.init then s.evalBarrier p.1 else s) s

/-- The packages of a POD context's members, which its phases join over the fabric. -/
def State.barrierPkgs (s : State) (key : Nat) : List Nat :=
  if key / 2 ^ 34 = scopeCode .pod then (s.barrier key).members.map (·.pkg) else []

/-- BARRIER_RELEASE: a thread whose ticket has been passed leaves the barrier (20 R338). In a POD context the release comes over the fabric
from the members' packages: it waits for their links, and wakes the thread's package (28 R387, R391; notes/assumptions/12.md). -/
def execBarrierRelease (tid : Nat) (s : State) : Out :=
  let t := s.th tid
  match t.park with
  | .barrier key ticket =>
    let pkg := pkgOf (cidOf tid)
    let pkgs := s.barrierPkgs key
    if t.slot ≠ .saved && ticketPassed (BitVec.ofNat 16 ticket) ((s.barrier key).genOf pkg t.groupNo) && !pkgs.any (s.unlinked pkg) then
      .next ((if pkgs.any (· ≠ pkg) then s.wakePkg pkg else s).updTh tid Thread.wake)
    else .next s
  | _ => .next s

/-- STATUS_ANSWER_ARRIVAL: the agent has acted, or, of a QBIND, acts, and the busy status register receives the answer (20 R335, 25
R374). -/
def execStatusAnswerArrival (id : Nat) (s : State) : Out :=
  match s.item id with
  | some (.bind tid q size cap cons consQ reg) => .next (s.bindArrives id tid q size cap cons consQ reg)
  | some (.status tid reg v) => .next ((s.dropItem id).updTh tid fun t => (t.setReg reg v).setBusy reg false)
  | _ => .next s

end Sys2Proof.Machine
end

