-- ==== Sys2Proof/Machine/Control.lean ====
section
/-! DEFINITION. Machine/Control.lean: transfers, register windows, the end of a thread and the fences (05 R98 to R100; 13 R215,
R217, R226; 15 R257, R258; 17 R299 to R304; 20 R349 to R351). -/
namespace Sys2Proof.Machine

/-- A C-B target: the pair's own address + 8 × OFF (13 R217). -/
def State.target (s : State) (off : BitVec 19) : Word := s.src.pc + (off.signExtend 64) * 8

/-- A target that is not 8-aligned traps with cause 0x05 (13 R215). -/
def aligned (target : Word) : Except Stop Unit := raiseIf (decide (target.toNat % 8 ≠ 0)) 0x05 target

/-! ### Windows (05 R98, R99) -/

def SysRegs.areaStart (y : SysRegs) : Nat := Fld y.wbase 31 0
def SysRegs.areaEnd (y : SysRegs) : Nat := Fld y.wlim 31 0
def SysRegs.spill (y : SysRegs) : Nat := Fld y.wlim 63 32
def SysRegs.frames (y : SysRegs) : Nat := (y.areaEnd - y.areaStart) / 128
def SysRegs.depth (y : SysRegs) : Nat := Fld y.wsp 31 0
def SysRegs.res (y : SysRegs) : Nat := Fld y.wsp 35 32
def SysRegs.setWsp (y : SysRegs) (res depth : Nat) : SysRegs :=
  { y with wsp := BitVec.ofNat 64 (res % 16 * 2 ^ 32 + depth % 2 ^ 32) }

/-- N from 2 to 8, and a 128-aligned area within the own local store (05 R98). -/
def SysRegs.windowOk (y : SysRegs) : Bool :=
  decide (2 ≤ y.frames) && decide (y.frames ≤ 8) && decide (y.areaStart % 128 = 0) && decide (y.areaEnd % 128 = 0) &&
    decide (y.areaEnd ≤ 0x30000)

/-- Key of the frame slot of saved window `f` (05 R98). -/
def frameKey (cid : Nat) (y : SysRegs) (f : Nat) : Nat := keyLocal cid (y.areaStart + f % y.frames * 128)

/-- l0 to l15 as a frame of 128 bytes (05 R98). -/
def Thread.frame (t : Thread) : List Byte := ((List.range 16).map fun i => toBytes 8 (t.reg (16 + i)).toNat).flatten

def Thread.setLocals (t : Thread) (f : Nat → Word) : Thread :=
  (List.range 16).foldl (fun t i => t.setReg (16 + i) (f i)) t

/-- The waits of 05 R99: no pending delivery into an l register, no busy l register; the thread is not ready on memory. -/
def State.localsQuiet (s : State) : Except Stop Unit :=
  allOf ((List.range 16).map fun i => match s.writeReg? (16 + i) with
    | some w => .error (.wait { w with cls := .mem })
    | none => .ok ())

/-- The window checks of CALL and the wait for a spill (05 R98 to R100). -/
def State.callReady (s : State) : Except Stop Unit := do
  let y := s.src.sys
  raiseIf (!y.windowOk) 0x03 y.wbase
  if y.res = y.frames then
    match s.src.windowFault with
    | some (c, ea) => .error (.trap c ea)
    | none => .error (.wait onMemory)
  else pure ()

/-- The window checks of RET and the wait for a fill (05 R98 to R100). -/
def State.retReady (s : State) : Except Stop Unit := do
  let y := s.src.sys
  raiseIf (!y.windowOk) 0x03 y.wbase
  raiseIf (decide (y.depth = 0)) 0x03 y.wbase
  if y.res = 0 then
    match s.src.windowFault with
    | some (c, ea) => .error (.trap c ea)
    | none => .error (.wait ⟨.mem, 1, none, some 8⟩)
  else pure ()

/-- The rotation of CALL, the link into g15 and the transfer (05 R99, 17 R302). -/
def State.rotateCall (s : State) (tid : Nat) (target : Word) : State :=
  let t := s.th tid
  let y := t.sys
  let s := s.storeAt (frameKey (cidOf tid) y y.depth) t.frame
  s.updTh tid fun t =>
    let t := t.setLocals fun _ => 0
    let t := t.setReg 15 (t.pc + 8)
    { t with sys := y.setWsp (y.res + 1) (y.depth + 1), pc := target, rotate := none, wait := none, windowFault := none }

/-- The rotation of RET and the transfer (05 R99, 17 R302). The words of a frame that a window fill brought in poisoned are taken without
cause 0x0B, which is the model's choice (02 R58, 12 R210; notes/assumptions/26.md). -/
def State.rotateRet (s : State) (tid : Nat) (target : Word) : State :=
  let y := (s.th tid).sys
  let k := frameKey (cidOf tid) y (y.depth - 1)
  s.updTh tid fun t =>
    let t := t.setLocals fun i => BitVec.ofNat 64 (s.load (k + 8 * i) 8)
    { t with sys := y.setWsp (y.res - 1) (y.depth - 1), pc := target, rotate := none, wait := none, windowFault := none }

/-- The rotation follows the A slot's writes; a long-latency one into an l register holds it back (13 R226). -/
def State.rotateOr (s : State) (r : Rotation) : State :=
  if s.me.busy.toNat / 2 ^ 16 ≠ 0 then s.updMe fun t => { t with rotate := some r, wait := some onMemory }
  else
    match r with
    | .call target => s.rotateCall s.cur target
    | .ret target => s.rotateRet s.cur target

/-! ### Transfers -/

def execCnop (g : Fin 8) (s : State) : Out := s.issueC g fun s => .ok s
def execAnop (s : State) : Out := s.issueA fun s => .ok s

def execBr (off : BitVec 19) (s : State) : Out := s.issueJ 0 fun s => .ok (s.jump (s.target off))

def execBrp (p : PReg) (sense : Bool) (off : BitVec 19) (s : State) : Out :=
  s.issueJ 0 fun s => if s.src.pred p.val = sense then .ok (s.jump (s.target off)) else .ok s.advance

/-- LOOP (17 R301). -/
def execLoop (c : PReg) (off : BitVec 19) (s : State) : Out :=
  s.issueJ 0 fun s => do
    s.need [.reg c.val] [.reg c.val]
    let x := s.src.reg c.val
    if x = 0 then pure s.advance
    else
      let s' := s.updMe fun t => t.setReg c.val (x - 1)
      if x - 1 ≠ 0 then pure (s'.jump (s.target off)) else pure s'.advance

def execCall (off : BitVec 19) (s : State) : Out :=
  s.issueJ 0 fun s => do
    allOf [s.need [] [.reg 15], s.localsQuiet]
    s.callReady
    pure (s.rotateOr (.call (s.target off)))

def execCalli (x : XReg) (g : Fin 8) (s : State) : Out :=
  s.issueJ g fun s => do
    allOf [s.need [xplace x] [.reg 15], s.localsQuiet]
    s.callReady
    aligned (s.readX x)
    pure (s.rotateOr (.call (s.readX x)))

def execRet (x : XReg) (g : Fin 8) (s : State) : Out :=
  s.issueJ g fun s => do
    allOf [s.need [xplace x] [], s.localsQuiet]
    s.retReady
    aligned (s.readX x)
    pure (s.rotateOr (.ret (s.readX x)))

def execJmpi (x : XReg) (g : Fin 8) (s : State) : Out :=
  s.issueJ g fun s => do
    s.need [xplace x] []
    aligned (s.readX x)
    pure (s.jump (s.readX x))

/-- EXIT (17 R303): the thread issues nothing more; SLOT_VACATE frees the slot. -/
def execExit (g : Fin 8) (s : State) : Out :=
  s.issueC g fun s => .ok ((s.exitThread s.cur).updMe fun t => { t with gang := none })

/-! ### Traps and returns -/

/-- TRAP (20 R350): EPC names the following pair, and the A slot takes effect. -/
def execTrap (imm : BitVec 12) (s : State) : Out :=
  s.conclude (.ok (s.enterTrap s.cur (s.src.pc + 8) 0x0E (imm.setWidth 64)))

/-- ERET (20 R349). -/
def execEret (g : Fin 8) (s : State) : Out :=
  s.issueJ g fun s => do
    s.needSup
    aligned s.src.sys.epc
    pure (s.leaveTrap s.cur)

/-- IFENCE (20 R351): every earlier store is in the store buffer once its pair has issued. It waits for an acquire whose value has not
come, since later pairs are fetched afresh after every write that the thread has acquired (08 R158). -/
def execIfence (g : Fin 8) (s : State) : Out :=
  s.issueC g fun s => do
    waitIf (s.acquiring s.cur) onMemory
    pure (s.updMe fun t => { t with fetch := [] })

/-! ### Fences -/

/-- PFENCE (15 R258). -/
def execPfence (g : Fin 8) (s : State) : Out :=
  s.issueC g fun s => do
    waitIf (!s.putsAcked s.cur s.serial) onMemory
    pure s

/-- FENCE (08 R153, 15 R257). With one memory for every observer, the waits of every scope are the same (notes/assumptions/7.md).
-/
def execFence (sc : Scope) (g : Fin 8) (s : State) : Out :=
  s.issueC g fun s => do
    waitIf (!s.released s.cur s.serial) onMemory
    match sc with
    | .core | .quad | .cluster | .die | .pkg | .pod | .sys => pure s

end Sys2Proof.Machine
end

