-- ==== Sys2Proof/Machine/Tasks.lean ====
section
/-! DEFINITION. Machine/Tasks.lean: ready queues, sleep tables and timers (11 R199 to R201; 20 R335, R343 to R345). -/
namespace Sys2Proof.Machine

/-! ### The ready queue (11 R199, R200) -/

def Core.room (c : Core) (cls : Nat) : Bool := decide (c.ready.countP (fun t => t.cls = cls) < 32)

/-- Deadline of a task word; 0 ranks latest (11 R199). -/
def Task.before (a b : Task) : Bool :=
  let da := Fld a.word 47 0
  let db := Fld b.word 47 0
  if a.cls ≠ b.cls then decide (b.cls < a.cls)
  else if db = 0 then decide (da ≠ 0)
  else decide (da ≠ 0) && earlier da db

/-- The entry that TQPOP takes: its place in insertion order. -/
def firstTask : List Task → Option Task
  | [] => none
  | t :: rest => match firstTask rest with
    | some u => if u.before t then some u else some t
    | none => some t

/-- Woken sleepers move into their classes while there is room, in table order (11 R201). -/
def Core.settle (c : Core) : Core :=
  c.sleepers.foldl (fun c e =>
    if e.woken && c.room e.cls then { c with ready := c.ready ++ [⟨e.cls, e.word⟩], sleepers := c.sleepers.erase e } else c) c

/-- Every thread of a core that SLEEP.W parked wakes once the ready queue holds an entry (20 R344). -/
def State.wakeSleepers (s : State) (cid : Nat) : State :=
  if (s.core cid).ready.isEmpty then s
  else
    (List.range 16).foldl (fun s sl =>
      if (s.th (cid * 16 + sl)).park = .sleep then s.updTh (cid * 16 + sl) Thread.wake else s) s

def State.setTasks (s : State) (cid : Nat) (c : Core) : State := (s.setCore cid c.settle).wakeSleepers cid

/-- A message's tag wakes the entries that name it (11 R201). -/
def State.wakeTag (s : State) (cid tag : Nat) : State :=
  let c := s.core cid
  if tag = 0 then s
  else s.setTasks cid { c with sleepers := c.sleepers.map fun e => if e.tag = tag then { e with woken := true } else e }

/-- The traps of 20 R335: a hob core has no ready queue, and only the owner's threads name owned queues. -/
def State.taskAccess (s : State) : Except Stop Unit := do
  raiseIf (isHob s.cid) 0x01 s.iss.word
  raiseIf ((s.core s.cid).tasksOwner.any fun g => decide (g ≠ s.src.groupNo)) 0x02 s.iss.word

/-- The first TQPUSH or SLEEP makes the issuing group the owner (11 R199). -/
def State.ownTasks (s : State) : State :=
  let c := s.core s.cid
  if c.tasksOwner.isNone then s.setCore s.cid { c with tasksOwner := some s.src.groupNo } else s

def execTqpush (d w : XReg) (c : Fin 4) (g : Fin 8) (s : State) : Out :=
  s.issueC g fun s => do
    s.need [xplace w] [xplace d]
    s.taskAccess
    let s := s.ownTasks
    let k := s.core s.cid
    if k.room c.val then
      pure ((s.setTasks s.cid { k with ready := k.ready ++ [⟨c.val, s.readX w⟩] }).writeX d 0)
    else pure (s.writeX d 1)

/-- TIME has passed a task's nonzero deadline (11 R200). -/
def Task.late (t : Task) (time : BitVec 48) : Bool :=
  let d := Fld t.word 47 0
  decide (d ≠ 0) && passed d time

def execTqpop (d e : XReg) (g : Fin 8) (s : State) : Out :=
  s.issueC g fun s => do
    s.need [] [xplace d, xplace e]
    s.taskAccess
    let k := s.core s.cid
    match firstTask k.ready with
    | none => pure ((s.writeX d 0).writeX e 1)
    | some t =>
      let s := s.setTasks s.cid { k with ready := k.ready.erase t }
      let s := if t.late s.time then s.groupRecord (pkgOf s.cid) s.src.groupNo 5 (Fld t.word 63 48) else s
      pure ((s.writeX d t.word).writeX e 0)

def execTqpeek (d e : XReg) (g : Fin 8) (s : State) : Out :=
  s.issueC g fun s => do
    s.need [] [xplace d, xplace e]
    s.taskAccess
    match firstTask (s.core s.cid).ready with
    | none => pure ((s.writeX d 0).writeX e 1)
    | some t => pure ((s.writeX d t.word).writeX e 0)

/-- SLEEP records its entry; tag 0 records nothing (11 R201, 20 R344). -/
def State.sleepEntry (s : State) (d w t : XReg) (c : Fin 4) : R := do
  s.need [xplace w, xplace t] [xplace d]
  let tag := s.readX t
  raiseIf (decide (Fld tag 63 16 ≠ 0)) 0x01 s.iss.word
  s.taskAccess
  let s := s.ownTasks
  let k := s.core s.cid
  if tag = 0 then pure (s.writeX d 0)
  else if 32 ≤ k.sleepers.length then pure (s.writeX d 1)
  else pure ((s.setCore s.cid { k with sleepers := k.sleepers ++ [⟨tag.toNat, s.readX w, c.val, false⟩] }).writeX d 0)

def execSleep (d w t : XReg) (c : Fin 4) (g : Fin 8) (s : State) : Out := s.issueC g fun s => s.sleepEntry d w t c

/-- SLEEP.W parks until the ready queue is not empty, whatever the status (20 R344). -/
def execSleepW (d w t : XReg) (c : Fin 4) (g : Fin 8) (s : State) : Out :=
  s.issueC g fun s => do
    let s ← s.sleepEntry d w t c
    if (s.core s.cid).ready.isEmpty then pure (s.updMe fun t => { t with slot := .parked, park := .sleep }) else pure s

/-! ### Timers (05 R110, 20 R345) -/

/-- Writes TIMER and cancels a pending cause 0x0F (20 R345). -/
def Thread.setTimer (t : Thread) (w : Word) : Thread :=
  { t with sys := { t.sys with timer := w }, pending := { t.pending with timer := false } }

/-- An armed TIMER word with a target. -/
def timerWord (target : Nat) : Word := BitVec.ofNat 64 (2 ^ 63 + target % 2 ^ 48)

def State.armTimer (s : State) (d src : XReg) (base : Nat) : R := do
  s.need [xplace src] [xplace d]
  let w := s.readX src
  raiseIf (decide (Fld w 63 48 ≠ 0)) 0x01 s.iss.word
  pure ((s.writeX d s.src.sys.timer).updMe fun t => t.setTimer (timerWord (base + Fld w 47 0)))

def execTimer (d x : XReg) (g : Fin 8) (s : State) : Out := s.issueC g fun s => s.armTimer d x s.time.toNat
def execTimerAbs (d x : XReg) (g : Fin 8) (s : State) : Out := s.issueC g fun s => s.armTimer d x 0

def execTimerOff (d : XReg) (g : Fin 8) (s : State) : Out :=
  s.issueC g fun s => do
    s.need [] [xplace d]
    let old := s.src.sys.timer
    pure ((s.writeX d old).updMe fun t => t.setTimer (BitVec.ofNat 64 (setBits old.toNat 63 63 0)))

end Sys2Proof.Machine
end

