-- ==== Sys2Proof/Machine/Embers.lean ====
section
/-! DEFINITION. Machine/Embers.lean: power shares, lending and operating points (10 R174 to R187; 20 R341). -/
namespace Sys2Proof.Machine

/-! ### Own shares (10 R174 to R176) -/

/-- `u` units divided among `n` members (10 R175). -/
def divide (u n : Nat) : List Nat := (List.range n).map fun i => u / n + (if i < u % n then 1 else 0)

/-- Launched groups that are not SAVED, in ascending number. The groups of firmware's threads, which no launch has started, take no part in
lending, and hearth 16 holds no others (10 R174, R177, R182; 11 R194). -/
def State.launched (s : State) (pkg : Nat) : List (Nat × Group) :=
  (s.pkg pkg).groups.filter fun p => p.2.launched && p.2.state ≠ .saved

/-- The live threads of a group in ascending identifier (10 R176). -/
def State.liveThreads (s : State) (pkg g : Nat) : List Nat :=
  (s.threads.filter fun p => p.2.live && p.2.grp = some g && pkgOf (cidOf p.1) = pkg).map (·.1)

/-- The own shares of a group's live threads. -/
def State.shares (s : State) (pkg : Nat) (p : Nat × Group) : List (Nat × Nat) :=
  let ts := s.liveThreads pkg p.1
  ts.zip (divide (p.2.grant * 256) ts.length)

/-- EMBOWN of a thread. -/
def State.ownShare (s : State) (tid : Nat) : Nat :=
  let pkg := pkgOf (cidOf tid)
  match (s.th tid).grp with
  | none => 0
  | some g => match (s.launched pkg).find? fun p => p.1 = g with
    | none => 0
    | some p => lookup 0 (s.shares pkg p) tid

/-! ### Where a share goes (10 R177, R178) -/

/-- The claim of the word on which a parked STE waits. -/
def State.parkedClaim (s : State) (tid : Nat) : Option Nat :=
  let away := (s.ofThread tid).filterMap fun p => match p.2 with
    | .sync a | .refused a => if a.op = .ste then some a.key else none
    | _ => none
  let parked := ((s.parkedSyncs tid).filter fun a => a.op = .ste).map (·.key)
  ((away ++ parked).head?).bind s.claim

/-- The lock word on which a thread is parked; none where the lock is already its own, and the reply on its way. -/
def State.lockKey (s : State) (tid : Nat) : Option Nat :=
  match s.locks.find? fun q => q.waiters.any fun w => w.tid = tid with
  | some q => some q.key
  | none => (s.ofThread tid).findSome? fun p => match p.2 with
    | .access a => if a.op = .lock then some a.key else none
    | _ => none

/-- The holder's group of a lock word: none where it is free, or held on another package than the waiter's. -/
def State.holderGroup (s : State) (key pkg : Nat) : Option Nat :=
  let w := BitVec.ofNat 64 (s.load key 8)
  if w.getLsbD 63 && Fld w 55 48 = pkg then some (Fld w 47 32) else none

/-- Members of an INITIALISED barrier that have not arrived, SAVED groups apart, by group and package (10 R178). -/
def State.lateGroups (s : State) (key : Nat) : List (Nat × Nat) :=
  let late := (s.barrier key).members.filter fun m =>
    decide (m.cur < m.need) && !((s.group m.pkg m.grp).any fun x => x.state = .saved)
  inOrderOf (fun a b => decide (a.1 < b.1) || (decide (a.1 = b.1) && decide (a.2 ≤ b.2))) (late.map fun m => (m.grp, m.pkg))

/-- The row of 10 R177 for a live thread, and the groups with their packages that it awaits. -/
def State.edge (s : State) (tid : Nat) : Nat × List (Nat × Nat) :=
  let t := s.th tid
  let pkg := pkgOf (cidOf tid)
  let one (row : Nat) (g : Option Nat) : Nat × List (Nat × Nat) :=
    match g with
    | some g => (row, [(g, pkg)])
    | none => (row, [])
  match t.slot with
  | .parked => match t.park with
    | .sync => match s.parkedClaim tid with
      | some g => one 2 (some g)
      | none => (8, [])
    | .lock => one 4 (match s.lockKey tid with
      | some k => s.holderGroup k pkg
      | none => t.grp)
    | .barrier key _ => if (s.barrier key).init then (3, s.lateGroups key) else (8, [])
    | .recvs sender _ => (7, match s.groupOf sender with
      | some g => [(g, pkgOf (cidOf sender))]
      | none => [])
    | _ => (8, [])
  | .runnable => match t.wait with
    | none => (1, [])
    | some w => one w.row w.grp
  | _ => (8, [])

/-- A live thread under row 1 (10 R177). -/
def State.isActive (s : State) (tid : Nat) : Bool := (s.th tid).slot = .runnable && (s.edge tid).1 = 1

/-- The parts of a share that follow valid edges (10 R177). -/
def State.validParts (s : State) (pkg tid u : Nat) : List (Nat × Nat) :=
  let gs := (s.edge tid).2
  ((gs.zip (divide u gs.length)).filter fun p =>
    p.1.2 = pkg && (s.launched pkg).any fun x => x.1 = p.1.1).map fun p => (p.1.1, p.2)

/-! ### Holdings (10 R179, R180) -/

/-- What the bellows unit works from: each group with its grant, its active threads, and its other threads' shares with the
parts that follow valid edges. -/
structure Flow where
  num : Nat
  grant : Nat
  active : List Nat
  waiting : List (Nat × List (Nat × Nat))
  deriving DecidableEq, Repr

def State.flow (s : State) (pkg : Nat) (p : Nat × Group) : Flow :=
  let sh := s.shares pkg p
  ⟨p.1, p.2.grant, (sh.filter fun x => s.isActive x.1).map (·.1),
    (sh.filter fun x => !s.isActive x.1).map fun x => (x.2, s.validParts pkg x.1 x.2)⟩

def State.flows (s : State) (pkg : Nat) : List Flow := (s.launched pkg).map (s.flow pkg)

/-- The onward set in ascending number. -/
def Flow.onward (f : Flow) : List Nat := ((f.waiting.map fun w => w.2.map (·.1)).flatten).foldl addKey []

def dormantOf (fs : List Flow) : List Flow := fs.filter fun f => f.active.isEmpty

/-- The dormant groups that a dormant group's edges lead to. -/
def nextOf (ds : List Flow) (g : Nat) : List Nat :=
  match ds.find? fun f => f.num = g with
  | none => []
  | some f => f.onward.filter fun n => ds.any fun d => d.num = n

/-- Groups that paths of at most `fuel` edges through dormant groups lead to. -/
def reach (ds : List Flow) : Nat → List Nat → List Nat
  | 0, gs => gs
  | fuel + 1, gs => reach ds fuel ((gs.map (nextOf ds)).flatten.foldl addKey gs)

/-- The groups that lie on paths from a group, itself only where a path leads back. -/
def reachable (ds : List Flow) (g : Nat) : List Nat := reach ds ds.length ((nextOf ds g).foldl addKey [])

def cyclicOf (ds : List Flow) : List Nat := (ds.filter fun f => (reachable ds f.num).contains f.num).map (·.num)

/-- The height of a dormant group that is not cyclic, up to `fuel` (10 R179). -/
def heightOf (ds : List Flow) (cyc : List Nat) : Nat → Nat → Nat
  | 0, _ => 0
  | fuel + 1, g =>
    match ds.find? fun f => f.num = g with
    | none => 0
    | some f => if cyc.contains g then 0 else 1 + (f.onward.map (heightOf ds cyc fuel)).foldl max 0

/-- The order in which dormant groups pass their inflow on: cyclic ones, then by descending height, then by number. -/
def passOrder (ds : List Flow) (cyc : List Nat) : List Nat :=
  let h (g : Nat) : Nat := heightOf ds cyc 16 g
  let rest := (ds.map (·.num)).filter fun g => !cyc.contains g
  cyc ++ (((List.range 16).map fun i => rest.filter fun g => h g = 16 - i).flatten)

def addTo (m : List (Nat × Nat)) (k u : Nat) : List (Nat × Nat) := insert m k (lookup 0 m k + u)

/-- One dormant group passes its inflow on; the state is the inflows and the spare pool. -/
def passOn (ds : List Flow) (cyc : List Nat) (st : List (Nat × Nat) × Nat) (g : Nat) : List (Nat × Nat) × Nat :=
  let u := lookup 0 st.1 g
  let on := match ds.find? fun f => f.num = g with
    | some f => f.onward
    | none => []
  let m := insert st.1 g 0
  if cyc.contains g || decide (16 ≤ heightOf ds cyc 16 g) || on.isEmpty then (m, st.2 + u)
  else
    (on.zip (divide u on.length)).foldl (fun st p =>
      if cyc.contains p.1 then (st.1, st.2 + p.2) else (addTo st.1 p.1 p.2, st.2)) (m, st.2)

/-- Inflows and spare pool once every dormant group has passed its inflow on. -/
def inflows (fs : List Flow) : List (Nat × Nat) × Nat :=
  let ds := dormantOf fs
  let cyc := cyclicOf ds
  let shares : List (Nat × List (Nat × Nat)) := (fs.map (·.waiting)).flatten
  let start : List (Nat × Nat) × Nat := shares.foldl (fun st w =>
    let sent := (w.2.map (·.2)).foldl (· + ·) 0
    (w.2.foldl (fun m p => addTo m p.1 p.2) st.1, st.2 + (w.1 - sent))) ([], 0)
  (passOrder ds cyc).foldl (passOn ds cyc) start

/-- SpreadSpare (10 R180): what each group receives, and what stays unheld. -/
def spreadSpare (fs : List Flow) (spare : Nat) : List (Nat × Nat) × Nat :=
  let gs := fs.filter fun f => !f.active.isEmpty && decide (0 < f.grant)
  let total := (gs.map (·.grant)).foldl (· + ·) 0
  if total = 0 then ([], spare)
  else
    let base := gs.map fun f => (f.num, spare * f.grant / total)
    let left := spare - (base.map (·.2)).foldl (· + ·) 0
    ((base.zipIdx.map fun (p : (Nat × Nat) × Nat) => (p.1.1, p.1.2 + (if p.2 < left then 1 else 0))), 0)

/-- EMBHELD of every active thread, and the unheld spare units (10 R179). -/
def holdings (fs : List Flow) : List (Nat × Nat) × Nat :=
  let (m, spare) := inflows fs
  let (spread, unheld) := spreadSpare fs spare
  ((fs.map fun f => f.active.zip (divide (lookup 0 m f.num + lookup 0 spread f.num) f.active.length)).flatten, unheld)

/-! ### Cyclic sets (10 R181) -/

/-- The sets of groups that lie on common cycles. -/
def cyclicSets (ds : List Flow) : List (List Nat) :=
  let cyc := cyclicOf ds
  (cyc.map fun g => cyc.filter fun h => h = g || ((reachable ds g).contains h && (reachable ds h).contains g)).foldl
    (fun acc x => if acc.contains x then acc else acc ++ [x]) []

/-- The words of a WAIT-CYCLE message. -/
def cycleWords (set : List Nat) (time : Nat) : List Word :=
  let n := min 16 set.length
  let listed := set.take 16
  let w0 := 0x40 * 2 ^ 56 + n * 2 ^ 51 + (decide (16 < set.length)).toNat * 2 ^ 50 + time
  BitVec.ofNat 64 w0 ::
    (List.range ((n + 3) / 4)).map fun i =>
      BitVec.ofNat 64 (((List.range 4).map fun k => listed.getD (4 * i + k) 0 * 2 ^ (16 * k)).foldl (· + ·) 0)

/-- A new cyclic set is reported to hob core 66 of the cluster of its lowest group's lowest thread, and counted. -/
def State.reportCycle (s : State) (pkg : Nat) (set : List Nat) : State :=
  let s := s.updPkg pkg fun p =>
    { p with bellows := { p.bellows with cyc := true, cyccnt := min (p.bellows.cyccnt + 1) (2 ^ 32 - 1) } }
  match s.liveThreads pkg (set.headD 0) with
  | [] => s
  | t :: _ =>
    let dst := (clidOf (cidOf t) * 128 + 66) * 16
    s.post (.hardware 1 ⟨0x1FFFFFF, 0, 0, false, false, cycleWords set s.time.toNat, dst, false, 0⟩)

/-- EMBER_REDISTRIBUTION (10 R179 to R181, R186). -/
def execEmberRedistribution (pkg : Nat) (s : State) : Out :=
  let fs := s.flows pkg
  let (held, spare) := holdings fs
  let sets := cyclicSets (dormantOf fs)
  let old := (s.pkg pkg).bellows.cyclic
  let s := { s with
    threads := s.threads.map fun (p : Nat × Thread) =>
      if pkgOf (cidOf p.1) = pkg then
        (p.1, { p.2 with sys := { p.2.sys with embheld := BitVec.ofNat 64 (lookup 0 held p.1) } })
      else p }
  let s := s.updPkg pkg fun p => { p with bellows := { p.bellows with spare := spare, cyclic := sets } }
  .next ((sets.filter fun x => !old.contains x).foldl (fun s x => s.reportCycle pkg x) s)

/-! ### Operating points (10 R182 to R184, R187) -/

/-- The eight thresholds as written. -/
def Bellows.written (b : Bellows) : List Nat :=
  (List.range 4).map (fun i => Fld b.opthr0 (16 * i + 15) (16 * i)) ++
    (List.range 4).map fun i => Fld b.opthr1 (16 * i + 15) (16 * i)

/-- Thresholds that decrease anywhere, or a nonzero one for OP0, are invalid (10 R187). -/
def Bellows.badThr (b : Bellows) : Bool :=
  let t := b.written
  decide (t.headD 0 ≠ 0) || (t.zip (t.drop 1)).any fun p => decide (p.2 < p.1)

def Bellows.thresholds (b : Bellows) : List Nat :=
  if b.badThr then [0, 1024, 2048, 4096, 6144, 8192, 12288, 16384] else b.written

/-! ### Conservation (10 R186) -/

/-- The own shares of active threads of a package. -/
def State.activeUnits (s : State) (pkg : Nat) : Nat :=
  ((s.threads.filter fun p => pkgOf (cidOf p.1) = pkg && p.2.live && p.2.grp.isSome && s.isActive p.1).map fun p =>
    s.ownShare p.1).foldl (· + ·) 0

/-- What the last redistribution has left: the units held by every thread of a package, as it gave them, and the spare ones. -/
def State.lastUnits (s : State) (pkg : Nat) : Nat :=
  (s.pkg pkg).bellows.spare +
    ((s.threads.filter fun p => pkgOf (cidOf p.1) = pkg).map fun p => Fld p.2.sys.embheld 31 0).foldl (· + ·) 0

/-- Units that have gone home are still counted where the last redistribution put them. -/
def State.overdrawn (s : State) (pkg : Nat) : Bool :=
  decide (4194304 < (s.pkg pkg).bellows.free + s.activeUnits pkg + s.lastUnits pkg)

/-- EMBHELD of every thread and the unheld spare, as they read: those of the last redistribution, or those that 10 R179 gives for the state as
it is where the units of the former have gone home, so that the sum of 10 R186 holds at every read (notes/assumptions/16.md). -/
def State.heldUnits (s : State) (pkg tid : Nat) : Nat :=
  if s.overdrawn pkg then lookup 0 (holdings (s.flows pkg)).1 tid else Fld (s.th tid).sys.embheld 31 0

def State.spareUnits (s : State) (pkg : Nat) : Nat :=
  if s.overdrawn pkg then (holdings (s.flows pkg)).2 else (s.pkg pkg).bellows.spare

/-- EMBHELD of a thread. -/
def State.embHeld (s : State) (tid : Nat) : Nat := s.heldUnits (pkgOf (cidOf tid)) tid

/-- A hearth is numbered cluster × 17 + hearth over the pod. -/
def hearthPkg (h : Nat) : Nat := h / 17 / 64

/-- The hearth sum (10 R182). -/
def State.hearthSum (s : State) (h : Nat) : Nat :=
  if h % 17 = 16 then 0
  else ((s.threads.filter fun p =>
    p.2.live && p.2.grp.isSome && instanceOf .quad (cidOf p.1) = h && s.isActive p.1).map fun p =>
      s.ownShare p.1 + s.embHeld p.1).foldl (· + ·) 0

/-- The hearth's target: the highest operating point whose threshold the sum meets, lowered to CEIL, and to OP0 while the hearth is
above THOT (10 R182, 28 R390). -/
def State.hearthTarget (s : State) (h : Nat) : Nat :=
  if h % 17 = 16 then 3
  else
    let p := s.pkg (hearthPkg h)
    let sum := s.hearthSum h
    let n := (p.bellows.thresholds.zipIdx.foldl (fun best t => if t.1 ≤ sum then t.2 else best) 0)
    if p.around.capped.contains h then 0 else min n p.bellows.ceil

/-- The hearth's current operating point; compute hearths stand at OP0 at reset (10 R182). -/
def State.hearthOp (s : State) (h : Nat) : Nat := if h % 17 = 16 then 3 else lookup 0 (s.pkg (hearthPkg h)).ops h

/-- A hearth whose target differs from its operating point begins to change to it. -/
def State.beginChange (s : State) (h : Nat) : State :=
  let n := s.hearthTarget h
  s.updPkg (hearthPkg h) fun p => { p with moving := if n = s.hearthOp h then erase p.moving h else insert p.moving h n }

/-- OP_CHANGE: at one cycle boundary a change in progress completes, to the point that it began for, and where the target has moved on
since, the change to the newest one begins; a hearth without one begins the change to its target (10 R183). -/
def execOpChange (hearth : Nat) (s : State) : Out :=
  if hearth % 17 = 16 then .next s
  else
    let pkg := hearthPkg hearth
    match (s.pkg pkg).moving.find? fun p => p.1 = hearth with
    | none => .next (s.beginChange hearth)
    | some (_, n) => .next ((s.updPkg pkg fun p => { p with ops := insert p.ops hearth n }).beginChange hearth)

def State.updBellows (s : State) (pkg : Nat) (f : Bellows → Bellows) : State :=
  s.updPkg pkg fun p => { p with bellows := f p.bellows }

/-- The package's power averaged over 1 ms, in W, as PIN has it (28 R390). -/
def Surround.power (a : Surround) : Nat := Fld a.pin 47 32

/-- The average has stayed below 2,090 W for 1 ms, since it fell below or since the last step up (10 R184, 28 R389). -/
def Surround.cool (a : Surround) (time : BitVec 48) : Bool :=
  decide (a.power < 2090) && decide (1000000 ≤ (time.toNat + 2 ^ 48 - a.coolAt) % 2 ^ 48)

/-- CEIL_LOWER: while the average exceeds 2,200 W the controller's ceiling and CEIL go down one step (10 R184,
notes/assumptions/16.md). -/
def execCeilLower (pkg : Nat) (s : State) : Out :=
  if (s.pkg pkg).around.power ≤ 2200 then .next s
  else .next (s.updBellows pkg fun b => { b with ceil := b.ceil - 1, ctlCeil := b.ctlCeil - 1 })

/-- CEIL_RAISE: one step up, to 7, once the average has stayed low; not while the cracked-connection alarm stands (10 R184, 28 R389). -/
def execCeilRaise (pkg : Nat) (s : State) : Out :=
  let a := (s.pkg pkg).around
  if a.alarm || !a.cool s.time then .next s
  else
    let s := s.updAround pkg fun a => { a with coolAt := s.time.toNat }
    .next (s.updBellows pkg fun b => { b with ceil := min 7 (b.ceil + 1), ctlCeil := min 7 (b.ctlCeil + 1) })

/-- OPTHR_WRITE (10 R187). -/
def execOpthrWrite (pkg : Nat) (hi : Bool) (v : BitVec 64) (s : State) : Out :=
  s.register pkg fun s => s.updBellows pkg fun b => if hi then { b with opthr1 := v } else { b with opthr0 := v }

/-- CEIL_WRITE: a value above the controller's ceiling leaves CEIL unchanged (10 R184). -/
def execCeilWrite (pkg : Nat) (v : BitVec 64) (s : State) : Out :=
  s.register pkg fun s => s.updBellows pkg fun b => if Fld v 2 0 ≤ b.ctlCeil then { b with ceil := Fld v 2 0 } else b

/-- BSTAT_CYC_CLEAR (10 R187). -/
def execBstatCycClear (pkg : Nat) (s : State) : Out :=
  s.register pkg fun s => s.updBellows pkg fun b => { b with cyc := false }

/-- TRANSIT: what the sum of 10 R186 leaves. -/
def State.transit (s : State) (pkg : Nat) : Nat :=
  let held := (s.threads.filter fun p => pkgOf (cidOf p.1) = pkg).map fun p => s.embHeld p.1
  4194304 - ((s.pkg pkg).bellows.free + s.spareUnits pkg + s.activeUnits pkg + held.foldl (· + ·) 0)

/-! ### EMB (20 R341) -/

def execEmb (d : XReg) (g : Fin 8) (s : State) : Out :=
  s.issueC g fun s => do
    s.need [] [xplace d]
    pure (s.writeX d (BitVec.ofNat 64 (s.ownShare s.cur * 2 ^ 32 + s.embHeld s.cur)))

def execEmbHearth (d : XReg) (g : Fin 8) (s : State) : Out :=
  s.issueC g fun s => do
    s.need [] [xplace d]
    let h := instanceOf .quad s.cid
    let w := s.hearthSum h + s.hearthOp h * 2 ^ 32 + s.hearthTarget h * 2 ^ 35 +
      (s.pkg (pkgOf s.cid)).bellows.ceil * 2 ^ 38
    pure (s.writeX d (BitVec.ofNat 64 w))

end Sys2Proof.Machine
end

