-- ==== Sys2Proof/Machine/Walk.lean ====
section
/-! DEFINITION. Machine/Walk.lean: the walker of the page table (02 R46 to R51), and the bytes of a save area that it reaches (12 R213,
R214). -/
namespace Sys2Proof.Machine

/-- The cluster's root register of a tenant: space 0 private, 1 pod-shared. -/
def State.root (s : State) (clid tenant space : Nat) : Word := lookup 0 (s.cluster clid).roots (tenant * 2 + space)

/-! ### The walker (02 R47 to R50) -/

/-- How a walk ends: a fault of a KIND of 02 R53, memory that does not exist, or a leaf with its key. -/
inductive WalkEnd where
  | fault (kind : Nat)
  | noFrame
  | leaf (key : Nat) (w : Word)
  deriving DecidableEq, Repr

def kindNotValid : Nat := 0
def kindProtect : Nat := 1
def kindRights : Nat := 2
def kindMigrating : Nat := 3
def kindMalformed : Nat := 4
def kindForeign : Nat := 5

/-- A nonzero reserved field of a root or pointer entry (02 R47). -/
def badPointer (e : Word) : Bool := decide (Fld e 61 33 ≠ 0) || decide (Fld e 29 27 ≠ 0)

/-- Key of entry `i` of the node that a root or pointer entry names (02 R47). Of a merged node whose NODE has nonzero low 9 bits the
spec lists no fault: that the 18-bit index is added to it as it stands is the model's choice (notes/assumptions/17.md). -/
def entryKey (pkg : Nat) (e : Word) (i : Nat) : Nat :=
  keyFar pkg (Fld e 32 31) (Fld e 30 30) (Fld e 26 0 * 2 ^ 12 + 8 * i)

/-- Reads one entry: none where no memory holds it. -/
def State.entry (s : State) (pkg : Nat) (e : Word) (i : Nat) : Option (Nat × Word) :=
  let k := entryKey pkg e i
  if farExists k then some (k, BitVec.ofNat 64 (s.load k 8)) else none

/-- One pair of the table: index `hi` and `lo` of 9 bits each. -/
def State.walkPair (s : State) (pkg : Nat) (e : Word) (hi lo : Nat) : WalkEnd :=
  if !e.getLsbD 63 then .fault kindNotValid
  else if badPointer e then .fault kindMalformed
  else if e.getLsbD 62 then
    match s.entry pkg e (hi * 2 ^ 9 + lo) with
    | none => .noFrame
    | some r => .leaf r.1 r.2
  else
    match s.entry pkg e hi with
    | none => .noFrame
    | some (_, f) =>
      if !f.getLsbD 63 then .fault kindNotValid
      else if f.getLsbD 62 || badPointer f then .fault kindMalformed
      else match s.entry pkg f lo with
        | none => .noFrame
        | some r => .leaf r.1 r.2

/-- A nonzero reserved field of a leaf, or a 2 MiB leaf with FRAME[4:0] set (02 R48, R50). -/
def badLeaf (e : Word) : Bool :=
  decide (Fld e 17 8 ≠ 0) || decide (Fld e 5 4 ≠ 0) || (decide (Fld e 62 61 ≠ 2) && decide (Fld e 25 18 ≠ 0)) ||
    (e.getLsbD 60 && decide (Fld e 30 26 ≠ 0))

/-- The checks of a leaf, in the order of 02 R50. -/
def leafFault (pkg acc : Nat) (e : Word) : Option Nat :=
  if !e.getLsbD 63 then some kindNotValid
  else if badLeaf e then some kindMalformed
  else if Fld e 62 61 = 3 then some kindMigrating
  else if (Fld e 62 61 = 0 || Fld e 62 61 = 2) && Fld e 59 52 ≠ pkg then some kindForeign
  else if accWrites acc && !leafWritable e then some kindProtect
  else if !leafRights e acc then some kindRights
  else none

/-- A whole walk (02 R50). A leaf whose frame lies outside its tier, or that names a package which the pod does not have, ends in the
fault `noSuchFrame`: the spec gives no such memory, and that the walk stops there is the model's choice (02 R39, R51;
notes/assumptions/17.md). So is it that a walker's reads and writes pass no port of the far net (03 R66; notes/assumptions/12.md). -/
def State.walkTable (s : State) (w : Walk) : WalkEnd :=
  let root := s.root w.clid w.tenant w.pod.toNat
  let ix (hi : Nat) : Nat := w.va / 2 ^ hi % 2 ^ 9
  match s.walkPair w.pkg root (ix 43) (ix 34) with
  | .leaf _ e => match s.walkPair w.pkg e (ix 25) (ix 16) with
    | .leaf k e => match leafFault w.pkg w.acc e with
      | some kind => .fault kind
      | none => if farExists (leafKeyOf e w.va) && decide (Fld e 59 52 < s.npkg) then .leaf k e else .noFrame
    | x => x
  | x => x

/-! ### A save area (12 R213, R214) -/

/-- The key of a byte of a save area. -/
def Area.key (a : Area) (o : Nat) : Nat := a.pages.getD ((a.va % 2 ^ 16 + o) / 2 ^ 16) 0 + (a.va % 2 ^ 16 + o) % 2 ^ 16

/-- The key of a byte of a save area, as its leaf gives it now: a pager may have moved the page since the save. -/
def State.areaNow (s : State) (a : Area) (o : Nat) : Option Nat :=
  let va := a.va + o
  match s.walkTable ⟨0, a.clid, a.clid / 64, a.tenant, a.pod, va, 0, accStore, none⟩ with
  | .leaf _ e => some (leafKeyOf e va)
  | _ => none

/-- A word of a save area is written where its page translates. -/
def State.areaWord (s : State) (a : Area) (o w : Nat) : State :=
  match s.areaNow a o with
  | some k => s.storeAt k (toBytes 8 w)
  | none => s

/-- The group of a SAVED thread, with what the engine keeps of it. -/
def State.savedOf (s : State) (t : Nat) : Option (Group × Saved) :=
  let x := s.th t
  if x.slot = .saved then (s.group (pkgOf (cidOf t)) x.groupNo).bind fun g => g.saved.map fun v => (g, v) else none

/-- A register that changes in a saved context changes in the save area's record too, and the engine knows it as newer than what the
area holds (12 R213, R214). -/
def State.refreshSaved (s : State) (t i : Nat) : State :=
  let x := s.th t
  match s.savedOf t with
  | none => s
  | some (g, v) =>
    let o := 128 + 2048 * x.rank
    let s := s.setGroup (pkgOf (cidOf t)) x.groupNo { g with saved := some { v with changed := v.changed ++ [(x.rank, i)] } }
    ((s.areaWord v.area (o + 0x10 + 8 * i) (x.reg i).toNat).areaWord v.area (o + 8)
      (x.p.toNat / 2 * 2 + 1 + 2 ^ 32 * x.present.toNat)).settleLocks

end Sys2Proof.Machine
end

