-- ==== Sys2Proof/Machine/Messages.lean ====
section
/-! DEFINITION. Machine/Messages.lean: messages, inboxes, remote register writes and presence bits (05 R95, R101, R102;
16 R272 to R277). -/
namespace Sys2Proof.Machine

/-! ### Sending (16 R274) -/

/-- A pod-wide identifier that names a core of the pod, and not slot 15 (00 R4, R6; 05 R101). -/
def State.namesSlot (s : State) (tid : Nat) : Bool :=
  coreExists (cidOf tid) && decide (slotOf tid ≠ 15) && decide (pkgOf (cidOf tid) < s.npkg)

/-- A PUTR or a message leaves for its target, if there is one: for another die as a packet. -/
def State.sendTo (s : State) (id from_ to_ tenant deadline : Nat) : State :=
  if s.namesSlot to_ then s.sendAway id from_ to_ tenant deadline else s

/-- Messages in a core's send buffer. -/
def State.sendingFrom (s : State) (cid : Nat) : Nat :=
  s.flight.countP fun p => match p.2 with
    | .sending m _ => decide (cidOf m.sender = cid)
    | _ => false

def State.send (s : State) (a : SOpd) (t : XReg) (b : SOpd) (typed : Bool) : R := do
  allOf [s.waits [xplace t, a.place, b.place] [], waitIf (decide (8 ≤ s.sendingFrom s.cid)) ⟨.msg, 8, none, none⟩]
  let tw := s.readX t
  raiseIf (decide (Fld tw 31 25 ≠ 0)) 0x01 s.iss.word
  s.slotUses [a.place, b.place] []
  s.reading [a.place, b.place]
  pure (s.post (.sending
    ⟨s.cur, Fld tw 47 32, Fld tw 63 48, typed, s.src.tx, [s.readS a, s.readS b], Fld tw 24 0, true, s.src.tenant⟩ s.src.dueBy))

def execSend (a : SOpd) (t : XReg) (b : SOpd) (g : Fin 8) (s : State) : Out := s.issueC g fun s => s.send a t b false
def execSendT (a : SOpd) (t : XReg) (b : SOpd) (g : Fin 8) (s : State) : Out := s.issueC g fun s => s.send a t b true

/-- SEND_DEPARTURE: the thread's messages leave in program order, each once the release waits of 08 R152 are over; one for another die
leaves as a packet (03 R63, R66). -/
def execSendDeparture (id : Nat) (s : State) : Out :=
  match s.item id with
  | some (.sending m due) =>
    let first := s.flight.all fun p => match p.2 with
      | .sending x _ => !(decide (p.1 < id) && decide (x.sender = m.sender))
      | _ => true
    if first && s.released m.sender id then .next ((s.setItem id (.message m)).sendTo id m.sender m.dst m.tenant due)
    else .next s
  | _ => .next s

/-! ### Arriving (16 R272) -/

/-- The pager that a walk's fault message goes to: 64 of the cluster for VA[21] = 0 and 65 for the others (02 R52). -/
def Walk.pager (w : Walk) : Nat := w.clid * 128 + 64 + w.va / 2 ^ 21 % 2

/-- No older message of the same source to the same inbox is still on its way (08 R155, 16 R272); a splice message is ordered as a SEND
(13 R232), and hardware's other messages by the sender that they name. -/
def State.firstMessage (s : State) (id : Nat) (m : Msg) : Bool :=
  s.flight.all fun p => match p.2 with
    | .fault w _ => !(decide (p.1 < id) && decide (m.sender = 0x1FFFFFC) && decide (cidOf m.dst = w.pager))
    | .sending x _ | .message x | .waiting x _ | .hardware _ x =>
      !(decide (p.1 < id) && decide (x.sender = m.sender) && decide (cidOf x.dst = cidOf m.dst))
    | _ => true

/-- SEND messages hold at most 48 of the 64 entries (16 R272). -/
def Core.inboxRoom (c : Core) (m : Msg) : Bool :=
  decide (c.inbox.length < 64) && (!m.soft || decide (c.inbox.countP (fun x => x.soft) < 48))

/-- What a parked receiver waits for has come. -/
def Park.matches (p : Park) (m : Msg) : Bool :=
  match p with
  | .recvs sender seq => m.sender = sender && m.seq = seq
  | .waitm tag => tag = 0 || m.tag = tag
  | _ => false

/-- A message enters its inbox, wakes sleeping tasks with its tag and the receiver that waits for it (11 R201, 16 R275). -/
def State.enterInbox (s : State) (m : Msg) : State :=
  let cid := cidOf m.dst
  let c := s.core cid
  let s := (s.setCore cid { c with inbox := c.inbox ++ [m] }).wakeTag cid m.tag
  if (s.th m.dst).park.matches m then s.updTh m.dst Thread.wake else s

/-- A refused tenant counts on the target's die (03 R66, 05 R101). -/
def State.countTenant (s : State) (did : Nat) : State :=
  let d := s.die did
  s.setDie did { d with tenvcnt := satInc d.tenvcnt }

/-- A message for a SAVED slot waits for the group's resume (12 R213). -/
def State.keepSaved (s : State) (m : Msg) : State :=
  let m := { m with dst := s.savedAs m.dst }
  let t := s.th m.dst
  let pkg := pkgOf (cidOf m.dst)
  match s.group pkg t.groupNo with
  | some x => match x.saved with
    | some v => s.setGroup pkg t.groupNo { x with saved := some { v with msgs := v.msgs ++ [m] } }
    | none => s
  | none => s

/-- A message reaches its inbox, is discarded, is kept for a saved thread, or finds no entry and waits at its source, from where one for
another die goes again as a packet, with the deadline of its SEND (03 R63; 16 R272). -/
def State.takeIn (s : State) (id : Nat) (m : Msg) : State :=
  let t := s.th m.dst
  if !s.firstMessage id m || !s.arrived id then s
  else
    let due := (s.packetsOf id).head?.map fun q => q.2.deadline
    let s := (if m.soft then s.wakeFrom m.sender m.dst else s).landed id
    if !s.namesSlot m.dst || t.slot = .vacant || t.exited then s.dropItem id
    else if m.soft && m.tenant ≠ t.tenant then (s.dropItem id).countTenant (didOf (cidOf m.dst))
    else if t.slot = .saved then (s.dropItem id).keepSaved m
    else if (s.core (cidOf m.dst)).inboxRoom m then (s.dropItem id).enterInbox m
    else s.setItem id (.waiting m due)

/-- INBOX_ARRIVAL (16 R272). -/
def execInboxArrival (id : Nat) (s : State) : Out :=
  match s.item id with
  | some (.message m) => .next (s.takeIn id m)
  | _ => .next s

/-- INBOX_RETRY (16 R272). The message waits at its source, so that of a SEND to another die leaves as a packet again (03 R63, R66; 28
R387). -/
def execInboxRetry (id : Nat) (s : State) : Out :=
  match s.item id with
  | some (.waiting m (some due)) => .next ((s.setItem id (.message m)).sendTo id m.sender m.dst m.tenant due)
  | some (.waiting m none) => .next (s.takeIn id m)
  | _ => .next s

/-- A hardware message of one kind arrives; a splice message first makes the waits of a SEND (08 R152, 13 R232). -/
def State.hardware (s : State) (kind id : Nat) : State :=
  match s.item id with
  | some (.hardware k m) =>
    if k ≠ kind then s
    else if k ≠ 0 then s.takeIn id m
    else if s.released m.sender id && !s.unlinked (pkgOf (cidOf m.sender)) (pkgOf (cidOf m.dst)) then
      (s.wakeFrom m.sender m.dst).takeIn id m
    else s
  | _ => s

/-- SPLICE_MESSAGE (07 R144). -/
def execSpliceMessage (id : Nat) (s : State) : Out := .next (s.hardware 0 id)
/-- WAIT_CYCLE (10 R181). -/
def execWaitCycle (id : Nat) (s : State) : Out := .next (s.hardware 1 id)
/-- TENANT_REFUSED (28 R388). -/
def execTenantRefused (id : Nat) (s : State) : Out := .next (s.hardware 2 id)
/-- FABRIC_DOWN (28 R388). -/
def execFabricDown (id : Nat) (s : State) : Out := .next (s.hardware 3 id)
/-- POWER_ALARM (28 R388). -/
def execPowerAlarm (id : Nat) (s : State) : Out := .next (s.hardware 4 id)
/-- CTXS_RESULT_MESSAGE (20 R354). -/
def execCtxsResultMessage (id : Nat) (s : State) : Out := .next (s.hardware 5 id)

/-! ### Receiving (16 R275) -/

/-- The header of a message (16 R273). -/
def Msg.header (m : Msg) : Word :=
  BitVec.ofNat 64 (m.seq * 2 ^ 48 + m.tag * 2 ^ 32 + m.typed.toNat * 2 ^ 31 + m.tx.toNat * 2 ^ 30 + m.words.length * 2 ^ 27 +
    m.sender)

/-- The two words that WIN delivers. -/
def Msg.window (m : Msg) (win : Nat) : Word × Word :=
  if win = 3 then (m.header, 0) else (m.words.getD (2 * win) 0, m.words.getD (2 * win + 1) 0)

/-- Takes the oldest message of the thread that `want` admits: F[1:0] is WIN and F[2] KEEP; `none` waits or parks. -/
def State.receive (s : State) (d e : XReg) (f : Fin 8) (want : Msg → Bool) (none : Stop) : R :=
  match (s.core s.cid).inbox.find? fun m => decide (m.dst = s.cur) && want m with
  | .none => .error none
  | .some m => do
    raiseIf (m.typed && m.tx != s.src.tx) 0x08 (BitVec.ofNat 64 m.sender)
    let c := s.core s.cid
    let s := if f.val < 4 then s.setCore s.cid { c with inbox := c.inbox.erase m } else s
    let w := m.window (f.val % 4)
    pure ((s.writeX d w.1).writeX e w.2)

def execRecv (d e : XReg) (f : Fin 8) (g : Fin 8) (s : State) : Out :=
  s.issueC g fun s => do
    let none := (s.core s.cid).inbox.all fun m => decide (m.dst ≠ s.cur)
    allOf [s.waits [] [xplace d, xplace e], waitIf none ⟨.msg, 8, .none, .none⟩]
    s.receive d e f (fun _ => true) (.wait ⟨.msg, 8, .none, .none⟩)

def execRecvs (d x e : XReg) (f : Fin 8) (g : Fin 8) (s : State) : Out :=
  s.issueC g fun s => do
    s.need [xplace x] [xplace d, xplace e]
    let w := s.readX x
    raiseIf (decide (Fld w 47 25 ≠ 0)) 0x01 s.iss.word
    let from_ := Fld w 24 0
    let seq := Fld w 63 48
    s.receive d e f (fun m => m.sender = from_ && m.seq = seq)
      (.park (.recvs from_ seq) ⟨.msg, 7, s.groupOf from_, none⟩)

def execWaitm (d x e : XReg) (f : Fin 8) (g : Fin 8) (s : State) : Out :=
  s.issueC g fun s => do
    s.need [xplace x] [xplace d, xplace e]
    let w := s.readX x
    raiseIf (decide (Fld w 63 16 ≠ 0)) 0x01 s.iss.word
    let tag := Fld w 15 0
    s.receive d e f (fun m => tag = 0 || m.tag = tag) (.park (.waitm tag) ⟨.msg, 8, none, none⟩)

/-! ### Presence and remote writes (05 R95, R101, R102; 16 R276, R277) -/

def execPutr (idx t : XReg) (v : SOpd) (g : Fin 8) (s : State) : Out :=
  s.issueC g fun s => do
    allOf [s.waits [xplace t, v.place] [], s.acquireGate]
    let w := s.readX t
    raiseIf (decide (Fld w 63 25 ≠ 0)) 0x01 s.iss.word
    s.slotUses [v.place] []
    s.reading [v.place]
    pure ((s.post (.regPut s.cur w.toNat idx.val (s.readS v) s.src.tenant)).sendTo s.serial s.cur w.toNat s.src.tenant s.src.dueBy)

/-- REMOTE_REGISTER_WRITE: puts of one thread to one register land in order; the discarded ones are acknowledged too
(05 R101). -/
def execRemoteRegisterWrite (id : Nat) (s : State) : Out :=
  match s.item id with
  | some (.regPut tid target idx v tenant) =>
    let first := s.flight.all fun p => match p.2 with
      | .regPut t' tg' i' _ _ => !(decide (p.1 < id) && t' = tid && tg' = target && i' = idx)
      | _ => true
    if !first || !s.arrived id then .next s
    else
      let s := ((s.wakeFrom tid target).landed id).setItem id (.ack tid target (s.isLate id))
      let t := s.th target
      if !s.namesSlot target || t.slot = .vacant then .next s
      else if t.tenant ≠ tenant then .next (s.countTenant (didOf (cidOf target)))
      else .next ((s.updTh (s.savedAs target) fun t => t.setReg idx v).refreshSaved (s.savedAs target) idx)
  | _ => .next s

/-- The reply of a late PUTR reaches its thread (03 R64). A PUTR names a thread and no address, so the EA in the TVAL of cause 0x10 is a free
value (notes/assumptions/12.md). -/
def State.noteLatePut (s : State) (tid : Nat) : State :=
  { s.updTh tid fun t => t.noteLate (some (BitVec.ofNat 64 (Config.freeChoice s.fresh))) with fresh := s.fresh + 1 }

/-- PUT_ACKNOWLEDGEMENT (08 R151). One that comes over the fabric needs its links and wakes its package (28 R387, R391). -/
def execPutAcknowledgement (id : Nat) (s : State) : Out :=
  match s.item id with
  | some (.ack tid from_ late) =>
    if s.unlinked (pkgOf (cidOf tid)) (pkgOf (cidOf from_)) then .next s
    else
      let s := (s.wakeFrom from_ tid).dropItem id
      .next (if late && (s.th tid).slot ≠ .vacant then s.noteLatePut tid else s)
  | _ => .next s

def execPclr (d : XReg) (g : Fin 8) (s : State) : Out :=
  s.issueC g fun s => do
    s.need [] [xplace d]
    pure (s.updMe fun t => t.clearPresent d.val)

def execPtst (d x : XReg) (g : Fin 8) (s : State) : Out :=
  s.issueC g fun s => do
    s.need [] [xplace d]
    let t := s.src
    let w := (t.present.getLsbD x.val).toNat + 2 * (t.busy.getLsbD x.val).toNat + 4 * (t.pend.getLsbD x.val).toNat
    pure (s.writeX d (BitVec.ofNat 64 w))

end Sys2Proof.Machine
end

