-- ==== Sys2Proof/Machine/System.lean ====
section
/-! DEFINITION. Machine/System.lean: system registers, segments, TLBI and PGREP at issue, breakpoints and trace instructions
(02 R41, R46; 05 R108 to R110; 20 R335, R347, R348, R350 to R353, R355, R356; 28 R396). -/
namespace Sys2Proof.Machine

/-! ### System registers (05 R108, R109; 20 R347) -/

/-- Bits [hi:lo] of a word, all others zero: a reserved field is written as zero (00 R10). -/
def keepBits (w : Word) (fields : List (Nat × Nat)) : Word :=
  BitVec.ofNat 64 ((fields.map fun f => Fld w f.1 f.2 * 2 ^ f.2).foldl (· + ·) 0)

/-- A listed number (05 R108). -/
def isListed (n : Nat) : Bool := decide (n ≤ 0x14) || decide (n = 0x20) || decide (n = 0x21) || decide (n = 0x22)

/-- ROOTSEL, ROOTP, ROOTS (02 R46). -/
def isRoot (n : Nat) : Bool := decide (0x20 ≤ n) && decide (n ≤ 0x22)

/-- Registers marked (S). -/
def isPrivileged (n : Nat) : Bool := (decide (1 ≤ n) && decide (n ≤ 7)) || isRoot n

/-- The value of a thread's system register. -/
def State.sysRead (s : State) (tid : Nat) (t : Thread) (n : Nat) : Word :=
  let y := t.sys
  match n with
  | 0x00 => y.status
  | 0x01 => y.epc
  | 0x02 => y.cause
  | 0x03 => y.tval
  | 0x04 => y.tvec
  | 0x05 => y.wbase
  | 0x06 => y.wsp
  | 0x07 => y.wlim
  | 0x08 => y.markvec
  | 0x09 => y.markpc
  | 0x0A => y.stage
  | 0x0B => BitVec.ofNat 64 t.groupNo
  | 0x0C => BitVec.ofNat 64 tid
  | 0x0D => s.time.setWidth 64
  | 0x0E => y.timer
  | 0x0F => y.deadline
  | 0x10 => BitVec.ofNat 64 (s.ownShare tid)
  | 0x11 => BitVec.ofNat 64 (s.embHeld tid)
  | 0x12 => y.xlto
  | 0x13 => y.synclim
  | 0x14 => 0x100
  | 0x20 => y.rootsel
  | 0x21 => s.root (clidOf (cidOf tid)) (Fld y.rootsel 7 0) 0
  | 0x22 => s.root (clidOf (cidOf tid)) (Fld y.rootsel 7 0) 1
  | _ => 0

/-- STATUS as an MTS leaves it: reserved fields zero, an unassigned RM as 0 (01 R27); SUP, PSUP and DET kept for a thread with
SUP = 0 (05 R109). -/
def statusWrite (old w : Word) (sup : Bool) : Word :=
  let w := if 5 ≤ Fld w 28 26 then w &&& ~~~0x1C000000 else w
  if sup then keepBits w [(32, 24), (17, 12), (5, 0)]
  else keepBits w [(29, 24), (17, 12), (5, 0)] ||| keepBits old [(32, 30)]

/-- A thread's system register written; RO registers ignore it. -/
def Thread.sysWrite (t : Thread) (n : Nat) (w : Word) : Thread :=
  let y := t.sys
  match n with
  | 0x00 => t.setStatus (statusWrite y.status w t.sup)
  | 0x01 => { t with sys := { y with epc := w } }
  | 0x02 => { t with sys := { y with cause := keepBits w [(7, 0)] } }
  | 0x03 => { t with sys := { y with tval := w } }
  | 0x04 => { t with sys := { y with tvec := keepBits w [(63, 3)] } }
  | 0x05 => { t with sys := { y with wbase := keepBits w [(31, 0)] } }
  | 0x06 => { t with sys := { y with wsp := keepBits w [(35, 0)] } }
  | 0x07 => { t with sys := { y with wlim := w } }
  | 0x08 => { t with sys := { y with markvec := w } }
  | 0x09 => { t with sys := { y with markpc := w } }
  | 0x0A => { t with sys := { y with stage := keepBits w [(11, 0)] } }
  | 0x0E => t.setTimer (keepBits w [(63, 63), (47, 0)])
  | 0x0F => { t with sys := { y with deadline := keepBits w [(63, 63), (47, 0)] } }
  | 0x12 => { t with sys := { y with xlto := keepBits w [(15, 0)] } }
  | 0x13 => { t with sys := { y with synclim := keepBits w [(15, 0)] } }
  | 0x20 => { t with sys := { y with rootsel := keepBits w [(7, 0)] } }
  | _ => t

/-- A root register, without its reserved fields (02 R47). -/
def rootWord (w : Word) : Word := keepBits w [(63, 62), (32, 30), (26, 0)]

def State.rootWrite (s : State) (clid tenant space : Nat) (w : Word) : State :=
  let c := s.cluster clid
  s.setCluster clid { c with roots := insert c.roots (tenant * 2 + space) (rootWord w) }

/-- The traps of 05 R108 for a register number. -/
def State.sysAccess (s : State) (n : Nat) : Except Stop Unit :=
  raiseIf (!isListed n || (isRoot n && !isHob s.cid)) 0x01 s.iss.word

def execMfs (d : XReg) (n : Fin 64) (g : Fin 8) (s : State) : Out :=
  s.issueC g fun s => do
    s.need [] [xplace d]
    s.sysAccess n.val
    pure (s.writeX d (s.sysRead s.cur s.src n.val))

/-- WBASE, WSP and WLIM (05 R98). -/
def isWindowReg (n : Nat) : Bool := decide (5 ≤ n) && decide (n ≤ 7)

/-- MTS. A write of STATUS keeps the flags that the A slot of the pair raised (01 R26). One of WBASE, WSP or WLIM waits until no spill
or fill of the thread is in flight, and a check that an earlier transfer failed holds no longer (05 R100). -/
def execMts (x : XReg) (n : Fin 64) (g : Fin 8) (s : State) : Out :=
  s.issueC g fun s => do
    allOf [s.need [xplace x] [], waitIf (isWindowReg n.val && s.movingWindow s.cur) onMemory]
    s.sysAccess n.val
    raiseIf (isPrivileged n.val && !s.src.sup) 0x02 s.iss.word
    let w := s.readX x
    let clid := clidOf s.cid
    match n.val with
    | 0x00 => pure (s.updMe fun t => t.setStatus (statusWrite s.src.sys.status w s.src.sup ||| s.iss.flags.setWidth 64))
    | 0x21 => pure (s.rootWrite clid (Fld s.src.sys.rootsel 7 0) 0 w)
    | 0x22 => pure (s.rootWrite clid (Fld s.src.sys.rootsel 7 0) 1 w)
    | n => pure (s.updMe fun t => { t.sysWrite n w with windowFault := if isWindowReg n then none else t.windowFault })

/-! ### Segments (02 R41, 20 R348) -/

/-- Reserved bits of the two words of a segment register (02 R41). -/
def badSeg (w0 w1 : Word) : Bool := decide (Fld w0 63 52 ≠ 0) || decide (Fld w0 15 6 ≠ 0) || decide (Fld w1 63 61 ≠ 0)

/-- A segment register without reserved bits (00 R10). -/
def segMask (p : Word × Word) : Word × Word := (keepBits p.1 [(51, 16), (5, 0)], keepBits p.2 [(60, 0)])

/-- The 16 bytes that SEGLD reads as a plain load. -/
def State.segBlock (s : State) (na : Word) : Except Stop (List Word) := do
  let k ← s.ownStore na 16 16
  s.plainWords na.toNat k 2

/-- SEGLD (20 R348). A reserved bit of a block that it can read comes before cause 0x02 (12 R207), a wait before every cause. -/
def execSegld (b : XReg) (n : Fin 8) (g : Fin 8) (s : State) : Out :=
  s.issueC g fun s => do
    allOf [s.need [xplace b] [], s.accessGate]
    match s.segBlock (s.readX b) with
    | .error (.wait w) => .error (.wait w)
    | .error st => do
      s.needSup
      .error st
    | .ok ws => do
      let w0 := ws.getD 0 0
      let w1 := ws.getD 1 0
      raiseIf (badSeg w0 w1) 0x01 s.iss.word
      s.needSup
      pure (s.updMe fun t => { t.setSeg n.val (w0, w1) with fetch := [] })

/-- One of SEGST's two stores: a put through a core window, a plain store elsewhere. -/
def State.segStore (s : State) (r : Near) (na w : Word) : State :=
  if r.put then s.post (.put s.cur r.key (toBytes 8 w.toNat))
  else s.buffer na false false (.bytes r.key (toBytes 8 w.toNat) none)

def execSegst (b : XReg) (n : Fin 8) (g : Fin 8) (s : State) : Out :=
  s.issueC g fun s => do
    let na := s.readX b
    s.storeReady (s.need [xplace b] []) na 2
    s.nearMode na 8
    s.nearMode (na + 8) 8
    let r0 ← s.near na 8 8 .store
    let r1 ← s.near (na + 8) 8 8 .store
    let (w0, w1) := s.src.seg n.val
    pure ((s.segStore r0 na w0).segStore r1 (na + 8) w1)

/-! ### Supervisor services (20 R352, R353) -/

/-- TLBI at issue: its thread is not ready until TLBI_COMPLETION (20 R352). -/
def execTlbi (x : XReg) (sc : Scope) (g : Fin 8) (s : State) : Out :=
  s.issueC g fun s => do
    s.need [xplace x] []
    let w := s.readX x
    raiseIf (sc = .core || sc = .quad || sc = .sys || decide (Fld w 53 52 ≠ 0) || decide (Fld w 15 0 ≠ 0)) 0x01 s.iss.word
    s.needSup
    pure (s.post (.tlbi s.cur w sc none))

/-- PGREP sends its reply to a thread of the issuing core's package (20 R353). -/
def State.pgrep (s : State) (x : XReg) (fail : Bool) : R := do
  s.need [xplace x] []
  let w := s.readX x
  s.needHob
  raiseIf (decide (Fld w 63 18 ≠ 0)) 0x01 s.iss.word
  s.needSup
  let tid := pkgOf s.cid * 2 ^ 17 + Fld w 16 0
  if clidOf (cidOf tid) ≠ clidOf s.cid then pure s else pure (s.post (.pager tid fail (w.getLsbD 17)))

def execPgrep (x : XReg) (g : Fin 8) (s : State) : Out := s.issueC g fun s => s.pgrep x false
def execPgrepFail (x : XReg) (g : Fin 8) (s : State) : Out := s.issueC g fun s => s.pgrep x true

/-! ### Breakpoints and trace (20 R350, R355, R356; 28 R396) -/

/-- A STOP record for a thread that a breakpoint has stopped. -/
def State.noteStop (s : State) : State :=
  match s.iss.stop with
  | some .brk => s.traceStop s.cur
  | _ => s

/-- BRK: cause 0x0D, or a stop where the group has BRKSTOP set (28 R396). -/
def execBrk (imm : BitVec 12) (s : State) : Out :=
  let hit := (s.pkg (pkgOf s.cid)).service.brkstop.contains s.src.groupNo && s.src.grp.isSome
  if hit then .next ((s.halted .brk).noteStop) else .next (s.halted (.trap 0x0D (imm.setWidth 64)))

/-- TREMIT: an EMIT record while TRCTL.EMIT is set (20 R335, R355). -/
def execTremit (x : SOpd) (g : Fin 8) (s : State) : Out :=
  s.issueC g fun s => do
    s.waits [x.place] []
    s.needSup
    s.slotUses [x.place] []
    s.reading [x.place]
    let pkg := pkgOf s.cid
    let w := s.readS x
    if (s.pkg pkg).service.trctl.getLsbD 0 then
      pure (s.trace pkg 1 [Fld w 61 0, Fld w 63 62 * 2 ^ 17 + ptid s.cur])
    else pure s

/-- RPUSH (20 R356). -/
def execRpush (x : SOpd) (g : Fin 8) (s : State) : Out :=
  s.issueC g fun s => do
    s.operands [x.place] []
    let t := s.src
    if 16 ≤ t.ranges.length then pure (s.updMe fun t => { t with overflow := t.overflow + 1 })
    else
      let label := (s.readS x).setWidth 16
      pure ((s.updMe fun t => { t with ranges := t.ranges ++ [label] }).traceRange s.cur 2 (t.ranges.length + 1) label.toNat)

/-- RPOP (20 R356). -/
def execRpop (d : XReg) (g : Fin 8) (s : State) : Out :=
  s.issueC g fun s => do
    s.need [] [xplace d]
    let t := s.src
    if t.overflow ≠ 0 then pure ((s.updMe fun t => { t with overflow := t.overflow - 1 }).writeX d 0x10000)
    else
      match t.ranges.getLast? with
      | none => pure (s.writeX d 0x10000)
      | some label =>
        let s := s.updMe fun t => { t with ranges := t.ranges.dropLast }
        pure ((s.traceRange s.cur 3 t.ranges.length label.toNat).writeX d (label.setWidth 64))

end Sys2Proof.Machine
end

