-- ==== Sys2Proof/Machine/Paging.lean ====
section
/-! DEFINITION. Machine/Paging.lean: table walks, fault messages, TLBI, errors, and the spills and fills of register windows
(02 R43 to R58; 05 R98 to R100; 12 R210; 20 R352). -/
namespace Sys2Proof.Machine

/-! ### Walks (02 R45, R50 to R54) -/

/-- The leaf gets AC, and D for a write, and is installed (02 R45, R50). That a full unit of 8,192 entries loses its oldest one is the
model's choice, since no rule names the entry that goes (notes/assumptions/17.md). The leaf is written as a whole word, which clears
its poison: the model's choice (02 R50, R58; notes/assumptions/26.md). -/
def State.install (s : State) (w : Walk) (key : Nat) (e : Word) : State :=
  let wr := accWrites w.acc
  let e := e ||| (if wr then 0xC0 else 0x40)
  let s := s.storeAt key (toBytes 8 e.toNat)
  let c := s.cluster w.clid
  let big := e.getLsbD 60
  let kept := c.tu.filter fun x => !x.covers w.tenant w.pod w.va
  let kept := if 8192 ≤ kept.length then kept.drop 1 else kept
  let x : TuEntry := ⟨w.tenant, w.pod, big, w.va / (if big then 2 ^ 21 else 2 ^ 16), key, e, wr⟩
  s.setCluster w.clid { c with tu := kept ++ [x] }

/-- An engine's request is paused, or goes on. A fault makes it forget the accesses that it has translated and not yet performed: it
makes them anew after the pager's reply (02 R54). -/
def Req.setPause (r : Req) (p : Pause) : Req :=
  if p = .fault && !r.path.isEmpty then { r with pause := p, path := [], pos := 0, exc := 0 } else { r with pause := p }

def State.setPause (s : State) (id : Nat) (p : Pause) : State := s.mapReq id fun r => r.setPause p

/-- The thread whose walk this is still waits for it; a spill or fill needs no waiting thread. -/
def State.walkWanted (s : State) (id : Nat) (w : Walk) : Bool :=
  let t := s.th w.tid
  t.slot = .runnable && !t.exited && (w.isWindow || (t.walk = some id && t.wait.isSome))

/-- A faulting walk parks its thread, or pauses its engine request, and its fault message leaves now (02 R52, R54). -/
def State.walkFault (s : State) (id : Nat) (w : Walk) (kind : Nat) : State :=
  match w.eng with
  | some r => ((s.setPause r .fault).dropItem id).post (.fault w kind)
  | none =>
    if s.walkWanted id w then
      ((s.dropItem id).post (.fault w kind)).updTh w.tid fun t =>
        { t with slot := .parked, park := .page w.ea, wait := none, walk := none }
    else s.dropItem id

/-- TABLE_WALK (02 R45, R50). -/
def execTableWalk (id : Nat) (s : State) : Out :=
  match s.item id with
  | some (.walk w) =>
    match s.walkTable w with
    | .noFrame => .fault .noSuchFrame
    | .fault kind => .next (s.walkFault id w kind)
    | .leaf k e =>
      let s := (s.install w k e).dropItem id
      match w.eng with
      | some r => .next (s.setPause r .no)
      | none => .next (s.updTh w.tid fun t => { t with walk := none })
  | _ => .next s

/-- The two words of a fault message (02 R53). -/
def faultWords (w : Walk) (kind : Nat) : List Word :=
  [BitVec.ofNat 64 (kind * 2 ^ 60 + w.acc * 2 ^ 56 + w.va % 2 ^ 52),
   BitVec.ofNat 64 (w.tenant % 256 * 2 ^ 56 + w.pod.toNat * 2 ^ 55 + w.eng.isSome.toNat * 2 ^ 54 + ptid w.tid)]

/-- FAULT_MESSAGE: pager 64 of the cluster serves VA[21] = 0 and pager 65 the others (02 R52, R53). -/
def execFaultMessage (id : Nat) (s : State) : Out :=
  match s.item id with
  | some (.fault w kind) =>
    .next (s.takeIn id ⟨0x1FFFFFC, 0, 0, false, false, faultWords w kind, w.pager * 16, false, 0⟩)
  | _ => .next s

/-- A pager's reply reaches a thread: RESUME reissues the pair, FAIL makes it trap with cause 0x11 (02 R52); a thread that does not
wait discards it (02 R54, 20 R353). A reply goes to whichever thread waits in the slot it names, another than the one that faulted too: the
model's choice (notes/assumptions/26.md). -/
def State.replyThread (s : State) (tid : Nat) (fail : Bool) : State :=
  match (s.th tid).park with
  | .page ea =>
    if (s.th tid).slot = .saved then s
    else s.updTh tid fun t => { t.wake with pageFail := if fail then some ea else none }
  | _ => s

/-- A reply for a flue slot: every access of its commands that is paused on a fault goes on, or its copy ends (20 R353, 02 R54). -/
def State.replyEngine (s : State) (cid : Nat) (fail : Bool) : State :=
  { s with
    flight := s.flight.map fun (p : Nat × Item) => match p.2 with
      | .engine c r =>
        if c = cid && r.pause = .fault then (p.1, .engine c { r with pause := .no, fail := r.fail || fail }) else p
      | .coll c r f =>
        if c = cid && r.pause = .fault then (p.1, .coll c { r with pause := .no, fail := r.fail || fail } f) else p
      | _ => p }

/-- PAGER_REPLY (02 R52, 20 R353). -/
def execPagerReply (id : Nat) (s : State) : Out :=
  match s.item id with
  | some (.pager tid fail eng) =>
    let s := s.dropItem id
    .next (if eng then s.replyEngine (cidOf tid) fail else s.replyThread tid fail)
  | _ => .next s

/-! ### TLBI (20 R352) -/

def TuEntry.hitBy (e : TuEntry) (desc : Word) : Bool :=
  decide (e.tenant = Fld desc 63 56) && e.pod = desc.getLsbD 55 &&
    (desc.getLsbD 54 || e.vpn = Fld desc 51 16 * 2 ^ 16 / (if e.big then 2 ^ 21 else 2 ^ 16))

/-- Far accesses of a tenant in the scope that were translated before stamp `id` and have not been performed, a LOCK that is held back
and an engine's among them. A TLBI waits for all of them, whichever translation they used. -/
def State.accessesBefore (s : State) (id tenant : Nat) (inScope : Nat → Bool) : Bool :=
  (s.flight.any fun p => match p.2 with
    | .access a => decide (p.1 < id) && a.far && (s.th a.tid).tenant = tenant && inScope (cidOf a.tid)
    | .engine c r | .coll c r _ => !r.path.isEmpty && decide (r.used < id) && r.tenant = tenant && inScope c
    | _ => false) ||
  s.threads.any fun t => t.2.tenant = tenant && inScope (cidOf t.1) && t.2.sb.any fun e => decide (e.id < id) && e.far

/-- The matching entries leave every unit of the scope. -/
def State.evict (s : State) (desc : Word) (inScope : Nat → Bool) : State :=
  { s with
    clusters := s.clusters.map fun (p : Nat × Cluster) =>
      if inScope (p.1 * 128) then (p.1, { p.2 with tu := p.2.tu.filter fun e => !e.hitBy desc }) else p }

/-- The other packages of a scope, which a TLBI reaches over the fabric. -/
def State.tlbiPkgs (s : State) (sc : Scope) (pkg : Nat) : List Nat :=
  if sc = .pod then (List.range s.npkg).filter fun p => decide (p ≠ pkg) else []

/-- TLBI_COMPLETION: first the matching entries leave every unit of the scope; walks in flight have read nothing yet. It completes once
every access that was translated until then has been performed (20 R352). At POD scope it crosses the fabric: it waits for the links, and
wakes the other packages (28 R387, R391; notes/assumptions/12.md). -/
def execTlbiCompletion (id : Nat) (s : State) : Out :=
  match s.item id with
  | some (.tlbi tid desc sc gone) =>
    let home := instanceOf sc (cidOf tid)
    let others := s.tlbiPkgs sc (pkgOf (cidOf tid))
    let inScope (cid : Nat) : Bool := decide (instanceOf sc cid = home)
    let s' := if gone.isSome then s else { others.foldl State.wakePkg (s.evict desc inScope) with serial := s.serial + 1 }
    let at_ := gone.getD s.serial
    if others.any (s.unlinked (pkgOf (cidOf tid))) then .next s
    else if s.accessesBefore at_ (Fld desc 63 56) inScope then .next (s'.setItem id (.tlbi tid desc sc (some at_)))
    else .next (s'.dropItem id)
  | _ => .next s

/-! ### Errors (02 R58, 12 R210) -/

/-- ECC_UNCORRECTABLE_ERROR: every word of the failed 64-byte line of far memory is poisoned (02 R58). -/
def execEccUncorrectableError (key : Nat) (s : State) : Out :=
  if isFarKey key && farExists key then
    .next ((List.range 8).foldl (fun s i => s.spoil (key / 64 * 64 + 8 * i)) s)
  else .next s

/-! ### Window spills and fills (05 R98 to R100) -/

/-- The far EA of frame `f` (05 R98). -/
def SysRegs.frameEa (y : SysRegs) (f : Nat) : Word := BitVec.ofNat 64 (0xE000000000000000 + y.spill + 128 * f)

/-- The slot whose frames may move: one with a thread that has neither ended nor been saved. -/
def Thread.movesWindows (t : Thread) : Bool :=
  t.slot ≠ .vacant && t.slot ≠ .saved && !t.exited && t.sys.windowOk

/-- What a spill or fill meets: a failed check, a walk to start, a walk that runs, or its key (02 R54, 05 R100). -/
def State.frameAccess (s : State) (tid : Nat) (ea : Word) (spill : Bool) : Except Stop Nat := do
  let t := s.th tid
  let (pod, va) ← t.segCheck ea 128 (if spill then { w := true } else { rd := true }) 8
  s.translate tid t.tenant pod va ea (if spill then accSpill else accFill)

/-- A stopped transfer: a failed check waits for the CALL or RET that needs it; a miss starts one walk. -/
def State.frameStop (s : State) (tid : Nat) (st : Stop) : State :=
  match st with
  | .trap c ea => s.updTh tid fun t => { t with windowFault := some (c, ea) }
  | .walk w =>
    if !s.walkFree w || (s.th tid).slot ≠ .runnable then s else s.post (.walk w)
  | _ => s

/-- Whole words are copied with their poison (12 R210, notes/assumptions/17.md). Of the words that `cut` names, one of the source comes
poisoned, and one of the destination is discarded (03 R66, 28 R387). -/
def State.copyRun (s : State) (src dst n : Nat) (cut : List (Nat × Nat)) : State :=
  (List.range (n / 8)).foldl (fun (u : State) i =>
    let a := src + 8 * i
    let b := dst + 8 * i
    if inRuns cut b then u
    else if inRuns cut a then u.writePoison b
    else
      let u := u.storeAt b (toBytes 8 (s.load a 8))
      if s.poisoned a 8 then u.writePoison b else u) s

/-- D of the translation that a write uses (02 R50). -/
def State.dirtyAt (s : State) (clid tenant : Nat) (pod : Bool) (va acc : Nat) : State :=
  match s.tuHit clid tenant pod va acc with
  | none => s
  | some e =>
    if e.dirty then s
    else
      let c := s.cluster clid
      let s := s.storeAt e.leafKey (toBytes 8 (s.load e.leafKey 8 ||| 2 ^ 7))
      s.setCluster clid
        { c with tu := c.tu.map fun x => if x = e then { x with dirty := true, leaf := x.leaf ||| 0x80 } else x }

/-- A RET waits for its fill, as its core has noted it last (05 R99). -/
def Thread.awaitsFill (t : Thread) : Bool := t.wait.any fun w => w.ring = some 8

/-- The thread keeps its resident frames: it is ready, so that a spill takes no slot of it, or a RET of it waits for a fill (05 R100). -/
def Thread.keepsFrames (t : Thread) : Bool := t.awaitsFill || (t.issuing && t.wait.isNone)

/-- WINDOW_SPILL: the oldest resident frame goes to far memory when N − 1 or more are resident, while the thread is not ready: a spill takes
no slot that a ready thread takes, and so the frame that was filled for a RET stays until the RET has issued (05 R100). What a port
refuses or fails of it is discarded (03 R66, 28 R387). -/
def execWindowSpill (tid : Nat) (s : State) : Out :=
  let t := s.th tid
  let y := t.sys
  if t.movesWindows && !t.keepsFrames && decide (y.frames ≤ y.res + 1) && decide (0 < y.res) && decide (y.res ≤ y.depth) then
    let f := y.depth - y.res
    let ea := y.frameEa f
    match s.frameAccess tid ea true with
    | .error st => .next (s.frameStop tid st)
    | .ok k =>
      if s.awaitsLink (cidOf tid) k then .next s
      else
      let w0 := (t.seg 7).1
      let s := s.dirtyAt (clidOf (cidOf tid)) t.tenant (w0.getLsbD 5) (Fld w0 51 16 * 2 ^ 16 + ea.toNat % 2 ^ 61) accSpill
      let cut := s.cutOff (cidOf tid) t.tenant [(k, 128)]
      let s := (s.crossing (cidOf tid) t.tenant t.dueBy true [(k, 128)]).copyRun (frameKey (cidOf tid) y f) k 128 cut
      .next (s.settleLocks.updTh tid fun t => { t with sys := y.setWsp (y.res - 1) y.depth, windowFault := none })
  else .next s

/-- F of 05 R100. -/
def SysRegs.fillMark (y : SysRegs) : Nat := min 2 (y.frames - 2)

/-- WINDOW_FILL: the youngest frame in far memory comes back when fewer than F are resident, or when a RET waits for it
(05 R99, R100). What a port refuses, or one without a link fails, comes poisoned (03 R66, 28 R387). The reply of a late one traps at the
thread's next boundary (03 R64). -/
def execWindowFill (tid : Nat) (s : State) : Out :=
  let t := s.th tid
  let y := t.sys
  let due := decide (y.res < y.fillMark) || (decide (y.res = 0) && t.awaitsFill)
  if t.movesWindows && due && decide (y.res < y.depth) then
    let f := y.depth - y.res - 1
    let ea := y.frameEa f
    match s.frameAccess tid ea false with
    | .error st => .next (s.frameStop tid st)
    | .ok k =>
      if s.awaitsLink (cidOf tid) k then .next s
      else
      let cut := s.cutOff (cidOf tid) t.tenant [(k, 128)]
      let late := if s.pastDue t.dueBy [(k, 128)] then some ea else none
      let s' := (s.crossing (cidOf tid) t.tenant t.dueBy false [(k, 128)]).copyRun k (frameKey (cidOf tid) y f) 128 cut
      .next (s'.updTh tid fun t =>
        ({ t with sys := y.setWsp (y.res + 1) y.depth, windowFault := none }).noteLate late)
  else .next s

end Sys2Proof.Machine
end

