-- ==== Sys2Proof/Machine/Movement.lean ====
section
/-! DEFINITION. Machine/Movement.lean: tile moves, the flue slot and its engines (04 R79 to R93; 11 R203; 16 R264 to R267, R270,
R271). -/
namespace Sys2Proof.Machine

/-! ### Tile moves (04 R79 to R81; 16 R265 to R267) -/

/-- Reserved bits of an endpoint word (16 R265). -/
def badEndpoint (w : Word) : Bool :=
  if w.getLsbD 63 then decide (Fld w 62 48 ≠ 0) || decide (Fld w 43 39 ≠ 0) else decide (Fld w 62 32 ≠ 0)

/-- An endpoint of `n` bytes that touches the local store of a hob core, or the aperture of one (03 R71, 16 R267). -/
def endPrivileged (cid : Nat) (w : Word) (n : Nat) : Bool :=
  if w.getLsbD 63 then decide (64 ≤ Fld w 38 32) && decide (Fld w 38 32 ≤ 67) else nearPrivileged cid (Fld w 31 0) n

/-- The register aperture serves no tile move (28 R378). -/
def tileRange (cid na n : Nat) (use : NearUse) : Option Nat :=
  if 0xE0000000 ≤ na then none else (nearRange cid na n use).map (·.key)

/-- The key of an endpoint whose `n` bytes lie in one region (16 R265). -/
def endKey (cid : Nat) (w : Word) (n : Nat) (use : NearUse) : Option Nat :=
  let a := Fld w 31 0
  if w.getLsbD 63 then
    let clid := didOf cid * 16 + Fld w 47 44
    let c := Fld w 38 32
    if c < 68 then (if a + n ≤ 0x30000 then some (keyLocal (clid * 128 + c) a) else none)
    else if c = 127 then (if a + n ≤ 0x800000 then some (keyCluster clid a) else none)
    else none
  else tileRange cid a n use

/-- An EXT endpoint in a cluster of another tenant (04 R80). -/
def State.foreignEnd (s : State) (w : Word) : Bool :=
  w.getLsbD 63 && decide ((s.cluster (didOf s.cid * 16 + Fld w 47 44)).tenant ≠ s.src.tenant)

/-- At most 8 moves outstanding (04 R80). -/
def State.moveRoom (s : State) : Except Stop Unit := waitIf (decide (8 ≤ s.moves s.cur)) onMemory

/-- The token is absent and awaits its delivery (04 R80). -/
def State.openToken (s : State) (t : XReg) : State := s.updMe fun x => (x.clearPresent t.val).setPend t.val true

/-- A token or a delivery lands; that of a thread that has left its slot is discarded (17 R303). -/
def State.landToken (s : State) (tid tok : Nat) (w : Word) : State :=
  if (s.th tid).slot = .vacant then s else s.updTh tid fun t => (t.setReg tok w).setPend tok false

/-- The token of a TMOV or PLANE lands, with the reply of a read that was late (03 R64). -/
def State.landMove (s : State) (tid tok : Nat) (w : Word) (late : Option Word) : State :=
  if (s.th tid).slot = .vacant then s else (s.landToken tid tok w).updTh tid fun t => t.noteLate late

/-- What TMOV and PLANE wait for after their checks: the token, and room among the moves (16 R267). -/
def State.tokenGate (s : State) (t : XReg) : Except Stop Unit := allOf [s.need [] [xplace t], s.moveRoom]

def execTmov (t da sa sh : XReg) (s : State) : Out :=
  s.issue fun s => do
    allOf [s.need [xplace da, xplace sa, xplace sh] [], s.acquireGate]
    let dw := s.readX da
    let sw := s.readX sa
    let h := s.readX sh
    raiseIf (badEndpoint dw || badEndpoint sw || h.getLsbD 0) 0x01 s.iss.word
    let da := BitVec.ofNat 64 (Fld dw 31 0)
    let sa := BitVec.ofNat 64 (Fld sw 31 0)
    let rows := Fld h 63 56 + 1
    let len := 8 * (Fld h 55 45 + 1)
    let dstr := 8 * Fld h 44 23
    let sstr := 8 * Fld h 22 1
    let dn := (rows - 1) * dstr + len
    let sn := (rows - 1) * sstr + len
    raiseIf (endPrivileged s.cid dw dn && !s.src.sup) 0x02 da
    raiseIf (endPrivileged s.cid sw sn && !s.src.sup) 0x02 sa
    match endKey s.cid dw dn .store, endKey s.cid sw sn .load with
    | none, _ => .error (.trap 0x03 da)
    | some _, none => .error (.trap 0x03 sa)
    | some dk, some sk => do
      raiseIf ((decide (1 < rows) && decide (dstr < len)) || overlap dk dn sk sn) 0x03 da
      raiseIf (decide (da.toNat % 8 ≠ 0)) 0x05 da
      raiseIf (decide (sa.toNat % 8 ≠ 0)) 0x05 sa
      s.tokenGate t
      let x : Move :=
        ⟨s.cur, s.src.tenant, s.src.dueBy, t.val, rows, len, sk, dk, sstr, dstr, s.foreignEnd dw || s.foreignEnd sw, sa⟩
      pure ((s.openToken t).post (.move x))

/-- The rows of one side of a move. -/
def rowsOf (key stride rows len : Nat) : List (Nat × Nat) := (List.range rows).map fun r => (key + r * stride, len)

/-- The status word of a move that wrote nothing (04 R80). -/
def tokenRefused : Word := BitVec.ofNat 64 (3 * 2 ^ 56)

/-- TILE_MOVE_COMPLETION: the move takes place at one instant, after the thread's earlier stores (04 R80, R81;
notes/assumptions/8.md). What a port of the far net refuses of it comes poisoned, or is discarded, and the move ends with DONE all the
same (03 R66, notes/assumptions/12.md). -/
def execTileMoveCompletion (id : Nat) (s : State) : Out :=
  match s.item id with
  | some (.move x) =>
    if !s.drained x.tid id then .next s
    else
      let s := s.dropItem id
      if x.refused then .next (s.landToken x.tid x.tok tokenRefused)
      else
        let cid := cidOf x.tid
        let rd := rowsOf x.src x.sstr x.rows x.len
        let wr := rowsOf x.dst x.dstr x.rows x.len
        let cut := s.cutOff cid x.tenant (rd ++ wr)
        let late := if s.pastDue x.deadline rd then some x.ea else none
        let s := (s.crossing cid x.tenant x.deadline false rd).crossing cid x.tenant x.deadline true wr
        let s := (List.range x.rows).foldl (fun s r => s.copyRun (x.src + r * x.sstr) (x.dst + r * x.dstr) x.len cut) s
        .next (s.settleLocks.landMove x.tid x.tok (BitVec.ofNat 64 (x.rows * x.len)) late)
  | _ => .next s

/-! ### Request blocks (04 R84, R85) -/

def reqOp (w0 : Word) : Nat := Fld w0 63 60
def reqScope (w0 : Word) : Nat := Fld w0 55 53
def reqKind (w0 : Word) : Nat := Fld w0 48 47
def reqRop (w0 : Word) : Nat := Fld w0 46 44
def reqTmo (w0 : Word) : Nat := Fld w0 42 27
def reqTag (w0 : Word) : Nat := Fld w0 15 0

/-- The element format that TYPE and CLS name; TS8 is none here (01 R17). -/
def reqFmt (w0 : Word) : Option Fmt :=
  match w0.getLsbD 49, Fld w0 52 50 with
  | false, 0 => some .f64 | false, 1 => some .f32 | false, 2 => some .f16 | false, 3 => some .bf16
  | false, 4 => some .e4 | false, 5 => some .e5 | false, 6 => some .f4
  | true, 0 => some .i64 | true, 1 => some .i32 | true, 2 => some .i16 | true, 3 => some .i8
  | true, 4 => some .ui32 | true, 5 => some .ui8
  | _, _ => none

/-- The storage formats, which no arithmetic accepts (01 R16). -/
def storageFmt (f : Fmt) : Bool := f = .e4 || f = .e5 || f = .f4

def reqLen (w3 : Word) : Nat := Fld w3 39 0
def reqN (w3 : Word) : Nat := Fld w3 63 32
def reqIdx (w3 : Word) : Nat := Fld w3 31 0
def reqCid (w3 : Word) : Nat := Fld w3 63 48
def reqPcnt (w3 : Word) : Nat := Fld w3 47 32
def reqNel (w3 : Word) : Nat := Fld w3 31 0

/-- Bytes of an index (04 R85). -/
def idxSize (w0 : Word) : Nat := if w0.getLsbD 43 then 8 else 4

/-- Bytes that hold `n` elements of `w` bits. -/
def bytesFor (n w : Nat) : Nat := (n * w + 7) / 8

/-- The fields that trap with cause 0x01 (04 R85). That a reduction other than COUNT over a storage format is among them is the model's
choice: 01 R16 speaks of an instruction's type field (notes/assumptions/26.md). -/
def badRequest (w0 w3 : Word) : Bool :=
  let op := reqOp w0
  let sk := Fld w0 59 58
  let dk := Fld w0 57 56
  decide (4 ≤ op) || sk = 3 || dk = 3 || decide (Fld w0 26 16 ≠ 0) ||
    (if op = 3 then !(reqScope w0 = 3 || reqScope w0 = 4 || reqScope w0 = 5) else decide (reqScope w0 ≠ 0)) ||
    (decide (op ≠ 0) && (reqFmt w0).isNone) ||
    (op = 0 && (decide (Fld w3 63 40 ≠ 0) || decide (reqLen w3 % 8 ≠ 0))) ||
    (op = 3 && (decide (sk ≠ 0) || decide (dk ≠ 0) ||
      (decide (reqKind w0 < 2) &&
        (decide (5 ≤ reqRop w0) || (decide (reqRop w0 ≠ 4) && (reqFmt w0).any storageFmt)))))

/-- How long an endpoint's access is; `none` for the table of a GATH or SCAT, which reaches to its limit (04 R84). -/
def srcLen (w0 w3 : Word) : Option Nat :=
  let w := ((reqFmt w0).map fmtWidth).getD 8
  match reqOp w0 with
  | 0 => some (reqLen w3)
  | 1 => none
  | 2 => some (bytesFor (reqN w3) w)
  | _ => some (bytesFor (reqNel w3) w)

/-- The bytes that a request writes; none for a SCAT, which writes by its indices. Each contribution of an all-gather takes whole bytes, an
odd number of F4 elements too, which is the model's choice (04 R90; notes/assumptions/26.md). -/
def dstLen (w0 w3 : Word) : Option Nat :=
  let w := ((reqFmt w0).map fmtWidth).getD 8
  match reqOp w0 with
  | 0 => some (reqLen w3)
  | 1 => some (bytesFor (reqN w3) w)
  | 2 => none
  | _ =>
    if reqKind w0 = 3 then some (reqPcnt w3 * bytesFor (reqNel w3) w)
    else if reqKind w0 < 2 ∧ reqRop w0 = 4 then some (4 * reqNel w3)
    else some (bytesFor (reqNel w3) w)

/-- The last byte of the near range that a near address lies in, as a length from the address on. -/
def nearRoom (na : Nat) : Nat :=
  if na < 0x30000 then 0x30000 - na
  else if 0x40000000 ≤ na ∧ na < 0x80000000 then 0x30000 - (na - 0x40000000) % 0x40000
  else if 0x80000000 ≤ na ∧ na < 0x80800000 then 0x80800000 - na
  else if 0xC0000000 ≤ na ∧ na < 0xC4000000 then 0xC4000000 - na
  else 0

/-- The endpoints' mode checks come before the ranges (12 R207): a near endpoint of a hob core's window gives its address, and a
HOST endpoint the pair (03 R71; 04 R84; 15 R259). -/
def State.endMode (s : State) (kind : Nat) (a : Word) (n : Nat) : Except Stop Unit :=
  match kind with
  | 1 => s.nearMode (BitVec.ofNat 64 (Fld a 31 0)) n
  | 2 => raiseIf (!s.src.sup) 0x02 s.iss.word
  | _ => .ok ()

/-- The bounds of an endpoint: 04 R84's checks but for the rights. The table of a GATH or SCAT, whose accesses reach as far as its
indices, is checked as an access of one byte, which is the model's choice: no rule gives its length (notes/assumptions/18.md). A far endpoint of
length 0 has no bounds, whatever its offset, and an element of a table has those of LIMIT alone, even where its VA passes 2^52: the
model's choices (notes/assumptions/26.md). -/
def State.endBounds (s : State) (kind : Nat) (a : Word) (n : Option Nat) (src : Bool) : Except Stop EndPt :=
  match kind with
  | 0 => do
    let (w0, w1) := s.src.seg (Fld a 63 61)
    let o := a.toNat % 2 ^ 61
    let base := Fld w0 51 16 * 2 ^ 16
    let len := n.getD 1
    let limit := w1.toNat % 2 ^ 61
    raiseIf (decide (0 < len) && (decide (limit < o + len) || decide (2 ^ 52 < base + o + len))) 0x03 a
    pure (.far (w0.getLsbD 5) (base + o) (limit - o) a)
  | 1 =>
    let na := Fld a 31 0
    match tileRange s.cid na (n.getD 1) (if src then .load else .store) with
    | some k => .ok (.near k (nearRoom na))
    | none => .error (.trap 0x03 (BitVec.ofNat 64 na))
  | _ => .ok (.host a.toNat)

def State.endRights (s : State) (kind : Nat) (a : Word) (src : Bool) : Except Stop Unit :=
  let w0 := (s.src.seg (Fld a 63 61)).1
  raiseIf (kind = 0 && !(if src then w0.getLsbD 0 else w0.getLsbD 1)) 0x04 a

/-- The request that FLUE captures from a block, after its checks in the order of 12 R207. An IDX that is not aligned to the index size
raises 0x05 with IDX as TVAL: no rule names the cause, so that is the model's choice (04 R85, notes/assumptions/18.md). -/
def State.capture (s : State) (ws : List Word) : Except Stop Req := do
  let w0 := ws.getD 0 0
  let a := ws.getD 1 0
  let b := ws.getD 2 0
  let w3 := ws.getD 3 0
  let sk := Fld w0 59 58
  let dk := Fld w0 57 56
  let indexed := reqOp w0 = 1 || reqOp w0 = 2
  raiseIf (badRequest w0 w3) 0x01 s.iss.word
  s.endMode sk a ((srcLen w0 w3).getD 1)
  s.endMode dk b ((dstLen w0 w3).getD 1)
  if indexed then s.endMode 1 w3 (reqN w3 * idxSize w0) else pure ()
  let src ← s.endBounds sk a (srcLen w0 w3) true
  let dst ← s.endBounds dk b (dstLen w0 w3) false
  let idx ← if indexed then s.endBounds 1 w3 (some (reqN w3 * idxSize w0)) true else pure (.near 0 0)
  s.endRights sk a true
  s.endRights dk b false
  raiseIf (indexed && decide (reqIdx w3 % idxSize w0 ≠ 0)) 0x05 (BitVec.ofNat 64 (reqIdx w3))
  let key := match idx with
    | .near k _ => k
    | _ => 0
  pure
    { tid := s.cur, tenant := s.src.tenant, grp := s.src.grp, deadline := s.src.dueBy, det := s.src.det, w0 := w0, w1 := a, w2 := b, w3 := w3
      idx := key, src := src, dst := dst, pos := 0, done := 0, exc := 0, bad := 0, pause := .no, fail := false, since := 0 }

/-- The lowest-numbered empty mailbox (04 R84). -/
def Core.freeMail (c : Core) : Option Nat := (List.range 4).find? fun n => !(c.mail.any fun p => p.1 = n)

/-- An event of an engine or a mailbox: the flue slot of a core goes on if it is parked, and otherwise finds the event once it has
nothing else to do (09 R166). -/
def State.flueEvent (s : State) (cid : Nat) : State :=
  let s := s.setCore cid { s.core cid with event := true }
  if (s.th (cid * 16 + 15)).park = .flue then s.updTh (cid * 16 + 15) Thread.wake else s

def execFlue (x : GReg) (g : Fin 8) (s : State) : Out :=
  s.issueC g fun s => do
    allOf [s.need [.reg x.val] [], s.accessGate]
    let k ← s.ownStore (s.src.reg x.val) 32 32
    let ws ← s.plainWords (s.src.reg x.val).toNat k 4
    let r ← s.capture ws
    let c := s.core s.cid
    match c.freeMail with
    | none => .error (.park .mailbox ⟨.msg, 8, none, none⟩)
    | some n => pure ((s.setCore s.cid { c with mail := c.mail ++ [(n, r)] }).flueEvent s.cid)

/-! ### Engine commands (16 R271) -/

/-- Engine commands of a core in flight (04 R85). -/
def State.engines (s : State) (cid : Nat) : Nat :=
  s.flight.countP fun p => match p.2 with
    | .engine c _ => decide (c = cid)
    | .coll c _ _ => decide (c = cid)
    | _ => false

/-- The completion message of 04 R86 takes the request's place in flight, with the flue slot's STATUS.TX (16 R273). EXC of a GATH or SCAT
that met absent indices and wrote poisoned words too is the sum of both counts, which is the model's choice (notes/assumptions/18.md). So
is it that DONE rounds an odd number of F4 elements down to whole bytes, and wraps at 2^40 (notes/assumptions/26.md). -/
def State.completion (s : State) (cid : Nat) (r : Req) (status : Nat) : Msg :=
  let exc := min (r.exc + r.bad) (2 ^ 24 - 1)
  ⟨cid * 16 + 15, reqTag r.w0, 0, false, (s.th (cid * 16 + 15)).tx,
    [BitVec.ofNat 64 (status * 2 ^ 56 + reqOp r.w0 * 2 ^ 52 + reqTag r.w0), BitVec.ofNat 64 (exc * 2 ^ 40 + r.done / 8 % 2 ^ 40)],
    r.tid, false, 0⟩

/-- An engine command ends: its packets are gone, and its message leaves now, after those that the core's engines have sent before it. -/
def State.finish (s : State) (id cid : Nat) (r : Req) (status : Nat) : State :=
  (((s.unpack [id]).dropItem id).post (.message (s.completion cid r status))).flueEvent cid

/-- Every thread of the core that parks on a full set of mailboxes issues its FLUE again (04 R84). -/
def State.wakeMail (s : State) (cid : Nat) : State :=
  (List.range 16).foldl (fun s sl =>
    if (s.th (cid * 16 + sl)).park = .mailbox then s.updTh (cid * 16 + sl) Thread.wake else s) s

/-- A group that is being saved has its requests left alone (04 R92): the mailbox of one reads as empty to BCPY, GATH, SCAT and COLL, and does
not count as the oldest, which is the model's choice (State.engineStatus; notes/assumptions/26.md). -/
def State.saving (s : State) (cid : Nat) (r : Req) : Bool :=
  match r.grp with
  | some g => (s.group (pkgOf cid) g).any fun x => x.state ≠ .running
  | none => false

/-- The live clusters of a tenant in a COLL's scope: every cluster that the tenant owns, whatever runs on it, which is the model's choice
(04 R91; notes/assumptions/26.md). -/
def State.liveClusters (s : State) (cid : Nat) (r : Req) : Nat :=
  let n := match reqScope r.w0 with
    | 3 => (didOf cid * 16, 16)
    | 4 => (pkgOf cid * 64, 64)
    | _ => (0, 64 * s.npkg)
  (List.range n.2).countP fun i => (s.cluster (n.1 + i)).tenant = r.tenant

/-- A COLL in flight: its stamp, its core, its request and whether it is frozen. -/
structure Joined where
  id : Nat
  cid : Nat
  req : Req
  frozen : Bool
  deriving DecidableEq, Repr

/-- Two requests join one collective. -/
def sameColl (a b : Joined) : Bool :=
  reqCid a.req.w3 = reqCid b.req.w3 && a.req.tenant = b.req.tenant && reqScope a.req.w0 = reqScope b.req.w0 &&
    (match reqScope a.req.w0 with
      | 3 => didOf a.cid = didOf b.cid
      | 4 => pkgOf a.cid = pkgOf b.cid
      | _ => true)

/-- Every COLL in flight, in the order of joining. -/
def State.colls (s : State) : List Joined :=
  s.flight.filterMap fun p => match p.2 with
    | .coll c r f => some ⟨p.1, c, r, f⟩
    | _ => none

/-- The participants of a request's collective, in the order of joining. -/
def State.joined (s : State) (x : Joined) : List Joined := s.colls.filter (sameColl x)

/-- The lowest rank that a thread's group holds in a cluster, by its placement at launch: the logical order of 11 R203. -/
def State.lowestRank (s : State) (cid : Nat) (grp : Option Nat) : Nat :=
  match grp.bind fun g => s.group (pkgOf cid) g with
  | none => 0
  | some x =>
    if x.launched then (x.lsOff.map fun c => clidOf c.1).idxOf (clidOf cid) * Fld (x.record.getD 4 0) 50 47
    else ((x.threads.filter fun t => clidOf (cidOf t) = clidOf cid).map fun t => (s.th t).rank).foldl min 0xFFFFFFFF

/-- Every collective is frozen that has a participant on a halted package, and no other one. While it is frozen `since` holds the time
that each participant has waited, and counting goes on from there (04 R93). -/
def State.freezeColls (s : State) : State :=
  { s with
    flight := s.flight.map fun (p : Nat × Item) => match p.2 with
      | .coll c r f =>
        let on := (s.joined ⟨p.1, c, r, f⟩).any fun y => (s.pkg (pkgOf y.cid)).service.halt
        if f = on then p else (p.1, .coll c { r with since := (s.time.toNat + 2 ^ 48 - r.since) % 2 ^ 48 } on)
      | _ => p }

/-- A request joins its collective, with its logical order and its time of joining (04 R91). A participant on a halted package freezes it
for every one that has joined (04 R93). -/
def State.joinColl (s : State) (cid : Nat) (r : Req) : State :=
  (s.post (.coll cid { r with rank := s.lowestRank cid r.grp, since := s.time.toNat } false)).freezeColls

/-- The status of an engine command for mailbox `mb` (16 R271). One whose request is held back by a pre-emption is EMPTY, and another is not
held to wait for it: the model's choice (04 R92; notes/assumptions/26.md). -/
def State.engineStatus (s : State) (op mb : Nat) : Nat :=
  let mail := (s.core s.cid).mail.filter fun p => !s.saving s.cid p.2
  if 16 ≤ s.engines s.cid then 1
  else match mail.find? fun p => p.1 = mb with
    | none => 2
    | some (_, r) =>
      if (mail.head?.map (·.1)) ≠ some mb then 3
      else if reqOp r.w0 ≠ op then 4
      else 0

/-- BCPY, GATH, SCAT and COLL: the request goes to its engine. -/
def State.toEngine (s : State) (op : Nat) (d : XReg) (mb : Fin 4) : R := do
  allOf [s.need [] [xplace d], s.acquireGate]
  raiseIf (decide (slotOf s.cur ≠ 15)) 0x02 s.iss.word
  let st := s.engineStatus op mb.val
  let c := s.core s.cid
  match st, c.mail.find? fun p => p.1 = mb.val with
  | 0, some (_, r) =>
    let s := (s.setCore s.cid { c with mail := c.mail.filter fun p => decide (p.1 ≠ mb.val) }).wakeMail s.cid
    let s := s.writeX d 0
    if op ≠ 3 then pure (s.post (.engine s.cid r))
    else if s.liveClusters s.cid r < reqPcnt r.w3 then pure (s.post (.message (s.completion s.cid r 4)))
    else pure (s.joinColl s.cid r)
  | _, _ => pure (s.writeX d (BitVec.ofNat 64 st))

def execBcpy (d : XReg) (mb : Fin 4) (s : State) : Out := s.issue fun s => s.toEngine 0 d mb
def execGath (d : XReg) (mb : Fin 4) (s : State) : Out := s.issue fun s => s.toEngine 1 d mb
def execScat (d : XReg) (mb : Fin 4) (s : State) : Out := s.issue fun s => s.toEngine 2 d mb
def execColl (d : XReg) (mb : Fin 4) (s : State) : Out := s.issue fun s => s.toEngine 3 d mb

/-! ### Engine accesses -/

/-- The runs of keys of the `n` bytes of an endpoint from `off` on, page by page, or the walk that it needs. -/
def State.endRuns (s : State) (cid tenant : Nat) (wr : Bool) (e : EndPt) : Nat → Nat → Nat → Except Walk (List (Nat × Nat))
  | 0, _, _ => .ok []
  | fuel + 1, off, n =>
    if n = 0 then .ok []
    else match e with
      | .near k _ => .ok [(k + off, n)]
      | .host a => .ok [(keyHost (a + off), n)]
      | .far pod va _ ea => do
        let v := va + off
        let m := min n (2 ^ 16 - v % 2 ^ 16)
        let acc := if wr then accEngWrite else accEngRead
        match s.tuHit (clidOf cid) tenant pod v acc with
        | none => .error ⟨cid * 16 + 15, clidOf cid, pkgOf cid, tenant, pod, v, ea, acc, none⟩
        | some x => do
          let l ← s.endRuns cid tenant wr e fuel (off + m) (n - m)
          pure ((leafKeyOf x.leaf v, m) :: l)

/-- D of the pages that an engine writes (02 R50). -/
def State.dirtyEnd (s : State) (cid tenant : Nat) (e : EndPt) (off n : Nat) : State :=
  match e with
  | .far pod va _ _ =>
    (List.range (n / 2 ^ 16 + 2)).foldl (fun s i =>
      let v := (va + off) / 2 ^ 16 * 2 ^ 16 + i * 2 ^ 16
      if v < va + off + n then s.dirtyAt (clidOf cid) tenant pod v accEngWrite else s) s
  | _ => s

/-- A walk pauses an engine's request; where none may start, the engine tries again (02 R45, R54). -/
def State.engStop (s : State) (id : Nat) (w : Walk) : State :=
  if s.walkFree w then (s.setPause id .walk).post (.walk { w with eng := some id }) else s

/-- The keys of runs, byte by byte. -/
def keysOf (runs : List (Nat × Nat)) : List Nat := runs.flatMap fun x => (List.range x.2).map fun i => x.1 + i

/-- One of an access's packets has brought a byte to its port; a byte that does not cross the net needs none. One whose packet a failed
port has dropped is lost (28 R387). -/
def reached (net : List (Nat × Packet)) (wr : Bool) (k : Nat) : Bool :=
  !crosses k || net.any fun q => q.2.atHome q.1 && q.2.wr = wr && decide (q.2.key ≤ k) && decide (k < q.2.key + q.2.len)

/-- A byte as an engine reads it, with whether its word is poisoned: a lost one reads as poisoned (03 R66, 28 R387). -/
def State.engByte (s : State) (net : List (Nat × Packet)) (k : Nat) : Byte × Bool :=
  (BitVec.ofNat 8 (s.load k 1), s.poisoned k 1 || !reached net false k)

/-- Bytes by key, each with whether it is poisoned. -/
abbrev Cells := List (Nat × (Byte × Bool))

/-- Writes cells word by word, and counts the words written poisoned. A word written whole takes the new bytes and loses its poison; a
poisoned word of which an engine writes less stays as it is, since 02 R58 gives only a store's trap: the model's choice
(notes/assumptions/18.md). A word with a poisoned byte becomes poisoned. The host's memory holds no poison: a poisoned word that goes there
counts, and its bytes are written plain, which is the model's choice (02 R58; notes/assumptions/26.md). -/
def State.writeCells (s : State) (m : Cells) : State × Nat :=
  (m.map fun c => c.1 / 8).eraseDups.foldl (fun (p : State × Nat) w =>
    let own := m.filter fun c => decide (c.1 / 8 = w)
    let s := if own.length = 8 then p.1.storeAt (8 * w) (own.map (·.2.1))
      else own.foldl (fun (s : State) c => s.storeAt c.1 [c.2.1]) p.1
    if own.any (·.2.2) then (if isHostKey (8 * w) then s else s.writePoison (8 * w), p.2 + 1) else (s, p.2)) (s, 0)

/-- Elements of 4 bits share a byte, the lower-numbered one in bits [3:0]. -/
def elemAt (bytes : List (Byte × Bool)) (w k : Nat) : Nat × Bool :=
  let x := ofBytes (bytes.map (·.1))
  (if w = 4 then x / 2 ^ (4 * (k % 2)) % 16 else x, bytes.any (·.2))

/-- The bytes that element `k` with `w` bits is written as, over the byte that holds it. -/
def elemBytes (old : List (Byte × Bool)) (w k code : Nat) (bad : Bool) : List (Byte × Bool) :=
  if w = 4 then
    let x := ofBytes (old.map (·.1))
    [(BitVec.ofNat 8 (setBits x (4 * (k % 2) + 3) (4 * (k % 2)) code), bad || old.any (·.2))]
  else (toBytes (w / 8) code).map fun b => (b, bad)

/-- What one hop of a BCPY, GATH or SCAT writes, over what the hops before it write. -/
def State.hopCells (s : State) (net : List (Nat × Packet)) (r : Req) (m : Cells) (h : Hop) : Cells :=
  let got := (keysOf h.rd).map (s.engByte net)
  let put := if reqOp r.w0 = 0 then got
    else match reqFmt r.w0 with
      | none => []
      | some f =>
        let old := (keysOf h.wr).map fun k => lookup (BitVec.ofNat 8 (s.load k 1), false) m k
        let x := if h.rd.isEmpty then (absentCode f, h.bad) else elemAt got (fmtWidth f) h.rn
        elemBytes old (fmtWidth f) h.wn x.1 x.2
  (((keysOf h.wr).zip put).filter fun c => reached net true c.1).foldl (fun (m : Cells) c => insert m c.1 c.2) m

/-- Bits that a hop writes, of the bytes that its packets have brought to their ports. -/
def Hop.bits (net : List (Nat × Packet)) (r : Req) (h : Hop) : Nat :=
  let n := ((keysOf h.wr).filter (reached net true)).length
  if reqOp r.w0 ≠ 0 ∧ (reqFmt r.w0).map fmtWidth = some 4 then 4 * n else 8 * n

/-- The accesses that a request holds are performed at one instant (04 R87). -/
def State.performPath (s : State) (id : Nat) (r : Req) : State × Req :=
  let net := s.packetsOf id
  let p := s.writeCells (r.path.foldl (s.hopCells net r) [])
  let n := (r.path.map (Hop.bits net r)).foldl (· + ·) 0
  ((p.1.unpack [id]).settleLocks, { r with path := [], done := r.done + n, bad := r.bad + p.2 })

/-- The packets of the accesses that a request holds leave (03 R63). -/
def State.sendPath (s : State) (id cid : Nat) (r : Req) : State :=
  (s.sendOut id cid r.tenant r.deadline false (r.path.flatMap (·.rd))).sendOut id cid r.tenant r.deadline true
    (r.path.flatMap (·.wr))

/-- A request takes in one more access, and the stamp of the first. -/
def Req.take (r : Req) (h : Hop) (stamp : Nat) : Req :=
  { r with path := r.path ++ [h], used := if r.path.isEmpty then stamp else r.used }

def State.setReq (s : State) (id cid : Nat) (r : Req) : State := s.setItem id (.engine cid r)

def State.complete (s : State) (id cid : Nat) (r : Req) : State := s.finish id cid r (if r.bad = 0 then 0 else 1)

/-! ### Copies (04 R87) -/

/-- Where the next byte of an endpoint stands within the blocks of 256 bytes in which a BCPY moves it. -/
def EndPt.within (e : EndPt) (off : Nat) : Nat :=
  (match e with
    | .far _ va _ _ => va
    | .near k _ => k
    | .host a => a) + off

/-- One step of a BCPY: it sends for the bytes up to the next 256-byte boundary of its destination, or moves those that it has sent
for. -/
def State.stepCopy (s : State) (id cid : Nat) (r : Req) : State :=
  if !r.path.isEmpty then
    if s.arrived id then
      let p := s.performPath id r
      p.1.setReq id cid { p.2 with pos := r.pos + (keysOf (r.path.flatMap (·.wr))).length }
    else s
  else if reqLen r.w3 ≤ r.pos then s.complete id cid r
  else
    let n := min (reqLen r.w3 - r.pos) (256 - r.dst.within r.pos % 256)
    match s.endRuns cid r.tenant false r.src 2 r.pos n, s.endRuns cid r.tenant true r.dst 2 r.pos n with
    | .error w, _ | .ok _, .error w => s.engStop id w
    | .ok a, .ok b =>
      let r' := r.take { rd := a, wr := b } s.serial
      ((s.dirtyEnd cid r.tenant r.dst r.pos n).numbered.sendPath id cid r').setReq id cid r'

/-! ### Gathers and scatters (04 R88, R89) -/

/-- What an index of the list names: an element; none for an absent, negative or out-of-range one; or nothing that can be read, since
its word is poisoned. -/
inductive Index where
  | elem (i : Nat)
  | none
  | bad
  deriving DecidableEq, Repr

def State.indexRun (r : Req) : List (Nat × Nat) := [(r.idx + r.pos * idxSize r.w0, idxSize r.w0)]

/-- The next index of the list (04 R88). The bound of a table at a near address is the end of its range, and one at a HOST address has none
that an index reaches: the model's choices, since the rule names a segment's LIMIT alone (notes/assumptions/26.md). -/
def State.indexAt (s : State) (r : Req) (w : Nat) (table : EndPt) : Index :=
  let n := idxSize r.w0
  let k := r.idx + r.pos * n
  let x := s.load k n
  let i : Int := if n = 8 then toSigned 64 x else Int.ofNat x
  let room := match table with
    | .far _ _ room _ | .near _ room => 8 * room
    | .host _ => 2 ^ 64
  if s.poisoned k n then .bad
  else if n = 4 && x = 0xFFFFFFFF then .none
  else if i < 0 then .none
  else if i.toNat * w + w ≤ room then .elem i.toNat
  else .none

/-- The runs of element `k` of an endpoint, with elements of `w` bits. -/
def State.elemRuns (s : State) (cid tenant : Nat) (wr : Bool) (e : EndPt) (w k : Nat) : Except Walk (List (Nat × Nat)) :=
  s.endRuns cid tenant wr e 2 (k * w / 8) (max 1 (w / 8))

/-- The access of one index, or none where a SCAT skips its element. That a poisoned index delivers a poisoned absent element, and of a
SCAT skips it, is the model's choice (notes/assumptions/18.md). -/
def State.indexHop (s : State) (cid : Nat) (r : Req) (w : Nat) : Except Walk (Option Hop) :=
  if reqOp r.w0 = 1 then
    match s.indexAt r w r.src with
    | .elem i => do
      let a ← s.elemRuns cid r.tenant false r.src w i
      let b ← s.elemRuns cid r.tenant true r.dst w r.pos
      pure (some { rd := a, wr := b, rn := i % 2, wn := r.pos % 2 })
    | x => do
      let b ← s.elemRuns cid r.tenant true r.dst w r.pos
      pure (some { rd := [], wr := b, wn := r.pos % 2, bad := decide (x = .bad) })
  else
    match s.indexAt r w r.dst with
    | .elem i => do
      let a ← s.elemRuns cid r.tenant false r.src w r.pos
      let b ← s.elemRuns cid r.tenant true r.dst w i
      pure (some { rd := a, wr := b, rn := r.pos % 2, wn := i % 2 })
    | _ => pure none

/-- An index that its list leaves out counts in EXC: of a GATH one that delivers absent, unless it delivers poison. -/
def uncounted (h : Option Hop) : Nat :=
  match h with
  | none => 1
  | some h => if h.rd.isEmpty && !h.bad then 1 else 0

/-- D of the page of the element that an access writes. -/
def State.dirtyHop (s : State) (cid : Nat) (r : Req) (w i : Nat) : State :=
  s.dirtyEnd cid r.tenant r.dst (i * w / 8) (max 1 (w / 8))

/-- The number of the element that a hop writes. -/
def State.wroteTo (s : State) (r : Req) (w : Nat) : Nat :=
  if reqOp r.w0 = 1 then r.pos
  else match s.indexAt r w r.dst with
    | .elem i => i
    | _ => 0

/-- One step of a GATH or SCAT: the next index, and once all are known, all the elements at one instant: no destination word is ever
seen half moved (04 R87). -/
def State.stepIndexed (s : State) (id cid : Nat) (r : Req) : State :=
  match reqFmt r.w0 with
  | none => s
  | some f =>
    let w := fmtWidth f
    if reqN r.w3 ≤ r.pos then
      if r.path.isEmpty then s.complete id cid r
      else if s.arrived id then
        let p := s.performPath id r
        p.1.complete id cid p.2
      else s
    else if !(s.cutOff cid r.tenant (State.indexRun r)).isEmpty then
      (s.crossing cid r.tenant r.deadline false (State.indexRun r)).finish id cid r 3
    else
      match s.indexHop cid r w with
      | .error x => s.engStop id x
      | .ok h =>
        let r' := { (match h with
          | some h => r.take h s.serial
          | none => r) with pos := r.pos + 1, exc := r.exc + uncounted h }
        let s' := s.crossing cid r.tenant r.deadline false (State.indexRun r)
        let s' := if h.isSome then (s'.dirtyHop cid r w (s.wroteTo r w)).numbered else s'
        (if reqN r.w3 ≤ r'.pos then s'.sendPath id cid r' else s').setReq id cid r'

/-! ### Collectives (04 R90, R91, R93; 11 R203) -/

/-- The participants that one collective takes: the first PCNT that joined, by ascending core number. One with PCNT 0 has none but
itself (04 R91). Requests that name different PCNTs each take their own number, further posts and a cluster's second one among them, and
a core's number counts through the pod, its package first: the model's choices (04 R90; notes/assumptions/26.md). -/
def State.party (s : State) (x : Joined) : List Joined :=
  if reqPcnt x.req.w3 = 0 then [x]
  else inOrderOf (fun a b => decide (a.cid ≤ b.cid)) ((s.joined x).take (reqPcnt x.req.w3))

/-- A reduction that counts, which ignores TYPE (04 R90). -/
def counting (w0 : Word) : Bool := decide (reqKind w0 < 2) && decide (reqRop w0 = 4)

/-- Participants that disagree on CKIND, ROP, TYPE or NEL (04 R86, R90). -/
def disagree (l : List Joined) : Bool :=
  match l with
  | [] => false
  | x :: t => t.any fun y =>
    decide (reqKind x.req.w0 ≠ reqKind y.req.w0) || decide (reqRop x.req.w0 ≠ reqRop y.req.w0) ||
      (!counting x.req.w0 && decide (Fld x.req.w0 52 49 ≠ Fld y.req.w0 52 49)) || decide (reqNel x.req.w3 ≠ reqNel y.req.w3)

def State.finishAll (s : State) (l : List Joined) (status : Nat) : State :=
  l.foldl (fun s x => s.finish x.id x.cid x.req status) s

/-- Outside deterministic mode: two of the nodes, chosen freely, are combined until one is left (04 R90). -/
def freeTree (f : Nat → Nat → Nat) (pick : Nat → Nat) : Nat → Nat → List Nat → Nat
  | 0, _, l => l.headD 0
  | fuel + 1, n, l =>
    if l.length ≤ 1 then l.headD 0
    else
      let i := pick n % l.length
      let a := l.getD i 0
      let l := l.eraseIdx i
      let j := pick (n + 1) % l.length
      freeTree f pick fuel (n + 2) (f a (l.getD j 0) :: l.eraseIdx j)

/-- Combining two contributions (01 R20), rounding with RNE; whether integers saturate is open (notes/assumptions/18.md). -/
def combine (rop : Nat) (f : Fmt) (a b : Nat) : Nat :=
  match f with
  | .i64 | .i32 | .i16 | .i8 | .ui32 | .ui8 | .ts8 =>
    (iArith (if rop = 2 then .min else if rop = 3 then .max else .add) f Config.collSaturates a b).1
  | _ =>
    if rop = 2 then (fMinMax false f false a b).code
    else if rop = 3 then (fMinMax true f false a b).code
    else (fArith .add f false .rne 0 a b).code

/-- One element of a reduction from the contributions in their order. COUNT adds ones (State.contribution). -/
def reduceElem (rop : Nat) (f : Fmt) (det : Bool) (pick : Nat → Nat) (l : List Nat) : Nat :=
  let count := l.countP fun x => decide (x ≠ absentCode f)
  let sum := if det then (tree (fun _ a b => ⟨combine rop f a b, 0, 0⟩) (Nat.log2 l.length + 1) 0 l).code
    else freeTree (combine rop f) pick l.length 0 l
  if rop = 1 && decide (0 < count) then
    match f with
    | .i64 | .i32 | .i16 | .i8 | .ui32 | .ui8 | .ts8 => (fit f Config.collSaturates (nearestEven (intVal f sum) count)).1
    | _ => (fMean f false .rne 0 sum count).code
  else sum

/-- Elements as bytes; a poisoned element poisons its bytes. -/
def packElems (w : Nat) (l : List (Nat × Bool)) : List (Byte × Bool) :=
  if w = 4 then
    (List.range ((l.length + 1) / 2)).map fun i =>
      let a := l.getD (2 * i) (0, false)
      let b := l.getD (2 * i + 1) (0, false)
      (BitVec.ofNat 8 (a.1 % 16 + 16 * (b.1 % 16)), a.2 || b.2)
  else (l.map fun x => (toBytes (w / 8) x.1).map fun b => (b, x.2)).flatten

def unpackElems (w n : Nat) (l : List (Byte × Bool)) : List (Nat × Bool) :=
  (List.range n).map fun i =>
    elemAt ((l.drop (i * w / 8)).take (max 1 (w / 8))) w i

/-- The format of what a collective delivers: counts are UI32 (04 R90). -/
def collFmt (w0 : Word) (f : Fmt) : Fmt := if counting w0 then .ui32 else f

/-- What a participant brings in: its elements; to a count, 1 for each that is present in its own TYPE (notes/assumptions/18.md). -/
def State.contribution (s : State) (x : Joined) : List (Nat × Bool) :=
  match reqFmt x.req.w0 with
  | none => []
  | some f =>
    let bytes := (keysOf (x.req.path.flatMap (·.rd))).map (s.engByte (s.packetsOf x.id))
    let es := unpackElems (fmtWidth f) (reqNel x.req.w3) bytes
    if counting x.req.w0 then es.map fun e => (if e.1 = absentCode f then absentCode .ui32 else 1, e.2) else es

/-- What a collective delivers to participant number `me` in core order; `none` where it delivers nothing to it. That CKIND 0 delivers to
the participant of the lowest core number alone is the model's choice: no rule names the receiver (04 R85, R90; notes/assumptions/26.md).
-/
def delivered (kind rop : Nat) (f : Fmt) (nel : Nat) (det : Bool) (pick : Nat → Nat)
    (byCore logical : List (List (Nat × Bool))) (me : Nat) : Option (List (Byte × Bool)) :=
  let w := fmtWidth f
  match kind with
  | 2 => some (packElems w (byCore.headD []))
  | 3 => some ((byCore.map (packElems w)).flatten)
  | _ =>
    if kind = 0 && decide (me ≠ 0) then none
    else
      some (packElems w ((List.range nel).map fun i =>
        let col := logical.map fun c => c.getD i (absentCode f, false)
        (reduceElem rop f det (fun n => pick (4096 * i + n)) (col.map (·.1)), col.any (·.2))))

/-- A COLL with PCNT 0 delivers absent in every destination element (04 R91). -/
def nothingDelivered (w0 : Word) (f : Fmt) (nel : Nat) : List (Byte × Bool) :=
  if reqKind w0 = 3 then []
  else packElems (fmtWidth (collFmt w0 f)) (List.replicate nel (absentCode (collFmt w0 f), false))

/-- The accesses of every participant, or the first walk that one of them needs. -/
def State.partyHops (s : State) : List Joined → Except (Nat × Walk) (List (Joined × Hop))
  | [] => .ok []
  | x :: t =>
    let sn := if reqPcnt x.req.w3 = 0 then 0 else (srcLen x.req.w0 x.req.w3).getD 0
    let dn := (dstLen x.req.w0 x.req.w3).getD 0
    match s.endRuns x.cid x.req.tenant false x.req.src (sn / 2 ^ 16 + 2) 0 sn,
      s.endRuns x.cid x.req.tenant true x.req.dst (dn / 2 ^ 16 + 2) 0 dn with
    | .error w, _ | .ok _, .error w => .error (x.id, w)
    | .ok a, .ok b => match s.partyHops t with
      | .error e => .error e
      | .ok l => .ok ((x, { rd := a, wr := b }) :: l)

/-- The collective delivers: every participant's data is written, and every one's completion message leaves. One participant in deterministic
mode makes the tree fixed for all, which is the model's choice (04 R90; notes/assumptions/26.md). -/
def State.performColl (s : State) (l : List Joined) (f : Fmt) : State :=
  match l.head?.map (·.req) with
  | none => s
  | some r =>
    let nel := reqNel r.w3
    let g := collFmt r.w0 f
    let byCore := l.map s.contribution
    let det := l.any fun x => x.req.det
    let order := inOrderOf (fun a b => decide (a.1 ≤ b.1)) ((l.map fun x => x.req.rank).zip byCore)
    let pick (n : Nat) : Nat := Config.freeChoice (s.fresh + n)
    let data (me : Nat) : Option (List (Byte × Bool)) :=
      if reqPcnt r.w3 = 0 then some (nothingDelivered r.w0 f nel)
      else delivered (reqKind r.w0) (reqRop r.w0) g nel det pick byCore (if det then order.map (·.2) else byCore) me
    let nets := l.map fun x => s.packetsOf x.id
    let s := { s with fresh := s.fresh + 4096 * nel }
    ((l.zip nets).zipIdx.foldl (fun (s : State) p =>
      let x := p.1.1
      match data p.2 with
      | none => s.finish x.id x.cid x.req 0
      | some d =>
        let cells := ((keysOf (x.req.path.flatMap (·.wr))).zip d).filter fun c => reached p.1.2 true c.1
        let q := (s.dirtyEnd x.cid x.req.tenant x.req.dst 0 d.length).writeCells cells
        q.1.complete x.id x.cid { x.req with done := 8 * cells.length, bad := q.2 }) s).settleLocks

/-- Every participant's accesses leave, each from its own core. -/
def State.sendColl (s : State) (l : List (Joined × Hop)) : State :=
  l.foldl (fun (s : State) p =>
    let r := p.1.req.take p.2 s.serial
    (s.numbered.sendPath p.1.id p.1.cid r).setItem p.1.id (.coll p.1.cid r p.1.frozen)) s

/-- Packages of a collective's participants that a fabric port without a link keeps apart (28 R387). -/
def State.partyCut (s : State) (l : List Joined) : Bool := l.any fun x => l.any fun y => s.unlinked (pkgOf x.cid) (pkgOf y.cid)

/-- What participants of several packages send each other wakes them (28 R391). -/
def State.wakeParty (s : State) (l : List Joined) : State :=
  let ps := (l.map fun x => pkgOf x.cid).eraseDups
  if 2 ≤ ps.length then ps.foldl State.wakePkg s else s

/-- One step of a collective. What ends one participant once all have joined ends it for every one of them: a pager's FAIL and a port's
refusal (04 R86, R91; notes/assumptions/18.md). It reads nothing before every participant's earlier stores have drained (08 R156), and
between packages it waits for their links (28 R387; notes/assumptions/12.md). -/
def State.stepColl (s : State) (x : Joined) : State :=
  match reqFmt x.req.w0 with
  | none => s
  | some f =>
    let l := s.party x
    if decide (l.length < reqPcnt x.req.w3) || l.any (fun y => y.frozen || !s.drained y.req.tid y.id) || s.partyCut l then s
    else if disagree l then s.finishAll l 5
    else if l.any fun y => y.req.fail then s.finishAll l 2
    else if l.any fun y => y.req.refused then s.finishAll l 3
    else if l.any fun y => decide (y.req.pause ≠ .no) then s
    else if l.any fun y => y.req.path.isEmpty then
      match s.partyHops l with
      | .error (id, w) => s.engStop id w
      | .ok hops => s.sendColl hops
    else if l.all fun y => s.arrived y.id then (s.wakeParty l).performColl l f
    else s

/-- COMPLETION_MESSAGE: an engine takes its next step, and sends its completion message once it is done (04 R86). It reads nothing
before the thread's earlier stores have drained (08 R156). -/
def execCompletionMessage (id : Nat) (s : State) : Out :=
  match s.item id with
  | some (.engine cid r) =>
    if r.fail then .next (s.finish id cid r 2)
    else if r.refused then .next (s.finish id cid r 3)
    else if r.pause ≠ .no || !s.drained r.tid id then .next s
    else .next (if reqOp r.w0 = 0 then s.stepCopy id cid r else s.stepIndexed id cid r)
  | some (.coll cid r f) => .next (s.stepColl ⟨id, cid, r, f⟩)
  | _ => .next s

/-- COLL_TIMEOUT: TMO µs have passed and a participant is missing; every one that joined completes with TIMEOUT (04 R91). -/
def execCollTimeout (id : Nat) (s : State) : Out :=
  match s.item id with
  | some (.coll cid r false) =>
    let l := s.joined ⟨id, cid, r, false⟩
    let waited := (s.time.toNat + 2 ^ 48 - r.since) % 2 ^ 48
    if reqTmo r.w0 ≠ 0 && decide (reqTmo r.w0 * 1000 ≤ waited) && decide (l.length < reqPcnt r.w3) &&
        !(l.any fun y => y.frozen) then
      .next (s.finishAll l 6)
    else .next s
  | _ => .next s

end Sys2Proof.Machine
end

