-- ==== Sys2Proof/Machine/Record.lean ====
section
/-! DEFINITION. Machine/Record.lean: the thread record of a save area, which Mirmor reads and writes too (12 R214, 28 R395). -/
namespace Sys2Proof.Machine

/-- The code of a handle's kind. -/
def RingKind.code : RingKind → Nat
  | .unbound => 0 | .loc => 1 | .inn => 2 | .out => 3

def ringKind (n : Nat) : RingKind :=
  match n with
  | 0 => .unbound | 1 => .loc | 2 => .inn | _ => .out

/-- What the layout of a ring handle's 16 bytes encodes; the layout is the engine's own (12 R214). -/
def Ring.fields (r : Ring) : List Nat :=
  [r.kind.code, r.size, r.cap, r.base % 2 ^ 18, r.head, r.tail, r.filled, r.cons, r.consQ, r.free] ++
    (r.staged.map fun p => [p.1, p.2.data]).flatten

/-- A handle with the fields that a write of its words gives it, each brought into its range (05 R103). The channel of a thread of core
`cid` lies in that core's local store. -/
def Ring.withFields (r : Ring) (cid : Nat) (l : List Nat) : Ring :=
  let x (i : Nat) : Nat := l.getD i 0
  let cap := 2 ^ (x 2 % 8 + 1)
  { r with
    kind := ringKind (x 0 % 4)
    size := 8 * 2 ^ (x 1 % 4)
    cap := cap
    base := keyLocal cid (x 3 % 0x30000 / 64 * 64)
    head := x 4 % cap
    tail := x 5 % cap
    filled := min (x 6) cap
    cons := x 7 % 2 ^ 25
    consQ := x 8 % 8
    free := min (x 9) cap }

/-- The draining state and the stage-state declaration (07 R140, R142). -/
def Thread.stageFields (t : Thread) : List Nat :=
  (match t.drain with
    | some d => [1, d.snum, d.orig, d.inh, d.x]
    | none => [0]) ++
  (match t.inherit with
    | some p => [1, p.1, p.2]
    | none => [0])

/-- The parked kind of word 0x6E0 (12 R214). -/
def Park.kind : Park → Nat
  | .none | .page _ => 0
  | .sync => 1
  | .mailbox => 2
  | .lock => 3
  | .barrier _ _ => 4
  | .sleep => 5
  | .gangw => 6
  | .recvs _ _ => 7
  | .waitm _ => 8
  | .flue => 2

/-- A thread with the stage state that a write of its words gives it. -/
def Thread.withStage (t : Thread) (l : List Nat) : Thread :=
  let x (i : Nat) : Nat := l.getD i 0
  { t with
    drain := if x 0 % 2 = 1 then some { snum := x 1 % 2 ^ 16, orig := x 2 % 2 ^ 25, inh := x 3 % 4, x := x 4 % 2 ^ 25 } else none
    inherit :=
      let base := x 6 % 0x30000 / 8 * 8
      if x 5 % 2 = 1 then some (base, min (x 7 % 65537 / 8 * 8) (0x30000 - base)) else none }

/-- Word 0x6E0 (12 R214). -/
def Thread.flagsWord (t : Thread) : Nat :=
  t.markActive.toNat + 2 * (decide (t.park ≠ .none)).toNat + 16 * t.park.kind +
    2 ^ 8 * t.pending.poison.isSome.toNat + 2 ^ 9 * t.pending.sync.isSome.toNat + 2 ^ 10 * t.pending.late.isSome.toNat +
    2 ^ 11 * t.pending.timer.toNat + 2 ^ 16 * t.overflow.toNat + 2 ^ 48 * t.ranges.length

/-- The predicate word of a record; p0 reads as true (05 R96). -/
def Thread.predWord (t : Thread) : Nat := t.p.toNat / 2 * 2 + 1

/-- Word `i` of a thread's record: the 8 bytes at offset 8 × i (12 R214). -/
def State.recordWord (s : State) (tid : Nat) (i : Nat) : Word :=
  let t := s.th tid
  let o := 8 * i
  let n (x : Nat) : Word := BitVec.ofNat 64 x
  if o = 0 then t.pc
  else if o = 0x008 then n (t.predWord + 2 ^ 32 * t.present.toNat)
  else if o < 0x110 then t.reg ((o - 0x010) / 8)
  else if o < 0x510 then n ((t.vec ((o - 0x110) / 64)).toNat / 2 ^ ((o - 0x110) % 64 * 8) % 2 ^ 64)
  else if o < 0x530 then t.mask ((o - 0x510) / 8)
  else if o < 0x5B0 then
    let g := t.seg ((o - 0x530) / 16)
    if o / 8 % 2 = 0 then g.1 else g.2
  else if o < 0x658 then s.sysRead tid t ((o - 0x5B0) / 8)
  else if o = 0x658 then t.draws
  else if o < 0x6E0 then Config.engineWord ((o - 0x660) / 16) (t.ring ((o - 0x660) / 16)).fields (o / 8 % 2)
  else if o = 0x6E0 then n t.flagsWord
  else if o < 0x700 then Config.engineWord 8 t.stageFields ((o - 0x6E8) / 8)
  else if o < 0x720 then
    n (ofBytes (((List.range 4).map fun k => toBytes 2 (t.ranges.getD (4 * ((o - 0x700) / 8) + k) 0).toNat).flatten))
  else if o = 0x720 then t.pending.poison.getD 0
  else if o = 0x728 then (t.pending.sync.map (·.1)).getD 0
  else if o = 0x730 then t.pending.late.getD 0
  else 0

/-- The first `k` labels of a range stack, with 0 for a label that is not there. -/
def stack (l : List (BitVec 16)) (k : Nat) : List (BitVec 16) := (List.range k).map fun i => l.getD i 0

/-- A write of word 0x6E0 through Mirmor: [1] and [7:4] are only reports (12 R214). -/
def Thread.writeFlags (t : Thread) (w : Word) : Thread :=
  { t with
    markActive := w.getLsbD 0
    pending :=
      { poison := if w.getLsbD 8 then some (t.pending.poison.getD 0) else none
        sync := if w.getLsbD 9 then some (t.pending.sync.getD (0, none)) else none
        late := if w.getLsbD 10 then some (t.pending.late.getD 0) else none
        timer := w.getLsbD 11 }
    overflow := BitVec.ofNat 32 (Fld w 47 16)
    ranges := stack t.ranges (min (Fld w 52 48) 16) }

/-- A word in the engine's own layout takes a value: what that makes of its fields is the engine's (Config.engineFields), but for a write
of what the word holds, which changes nothing. -/
def engineWrite (tag : Nat) (l : List Nat) (k : Nat) (w : Word) : Option (List Nat) :=
  if Config.engineWord tag l k = w then none else some (Config.engineFields tag l k w)

/-- A write of word `i` of a stopped thread's record, on core `cid` (28 R395). Reserved bits stay 0 (00 R10), and a register that no
write changes stays as it is. -/
def Thread.recordWrite (t : Thread) (cid i : Nat) (w : Word) : Thread :=
  let o := 8 * i
  if o = 0 then { t with pc := keepBits w [(63, 3)] }
  else if o = 0x008 then { t with p := BitVec.ofNat 16 (Fld w 15 0), present := BitVec.ofNat 32 (Fld w 63 32) }
  else if o < 0x110 then { t with regs := t.regs.setIfInBounds ((o - 0x010) / 8) w }
  else if o < 0x510 then
    let k := (o - 0x110) / 64
    let at_ := (o - 0x110) % 64 * 8
    t.setVec k (BitVec.ofNat 512 (setBits (t.vec k).toNat (at_ + 63) at_ w.toNat))
  else if o < 0x530 then t.setMask ((o - 0x510) / 8) w
  else if o < 0x5B0 then
    let k := (o - 0x530) / 16
    let g := t.seg k
    t.setSeg k (if o / 8 % 2 = 0 then (segMask (w, g.2)) else (segMask (g.1, w)))
  else if o < 0x658 then
    let n := (o - 0x5B0) / 8
    if n = 0 then t.setStatus (statusWrite t.sys.status w true)
    else if n = 0x0E then { t with sys := { t.sys with timer := keepBits w [(63, 63), (47, 0)] } }
    else t.sysWrite n w
  else if o = 0x658 then { t with draws := w }
  else if o < 0x6E0 then
    let q := (o - 0x660) / 16
    match engineWrite q (t.ring q).fields (o / 8 % 2) w with
    | some l => t.setRing q ((t.ring q).withFields cid l)
    | none => t
  else if o = 0x6E0 then t.writeFlags w
  else if o < 0x700 then
    match engineWrite 8 t.stageFields ((o - 0x6E8) / 8) w with
    | some l => t.withStage l
    | none => t
  else if o < 0x720 then
    let k := 4 * ((o - 0x700) / 8)
    { t with ranges := t.ranges.zipIdx.map fun p =>
        if k ≤ p.2 ∧ p.2 < k + 4 then BitVec.ofNat 16 (Fld w (16 * (p.2 - k) + 15) (16 * (p.2 - k))) else p.1 }
  else if o = 0x720 then { t with pending := { t.pending with poison := t.pending.poison.map fun _ => w } }
  else if o = 0x728 then { t with pending := { t.pending with sync := t.pending.sync.map fun p => (w, p.2) } }
  else if o = 0x730 then { t with pending := { t.pending with late := t.pending.late.map fun _ => w } }
  else t

end Sys2Proof.Machine
end

