-- ==== Sys2Proof/Machine/Registers.lean ====
section
/-! DEFINITION. Machine/Registers.lean: the register aperture and what its registers do (10 R187; 11 R190, R191; 28 R378 to R380,
R382, R387, R389, R390, R393 to R398). -/
namespace Sys2Proof.Machine

def State.updService (s : State) (pkg : Nat) (f : Service → Service) : State :=
  s.updPkg pkg fun p => { p with service := f p.service }

/-! ### Work queues (11 R190) -/

/-- A write to the last word of QREC commits the record at the tail, stamped with its arrival; a full or disabled queue counts it
lost. -/
def State.commitRecord (s : State) (pkg q : Nat) (v : Word) : State :=
  let x := (s.pkg pkg).queue q
  let rec_ := (List.range 15).map (fun i => lookup 0 x.qrec i) ++ [v]
  let x := { x with qrec := insert x.qrec 15 v }
  s.updPkg pkg fun p =>
    p.setQueue q (if 64 ≤ x.recs.length || !x.qcfg.getLsbD 8 then x.lose else { x with recs := x.recs ++ [(rec_, s.time.toNat)] })

/-- QREC_COMMIT (11 R190). -/
def execQrecCommit (pkg q : Nat) (v : BitVec 64) (s : State) : Out :=
  s.register pkg fun s => if q < 16384 then s.commitRecord pkg q v else s

/-- A completion counter (11 R191). -/
def State.setCounter (s : State) (pkg ctr : Nat) (v : BitVec 32) : State :=
  s.updPkg pkg fun p => { p with counters := store 0 p.counters ctr v }

/-- COMPLETION_COUNTER_WRITE (11 R191). -/
def execCompletionCounterWrite (pkg ctr : Nat) (v : BitVec 32) (s : State) : Out :=
  s.register pkg fun s => if ctr < 4096 then s.setCounter pkg ctr v else s

def Queue.read (q : Queue) (o : Nat) : Word :=
  match o with
  | 0x00 => q.qcfg
  | 0x08 => BitVec.ofNat 64 q.recs.length
  | 0x10 => q.qstb
  | 0x18 => q.qstc
  | 0x20 => BitVec.ofNat 64 (q.lost * 2 ^ 16 + q.tail)
  | 0x28 => q.qsth
  | _ => 0

/-- QSTC remembers whether a reserved bit was written, which the ring test of 11 R198 looks at; the bit itself reads as 0 (00 R10). -/
def Queue.write (q : Queue) (o : Nat) (v : Word) : Queue :=
  match o with
  | 0x00 => { q with qcfg := keepBits v [(63, 16), (8, 0)] }
  | 0x10 => { q with qstb := keepBits v [(63, 6)] }
  | 0x18 => { q with qstc := keepBits v [(47, 32), (15, 0)], badStc := decide (v ≠ keepBits v [(47, 32), (15, 0)]) }
  | 0x28 => { q with qsth := keepBits v [(15, 0)] }
  | _ => if 0x80 ≤ o ∧ o < 0xF8 then { q with qrec := insert q.qrec ((o - 0x80) / 8) v } else q

/-! ### Mirmor (28 R395, R396) -/

def mDone : Nat := 0
def mBusy : Nat := 1
def mNoThread : Nat := 2
def mState : Nat := 3

/-- A thread that has left the rotation again: RUNNABLE, or PARKED while its event has not occurred. -/
def Thread.restart (t : Thread) : Thread := { t with slot := if t.park = .none then .runnable else .parked }

/-- STOP: a RUNNABLE or PARKED thread becomes STOPPED. -/
def State.mirmorStop (s : State) (tid : Nat) : State × Nat :=
  let t := s.th tid
  match t.slot with
  | .vacant => (s, mNoThread)
  | .saved => (s, mState)
  | .stopped => (s, mDone)
  | _ => if t.exited then (s, mNoThread) else (s.stopAt tid, mDone)

/-- RESUME: a STOPPED thread is RUNNABLE or PARKED again; one that has still to stop does not. -/
def State.mirmorResume (s : State) (tid : Nat) : State × Nat :=
  if (s.th tid).stopping then (s.updTh tid fun t => { t with stopping := false }, mDone)
  else match (s.th tid).slot with
  | .vacant => (s, mNoThread)
  | .stopped => (s.updTh tid fun t => { t.restart with stepping := false }, mDone)
  | _ => (s, mState)

/-- STEP: a STOPPED thread issues one pair and stops. -/
def State.mirmorStep (s : State) (tid : Nat) : State × Nat :=
  match (s.th tid).slot with
  | .vacant => (s, mNoThread)
  | .stopped => (s.updTh tid fun t => { t.restart with stepping := true }, mDone)
  | _ => (s, mState)

/-- HALT: every thread of the package stops, with R93. -/
def State.mirmorHalt (s : State) (pkg : Nat) : State :=
  let ts := (s.threads.filter fun p =>
    decide (pkgOf (cidOf p.1) = pkg) && (p.2.slot = .runnable || p.2.slot = .parked) && !p.2.exited).map (·.1)
  let s := ts.foldl (fun s t => (s.mirmorStop t).1) s
  (s.updService pkg fun v => { v with halted := ts.foldl addKey v.halted, halt := true }).freezeColls

/-- RELEASE: the threads that HALT stopped resume. -/
def State.mirmorRelease (s : State) (pkg : Nat) : State :=
  let v := (s.pkg pkg).service
  let s := v.halted.foldl (fun s t => (s.mirmorResume t).1) s
  (s.updService pkg fun v => { v with halted := [], halt := false }).freezeColls

def State.brkstop (s : State) (pkg grp : Nat) (on : Bool) : State :=
  s.updService pkg fun v => { v with brkstop := if on then addKey v.brkstop grp else delKey v.brkstop grp }

/-- A package thread identifier as a pod-wide one (00 R5, R6). -/
def podTid (pkg t : Nat) : Nat := pkg * 2 ^ 17 + t % 2 ^ 17

/-- A result in MSTAT. -/
def State.mresult (p : State × Nat) (pkg : Nat) : State := p.1.updService pkg fun v => { v with mstat := p.2 }

/-- A write of MCMD starts its operation; an unassigned OP gives STATE. -/
def State.mirmor (s : State) (pkg : Nat) (w : Word) : State :=
  let s := s.updService pkg fun v => { v with mcmd := keepBits w [(63, 56), (47, 32), (16, 0)] }
  let tid := podTid pkg (Fld w 16 0)
  let grp := Fld w 47 32
  match Fld w 63 56 with
  | 1 => State.mresult (s.mirmorStop tid) pkg
  | 2 => State.mresult (s.mirmorResume tid) pkg
  | 3 => State.mresult (s.mirmorStep tid) pkg
  | 4 => State.mresult (s.mirmorHalt pkg, mDone) pkg
  | 5 => State.mresult (s.mirmorRelease pkg, mDone) pkg
  | 6 => State.mresult (s.brkstop pkg grp true, mDone) pkg
  | 7 => State.mresult (s.brkstop pkg grp false, mDone) pkg
  | _ => State.mresult (s, mState) pkg

/-- MSTAT reads BUSY while the thread of a STEP has still to issue its pair, and while that of a STEP or a STOP has still to end one. -/
def State.mstatus (s : State) (pkg : Nat) : Nat :=
  let v := (s.pkg pkg).service
  let t := s.th (podTid pkg (Fld v.mcmd 16 0))
  if (Fld v.mcmd 63 56 = 3 && (t.stepping || t.stopping)) || (Fld v.mcmd 63 56 = 1 && t.stopping) then mBusy else v.mstat

/-- The STOPPED thread that MCMD names, whose record stands at 0x1000 (notes/assumptions/21.md). -/
def State.shown (s : State) (pkg : Nat) : Option Nat :=
  let t := podTid pkg (Fld (s.pkg pkg).service.mcmd 16 0)
  if (s.th t).slot = .stopped then some t else none

/-- A word of MCMD (28 R395). -/
def mcmdWord (op grp t : Nat) : Word := BitVec.ofNat 64 (op * 2 ^ 56 + grp % 2 ^ 16 * 2 ^ 32 + t % 2 ^ 17)

/-- Mirmor writes an operation to MCMD of a package. -/
def State.command (s : State) (pkg op grp t : Nat) : Out := s.register pkg fun s => s.mirmor pkg (mcmdWord op grp t)

/-- MIRMOR_STOP (28 R395). -/
def execMirmorStop (tid : Nat) (s : State) : Out := s.command (pkgOf (cidOf tid)) 1 0 tid
/-- MIRMOR_RESUME (28 R395). -/
def execMirmorResume (tid : Nat) (s : State) : Out := s.command (pkgOf (cidOf tid)) 2 0 tid
/-- MIRMOR_STEP (28 R395). -/
def execMirmorStep (tid : Nat) (s : State) : Out := s.command (pkgOf (cidOf tid)) 3 0 tid
/-- MIRMOR_HALT (28 R395). -/
def execMirmorHalt (pkg : Nat) (s : State) : Out := s.command pkg 4 0 0
/-- MIRMOR_RELEASE (28 R395). -/
def execMirmorRelease (pkg : Nat) (s : State) : Out := s.command pkg 5 0 0
/-- BRKSTOP_ON (28 R395). -/
def execBrkstopOn (pkg grp : Nat) (s : State) : Out := s.command pkg 6 grp 0
/-- BRKSTOP_OFF (28 R395). -/
def execBrkstopOff (pkg grp : Nat) (s : State) : Out := s.command pkg 7 grp 0

/-- A write of the record at MIRMOR offset `off`. -/
def State.writeRecord (s : State) (pkg off : Nat) (v : Word) : State :=
  match s.shown pkg with
  | some t =>
    if 0x1000 ≤ off ∧ off < 0x1800 then s.updTh t fun x => x.recordWrite (cidOf t) ((off - 0x1000) / 8) v else s
  | none => s

/-- MIRMOR_THREAD_RECORD_WRITE (28 R395). -/
def execMirmorThreadRecordWrite (pkg off : Nat) (v : BitVec 64) (s : State) : Out :=
  s.register pkg fun s => s.writeRecord pkg off v

/-! ### Blocks of the aperture (28 R379, R380) -/

/-- ID, BASE, SIZE and AUX of the capability records from 0x100 on. -/
def capabilities : List (Nat × Nat × Nat × Nat) :=
  [(1, 0x400000, 0x400000, 0x10000), (2, 0x20000, 0x10000, 0), (3, 0x30000, 0x10000, 0), (4, 0x40000, 0x10000, 0),
   (5, 0x50000, 0x10000, 0), (6, 0x60000, 0x10000, 0), (7, 0x70000, 0x10000, 0), (8, 0x80000, 0x10000, 0),
   (9, 0x1000000, 0x1000000, 0)]

/-- A word of the capability list. -/
def capWord (off : Nat) : Nat :=
  let i := (off - 0x100) / 32
  match capabilities[i]? with
  | none => 0
  | some (id, base, size, aux) =>
    match off / 8 % 4 with
    | 0 => id * 2 ^ 48 + 1 * 2 ^ 40 + 4 * 2 ^ 32 + (if i = 8 then 0 else 0x100 + 32 * (i + 1))
    | 1 => base
    | 2 => size
    | _ => aux

/-- The bellows block (10 R187). -/
def State.readBellows (s : State) (pkg o : Nat) : Word :=
  let p := s.pkg pkg
  let b := p.bellows
  match o with
  | 0x00 => b.opthr0
  | 0x08 => b.opthr1
  | 0x10 => BitVec.ofNat 64 b.ceil
  | 0x18 => BitVec.ofNat 64 b.free
  | 0x20 => BitVec.ofNat 64 (s.spareUnits pkg)
  | 0x28 => BitVec.ofNat 64 (s.transit pkg)
  | 0x30 => BitVec.ofNat 64 b.cyccnt
  | 0x38 => BitVec.ofNat 64 (b.badThr.toNat + 2 * b.cyc.toNat + 4 * p.around.alarm.toNat)
  | _ => 0

def State.writeBellows (s : State) (pkg o : Nat) (v : Word) : State :=
  match o with
  | 0x00 => s.updBellows pkg fun b => { b with opthr0 := v }
  | 0x08 => s.updBellows pkg fun b => { b with opthr1 := v }
  | 0x10 => s.updBellows pkg fun b => if Fld v 2 0 ≤ b.ctlCeil then { b with ceil := Fld v 2 0 } else b
  | 0x30 => s.updBellows pkg fun b => { b with cyccnt := Fld v 31 0 }
  | 0x38 => s.updBellows pkg fun b => if v.getLsbD 1 then { b with cyc := false } else b
  | _ => s

/-- The mailbox, power and fabric blocks (28 R382, R387, R390). -/
def Surround.readMailbox (a : Surround) (o : Nat) : Word :=
  if o < 0x400 then (if o / 8 % 2 = 0 then lookup 0 a.mbwa (o / 16) else lookup 0 a.mbwb (o / 16))
  else if o = 0x400 then BitVec.ofNat 64 a.mberr else 0

def Surround.writeMailbox (a : Surround) (o : Nat) (v : Word) : Surround :=
  if o < 0x400 then
    if o / 8 % 2 = 0 then { a with mbwa := insert a.mbwa (o / 16) (keepBits v [(63, 56), (55, 55), (52, 51), (0, 0)]) }
    else { a with mbwb := insert a.mbwb (o / 16) (keepBits v [(51, 16)]) }
  else if o = 0x400 then { a with mberr := Fld v 31 0 } else a

def Surround.readPower (a : Surround) (o : Nat) : Word :=
  if o = 0x00 then a.lattol
  else if o = 0x08 then BitVec.ofNat 64 a.pscur
  else if o = 0x10 then a.pin
  else if o = 0x18 then BitVec.ofNat 64 a.alarm.toNat
  else if o = 0x20 then a.thot
  else if 0x1000 ≤ o ∧ o < 0x1000 + 8 * 1088 then lookup 0 a.mon ((o - 0x1000) / 8)
  else 0

/-- Nanoseconds for which the input has been low, or normal. -/
def Surround.inputFor (a : Surround) (time : BitVec 48) : Nat := (time.toNat + 2 ^ 48 - a.inputAt) % 2 ^ 48

/-- PWRALM is cleared by a write of 1 once the input has stayed normal for 100 ms (28 R389). -/
def Surround.clearAlarm (a : Surround) (time : BitVec 48) : Surround :=
  if !a.low && decide (100000000 ≤ a.inputFor time) then { a with alarm := false } else a

def Surround.writePower (a : Surround) (time : BitVec 48) (o : Nat) (v : Word) : Surround :=
  match o with
  | 0x00 => { a with lattol := keepBits v [(47, 0)] }
  | 0x18 => if v.getLsbD 0 then a.clearAlarm time else a
  | 0x20 => { a with thot := keepBits v [(15, 0)] }
  | _ => a

/-- PWRALM_ALARM_CLEAR (28 R389). -/
def execPwralmAlarmClear (pkg : Nat) (s : State) : Out :=
  s.register pkg fun s => s.updAround pkg fun a => a.clearAlarm s.time

/-- The trace block (28 R397). -/
def Service.readTrace (v : Service) (o : Nat) : Word :=
  match o with
  | 0x00 => v.trbase
  | 0x08 => v.trsize
  | 0x10 => v.trhead
  | 0x18 => BitVec.ofNat 64 v.trtail
  | 0x20 => v.trctl
  | 0x28 => BitVec.ofNat 64 v.trlost
  | _ => if 0x40 ≤ o ∧ o < 0x60 then lookup 0 v.trfilt ((o - 0x40) / 8) else 0

/-- TRCTL.EMIT changes only in BOOT, TEST and RECOVERY (28 R397), the rest not in RECOVERY (28 R392). -/
def Service.writeTrctl (v : Service) (w : Word) : Service :=
  let old := v.trctl
  match v.secmode with
  | 1 => { v with trctl := keepBits w [(2, 1)] ||| keepBits old [(0, 0)] }
  | 3 => { v with trctl := keepBits old [(2, 1)] ||| keepBits w [(0, 0)] }
  | _ => { v with trctl := keepBits w [(2, 0)] }

def Service.writeTrace (v : Service) (o : Nat) (w : Word) : Service :=
  match o with
  | 0x00 => { v with trbase := rootWord w }
  | 0x08 => { v with trsize := w }
  | 0x10 => { v with trhead := w }
  | 0x20 => v.writeTrctl w
  | _ => if 0x40 ≤ o ∧ o < 0x60 then { v with trfilt := insert v.trfilt ((o - 0x40) / 8) (keepBits w [(32, 0)]) } else v

/-- TRCTL_WRITE (28 R397). -/
def execTrctlWrite (pkg : Nat) (v : BitVec 64) (s : State) : Out :=
  .next ((s.wakePkg pkg).updService pkg fun x => x.writeTrctl v)

/-- The security block (28 R393, R394). -/
def Service.readSecurity (v : Service) (o : Nat) : Word :=
  if o = 0x000 then BitVec.ofNat 64 (v.version * 2 ^ 8 + v.secmode)
  else if 0x100 ≤ o ∧ o < 0x300 then lookup 0 v.mr ((o - 0x100) / 8)
  else if 0x300 ≤ o ∧ o < 0x340 then lookup 0 v.nonce ((o - 0x300) / 8)
  else if o = 0x348 then BitVec.ofNat 64 v.attbusy.toNat
  else if 0x1000 ≤ o ∧ o < 0x2800 then
    BitVec.ofNat 64 (ofBytes ((List.range 8).map fun i => lookup 0 v.attrep (o - 0x1000 + i)))
  else 0

/-- A write of 1 to ATTGO starts the report, unless one is being built. -/
def Service.startAttestation (v : Service) : Service := { v with attbusy := true }

def Service.writeSecurity (v : Service) (o : Nat) (w : Word) : Service :=
  if 0x300 ≤ o ∧ o < 0x340 then { v with nonce := insert v.nonce ((o - 0x300) / 8) w }
  else if o = 0x340 && w.getLsbD 0 then v.startAttestation
  else v

/-- ATTESTATION_START (28 R394). -/
def execAttestationStart (pkg : Nat) (s : State) : Out := .next ((s.wakePkg pkg).updService pkg Service.startAttestation)

/-- Slot accounting (28 R398): the counter's number at an offset of a core's block. -/
def acctNumber (o : Nat) : Option Nat :=
  if o < 0x400 then (if o % 64 < 40 then some (5 * (o / 64) + o % 64 / 8) else none)
  else if o = 0x400 then some 80
  else if o = 0x408 then some 81
  else if o = 0x410 then some 82
  else if 0x480 ≤ o ∧ o ≤ 0x500 then some (83 + (o - 0x480) / 8)
  else none

def State.readAcct (s : State) (pkg o : Nat) : Word :=
  let cid := pkg * 8192 + o / 2048
  let c := s.core cid
  if !coreExists cid then 0
  else if o % 2048 = 0x7F8 then BitVec.ofNat 64 c.freeze.toNat
  else match acctNumber (o % 2048) with
    | some k => BitVec.ofNat 64 (lookup 0 c.acct k)
    | none => 0

def State.writeAcct (s : State) (pkg o : Nat) (v : Word) : State :=
  let cid := pkg * 8192 + o / 2048
  if coreExists cid && decide (o % 2048 = 0x7F8) then
    let c := s.core cid
    s.setCore cid { c with freeze := v.getLsbD 0, acct := if v.getLsbD 1 then [] else c.acct }
  else s

/-! ### The registers without an aperture offset

The spec gives LATECNT, TENVCNT, the membership bitmaps, the owners of clusters and the routing table no offset (03 R64, R66; 28 R386).
They stand in the aperture at offsets of the model's own, above every block of 28 R380 (notes/assumptions/12.md). -/

/-- Where they begin. -/
def ownBase : Nat := 0x3000000

def State.readOwn (s : State) (pkg o : Nat) : Word :=
  let x := s.die (pkg * 4 + o / 2 ^ 16 % 4)
  let r := o % 2 ^ 16
  if 2 ^ 21 ≤ o then (if (o - 2 ^ 21) / 8 < 256 then BitVec.ofNat 64 (s.fabricPort pkg ((o - 2 ^ 21) / 8)) else 0)
  else if 2 ^ 20 ≤ o then
    if (o - 2 ^ 20) / 8 < 64 then BitVec.ofNat 64 (s.cluster (pkg * 64 + (o - 2 ^ 20) / 8)).tenant else 0
  else if r = 0 then BitVec.ofNat 64 x.latecnt.toNat
  else if r = 8 then BitVec.ofNat 64 x.tenvcnt.toNat
  else if 0x1000 ≤ r ∧ r < 0x1000 + 32 * 384 then
    BitVec.ofNat 64 ((lookup (BitVec.allOnes 256) x.members ((r - 0x1000) / 32)).toNat / 2 ^ ((r - 0x1000) % 32 * 8))
  else 0

def State.writeOwn (s : State) (pkg o : Nat) (v : Word) : State :=
  let d := pkg * 4 + o / 2 ^ 16 % 4
  let x := s.die d
  let r := o % 2 ^ 16
  if 2 ^ 21 ≤ o then
    if (o - 2 ^ 21) / 8 < 256 then
      s.updAround pkg fun a => { a with routes := insert a.routes ((o - 2 ^ 21) / 8) (Fld v 2 0) }
    else s
  else if 2 ^ 20 ≤ o then
    let clid := pkg * 64 + (o - 2 ^ 20) / 8
    if (o - 2 ^ 20) / 8 < 64 then s.setCluster clid { s.cluster clid with tenant := Fld v 7 0 } else s
  else if r = 0 then s.setDie d { x with latecnt := 0 }
  else if r = 8 then s.setDie d { x with tenvcnt := 0 }
  else if 0x1000 ≤ r ∧ r < 0x1000 + 32 * 384 then
    let k := (r - 0x1000) / 32
    let at_ := (r - 0x1000) % 32 * 8
    let old := lookup (BitVec.allOnes 256) x.members k
    s.setDie d { x with members := insert x.members k (BitVec.ofNat 256 (setBits old.toNat (at_ + 63) at_ v.toNat)) }
  else s

/-! ### The aperture (28 R378) -/

def State.regRead (s : State) (pkg off : Nat) : Word :=
  let p := s.pkg pkg
  if ownBase ≤ off then s.readOwn pkg (off - ownBase)
  else if 0x100 ≤ off ∧ off < 0x220 then BitVec.ofNat 64 (capWord off)
  else if 0x10000 ≤ off ∧ off < 0x14000 then
    let c := (off - 0x10000) / 4
    BitVec.ofNat 64 ((lookup 0 p.counters c).toNat + 2 ^ 32 * (lookup 0 p.counters (c + 1)).toNat)
  else if 0x20000 ≤ off ∧ off < 0x30000 then s.readBellows pkg (off - 0x20000)
  else if 0x30000 ≤ off ∧ off < 0x40000 then p.around.readMailbox (off - 0x30000)
  else if 0x40000 ≤ off ∧ off < 0x50000 then p.around.readPower (off - 0x40000)
  else if off = 0x50000 then p.around.ftmo
  else if 0x60000 ≤ off ∧ off < 0x70000 then p.service.readTrace (off - 0x60000)
  else if off = 0x70000 then p.service.mcmd
  else if off = 0x70008 then BitVec.ofNat 64 (s.mstatus pkg * 2 ^ 56)
  else if 0x71000 ≤ off ∧ off < 0x71800 then
    match s.shown pkg with
    | some t => s.recordWord t ((off - 0x71000) / 8)
    | none => 0
  else if 0x80000 ≤ off ∧ off < 0x90000 then p.service.readSecurity (off - 0x80000)
  else if 0x400000 ≤ off ∧ off < 0x800000 then (p.queue ((off - 0x400000) / 256)).read (off % 256)
  else if 0x1000000 ≤ off ∧ off < 0x2000000 then s.readAcct pkg (off - 0x1000000)
  else 0

/-- In RECOVERY only the security block and TRCTL.EMIT accept writes (28 R392, R397). -/
def State.regWrite (s : State) (pkg off : Nat) (v : Word) : State :=
  if s.recovery pkg && !(decide (0x80000 ≤ off) && decide (off < 0x90000)) && decide (off ≠ 0x60020) then s
  else if ownBase ≤ off then s.writeOwn pkg (off - ownBase) v
  else if 0x10000 ≤ off ∧ off < 0x14000 then
    let c := (off - 0x10000) / 4
    (s.setCounter pkg c (BitVec.ofNat 32 (Fld v 31 0))).setCounter pkg (c + 1) (BitVec.ofNat 32 (Fld v 63 32))
  else if 0x20000 ≤ off ∧ off < 0x30000 then s.writeBellows pkg (off - 0x20000) v
  else if 0x30000 ≤ off ∧ off < 0x40000 then s.updAround pkg fun a => a.writeMailbox (off - 0x30000) v
  else if 0x40000 ≤ off ∧ off < 0x50000 then s.updAround pkg fun a => a.writePower s.time (off - 0x40000) v
  else if off = 0x50000 then s.updAround pkg fun a => { a with ftmo := v }
  else if 0x60000 ≤ off ∧ off < 0x70000 then (s.updService pkg fun x => x.writeTrace (off - 0x60000) v).traceLost pkg
  else if off = 0x70000 then s.mirmor pkg v
  else if 0x71000 ≤ off ∧ off < 0x71800 then s.writeRecord pkg (off - 0x70000) v
  else if 0x80000 ≤ off ∧ off < 0x90000 then s.updService pkg fun x => x.writeSecurity (off - 0x80000) v
  else if 0x400000 ≤ off ∧ off < 0x800000 then
    let q := (off - 0x400000) / 256
    if off % 256 = 0xF8 then s.commitRecord pkg q v else s.updPkg pkg fun p => p.setQueue q ((p.queue q).write (off % 256) v)
  else if 0x1000000 ≤ off ∧ off < 0x2000000 then s.writeAcct pkg (off - 0x1000000) v
  else s

/-- REGISTER_WRITE: the package wakes first (28 R391), and a misaligned host write is discarded (28 R378). -/
def execRegisterWrite (pkg off : Nat) (v : BitVec 64) (s : State) : Out :=
  let s := s.wakePkg pkg
  .next (if off % 8 ≠ 0 then s else s.regWrite pkg off v)

end Sys2Proof.Machine
end

