-- ==== Sys2Proof/Machine/Home.lean ====
section
/-! DEFINITION. Machine/Home.lean: accesses at their home, replies, the store buffer's way out, puts, and full/empty words at their
owner (03 R66, R68, R73 to R77; 08 R149 to R154; 15 R249, R250, R252 to R256, R260 to R263; 28 R378). -/
namespace Sys2Proof.Machine

/-! ### At the home (15 R249, R252 to R256) -/

/-- What an atomic writes: the new value, or none where it writes nothing (15 R252). -/
def atomicNew (op : AccOp) (n old v : Nat) : Option Nat :=
  let w := 8 * n
  let x := v % 2 ^ w
  match op with
  | .add => some ((old + x) % 2 ^ w)
  | .fadd rm draw => some (fArith .add (if n = 8 then .f64 else .f32) false (modeOf rm) draw old x).code
  | .mins => some (if toSigned w old ≤ toSigned w x then old else x)
  | .maxs => some (if toSigned w old ≤ toSigned w x then x else old)
  | .minu => some (min old x)
  | .maxu => some (max old x)
  | .and => some (old &&& x)
  | .or => some (old ||| x)
  | .xor => some (old ^^^ x)
  | .xchg => some x
  | .cas c => if old = c.toNat % 2 ^ w then some x else none
  | .load _ _ | .lock | .unlock => none

/-- What the destination receives: a signed AMIN.W or AMAX.W sign-extends (15 R252). -/
def atomicOld (op : AccOp) (n old : Nat) : Nat :=
  match op with
  | .mins | .maxs => extend true n old
  | _ => old

/-- An access whose value a later access must await (08 R152). -/
def AccOp.acquires : AccOp → Bool
  | .load _ acq => acq
  | .lock => true
  | _ => false

/-- The reply takes the access's place in flight. -/
def State.replyTo (s : State) (id : Nat) (a : Access) (val : Nat) (late : Bool) : State :=
  s.setItem id (.reply ⟨a.tid, a.dst, val, none, if late then some a.ea else none, a.op.acquires, a.ways, a.ea, false⟩)

/-- A LOCK that its die's waits have held back no longer waits for one (15 R255). -/
def State.unhold (s : State) (id tid : Nat) : State :=
  let die := didOf (cidOf tid)
  let d := s.die die
  if d.heldLocks.contains id then s.setDie die { d with heldLocks := d.heldLocks.filter (· ≠ id) } else s

/-- LOCK at the home (15 R255). The thread parks, unless it has issued a later pair that has parked it already. -/
def State.lockAt (s : State) (id : Nat) (a : Access) (late : Bool) : State :=
  let w := BitVec.ofNat 64 (s.load a.key 8)
  let me := s.holderWord a.tid
  let die := didOf (cidOf a.tid)
  let d := s.die die
  let here := d.heldLocks.contains id
  if !w.getLsbD 63 then ((s.unhold id a.tid).storeAt a.key (toBytes 8 me.toNat)).replyTo id a 0 late
  else if sameHolder w me then (s.unhold id a.tid).replyTo id a 1 late
  else if decide (s.lockWaits die < 1024) && (d.heldLocks.isEmpty || d.heldLocks.head? = some id) then
    let s := (s.unhold id a.tid).dropItem id
    let s := { s with locks := joinLock s.locks a.key die ⟨a.tid, a.dst, a.ea, late, id⟩ }
    s.updTh a.tid fun t => if t.slot = .runnable then { t with slot := .parked, park := .lock, wait := none } else t
  else if here then s
  else (s.setItem id (.access { a with late := late })).setDie die { d with heldLocks := d.heldLocks ++ [id] }

/-- UNLOCK at the home (15 R256). -/
def State.unlockAt (s : State) (id : Nat) (a : Access) (late : Bool) : State :=
  let w := BitVec.ofNat 64 (s.load a.key 8)
  if !sameHolder w (s.holderWord a.tid) then s.replyTo id a 1 late
  else if s.locks.any fun q => decide (q.key = a.key) then (s.grantLock a.key).replyTo id a 0 late
  else (s.storeAt a.key (toBytes 8 0)).replyTo id a 0 late

/-- One access is performed at its home at one instant. -/
def State.perform (s : State) (id : Nat) (a : Access) (late : Bool) : State :=
  if isAperKey a.key then
    s.replyTo id a (s.regRead ((a.key - 2 ^ 55) / 2 ^ 26) (a.key % 2 ^ 26)).toNat late
  else if a.span.any fun r => s.poisoned r.1 r.2 then (s.unhold id a.tid).answerPoisoned id late
  else match a.op with
    | .load sext _ => s.replyTo id a (extend sext a.n (s.loadSpan a.span)) late
    | .lock => s.lockAt id a late
    | .unlock => s.unlockAt id a late
    | op =>
      let old := s.load a.key a.n
      match atomicNew op a.n old a.src.toNat with
      | none => s.replyTo id a (atomicOld op a.n old) late
      | some v => ((s.storeAt a.key (toBytes a.n v)).settleLocks).replyTo id a (atomicOld op a.n old) late

def State.performId (s : State) (late : Bool) (id : Nat) : State :=
  match s.access? id with
  | some a => s.perform id a late
  | none => s

/-- A LOCK that its die's waits hold back leaves its packet. -/
def State.lockHeld (s : State) (id : Nat) : Bool :=
  match s.access? id with
  | some a => (s.die (didOf (cidOf a.tid))).heldLocks.contains id
  | none => false

/-- Every one of some requests has all its packets at their ports and may be performed. -/
def State.allReady (s : State) (ids : List Nat) : Bool := ids.all s.arrived && s.inTurn ids

/-- MEMORY_ACCESS_AT_HOME: an access is performed once all its packets have come to their ports, and at the same instant those that its
packets have combined with it, in their order (03 R62; 08 R149 to R152). -/
def execMemoryAccessAtHome (id : Nat) (s : State) : Out :=
  match s.access? id with
  | none => .next s
  | some a =>
    if (s.packetsOf id).isEmpty then (if s.performable id a then .next (s.perform id a a.late) else .next s)
    else
      let ids := s.served s.flight.length [id]
      let lates := ids.filter s.isLate
      if s.allReady ids then .next (ids.foldl (fun (s : State) i => s.performId (lates.contains i) i) (s.unpack ids))
      else .next s

/-! ### Replies (09 R162, 03 R64, 15 R250) -/

def Thread.land (t : Thread) (d : Dest) (val : Nat) : Thread :=
  match d with
  | .none => t
  | .reg i => (t.setReg i (BitVec.ofNat 64 val)).setBusy i false
  | .vec i => (t.setVec i (BitVec.ofNat 512 val)).setVBusy i false

/-- A destination that keeps its old value stops being busy. -/
def Thread.unbusy (t : Thread) (d : Dest) : Thread :=
  match d with
  | .none => t
  | .reg i => t.setBusy i false
  | .vec i => t.setVBusy i false

/-- A rotation that waited for a long-latency result goes on, and ends its pair (13 R226): a thread that Mirmor stops stops there (28
R395). -/
def State.rotateOn (s : State) (tid : Nat) : State :=
  let t := s.th tid
  let stop (s : State) : State := if t.stopping then s.stopNow tid else s
  if t.busy.toNat / 2 ^ 16 ≠ 0 then s
  else match t.rotate with
    | some (.call target) => stop (s.rotateCall tid target)
    | some (.ret target) => stop (s.rotateRet tid target)
    | none => s

/-- No older access with a packet of the same source and destination port has its reply still to come (03 R61). A LOCK that waits has
none, and the grant of a lock that has waited follows no older access. -/
def State.firstReply (s : State) (id : Nat) (r : Reply) : Bool :=
  r.grant || s.flight.all fun p => decide (id ≤ p.1) || match p.2 with
    | .access a => !sharesWay a.ways r.ways || s.lockHeld p.1
    | .reply x => !sharesWay x.ways r.ways
    | .sync a => a.op ≠ .feq || !sharesWay (waysOf (cidOf a.tid) [(a.key, 8)]) r.ways
    | _ => true

/-- What a reply does to its thread (03 R64, 15 R250): the grant of a lock wakes one that is parked on it (15 R256). -/
def Thread.takeReply (t : Thread) (r : Reply) : Thread :=
  let t := if r.grant && t.park = .lock then t.wake else t
  match r.poison with
  | some ea => ((t.unbusy r.dst).notePoison ea).noteLate r.late
  | none => (t.land r.dst r.val).noteLate r.late

/-- LOAD_REPLY: replies of one source and destination port come back in order, FEQ's among them (03 R61); one that comes over the fabric
needs its links and wakes its package (28 R387, R391). -/
def execLoadReply (id : Nat) (s : State) : Out :=
  match s.item id with
  | some (.reply r) =>
    if !s.firstReply id r || s.replyCut r.ways then .next s
    else
      let s := (s.wakeReply r.ways).dropItem id
      if (s.th r.tid).slot = .vacant then .next s else .next ((s.updTh r.tid fun t => t.takeReply r).rotateOn r.tid)
  | some (.result tid d val) =>
    let s := s.dropItem id
    if (s.th tid).slot = .vacant then .next s else .next ((s.updTh tid fun t => t.land d val).rotateOn tid)
  | _ => .next s

/-! ### The store buffer drains (08 R149) -/

/-- The runs of keys of a buffered store. -/
def StoreEntry.span (e : StoreEntry) : List (Nat × Nat) := e.runs.map fun r => (r.1, r.2.length)

/-- One run of a store is written, or goes to a device register. -/
def State.writeRun (s : State) (k : Nat) (data : List Byte) : State :=
  if isAperKey k then s.regWrite ((k - 2 ^ 55) / 2 ^ 26) (k % 2 ^ 26) (BitVec.ofNat 64 (ofBytes data)) else s.storeAt k data

/-- A run is written where it does not cross the far net; of one that does, the bytes of each packet that has come to its port. -/
def State.landRun (s : State) (ps : List Packet) (k : Nat) (data : List Byte) : State :=
  if crosses k then
    ps.foldl (fun (s : State) (p : Packet) =>
      if k ≤ p.key ∧ p.key + p.len ≤ k + data.length then s.storeAt p.key ((data.drop (p.key - k)).take p.len) else s) s
  else s.writeRun k data

/-- The oldest store may leave the buffer: its thread's older loads, and older aperture loads whatever it stores to, are performed
(28 R378), and a release's waits are over (08 R149, R152). -/
def State.mayDrain (s : State) (tid : Nat) (e : StoreEntry) : Bool :=
  match e.kind with
  | .push _ _ _ _ _ => true
  | .bytes _ _ _ =>
    s.inOrder tid e.id e.span && (!e.release || s.released tid e.id) &&
      (s.ofThread tid).all fun p => match p.2 with
        | .access a => decide (e.id ≤ p.1) || !isAperKey a.key
        | _ => true

/-- STORE_DRAIN: the oldest store leaves the buffer. One that crosses the far net first sends its packets, and is written, at one
instant, once each has come to its port, been refused there or been given up at a port without a link (03 R66; 28 R387). -/
def execStoreDrain (tid : Nat) (s : State) : Out :=
  let t := s.th tid
  match t.sb with
  | [] => .next s
  | e :: rest =>
    if !s.mayDrain tid e then .next s
    else
      let popped := s.updTh tid fun t => { t with sb := rest }
      match e.kind with
      | .push q cons consQ bnd slot => .next (popped.setItem e.id (.record tid q cons consQ bnd slot))
      | .bytes _ _ _ =>
        if !e.sent && !(pieces e.span).isEmpty then
          .next ((s.updTh tid fun t => { t with sb := { e with sent := true } :: rest }).sendOut e.id (cidOf tid) t.tenant e.deadline
            true e.span)
        else if !s.arrived e.id then .next s
        else
          let ps := (s.packetsOf e.id).map (·.2)
          .next (e.runs.foldl (fun (s : State) r => s.landRun ps r.1 r.2) (popped.unpack [e.id])).settleLocks

/-! ### Puts (03 R68, 08 R151) -/

/-- PUT_ARRIVAL: puts of one thread to one word land in order. -/
def execPutArrival (id : Nat) (s : State) : Out :=
  match s.item id with
  | some (.put tid key data) =>
    let first := (s.ofThread tid).all fun p => match p.2 with
      | .put _ k d => !(decide (p.1 < id) && meet [(k, d.length)] [(key, data.length)])
      | _ => true
    if first then .next ((s.storeAt key data).setItem id (.ack tid (localCore key * 16) false)) else .next s
  | _ => .next s

/-! ### Full/empty words at their owner (03 R73 to R77; 15 R261, R262) -/

/-- What a delivery does to its thread: the value sets presence; a poisoned one leaves the register's old value (03 R75; 15 R250).
-/
def Thread.takeDelivery (t : Thread) (d : Delivery) : Thread :=
  match d.poison with
  | some na => (({ t with present := setBitOf t.present d.reg true }.setPend d.reg false).notePoison na).noteLate d.late
  | none => ((t.setReg d.reg d.val).setPend d.reg false).noteLate d.late

/-- DELIVERY_LANDING. -/
def execDeliveryLanding (id : Nat) (s : State) : Out :=
  match s.item id with
  | some (.deliver d) =>
    let s := s.dropItem id
    if (s.th d.tid).slot = .vacant then .next s
    else .next ((s.updTh d.tid fun t => t.takeDelivery d).refreshSaved d.tid d.reg)
  | _ => .next s

/-- Whether an operation proceeds on a full or empty word (03 R73). -/
def SyncOp.proceeds (op : SyncOp) (full : Bool) : Bool :=
  match op with
  | .ldf | .ldfe => full
  | .ste => !full
  | _ => true

/-- LDF, LDFE and STE join the queue; the others act on arrival. -/
def SyncOp.queues (op : SyncOp) : Bool := op = .ldf || op = .ldfe || op = .ste

/-- The delivery of a word's value, poisoned where the word is, with the late bit of its request (03 R64). -/
def State.delivery (s : State) (a : Sync) : Item :=
  .deliver
    { tid := a.tid, reg := a.reg, val := BitVec.ofNat 64 (s.load a.key 8)
      poison := if s.poisoned a.key 8 then some a.na else none
      late := if a.late then some a.na else none }

/-- One operation acts on its word (03 R73); its item leaves, or becomes its delivery. -/
def State.actSync (s : State) (a : Sync) : State :=
  match a.op with
  | .ldf => s.setItem a.id (s.delivery a)
  | .ldfe => (s.setItem a.id (s.delivery a)).setFull a.key false
  | .ste =>
    let s := (((s.dropItem a.id).storeAt a.key (toBytes 8 a.val.toNat)).setFull a.key true).setClaim a.key none
    if (s.th a.tid).park = .sync then s.updTh a.tid Thread.wake else s
  | .stf => (((s.dropItem a.id).storeAt a.key (toBytes 8 a.val.toNat)).setFull a.key true).setClaim a.key none
  | .feclr => (s.dropItem a.id).setFull a.key false
  | .feset => ((s.dropItem a.id).setFull a.key true).setClaim a.key none
  | .feq =>
    let v := (s.isFull a.key).toNat + 2 * (!(s.waiters (a.key / 8)).isEmpty).toNat + 4 * (s.claim a.key).isSome.toNat
    s.setItem a.id (.reply
      { tid := a.tid, dst := .reg a.reg, val := v
        poison := if s.poisoned a.key 8 then some a.na else none
        late := if a.late then some a.na else none
        ways := waysOf (cidOf a.tid) [(a.key, 8)]
        ea := a.na })
  | .claim => if s.isFull a.key then s.dropItem a.id else (s.dropItem a.id).setClaim a.key (some (a.grp.getD 0))

/-- The owner walks a queue: its head, while it can proceed (03 R74). -/
def State.walkQueue (s : State) (word : Nat) : Nat → State
  | 0 => s
  | fuel + 1 =>
    match s.waiters word with
    | [] => s
    | a :: rest =>
      if a.op.proceeds (s.isFull (word * 8)) then ((s.setWaiters word rest).actSync a).walkQueue word fuel else s

def State.walkAll (s : State) (word : Nat) : State := s.walkQueue word (s.waiters word).length

/-- The owner of a word: the core of a local store, or a scratchpad bank (03 R72). -/
def ownerOf (key : Nat) : Nat :=
  if isLocalKey key then localCore key
  else if key < 2 ^ 52 then 2 ^ 30 + (key - 2 ^ 51) / 2 ^ 23 * 16 + key / 64 % 16
  else 2 ^ 31 + (key - 2 ^ 52) / 2 ^ 26 * 32 + key / 64 % 32

/-- Continuations in an owner's pool; 256 at most (03 R77). -/
def State.pool (s : State) (owner : Nat) : Nat :=
  ((s.deferred.filter fun p => decide (ownerOf (p.1 * 8) = owner)).map fun p => p.2.length).foldl (· + ·) 0

/-- An access gives up: cause 0x09 becomes pending; the destination of a load is present with its old value, and an STE's thread
leaves its wait with its own pair as EPC (03 R77, 12 R206). Two accesses that give up before one boundary are one cause, with the first
one's address as TVAL, and an STE's pair as EPC: the model's choice (notes/assumptions/26.md). -/
def State.giveUp (s : State) (a : Sync) : State :=
  match a.op with
  | .ste =>
    let s := s.updTh a.tid fun t =>
      { t with pending := { t.pending with sync := some ((t.pending.sync.map (·.1)).getD a.na, some a.pc) } }
    if (s.th a.tid).park = .sync then s.updTh a.tid Thread.wake else s
  | _ =>
    (s.updTh a.tid fun t =>
      { t with
        present := setBitOf t.present a.reg true
        pend := setBitOf t.pend a.reg false
        pending := { t.pending with sync := some (t.pending.sync.getD (a.na, none)) } }).refreshSaved a.tid a.reg

/-- A count exceeds a nonzero limit. -/
def Sync.over (a : Sync) : Bool := decide (a.limit ≠ 0) && decide (a.limit < a.count)

/-- A synchronising access reaches the word's owner. Which accesses a full pool refuses is DEDUCED: those that would have to join it,
an LDF, LDFE or STE that must wait; the others need no continuation (03 R77, notes/assumptions/21.md). -/
def State.arriveSync (s : State) (id : Nat) (a : Sync) : State :=
  let word := a.key / 8
  let q := s.waiters word
  if a.op.queues && (!q.isEmpty || !a.op.proceeds (s.isFull a.key)) then
    if 256 ≤ s.pool (ownerOf a.key) then
      let a := { a with count := a.count + 1 }
      if a.over then (s.dropItem id).giveUp a else s.setItem id (.refused a)
    else (s.dropItem id).setWaiters word (q ++ [a])
  else (s.actSync a).walkAll word

/-- The waits of a synchronising access before it reaches the owner (08 R150, R152, R154; 15 R261). -/
def State.syncReady (s : State) (id : Nat) (a : Sync) : Bool :=
  let first := (s.ofThread a.tid).all fun p => match p.2 with
    | .sync b | .refused b => !(decide (p.1 < id) && decide (b.key = a.key))
    | _ => true
  first && s.inOrder a.tid id [(a.key, 8)] &&
    (match a.op with
      | .ste | .stf => s.released a.tid id
      | .ldf | .ldfe => s.noOlderStore a.tid id [(a.key, 8)]
      | _ => s.drained a.tid id)

/-- SYNC_ACCESS_ARRIVAL: the access has come to the word's owner, over the far net for a die-scratchpad word. -/
def execSyncAccessArrival (id : Nat) (s : State) : Out :=
  match s.item id with
  | some (.sync a) =>
    if s.arrived id && s.syncReady id a then
      .next ((s.unpack [id]).arriveSync id { a with late := a.late || s.isLate id })
    else .next s
  | _ => .next s

/-- SYNC_REISSUE: the issuing core sends the access again (03 R77). No core does so for a SAVED thread: its access goes again once the
group has resumed (12 R211, R212). -/
def execSyncReissue (id : Nat) (s : State) : Out :=
  match s.item id with
  | some (.refused a) =>
    if (s.th a.tid).slot = .saved then .next s
    else .next ((s.setItem id (.sync a)).sendOut id (cidOf a.tid) (s.th a.tid).tenant a.deadline a.op.stores [(a.key, 8)])
  | _ => .next s

/-- One retry is counted for every parked continuation; those over their limits are unlinked, and the queues walked (03 R77). A
saved queue has no owner that counts (notes/assumptions/22.md). -/
def State.countRetries (s : State) : State :=
  let counted := s.deferred.map fun (p : Nat × List Sync) =>
    if 2 ^ 66 ≤ p.1 * 8 then p else (p.1, p.2.map fun a => { a with count := a.count + 1 })
  let s := { s with deferred := counted }
  counted.foldl (fun (s : State) (p : Nat × List Sync) =>
    let out := p.2.filter Sync.over
    if out.isEmpty then s
    else
      let s := s.setWaiters p.1 (p.2.filter fun a => !a.over)
      (out.foldl (fun (s : State) a => s.giveUp a) s).walkAll p.1) s

/-- TIME goes on, and a retry is counted each time it passes a multiple of 1,024 ns (03 R77). -/
def State.passTime (s : State) (ns : Nat) : State :=
  let n := (s.time.toNat + ns) / 1024 - s.time.toNat / 1024
  let s := (List.range (min n 65537)).foldl (fun (s : State) _ => s.countRetries) s
  { s with time := s.time + BitVec.ofNat 48 ns }

/-- SYNC_RETRY_TICK: TIME passes the next multiple of 1,024 ns. -/
def execSyncRetryTick (s : State) : Out := .next (s.passTime (1024 - s.time.toNat % 1024))

/-- A thread that ends is unlinked from every queue without a trap, and the queues are walked (17 R303). -/
def State.unlinkThread (s : State) (tid : Nat) : State :=
  s.deferred.foldl (fun (s : State) (p : Nat × List Sync) =>
    let q := s.waiters p.1
    if q.any fun a => decide (a.tid = tid) then
      (s.setWaiters p.1 (q.filter fun a => decide (a.tid ≠ tid))).walkAll p.1
    else s) s

/-- SOFT_ERROR: one word of a scratchpad or of the accumulator store is poisoned, and the accesses parked on it trap (12 R210). -/
def execSoftError (key : Nat) (s : State) : Out :=
  if 2 ^ 50 ≤ key ∧ key < 2 ^ 53 then .next (s.spoil key)
  else if 2 ^ 53 ≤ key ∧ key < 2 ^ 54 then
    let n := (key - 2 ^ 53) / 8
    let c := s.core (n / 2 ^ 14)
    .next (s.setCore (n / 2 ^ 14) { c with tile := { c.tile with bad := addKey c.tile.bad (n % 2 ^ 14) } })
  else .next s

end Sys2Proof.Machine
end

