-- ==== Sys2Proof/Machine/Sha3.lean ====
section
/-! DEFINITION. Machine/Sha3.lean: the SHA3-512 hash that 11 R204 and 28 R392 to R394 name, and the SHAKE functions beside it, as FIPS 202 defines
them. The sponge is one
number of 1,600 bits: bit z of the lane in column x and row y has the number 64 (5 y + x) + z. -/
namespace Sys2Proof.Machine

abbrev Sponge := BitVec 1600

/-- Where a lane's bits start. -/
def laneBit (x y : Nat) : Nat := 64 * (5 * (y % 5) + x % 5)

def Sponge.lane (a : Sponge) (x y : Nat) : BitVec 64 := BitVec.extractLsb' (laneBit x y) 64 a

/-- The sponge with a lane for each column and row. -/
def ofLanes (f : Nat → Nat → BitVec 64) : Sponge :=
  (List.range 5).foldl (fun a y => (List.range 5).foldl (fun a x => a ||| ((f x y).setWidth 1600 <<< laneBit x y)) a) 0

/-- The parity of a column. -/
def Sponge.parity (a : Sponge) (x : Nat) : BitVec 64 := (List.range 5).foldl (fun p y => p ^^^ a.lane x y) 0

/-- Each lane takes in the parities of the columns beside its own. -/
def Sponge.mixed (a : Sponge) : Sponge := ofLanes fun x y => a.lane x y ^^^ a.parity (x + 4) ^^^ (a.parity (x + 1)).rotateLeft 1

/-- The walk of FIPS 202 through the lanes, from column 1 of row 0 on: step t turns its lane by (t + 1)(t + 2) / 2 bits. -/
def laneWalk : Nat → Nat → Nat → Nat → List (Nat × Nat)
  | 0, _, _, _ => []
  | fuel + 1, t, x, y => (laneBit x y, (t + 1) * (t + 2) / 2 % 64) :: laneWalk fuel (t + 1) y ((2 * x + 3 * y) % 5)

/-- How far a lane turns; the one in column 0 of row 0 stands still. -/
def turnOf (x y : Nat) : Nat := lookup 0 (laneWalk 24 0 1 0) (laneBit x y)

/-- The lanes turn and trade places. -/
def Sponge.spread (a : Sponge) : Sponge := ofLanes fun x y => (a.lane (x + 3 * y) x).rotateLeft (turnOf ((x + 3 * y) % 5) x)

/-- The one step that is not linear, along each row. -/
def Sponge.bent (a : Sponge) : Sponge := ofLanes fun x y => a.lane x y ^^^ (~~~(a.lane (x + 1) y) &&& a.lane (x + 2) y)

/-- The register of eight bits that the round constants come from, after `n` turns. -/
def lfsr : Nat → Nat
  | 0 => 1
  | n + 1 => let r := 2 * lfsr n; if r < 256 then r else r.xor 0x171

/-- The constant of round `i`: its bit 2^j - 1 is what the register gives at turn j + 7 i. -/
def roundWord (i : Nat) : BitVec 64 :=
  (List.range 7).foldl (fun w j => w ||| BitVec.ofNat 64 (lfsr (j + 7 * i) % 2 * 2 ^ (2 ^ j - 1))) 0

def Sponge.round (a : Sponge) (i : Nat) : Sponge := a.mixed.spread.bent ^^^ (roundWord i).setWidth 1600

def Sponge.permuted (a : Sponge) : Sponge := (List.range 24).foldl Sponge.round a

/-- The bytes of a message with its padding: a suffix with the first one behind it, zeros, and a one in the last bit of a block of `rate`
bytes. -/
def padded (rate suffix : Nat) (m : List Byte) : List Byte :=
  let n := rate - 1 - m.length % rate
  m ++ toBytes (n + 1) (suffix + 2 ^ (8 * n + 7))

/-- The sponge after a message. -/
def absorbed (rate suffix : Nat) (m : List Byte) : Sponge :=
  let p := padded rate suffix m
  (List.range (p.length / rate)).foldl (fun (a : Sponge) i =>
    (a ^^^ BitVec.ofNat 1600 (ofBytes ((p.drop (rate * i)).take rate))).permuted) 0

/-- SHA3-512 of a message, whose suffix is 01. -/
def sha3 (m : List Byte) : List Byte := toBytes 64 ((absorbed 72 6 m).toNat % 2 ^ 512)

/-- Blocks that a sponge gives. -/
def Sponge.blocks (rate : Nat) : Nat → Sponge → List Byte
  | 0, _ => []
  | k + 1, a => toBytes rate (a.toNat % 2 ^ (8 * rate)) ++ a.permuted.blocks rate k

/-- The first `n` bytes of SHAKE128 (rate 168) or SHAKE256 (rate 136) of a message, whose suffix is 1111. -/
def shake (rate n : Nat) (m : List Byte) : List Byte := ((absorbed rate 0x1F m).blocks rate (n / rate + 1)).take n

end Sys2Proof.Machine
end

