-- ==== Sys2Proof/Machine/Place.lean ====
section
/-! DEFINITION. Machine/Place.lean: where a group stands: placement, slots that become VACANT, retirement, and the threads that
firmware starts (11 R191, R194 to R198, R204; 17 R303). -/
namespace Sys2Proof.Machine

/-! ### Fields of a launch record (11 R188) -/

def recWord (r : List Word) (i : Nat) : Word := r.getD i 0
def recTenant (r : List Word) : Nat := Fld (recWord r 3) 63 56
def recClass (r : List Word) : Nat := Fld (recWord r 3) 55 54
def recDet (r : List Word) : Bool := (recWord r 3).getLsbD 53
def recNwin (r : List Word) : Nat := Fld (recWord r 3) 52 49
def recDeadline (r : List Word) : Nat := Fld (recWord r 3) 47 0
/-- Threads of the group: NTHR + 1. -/
def recThreads (r : List Word) : Nat := Fld (recWord r 4) 63 51 + 1
def recTpc (r : List Word) : Nat := Fld (recWord r 4) 50 47
def recGrant (r : List Word) : Nat := Fld (recWord r 4) 46 32
/-- Bytes of local store of a thread. -/
def recLs (r : List Word) : Nat := Fld (recWord r 4) 31 16 * 128
/-- Bytes of a cluster-scratchpad run. -/
def recCsp (r : List Word) : Nat := Fld (recWord r 4) 11 0 * 4096
/-- Cores of the placement (11 R195). -/
def recCores (r : List Word) : Nat := (recThreads r + recTpc r - 1) / recTpc r

/-! ### Space (11 R195, R197; 12 R212) -/

/-- What a placement needs: cores, threads and local-store bytes a core, scratchpad bytes a cluster. A resume keeps its local-store
offsets and its scratchpad offset, needs tiles without an owner, and unowned task queues on the cores that `tasks` numbers. -/
structure Demand where
  n : Nat
  tpc : Nat
  len : Nat
  csp : Nat
  resume : Bool
  lsAt : List Nat
  cspAt : Nat
  tasks : List Nat
  deriving DecidableEq, Repr

def rangesMeet (a b : Nat × Nat) : Bool := decide (a.1 < b.1 + b.2) && decide (b.1 < a.1 + a.2)

/-- First fit from 0: the lowest aligned offset at which `len` bytes meet no occupied run. -/
def firstFit (occ : List (Nat × Nat)) (len align limit : Nat) : Option Nat :=
  let starts := inOrderOf (fun a b => decide (a ≤ b)) (0 :: occ.map fun r => (r.1 + r.2 + align - 1) / align * align)
  starts.find? fun a => decide (a + len ≤ limit) && !(occ.any (rangesMeet (a, len)))

/-- Groups that hold space: all but the SAVED ones. -/
def State.holders (s : State) (pkg : Nat) : List Group :=
  ((s.pkg pkg).groups.filter fun p => p.2.state ≠ .saved).map (·.2)

/-- Local-store runs in use on a core. -/
def State.lsTaken (s : State) (cid : Nat) : List (Nat × Nat) :=
  ((s.holders (pkgOf cid)).map fun g => g.lsOff.filterMap fun r => if r.1 = cid then some (r.2.1, r.2.2) else none).flatten ++
    ((s.pkg (pkgOf cid)).fw.filterMap fun f => if cidOf f.tid = cid then some (f.lsBase, f.lsLen) else none)

/-- Scratchpad runs in use in a cluster. -/
def State.cspTaken (s : State) (clid : Nat) : List (Nat × Nat) :=
  let pkg := clid / 64
  ((s.holders pkg).filterMap fun g => if g.lsOff.any fun r => decide (clidOf r.1 = clid) then g.csp else none) ++
    ((s.pkg pkg).fw.filterMap fun f => if clidOf (cidOf f.tid) = clid then some (f.cspOff, f.cspLen) else none)

/-- A slot that a start may take: VACANT, or SAVED while its group stays saved (09 R161). -/
def State.slotFree (s : State) (t : Nat) : Bool :=
  let x := s.th t
  x.slot = .vacant ||
    (x.slot = .saved && (s.group (pkgOf (cidOf t)) x.groupNo).all fun g => g.state = .saved)

/-- Free slots of a core below 15, lowest first. -/
def State.freeSlotsOn (s : State) (cid : Nat) : List Nat := ((List.range 15).map fun i => cid * 16 + i).filter s.slotFree

/-- The local-store offset that core `i` of a placement gets on a core; none where the core is not suitable. -/
def State.fit (s : State) (d : Demand) (i cid : Nat) : Option Nat :=
  let c := s.core cid
  if (s.freeSlotsOn cid).length < d.tpc then none
  else if d.resume then
    let at_ := d.lsAt.getD i 0
    if (s.lsTaken cid).any (rangesMeet (at_, d.len)) || c.tile.owner.isSome || (d.tasks.contains i && c.tasksOwner.isSome) then none
    else some at_
  else firstFit (s.lsTaken cid) d.len 128 0x30000

/-- The common scratchpad offset in clusters. -/
def State.fitCsp (s : State) (d : Demand) (clids : List Nat) : Option Nat :=
  let occ := (clids.map s.cspTaken).flatten
  if d.csp = 0 then some 0
  else if d.resume then (if occ.any (rangesMeet (d.cspAt, d.csp)) then none else some d.cspAt)
  else firstFit occ d.csp 4096 0x800000

/-- Clusters of a tenant on a package, lowest first. -/
def State.clustersOf (s : State) (pkg tenant : Nat) : List Nat :=
  ((List.range 64).map fun i => pkg * 64 + i).filter fun c => decide ((s.cluster c).tenant = tenant)

/-- `n` consecutive suitable cores of a cluster from compute core `from_` on. -/
def State.fitRun (s : State) (d : Demand) (clid from_ : Nat) : Option (List (Nat × Nat)) :=
  (List.range d.n).mapM fun i =>
    let cid := clid * 128 + from_ + i
    (s.fit d i cid).map fun o => (cid, o)

/-- The first placement tried: consecutive cores of one cluster. -/
def State.placeRun (s : State) (d : Demand) (clids : List Nat) : Option (List (Nat × Nat) × Nat) :=
  clids.findSome? fun clid =>
    match s.fitCsp d [clid] with
    | none => none
    | some o => ((List.range (65 - d.n)).findSome? fun f => s.fitRun d clid f).map fun l => (l, o)

/-- The lowest-numbered suitable cores, in order, up to `n`. -/
def State.gather (s : State) (d : Demand) (cids : List Nat) : List (Nat × Nat) :=
  cids.foldl (fun l cid =>
    if l.length = d.n then l
    else match s.fit d l.length cid with
      | some o => l ++ [(cid, o)]
      | none => l) []

/-- Clusters of cores, each once, in order. -/
def clustersIn (l : List (Nat × Nat)) : List Nat := (l.map fun p => clidOf p.1).eraseDups

/-- A placement: its cores with local-store offsets, and the scratchpad offset (11 R195). -/
def State.place (s : State) (pkg tenant : Nat) (d : Demand) : Option (List (Nat × Nat) × Nat) :=
  let clids := s.clustersOf pkg tenant
  match s.placeRun d clids with
  | some p => some p
  | none =>
    let l := s.gather d (clids.map fun c => (List.range 64).map fun i => c * 128 + i).flatten
    if l.length < d.n then none else (s.fitCsp d (clustersIn l)).map fun o => (l, o)

/-- The thread that rank `r` gets: slot r mod TPC of core r div TPC (11 R195). -/
def State.rankSlot (s : State) (cores : List (Nat × Nat)) (tpc r : Nat) : Nat :=
  match cores[r / tpc]? with
  | some p => (s.freeSlotsOn p.1).getD (r % tpc) 0
  | none => 0

/-! ### The dispatcher's own accesses (notes/assumptions/20.md) -/

/-- The runs of keys of private-space bytes of a tenant, page by page, where every page translates with the right that `acc`
needs. -/
def State.dispatchRuns (s : State) (clid tenant : Nat) (pod : Bool) (acc : Nat) : Nat → Nat → Nat → Option (List (Nat × Nat))
  | 0, _, _ => some []
  | fuel + 1, va, n =>
    if n = 0 then some []
    else
      let m := min n (2 ^ 16 - va % 2 ^ 16)
      match s.walkTable ⟨0, clid, clid / 64, tenant, pod, va, 0, acc, none⟩ with
      | .leaf _ e => (s.dispatchRuns clid tenant pod acc fuel (va + m) (n - m)).map fun l => (leafKeyOf e va, m) :: l
      | _ => none

def State.tenantRuns (s : State) (pkg tenant : Nat) (pod : Bool) (acc va n : Nat) : Option (List (Nat × Nat)) :=
  match s.clustersOf pkg tenant with
  | [] => none
  | c :: _ => if 2 ^ 52 < va + n then none else s.dispatchRuns c tenant pod acc (n / 2 ^ 16 + 2) va n

/-- An access of the dispatcher that needs a leaf and no right of it: no rule names one for the bytes that a manifest hashes
(notes/assumptions/20.md). -/
def accAny : Nat := 8

def State.bytesAt (s : State) (runs : List (Nat × Nat)) : List Byte :=
  (runs.map fun r => (List.range r.2).map fun i => BitVec.ofNat 8 (s.load (r.1 + i) 1)).flatten

def State.putBytes (s : State) : List (Nat × Nat) → List Byte → State
  | [], _ => s
  | r :: rest, data => (s.storeAt r.1 (data.take r.2)).putBytes rest (data.drop r.2)

/-- Writes private-space bytes of a tenant; nothing where they do not translate. -/
def State.tenantWrite (s : State) (pkg tenant va : Nat) (data : List Byte) : State :=
  match s.tenantRuns pkg tenant false accStore va data.length with
  | some runs => (s.putBytes runs data).settleLocks
  | none => s

/-- H0, H1 and H5 of the manifest of a DET group (11 R204). SEG0 reaches its bytes in the space that its P bit names (02 R41). -/
def State.writeManifest (s : State) (pkg : Nat) (g : Group) : State :=
  if !recDet g.record then s
  else
    let base := Fld g.seg0.1 51 16 * 2 ^ 16
    let mani := (recWord g.record 9).toNat
    let h1 := toBytes 8 (recWord g.record 3 >>> 48 <<< 48).toNat ++ toBytes 8 (recWord g.record 4).toNat
    let s := match s.tenantRuns pkg g.tenant (g.seg0.1.getLsbD 5) accAny base (g.seg0.2.toNat % 2 ^ 61) with
      | some runs => s.tenantWrite pkg g.tenant mani (sha3 (s.bytesAt runs))
      | none => s
    (s.tenantWrite pkg g.tenant (mani + 64) (sha3 h1)).tenantWrite pkg g.tenant (mani + 320) (sha3 (toBytes 8 (recCores g.record)))

/-! ### A slot becomes VACANT (17 R303) -/

/-- What keeps an exited thread's slot: stores, puts, loads and atomics that have not ended, a LOCK with a status register that waits
among them (09 R162). A LOCK without one that its die's waits hold back, and a refused LDF, LDFE or STE, do not. -/
def State.keepsSlot (s : State) (tid : Nat) : Bool :=
  !(s.th tid).sb.isEmpty ||
    (s.locks.any fun q => q.waiters.any fun w => decide (w.tid = tid) && decide (w.dst ≠ .none)) ||
    (s.ofThread tid).any fun p => match p.2 with
      | .access a => !s.lockHeld p.1 || decide (a.dst ≠ .none)
      | .refused a => !a.op.queues
      | .reply _ | .put _ _ _ | .ack _ _ _ | .regPut _ _ _ _ _ | .deliver _ | .sync _ | .tlbi _ _ _ _ => true
      | _ => false

/-- A number that stands for the exited threads of a group: commands and moves that outlive their thread carry it, and their token
writes are discarded (06 R125; notes/assumptions/5.md). -/
def ghost (pkg grp : Nat) : Nat := 2 ^ 41 + pkg * 2 ^ 17 + grp % 2 ^ 16 * 2 ^ 25 + 15

/-- Commands and moves of a thread pass to its group's ghost; its held-back accesses and the walks of its windows are dropped (05 R100). -/
def State.orphan (s : State) (tid : Nat) : State :=
  let g := ghost (pkgOf (cidOf tid)) (s.th tid).groupNo
  let held := (s.ofThread tid).filterMap fun p => match p.2 with
    | .access _ | .refused _ | .result _ _ _ | .status _ _ _ | .bind _ _ _ _ _ _ _ => some p.1
    | _ => none
  let held := held ++ s.flight.filterMap fun p => match p.2 with
    | .walk w => if w.tid = tid && w.eng.isNone then some p.1 else none
    | _ => none
  let c := s.core (cidOf tid)
  let s := s.setCore (cidOf tid)
    { c with
      queue := c.queue.map fun (p : Nat × Matrix) => if p.2.tid = tid then (p.1, { p.2 with tid := g }) else p
      inbox := c.inbox.filter fun m => decide (m.dst ≠ tid) }
  let flight := (s.flight.filter fun p => !held.contains p.1).map fun (p : Nat × Item) =>
    match p.2 with
    | .move x => if x.tid = tid then (p.1, .move { x with tid := g }) else p
    | .plane x => if x.tid = tid then (p.1, .plane { x with tid := g }) else p
    | .matrixDone t k w => if t = tid then (p.1, .matrixDone g k w) else p
    | _ => p
  { s with
    flight := flight
    dies := s.dies.map fun (p : Nat × Die) => (p.1, { p.2 with heldLocks := p.2.heldLocks.filter fun i => !held.contains i }) }

/-- A stage whose inheritance has still to run keeps its slot and its area (07 R140, R142). -/
def State.bequeaths (s : State) (t : Thread) : Bool :=
  t.drain.any fun d => (s.th d.x).inheriting && !(s.th d.x).exited && decide (d.inh ≠ 0)

/-- SLOT_VACATE (17 R303). -/
def execSlotVacate (tid : Nat) (s : State) : Out :=
  let t := s.th tid
  if !t.exited || t.slot = .saved || t.slot = .vacant || s.keepsSlot tid || s.bequeaths t then .next s
  else
    let pkg := pkgOf (cidOf tid)
    let s := ((((s.unlinkThread tid).leaveLocks tid).unbindAll tid).endGang tid).orphan tid
    let s := { s with threads := erase s.threads tid }
    let s := s.updPkg pkg fun p => { p with fw := p.fw.filter fun f => decide (f.tid ≠ tid) }
    match t.grp.bind fun g => (s.group pkg g).map fun x => (g, x) with
    | some (g, x) => .next (s.setGroup pkg g { x with threads := x.threads.filter fun u => decide (u ≠ tid) })
    | none => .next s

/-! ### Retirement (11 R191, R198) -/

/-- Something of the group is still on its way to memory: an engine's or a queued command's write, or a move's. -/
def State.groupBusy (s : State) (pkg g : Nat) : Bool :=
  let o := ghost pkg g
  let mine (cid : Nat) (r : Req) : Bool := decide (pkgOf cid = pkg) && r.grp = some g
  (s.flight.any fun p => match p.2 with
    | .engine c r => mine c r
    | .coll c r _ => mine c r
    | .move x => decide (x.tid = o)
    | .plane x => decide (x.tid = o)
    | .matrixDone t _ _ => decide (t = o)
    | _ => false) ||
    s.cores.any fun c => (c.2.mail.any fun p => mine c.1 p.2) || c.2.queue.any fun p => decide (p.2.tid = o)

/-- Tiles and task queues of a group lose their owner (06 R113, 11 R199). -/
def State.disown (s : State) (pkg g : Nat) : State :=
  { s with
    cores := s.cores.map fun (p : Nat × Core) =>
      if pkgOf p.1 ≠ pkg then p
      else
        let c := if p.2.tile.owner = some g then { p.2 with tile := { p.2.tile with owner := none } } else p.2
        (p.1, if c.tasksOwner = some g then { c with tasksOwner := none, ready := [], sleepers := [] } else c) }

/-- Units that return to the free pool (10 R174). -/
def State.giveBack (s : State) (pkg grant : Nat) : State :=
  s.updPkg pkg fun p => { p with bellows := { p.bellows with free := p.bellows.free + grant * 256 } }

/-- A retiring group with CV = 1 increments its counter, which wraps (11 R191). -/
def State.countRetired (s : State) (pkg : Nat) (g : Group) : State :=
  let w := recWord g.record 8
  if g.launched && !g.faulted && w.getLsbD 63 then
    s.setCounter pkg (Fld w 62 51) (lookup 0 (s.pkg pkg).counters (Fld w 62 51) + 1)
  else s

/-- The group's own wait: its last thread has left its slot, and nothing of it is on its way. -/
def State.mayRetire (s : State) (pkg g : Nat) (x : Group) : Bool := x.threads.isEmpty && !s.groupBusy pkg g

/-- GROUP_RETIREMENT (11 R191, R197 to R199, R204; 06 R113; 20 R337, R338): a launched group writes RETIRED, unless it has ended
with FAULTED. -/
def execGroupRetirement (pkg grp : Nat) (s : State) : Out :=
  match s.group pkg grp with
  | none => .next s
  | some x =>
    if !s.mayRetire pkg grp x then .next s
    else
      let s := (s.writeManifest pkg x).countRetired pkg x
      let s := if x.faulted then s else s.groupRecord pkg grp 2 0
      let s := ((s.giveBack pkg x.grant).disown pkg grp).leaveBarriers pkg grp
      .next (s.updPkg pkg fun p => { p with groups := erase p.groups grp })

/-! ### Threads that firmware starts (02 R44; 11 R194, R195, R198) -/

/-- The thread of a firmware start, with its rank in its group; reserved bits are 0 (00 R10). -/
def fwThread (f : FwStart) (rank : Nat) : Thread :=
  { slot := .runnable
    pc := keepBits f.pc [(63, 3)]
    segs := Vector.ofFn fun (i : Fin 8) => segMask (f.segs.getD i.val (0, 0))
    sys :=
      { tvec := keepBits f.tvec [(63, 3)], wbase := keepBits f.wbase [(31, 0)], wlim := f.wlim
        status := if f.sup then 0x80000000 else 0 }
    tenant := f.tenant % 256
    grp := if f.grp = 0 then none else some f.grp
    rank := rank }

/-- The group of a firmware thread: no record, no queue, no grant. -/
def fwGroup (tenant : Nat) : Group :=
  { launched := false, record := [], queue := none, tenant := tenant, grant := 0, deadline := 0, threads := [], lsOff := []
    csp := none }

/-- Firmware may start the thread: in a VACANT slot; the flue thread alone in slot 15, and it alone of no group (00 R6, 09 R166); and in
a group of its own numbers, of at most 4,096 threads (00 R6, 11 R194). -/
def State.fwMayStart (s : State) (f : FwStart) : Bool :=
  let x := (s.group (pkgOf (cidOf f.tid)) f.grp).getD (fwGroup f.tenant)
  coreExists (cidOf f.tid) && decide ((s.th f.tid).slot = .vacant) && decide (slotOf f.tid = 15) = decide (f.grp = 0) &&
    decide (f.grp < 2 ^ 16) && !x.launched && decide (x.threads.length < 4096)

/-- FIRMWARE_THREAD_START: firmware starts a thread in a free slot, with the tenant and the space that it declares. -/
def execFirmwareThreadStart (f : FwStart) (s : State) : Out :=
  let pkg := pkgOf (cidOf f.tid)
  if !s.fwMayStart f then .next s
  else
    let s := s.seat f.tid (fwThread f (((s.group pkg f.grp).map fun x => x.threads.length).getD 0))
    let s := s.updPkg pkg fun p => { p with fw := p.fw ++ [f] }
    if f.grp = 0 then .next s
    else
      let s := s.updPkg pkg fun p => { p with reserved := addKey p.reserved f.grp }
      let x := (s.group pkg f.grp).getD (fwGroup f.tenant)
      .next (s.setGroup pkg f.grp { x with threads := x.threads ++ [f.tid] })

end Sys2Proof.Machine
end

