-- ==== Sys2Proof/Machine/Context.lean ====
section
/-! DEFINITION. Machine/Context.lean: pre-emption and resume: CTXS, the save and the restore of a group (04 R92; 06 R125; 11 R202;
12 R211 to R214; 20 R354). A saved thread stands in State.threads under a number of its own, and its local store under the core
of that number (notes/assumptions/5.md); what 12 R214 lays out is written to the save area and read back from it
(notes/assumptions/22.md). -/
namespace Sys2Proof.Machine

/-! ### Renaming threads (12 R212) -/

/-- A renaming of threads, as pairs of old and new numbers. -/
def rename (l : List (Nat × Nat)) (t : Nat) : Nat := ((l.find? fun p => decide (p.1 = t)).map (·.2)).getD t

def Ring.rename (f : Nat → Nat) (r : Ring) : Ring :=
  { r with
    cons := if r.kind = .out then f r.cons else r.cons
    prods := r.prods.map fun (p : Nat × Nat) => (f p.1, p.2)
    cur := r.cur.map fun (p : Nat × Nat) => (f p.1, p.2)
    merge := r.merge.map fun m => { m with newTid := f m.newTid } }

def StoreEntry.rename (f : Nat → Nat) (e : StoreEntry) : StoreEntry :=
  match e.kind with
  | .push q cons k bnd x => { e with kind := .push q (f cons) k bnd x }
  | .bytes _ _ _ => e

def Thread.rename (f : Nat → Nat) (t : Thread) : Thread :=
  { t with
    rings := t.rings.map (Ring.rename f)
    drain := t.drain.map fun d => { d with x := f d.x }
    sb := t.sb.map (StoreEntry.rename f) }

def Msg.rename (f : Nat → Nat) (m : Msg) : Msg := { m with dst := f m.dst }

/-- The references that hardware holds move; a message that a SEND addressed keeps its identifier. -/
def Item.rename (f : Nat → Nat) : Item → Item
  | .access a => .access { a with tid := f a.tid }
  | .reply r => .reply { r with tid := f r.tid }
  | .result t d v => .result (f t) d v
  | .put t k d => .put (f t) k d
  | .ack t g late => .ack (f t) g late
  | .regPut t g i v n => .regPut (f t) g i v n
  | .deliver d => .deliver { d with tid := f d.tid }
  | .sync a => .sync { a with tid := f a.tid }
  | .refused a => .refused { a with tid := f a.tid }
  | .sending m d => .sending m d
  | .message m => .message (if m.soft then m else m.rename f)
  | .waiting m d => .waiting (if m.soft then m else m.rename f) d
  | .record t q c k bnd x => .record (f t) q (f c) k bnd x
  | .credit t q term k => .credit (f t) q term k
  | .move x => .move { x with tid := f x.tid }
  | .plane x => .plane { x with tid := f x.tid }
  | .engine c r => .engine c { r with tid := f r.tid }
  | .coll c r z => .coll c { r with tid := f r.tid } z
  | .matrixDone t k w => .matrixDone (f t) k w
  | .walk w => .walk w
  | .fault w k => .fault w k
  | .pager t x e => .pager t x e
  | .hardware k m => .hardware k (m.rename f)
  | .tlbi t d sc gone => .tlbi (f t) d sc gone
  | .status t r v => .status (f t) r v
  | .bind t q size cap c n r => .bind (f t) q size cap c n r

def Saved.rename (f : Nat → Nat) (v : Saved) : Saved :=
  { v with
    tiles := v.tiles.map fun (p : Nat × Tile × List Matrix) =>
      (p.1, p.2.1, p.2.2.map fun (m : Matrix) => { m with tid := f m.tid })
    reqs := v.reqs.map fun (p : Nat × Req) => (p.1, { p.2 with tid := f p.2.tid })
    inbox := v.inbox.map (Msg.rename f)
    msgs := v.msgs.map (Msg.rename f)
    locks := v.locks.map fun (p : Nat × Waiter) => (p.1, { p.2 with tid := f p.2.tid }) }

def Group.rename (f : Nat → Nat) (g : Group) : Group :=
  { g with
    threads := g.threads.map f
    saved := g.saved.map (Saved.rename f)
    issuer := g.issuer.map f
    resumers := g.resumers.map f }

/-- Renames threads wherever hardware refers to them. -/
def State.rename (s : State) (l : List (Nat × Nat)) : State :=
  let f := Machine.rename l
  { s with
    threads := (s.threads.filter fun p => decide (p.2.slot ≠ .vacant)).foldl
      (fun (m : List (Nat × Thread)) (p : Nat × Thread) => insert m (f p.1) (p.2.rename f)) []
    flight := s.flight.map fun (p : Nat × Item) => (p.1, p.2.rename f)
    deferred := s.deferred.map fun (p : Nat × List Sync) => (p.1, p.2.map fun (a : Sync) => { a with tid := f a.tid })
    pkgs := s.pkgs.map fun (p : Nat × Pkg) =>
      (p.1, { p.2 with groups := p.2.groups.map fun (g : Nat × Group) => (g.1, g.2.rename f) }) }

/-! ### Moving near memory -/

def inRun (k base len : Nat) : Bool := decide (base ≤ k) && decide (k < base + len)

/-- Entries of a set of words, moved from one run of bytes to another. -/
def moveWords (l : List Nat) (src dst len : Nat) : List Nat :=
  ((l.filter fun w => inRun (w * 8) src len).map fun w => (w * 8 - src + dst) / 8).foldl addKey
    (l.filter fun w => !inRun (w * 8) dst len)

/-- Copies a run of local store with its full/empty bits and its poison, and moves the claims and deferred-access queues rooted in
it. -/
def State.moveStore (s : State) (src dst len : Nat) : State :=
  let cells := s.mem.filter fun c => inRun c.1 src len
  let kept := s.mem.filter fun c => !inRun c.1 dst len
  let claims := s.claims.filter fun p => inRun (p.1 * 8) src len
  let queues := s.deferred.filter fun p => inRun (p.1 * 8) src len
  let into (w : Nat) : Nat := (w * 8 - src + dst) / 8
  { s with
    mem := cells.foldl (fun (m : List Host.Cell) (c : Host.Cell) => store unlisted m (c.1 - src + dst) c.2) kept
    empty := moveWords s.empty src dst len
    poison := moveWords s.poison src dst len
    claims := claims.foldl (fun (m : List (Nat × Nat)) (p : Nat × Nat) => insert (erase m p.1) (into p.1) p.2) s.claims
    deferred := queues.foldl (fun (m : List (Nat × List Sync)) (p : Nat × List Sync) =>
      insert (erase m p.1) (into p.1) (p.2.map fun (a : Sync) => { a with key := a.key - src + dst })) s.deferred }

/-- Forgets a run's bytes and bits. -/
def State.clearStore (s : State) (base len : Nat) : State :=
  { s with
    mem := s.mem.filter fun c => !inRun c.1 base len
    empty := s.empty.filter fun w => !inRun (w * 8) base len
    poison := s.poison.filter fun w => !inRun (w * 8) base len }

/-- The channels of a thread that moves from one core to another (07 R146). -/
def Thread.rebase (t : Thread) (from_ into : Nat) : Thread :=
  { t with
    rings := t.rings.map fun (r : Ring) =>
      if r.kind = .loc || r.kind = .inn then { r with base := r.base - keyLocal from_ 0 + keyLocal into 0 } else r }

/-! ### The save area (12 R214) -/

/-- Bytes of a thread's local-store image with its bitmap. -/
def recImage (r : List Word) : Nat := (recLs r / 128 * 130 + 63) / 64 * 64

/-- Bytes of a cluster-scratchpad run with its bitmap. -/
def recRun (r : List Word) : Nat := recCsp r / 64 * 65

/-- Bytes of a core's accumulator elements (06 R119). -/
def accBytes : Nat := 131072

/-- Bytes of a core's ready queue and its mailbox requests: 128 task words and 4 blocks of 32 bytes (04 R85, 11 R199). -/
def queueBytes : Nat := 1152

/-- The offsets of the sections and SIZE. The scratchpad, accumulator and queue sections hold a part for each cluster or core that the
record can call for, and the engine's own bookkeeping behind it. -/
def recSections (r : List Word) : List Nat :=
  let (a, b, c) := Config.saveSections (recWord r 3) (recWord r 4)
  let n := recThreads r
  let ls := 128 + 2048 * n
  let sp := ls + recImage r * n
  let acc := sp + min 64 (recCores r) * recRun r + a.toNat
  let q := acc + recCores r * accBytes + b.toNat
  [128, ls, sp, acc, q, q + recCores r * queueBytes + c.toNat]

def recSaveSize (r : List Word) : Nat := (recSections r).getD 5 0

/-- Word 0 of the header. -/
def headerWord (g : Nat) (r : List Word) (state : Nat) : Nat := g * 2 ^ 48 + (recThreads r - 1) * 2 ^ 32 + state * 2 ^ 24

/-- The pages of a save area, where they all translate for stores. -/
def State.areaPages (s : State) (a : Area) (size : Nat) : Option (List (Nat × Nat)) :=
  let first := a.va / 2 ^ 16
  (List.range ((a.va + size - 1) / 2 ^ 16 + 1 - first)).mapM fun i =>
    let va := (first + i) * 2 ^ 16
    match s.walkTable ⟨0, a.clid, a.clid / 64, a.tenant, a.pod, va, 0, accStore, none⟩ with
    | .leaf k e => some (k, leafKeyOf e va)
    | _ => none

/-- The runs of keys of `n` bytes of the area. -/
def Area.runsOf (a : Area) : Nat → Nat → Nat → List (Nat × Nat)
  | 0, _, _ => []
  | fuel + 1, o, n =>
    if n = 0 then []
    else
      let m := min n (2 ^ 16 - (a.va + o) % 2 ^ 16)
      (a.key o, m) :: a.runsOf fuel (o + m) (n - m)

/-- The runs of `n` bytes of the area, whole. -/
def Area.span (a : Area) (o n : Nat) : List (Nat × Nat) := a.runsOf (n / 2 ^ 16 + 2) o n

def State.areaWrite (s : State) (a : Area) (o : Nat) (data : List Byte) : State := s.putBytes (a.span o data.length) data
def State.areaRead (s : State) (a : Area) (o n : Nat) : List Byte := s.bytesAt (a.span o n)

/-- Words 0 and 1 of the header. A write to the area settles what waits on its words (12 R210, 15 R256). -/
def State.areaHeader (s : State) (a : Area) (g : Nat) (r : List Word) (state : Nat) : State :=
  (s.areaWrite a 0 (toBytes 8 (headerWord g r state) ++ toBytes 8 (recSaveSize r))).settleLocks

/-- STATE of an area's header. -/
def State.areaState (s : State) (a : Area) : Nat := s.load (a.key 3) 1

/-- AC and D of the area's leaves (02 R50). -/
def State.useArea (s : State) (pages : List (Nat × Nat)) : State :=
  (pages.foldl (fun (s : State) (p : Nat × Nat) => s.storeAt p.1 (toBytes 8 (s.load p.1 8 ||| 0xC0))) s).settleLocks

/-- A full/empty bitmap, the lowest address in bit 0. -/
def State.bitmap (s : State) (base len : Nat) : List Byte :=
  (List.range (len / 64)).map fun i =>
    BitVec.ofNat 8 (((List.range 8).map fun j => (s.isFull (base + 64 * i + 8 * j)).toNat * 2 ^ j).foldl (· + ·) 0)

/-- A run of a scratchpad, followed by its bitmap. -/
def State.image (s : State) (base len : Nat) : List Byte :=
  (List.range len).map (fun i => readByte s.mem (base + i)) ++ s.bitmap base len

/-- One thread's record and local-store image. -/
def State.saveThread (s : State) (a : Area) (r : List Word) (base tid : Nat) : State :=
  let rank := (s.th tid).rank
  let rec_ := ((List.range 256).map fun i => toBytes 8 (s.recordWord tid i).toNat).flatten
  (s.areaWrite a (128 + 2048 * rank) rec_).areaWrite a ((recSections r).getD 1 0 + recImage r * rank) (s.image base (recLs r))

/-- The scratchpad run of the placement's cluster number `i`. -/
def State.saveRun (s : State) (a : Area) (r : List Word) (base i : Nat) : State :=
  s.areaWrite a ((recSections r).getD 2 0 + recRun r * i) (s.image base (recCsp r))

/-- The accumulator elements of the placement's core number `i`. -/
def State.saveTile (s : State) (a : Area) (r : List Word) (t : Tile) (i : Nat) : State :=
  s.areaWrite a ((recSections r).getD 3 0 + accBytes * i) ((List.range 16384).map fun n => toBytes 8 (lookup 0 t.elems n)).flatten

/-- The task words and request blocks of the placement's core number `i`. -/
def State.saveQueues (s : State) (a : Area) (r : List Word) (tasks : List Task) (reqs : List Req) (i : Nat) : State :=
  let o := (recSections r).getD 4 0 + queueBytes * i
  (s.areaWrite a o (tasks.map fun t => toBytes 8 t.word.toNat).flatten).areaWrite a (o + 1024)
    (reqs.flatMap fun (q : Req) => [q.w0, q.w1, q.w2, q.w3].flatMap fun w => toBytes 8 w.toNat)

/-- A run of a scratchpad takes its bytes and its full/empty bits from the area. -/
def State.fill (s : State) (a : Area) (o base len : Nat) : State :=
  let data := s.areaRead a o len
  let bits := s.areaRead a (o + len) (len / 64)
  let s := { s with mem := writeBytes (fun _ => false) s.mem base data }
  (List.range (len / 8)).foldl (fun (s : State) w => s.setFull (base + 8 * w) ((bits.getD (w / 8) 0).getLsbD (w % 8))) s

/-- A word of a thread record whose layout 12 R214 gives: q0 to q7, the draining state and the stage-state declaration are the
engine's own. -/
def sharedWord (i : Nat) : Bool := decide (i < 204) || decide (i = 220) || decide (224 ≤ i)

/-- Causes pending in either of two records. -/
def Pending.or (a b : Pending) : Pending := ⟨a.poison.or b.poison, a.sync.or b.sync, a.late.or b.late, a.timer || b.timer⟩

/-- A thread takes its record back from the area. A register that has changed, and a cause that has become pending, while it was SAVED
stay (12 R213). -/
def State.fillThread (s : State) (a : Area) (changed : List (Nat × Nat)) (tid : Nat) : State :=
  let data := s.areaRead a (128 + 2048 * (s.th tid).rank) 2048
  s.updTh tid fun t =>
    let t' := (List.range 256).foldl (fun (t : Thread) i =>
      if sharedWord i then t.recordWrite (cidOf tid) i (BitVec.ofNat 64 (ofBytes ((data.drop (8 * i)).take 8))) else t) t
    let t' := (changed.filter fun c => decide (c.1 = t.rank)).foldl (fun (y : Thread) c =>
      { y with regs := y.regs.setIfInBounds c.2 (t.reg c.2), present := setBitOf y.present c.2 (t.present.getLsbD c.2) }) t'
    { t' with pending := t.pending.or t'.pending }

/-- The accumulator elements of the placement's core number `i`, as the area holds them. -/
def State.areaTile (s : State) (a : Area) (r : List Word) (i : Nat) : List (Nat × Nat) :=
  let data := s.areaRead a ((recSections r).getD 3 0 + accBytes * i) accBytes
  (List.range 16384).filterMap fun n =>
    let x := ofBytes ((data.drop (8 * n)).take 8)
    if x = 0 then none else some (n, x)

/-- Ready-queue entries with the task words that the area holds for core number `i`. -/
def State.areaTasks (s : State) (a : Area) (r : List Word) (i : Nat) (l : List Task) : List Task :=
  let data := s.areaRead a ((recSections r).getD 4 0 + queueBytes * i) (8 * l.length)
  l.zipIdx.map fun (p : Task × Nat) => { p.1 with word := BitVec.ofNat 64 (ofBytes ((data.drop (8 * p.2)).take 8)) }

/-! ### CTXS (20 R354) -/

/-- A group that the dispatcher started. -/
def State.launchedGroup (s : State) (pkg g : Nat) : Option Group := (s.group pkg g).filter (·.launched)

/-- The segment leaves fewer than `size` bytes from `a`. -/
def State.areaSmall (s : State) (a : Word) (va size : Nat) : Bool :=
  decide ((s.src.seg (Fld a 63 61)).2.toNat % 2 ^ 61 < a.toNat % 2 ^ 61 + size) || decide (2 ^ 52 < va + size)

/-- The checks of CTXS before its status: the group number, the mode and the area's start. -/
def State.ctxsChecks (s : State) (d g a : XReg) : Except Stop (Nat × Bool × Nat) := do
  s.need [xplace g, xplace a] [xplace d]
  s.needHob
  raiseIf (decide (Fld (s.readX g) 63 16 ≠ 0)) 0x01 s.iss.word
  s.needSup
  let (pod, va) ← s.src.segCheck (s.readX a) 64 { rd := true, w := true } 64
  pure (Fld (s.readX g) 15 0, pod, va)

/-- The group's threads stop issuing, and its save waits for what they have in flight. -/
def State.startSave (s : State) (pkg g : Nat) (x : Group) (a : Area) (issuer : Nat) : State :=
  let a := match s.areaPages a (recSaveSize x.record) with
    | some ps => { a with pages := ps.map (·.2) }
    | none => a
  let s := s.setGroup pkg g { x with state := .saving, saved := some { area := a }, issuer := some issuer, again := none }
  let s := x.threads.foldl (fun (s : State) t => s.updTh t fun y => { y with held := true }) s
  if a.pages.isEmpty then s else s.areaHeader a g x.record 1

/-- The area that an EA names for the issuing thread. -/
def State.areaAt (s : State) (pod : Bool) (va : Nat) : Area := ⟨clidOf s.cid, s.src.tenant, pod, va, []⟩

/-- A SAVE of a group that is RESUMING is accepted, since no status stands for it, and starts once the group has resumed; a second one
has no effect (notes/assumptions/22.md). -/
def execCtxs (d g a : XReg) (gd : Fin 8) (s : State) : Out :=
  s.issueC gd fun s => do
    let (n, pod, va) ← s.ctxsChecks d g a
    let pkg := pkgOf s.cid
    match s.launchedGroup pkg n with
    | none => pure (s.answer d 1)
    | some x =>
      if s.src.grp = some n then pure (s.answer d 5)
      else if x.state = .saving || x.state = .saved || x.again.isSome then pure (s.answer d 2)
      else if s.areaSmall (s.readX a) va (recSaveSize x.record) then pure (s.answer d 4)
      else if x.state = .resuming then
        pure ((s.setGroup pkg n { x with again := some (s.areaAt pod va, s.cur) }).answer d 0)
      else pure ((s.startSave pkg n x (s.areaAt pod va) s.cur).answer d 0)

/-- CTXS.RESUME reads SIZE, and STATE of a group that is SAVED, from the area's header; the area that the first accepted one names is the
one that the resume reads (notes/assumptions/22.md). -/
def execCtxsResume (d g a : XReg) (gd : Fin 8) (s : State) : Out :=
  s.issueC gd fun s => do
    let (n, pod, va) ← s.ctxsChecks d g a
    let pkg := pkgOf s.cid
    match s.launchedGroup pkg n with
    | none => pure (s.answer d 1)
    | some x =>
      if s.src.grp = some n then pure (s.answer d 5)
      else if x.state ≠ .saving && x.state ≠ .saved then pure (s.answer d 3)
      else do
        let k ← s.far (s.readX a) 64 { rd := true, w := true } 64 accLoad
        raiseIf (s.poisoned k 16) 0x0B (s.readX a)
        if x.state = .saved && s.load (k + 3) 1 ≠ 2 then pure (s.answer d 3)
        else if s.areaSmall (s.readX a) va (s.load (k + 8) 8) then pure (s.answer d 4)
        else
          let s := s.setGroup pkg n
            { x with
              resumers := x.resumers ++ [s.cur]
              saved := x.saved.map fun v => { v with named := v.named.or (some (s.areaAt pod va)) } }
          let s := s.updPkg pkg fun p => { p with resumes := addKey p.resumes n }
          pure (s.answer d 0)

def execCtxsSize (d g : XReg) (gd : Fin 8) (s : State) : Out :=
  s.issueC gd fun s => do
    s.need [xplace g] [xplace d]
    s.needHob
    raiseIf (decide (Fld (s.readX g) 63 16 ≠ 0)) 0x01 s.iss.word
    s.needSup
    pure (s.writeX d (BitVec.ofNat 64
      (((s.launchedGroup (pkgOf s.cid) (Fld (s.readX g) 15 0)).map fun x => recSaveSize x.record).getD 0)))

/-- The dispatcher's one-word message to the thread that asked: PREEMPTED, RESUMED or FAULTED. -/
def State.tellIssuer (s : State) (g event dst : Nat) : State :=
  s.post (.hardware 5 ⟨0x1FFFFFE, 0, 0, false, false, [BitVec.ofNat 64 (event * 2 ^ 56 + g)], dst, false, 0⟩)

/-! ### Pre-emption (12 R211) -/

/-- Nothing of the thread is in flight but parked full/empty accesses, those that a full pool has refused, pushed records, and LOCKs that its
die's waits hold back: an access on its way comes to its word's owner first, and parks there or ends. -/
def State.quiet (s : State) (tid : Nat) : Bool :=
  let t := s.th tid
  t.sb.isEmpty && !t.exited && t.rotate.isNone &&
    (s.ofThread tid).all fun p => match p.2 with
      | .refused a => a.op.queues
      | .record _ _ _ _ _ _ => true
      | .access _ => s.lockHeld p.1
      | _ => false

/-- No copy engine serves the group (04 R92). -/
def State.copying (s : State) (pkg g : Nat) : Bool :=
  s.flight.any fun p => match p.2 with
    | .engine c r => decide (pkgOf c = pkg) && r.grp = some g
    | _ => false

/-- Lock waits of threads, with their keys: those in queues, then those held back. They leave (12 R213). -/
def State.takeLocks (s : State) (ts : List Nat) : State × List (Nat × Waiter) :=
  let queued := s.locks.flatMap fun (q : LockQueue) =>
    (q.waiters.filter fun w => ts.contains w.tid).map fun (w : Waiter) => (q.key, w)
  let held := s.flight.filterMap fun p => match p.2 with
    | .access a => if ts.contains a.tid && s.lockHeld p.1 then some (p.1, a.key, (⟨a.tid, a.dst, a.ea, a.late, p.1⟩ : Waiter)) else none
    | _ => none
  let ids := held.map (·.1)
  let s := ts.foldl (fun (s : State) t => s.leaveLocks t) s
  let s := { s with
    flight := s.flight.filter fun p => !ids.contains p.1
    dies := s.dies.map fun (p : Nat × Die) => (p.1, { p.2 with heldLocks := p.2.heldLocks.filter fun i => !ids.contains i }) }
  (s, queued ++ held.map (·.2))

/-- A lock wait rejoins: at its word's tail where its die has room, and otherwise behind those that its waits hold back, its thread in the
rotation and not ready (12 R213, 15 R255). It keeps the stamp of its issue. A thread that a later pair has parked stays parked as it is. -/
def State.rejoinLock (s : State) (key : Nat) (w : Waiter) : State :=
  let die := didOf (cidOf w.tid)
  let d := s.die die
  if decide (s.lockWaits die < 1024) && d.heldLocks.isEmpty then
    State.updTh { s with locks := joinLock s.locks key die w } w.tid fun t =>
      if t.slot = .runnable then { t with slot := .parked, park := .lock } else t
  else
    let s := s.setDie die { d with heldLocks := d.heldLocks ++ [w.id] }
    let s := s.updTh w.tid fun t => if t.park = .lock then t.wake else t
    s.setItem w.id (.access ⟨w.tid, .lock, true, key, none, w.ea, 8, 0, w.dst, 0, w.late⟩)

/-- What a core of the placement holds for the group leaves it: tile, commands, task queues, mailbox requests and messages. -/
def State.stripCore (s : State) (g : Nat) (ts : List Nat) (cid : Nat) : State :=
  let c := s.core cid
  let own := c.tile.owner = some g
  let tasks := c.tasksOwner = some g
  s.setCore cid
    { c with
      tile := if own then { c.tile with owner := none } else c.tile
      queue := c.queue.filter fun p => decide (p.2.grp ≠ some g)
      mail := c.mail.filter fun p => decide (p.2.grp ≠ some g)
      inbox := c.inbox.filter fun m => !ts.contains m.dst
      ready := if tasks then [] else c.ready
      sleepers := if tasks then [] else c.sleepers
      tasksOwner := if tasks then none else c.tasksOwner }

/-- What the core number `i` of a placement holds for its group, in the area's sections. -/
def State.saveCore (s : State) (a : Area) (r : List Word) (g i cid : Nat) : State :=
  let c := s.core cid
  let s := if c.tile.owner = some g then s.saveTile a r c.tile i else s
  s.saveQueues a r (if c.tasksOwner = some g then c.ready else []) ((c.mail.filter fun p => p.2.grp = some g).map (·.2)) i

/-- What the engine keeps of a core, by its place in the placement. -/
def State.collect (s : State) (v : Saved) (g : Nat) (ts : List Nat) (i cid : Nat) : Saved :=
  let c := s.core cid
  let cmds := (c.queue.filter fun p => p.2.grp = some g).map (·.2)
  let tile := if c.tile.owner = some g then { c.tile with elems := [] } else {}
  { v with
    tiles := if tile.owner.isNone && cmds.isEmpty then v.tiles else v.tiles ++ [(i, tile, cmds)]
    tasks := if c.tasksOwner = some g then v.tasks ++ [(i, c.ready, c.sleepers)] else v.tasks
    reqs := v.reqs ++ ((c.mail.filter fun p => p.2.grp = some g).map fun (p : Nat × Req) => (i, p.2))
    inbox := v.inbox ++ c.inbox.filter fun m => ts.contains m.dst }

/-- A thread leaves its slot: it stands SAVED under the number `vid`, and the slot it held stays SAVED. -/
def State.stow (s : State) (g vid : Nat) : State :=
  let tid := vid % 2 ^ 25
  let x := s.th vid
  let s := s.setTh vid { x.rebase (cidOf tid) (cidOf vid) with
    slot := .saved, held := false, wait := none, walk := none, fetch := [], stepping := false, stopping := false }
  s.setTh tid { slot := .saved, grp := some g, tenant := x.tenant, rank := x.rank }

/-- Walks of threads that leave are forgotten; their engines' go on. -/
def State.dropWalks (s : State) (ts : List Nat) : State :=
  { s with
    flight := s.flight.filter fun p => match p.2 with
      | .walk w => w.eng.isSome || !ts.contains w.tid
      | _ => true }

/-- The poisoned words of a run, by number from its start. -/
def State.badWords (s : State) (base len : Nat) : List Nat := (s.poison.filter fun w => inRun (w * 8) base len).map fun w => w - base / 8

/-- What the engine writes of its own beside what 12 R214 lays out in the scratchpad, accumulator and queue sections, its image of the
deferred queues, merges, messages, sleep table, queued commands, arrivals and lock waits among it: bytes that nothing fixes. What the
resume takes back of them stands in `Saved` (notes/assumptions/22.md). -/
def State.savePrivate (s : State) (a : Area) (r : List Word) : State :=
  let o := (recSections r).getD 2 0
  let n := recSaveSize r - o
  { s.areaWrite a o ((List.range n).map fun i => BitVec.ofNat 8 (Config.freeChoice (s.fresh + i))) with fresh := s.fresh + n }

/-- The sections of the save area but for the header. -/
def State.saveSections (s : State) (g : Nat) (x : Group) (a : Area) : State :=
  let s := s.savePrivate a x.record
  let tpc := recTpc x.record
  let base (t : Nat) : Nat :=
    let rank := (s.th t).rank
    let r := x.lsOff.getD (rank / tpc) (0, 0, 0)
    keyLocal r.1 (r.2.1 + rank % tpc * recLs x.record)
  let s := x.threads.foldl (fun (s : State) t => s.saveThread a x.record (base t) t) s
  let s := match x.csp with
    | some (o, _) => (clustersIn (x.lsOff.map fun r => (r.1, 0))).zipIdx.foldl (fun (s : State) (c : Nat × Nat) =>
        s.saveRun a x.record (keyCluster c.1 o) c.2) s
    | none => s
  x.lsOff.zipIdx.foldl (fun (s : State) (p : (Nat × Nat × Nat) × Nat) => s.saveCore a x.record g p.2 p.1.1) s

/-- The header of a completed save. -/
def State.finalHeader (s : State) (a : Area) (g : Nat) (r : List Word) : State :=
  let words := ((recSections r).take 5 ++ [s.time.toNat] ++ List.replicate 8 0).flatMap (toBytes 8)
  (s.areaWrite a 16 words).areaHeader a g r 2

/-- Everything of the group is saved at one instant: what 12 R214 lays out is written to the area, and the group's cores are left. -/
def State.save (s : State) (pkg g : Nat) (x : Group) (v : Saved) (pages : List (Nat × Nat)) : State :=
  let ts := x.threads
  let s := (s.useArea pages).dropWalks ts
  let s := ts.foldl (fun (s : State) t => s.endGang t) s
  let a := { v.area with pages := pages.map (·.2) }
  let s := s.saveSections g x a
  let (s, locks) := s.takeLocks ts
  let bad := match x.csp with
    | some (o, n) => (clustersIn (x.lsOff.map fun r => (r.1, 0))).map fun c => s.badWords (keyCluster c o) n
    | none => []
  let v := { v with area := a, cores := x.lsOff.map (·.1), bad := bad, locks := locks }
  let v := x.lsOff.zipIdx.foldl (fun (v : Saved) (p : (Nat × Nat × Nat) × Nat) => s.collect v g ts p.2 p.1.1) v
  let s := x.lsOff.foldl (fun (s : State) (r : Nat × Nat × Nat) => (s.stripCore g ts r.1).wakeMail r.1) s
  let k := 1 + (s.threads.map fun p => p.1 / 2 ^ 25).foldl max 0
  let names := ts.map fun t => (t, k * 2 ^ 25 + t % 2 ^ 25)
  let s := s.setGroup pkg g { x with saved := some v }
  let s := s.rename names
  let s := x.lsOff.foldl (fun (s : State) (r : Nat × Nat × Nat) =>
    s.moveStore (keyLocal r.1 r.2.1) (keyLocal (k * 2 ^ 21 + r.1) r.2.1) r.2.2) s
  let s := names.foldl (fun (s : State) (p : Nat × Nat) => s.stow g p.2) s
  let s := s.finalHeader a g x.record
  s.updPkg pkg fun p => { p with service := { p.service with halted := p.service.halted.filter fun t => !ts.contains t } }

/-- A group's state changes. -/
def State.setGroupState (s : State) (pkg g : Nat) (st : GroupState) : State :=
  match s.group pkg g with
  | some x => s.setGroup pkg g { x with state := st }
  | none => s

/-- PREEMPTION: once the group's accesses have landed, its copies have completed and its save area translates (12 R211). -/
def execPreemption (pkg grp : Nat) (s : State) : Out :=
  match s.group pkg grp with
  | none => .next s
  | some x =>
    match x.state, x.saved with
    | .saving, some v =>
      match s.areaPages v.area (recSaveSize x.record) with
      | none => .next s
      | some pages =>
        if x.threads.isEmpty || !(x.threads.all s.quiet) || s.copying pkg grp then .next s
        else
          let s := (s.save pkg grp x v pages).giveBack pkg x.grant
          let s := (s.setGroupState pkg grp .saved).groupRecord pkg grp 6 0
          .next (match x.issuer with
            | some t => s.tellIssuer grp 6 t
            | none => s)
    | _, _ => .next s

/-! ### Resume (12 R212) -/

/-- What the placement of a resume needs. -/
def Group.demand (x : Group) : Demand :=
  { n := recCores x.record
    tpc := recTpc x.record
    len := recTpc x.record * recLs x.record
    csp := recCsp x.record
    resume := true
    lsAt := x.lsOff.map (·.2.1)
    cspAt := (x.csp.map (·.1)).getD 0
    tasks := ((x.saved.map (·.tasks)).getD []).map (·.1) }

/-- The context that a core's scope instance names on the core that now holds its ranks (12 R211, R212). -/
def movedKey (cores : List (Nat × Nat)) (key : Nat) : Nat :=
  let sc := scopeOfCode (key / 2 ^ 34)
  if 4 ≤ key / 2 ^ 34 then key
  else match cores.find? fun p => inContext key p.1 with
    | some p => barrierKey sc (instanceOf sc p.2) (key / 16 % 256) (key % 16)
    | none => key

/-- A DEFAULT context's counts of the group move with it, where the context they come to is DEFAULT and has none of it. -/
def State.moveArrivals (s : State) (pkg g : Nat) (cores : List (Nat × Nat)) : State :=
  s.barriers.foldl (fun (s : State) (p : Nat × Barrier) =>
    let into := movedKey cores p.1
    let b := s.barrier p.1
    let d := s.barrier into
    match b.member pkg g with
    | none => s
    | some m =>
      if b.init || d.init || into = p.1 || (d.member pkg g).isSome then s
      else
        let s := s.setBarrier p.1 { b with members := b.members.filter fun y => !(y.pkg = pkg && y.grp = g) }
        let s := s.setBarrier into (d.setMember m)
        { s with
          threads := s.threads.map fun (q : Nat × Thread) =>
            match q.2.park with
            | .barrier k t => if k = p.1 && q.2.grp = some g && pkgOf (cidOf q.1) = pkg then
                (q.1, { q.2 with park := .barrier into t }) else q
            | _ => q }) s

/-- The area that a resume reads: the one its request names. -/
def Saved.source (v : Saved) : Area := v.named.getD v.area

/-- Deferred queues and claims of words in a scratchpad run stay where they are, at the words of the cluster left: the spec saves those of
local stores alone, so that is the model's choice (03 R77, 12 R211, notes/assumptions/22.md). -/
def State.restoreRun (s : State) (a : Area) (r : List Word) (base i : Nat) (bad : List Nat) : State :=
  let s := { s with poison := s.poison.filter fun w => !inRun (w * 8) base (recCsp r) }
  let s := s.fill a ((recSections r).getD 2 0 + recRun r * i) base (recCsp r)
  { s with poison := bad.foldl (fun (l : List Nat) (w : Nat) => addKey l (base / 8 + w)) s.poison }

/-- A near key that a request or a refused access holds, in the map of the core that now holds its thread's rank (12 R212). -/
def rebaseKey (from_ into k : Nat) : Nat :=
  if isLocalKey k then
    let c := localCore k
    keyLocal (if c = from_ then into else clidOf into * 128 + idxOf c) (k % 2 ^ 18)
  else if 2 ^ 51 ≤ k ∧ k < 2 ^ 52 then keyCluster (clidOf into) (k % 2 ^ 23)
  else if 2 ^ 52 ≤ k ∧ k < 2 ^ 53 then keyDie (didOf into) (k % 2 ^ 26)
  else k

/-- An access of a group that a full pool has refused goes again from the thread's new core (03 R77, 12 R212); `names` gives the new numbers.
-/
def Item.reissueFrom (names : List (Nat × Nat)) (x : Item) : Item :=
  match x with
  | .refused a => match names.find? fun p => decide (p.1 = a.tid) with
    | some p => .refused { a with key := rebaseKey (cidOf p.1 % 2 ^ 21) (cidOf p.2) a.key }
    | none => x
  | _ => x

/-- The tiles and task queues that a resume brings back have their owner from its start on, so that no other group takes them (06 R113, R125;
11 R199, R202; 12 R212). -/
def State.claimCores (s : State) (g : Nat) (v : Saved) (pl : List (Nat × Nat)) : State :=
  let at_ (i : Nat) : Nat := (pl.getD i (0, 0)).1
  let s := (v.tiles.filter fun p => p.2.1.owner.isSome).foldl (fun (s : State) p =>
    let c := s.core (at_ p.1)
    s.setCore (at_ p.1) { c with tile := { c.tile with owner := some g } }) s
  v.tasks.foldl (fun (s : State) p => s.setCore (at_ p.1) { s.core (at_ p.1) with tasksOwner := some g }) s

/-- A poisoned word among the first two of a save area, which hold its STATE and its SIZE. -/
def State.badHeader (s : State) (a : Area) : Bool := (a.span 0 16).any fun r => s.poisoned r.1 r.2

/-- A resume starts: the grant is taken and the group placed; its threads, local store and channels move to their new places. A poisoned
header is left as it is, for GROUP_RESUME to fail on (12 R212). -/
def State.startResume (s : State) (pkg g : Nat) (x : Group) (v : Saved) (pages : List (Nat × Nat)) (pl : List (Nat × Nat) × Nat) :
    State :=
  let tpc := recTpc x.record
  let names := x.threads.map fun t => (t, s.rankSlot pl.1 tpc (s.th t).rank)
  let old := x.threads.map (· % 2 ^ 25)
  let s := { s with
    threads := s.threads.filter fun (p : Nat × Thread) =>
      !((old.contains p.1 && p.2.slot = SlotState.saved && p.2.grp = some g) || names.any fun q => decide (q.2 = p.1)) }
  let k := (x.threads.headD 0) / 2 ^ 25
  let cores := (x.lsOff.map (·.1)).zip (pl.1.map (·.1))
  let s := { s with flight := s.flight.map fun (p : Nat × Item) => (p.1, p.2.reissueFrom names) }
  let s := s.rename names
  let s := names.foldl (fun (s : State) (p : Nat × Nat) =>
    s.updTh p.2 fun t => t.rebase (cidOf p.1) (cidOf p.2)) s
  let s := (x.lsOff.zip (pl.1.map (·.1))).foldl (fun (s : State) (p : (Nat × Nat × Nat) × Nat) =>
    let from_ := keyLocal (k * 2 ^ 21 + p.1.1) p.1.2.1
    (s.moveStore from_ (keyLocal p.2 p.1.2.1) p.1.2.2).clearStore from_ p.1.2.2) s
  let s := (s.moveArrivals pkg g cores).claimCores g v pl.1
  let a := { v.source with pages := pages.map (·.2) }
  let s := s.useArea pages
  let s := if s.badHeader a then s else s.areaHeader a g x.record 3
  let s := s.updPkg pkg fun p =>
    { p with
      resumes := delKey p.resumes g
      bellows := { p.bellows with free := p.bellows.free - x.grant * 256 } }
  match s.group pkg g with
  | some y => s.setGroup pkg g
      { y with
        state := .resuming
        saved := y.saved.map fun v => { v with area := a, named := none, reserved := false }
        lsOff := (pl.1.zip x.lsOff).map fun (p : (Nat × Nat) × (Nat × Nat × Nat)) => (p.1.1, p.2.2) }
  | none => s

/-- A resume whose area does not hold STATE 0x02 as it would start does not take place, and its requests are forgotten (20 R354;
notes/assumptions/22.md). One whose header is poisoned starts, and fails (12 R212). -/
def State.dropResumes (s : State) (pkg : Nat) : State :=
  (s.pkg pkg).resumes.foldl (fun (s : State) g =>
    match s.group pkg g with
    | none => s
    | some x => match x.state, x.saved with
      | .saved, some v => match s.areaPages v.source (recSaveSize x.record) with
        | none => s
        | some ps =>
          let a := { v.source with pages := ps.map (·.2) }
          if s.badHeader a || s.areaState a = 2 then s
          else
            (s.setGroup pkg g { x with resumers := [], saved := some { v with named := none, reserved := false } }).updPkg pkg fun p =>
              { p with resumes := delKey p.resumes g }
      | _, _ => s) s

def EndPt.rebase (from_ into : Nat) : EndPt → EndPt
  | .near k n => .near (rebaseKey from_ into k) n
  | e => e

def Req.rebase (from_ into : Nat) (r : Req) : Req :=
  { r with idx := rebaseKey from_ into r.idx, src := r.src.rebase from_ into, dst := r.dst.rebase from_ into }

/-- A core that takes a restored set has room for its commands and requests. -/
def State.roomFor (s : State) (v : Saved) (i cid : Nat) : Bool :=
  let c := s.core cid
  let cmds := ((v.tiles.filter fun p => p.1 = i).map fun p => p.2.2.length).foldl (· + ·) 0
  decide (c.queue.length + cmds ≤ 4) && decide (c.mail.length + (v.reqs.filter fun p => p.1 = i).length ≤ 4)

/-- Restores the tile, commands, task queues and mailbox requests of core `i` of the placement. A full mailbox is an event for the flue
slot (09 R166). -/
def State.restoreCore (s : State) (v : Saved) (r : List Word) (g i old cid : Nat) : State :=
  let s := v.tiles.foldl (fun (s : State) (p : Nat × Tile × List Matrix) =>
    if p.1 ≠ i then s
    else
      let c := s.core cid
      let s := s.setCore cid { c with tile := if p.2.1.owner.isSome then { p.2.1 with elems := s.areaTile v.area r i } else c.tile }
      p.2.2.foldl (fun (s : State) (m : Matrix) =>
        let c := s.core cid
        { s.setCore cid { c with queue := c.queue ++ [(s.serial, m)] } with serial := s.serial + 1 }) s) s
  let s := v.reqs.foldl (fun (s : State) (p : Nat × Req) =>
    let c := s.core cid
    match if p.1 = i then c.freeMail else none with
    | some n => (s.setCore cid { c with mail := c.mail ++ [(n, p.2.rebase old cid)] }).flueEvent cid
    | none => s) s
  v.tasks.foldl (fun (s : State) (p : Nat × List Task × List Sleeper) =>
    if p.1 ≠ i then s
    else s.setTasks cid { s.core cid with tasksOwner := some g, ready := s.areaTasks v.area r i p.2.1, sleepers := p.2.2 }) s

/-- The slot becomes RUNNABLE or PARKED as saved; a page fault and a full flue mailbox are met again as the pair issues again
(02 R54). -/
def Thread.unsave (t : Thread) : Thread :=
  match t.park with
  | .none | .page _ | .mailbox => { t with slot := .runnable, park := .none }
  | _ => { t with slot := .parked }

/-- A message returns to the inbox, within the limits of 16 R272; one without room waits at its source, and those behind it too. -/
def State.returnMsg (s : State) (m : Msg) (new : Bool) : State :=
  let waits := s.flight.any fun p => match p.2 with
    | .waiting x _ => decide (x.dst = m.dst) && x.soft = m.soft
    | _ => false
  let c := s.core (cidOf m.dst)
  if waits || !c.inboxRoom m then s.post (.waiting m none)
  else if new then s.enterInbox m
  else s.setCore (cidOf m.dst) { c with inbox := c.inbox ++ [m] }

/-- The context comes back: the threads, their local store, the scratchpad runs, tiles and task words from the area. The run of the k-th
cluster left goes to the k-th cluster taken, and a further cluster's run stays as it is (11 R197). -/
def State.restore (s : State) (g : Nat) (x : Group) (v : Saved) : State :=
  let tpc := recTpc x.record
  let s := x.threads.foldl (fun (s : State) t =>
    let s := s.fillThread v.area v.changed t
    s.seat t (s.th t).unsave) s
  let s := x.threads.foldl (fun (s : State) t =>
    let rank := (s.th t).rank
    let o := (x.lsOff.getD (rank / tpc) (0, 0, 0)).2.1 + rank % tpc * recLs x.record
    s.fill v.area ((recSections x.record).getD 1 0 + recImage x.record * rank) (keyLocal (cidOf t) o) (recLs x.record)) s
  let s := match x.csp with
    | some (o, _) => ((clustersIn (x.lsOff.map fun r => (r.1, 0))).zip v.bad).zipIdx.foldl
        (fun (s : State) (c : (Nat × List Nat) × Nat) => s.restoreRun v.area x.record (keyCluster c.1.1 o) c.2 c.1.2) s
    | none => s
  let s := (x.lsOff.zipIdx).foldl (fun (s : State) (p : (Nat × Nat × Nat) × Nat) =>
    s.restoreCore v x.record g p.2 (v.cores.getD p.2 0) p.1.1) s
  let s := v.inbox.foldl (fun (s : State) m => s.returnMsg m false) s
  let s := v.msgs.foldl (fun (s : State) m => s.returnMsg m true) s
  let s := v.locks.foldl (fun (s : State) (p : Nat × Waiter) => s.rejoinLock p.1 p.2) s
  s.areaHeader v.area g x.record 0

/-- A poisoned word of the save area ends the group with FAULTED, and its grant stays in FREE. Who asked for its resume or its next save
hears of it. -/
def State.failResume (s : State) (pkg g : Nat) (x : Group) : State :=
  let s := s.giveBack pkg x.grant
  let s := s.setGroup pkg g { x with state := .running, saved := none, resumers := [], again := none, grant := 0, faulted := true }
  let s := x.threads.foldl (fun (s : State) t => s.exitThread t) s
  (x.resumers ++ (x.again.map (·.2)).toList).foldl (fun (s : State) t => s.tellIssuer g 3 t) (s.groupRecord pkg g 3 0)

/-- The group runs again, and a save that was accepted meanwhile starts. -/
def State.resumed (s : State) (pkg g : Nat) : State :=
  match s.group pkg g with
  | none => s
  | some y =>
    let y := { y with state := .running, saved := none, resumers := [] }
    match y.again with
    | some (a, t) => s.startSave pkg g y a t
    | none => s.setGroup pkg g y

/-- GROUP_RESUME (12 R212): once the area translates and the cores have room. -/
def execGroupResume (pkg grp : Nat) (s : State) : Out :=
  match s.group pkg grp with
  | none => .next s
  | some x =>
    match x.state, x.saved with
    | .resuming, some v =>
      let size := recSaveSize x.record
      match s.areaPages v.area size with
      | none => .next s
      | some pages =>
        let v := { v with area := { v.area with pages := pages.map (·.2) } }
        if (v.area.span 0 size).any fun r => s.poisoned r.1 r.2 then .next (s.failResume pkg grp x)
        else if !((x.lsOff.zipIdx).all fun p => s.roomFor v p.2 p.1.1) then .next s
        else
          let s := (s.restore grp x v).resumed pkg grp
          .next (x.resumers.foldl (fun (s : State) t => s.tellIssuer grp 7 t) (s.groupRecord pkg grp 7 0))
    | _, _ => .next s

end Sys2Proof.Machine
end

