-- ==== Sys2Proof/Machine/Launch.lean ====
section
/-! DEFINITION. Machine/Launch.lean: LAUNCH, the tests of a launch record, the dispatcher's ranking, and how a group starts
(05 R97; 11 R189 to R197; 12 R212; 20 R346). -/
namespace Sys2Proof.Machine

/-! ### LAUNCH (20 R346) -/

/-- TENANT of a record replaced. -/
def withTenant (r : List Word) (tenant : Nat) : List Word :=
  r.set 3 (BitVec.ofNat 64 (setBits (recWord r 3).toNat 63 56 tenant))

/-- TENANT, DISABLED, FULL, or COMMITTED. -/
def launchStatus (x : Queue) (tenant : Nat) : Nat :=
  if Fld x.qcfg 7 0 ≠ tenant then 3
  else if !x.qcfg.getLsbD 8 then 2
  else if 64 ≤ x.recs.length then 1
  else 0

def execLaunch (d a q : XReg) (s : State) : Out :=
  s.issue fun s => do
    allOf [s.need [xplace a, xplace q] [xplace d], s.accessGate]
    raiseIf (decide (Fld (s.readX q) 63 14 ≠ 0)) 0x01 s.iss.word
    let k ← s.ownStore (s.readX a) 128 8
    let ws ← s.plainWords (s.readX a).toNat k 16
    let pkg := pkgOf s.cid
    let n := Fld (s.readX q) 13 0
    let x := (s.pkg pkg).queue n
    let st := launchStatus x s.src.tenant
    let rec_ := withTenant ws s.src.tenant
    let s := if st = 0 then
        s.updPkg pkg fun p => p.setQueue n { x with recs := x.recs ++ [(rec_, s.time.toNat)] }
      else s
    pure (s.answer d (BitVec.ofNat 64 st))

/-! ### Tests of a record (11 R189) -/

/-- A nonzero reserved field (11 R188). -/
def badRecord (r : List Word) : Bool :=
  (recWord r 3).getLsbD 48 || decide (Fld (recWord r 4) 15 12 ≠ 0) || decide (Fld (recWord r 6) 50 32 ≠ 0) ||
    decide (Fld (recWord r 7) 50 32 ≠ 0) || decide (Fld (recWord r 8) 50 0 ≠ 0) || (r.drop 10).any (· ≠ 0)

/-- The eight segments of SEGTAB, where its 128 bytes translate. -/
def State.segtab (s : State) (pkg : Nat) (r : List Word) : Option (List (Word × Word)) :=
  (s.tenantRuns pkg (recTenant r) false accLoad (recWord r 5).toNat 128).map fun runs =>
    let b := s.bytesAt runs
    let w (i : Nat) : Word := BitVec.ofNat 64 (ofBytes ((b.drop (8 * i)).take 8))
    (List.range 8).map fun i => (w (2 * i), w (2 * i + 1))

/-- The SEGTAB tests fail: its bytes do not all translate, or it holds a reserved bit. -/
def State.badTable (s : State) (pkg : Nat) (r : List Word) : Bool :=
  match s.segtab pkg r with
  | none => true
  | some segs => segs.any fun g => badSeg g.1 g.2

/-- A record that the dispatcher refuses at its queue's head. The SEGTAB tests are made once, as the record reaches the head. -/
def State.refuses (s : State) (pkg : Nat) (x : Queue) (r : List Word) : Bool :=
  badRecord r || decide (4096 < recThreads r) || decide (recTpc r = 0) || decide (recNwin r < 2) || decide (8 < recNwin r) ||
    decide (16384 < recGrant r) || decide (2048 * 4096 < recCsp r) || decide (recLs r < 128 * (recNwin r + 1)) ||
    decide (196608 < recTpc r * recLs r) || decide (recTenant r ≠ Fld x.qcfg 7 0) ||
    decide (64 * (s.clustersOf pkg (recTenant r)).length < recCores r) || (recDet r && decide (recWord r 9 = 0)) ||
    (!x.checked && s.badTable pkg r)

/-- Refused heads of one queue are discarded, one REFUSED record each. -/
def State.refuseHeads (s : State) (pkg q : Nat) : Nat → State
  | 0 => s
  | fuel + 1 =>
    let x := (s.pkg pkg).queue q
    match x.recs with
    | [] => s
    | (r, _) :: rest =>
      if s.refuses pkg x r then
        ((s.updPkg pkg fun p => p.setQueue q { x with recs := rest, checked := false, reserved := false }).statusRecord pkg q 4 0 0).refuseHeads
          pkg q fuel
      else s.updPkg pkg fun p => p.setQueue q { x with checked := true }

def State.refuseAll (s : State) (pkg : Nat) : State :=
  (s.pkg pkg).queues.foldl (fun (s : State) (p : Nat × Queue) => s.refuseHeads pkg p.1 64) s

/-! ### Ranking (11 R191, R192; 12 R212) -/

/-- A dependence is met: counter CTR ≥ VALUE, unsigned. -/
def Pkg.meets (p : Pkg) (w : Word) : Bool :=
  !w.getLsbD 63 || decide (Fld w 31 0 ≤ (lookup 0 p.counters (Fld w 62 51)).toNat)

/-- DEADLINE, or arrival + SLACK. -/
def effective (x : Queue) (r : List Word) (arrival : Nat) : Nat :=
  if recDeadline r = 0 then (arrival + Fld x.qcfg 63 16) % 2 ^ 48 else recDeadline r

/-- What the dispatcher ranks: the head of a queue, or a requested resume of a group. -/
structure Ranked where
  cls : Nat
  deadline : Nat
  head : Bool
  num : Nat
  grant : Nat
  deriving DecidableEq, Repr

/-- The ready heads and the requested resumes. -/
def State.contenders (s : State) (pkg : Nat) : List Ranked :=
  let p := s.pkg pkg
  (p.resumes.filterMap fun g => match s.group pkg g with
    | some x => if x.state = .saved then some ⟨recClass x.record, x.deadline, false, g, x.grant⟩ else none
    | none => none) ++
  p.queues.filterMap fun (q : Nat × Queue) => match q.2.recs with
    | [] => none
    | (r, arrival) :: _ =>
      if p.meets (recWord r 6) && p.meets (recWord r 7) then
        some ⟨recClass r, effective q.2 r arrival, true, q.1, recGrant r⟩
      else none

/-- Higher class, then earlier deadline, then resumes before heads, then the lower number. -/
def Ranked.before (a b : Ranked) : Bool :=
  if a.cls ≠ b.cls then decide (b.cls < a.cls)
  else if a.deadline ≠ b.deadline then earlier a.deadline b.deadline
  else if a.head ≠ b.head then !a.head
  else decide (a.num < b.num)

/-- Inserts in rank order. -/
def rankIn (x : Ranked) : List Ranked → List Ranked
  | [] => [x]
  | y :: rest => if x.before y then x :: y :: rest else y :: rankIn x rest

def ranked (l : List Ranked) : List Ranked := l.foldl (fun acc x => rankIn x acc) []

/-- The next group number: none where all are taken (11 R194). -/
def Pkg.nextNumber (p : Pkg) : Option Nat :=
  ((List.range 65535).map fun i => (p.next + i) % 65535 + 1).find? fun n =>
    !(p.groups.any fun g => decide (g.1 = n)) && !p.reserved.contains n

/-- What the placement of a record needs. -/
def recDemand (r : List Word) : Demand :=
  ⟨recCores r, recTpc r, recTpc r * recLs r, recCsp r, false, [], 0, []⟩

/-! ### Starting a group (05 R97; 11 R193, R194, R196, R197) -/

/-- SEG7 of rank `r`: its base goes up by r × LIMIT, LIMIT rounded up to 64 KiB. -/
def shiftSeg (g : Word × Word) (r : Nat) : Word × Word :=
  let limit := (g.2.toNat % 2 ^ 61 + 2 ^ 16 - 1) / 2 ^ 16
  (BitVec.ofNat 64 (setBits g.1.toNat 51 16 (Fld g.1 51 16 + r * limit)), g.2)

/-- A thread as a launch leaves it. -/
def launchedThread (r : List Word) (segs : List (Word × Word)) (tenant g rank deadline area : Nat) : Thread :=
  { slot := .runnable
    pc := keepBits (recWord r 0) [(63, 3)]
    segs := Vector.ofFn fun (i : Fin 8) =>
      let x := segs.getD i.val (0, 0)
      if i.val = 7 then shiftSeg x rank else x
    sys :=
      { status := if recDet r then 0x40000000 else 0
        tvec := keepBits (recWord r 1) [(63, 3)]
        deadline := BitVec.ofNat 64 (deadline % 2 ^ 48)
        wbase := BitVec.ofNat 64 (area + 128)
        wlim := BitVec.ofNat 64 (area + 128 + 128 * recNwin r) }
    tenant := tenant
    grp := some g
    rank := rank }

/-- The words of a launch block that are not 0. -/
def launchBlock (r : List Word) (rank : Nat) (csp : Option (Nat × Nat)) : List Word :=
  [BitVec.ofNat 64 rank, BitVec.ofNat 64 (recThreads r), recWord r 2,
    match csp with
    | some (o, _) => BitVec.ofNat 64 (0x80000000 + o)
    | none => 0] ++ List.replicate 12 0

/-- One thread starts in its slot, with its launch block. -/
def State.startThread (s : State) (r : List Word) (segs : List (Word × Word)) (g deadline : Nat) (csp : Option (Nat × Nat))
    (rank tid off : Nat) : State :=
  let s := s.seat tid (launchedThread r segs (recTenant r) g rank deadline off)
  s.storeAt (keyLocal (cidOf tid) off) ((launchBlock r rank csp).map fun w => toBytes 8 w.toNat).flatten

/-- The head of a queue starts: number, grant, space, threads, and STARTED-LATE where TIME is past its effective deadline. -/
def State.startGroup (s : State) (pkg q : Nat) (x : Queue) (r : List Word) (arrival g : Nat) (segs : List (Word × Word))
    (pl : List (Nat × Nat) × Nat) : State :=
  let eff := effective x r arrival
  let tpc := recTpc r
  let tids := (List.range (recThreads r)).map fun k => s.rankSlot pl.1 tpc k
  let csp := if recCsp r = 0 then none else some (pl.2, recCsp r)
  let grp : Group :=
    { launched := true
      record := r
      queue := some q
      tenant := recTenant r
      grant := recGrant r
      deadline := eff
      threads := tids
      lsOff := pl.1.map fun (p : Nat × Nat) => (p.1, p.2, tpc * recLs r)
      csp := csp
      seg0 := segs.getD 0 (0, 0) }
  let s := s.updPkg pkg fun p =>
    { p.setQueue q { x with recs := x.recs.drop 1, checked := false, reserved := false } with
      next := g
      groups := insert p.groups g grp
      bellows := { p.bellows with free := p.bellows.free - recGrant r * 256 } }
  let s := tids.zipIdx.foldl (fun (s : State) (p : Nat × Nat) =>
    let off := ((pl.1.getD (p.2 / tpc) (0, 0)).2) + p.2 % tpc * recLs r
    s.startThread r segs g eff csp p.2 p.1 off) s
  if passed eff s.time then s.groupRecord pkg g 1 0 else s

/-- One contender starts where its space gate lets it, with its SEGTAB as it then stands, a reserved bit read as 0 (00 R10). A head whose
SEGTAB has ceased to translate, and a resume whose save area does not, wait as at the space gate (notes/assumptions/20.md). -/
def State.tryStart (s : State) (pkg : Nat) (c : Ranked) : Option State :=
  if c.head then
    let x := (s.pkg pkg).queue c.num
    match x.recs with
    | [] => none
    | (r, arrival) :: _ =>
      match (s.pkg pkg).nextNumber, s.segtab pkg r, s.place pkg (recTenant r) (recDemand r) with
      | some g, some segs, some pl => some (s.startGroup pkg c.num x r arrival g (segs.map segMask) pl)
      | _, _, _ => none
  else
    match s.group pkg c.num with
    | none => none
    | some x =>
      match x.saved with
      | none => none
      | some v =>
        match s.areaPages v.source (recSaveSize x.record), s.place pkg x.tenant x.demand with
        | some pages, some pl => some (s.startResume pkg c.num x v pages pl)
        | _, _ => none

/-- A contender has reserved, in this ranking or an earlier one. -/
def State.reserves (s : State) (pkg : Nat) (c : Ranked) : Bool :=
  if c.head then ((s.pkg pkg).queue c.num).reserved else ((s.group pkg c.num).bind (·.saved)).any (·.reserved)

/-- A contender reserves until it has started. -/
def State.reserve (s : State) (pkg : Nat) (c : Ranked) : State :=
  if c.head then s.updPkg pkg fun p => p.setQueue c.num { p.queue c.num with reserved := true }
  else match s.group pkg c.num with
    | some x => s.setGroup pkg c.num { x with saved := x.saved.map fun v => { v with reserved := true } }
    | none => s

/-- Visits the contenders in rank order and starts the first that passes both gates. One that fails the ember gate reserves, behind another's
reservation too, and while one holds a reservation none of lower rank with a nonzero GRANT starts (11 R192). -/
def State.visit (s : State) (pkg : Nat) : Bool → List Ranked → State
  | _, [] => s
  | reserved, c :: rest =>
    if (s.pkg pkg).bellows.free < c.grant * 256 then (s.reserve pkg c).visit pkg true rest
    else if reserved && decide (c.grant ≠ 0) then s.visit pkg reserved rest
    else match s.tryStart pkg c with
      | some s' => s'
      | none => s.visit pkg (reserved || s.reserves pkg c) rest

/-- DISPATCHER_RANKING (11 R192): one start for each ranking. -/
def execDispatcherRanking (pkg : Nat) (s : State) : Out :=
  let s := (s.refuseAll pkg).dropResumes pkg
  .next (s.visit pkg false (ranked (s.contenders pkg)))

end Sys2Proof.Machine
end

