-- ==== Sys2Proof/Machine/MlDsa.lean ====
section
/-! DEFINITION. Machine/MlDsa.lean: whether an ML-DSA-87 signature over a digest verifies, which 28 R392 asks of the mask ROM, as FIPS 204
defines ML-DSA.Verify, with the digest as the message and an empty context (notes/assumptions/9.md). A polynomial is the list of its 256
coefficients modulo q, the constant term first. -/
namespace Sys2Proof.Machine

abbrev Poly := List Nat

/-- The prime q. -/
def mlQ : Nat := 8380417

def coeff (f : Nat → Nat) : Poly := (List.range 256).map fun i => f i % mlQ

/-- Numbers of `w` bits from bytes, the lowest bits first. -/
def unpackBits (w : Nat) (b : List Byte) : List Nat := (List.range 256).map fun i => ofBytes b / 2 ^ (w * i) % 2 ^ w

def modPow (x n : Nat) : Nat := (List.replicate n x).foldl (fun a b => a * b % mlQ) 1

/-- A polynomial's value. -/
def Poly.at_ (w : Poly) (x : Nat) : Nat := w.foldr (fun c a => (c + x * a) % mlQ) 0

/-- A number of 8 bits, reversed. -/
def reverse8 (i : Nat) : Nat := ((List.range 8).map fun b => i / 2 ^ b % 2 * 2 ^ (7 - b)).sum

/-- The transform: entry i is the value at the power 2 r + 1 of the 512th root of unity 1753, where r is i with its 8 bits reversed. -/
def Poly.transform (w : Poly) : Poly := coeff fun i => w.at_ (modPow 1753 (2 * reverse8 i + 1))

/-- The polynomial that has a transform; 8347681 is 1/256. -/
def Poly.untransform (v : Poly) : Poly :=
  let u := coeff fun k => v.getD (reverse8 k) 0
  coeff fun j => u.at_ (modPow 1753 ((512 - 2 * j) % 512)) * modPow 1753 ((512 - j) % 512) * 8347681

/-- Candidates for a coefficient: 23 bits of every three bytes. -/
def threes : List Byte → List Nat
  | a :: b :: c :: t => (a.toNat + 2 ^ 8 * b.toNat + 2 ^ 16 * (c.toNat % 2 ^ 7)) :: threes t
  | _ => []

/-- Entry (r, s) of the matrix that a seed of 32 bytes gives, as a transform: the first 256 candidates below q. -/
def matrixEntry (seed : List Byte) (r s : Nat) : Poly :=
  ((threes (shake 168 2688 (seed ++ [BitVec.ofNat 8 s, BitVec.ofNat 8 r]))).filter (· < mlQ)).take 256

/-- Places 60 coefficients of 1 or -1, from number `i` on: a byte above `i` is passed over. -/
def placeSigns (signs : Nat) : List Byte → Nat → Poly → Poly
  | [], _, c => c
  | b :: t, i, c =>
    if 256 ≤ i then c
    else if i < b.toNat then placeSigns signs t i c
    else placeSigns signs t (i + 1)
      ((c.set i (c.getD b.toNat 0)).set b.toNat (if signs / 2 ^ (i - 196) % 2 = 0 then 1 else mlQ - 1))

/-- The challenge that 64 bytes give. -/
def challenge (seed : List Byte) : Poly :=
  let b := shake 136 1360 seed
  placeSigns (ofBytes (b.take 8)) (b.drop 8) 196 (List.replicate 256 0)

/-- The places of the hints by row, from the last 83 bytes of a signature: rising within a row, at most 75, and zeros behind them. -/
def hintRows (y : List Nat) : Option (List (List Nat)) :=
  let ends := y.drop 75
  let rows := ((0 :: ends).zip ends).map fun p => (y.take p.2).drop p.1
  if ((0 :: ends).zip ends).all (fun p => decide (p.1 ≤ p.2) && decide (p.2 ≤ 75)) &&
      rows.all (fun l => decide (l.Pairwise (· < ·))) && ((y.take 75).drop (ends.getD 7 0)).all (· = 0) then some rows
  else none

/-- The high part of a coefficient, between 0 and 15, one step on in the direction of its low part where the hint says so. -/
def useHint (hint : Bool) (r : Nat) : Nat :=
  let low : Int := let m := r % 523776; if m ≤ 261888 then m else (m : Int) - 523776
  let top := decide ((r : Int) - low = 8380416)
  let high : Nat := if top then 0 else (((r : Int) - low) / 523776).toNat
  let low := if top then low - 1 else low
  if !hint then high else if 0 < low then (high + 1) % 16 else (high + 15) % 16

/-- The signature, 4,627 bytes, over a message verifies under a key of 2,592 bytes. -/
def mlDsaVerifies (key msg sig : List Byte) : Bool :=
  let zs := (List.range 7).map fun i => unpackBits 20 ((sig.drop (64 + 640 * i)).take 640)
  match hintRows ((sig.drop 4544).map BitVec.toNat) with
  | none => false
  | some rows =>
    let mu := shake 136 64 (shake 136 64 key ++ [0, 0] ++ msg)
    let z := zs.map fun (l : List Nat) => Poly.transform (l.map fun v => (mlQ + 2 ^ 19 - v) % mlQ)
    let c := (challenge (sig.take 64)).transform
    let rowOf (r : Nat) : Poly :=
      let t := Poly.transform ((unpackBits 10 ((key.drop (32 + 320 * r)).take 320)).map fun v => v * 2 ^ 13 % mlQ)
      let az := z.zipIdx.map fun (p : Poly × Nat) => (matrixEntry (key.take 32) r p.2).zipWith (· * ·) p.1
      Poly.untransform (coeff fun i => (az.map fun (l : Poly) => l.getD i 0).sum + (mlQ - c.getD i 0) * t.getD i 0)
    let high (r : Nat) : List Nat := (rowOf r).zipIdx.map fun p => useHint ((rows.getD r []).contains p.2) p.1
    let packed := (List.range 8).flatMap fun r => toBytes 128 ((high r).foldr (fun h a => h + 16 * a) 0)
    decide (key.length = 2592) && decide (sig.length = 4627) &&
      zs.all (fun (l : List Nat) => l.all fun v => decide (((2 : Int) ^ 19 - v).natAbs < 524168)) &&
      decide (sig.take 64 = shake 136 64 (mu ++ packed))

end Sys2Proof.Machine
end

