-- ==== Sys2Proof/Machine/Device.lean ====
section
/-! DEFINITION. Machine/Device.lean: the host, the pod fabric, power, reset and attestation (28 R382, R383, R386 to R394). -/
namespace Sys2Proof.Machine

/-! ### Power states (28 R391) -/

/-- A thread that keeps the package from being idle: one in a compute slot, or a hob or flue thread that is not PARKED
(notes/assumptions/23.md). -/
def keepsAwake (tid : Nat) (t : Thread) : Bool :=
  if isHob (cidOf tid) || slotOf tid = 15 then t.slot ≠ .parked && t.slot ≠ .vacant else t.slot ≠ .vacant

/-- Something of the flue, the fabric or the far net is under way in the package. -/
def State.pkgBusy (s : State) (pkg : Nat) : Bool :=
  (s.flight.any fun p => match p.2 with
    | .engine c _ | .coll c _ _ => decide (pkgOf c = pkg)
    | .message m | .waiting m _ => decide (pkgOf (cidOf m.dst) = pkg)
    | .regPut _ t _ _ _ => decide (pkgOf (cidOf t) = pkg)
    | _ => false) ||
    (s.cores.any fun c => decide (pkgOf c.1 = pkg) && !c.2.mail.isEmpty) ||
    s.dies.any fun d => decide (d.1 / 4 = pkg) && !d.2.packets.isEmpty

def State.idlePkg (s : State) (pkg : Nat) : Bool :=
  !(s.threads.any fun p => decide (pkgOf (cidOf p.1) = pkg) && decide (p.1 < 2 ^ 25) && keepsAwake p.1 p.2) &&
    (s.pkg pkg).queues.all (fun q => q.2.recs.isEmpty) && !s.pkgBusy pkg

/-- The deepest state whose wake latency LATTOL tolerates. -/
def deepest (lattol : Nat) : Nat :=
  if 2000000 ≤ lattol then 3 else if 50000 ≤ lattol then 2 else if 2000 ≤ lattol then 1 else 0

/-- POWER_STATE_ENTRY (28 R391). -/
def execPowerStateEntry (pkg : Nat) (s : State) : Out :=
  if s.idlePkg pkg then .next (s.updAround pkg fun a => { a with pscur := deepest a.lattol.toNat }) else .next s

/-- POWER_STATE_WAKE (28 R391). -/
def execPowerStateWake (pkg : Nat) (s : State) : Out := .next (s.wakePkg pkg)

/-! ### Mailbox windows (28 R382, R383) -/

/-- A refused host access counts in MBERR, which saturates. -/
def State.hostRefused (s : State) (pkg : Nat) : State :=
  s.updAround pkg fun a => { a with mberr := min (a.mberr + 1) (2 ^ 32 - 1) }

/-- The runs of keys of an access through a window: none where the window is disabled, lacks the right, or does not translate. -/
def State.windowRuns (s : State) (pkg win off n : Nat) (wr : Bool) : Option (List (Nat × Nat)) :=
  let a := (s.pkg pkg).around
  let wa := lookup 0 a.mbwa win
  let va := Fld (lookup 0 a.mbwb win) 51 16 * 2 ^ 16 + off
  let tenant := Fld wa 63 56
  if win < 64 && wa.getLsbD 0 && (if wr then wa.getLsbD 52 else wa.getLsbD 51) && decide (off + n ≤ 2 ^ 30) &&
      decide (va + n ≤ 2 ^ 52) then
    match s.clustersOf pkg tenant with
    | [] => none
    | c :: _ => s.dispatchRuns c tenant (wa.getLsbD 55) (if wr then accStore else accLoad) (n / 2 ^ 16 + 2) va n
  else none

/-- An access of the host to a register through BAR0: 8 bytes at an 8-aligned offset (28 R378). -/
def barOk (off n : Nat) : Bool := decide (n = 8) && decide (off % 8 = 0) && decide (off < 2 ^ 26)

def State.answerHost (s : State) (pkg : Nat) (x : HostAnswer) : State :=
  s.updPkg pkg fun p => { p with answers := p.answers ++ [x] }

/-- The core that stands for a package's mailbox engine where an access of the host crosses the fabric. -/
def hostCore (pkg : Nat) : Nat := pkg * 8192

/-- Bytes go to their runs, but for those of runs that a failed port drops. -/
def State.putThrough (s : State) (cid : Nat) : List (Nat × Nat) → List Byte → State
  | [], _ => s
  | r :: rest, data =>
    (if s.lost cid r.1 then s else s.storeAt r.1 (data.take r.2)).putThrough cid rest (data.drop r.2)

/-- The packages that an access of the host comes to over the fabric wake (28 R391). -/
def State.wakeHomes (s : State) (pkg : Nat) (runs : List (Nat × Nat)) : State :=
  (runs.filter fun r => decide (servedIn (hostCore pkg) r.1 ≠ pkg) && !s.lost (hostCore pkg) r.1).foldl (fun (s : State) r => s.wakePkg (servedIn (hostCore pkg) r.1)) s

/-- What a host read of some runs returns: the data, with EP where a word is poisoned; of one that a failed port has answered, EP with
bytes that nothing fixes (28 R383, R387). -/
def State.hostData (s : State) (pkg n : Nat) (runs : List (Nat × Nat)) : State :=
  if runs.any fun r => s.lost (hostCore pkg) r.1 then
    { s.answerHost pkg (.data ((List.range n).map fun i => BitVec.ofNat 8 (Config.freeChoice (s.fresh + i))) true) with
      fresh := s.fresh + n }
  else s.answerHost pkg (.data (s.bytesAt runs) (runs.any fun r => s.poisoned r.1 r.2))

/-- An access through a window: refused, kept at a fabric port without a link, or performed (28 R383, R387). -/
def State.hostAccess (s : State) (pkg : Nat) (x : HostAccess) : State :=
  match s.windowRuns pkg x.win x.off x.n x.data.isSome, x.data with
  | none, some _ => s.hostRefused pkg
  | none, none => (s.hostRefused pkg).answerHost pkg .abort
  | some runs, data =>
    if runs.any fun r => s.awaitsLink (hostCore pkg) r.1 then s.updAround pkg fun a => { a with held := a.held ++ [x] }
    else match data with
      | some bytes => ((s.wakeHomes pkg runs).putThrough (hostCore pkg) runs bytes).settleLocks
      | none => (s.wakeHomes pkg runs).hostData pkg x.n runs

/-- The accesses that a package keeps are tried again, in their order. -/
def State.retryHost (s : State) (pkg : Nat) : State :=
  match (s.pkg pkg).around.held with
  | [] => s
  | xs => xs.foldl (fun (s : State) x => s.hostAccess pkg x) (s.updAround pkg fun a => { a with held := [] })

/-- HOST_WRITE: through a window a plain store at the SYS ordering point (08 R157; 28 R383), and through BAR0, where `win` is none, a
register write, discarded where it is narrow or misaligned (28 R378). -/
def execHostWrite (pkg : Nat) (win : Option Nat) (off : Nat) (bytes : List (BitVec 8)) (s : State) : Out :=
  let s := s.wakePkg pkg
  match win with
  | none => .next (if barOk off bytes.length then s.regWrite pkg off (BitVec.ofNat 64 (ofBytes bytes)) else s)
  | some w => .next (s.hostAccess pkg ⟨w, off, bytes.length, some bytes⟩)

/-- HOST_READ: the data, with EP where a word is poisoned, or Completer Abort (28 R383); through BAR0 a register, or Unsupported
Request where the access is narrow or misaligned (28 R378). -/
def execHostRead (pkg : Nat) (win : Option Nat) (off n : Nat) (s : State) : Out :=
  let s := s.wakePkg pkg
  match win with
  | none => .next (s.answerHost pkg
      (if barOk off n then .data (toBytes 8 (s.regRead pkg off).toNat) false else .unsupported))
  | some w => .next (s.hostAccess pkg ⟨w, off, n, none⟩)

/-! ### The fabric (28 R386 to R388) -/

/-- FLIT_RETRANSMIT: a flit is sent again and delivered once (28 R386, R387). -/
def execFlitRetransmit (_pkg _port : Nat) (s : State) : Out := .next s

/-- LINK_LOSS: the port keeps what it has not sent (28 R387). -/
def execLinkLoss (pkg port : Nat) (s : State) : Out :=
  .next (s.updAround pkg fun a =>
    if a.down.contains (port % 8) then a
    else { a with down := addKey a.down (port % 8), downAt := insert a.downAt (port % 8) s.time.toNat })

/-- A packet kept at a fabric port of its die. -/
def State.keptAt (s : State) (p : Packet) (die pkg port : Nat) : Bool :=
  decide (p.stage = 7) && decide (p.home ≠ die) && decide (die / 4 = pkg) && portKind p.dport = 2 &&
    decide (s.fabricPort pkg (p.home / 4) = port)

/-- Kept packets, with their dies. -/
def State.keptPackets (s : State) (pkg port : Nat) : List (Nat × Packet) :=
  (s.dies.map fun (d : Nat × Die) => (d.2.packets.filter fun p => s.keptAt p d.1 pkg port).map fun p => (d.1, p)).flatten

/-- Kept packets leave their dies. -/
def State.takePackets (s : State) (pkg port : Nat) : State :=
  { s with
    dies := s.dies.map fun (d : Nat × Die) =>
      (d.1, { d.2 with packets := d.2.packets.filter fun p => !s.keptAt p d.1 pkg port }) }

/-- LINK_RESTORE: kept packets go on to their homes' nets, and wake their packages; kept accesses of the host go on too (28 R387, R391). -/
def execLinkRestore (pkg port : Nat) (s : State) : Out :=
  let s := s.updAround pkg fun a =>
    { a with down := delKey a.down (port % 8), downAt := erase a.downAt (port % 8), failed := delKey a.failed (port % 8) }
  let kept := s.keptPackets pkg (port % 8)
  let s := s.takePackets pkg (port % 8)
  let s := kept.foldl (fun (s : State) (q : Nat × Packet) => (s.wakePkg (q.2.home / 4)).passOn q.2) s
  .next (s.pkgs.foldl (fun (s : State) p => s.retryHost p.1) s)

/-- The address of hob core 67 of cluster 0, die 0. -/
def serviceSlot (pkg : Nat) : Nat := (pkg * 8192 + 67) * 16

/-- A service message of 2 words (28 R388). -/
def State.serviceMsg (s : State) (pkg kind code w1 : Nat) : State :=
  s.post (.hardware kind ⟨0x1FFFFFD, 0, 0, false, false,
    [BitVec.ofNat 64 (code * 2 ^ 56 + s.time.toNat), BitVec.ofNat 64 w1], serviceSlot pkg, false, 0⟩)

/-- FTMO microseconds have passed since a port lost its link, and it has not failed yet. -/
def Surround.overdue (a : Surround) (port : Nat) (time : BitVec 48) : Bool :=
  a.down.contains port && !a.failed.contains port && decide (a.ftmo.toNat * 1000 ≤ (time.toNat + 2 ^ 48 - lookup 0 a.downAt port) % 2 ^ 48)

/-- What goes from a thread to another package through a fabric port. -/
def State.goesOut (s : State) (pkg port a b : Nat) : Bool :=
  decide (pkgOf (cidOf a) = pkg) && decide (pkgOf (cidOf b) ≠ pkg) && decide (s.fabricPort pkg (pkgOf (cidOf b)) = port)

/-- A reply that waits for the link of a package's port. -/
def State.replyAt (s : State) (pkg port : Nat) (r : Reply) : Bool :=
  r.ways.any fun w =>
    decide ((wayPkgs w).1 = pkg) && decide ((wayPkgs w).2 ≠ pkg) && decide (s.fabricPort pkg (wayPkgs w).2 = port)

/-- FTMO_EXPIRY: queued loads, atomics and full/empty accesses that read are answered poisoned, those whose reply waits for the link too, and
reads of the host; stores, puts and messages are discarded, and of an engine's access the bytes that it would have read or written there
are lost. A message that waits at its source for an inbox entry is not queued at the port. The port fails once until its link returns,
and reports it once (28 R387; notes/assumptions/12.md). -/
def execFtmoExpiry (pkg port : Nat) (s : State) : Out :=
  let port := port % 8
  if !(s.pkg pkg).around.overdue port s.time then .next s
  else
    let kept := s.keptPackets pkg port
    let s := s.takePackets pkg port
    let s := kept.foldl (fun (s : State) (q : Nat × Packet) => q.2.ids.foldl (fun (s : State) id => s.failPacket q.2 id) s) s
    let s := s.updAround pkg fun a => { a with failed := addKey a.failed port }
    let s := { s with
      flight := s.flight.filterMap fun (p : Nat × Item) => match p.2 with
        | .reply r => some (p.1, .reply (if s.replyAt pkg port r then { r with val := 0, poison := some r.ea, ways := [] } else r))
        | .ack t g _ => if s.goesOut pkg port t g then none else some p
        | .hardware 0 m => if s.goesOut pkg port m.sender m.dst then none else some p
        | _ => some p }
    .next ((s.retryHost pkg).serviceMsg pkg 3 0x51 port)

/-! ### The supply and the monitors (28 R389, R390) -/

/-- The input is more than 4 V below the prediction, both in units of 10 mV (28 R389). -/
def belowPrediction (pred vin : BitVec 16) : Bool := decide (vin.toNat + 400 < pred.toNat)

/-- CRACKED_CONNECTION_ALARM: once the input has stayed low for 1 ms, ALARM becomes 1 and CEIL 0, and the package wakes; an alarm that stands
is not raised again (10 R184, 28 R389, R391). -/
def execCrackedConnectionAlarm (pkg : Nat) (pred vin : BitVec 16) (s : State) : Out :=
  let a := (s.pkg pkg).around
  if a.alarm || !(a.low && belowPrediction pred vin && decide (1000000 ≤ a.inputFor s.time)) then .next s
  else
    let s := s.updAround pkg fun a => { a with alarm := true, pscur := 0 }
    let s := s.updBellows pkg fun b => { b with ceil := 0, ctlCeil := 0 }
    .next (s.serviceMsg pkg 4 0x52 (pred.toNat * 2 ^ 16 + vin.toNat))

/-- What a report says of the supply: PIN, whether the input is low, with the TIME of each change, and since when the average power has
been below 2,090 W (10 R184). -/
def Surround.takeSupply (a : Surround) (x : Readings) (time : BitVec 48) : Surround :=
  let low := belowPrediction x.pred x.vin
  { a with
    pin := BitVec.ofNat 64 (x.vin.toNat + x.current.toNat * 2 ^ 16 + x.power.toNat * 2 ^ 32)
    low := low
    inputAt := if low = a.low then a.inputAt else time.toNat
    coolAt := if a.power < 2090 ∧ x.power.toNat < 2090 then a.coolAt else time.toNat }

/-- A hearth's MON word, and its cap while it is above THOT, until it is 5 °C below (28 R390). -/
def Surround.takeMonitor (a : Surround) (pkg hearth : Nat) (temp mv osc : BitVec 16) : Surround :=
  let h := pkg * 1088 + hearth
  let thot : Int := a.thot.toNat
  { a with
    mon := insert a.mon hearth (BitVec.ofNat 64 (temp.toNat + mv.toNat * 2 ^ 32 + osc.toNat * 2 ^ 48))
    capped := if thot < temp.toInt then addKey a.capped h
      else if temp.toInt ≤ thot - 80 then delKey a.capped h
      else a.capped }

/-- MONITOR_REPORT: a hearth's monitors and the package's supply (28 R389, R390). -/
def execMonitorReport (pkg hearth : Nat) (temp mv : BitVec 16) (x : Readings) (s : State) : Out :=
  if 1088 ≤ hearth then .next s
  else .next (s.updAround pkg fun a => (a.takeSupply x s.time).takeMonitor pkg hearth temp mv x.osc)

/-! ### Reset and measurement (28 R392, R393) -/

/-- A key of the package's near memory. -/
def nearOf (pkg k : Nat) : Bool := decide (2 ^ 50 ≤ k) && decide (k < 2 ^ 53) && decide (homeOf k / 4 = pkg)

def ofPkg (pkg tid : Nat) : Bool := decide (pkgOf (cidOf tid) = pkg)

/-- What of the traffic ends with a package. -/
def Item.endsWith (x : Item) (pkg : Nat) : Bool :=
  match x with
  | .access a => ofPkg pkg a.tid
  | .reply r => ofPkg pkg r.tid
  | .deliver d => ofPkg pkg d.tid
  | .result t _ _ | .put t _ _ | .ack t _ _ | .regPut t _ _ _ _ => ofPkg pkg t
  | .sync a | .refused a => ofPkg pkg a.tid
  | .sending m _ => ofPkg pkg m.sender
  | .message m | .waiting m _ | .hardware _ m => ofPkg pkg m.dst
  | .record t _ c _ _ _ => ofPkg pkg t || ofPkg pkg c
  | .credit t _ _ _ => ofPkg pkg t
  | .move x => ofPkg pkg x.tid
  | .plane x => ofPkg pkg x.tid
  | .engine c _ | .coll c _ _ => decide (pkgOf c = pkg)
  | .matrixDone t _ _ | .pager t _ _ | .tlbi t _ _ _ | .status t _ _ | .bind t _ _ _ _ _ _ => ofPkg pkg t
  | .walk w | .fault w _ => decide (w.pkg = pkg)

/-- A barrier context of a scope that lies in the package. -/
def barrierIn (pkg key : Nat) : Bool :=
  let inst := key / 2 ^ 12 % 2 ^ 22
  match key / 2 ^ 34 with
  | 0 => decide (pkgOf inst = pkg)
  | 1 => decide (inst / 17 / 64 = pkg)
  | 2 => decide (inst / 64 = pkg)
  | 3 => decide (inst / 4 = pkg)
  | 4 => decide (inst = pkg)
  | _ => false

/-- Everything of a package but its far memory returns to its reset value. -/
def State.clearPkg (s : State) (pkg : Nat) : State :=
  { s with
    mem := s.mem.filter fun c => !nearOf pkg c.1
    empty := s.empty.filter fun w => !nearOf pkg (w * 8)
    poison := s.poison.filter fun w => !nearOf pkg (w * 8)
    claims := s.claims.filter fun p => !nearOf pkg (p.1 * 8)
    deferred := (s.deferred.filter fun p => !nearOf pkg (p.1 * 8)).map fun (p : Nat × List Sync) =>
      (p.1, p.2.filter fun a => !ofPkg pkg a.tid)
    threads := s.threads.filter fun p => !ofPkg pkg p.1
    cores := s.cores.filter fun p => decide (pkgOf p.1 ≠ pkg)
    units := s.units.filter fun p => decide (pkgOf (p.1 * 8) ≠ pkg)
    clusters := s.clusters.filter fun p => decide (p.1 / 64 ≠ pkg)
    dies := s.dies.filter fun p => decide (p.1 / 4 ≠ pkg)
    pkgs := erase s.pkgs pkg
    barriers := (s.barriers.filter fun p => !barrierIn pkg p.1).map fun (p : Nat × Barrier) =>
      (p.1, { p.2 with members := p.2.members.filter fun m => decide (m.pkg ≠ pkg) })
    locks := (s.locks.map fun (q : LockQueue) =>
      { q with waiters := q.waiters.filter fun w => !ofPkg pkg w.tid }).filter fun q => !q.waiters.isEmpty
    flight := s.flight.filter fun p => !p.2.endsWith pkg }

/-- The words of bytes. -/
def wordsOf : Nat → List Byte → List Word
  | 0, _ => []
  | n + 1, b => BitVec.ofNat 64 (ofBytes (b.take 8)) :: wordsOf n (b.drop 8)

/-- The 64 bytes of measurement register `k`. -/
def Service.measurement (v : Service) (k : Nat) : List Byte :=
  ((List.range 8).map fun i => toBytes 8 (lookup 0 v.mr (8 * k + i)).toNat).flatten

/-- MRk := SHA3-512(MRk ‖ digest) (28 R393). -/
def Service.extend (v : Service) (k : Nat) (digest : List Byte) : Service :=
  let words := wordsOf 8 (sha3 (v.measurement k ++ digest))
  { v with mr := words.zipIdx.foldl (fun (m : List (Nat × Word)) (p : Word × Nat) => insert m (8 * k + p.2) p.1) v.mr }

/-- The three checks of the mask ROM on an image: its signature, its key against the fused hash, and its security version (28 R392). -/
def bootOk (pkg : Nat) (f : Firmware) (image : List Byte) : Bool :=
  mlDsaVerifies f.key (sha3 image) f.sig && decide (sha3 f.key = (List.range 64).map (Config.fusedKey pkg)) &&
    decide ((Config.fusedVersion pkg).toNat ≤ f.version.toNat)

/-- The service state as the ROM leaves it: RECOVERY where a check fails, otherwise BOOT with the image in MR0. -/
def bootService (pkg : Nat) (f : Firmware) (image : List Byte) : Service :=
  if bootOk pkg f image then ({ secmode := 0, version := f.version.toNat } : Service).extend 0 (sha3 image)
  else { secmode := 3, version := f.version.toNat }

/-- DEVICE_RESET: device reset and the boot that follows it. The ROM checks and measures the image; firmware measures a program before it
runs it, and enters SERVICE, which clears TRCTL.EMIT (28 R392, R393). -/
def execDeviceReset (pkg : Nat) (step : BootStep) (bytes : List (BitVec 8)) (s : State) : Out :=
  let mode := (s.pkg pkg).service.secmode
  match step with
  | .rom f => .next ((s.clearPkg pkg).setPkg pkg { service := bootService pkg f bytes })
  | .measure k => .next (if mode = 3 then s else s.updService pkg fun v => v.extend k.val bytes)
  | .service =>
    .next (if mode ≠ 0 then s
      else s.updService pkg fun v => { v with secmode := 1, trctl := keepBits v.trctl [(2, 1)] })

/-! ### Attestation (28 R394) -/

/-- The report: identity key hash, MR0 to MR7, nonce, security version and SECMODE. -/
def Service.report (v : Service) (pkg : Nat) : List Byte :=
  (List.range 64).map (Config.identityHash pkg) ++
    ((List.range 64).map fun i => toBytes 8 (lookup 0 v.mr i).toNat).flatten ++
    ((List.range 8).map fun i => toBytes 8 (lookup 0 v.nonce i).toNat).flatten ++
    toBytes 8 v.version ++ toBytes 8 v.secmode

/-- ATTESTATION_COMPLETE: report and signature stand in ATTREP. -/
def execAttestationComplete (pkg : Nat) (s : State) : Out :=
  let v := (s.pkg pkg).service
  if !v.attbusy then .next s
  else
    let r := v.report pkg
    let all := r ++ (List.range 4627).map fun i => Config.signature pkg r i
    .next (s.updService pkg fun v =>
      { v with attbusy := false, attrep := all.zipIdx.map fun (p : Byte × Nat) => (p.2, p.1) })

end Sys2Proof.Machine
end

