-- ==== Sys2Proof/Machine/FloatOps.lean ====
section
/-! DEFINITION. Machine/FloatOps.lean: scalar floating point, in the A slot (17 R294 to R298). -/
namespace Sys2Proof.Machine

/-- A scalar floating result with its flags and draws: zero-extended (17 R285). `long` marks a latency above 4 (17 R286). -/
def State.floatResult (s : State) (d : SOpd) (r : Rounded) (long : Bool) : R := do
  s.enabled r.flags
  let w := BitVec.ofNat 64 r.code
  let s := if long then s.resultS d w else s.writeS d w
  pure ((s.orFlags r.flags).drew r.draws)

/-- A two-source rounding operation. -/
def State.float2 (s : State) (op : FOp) (f : Fmt) (d a b : SOpd) (r : Rnd) (long : Bool) : R := do
  s.operands [a.place, b.place] [d.place]
  s.floatResult d (fArith op f false (resolve r s.src.rm) (s.draw 0) (s.readS a).toNat (s.readS b).toNat) long

def execFadd (ty : AFmt) (d a b : SOpd) (r : Rnd) (s : State) : Out :=
  s.issueA fun s => s.float2 .add ty.fmt d a b r false
def execFsub (ty : AFmt) (d a b : SOpd) (r : Rnd) (s : State) : Out :=
  s.issueA fun s => s.float2 .sub ty.fmt d a b r false
def execFmul (ty : AFmt) (d a b : SOpd) (r : Rnd) (s : State) : Out :=
  s.issueA fun s => s.float2 .mul ty.fmt d a b r false
def execFdiv (ty : AFmt) (d a b : SOpd) (r : Rnd) (s : State) : Out :=
  s.issueA fun s => s.float2 .div ty.fmt d a b r true

/-- FMA reads its destination as c (17 R295). -/
def execFma (ty : AFmt) (d a b : SOpd) (r : Rnd) (s : State) : Out :=
  s.issueA fun s => do
    s.operands [a.place, b.place, d.place] [d.place]
    s.floatResult d
      (fFma ty.fmt false (resolve r s.src.rm) (s.draw 0) false (s.readS a).toNat (s.readS b).toNat (s.readS d).toNat) false

def execFsqrt (ty : AFmt) (d a : SOpd) (r : Rnd) (s : State) : Out :=
  s.issueA fun s => do
    s.operands [a.place] [d.place]
    s.floatResult d (fArith .sqrt ty.fmt false (resolve r s.src.rm) (s.draw 0) (s.readS a).toNat 0) true

def execFmin (ty : AFmt) (d a b : SOpd) (s : State) : Out :=
  s.issueA fun s => do
    s.operands [a.place, b.place] [d.place]
    s.floatResult d (fMinMax false ty.fmt false (s.readS a).toNat (s.readS b).toNat) false

def execFmax (ty : AFmt) (d a b : SOpd) (s : State) : Out :=
  s.issueA fun s => do
    s.operands [a.place, b.place] [d.place]
    s.floatResult d (fMinMax true ty.fmt false (s.readS a).toNat (s.readS b).toNat) false

def execFabs (ty : AFmt) (d a : SOpd) (s : State) : Out :=
  s.issueA fun s => do
    s.operands [a.place] [d.place]
    s.floatResult d (fSign .abs ty.fmt false (s.readS a).toNat 0) false

def execFneg (ty : AFmt) (d a : SOpd) (s : State) : Out :=
  s.issueA fun s => do
    s.operands [a.place] [d.place]
    s.floatResult d (fSign .neg ty.fmt false (s.readS a).toNat 0) false

def execFsgn (ty : AFmt) (d a b : SOpd) (s : State) : Out :=
  s.issueA fun s => do
    s.operands [a.place, b.place] [d.place]
    s.floatResult d (fSign .sgn ty.fmt false (s.readS a).toNat (s.readS b).toNat) false

def execFcmp (ty : AFmt) (d a b : SOpd) (s : State) : Out :=
  s.issueA fun s => do
    s.operands [a.place, b.place] [d.place]
    let r := fCompare ty.fmt (s.readS a).toNat (s.readS b).toNat
    s.floatResult d ⟨r.1, r.2, 0⟩ false

def execFclass (ty : AFmt) (d a : SOpd) (s : State) : Out :=
  s.issueA fun s => do
    s.operands [a.place] [d.place]
    s.floatResult d ⟨fClass ty.fmt (s.readS a).toNat, 0, 0⟩ false

/-- How a converted element stands in a scalar register (17 R285). -/
def scalarForm (f : Fmt) (c : Nat) : Word :=
  match f with
  | .i64 | .i32 | .i16 | .i8 => signExtend64 (fmtWidth f) c
  | _ => BitVec.ofNat 64 c

/-- FCVT (17 R298). An E4 or E5 result marks a slot typed (05 R103). -/
def State.convert (s : State) (dst src : Fmt) (d a : SOpd) (r : Rnd) : R := do
  s.operands [a.place] [d.place]
  let x := fConvert dst src s.src.tx (resolve r s.src.rm) (s.draw 0) (s.readS a).toNat
  s.enabled x.flags
  let s := s.writeS d (scalarForm dst x.code) (dst = .e4 || dst = .e5)
  pure ((s.orFlags x.flags).drew x.draws)

def execFcvtF (ty : FFmt) (d a : SOpd) (src : Fmt) (r : Rnd) (s : State) : Out :=
  s.issueA fun s => s.convert ty.fmt src d a r
def execFcvtI (ty : IFmt) (d a : SOpd) (src : Fmt) (r : Rnd) (s : State) : Out :=
  s.issueA fun s => s.convert ty.fmt src d a r

end Sys2Proof.Machine
end

