-- ==== Sys2Proof/Machine/Gangs.lean ====
section
/-! DEFINITION. Machine/Gangs.lean: GANG, GANGW and DISBAND (09 R167 to R169; 20 R342). -/
namespace Sys2Proof.Machine

/-- A gang error (12 R205). -/
def gangTrap (mask : Nat) : Except Stop Unit := .error (.trap 0x0C (BitVec.ofNat 64 mask))

/-- Whether a thread may become a follower: PARKED on GANGW, of the leader's group, in no gang (09 R167). -/
def State.followerOk (s : State) (leader u : Nat) : Bool :=
  let t := s.th u
  t.slot = .parked && t.park = .gangw && t.grp = (s.th leader).grp && t.gang.isNone

/-- The offending members of a GANG of `n`, as a bit mask: bit 0 for a leader already in a gang (09 R167). -/
def State.gangMask (s : State) (leader n : Nat) : Nat :=
  ((List.range n).map fun j =>
    if j = 0 then (if (s.before leader).gang.isSome then 1 else 0)
    else if s.followerOk leader (gangMember leader j) then 0 else 2 ^ j).foldl (· + ·) 0

/-- The gang forms: the followers leave GANGW, and every member continues at the pair after the leader's GANG. -/
def State.formGang (s : State) (leader n : Nat) (pc : Word) : State :=
  (List.range n).foldl (fun s j =>
    s.updTh (gangMember leader j) fun t =>
      let t := { t with gang := some ⟨leader, j, n⟩ }
      if j = 0 then t else { t.wake with pc := pc, fetch := [] }) s

/-- GANG: F 1, 2, 3 for 2, 4, 8 members (20 R334). -/
def execGang (n : Fin 8) (g : Fin 8) (s : State) : Out :=
  s.issueC g fun s => do
    raiseIf (isHob s.cid) 0x0C 0
    let mask := s.gangMask s.cur (2 ^ n.val)
    if mask ≠ 0 then gangTrap mask else pure ()
    pure (s.formGang s.cur (2 ^ n.val) (s.src.pc + 8))

/-- GANGW parks its thread until a GANG takes it; in a gang it is an error whose mask names the member itself. -/
def execGangw (g : Fin 8) (s : State) : Out :=
  s.issueC g fun s => do
    raiseIf (isHob s.cid) 0x0C 0
    match s.src.gang with
    | some m => gangTrap (2 ^ m.idx)
    | none => pure ()
    pure (s.updMe fun t => { t with slot := .parked, park := .gangw })

/-- DISBAND: outside a gang it has no effect (20 R342). -/
def execDisband (g : Fin 8) (s : State) : Out := s.issueC g fun s => .ok (s.endGang s.cur)

end Sys2Proof.Machine
end

