-- ==== Sys2Proof/Machine/Matrix.lean ====
section
/-! DEFINITION. Machine/Matrix.lean: PLANE and the matrix unit (01 R34 to R38; 04 R82; 06 R111 to R128; 16 R268, R269;
19 R326 to R333). -/
namespace Sys2Proof.Machine

/-! ### Plane tiles (06 R114 to R117) -/

/-- The layout of a plane tile: offsets of its sign planes, bits and offset of the side array, number and offset of the mantissa
planes, the tile's size, and the range of plane counts (06 R115). -/
structure Layout where
  signs : List Nat
  e : Nat
  eOff : Nat
  planes : Nat
  pOff : Nat
  size : Nat
  lo : Nat
  full : Nat
  deriving DecidableEq, Repr

/-- The plane layout table of 06 R115; `none` for a format that has no plane tile. -/
def layout : Fmt → Option Layout
  | .f4 => some ⟨[0x800], 2, 0x1000, 2, 0x2000, 0x3000, 1, 2⟩
  | .e4 => some ⟨[0x800], 4, 0x1000, 4, 0x3000, 0x5000, 2, 4⟩
  | .e5 => some ⟨[0x800], 5, 0x1000, 3, 0x3800, 0x5000, 2, 3⟩
  | .bf16 => some ⟨[0x800], 8, 0x1000, 8, 0x5000, 0x9000, 2, 8⟩
  | .f16 => some ⟨[0x800], 5, 0x1000, 11, 0x3800, 0x9000, 2, 11⟩
  | .i8 => some ⟨[], 0, 0, 8, 0x800, 0x4800, 1, 8⟩
  | .ts8 => some ⟨[0x800, 0x1000], 6, 0x1800, 0, 0, 0x4800, 1, 2⟩
  | _ => none

/-- FMT of a descriptor or a PLANE control word (06 R114). -/
def descFmt (n : Nat) : Option Fmt :=
  match n with
  | 0 => some .f4 | 1 => some .e4 | 2 => some .e5 | 3 => some .bf16 | 4 => some .f16 | 5 => some .i8 | 6 => some .ts8
  | _ => none

/-- Formats that take block scales (01 R34). -/
def takesScales (f : Fmt) : Bool := f = .f4 || f = .e4 || f = .e5 || f = .ts8

/-- The first address outside the permitted regions of 06 R114, or the key of a range that lies in one of them: the local
store of a core in the torus row, through the own map or the window, or the cluster scratchpad. -/
def matRegion (cid a n : Nat) : Except Nat Nat :=
  let inside (start len key : Nat) : Except Nat Nat := if a + n ≤ start + len then .ok (key + (a - start)) else .error (start + len)
  if a < 0x30000 then inside 0 0x30000 (keyLocal cid 0)
  else if 0x40000000 ≤ a ∧ a < 0x80000000 then
    let i := (a - 0x40000000) / 0x40000
    let start := 0x40000000 + i * 0x40000
    if i < 64 && decide (i / 8 = rowOf cid) && decide (a - start < 0x30000) then
      inside start 0x30000 (keyLocal (clidOf cid * 128 + i) 0)
    else .error a
  else if 0x80000000 ≤ a ∧ a < 0x80800000 then inside 0x80000000 0x800000 (keyCluster (clidOf cid) 0)
  else .error a

/-- The check of 06 R114 as an instruction makes it. -/
def inRegion (cid a n : Nat) : Except Stop Nat :=
  match matRegion cid a n with
  | .ok k => .ok k
  | .error b => .error (.trap 0x03 (BitVec.ofNat 64 b))

/-- Bit `i` of a number. -/
def bitAt (x i : Nat) : Bool := decide (x / 2 ^ i % 2 = 1)

/-- A number from bits, the most significant first. -/
def ofBits (l : List Bool) : Nat := l.foldl (fun acc b => 2 * acc + b.toNat) 0

/-- The value that a present element's planes spell (06 R116, R117): its sign bits, its side field and the mantissa bits read,
which are also the terms of a TS8 element. -/
def spelled (f : Fmt) (tx : Bool) (d : Nat) (signs : List Bool) (side : Nat) (mant : List Bool) : Val :=
  match f, fpParams tx f with
  | .i8, _ =>
    let x := ofBits mant * 2 ^ (8 - d)
    ofInt (toSigned 8 x) 0
  | .ts8, _ =>
    let term (neg : Bool) (k : Nat) : Int := if neg then -((2 ^ (7 - k) : Nat) : Int) else ((2 ^ (7 - k) : Nat) : Int)
    let t1 := term (signs.headD false) (side % 8)
    let t2 := term (signs.getD 1 false) (side / 8)
    ofInt (if d = 1 then t1 else t1 + t2) (-7)
  | _, some p =>
    let neg := signs.headD false
    if p.ieee && decide (side = 2 ^ p.e - 1) then
      if mant.drop 1 |>.any id then .nan neg 1 1 else .inf neg
    else .fin neg (ofBits mant) ((max side 1 : Nat) - (p.bias : Int) - (d - 1 : Nat))
  | _, none => .absent

/-- One line of a plane tile: 128 elements, absent ones included. -/
def State.planeLine (s : State) (f : Fmt) (l : Layout) (tx : Bool) (d key r : Nat) : List Val :=
  let pres := s.load (key + 16 * r) 16
  if pres = 0 then List.replicate 128 .absent
  else
    let signs := l.signs.map fun o => s.load (key + o + 16 * r) 16
    let side := if l.e = 0 then 0 else s.load (key + l.eOff + 16 * l.e * r) (16 * l.e)
    let mant := (List.range (min d l.planes)).map fun p => s.load (key + l.pOff + 2048 * p + 16 * r) 16
    (List.range 128).map fun n =>
      if bitAt pres n then
        spelled f tx d (signs.map fun x => bitAt x n) (side / 2 ^ (l.e * n) % 2 ^ l.e) (mant.map fun x => bitAt x n)
      else .absent

/-- The poisoned words of a plane tile that the unit reads, as the positions 128 × line + place they hold bits of (12 R210). -/
def State.planeBad (s : State) (l : Layout) (d key : Nat) : List Nat :=
  let part (off e : Nat) : List Nat :=
    ((List.range (256 * e)).filter fun w => s.poisoned (key + off + 8 * w) 8).flatMap fun w =>
      (List.range ((64 * w + 63) / e + 1 - 64 * w / e)).map fun i => 64 * w / e + i
  if s.poison.isEmpty then []
  else
    part 0 1 ++ l.signs.flatMap (fun o => part o 1) ++ (if l.e = 0 then [] else part l.eOff l.e) ++
      (List.range (min d l.planes)).flatMap fun p => part (l.pOff + 2048 * p) 1

/-! ### PLANE (16 R268, R269; 04 R82) -/

/-- Bits of an element of a source row. -/
def elemBits (f : Fmt) : Nat := fmtWidth f

/-- Bytes of a source row (16 R268). -/
def rowBytes (f : Fmt) : Nat := 128 * fmtWidth f / 8

/-- Bytes of the input scales (16 R268). -/
def inScales (sg : Nat) (roleB : Bool) : Nat := if sg = 2 then 512 else if roleB then 1 else 128
def outScales (roleB : Bool) : Nat := if roleB then 1 else 128

/-- A control word that traps with cause 0x01 (16 R268, R269). -/
def badPlane (ct : Word) : Bool :=
  match descFmt (Fld ct 63 60) with
  | none => true
  | some f =>
    match layout f with
    | none => true
    | some l =>
      let d := Fld ct 59 56
      let roleB := ct.getLsbD 55
      let sg := Fld ct 54 53
      decide (Fld ct 31 0 ≠ 0) || (!roleB && (decide (d ≠ 0) || f = .ts8)) ||
        (decide (d ≠ 0) && (decide (d < l.lo) || decide (l.full < d))) || sg = 3 || (decide (sg ≠ 0) && !takesScales f)

/-- PLANE at issue (16 R268, R269). The ranges that must not overlap are the plane tile's and the source rows', and the scale arrays are
tested against neither: the model's choice (04 R79, R82; notes/assumptions/26.md). -/
def execPlane (t da sa ct : XReg) (s : State) : Out :=
  s.issue fun s => do
    allOf [s.need [xplace da, xplace sa, xplace ct] [], s.acquireGate]
    let dw := s.readX da
    let sw := s.readX sa
    let c := s.readX ct
    raiseIf (badPlane c) 0x01 s.iss.word
    let sg := Fld c 54 53
    let roleB := c.getLsbD 55
    match descFmt (Fld c 63 60) with
    | none => s.trapPair 0x01
    | some f =>
      match layout f with
      | none => s.trapPair 0x01
      | some l =>
        let a := BitVec.ofNat 64 (Fld dw 31 0)
        let sstr := 8 * Fld c 52 32
        let sn := 127 * sstr + rowBytes f
        let scales : List (Nat × Nat) := [(Fld dw 63 32, outScales roleB), (Fld sw 63 32, inScales sg roleB)]
        let ends : List (Nat × Nat) := [(Fld dw 31 0, l.size), (Fld sw 31 0, sn)] ++ (if sg = 0 then [] else scales)
        match ends.find? fun e => nearPrivileged s.cid e.1 e.2, s.src.sup with
        | some e, false => .error (.trap 0x02 (BitVec.ofNat 64 e.1))
        | _, _ => do
          -- PLANE's TVAL is an endpoint address, as TMOV's (16 R267)
          let row (x n : Nat) : Except Stop Nat :=
            if isHob s.cid && decide (x < 0x80000000) then .error (.trap 0x03 (BitVec.ofNat 64 x))
            else match matRegion s.cid x n with
              | .ok k => .ok k
              | .error _ => .error (.trap 0x03 (BitVec.ofNat 64 x))
          let source (x n : Nat) : Except Stop Nat :=
            match tileRange s.cid x n .load with
            | some k => .ok k
            | none => .error (.trap 0x03 (BitVec.ofNat 64 x))
          let dk ← row (Fld dw 31 0) l.size
          let sk ← source (Fld sw 31 0) sn
          let ok ← if sg = 0 then pure 0 else row (Fld dw 63 32) (outScales roleB)
          let ik ← if sg = 0 then pure 0 else source (Fld sw 63 32) (inScales sg roleB)
          raiseIf (overlap dk l.size sk sn) 0x03 a
          raiseIf (decide (Fld dw 31 0 % 2048 ≠ 0)) 0x05 a
          raiseIf (decide (Fld sw 31 0 % 8 ≠ 0)) 0x05 (BitVec.ofNat 64 (Fld sw 31 0))
          raiseIf (decide (sg ≠ 0) && !roleB && decide (Fld dw 63 32 % 64 ≠ 0)) 0x05 (BitVec.ofNat 64 (Fld dw 63 32))
          s.tokenGate t
          let d := if Fld c 59 56 = 0 then l.full else Fld c 59 56
          let x : Plane :=
            ⟨s.cur, s.src.tenant, s.src.dueBy, t.val, Fld c 63 60, d, roleB, sg, sstr, sk, dk, ik, ok, s.src.tx,
              BitVec.ofNat 64 (Fld sw 31 0), BitVec.ofNat 64 (Fld sw 63 32)⟩
          pure ((s.openToken t).post (.plane x))

/-- S of a group of scales (01 R35). -/
def topScale (l : List Nat) : Nat :=
  match l.filter fun x => decide (x ≠ 0xFF) with
  | [] => 0xFF
  | x :: t => t.foldl max x

/-- An element re-expressed under scale `S` (01 R35): its code and whether it is inexact. -/
def rescale (f : Fmt) (tx : Bool) (sc S : Nat) (code : Nat) : Nat × Bool :=
  if sc = 0xFF then (absentCode f, false)
  else match decode f tx false code with
    | .fin neg m e =>
      let r := encodeVal f tx false .rne 0 (.fin neg m (e + sc - S))
      (r.1, decide (r.2 % 2 = 1))
    | _ => (code, false)

/-- A NaN is quieted as a plane tile takes it (06 R117). -/
def quieted (f : Fmt) (tx : Bool) (code : Nat) : Nat :=
  match decode f tx false code with
  | .nan n fr k => (encodeVal f tx false .rne 0 (.nan n fr k)).1
  | _ => code

/-- The sign bits, the side field and the mantissa bits of an element's code, all 0 for an absent one (06 R115, R116). -/
def planeBits (f : Fmt) (code : Nat) : List Bool × Nat × List Bool :=
  match f, fpParams false f with
  | .i8, _ => ([], 0, (List.range 8).map fun p => bitAt code (7 - p))
  | .ts8, _ => ([bitAt code 7, bitAt code 3], code / 16 % 8 + code % 8 * 8, [])
  | _, some p =>
    let ex := code / 2 ^ p.f % 2 ^ p.e
    ([bitAt code (p.e + p.f)], ex, decide (ex ≠ 0) :: (List.range p.f).map fun i => bitAt code (p.f - 1 - i))
  | _, none => ([], 0, [])

/-- Fields of `e` bits packed upward (06 R115). -/
def packFields (e : Nat) : List Nat → Nat
  | [] => 0
  | x :: t => x % 2 ^ e + 2 ^ e * packFields e t

/-- A source row: each element's code and whether its word is poisoned, or comes so where `cut` names it (03 R66). -/
def State.sourceRow (s : State) (f : Fmt) (key : Nat) (cut : List (Nat × Nat)) : List (Nat × Bool) :=
  let w := fmtWidth f
  let x := s.load key (rowBytes f)
  (List.range 128).map fun i =>
    let k := key + w * i / 8
    (x / 2 ^ (w * i) % 2 ^ w, s.poisoned k 1 || inRuns cut k)

/-- One part of a plane tile, `e` bits an element; a word that takes bits of a poisoned element is poisoned (12 R210). -/
def State.writePart (s : State) (key e : Nat) (rows : List (List (Nat × Bool))) : State :=
  rows.zipIdx.foldl (fun (s : State) (p : List (Nat × Bool) × Nat) =>
    let k := key + 16 * e * p.2
    let s := s.storeAt k (toBytes (16 * e) (packFields e (p.1.map (·.1))))
    p.1.zipIdx.foldl (fun (s : State) (q : (Nat × Bool) × Nat) =>
      if q.1.2 then (s.writePoison (k + e * q.2 / 8)).writePoison (k + (e * q.2 + e - 1) / 8) else s) s) s

/-- The scales that a PLANE reads. -/
def Plane.scaleReads (x : Plane) : List (Nat × Nat) := if x.sg = 0 then [] else [(x.sscale, inScales x.sg x.roleB)]

/-- What a PLANE reads: the rows of its tile and its scales. -/
def Plane.reads (x : Plane) (f : Fmt) : List (Nat × Nat) := rowsOf x.src x.sstr 128 (rowBytes f) ++ x.scaleReads

/-- The address of a PLANE's late read, its rows' before its scales' (03 R64). -/
def State.lateRead (s : State) (x : Plane) (f : Fmt) : Option Word :=
  if s.pastDue x.deadline (rowsOf x.src x.sstr 128 (rowBytes f)) then some x.ea
  else if s.pastDue x.deadline x.scaleReads then some x.scaleEa
  else none

/-- PLANE_COMPLETION: the conversion takes place at one instant, after the thread's earlier stores (04 R81, R82;
notes/assumptions/8.md). What a port of the far net refuses of its source comes poisoned (03 R66; notes/assumptions/12.md). -/
def execPlaneCompletion (id : Nat) (s : State) : Out :=
  match s.item id with
  | some (.plane x) =>
    match descFmt x.fmt with
    | none => .next s
    | some f =>
      match layout f with
      | none => .next s
      | some l =>
        if !s.drained x.tid id then .next s
        else
          let cut := s.cutOff (cidOf x.tid) x.tenant (x.reads f)
          let late := s.lateRead x f
          let rows := (List.range 128).map fun r => s.sourceRow f (x.src + r * x.sstr) cut
          let scale (i : Nat) : Nat := s.load (x.sscale + i) 1
          let scaleBad (i : Nat) : Bool := s.poisoned (x.sscale + i) 1 || inRuns cut (x.sscale + i)
          let group (line : Nat) : List Nat :=
            if x.roleB then List.range 512 else (List.range 4).map fun m => 4 * line + m
          let tops := (List.range (outScales x.roleB)).map fun i => topScale ((group i).map scale)
          let ofElem (r c : Nat) : Nat := if x.roleB then 128 * (r / 32) + c else 4 * r + c / 32
          let conv (r c : Nat) (p : Nat × Bool) : (Nat × Bool) × Bool :=
            if x.sg = 2 then
              let k := ofElem r c
              let v := rescale f x.tx (scale k) (tops.getD (if x.roleB then 0 else r) 0xFF) p.1
              ((v.1, p.2 || scaleBad k), v.2)
            else (p, false)
          let all := rows.zipIdx.map fun (p : List (Nat × Bool) × Nat) =>
            p.1.zipIdx.map fun (q : (Nat × Bool) × Nat) => conv p.2 q.2 q.1
          let inx := (all.map fun row => row.countP (·.2)).foldl (· + ·) 0
          let codes := all.map fun row => row.map fun (p : (Nat × Bool) × Bool) => (quieted f x.tx p.1.1, p.1.2)
          let part (g : Nat → Nat) : List (List (Nat × Bool)) :=
            codes.map fun row => row.map fun (p : Nat × Bool) => (if p.1 = absentCode f then 0 else g p.1, p.2)
          let outs := (List.range (outScales x.roleB)).map fun i =>
            (BitVec.ofNat 8 (if x.sg = 1 then scale i else tops.getD i 0xFF),
              if x.sg = 1 then scaleBad i else (group i).any scaleBad)
          let s := (s.crossing (cidOf x.tid) x.tenant x.deadline false (x.reads f)).dropItem id
          let s := s.writePart x.dst 1 (part fun _ => 1)
          let s := l.signs.zipIdx.foldl (fun (s : State) (o : Nat × Nat) =>
            s.writePart (x.dst + o.1) 1 (part fun c => ((planeBits f c).1.getD o.2 false).toNat)) s
          let s := if l.e = 0 then s else s.writePart (x.dst + l.eOff) l.e (part fun c => (planeBits f c).2.1)
          let n := min x.d l.planes
          let s := (List.range n).foldl (fun (s : State) (p : Nat) =>
            s.writePart (x.dst + l.pOff + 2048 * p) 1 (part fun c => ((planeBits f c).2.2.getD p false).toNat)) s
          let s := if x.sg = 0 then s else (s.writeCells (outs.zipIdx.map fun o => (x.dscale + o.2, o.1))).1
          .next (s.settleLocks.landMove x.tid x.tok
            (BitVec.ofNat 64 (min inx 0xFFFF * 2 ^ 32 + 2048 * (1 + l.signs.length + l.e + n))) late)
  | _ => .next s

/-! ### Issue of the queued commands (19 R328 to R331) -/

/-- A hob core has no matrix unit (06 R111). -/
def State.needUnit (s : State) : Except Stop Unit := raiseIf (isHob s.cid) 0x01 s.iss.word

/-- After its checks a command waits for its token, a free move and a free place of its core's queue, and enters the queue (19 R328; 06
R111, R121; 04 R80). -/
def State.enqueue (s : State) (t : XReg) (cmd : MatCmd) : R := do
  allOf [s.tokenGate t, waitIf (decide (4 ≤ (s.core s.cid).queue.length)) onMemory]
  let c := s.core s.cid
  let s := s.openToken t
  let m : Matrix := ⟨s.cur, t.val, s.src.grp, cmd, s.src.tx, 0⟩
  pure { s.setCore s.cid { c with queue := c.queue ++ [(s.serial, m)] } with serial := s.serial + 1 }

/-- A descriptor that traps with cause 0x01 (06 R114). -/
def badDescriptor (f : Fmt) (roleA : Bool) (w : Word) : Bool :=
  match layout f with
  | none => true
  | some l =>
    let d := Fld w 59 56
    descFmt (Fld w 63 60) ≠ some f || decide (Fld w 7 0 ≠ 0) || (roleA && decide (d ≠ 0)) ||
      (decide (d ≠ 0) && (decide (d < l.lo) || decide (l.full < d))) || (w.getLsbD 55 && !takesScales f)

def descTile (w : Word) : Nat := Fld w 54 34 * 2048
def descScale (w : Word) : Nat := Fld w 33 8 * 64

/-- The ranges that an MMA reads, as near addresses with their lengths (19 R329). -/
def mmaRanges (fa fb : Fmt) (a b : Word) (n : Nat) : List (Nat × Nat) :=
  let size (f : Fmt) : Nat := ((layout f).map Layout.size).getD 0
  [(descTile a, n * size fa)] ++ (if a.getLsbD 55 then [(descScale a, 128 * n)] else []) ++
    [(descTile b, n * size fb)] ++ (if b.getLsbD 55 then [(descScale b, n)] else [])

/-- Bytes of a row of MLOAD or MDRAIN (19 R330). -/
def MatCmd.rowLen : MatCmd → Nat
  | .drain _ f _ _ _ _ _ => rowBytes f
  | _ => 1024

/-- The near ranges of a command. -/
def MatCmd.ranges : MatCmd → List (Nat × Nat)
  | .mma fa fb a b n => mmaRanges fa fb a b n
  | .load _ ad st => [(ad, 127 * st + 1024)]
  | .drain m f rm w c ad st => [(ad, 127 * st + (MatCmd.drain m f rm w c ad st).rowLen)]
  | .zero _ | .stat => []

/-- Every range lies in one permitted region (06 R114). -/
def State.checkRanges (s : State) : List (Nat × Nat) → Except Stop Unit
  | [] => .ok ()
  | r :: t => do
    let _ ← inRegion s.cid r.1 r.2
    s.checkRanges t

def State.mma (s : State) (fa fb : Fmt) (t da db : XReg) (n : Fin 32) : R := do
  allOf [s.need [xplace da, xplace db] [], s.acquireGate]
  s.needUnit
  let a := s.readX da
  let b := s.readX db
  raiseIf (badDescriptor fa true a || badDescriptor fb false b) 0x01 s.iss.word
  let cmd := MatCmd.mma fa fb a b (n.val + 1)
  s.checkRanges cmd.ranges
  s.enqueue t cmd

def execMmaF4F4 (t da db : XReg) (n : Fin 32) (s : State) : Out := s.issue fun s => s.mma .f4 .f4 t da db n
def execMmaE4E4 (t da db : XReg) (n : Fin 32) (s : State) : Out := s.issue fun s => s.mma .e4 .e4 t da db n
def execMmaE5E5 (t da db : XReg) (n : Fin 32) (s : State) : Out := s.issue fun s => s.mma .e5 .e5 t da db n
def execMmaE4E5 (t da db : XReg) (n : Fin 32) (s : State) : Out := s.issue fun s => s.mma .e4 .e5 t da db n
def execMmaE5E4 (t da db : XReg) (n : Fin 32) (s : State) : Out := s.issue fun s => s.mma .e5 .e4 t da db n
def execMmaBF16BF16 (t da db : XReg) (n : Fin 32) (s : State) : Out := s.issue fun s => s.mma .bf16 .bf16 t da db n
def execMmaF16F16 (t da db : XReg) (n : Fin 32) (s : State) : Out := s.issue fun s => s.mma .f16 .f16 t da db n
def execMmaBF16F4 (t da db : XReg) (n : Fin 32) (s : State) : Out := s.issue fun s => s.mma .bf16 .f4 t da db n
def execMmaBF16E4 (t da db : XReg) (n : Fin 32) (s : State) : Out := s.issue fun s => s.mma .bf16 .e4 t da db n
def execMmaBF16TS8 (t da db : XReg) (n : Fin 32) (s : State) : Out := s.issue fun s => s.mma .bf16 .ts8 t da db n
def execMmaE4TS8 (t da db : XReg) (n : Fin 32) (s : State) : Out := s.issue fun s => s.mma .e4 .ts8 t da db n
def execMmaI8I8 (t da db : XReg) (n : Fin 32) (s : State) : Out := s.issue fun s => s.mma .i8 .i8 t da db n

/-- MZERO and MSTAT touch no memory, so no acquire holds them back (08 R147, R152). -/
def State.plainCmd (s : State) (t : XReg) (cmd : MatCmd) : R := do
  s.needUnit
  s.enqueue t cmd

def execMzeroFlt (t : XReg) (g : Fin 8) (s : State) : Out := s.issueC g fun s => s.plainCmd t (.zero false)
def execMzeroInt (t : XReg) (g : Fin 8) (s : State) : Out := s.issueC g fun s => s.plainCmd t (.zero true)
def execMstat (t : XReg) (g : Fin 8) (s : State) : Out := s.issueC g fun s => s.plainCmd t .stat

/-- MLOAD and MDRAIN: the command for an address and a row stride (19 R330). -/
def State.rowsCmd (s : State) (t ad st : XReg) (cmd : Nat → Nat → MatCmd) : R := do
  allOf [s.need [xplace ad, xplace st] [], s.acquireGate]
  s.needUnit
  let a := s.readX ad
  let d := s.readX st
  let c := cmd a.toNat d.toNat
  raiseIf (decide (2 ^ 32 ≤ a.toNat) || decide (d.toNat < c.rowLen)) 0x03 a
  s.checkRanges c.ranges
  raiseIf (decide (a.toNat % 8 ≠ 0) || decide (d.toNat % 8 ≠ 0)) 0x05 a
  s.enqueue t c

def execMloadFlt (t ad st : XReg) (s : State) : Out := s.issue fun s => s.rowsCmd t ad st (.load false)
def execMloadInt (t ad st : XReg) (s : State) : Out := s.issue fun s => s.rowsCmd t ad st (.load true)

/-- The target format of MDRAIN (19 R327). -/
def drainFmt (cls ty : Nat) : Fmt :=
  match cls, ty with
  | 0, 0 => .f64 | 0, 1 => .f32 | 0, 2 => .f16 | 0, 3 => .bf16 | 0, 4 => .e4 | 0, 5 => .e5 | 0, _ => .f4
  | _, 0 => .i64 | _, 1 => .i32 | _, 2 => .i16 | _, 3 => .i8 | _, 4 => .ui32 | _, 5 => .ui8 | _, _ => .ts8

def execMdrain (mode : Fin 4) (cls : Fin 2) (ty : Fin 8) (rm : Fin 4) (wrap clr : Fin 2) (t ad st : XReg) (s : State) : Out :=
  s.issue fun s => s.rowsCmd t ad st (.drain mode.val (drainFmt cls.val ty.val) rm.val (wrap.val = 1) (clr.val = 1))

/-- MHINT at a unit that is ramped down schedules a ramp-up; at one that is up it only delays the ramp-down, which is time
(06 R128, notes/assumptions/6.md). -/
def execMhint (_imm : BitVec 12) (s : State) : Out :=
  s.issue fun s =>
    if isHob s.cid then pure s
    else
      let n := s.cid / 8
      let u := s.unit n
      pure (if u.up then s else s.setUnit n { u with hinted := true })

/-! ### Blocks (01 R37, R38; 06 R118 to R120) -/

/-- COUNT and VALUE of an element (06 R119). -/
def elemCount (e : Nat) : Nat := e / 2 ^ 48 % 2 ^ 16
def elemF32 (e : Nat) : Nat := e % 2 ^ 32
def elemInt (e : Nat) : Int := toSigned 48 e

def nanF32 : Nat := 0x7FC00000
/-- A NaN pattern of F32 that is not the absent code (01 R13). -/
def isNanF32 (c : Nat) : Bool := decide (0x7F800000 < c % 2 ^ 31) && decide (c % 2 ^ 32 ≠ absentCode .f32)

/-- Sticky flags that a block raises: NV, OF, CSAT, IOV (06 R120). -/
structure Sticky where
  nv : Bool := false
  ov : Bool := false
  csat : Bool := false
  iov : Bool := false
  deriving DecidableEq, Repr

def Sticky.or (a b : Sticky) : Sticky := ⟨a.nv || b.nv, a.ov || b.ov, a.csat || b.csat, a.iov || b.iov⟩

def Tile.raise (t : Tile) (f : Sticky) : Tile :=
  { t with nv := t.nv || f.nv, ov := t.ov || f.ov, csat := t.csat || f.csat, iov := t.iov || f.iov }

/-- A present product (01 R37). -/
def mulVal (a b : Val) : Val :=
  match a, b with
  | .nan _ _ _, _ | _, .nan _ _ _ => defaultNan
  | .inf n, x => if x.isZero then defaultNan else .inf (n != x.neg)
  | x, .inf n => if x.isZero then defaultNan else .inf (n != x.neg)
  | .fin n m e, .fin n' m' e' => .fin (n != n') (m * m') (e + e')
  | _, _ => .absent

/-- The block value of the present products, as an F32 code, with NV and OF (01 R37; 06 R120). -/
def blockValue (ps : List Val) (scale : Int) : Nat × Sticky :=
  if ps.any Val.isNan || ((ps.any fun v => v = .inf false) && (ps.any fun v => v = .inf true)) then
    (nanF32, { nv := true })
  else if ps.any Val.isInf then (if ps.any fun v => v = .inf true then 0xFF800000 else 0x7F800000, {})
  else
    let terms : List (Bool × Nat × Int) := ps.filterMap fun v => match v with
      | .fin n m e => if m = 0 then none else some (n, m, e)
      | _ => none
    match terms with
    | [] => (0, {})
    | t :: _ =>
      let top (x : Bool × Nat × Int) : Int := (Nat.log2 x.2.1 : Int) + x.2.2
      let g := terms.foldl (fun (m : Int) x => if m < top x then top x else m) (top t) - 47
      let units (x : Bool × Nat × Int) : Nat :=
        if g ≤ x.2.2 then x.2.1 * 2 ^ (x.2.2 - g).toNat else x.2.1 / 2 ^ (g - x.2.2).toNat
      let sum := terms.foldl (fun (acc : Int) x => acc + signedTerm x.1 (units x)) 0
      let r := encodeVal .f32 false false .rne 0 (ofInt sum (g + scale))
      (r.1, { ov := decide (r.2 / 4 % 2 = 1) })

/-- COUNT grows by `n` (01 R37). -/
def addCount (e n : Nat) : Nat × Bool :=
  let c := elemCount e + n
  (min c 65535, decide (65535 < c))

/-- One block of a float element; `poisoned` says that a poisoned word feeds it (12 R210). -/
def floatElem (e : Nat) (ps : List Val) (scale : Int) (poisoned : Bool) : Nat × Sticky :=
  let n := ps.length
  let (c, cs) := addCount e n
  let (v, f) := if n = 0 then (0, {}) else blockValue ps scale
  if poisoned then (c * 2 ^ 48 + nanF32, { nv := true, ov := f.ov, csat := cs })
  else if n = 0 then (e, {})
  else if isNanF32 (elemF32 e) then (c * 2 ^ 48 + elemF32 e, f.or { csat := cs })
  else
    let r := fArith .add .f32 false .rne 0 (elemF32 e) v
    (c * 2 ^ 48 + r.code,
      f.or { nv := decide (r.flags / 16 % 2 = 1), ov := decide (r.flags / 4 % 2 = 1), csat := cs })

/-- One block of an integer element: each product is added into 48 bits (01 R38). -/
def intElem (e : Nat) (ps : List Val) (poisoned : Bool) : Nat × Sticky :=
  let n := ps.length
  let (c, cs) := addCount e n
  let add (acc : Int × Bool) (v : Val) : Int × Bool :=
    match v with
    | .fin neg m x =>
      let sum := acc.1 + signedTerm neg (m * 2 ^ x.toNat)
      let w := toSigned 48 (toBits 48 sum)
      (w, acc.2 || decide (w ≠ sum))
    | _ => acc
  let r := ps.foldl add (elemInt e, false)
  if poisoned then (c * 2 ^ 48 + nanF32, { nv := true, csat := cs, iov := r.2 })
  else if n = 0 then (e, {})
  else (c * 2 ^ 48 + toBits 48 r.1, { csat := cs, iov := r.2 })

/-- Row i of A against column j of B: the present products (01 R37). -/
def products : List Val → List Val → List Val
  | a :: ta, b :: tb => if a.isAbsent || b.isAbsent then products ta tb else mulVal a b :: products ta tb
  | _, _ => []

/-- Columns of a tile of lines. -/
def columns (rows : List (List Val)) : List (List Val) :=
  (List.range 128).map fun j => rows.map fun r => r.getD j .absent

/-- The scale of a descriptor at byte `i` of its scale array; 127 without one. -/
def State.scaleAt (s : State) (cid : Nat) (w : Word) (i : Nat) : Nat :=
  if w.getLsbD 55 then
    match matRegion cid (descScale w + i) 1 with
    | .ok k => s.load k 1
    | .error _ => 0xFF
  else 127

/-- A poisoned word holds that scale. -/
def State.scaleBad (s : State) (cid : Nat) (w : Word) (i : Nat) : Bool :=
  w.getLsbD 55 && (match matRegion cid (descScale w + i) 1 with
    | .ok k => s.poisoned k 1
    | .error _ => false)

/-- Block `m` of an MMA on the tile of core `cid` (06 R118, R124; 12 R210). -/
def State.mmaBlock (s : State) (cid : Nat) (tx : Bool) (fa fb : Fmt) (a b : Word) (m : Nat) : State :=
  match layout fa, layout fb with
  | some la, some lb =>
    match matRegion cid (descTile a + m * la.size) la.size, matRegion cid (descTile b + m * lb.size) lb.size with
    | .ok ka, .ok kb =>
      let db := if Fld b 59 56 = 0 then lb.full else Fld b 59 56
      let rowsA := (List.range 128).map fun r => s.planeLine fa la tx la.full ka r
      let colsB := columns ((List.range 128).map fun r => s.planeLine fb lb tx db kb r)
      let badA := (s.planeBad la la.full ka).map (· / 128)
      let badB := (s.planeBad lb db kb).map (· % 128)
      let sB := s.scaleAt cid b m
      let sBbad := s.scaleBad cid b m
      let c := s.core cid
      let cell (i j : Nat) (ra cb : List Val) (sA : Nat) (bad : Bool) (t : Tile) : Tile :=
        let ps := if sA = 0xFF || sB = 0xFF then [] else products ra cb
        let e := lookup 0 t.elems (128 * i + j)
        let poisoned := bad || badB.contains j || (t.bad.contains (128 * i + j) && !ps.isEmpty)
        if ps.isEmpty && !poisoned then t
        else
          let r := if t.int then intElem e ps poisoned else floatElem e ps ((sA : Int) + sB - 254) poisoned
          { t.raise r.2 with elems := store 0 t.elems (128 * i + j) r.1, bad := delKey t.bad (128 * i + j) }
      let tile := rowsA.zipIdx.foldl (fun (t : Tile) (p : List Val × Nat) =>
        let sA := s.scaleAt cid a (128 * m + p.2)
        let bad := badA.contains p.2 || sBbad || s.scaleBad cid a (128 * m + p.2)
        colsB.zipIdx.foldl (fun (t : Tile) (q : List Val × Nat) => cell p.2 q.2 p.1 q.1 sA bad t) t) c.tile
      s.setCore cid { c with tile := tile }
    | _, _ => s
  | _, _ => s

/-! ### MLOAD and MDRAIN (06 R122, R123; 19 R327) -/

/-- An element as MLOAD stores it: reserved bits 0, and a NaN becomes the default one, while the absent code stays (01 R13; 06 R120, R122;
notes/assumptions/19.md). -/
def loadedElem (int : Bool) (x : Nat) : Nat :=
  if int then x
  else x / 2 ^ 48 * 2 ^ 48 + (if isNanF32 (x % 2 ^ 32) then nanF32 else x % 2 ^ 32)

def State.mload (s : State) (cid : Nat) (int : Bool) (key st : Nat) (owner : Option Nat) : State :=
  let c := s.core cid
  let cells := (List.range 16384).map fun n => (n, key + n / 128 * st + 8 * (n % 128))
  let elems := cells.filterMap fun (p : Nat × Nat) =>
    let x := loadedElem int (s.load p.2 8)
    if x = 0 then none else some (p.1, x)
  let bad := (cells.filter fun (p : Nat × Nat) => s.poisoned p.2 8).map (·.1)
  s.setCore cid { c with tile := { elems := elems, bad := bad, int := int, owner := owner } }

/-- An element as MDRAIN delivers it. -/
structure Drained where
  code : Nat
  nx : Bool := false
  ov : Bool := false
  absent : Bool := false
  deriving DecidableEq, Repr

/-- RM of MDRAIN (19 R327). -/
def drainMode (rm : Nat) : Mode :=
  match rm with
  | 0 => .rne | 1 => .rtz | 2 => .up | _ => .down

def isIntFmt (f : Fmt) : Bool :=
  f = .i64 || f = .i32 || f = .i16 || f = .i8 || f = .ui32 || f = .ui8

/-- A value converted under 01 R33; NX sets DNX, and OF or NV sets DOV (06 R123). An absent one is delivered absent, which N counts (06
R121). -/
def drainVal (f : Fmt) (tx : Bool) (mode : Mode) (v : Val) : Drained :=
  let r := encodeVal f tx false mode 0 v
  ⟨r.1, decide (r.2 % 2 = 1), decide (r.2 / 4 % 2 = 1) || decide (r.2 / 16 % 2 = 1), decide (v = .absent)⟩

/-- COUNT mode saturates at the largest present value (19 R327). -/
def drainCount (f : Fmt) (tx : Bool) (mode : Mode) (n : Nat) : Drained :=
  let d := drainVal f tx mode (.fin false n 0)
  match fpParams tx f with
  | some p => if d.ov then { d with code := maxCode p } else d
  | none => d

def drainElem (int : Bool) (f : Fmt) (tx : Bool) (mode rm : Nat) (wrap : Bool) (e : Nat) : Drained :=
  let n := elemCount e
  let m := drainMode rm
  if mode = 2 then drainCount f tx m n
  else if n = 0 then ⟨absentCode f, false, false, true⟩
  else
    let v : Val := if int then ofInt (elemInt e) 0
      else if isNanF32 (elemF32 e) then .nan (bitAt e 31) (e % 2 ^ 23) 23
      else decode .f32 false false (elemF32 e)
    let q : Val := match v with
      | .fin neg k x => if mode = 1 && decide (k ≠ 0) then exactQuot neg k x n 0 else v
      | _ => v
    match int && isIntFmt f, q with
    | true, .fin neg k x =>
      let r := roundAt m 0 neg k x 0
      let c := fit f (!wrap) (if neg then -(r.1 : Int) else r.1)
      ⟨c.1, r.2 && decide (c.2 = 0), decide (c.2 ≠ 0), false⟩
    | _, _ => drainVal f tx m q

/-- The bytes of a row, F4 two elements a byte (06 R123). -/
def drainRow (f : Fmt) (codes : List Nat) : List Byte := toBytes (rowBytes f) (packFields (fmtWidth f) codes)

/-- MDRAIN on the tile of core `cid`: DNX, DOV and N (06 R121 to R123; 12 R210). -/
def State.mdrain (s : State) (cid mode : Nat) (f : Fmt) (rm : Nat) (wrap clr tx : Bool) (key st : Nat) : State × Nat :=
  let c := s.core cid
  let t := c.tile
  let ds := (List.range 128).map fun i => (List.range 128).map fun j =>
    drainElem t.int f tx mode rm wrap (lookup 0 t.elems (128 * i + j))
  let s := ds.zipIdx.foldl (fun (s : State) (p : List Drained × Nat) =>
    s.storeAt (key + p.2 * st) (drainRow f (p.1.map (·.code)))) s
  let s := t.bad.foldl (fun (s : State) (n : Nat) => s.writePoison (key + n / 128 * st + n % 128 * fmtWidth f / 8)) s
  let all := ds.flatten
  let word := 2 ^ 37 * (all.any (·.nx)).toNat + 2 ^ 36 * (all.any (·.ov) || !t.bad.isEmpty).toNat + all.countP (·.absent)
  (if clr then s.setCore cid { c with tile := { t with elems := [], bad := [] } } else s, word)

/-! ### The unit (06 R111, R113, R121, R122, R125 to R128) -/

/-- The token word but for DNX, DOV and N (06 R121). -/
def Tile.token (t : Tile) (code : Nat) : Nat :=
  code * 2 ^ 56 + 2 ^ 40 * t.int.toNat + 2 ^ 35 * t.iov.toNat + 2 ^ 34 * t.csat.toNat + 2 ^ 33 * t.ov.toNat + 2 ^ 32 * t.nv.toNat

/-- OWNER, where it names a group that is live on the package (06 R113). -/
def State.tileOwner (s : State) (cid : Nat) : Option Nat :=
  match (s.core cid).tile.owner with
  | some g => if (s.group (pkgOf cid) g).isSome then some g else none
  | none => none

/-- The CODE with which a command is refused; 0 for none (06 R113, R118, R125). -/
def State.refusal (s : State) (cid : Nat) (m : Matrix) : Nat :=
  if m.cmd.ranges.any fun r => match matRegion cid r.1 r.2 with
      | .ok _ => false
      | .error _ => true
  then 3
  else match s.tileOwner cid with
    | some g =>
      if m.grp ≠ some g then 2
      else match m.cmd with
        | .mma fa _ _ _ _ => if (s.core cid).tile.int = decide (fa = .i8) then 0 else 1
        | _ => 0
    | none => match m.cmd with
      | .mma fa _ _ _ _ => if (s.core cid).tile.int = decide (fa = .i8) then 0 else 1
      | _ => 0

/-- The head of the queue leaves it, and its token follows. -/
def State.endCmd (s : State) (cid id : Nat) (m : Matrix) (code low : Nat) : State :=
  let c := s.core cid
  let word := BitVec.ofNat 64 (c.tile.token code + low)
  (s.setCore cid { c with queue := c.queue.filter fun p => decide (p.1 ≠ id) }).setItem id (.matrixDone m.tid m.tok word)

/-- One block or command of the head of a queue (06 R122). -/
def State.serve (s : State) (cid id : Nat) (m : Matrix) : State :=
  let code := s.refusal cid m
  let c := s.core cid
  let own := match (s.core cid).tile.owner with
    | some g => 2 ^ 16 * (s.tileOwner cid).isSome.toNat + g % 2 ^ 16
    | none => 0
  match m.cmd with
  | .stat => s.endCmd cid id m code own
  | .zero int =>
    if code ≠ 0 then s.endCmd cid id m code 0
    else (s.setCore cid { c with tile := { int := int, owner := m.grp } }).endCmd cid id m 0 0
  | .load int ad st =>
    match code, matRegion cid ad (127 * st + 1024) with
    | 0, .ok k => (s.mload cid int k st m.grp).endCmd cid id m 0 0
    | _, _ => s.endCmd cid id m code 0
  | .drain mode f rm wrap clr ad st =>
    match code, matRegion cid ad (127 * st + rowBytes f) with
    | 0, .ok k =>
      let r := s.mdrain cid mode f rm wrap clr m.tx k st
      r.1.settleLocks.endCmd cid id m 0 r.2
    | _, _ => s.endCmd cid id m code 0
  | .mma fa fb a b n =>
    if code ≠ 0 then s.endCmd cid id m code 0
    else
      let s := s.mmaBlock cid m.tx fa fb a b m.done
      let u := s.unit (cid / 8)
      let s := s.setUnit (cid / 8) { u with up := true, hinted := false }
      if n ≤ m.done + 1 then s.endCmd cid id m 0 n
      else
        let c := s.core cid
        s.setCore cid { c with queue := c.queue.map fun p => if p.1 = id then (id, { m with done := m.done + 1 }) else p }

/-- The weight that the issuing thread gives a command (06 R126). -/
def State.weight (s : State) (m : Matrix) : Nat :=
  min 64 (max 1 ((s.ownShare m.tid + s.embHeld m.tid) / 256))

/-- The first column with a head, from column `c` on, wrapping (06 R126). -/
def State.nextHead (s : State) (u c : Nat) : Option (Nat × Matrix) :=
  ((List.range 8).map fun k => (c + k) % 8).findSome? fun col =>
    ((s.core (u * 8 + col)).queue.head?).map fun p => (col, p.2)

/-- The pointer leaves column `c`: to the first queue after it that has a head, whose weight it samples, or to rest on the queue
after it. -/
def State.movePointer (s : State) (u c : Nat) : State :=
  let x := s.unit u
  match s.nextHead u ((c + 1) % 8) with
  | some (col, m) => s.setUnit u { x with ptr := col, left := s.weight m }
  | none => s.setUnit u { x with ptr := (c + 1) % 8, left := 0 }

/-- MATRIX_BLOCK: the arbiter serves one block of the queue its pointer visits (06 R126). An MMA or MLOAD reads nothing before
its thread's earlier stores are written (06 R124, 08 R156). -/
def execMatrixBlock (unit : Nat) (s : State) : Out :=
  let u := s.unit unit
  let s := if u.left ≠ 0 then s
    else match s.nextHead unit u.ptr with
      | some (col, m) => s.setUnit unit { u with ptr := col, left := s.weight m }
      | none => s
  let u := s.unit unit
  let cid := unit * 8 + u.ptr
  if u.left = 0 then .next s
  else match (s.core cid).queue with
    | [] => .next (s.movePointer unit u.ptr)
    | (id, m) :: _ =>
      let reads := match m.cmd with
        | .mma _ _ _ _ _ | .load _ _ _ => true
        | _ => false
      if reads && !s.drained m.tid id then .next s
      else
        let s := s.serve cid id m
        let u := s.unit unit
        let s := s.setUnit unit { u with left := u.left - 1 }
        if u.left ≤ 1 || (s.core cid).queue.isEmpty then .next (s.movePointer unit u.ptr) else .next s

/-- MATRIX_COMMAND_COMPLETION: the token word lands (06 R121). -/
def execMatrixCommandCompletion (id : Nat) (s : State) : Out :=
  match s.item id with
  | some (.matrixDone tid tok w) => .next ((s.dropItem id).landToken tid tok w)
  | _ => .next s

/-- MATRIX_RAMP_DOWN (06 R127). -/
def execMatrixRampDown (unit : Nat) (s : State) : Out := .next (s.setUnit unit { s.unit unit with up := false })

/-- HINTED_RAMP_UP (06 R128). -/
def execHintedRampUp (unit : Nat) (s : State) : Out :=
  let u := s.unit unit
  if u.hinted then .next (s.setUnit unit { u with up := true, hinted := false }) else .next s

end Sys2Proof.Machine
end

