-- ==== Sys2Proof/Machine/Scalar.lean ====
section
/-! DEFINITION. Machine/Scalar.lean: the scalar integer and predicate instructions (17 R285 to R293). -/
namespace Sys2Proof.Machine

/-- A two-source scalar instruction (17 R288). -/
def State.alu2 (s : State) (d a b : SOpd) (f : Word → Word → Word) : R := do
  s.operands [a.place, b.place] [d.place]
  pure (s.writeS d (f (s.readS a) (s.readS b)))

/-- A one-source scalar instruction, or one whose second source is an immediate (17 R288). -/
def State.alu1 (s : State) (d a : SOpd) (f : Word → Word) : R := do
  s.operands [a.place] [d.place]
  pure (s.writeS d (f (s.readS a)))

/-- A division: a zero divisor traps with cause 0x07; the result takes 36 cycles (17 R286, R289). -/
def State.divide (s : State) (d a b : SOpd) (f : Word → Word → Word) : R := do
  s.operands [a.place, b.place] [d.place]
  raiseIf (decide (s.readS b = 0)) 0x07 s.iss.word
  pure (s.resultS d (f (s.readS a) (s.readS b)))

/-- A comparison into a predicate (17 R291). -/
def State.compare (s : State) (d : PReg) (a b : SOpd) (f : Word → Word → Bool) : R := do
  s.operands [a.place, b.place] []
  pure (s.updMe fun t => t.setPred d.val (f (s.readS a) (s.readS b)))

def State.compareI (s : State) (d : PReg) (a : SOpd) (imm : BitVec 12) (f : Word → Word → Bool) : R := do
  s.operands [a.place] []
  pure (s.updMe fun t => t.setPred d.val (f (s.readS a) (imm.signExtend 64)))

/-- A predicate operation: predicates are read at issue and never waited on (17 R291, R293). -/
def State.plog (s : State) (d : PReg) (x : Bool) : R := .ok (s.updMe fun t => t.setPred d.val x)

/-! ### Results (17 R287, R289, R290) -/

def shiftCount (w : Word) : Nat := w.toNat % 64

/-- DIVS rounds toward zero; −2^63 by −1 is −2^63 (17 R289). -/
def divS (a b : Word) : Word := BitVec.ofInt 64 (Int.tdiv a.toInt b.toInt)
def remS (a b : Word) : Word := BitVec.ofInt 64 (Int.tmod a.toInt b.toInt)

def mulHS (a b : Word) : Word := BitVec.ofInt 64 (a.toInt * b.toInt / (2 ^ 64 : Nat))
def mulHU (a b : Word) : Word := BitVec.ofNat 64 (a.toNat * b.toNat / 2 ^ 64)

def minS (a b : Word) : Word := if a.toInt ≤ b.toInt then a else b
def maxS (a b : Word) : Word := if a.toInt ≤ b.toInt then b else a
def minU (a b : Word) : Word := if a.toNat ≤ b.toNat then a else b
def maxU (a b : Word) : Word := if a.toNat ≤ b.toNat then b else a

/-- Leading zeros, 64 for 0. -/
def clzW (a : Word) : Word := if a = 0 then 64 else BitVec.ofNat 64 (63 - Nat.log2 a.toNat)

/-- Trailing zeros below bit `n`, 64 where no bit is set. -/
def ctzFrom (a : Word) : Nat → Nat
  | 0 => 64
  | n + 1 => if a.getLsbD (63 - n) then 63 - n else ctzFrom a n

def ctzW (a : Word) : Word := BitVec.ofNat 64 (ctzFrom a 64)

def popcW (a : Word) : Word := BitVec.ofNat 64 ((List.range 64).countP fun i => a.getLsbD i)

/-- Bits in reversed order. -/
def brevW (a : Word) : Word := (List.range 64).foldl (fun acc i => acc * 2 + BitVec.ofNat 64 (a.getLsbD i).toNat) 0

/-- Position and width of a field descriptor (17 R290). -/
def fieldPos (d : Word) : Nat := d.toNat % 64
def fieldWidth (d : Word) : Nat := Fld d 13 8 + 1

def bextW (a d : Word) : Word := BitVec.ofNat 64 (a.toNat / 2 ^ fieldPos d % 2 ^ fieldWidth d)
def bextSW (a d : Word) : Word := signExtend64 (fieldWidth d) (a.toNat / 2 ^ fieldPos d)

/-- BINS: bits [min(pos + w − 1, 63) : pos] of the destination replaced by the low bits of the source. -/
def binsW (old a d : Word) : Word :=
  let hi := if fieldPos d + fieldWidth d - 1 ≤ 63 then fieldPos d + fieldWidth d - 1 else 63
  BitVec.ofNat 64 (setBits old.toNat hi (fieldPos d) a.toNat)

/-! ### The instructions -/

def execAdd (d a b : SOpd) (g : Fin 8) (s : State) : Out := s.issueC g fun s => s.alu2 d a b fun x y => x + y
def execSub (d a b : SOpd) (g : Fin 8) (s : State) : Out := s.issueC g fun s => s.alu2 d a b fun x y => x - y
def execAndC (d a b : SOpd) (g : Fin 8) (s : State) : Out := s.issueC g fun s => s.alu2 d a b fun x y => x &&& y
def execOrC (d a b : SOpd) (g : Fin 8) (s : State) : Out := s.issueC g fun s => s.alu2 d a b fun x y => x ||| y
def execXorC (d a b : SOpd) (g : Fin 8) (s : State) : Out := s.issueC g fun s => s.alu2 d a b fun x y => x ^^^ y
def execAndn (d a b : SOpd) (g : Fin 8) (s : State) : Out := s.issueC g fun s => s.alu2 d a b fun x y => x &&& ~~~y
def execMul (d a b : SOpd) (g : Fin 8) (s : State) : Out := s.issueC g fun s => s.alu2 d a b fun x y => x * y
def execMulhs (d a b : SOpd) (g : Fin 8) (s : State) : Out := s.issueC g fun s => s.alu2 d a b mulHS
def execMulhu (d a b : SOpd) (g : Fin 8) (s : State) : Out := s.issueC g fun s => s.alu2 d a b mulHU
def execDivs (d a b : SOpd) (g : Fin 8) (s : State) : Out := s.issueC g fun s => s.divide d a b divS
def execDivu (d a b : SOpd) (g : Fin 8) (s : State) : Out := s.issueC g fun s => s.divide d a b fun x y => x / y
def execRems (d a b : SOpd) (g : Fin 8) (s : State) : Out := s.issueC g fun s => s.divide d a b remS
def execRemu (d a b : SOpd) (g : Fin 8) (s : State) : Out := s.issueC g fun s => s.divide d a b fun x y => x % y
def execShl (d a b : SOpd) (g : Fin 8) (s : State) : Out :=
  s.issueC g fun s => s.alu2 d a b fun x y => x <<< shiftCount y
def execShr (d a b : SOpd) (g : Fin 8) (s : State) : Out :=
  s.issueC g fun s => s.alu2 d a b fun x y => x >>> shiftCount y
def execSha (d a b : SOpd) (g : Fin 8) (s : State) : Out :=
  s.issueC g fun s => s.alu2 d a b fun x y => x.sshiftRight (shiftCount y)
def execRotr (d a b : SOpd) (g : Fin 8) (s : State) : Out :=
  s.issueC g fun s => s.alu2 d a b fun x y => x.rotateRight (shiftCount y)
def execMins (d a b : SOpd) (g : Fin 8) (s : State) : Out := s.issueC g fun s => s.alu2 d a b minS
def execMaxs (d a b : SOpd) (g : Fin 8) (s : State) : Out := s.issueC g fun s => s.alu2 d a b maxS
def execMinu (d a b : SOpd) (g : Fin 8) (s : State) : Out := s.issueC g fun s => s.alu2 d a b minU
def execMaxu (d a b : SOpd) (g : Fin 8) (s : State) : Out := s.issueC g fun s => s.alu2 d a b maxU
def execClz (d a : SOpd) (g : Fin 8) (s : State) : Out := s.issueC g fun s => s.alu1 d a clzW
def execCtz (d a : SOpd) (g : Fin 8) (s : State) : Out := s.issueC g fun s => s.alu1 d a ctzW
def execPopc (d a : SOpd) (g : Fin 8) (s : State) : Out := s.issueC g fun s => s.alu1 d a popcW
def execBrev (d a : SOpd) (g : Fin 8) (s : State) : Out := s.issueC g fun s => s.alu1 d a brevW
def execSextB (d a : SOpd) (g : Fin 8) (s : State) : Out :=
  s.issueC g fun s => s.alu1 d a fun x => (x.setWidth 8).signExtend 64
def execSextH (d a : SOpd) (g : Fin 8) (s : State) : Out :=
  s.issueC g fun s => s.alu1 d a fun x => (x.setWidth 16).signExtend 64
def execSextW (d a : SOpd) (g : Fin 8) (s : State) : Out :=
  s.issueC g fun s => s.alu1 d a fun x => (x.setWidth 32).signExtend 64
def execZextB (d a : SOpd) (g : Fin 8) (s : State) : Out :=
  s.issueC g fun s => s.alu1 d a fun x => (x.setWidth 8).setWidth 64
def execZextH (d a : SOpd) (g : Fin 8) (s : State) : Out :=
  s.issueC g fun s => s.alu1 d a fun x => (x.setWidth 16).setWidth 64
def execZextW (d a : SOpd) (g : Fin 8) (s : State) : Out :=
  s.issueC g fun s => s.alu1 d a fun x => (x.setWidth 32).setWidth 64
def execMov (d a : SOpd) (g : Fin 8) (s : State) : Out := s.issueC g fun s => s.alu1 d a fun x => x
def execSel (d a b : SOpd) (p : Fin 8) (g : Fin 8) (s : State) : Out :=
  s.issueC g fun s => s.alu2 d a b fun x y => if s.src.pred p.val then x else y
def execLea (d a b : SOpd) (k : Fin 4) (g : Fin 8) (s : State) : Out :=
  s.issueC g fun s => s.alu2 d a b fun x y => x + y <<< k.val
def execCmpEq (d : PReg) (a b : SOpd) (g : Fin 8) (s : State) : Out :=
  s.issueC g fun s => s.compare d a b fun x y => decide (x = y)
def execCmpNe (d : PReg) (a b : SOpd) (g : Fin 8) (s : State) : Out :=
  s.issueC g fun s => s.compare d a b fun x y => decide (x ≠ y)
def execCmpLt (d : PReg) (a b : SOpd) (g : Fin 8) (s : State) : Out :=
  s.issueC g fun s => s.compare d a b fun x y => decide (x.toInt < y.toInt)
def execCmpGe (d : PReg) (a b : SOpd) (g : Fin 8) (s : State) : Out :=
  s.issueC g fun s => s.compare d a b fun x y => decide (y.toInt ≤ x.toInt)
def execCmpLtu (d : PReg) (a b : SOpd) (g : Fin 8) (s : State) : Out :=
  s.issueC g fun s => s.compare d a b fun x y => decide (x.toNat < y.toNat)
def execCmpGeu (d : PReg) (a b : SOpd) (g : Fin 8) (s : State) : Out :=
  s.issueC g fun s => s.compare d a b fun x y => decide (y.toNat ≤ x.toNat)
def execBext (d a b : SOpd) (g : Fin 8) (s : State) : Out := s.issueC g fun s => s.alu2 d a b bextW
def execBextS (d a b : SOpd) (g : Fin 8) (s : State) : Out := s.issueC g fun s => s.alu2 d a b bextSW

/-- BINS reads its destination as a third source (17 R290). -/
def execBins (d a b : SOpd) (g : Fin 8) (s : State) : Out :=
  s.issueC g fun s => do
    s.operands [a.place, b.place, d.place] [d.place]
    pure (s.writeS d (binsW (s.readS d) (s.readS a) (s.readS b)))

def execAddi (d a : SOpd) (imm : BitVec 12) (s : State) : Out :=
  s.issue fun s => s.alu1 d a fun x => x + imm.signExtend 64
def execAndi (d a : SOpd) (imm : BitVec 12) (s : State) : Out :=
  s.issue fun s => s.alu1 d a fun x => x &&& imm.setWidth 64
def execOri (d a : SOpd) (imm : BitVec 12) (s : State) : Out :=
  s.issue fun s => s.alu1 d a fun x => x ||| imm.setWidth 64
def execXori (d a : SOpd) (imm : BitVec 12) (s : State) : Out :=
  s.issue fun s => s.alu1 d a fun x => x ^^^ imm.setWidth 64
def execShli (d a : SOpd) (n : Fin 64) (s : State) : Out := s.issue fun s => s.alu1 d a fun x => x <<< n.val
def execShri (d a : SOpd) (n : Fin 64) (s : State) : Out := s.issue fun s => s.alu1 d a fun x => x >>> n.val
def execShai (d a : SOpd) (n : Fin 64) (s : State) : Out := s.issue fun s => s.alu1 d a fun x => x.sshiftRight n.val

def execMovi (d : SOpd) (imm : BitVec 12) (s : State) : Out :=
  s.issue fun s => do
    s.operands [] [d.place]
    pure (s.writeS d (imm.signExtend 64))

def execCmpiEq (d : PReg) (a : SOpd) (imm : BitVec 12) (s : State) : Out :=
  s.issue fun s => s.compareI d a imm fun x y => decide (x = y)
def execCmpiNe (d : PReg) (a : SOpd) (imm : BitVec 12) (s : State) : Out :=
  s.issue fun s => s.compareI d a imm fun x y => decide (x ≠ y)
def execCmpiLt (d : PReg) (a : SOpd) (imm : BitVec 12) (s : State) : Out :=
  s.issue fun s => s.compareI d a imm fun x y => decide (x.toInt < y.toInt)
def execCmpiGe (d : PReg) (a : SOpd) (imm : BitVec 12) (s : State) : Out :=
  s.issue fun s => s.compareI d a imm fun x y => decide (y.toInt ≤ x.toInt)
def execCmpiLtu (d : PReg) (a : SOpd) (imm : BitVec 12) (s : State) : Out :=
  s.issue fun s => s.compareI d a imm fun x y => decide (x.toNat < y.toNat)
def execCmpiGeu (d : PReg) (a : SOpd) (imm : BitVec 12) (s : State) : Out :=
  s.issue fun s => s.compareI d a imm fun x y => decide (y.toNat ≤ x.toNat)

def execPand (d a b : PReg) (g : Fin 8) (s : State) : Out :=
  s.issueC g fun s => s.plog d (s.src.pred a.val && s.src.pred b.val)
def execPor (d a b : PReg) (g : Fin 8) (s : State) : Out :=
  s.issueC g fun s => s.plog d (s.src.pred a.val || s.src.pred b.val)
def execPxor (d a b : PReg) (g : Fin 8) (s : State) : Out :=
  s.issueC g fun s => s.plog d (s.src.pred a.val != s.src.pred b.val)
def execPnot (d a : PReg) (g : Fin 8) (s : State) : Out := s.issueC g fun s => s.plog d (!s.src.pred a.val)
def execPmov (d a : PReg) (g : Fin 8) (s : State) : Out := s.issueC g fun s => s.plog d (s.src.pred a.val)

/-- MOVW writes a sign-extended 48-bit immediate (17 R292). -/
def execMovw (d : XReg) (hi : BitVec 16) (lo : BitVec 32) (s : State) : Out :=
  s.issue fun s => do
    s.operands [] [xplace d]
    pure (s.writeX d ((hi ++ lo).signExtend 64))

/-- MOVW.HI reads d and replaces bits [63:48] (17 R292). -/
def execMovwHi (d : XReg) (imm : BitVec 16) (s : State) : Out :=
  s.issue fun s => do
    s.operands [xplace d] [xplace d]
    pure (s.writeX d (imm ++ (s.readX d).setWidth 48))

end Sys2Proof.Machine
end

