-- ==== Sys2Proof/Machine/Dispatch.lean ====
section
/-! DEFINITION. Machine/Dispatch.lean: one arm per constructor of Instr, each one call of its meaning. -/
namespace Sys2Proof.Machine

def exec (i : Instr) (s : State) : Host.Outcome State Fault Refusal :=
  match i with
  -- C-slot instructions
  | .cnop g => Sys2Proof.Machine.execCnop g s
  | .br off => Sys2Proof.Machine.execBr off s
  | .brp p sense off => Sys2Proof.Machine.execBrp p sense off s
  | .call off => Sys2Proof.Machine.execCall off s
  | .loop c off => Sys2Proof.Machine.execLoop c off s
  | .calli x g => Sys2Proof.Machine.execCalli x g s
  | .ret x g => Sys2Proof.Machine.execRet x g s
  | .jmpi x g => Sys2Proof.Machine.execJmpi x g s
  | .exit g => Sys2Proof.Machine.execExit g s
  | .trap imm => Sys2Proof.Machine.execTrap imm s
  | .brk imm => Sys2Proof.Machine.execBrk imm s
  | .eret g => Sys2Proof.Machine.execEret g s
  | .ifence g => Sys2Proof.Machine.execIfence g s
  | .pfence g => Sys2Proof.Machine.execPfence g s
  | .fence sc g => Sys2Proof.Machine.execFence sc g s
  | .add d a b g => Sys2Proof.Machine.execAdd d a b g s
  | .sub d a b g => Sys2Proof.Machine.execSub d a b g s
  | .andC d a b g => Sys2Proof.Machine.execAndC d a b g s
  | .orC d a b g => Sys2Proof.Machine.execOrC d a b g s
  | .xorC d a b g => Sys2Proof.Machine.execXorC d a b g s
  | .andn d a b g => Sys2Proof.Machine.execAndn d a b g s
  | .mul d a b g => Sys2Proof.Machine.execMul d a b g s
  | .mulhs d a b g => Sys2Proof.Machine.execMulhs d a b g s
  | .mulhu d a b g => Sys2Proof.Machine.execMulhu d a b g s
  | .divs d a b g => Sys2Proof.Machine.execDivs d a b g s
  | .divu d a b g => Sys2Proof.Machine.execDivu d a b g s
  | .rems d a b g => Sys2Proof.Machine.execRems d a b g s
  | .remu d a b g => Sys2Proof.Machine.execRemu d a b g s
  | .shl d a b g => Sys2Proof.Machine.execShl d a b g s
  | .shr d a b g => Sys2Proof.Machine.execShr d a b g s
  | .sha d a b g => Sys2Proof.Machine.execSha d a b g s
  | .rotr d a b g => Sys2Proof.Machine.execRotr d a b g s
  | .mins d a b g => Sys2Proof.Machine.execMins d a b g s
  | .maxs d a b g => Sys2Proof.Machine.execMaxs d a b g s
  | .minu d a b g => Sys2Proof.Machine.execMinu d a b g s
  | .maxu d a b g => Sys2Proof.Machine.execMaxu d a b g s
  | .clz d a g => Sys2Proof.Machine.execClz d a g s
  | .ctz d a g => Sys2Proof.Machine.execCtz d a g s
  | .popc d a g => Sys2Proof.Machine.execPopc d a g s
  | .brev d a g => Sys2Proof.Machine.execBrev d a g s
  | .sextB d a g => Sys2Proof.Machine.execSextB d a g s
  | .sextH d a g => Sys2Proof.Machine.execSextH d a g s
  | .sextW d a g => Sys2Proof.Machine.execSextW d a g s
  | .zextB d a g => Sys2Proof.Machine.execZextB d a g s
  | .zextH d a g => Sys2Proof.Machine.execZextH d a g s
  | .zextW d a g => Sys2Proof.Machine.execZextW d a g s
  | .mov d a g => Sys2Proof.Machine.execMov d a g s
  | .sel d a b p g => Sys2Proof.Machine.execSel d a b p g s
  | .lea d a b k g => Sys2Proof.Machine.execLea d a b k g s
  | .cmpEq d a b g => Sys2Proof.Machine.execCmpEq d a b g s
  | .cmpNe d a b g => Sys2Proof.Machine.execCmpNe d a b g s
  | .cmpLt d a b g => Sys2Proof.Machine.execCmpLt d a b g s
  | .cmpGe d a b g => Sys2Proof.Machine.execCmpGe d a b g s
  | .cmpLtu d a b g => Sys2Proof.Machine.execCmpLtu d a b g s
  | .cmpGeu d a b g => Sys2Proof.Machine.execCmpGeu d a b g s
  | .bext d a b g => Sys2Proof.Machine.execBext d a b g s
  | .bextS d a b g => Sys2Proof.Machine.execBextS d a b g s
  | .bins d a b g => Sys2Proof.Machine.execBins d a b g s
  | .tremit x g => Sys2Proof.Machine.execTremit x g s
  | .rpush x g => Sys2Proof.Machine.execRpush x g s
  | .rpop d g => Sys2Proof.Machine.execRpop d g s
  | .ctxs d a b g => Sys2Proof.Machine.execCtxs d a b g s
  | .ctxsResume d a b g => Sys2Proof.Machine.execCtxsResume d a b g s
  | .ctxsSize d a g => Sys2Proof.Machine.execCtxsSize d a g s
  | .addi d a imm => Sys2Proof.Machine.execAddi d a imm s
  | .andi d a imm => Sys2Proof.Machine.execAndi d a imm s
  | .ori d a imm => Sys2Proof.Machine.execOri d a imm s
  | .xori d a imm => Sys2Proof.Machine.execXori d a imm s
  | .shli d a n => Sys2Proof.Machine.execShli d a n s
  | .shri d a n => Sys2Proof.Machine.execShri d a n s
  | .shai d a n => Sys2Proof.Machine.execShai d a n s
  | .movi d imm => Sys2Proof.Machine.execMovi d imm s
  | .cmpiEq d a imm => Sys2Proof.Machine.execCmpiEq d a imm s
  | .cmpiNe d a imm => Sys2Proof.Machine.execCmpiNe d a imm s
  | .cmpiLt d a imm => Sys2Proof.Machine.execCmpiLt d a imm s
  | .cmpiGe d a imm => Sys2Proof.Machine.execCmpiGe d a imm s
  | .cmpiLtu d a imm => Sys2Proof.Machine.execCmpiLtu d a imm s
  | .cmpiGeu d a imm => Sys2Proof.Machine.execCmpiGeu d a imm s
  | .ldBZ d b imm => Sys2Proof.Machine.execLdBZ d b imm s
  | .ldBS d b imm => Sys2Proof.Machine.execLdBS d b imm s
  | .ldHZ d b imm => Sys2Proof.Machine.execLdHZ d b imm s
  | .ldHS d b imm => Sys2Proof.Machine.execLdHS d b imm s
  | .ldWZ d b imm => Sys2Proof.Machine.execLdWZ d b imm s
  | .ldWS d b imm => Sys2Proof.Machine.execLdWS d b imm s
  | .ldD d b imm => Sys2Proof.Machine.execLdD d b imm s
  | .ldAcq d b imm => Sys2Proof.Machine.execLdAcq d b imm s
  | .stB v b imm => Sys2Proof.Machine.execStB v b imm s
  | .stH v b imm => Sys2Proof.Machine.execStH v b imm s
  | .stW v b imm => Sys2Proof.Machine.execStW v b imm s
  | .stD v b imm => Sys2Proof.Machine.execStD v b imm s
  | .stRel v b imm => Sys2Proof.Machine.execStRel v b imm s
  | .ldv d b imm => Sys2Proof.Machine.execLdv d b imm s
  | .stv v b imm => Sys2Proof.Machine.execStv v b imm s
  | .aadd d b v z g => Sys2Proof.Machine.execAadd d b v z g s
  | .afadd d b v z g => Sys2Proof.Machine.execAfadd d b v z g s
  | .amin d b v z g => Sys2Proof.Machine.execAmin d b v z g s
  | .amax d b v z g => Sys2Proof.Machine.execAmax d b v z g s
  | .aand d b v z g => Sys2Proof.Machine.execAand d b v z g s
  | .aor d b v z g => Sys2Proof.Machine.execAor d b v z g s
  | .axor d b v z g => Sys2Proof.Machine.execAxor d b v z g s
  | .axchg d b v z g => Sys2Proof.Machine.execAxchg d b v z g s
  | .acas d b v z g => Sys2Proof.Machine.execAcas d b v z g s
  | .lock b g => Sys2Proof.Machine.execLock b g s
  | .lockStatus d b g => Sys2Proof.Machine.execLockStatus d b g s
  | .unlock b g => Sys2Proof.Machine.execUnlock b g s
  | .unlockStatus d b g => Sys2Proof.Machine.execUnlockStatus d b g s
  | .nadd d b v g => Sys2Proof.Machine.execNadd d b v g s
  | .ncas d b v g => Sys2Proof.Machine.execNcas d b v g s
  | .mzeroFlt t g => Sys2Proof.Machine.execMzeroFlt t g s
  | .mzeroInt t g => Sys2Proof.Machine.execMzeroInt t g s
  | .mstat t g => Sys2Proof.Machine.execMstat t g s
  | .mhint imm => Sys2Proof.Machine.execMhint imm s
  | .ldnW d b imm => Sys2Proof.Machine.execLdnW d b imm s
  | .ldnD d b imm => Sys2Proof.Machine.execLdnD d b imm s
  | .stnW v b imm => Sys2Proof.Machine.execStnW v b imm s
  | .stnD v b imm => Sys2Proof.Machine.execStnD v b imm s
  | .vldn d b imm => Sys2Proof.Machine.execVldn d b imm s
  | .vstn v b imm => Sys2Proof.Machine.execVstn v b imm s
  | .ldf d b imm => Sys2Proof.Machine.execLdf d b imm s
  | .ldfe d b imm => Sys2Proof.Machine.execLdfe d b imm s
  | .ste v b imm => Sys2Proof.Machine.execSte v b imm s
  | .stf v b imm => Sys2Proof.Machine.execStf v b imm s
  | .feclr b imm => Sys2Proof.Machine.execFeclr b imm s
  | .feset b imm => Sys2Proof.Machine.execFeset b imm s
  | .feq d b imm => Sys2Proof.Machine.execFeq d b imm s
  | .claim b imm => Sys2Proof.Machine.execClaim b imm s
  | .flue x g => Sys2Proof.Machine.execFlue x g s
  | .send a t b g => Sys2Proof.Machine.execSend a t b g s
  | .sendT a t b g => Sys2Proof.Machine.execSendT a t b g s
  | .recv d e f g => Sys2Proof.Machine.execRecv d e f g s
  | .recvs d x e f g => Sys2Proof.Machine.execRecvs d x e f g s
  | .waitm d x e f g => Sys2Proof.Machine.execWaitm d x e f g s
  | .putr idx t v g => Sys2Proof.Machine.execPutr idx t v g s
  | .pclr d g => Sys2Proof.Machine.execPclr d g s
  | .ptst d x g => Sys2Proof.Machine.execPtst d x g s
  | .qunbind q g => Sys2Proof.Machine.execQunbind q g s
  | .qpop k q g => Sys2Proof.Machine.execQpop k q g s
  | .qpush k q g => Sys2Proof.Machine.execQpush k q g s
  | .qstat d q g => Sys2Proof.Machine.execQstat d q g s
  | .qfwd g => Sys2Proof.Machine.execQfwd g s
  | .qseam d g => Sys2Proof.Machine.execQseam d g s
  | .qinherit b n g => Sys2Proof.Machine.execQinherit b n g s
  | .markret g => Sys2Proof.Machine.execMarkret g s
  | .pand d a b g => Sys2Proof.Machine.execPand d a b g s
  | .por d a b g => Sys2Proof.Machine.execPor d a b g s
  | .pxor d a b g => Sys2Proof.Machine.execPxor d a b g s
  | .pnot d a g => Sys2Proof.Machine.execPnot d a g s
  | .pmov d a g => Sys2Proof.Machine.execPmov d a g s
  | .bar b sc g => Sys2Proof.Machine.execBar b sc g s
  | .bara d b sc g => Sys2Proof.Machine.execBara d b sc g s
  | .barw x b sc g => Sys2Proof.Machine.execBarw x b sc g s
  | .emb d g => Sys2Proof.Machine.execEmb d g s
  | .embHearth d g => Sys2Proof.Machine.execEmbHearth d g s
  | .gang n g => Sys2Proof.Machine.execGang n g s
  | .gangw g => Sys2Proof.Machine.execGangw g s
  | .disband g => Sys2Proof.Machine.execDisband g s
  | .tqpush d w c g => Sys2Proof.Machine.execTqpush d w c g s
  | .tqpop d e g => Sys2Proof.Machine.execTqpop d e g s
  | .tqpeek d e g => Sys2Proof.Machine.execTqpeek d e g s
  | .sleep d w t c g => Sys2Proof.Machine.execSleep d w t c g s
  | .sleepW d w t c g => Sys2Proof.Machine.execSleepW d w t c g s
  | .timer d x g => Sys2Proof.Machine.execTimer d x g s
  | .timerAbs d x g => Sys2Proof.Machine.execTimerAbs d x g s
  | .timerOff d g => Sys2Proof.Machine.execTimerOff d g s
  | .mfs d n g => Sys2Proof.Machine.execMfs d n g s
  | .mts x n g => Sys2Proof.Machine.execMts x n g s
  | .segld b n g => Sys2Proof.Machine.execSegld b n g s
  | .segst b n g => Sys2Proof.Machine.execSegst b n g s
  | .tlbi x sc g => Sys2Proof.Machine.execTlbi x sc g s
  | .pgrep x g => Sys2Proof.Machine.execPgrep x g s
  | .pgrepFail x g => Sys2Proof.Machine.execPgrepFail x g s
  -- A-slot instructions
  | .anop => Sys2Proof.Machine.execAnop s
  | .fadd ty d a b r => Sys2Proof.Machine.execFadd ty d a b r s
  | .fsub ty d a b r => Sys2Proof.Machine.execFsub ty d a b r s
  | .fmul ty d a b r => Sys2Proof.Machine.execFmul ty d a b r s
  | .fma ty d a b r => Sys2Proof.Machine.execFma ty d a b r s
  | .fdiv ty d a b r => Sys2Proof.Machine.execFdiv ty d a b r s
  | .fsqrt ty d a r => Sys2Proof.Machine.execFsqrt ty d a r s
  | .fmin ty d a b => Sys2Proof.Machine.execFmin ty d a b s
  | .fmax ty d a b => Sys2Proof.Machine.execFmax ty d a b s
  | .fabs ty d a => Sys2Proof.Machine.execFabs ty d a s
  | .fneg ty d a => Sys2Proof.Machine.execFneg ty d a s
  | .fsgn ty d a b => Sys2Proof.Machine.execFsgn ty d a b s
  | .fcmp ty d a b => Sys2Proof.Machine.execFcmp ty d a b s
  | .fclass ty d a => Sys2Proof.Machine.execFclass ty d a s
  | .fcvtF ty d a src r => Sys2Proof.Machine.execFcvtF ty d a src r s
  | .fcvtI ty d a src r => Sys2Proof.Machine.execFcvtI ty d a src r s
  | .vaddF ty d a b m r => Sys2Proof.Machine.execVaddF ty d a b m r s
  | .vsubF ty d a b m r => Sys2Proof.Machine.execVsubF ty d a b m r s
  | .vmulF ty d a b m r => Sys2Proof.Machine.execVmulF ty d a b m r s
  | .vfma ty d a b m r => Sys2Proof.Machine.execVfma ty d a b m r s
  | .vfms ty d a b m r => Sys2Proof.Machine.execVfms ty d a b m r s
  | .vminF ty d a b m => Sys2Proof.Machine.execVminF ty d a b m s
  | .vmaxF ty d a b m => Sys2Proof.Machine.execVmaxF ty d a b m s
  | .vabsF ty d a m => Sys2Proof.Machine.execVabsF ty d a m s
  | .vnegF ty d a m => Sys2Proof.Machine.execVnegF ty d a m s
  | .vdiv ty d a b m r => Sys2Proof.Machine.execVdiv ty d a b m r s
  | .vsqrt ty d a m r => Sys2Proof.Machine.execVsqrt ty d a m r s
  | .vrcp ty d a m r => Sys2Proof.Machine.execVrcp ty d a m r s
  | .vrsq ty d a m r => Sys2Proof.Machine.execVrsq ty d a m r s
  | .vdotF ty d a b m r => Sys2Proof.Machine.execVdotF ty d a b m r s
  | .vexp2 ty d a m => Sys2Proof.Machine.execVexp2 ty d a m s
  | .vlog2 ty d a m => Sys2Proof.Machine.execVlog2 ty d a m s
  | .vsin ty d a m => Sys2Proof.Machine.execVsin ty d a m s
  | .vcos ty d a m => Sys2Proof.Machine.execVcos ty d a m s
  | .vtanh ty d a m => Sys2Proof.Machine.execVtanh ty d a m s
  | .vand ty d a b m => Sys2Proof.Machine.execVand ty d a b m s
  | .vor ty d a b m => Sys2Proof.Machine.execVor ty d a b m s
  | .vxor ty d a b m => Sys2Proof.Machine.execVxor ty d a b m s
  | .vshl ty d a b m => Sys2Proof.Machine.execVshl ty d a b m s
  | .vshr ty d a b m => Sys2Proof.Machine.execVshr ty d a b m s
  | .vsha ty d a b m => Sys2Proof.Machine.execVsha ty d a b m s
  | .vcmpF ty md a b m => Sys2Proof.Machine.execVcmpF ty md a b m s
  | .vsel ty d a b m => Sys2Proof.Machine.execVsel ty d a b m s
  | .vcvtF ty d a src m r => Sys2Proof.Machine.execVcvtF ty d a src m r s
  | .vbcast ty d x m => Sys2Proof.Machine.execVbcast ty d x m s
  | .vperm ty d a b m => Sys2Proof.Machine.execVperm ty d a b m s
  | .vredF ty d a op m r => Sys2Proof.Machine.execVredF ty d a op m r s
  | .vcntF ty d a m => Sys2Proof.Machine.execVcntF ty d a m s
  | .visabF ty md a m => Sys2Proof.Machine.execVisabF ty md a m s
  | .vmkabF ty d a n m => Sys2Proof.Machine.execVmkabF ty d a n m s
  | .vmov ty d a m => Sys2Proof.Machine.execVmov ty d a m s
  | .vmovToMask md x => Sys2Proof.Machine.execVmovToMask md x s
  | .vmovFromMask d ms => Sys2Proof.Machine.execVmovFromMask d ms s
  | .vext ty d a ix m => Sys2Proof.Machine.execVext ty d a ix m s
  | .vins ty d x ix m => Sys2Proof.Machine.execVins ty d x ix m s
  | .xld d a dp m => Sys2Proof.Machine.execXld d a dp m s
  | .vrngF ty d k ix m => Sys2Proof.Machine.execVrngF ty d k ix m s
  | .vaddI ty d a b m => Sys2Proof.Machine.execVaddI ty d a b m s
  | .vsubI ty d a b m => Sys2Proof.Machine.execVsubI ty d a b m s
  | .vmulI ty d a b m => Sys2Proof.Machine.execVmulI ty d a b m s
  | .vminI ty d a b m => Sys2Proof.Machine.execVminI ty d a b m s
  | .vmaxI ty d a b m => Sys2Proof.Machine.execVmaxI ty d a b m s
  | .vabsI ty d a m => Sys2Proof.Machine.execVabsI ty d a m s
  | .vnegI ty d a m => Sys2Proof.Machine.execVnegI ty d a m s
  | .vdotI ty d a b m => Sys2Proof.Machine.execVdotI ty d a b m s
  | .vcmpI ty md a b m => Sys2Proof.Machine.execVcmpI ty md a b m s
  | .vcvtI ty d a src m r => Sys2Proof.Machine.execVcvtI ty d a src m r s
  | .vredI ty d a op m => Sys2Proof.Machine.execVredI ty d a op m s
  | .vcntI ty d a m => Sys2Proof.Machine.execVcntI ty d a m s
  | .visabI ty md a m => Sys2Proof.Machine.execVisabI ty md a m s
  | .vmkabI ty d a n m => Sys2Proof.Machine.execVmkabI ty d a n m s
  | .vrngI ty d k ix m => Sys2Proof.Machine.execVrngI ty d k ix m s
  -- Lone instructions
  | .movw d hi lo => Sys2Proof.Machine.execMovw d hi lo s
  | .movwHi d imm => Sys2Proof.Machine.execMovwHi d imm s
  | .qbind q kind sz lc d a => Sys2Proof.Machine.execQbind q kind sz lc d a s
  | .spliceInsert q inh snum target newstage nt => Sys2Proof.Machine.execSpliceInsert q inh snum target newstage nt s
  | .spliceRemove q snum target => Sys2Proof.Machine.execSpliceRemove q snum target s
  | .spliceRebind q inh snum target newstage nt => Sys2Proof.Machine.execSpliceRebind q inh snum target newstage nt s
  | .launch d a q => Sys2Proof.Machine.execLaunch d a q s
  | .bari sc b d a => Sys2Proof.Machine.execBari sc b d a s
  | .tmov t da sa sh => Sys2Proof.Machine.execTmov t da sa sh s
  | .plane t da sa ct => Sys2Proof.Machine.execPlane t da sa ct s
  | .bcpy d mb => Sys2Proof.Machine.execBcpy d mb s
  | .gath d mb => Sys2Proof.Machine.execGath d mb s
  | .scat d mb => Sys2Proof.Machine.execScat d mb s
  | .coll d mb => Sys2Proof.Machine.execColl d mb s
  | .mdrain mode cls ty rm wrap clr t ad st => Sys2Proof.Machine.execMdrain mode cls ty rm wrap clr t ad st s
  | .mloadFlt t ad st => Sys2Proof.Machine.execMloadFlt t ad st s
  | .mloadInt t ad st => Sys2Proof.Machine.execMloadInt t ad st s
  | .mmaF4F4 t da db n => Sys2Proof.Machine.execMmaF4F4 t da db n s
  | .mmaE4E4 t da db n => Sys2Proof.Machine.execMmaE4E4 t da db n s
  | .mmaE5E5 t da db n => Sys2Proof.Machine.execMmaE5E5 t da db n s
  | .mmaE4E5 t da db n => Sys2Proof.Machine.execMmaE4E5 t da db n s
  | .mmaE5E4 t da db n => Sys2Proof.Machine.execMmaE5E4 t da db n s
  | .mmaBF16BF16 t da db n => Sys2Proof.Machine.execMmaBF16BF16 t da db n s
  | .mmaF16F16 t da db n => Sys2Proof.Machine.execMmaF16F16 t da db n s
  | .mmaBF16F4 t da db n => Sys2Proof.Machine.execMmaBF16F4 t da db n s
  | .mmaBF16E4 t da db n => Sys2Proof.Machine.execMmaBF16E4 t da db n s
  | .mmaBF16TS8 t da db n => Sys2Proof.Machine.execMmaBF16TS8 t da db n s
  | .mmaE4TS8 t da db n => Sys2Proof.Machine.execMmaE4TS8 t da db n s
  | .mmaI8I8 t da db n => Sys2Proof.Machine.execMmaI8I8 t da db n s
  -- Events
  | .boundaryTrap tid => Sys2Proof.Machine.execBoundaryTrap tid s
  | .timerExpiry tid => Sys2Proof.Machine.execTimerExpiry tid s
  | .xldTimeout tid => Sys2Proof.Machine.execXldTimeout tid s
  | .tableWalk id => Sys2Proof.Machine.execTableWalk id s
  | .faultMessage id => Sys2Proof.Machine.execFaultMessage id s
  | .pagerReply id => Sys2Proof.Machine.execPagerReply id s
  | .eccUncorrectableError key => Sys2Proof.Machine.execEccUncorrectableError key s
  | .softError key => Sys2Proof.Machine.execSoftError key s
  | .farNetForward die stage sw out => Sys2Proof.Machine.execFarNetForward die stage sw out s
  | .switchPowerDown die stage sw => Sys2Proof.Machine.execSwitchPowerDown die stage sw s
  | .memoryAccessAtHome id => Sys2Proof.Machine.execMemoryAccessAtHome id s
  | .loadReply id => Sys2Proof.Machine.execLoadReply id s
  | .putArrival id => Sys2Proof.Machine.execPutArrival id s
  | .putAcknowledgement id => Sys2Proof.Machine.execPutAcknowledgement id s
  | .remoteRegisterWrite id => Sys2Proof.Machine.execRemoteRegisterWrite id s
  | .deliveryLanding id => Sys2Proof.Machine.execDeliveryLanding id s
  | .syncAccessArrival id => Sys2Proof.Machine.execSyncAccessArrival id s
  | .syncRetryTick => Sys2Proof.Machine.execSyncRetryTick s
  | .syncReissue id => Sys2Proof.Machine.execSyncReissue id s
  | .storeDrain tid => Sys2Proof.Machine.execStoreDrain tid s
  | .sendDeparture id => Sys2Proof.Machine.execSendDeparture id s
  | .inboxArrival id => Sys2Proof.Machine.execInboxArrival id s
  | .inboxRetry id => Sys2Proof.Machine.execInboxRetry id s
  | .ringRecordArrival id => Sys2Proof.Machine.execRingRecordArrival id s
  | .ringCreditReturn id => Sys2Proof.Machine.execRingCreditReturn id s
  | .seamTake tid q => Sys2Proof.Machine.execSeamTake tid q s
  | .drainThrough tid => Sys2Proof.Machine.execDrainThrough tid s
  | .inheritanceCopy tid => Sys2Proof.Machine.execInheritanceCopy tid s
  | .spliceMessage id => Sys2Proof.Machine.execSpliceMessage id s
  | .windowSpill tid => Sys2Proof.Machine.execWindowSpill tid s
  | .windowFill tid => Sys2Proof.Machine.execWindowFill tid s
  | .tileMoveCompletion id => Sys2Proof.Machine.execTileMoveCompletion id s
  | .planeCompletion id => Sys2Proof.Machine.execPlaneCompletion id s
  | .completionMessage id => Sys2Proof.Machine.execCompletionMessage id s
  | .collTimeout id => Sys2Proof.Machine.execCollTimeout id s
  | .matrixBlock unit => Sys2Proof.Machine.execMatrixBlock unit s
  | .matrixCommandCompletion id => Sys2Proof.Machine.execMatrixCommandCompletion id s
  | .matrixRampDown unit => Sys2Proof.Machine.execMatrixRampDown unit s
  | .hintedRampUp unit => Sys2Proof.Machine.execHintedRampUp unit s
  | .barrierRelease tid => Sys2Proof.Machine.execBarrierRelease tid s
  | .emberRedistribution pkg => Sys2Proof.Machine.execEmberRedistribution pkg s
  | .waitCycle id => Sys2Proof.Machine.execWaitCycle id s
  | .opChange hearth => Sys2Proof.Machine.execOpChange hearth s
  | .ceilLower pkg => Sys2Proof.Machine.execCeilLower pkg s
  | .ceilRaise pkg => Sys2Proof.Machine.execCeilRaise pkg s
  | .opthrWrite pkg hi v => Sys2Proof.Machine.execOpthrWrite pkg hi v s
  | .ceilWrite pkg v => Sys2Proof.Machine.execCeilWrite pkg v s
  | .bstatCycClear pkg => Sys2Proof.Machine.execBstatCycClear pkg s
  | .qrecCommit pkg q v => Sys2Proof.Machine.execQrecCommit pkg q v s
  | .dispatcherRanking pkg => Sys2Proof.Machine.execDispatcherRanking pkg s
  | .slotVacate tid => Sys2Proof.Machine.execSlotVacate tid s
  | .groupRetirement pkg grp => Sys2Proof.Machine.execGroupRetirement pkg grp s
  | .completionCounterWrite pkg ctr v => Sys2Proof.Machine.execCompletionCounterWrite pkg ctr v s
  | .preemption pkg grp => Sys2Proof.Machine.execPreemption pkg grp s
  | .groupResume pkg grp => Sys2Proof.Machine.execGroupResume pkg grp s
  | .ctxsResultMessage id => Sys2Proof.Machine.execCtxsResultMessage id s
  | .hostWrite pkg win off bytes => Sys2Proof.Machine.execHostWrite pkg win off bytes s
  | .hostRead pkg win off n => Sys2Proof.Machine.execHostRead pkg win off n s
  | .tenantRefused id => Sys2Proof.Machine.execTenantRefused id s
  | .fabricDown id => Sys2Proof.Machine.execFabricDown id s
  | .powerAlarm id => Sys2Proof.Machine.execPowerAlarm id s
  | .flitRetransmit pkg port => Sys2Proof.Machine.execFlitRetransmit pkg port s
  | .linkLoss pkg port => Sys2Proof.Machine.execLinkLoss pkg port s
  | .linkRestore pkg port => Sys2Proof.Machine.execLinkRestore pkg port s
  | .ftmoExpiry pkg port => Sys2Proof.Machine.execFtmoExpiry pkg port s
  | .crackedConnectionAlarm pkg pred vin => Sys2Proof.Machine.execCrackedConnectionAlarm pkg pred vin s
  | .pwralmAlarmClear pkg => Sys2Proof.Machine.execPwralmAlarmClear pkg s
  | .monitorReport pkg hearth temp mv x => Sys2Proof.Machine.execMonitorReport pkg hearth temp mv x s
  | .powerStateEntry pkg => Sys2Proof.Machine.execPowerStateEntry pkg s
  | .powerStateWake pkg => Sys2Proof.Machine.execPowerStateWake pkg s
  | .deviceReset pkg step bytes => Sys2Proof.Machine.execDeviceReset pkg step bytes s
  | .attestationStart pkg => Sys2Proof.Machine.execAttestationStart pkg s
  | .attestationComplete pkg => Sys2Proof.Machine.execAttestationComplete pkg s
  | .mirmorStop tid => Sys2Proof.Machine.execMirmorStop tid s
  | .mirmorResume tid => Sys2Proof.Machine.execMirmorResume tid s
  | .mirmorStep tid => Sys2Proof.Machine.execMirmorStep tid s
  | .mirmorHalt pkg => Sys2Proof.Machine.execMirmorHalt pkg s
  | .mirmorRelease pkg => Sys2Proof.Machine.execMirmorRelease pkg s
  | .brkstopOn pkg grp => Sys2Proof.Machine.execBrkstopOn pkg grp s
  | .brkstopOff pkg grp => Sys2Proof.Machine.execBrkstopOff pkg grp s
  | .mirmorThreadRecordWrite pkg off v => Sys2Proof.Machine.execMirmorThreadRecordWrite pkg off v s
  | .trctlWrite pkg v => Sys2Proof.Machine.execTrctlWrite pkg v s
  | .acctFreeze cid v => Sys2Proof.Machine.execAcctFreeze cid v s
  | .acctZero cid => Sys2Proof.Machine.execAcctZero cid s
  | .registerWrite pkg off v => Sys2Proof.Machine.execRegisterWrite pkg off v s
  | .tlbiCompletion id => Sys2Proof.Machine.execTlbiCompletion id s
  | .statusAnswerArrival id => Sys2Proof.Machine.execStatusAnswerArrival id s
  | .switchWake die stage sw => Sys2Proof.Machine.execSwitchWake die stage sw s
  | .idleCycle cid => Sys2Proof.Machine.execIdleCycle cid s
  | .firmwareThreadStart f => Sys2Proof.Machine.execFirmwareThreadStart f s

end Sys2Proof.Machine
end

