-- ==== Sys2Proof/Machine/Pair.lean ====
section
/-! DEFINITION. Machine/Pair.lean: how a thread, a gang and a core issue pairs (09 R163 to R168; 12 R205 to R207; 13 R224,
R225), and which agent acts next (notes/assumptions/1.md). -/
namespace Sys2Proof.Machine

/-- The GUARD field of a C-R instruction; a C-I or C-B instruction has none (13 R224). -/
def cGuard : Instr → Fin 8
  | .cnop g | .calli _ g | .ret _ g | .jmpi _ g | .exit g | .eret g | .ifence g | .pfence g | .fence _ g | .add _ _ _ g |
    .sub _ _ _ g | .andC _ _ _ g | .orC _ _ _ g | .xorC _ _ _ g | .andn _ _ _ g | .mul _ _ _ g | .mulhs _ _ _ g |
    .mulhu _ _ _ g | .divs _ _ _ g | .divu _ _ _ g | .rems _ _ _ g | .remu _ _ _ g | .shl _ _ _ g | .shr _ _ _ g |
    .sha _ _ _ g | .rotr _ _ _ g | .mins _ _ _ g | .maxs _ _ _ g | .minu _ _ _ g | .maxu _ _ _ g | .clz _ _ g | .ctz _ _ g |
    .popc _ _ g | .brev _ _ g | .sextB _ _ g | .sextH _ _ g | .sextW _ _ g | .zextB _ _ g | .zextH _ _ g | .zextW _ _ g |
    .mov _ _ g | .sel _ _ _ _ g | .lea _ _ _ _ g | .cmpEq _ _ _ g | .cmpNe _ _ _ g | .cmpLt _ _ _ g | .cmpGe _ _ _ g |
    .cmpLtu _ _ _ g | .cmpGeu _ _ _ g | .bext _ _ _ g | .bextS _ _ _ g | .bins _ _ _ g | .tremit _ g | .rpush _ g |
    .rpop _ g | .ctxs _ _ _ g | .ctxsResume _ _ _ g | .ctxsSize _ _ g | .aadd _ _ _ _ g | .afadd _ _ _ _ g |
    .amin _ _ _ _ g | .amax _ _ _ _ g | .aand _ _ _ _ g | .aor _ _ _ _ g | .axor _ _ _ _ g | .axchg _ _ _ _ g |
    .acas _ _ _ _ g | .lock _ g | .lockStatus _ _ g | .unlock _ g | .unlockStatus _ _ g | .nadd _ _ _ g | .ncas _ _ _ g |
    .mzeroFlt _ g | .mzeroInt _ g | .mstat _ g | .flue _ g | .send _ _ _ g | .sendT _ _ _ g | .recv _ _ _ g |
    .recvs _ _ _ _ g | .waitm _ _ _ _ g | .putr _ _ _ g | .pclr _ g | .ptst _ _ g | .qunbind _ g | .qpop _ _ g |
    .qpush _ _ g | .qstat _ _ g | .qfwd g | .qseam _ g | .qinherit _ _ g | .markret g | .pand _ _ _ g | .por _ _ _ g |
    .pxor _ _ _ g | .pnot _ _ g | .pmov _ _ g | .bar _ _ g | .bara _ _ _ g | .barw _ _ _ g | .emb _ g | .embHearth _ g |
    .gang _ g | .gangw g | .disband g | .tqpush _ _ _ g | .tqpop _ _ g | .tqpeek _ _ g | .sleep _ _ _ _ g |
    .sleepW _ _ _ _ g | .timer _ _ g | .timerAbs _ _ g | .timerOff _ g | .mfs _ _ g | .mts _ _ g | .segld _ _ g |
    .segst _ _ g | .tlbi _ _ g | .pgrep _ g | .pgrepFail _ g => g
  | _ => 0

/-! ### One pair -/

/-- What stopped an instruction. -/
def stopOf : Out → Option Stop
  | .next s => s.iss.stop
  | _ => none

/-- Place of a stop in the order of 12 R207: waits come before every cause (09 R163), and what parks its pair unissued comes after the
other slot's causes, as the last of its own instruction's steps. -/
def stopRank : Stop → Nat
  | .wait _ | .vanish => 0
  | .trap 0x01 _ => 1
  | .trap 0x02 _ => 2
  | .brk | .trap 0x0D _ => 3
  | .trap 0x0C _ => 4
  | .trap 0x0A _ => 5
  | .trap 0x03 _ => 6
  | .trap 0x04 _ => 7
  | .trap 0x05 _ => 8
  | .walk _ => 9
  | .mark _ => 10
  | .trap 0x08 _ => 11
  | .trap 0x0B _ => 12
  | .trap 0x11 _ => 13
  | .trap 0x07 _ => 14
  | .trap _ _ => 15
  | .park _ _ => 16

/-- Continues with a next state. -/
def andThen (o : Out) (f : State → Out) : Out :=
  match o with
  | .next s => f s
  | .fault x => .fault x
  | .refused x => .refused x

/-- Draws that a C slot takes: AFADD's under SR (15 R253, 18 R325). -/
def State.drawsOf (s : State) : Instr → Nat
  | .afadd _ _ _ _ _ => if modeOf s.src.rm = .sr then 1 else 0
  | _ => 0

/-- The bytes that a load, an atomic or a full/empty access touches. -/
def Item.touches : Item → List (Nat × Nat)
  | .access a => a.span
  | .sync a => [(a.key, 8)]
  | _ => []

/-- Runs of bytes differ between two states. -/
def State.differs (s u : State) (l : List (Nat × Nat)) : Bool :=
  l.any fun r => decide (u.load r.1 r.2 ≠ s.load r.1 r.2) || u.poisoned r.1 r.2 != s.poisoned r.1 r.2

/-- An access may be performed now. -/
def State.ready (s : State) (id : Nat) : Bool :=
  match s.item id with
  | some (.access a) => s.performable id a
  | some (.sync a) => s.syncReady id a
  | _ => true

/-- An access is performed at once, on the memory as it stood before the pair. -/
def State.performedOn (s u : State) (id : Nat) : Out :=
  let x := { u with mem := s.mem, poison := s.poison }
  andThen (match u.item id with
    | some (.access _) => execMemoryAccessAtHome id x
    | some (.sync _) => execSyncAccessArrival id x
    | _ => .next x) fun x => .next { x with mem := u.mem, poison := u.poison }

/-- Both slots take effect on what stood before the pair: `sc` and `sa` are what each alone makes of it. Where the A slot writes a slot of
a LOCAL ring that the C slot's access reads, that access is performed as the pair issues, and sees nothing of the A slot (13 R225, 16
R279). -/
def State.runBoth (s : State) (c : Instr) (sc sa : State) : Out :=
  if !s.differs sa (((sc.item s.serial).map Item.touches).getD []) then exec c sa
  else if !sc.ready s.serial then .next (s.halted (.wait onMemory))
  else andThen (exec c sa) fun u => s.performedOn u sa.serial

/-- A pair of two slots: with a false guard it only advances; otherwise neither slot takes effect where one of them is
stopped, the earliest cause counting, the C slot's first, and two waits counting together (13 R224, R225; 12 R207; 10 R177); otherwise
both take effect. The C slot draws first (18 R325). -/
def State.runSlots (s : State) (c a : Instr) : Out :=
  if !s.guarded (cGuard c) then exec c s
  else
    let s := { s with iss := { s.iss with cdraws := s.drawsOf c } }
    andThen (exec c s) fun sc =>
      andThen (exec a s) fun sa =>
        match sc.iss.stop, sa.iss.stop with
        | none, none => s.runBoth c sc sa
        | some _, none => .next sc
        | none, some _ => .next sa
        | some (.wait x), some (.wait y) => .next (s.halted (.wait (x.and y)))
        | some x, some y => if stopRank y < stopRank x then .next sa else .next sc

def State.runPair (s : State) : Pair → Out
  | .lone i => exec i s
  | .slots c a => s.runSlots c a

/-- The issue context of a pair: `who` are the threads whose state it reads. -/
def State.begin (s : State) (w : Word) (who : List Nat) (ganged : Bool) : State :=
  { s with iss := { word := w, before := who.map fun t => (t, s.th t), mem := some s.mem, ganged := ganged } }

/-- Decodes and runs a fetched pair; one that does not decode traps with cause 0x01 (13 R225, R231). -/
noncomputable def State.runWord (s : State) (w : Word) : Out :=
  match decodePair w with
  | some p => s.runPair p
  | none => .next (s.halted (.trap 0x01 w))

/-- A stop that leaves the pair unissued. -/
def Stop.holds : Stop → Bool
  | .wait _ | .walk _ | .park _ _ => true
  | _ => false

def heldOut (o : Out) : Bool := (stopOf o).any Stop.holds

/-- The buffered pair has issued. -/
def State.popFetch (s : State) (tid : Nat) (old : Thread) : State :=
  s.updTh tid fun t => if t.fetch = old.fetch then { t with fetch := old.buffered.drop 1 } else t

/-- The flue thread has nothing to do: its core's mailboxes are empty, and no event of an engine or a mailbox awaits it (09 R166). -/
def State.flueIdle (s : State) (tid : Nat) : Bool :=
  let c := s.core (cidOf tid)
  decide (slotOf tid = 15) && c.mail.isEmpty && !c.event

/-- A LOCK of the thread that its die's waits hold back (15 R255). -/
def State.lockWaiting (s : State) (tid : Nat) : Bool := (s.ofThread tid).any fun p => s.lockHeld p.1

/-- A LOCK of the thread waits in its word's queue. -/
def State.lockQueued (s : State) (tid : Nat) : Bool := s.locks.any fun q => q.waiters.any fun w => decide (w.tid = tid)

/-- A TLBI of the thread that has not completed (20 R352). -/
def State.invalidating (s : State) (tid : Nat) : Bool :=
  (s.ofThread tid).any fun p => match p.2 with
    | .tlbi _ _ _ _ => true
    | _ => false

/-- The last pair is not over: its rotation waits, or its TLBI has not completed (13 R226; 20 R352). -/
def State.lingers (s : State) (tid : Nat) : Bool := (s.th tid).rotate.isSome || s.invalidating tid

/-- What holds a thread back whatever its next pair is: a LOCK in its word's queue, one that waits at the home for room in a queue (15
R255), and of the flue thread empty mailboxes (09 R166). -/
def State.blocked (s : State) (tid : Nat) : Option Stop :=
  if s.lockQueued tid then some (.park .lock ⟨.msg, 4, none, none⟩)
  else if s.lockWaiting tid then some (.wait ⟨.msg, 8, none, none⟩)
  else if s.flueIdle tid then some (.park .flue ⟨.msg, 8, none, none⟩)
  else none

/-- The thread has issued within the last 3 cycles of its core (09 R163); one that has taken the slot since has not (State.seat). -/
def State.spaced (s : State) (tid : Nat) : Bool := (s.core (cidOf tid)).recent.contains (some (slotOf tid))

/-- A RUNNABLE thread that waits on its spacing alone is PASSED (09 R165). -/
def onSpacing : Waiting := ⟨.passed, 1, none, none⟩

/-- The wait of a thread whose spacing is not over: its slot is PASSED whatever its next pair waits on too, as the traced case of 09 R165
has it, and that pair's own wait gives the row of 10 R177. -/
def spacingWait (o : Out) : Waiting :=
  match stopOf o with
  | some (.wait w) => { w with cls := .passed, ring := none }
  | _ => onSpacing

/-- A thread that Mirmor lets issue one pair stops after it (28 R395). -/
def State.afterStep (s : State) (tid : Nat) : State :=
  let t := s.th tid
  if t.stepping && !t.exited && t.slot ≠ .vacant then s.stopAt tid else s

/-- A pair has issued: the buffer moves on, and the flue thread has seen its events. -/
def State.issuedBy (s : State) (tid : Nat) (old : Thread) : State :=
  let s := s.popFetch tid old
  let s := if slotOf tid = 15 then s.setCore (cidOf tid) { s.core (cidOf tid) with event := false } else s
  s.afterStep tid

/-- One attempt of a thread outside a gang to issue: a boundary cause first, then the fetch and the pair's own checks, with the
timer's cause before them once nothing holds the pair back (12 R207; 05 R110). -/
noncomputable def State.attemptNow (s : State) (tid : Nat) : Out :=
  let s := { s with cur := tid, iss := {} }
  let t := s.me
  match s.lingers tid, t.boundary, s.blocked tid with
  | true, _, _ => .next (s.halted (.wait onMemory))
  | false, some b, _ => .next (s.takeBoundary tid b)
  | false, none, some st => .next (s.halted st)
  | false, none, none =>
    let old := match s.fetchPair with
      | .ok (s, _) => s.me
      | .error _ => t
    let r :=
      match t.pageFail with
      | some ea => .next (s.halted (.trap 0x11 ea))
      | none =>
        match s.fetchPair with
        | .error st => .next ((s.fetchFailed st).halted st)
        | .ok (s, w) => (s.begin w [tid] false).runWord w
    if t.timerDue s.time then
      match stopOf r with
      | some (.wait _) => r
      | _ => .next (s.takeTimer tid)
    else if heldOut r then r
    else andThen r fun s => .next (s.issuedBy tid old)

/-- The attempt, once at least 4 cycles have passed since the thread last issued (09 R163). -/
noncomputable def State.attempt (s : State) (tid : Nat) : Out :=
  let r := s.attemptNow tid
  if s.spaced tid then .next ({ s with cur := tid, iss := {} }.halted (.wait (spacingWait r))) else r

/-! ### One gang (09 R168, R169) -/

/-- What holds a member back before the pair: its own boundary causes end the gang first. -/
noncomputable def State.memberRun (s : State) (tid : Nat) (w : Word) : Out :=
  let s := { s with cur := tid, iss := { s.iss with stop := none, flags := 0, cdraws := 0 } }
  match s.me.pageFail with
  | some ea => .next (s.halted (.trap 0x11 ea))
  | none => s.runWord w

/-- Every member is in the rotation. -/
def State.gangUp (s : State) (ms : List Nat) : Bool := ms.all fun m => (s.th m).issuing

/-- What holds members back whatever their next pair is. -/
def State.gangBlocked (s : State) (ms : List Nat) : List (Nat × Stop) :=
  ms.filterMap fun m => if s.lingers m then some (m, .wait onMemory) else (s.blocked m).map fun st => (m, st)

/-- The address of a thread's next pair: a rotation that is held back has its target (13 R226). -/
def Thread.nextPc (t : Thread) : Word :=
  match t.rotate with
  | some (.call target) | some (.ret target) => target
  | none => t.pc

/-- Whether a member takes the transfer of a pair, as it stood before the pair (09 R169). -/
def Thread.takes (t : Thread) (i : Instr) : Bool :=
  match i with
  | .brp p sense _ => t.pred p.val = sense
  | .loop c _ => decide (t.reg c.val ≠ 0) && decide (t.reg c.val ≠ 1)
  | .calli _ g | .ret _ g | .jmpi _ g | .markret g | .eret g => t.pred g.val
  | _ => true

/-- The C slot of a pair, or the lone instruction. -/
noncomputable def cSlot (w : Word) : Option Instr :=
  match decodePair w with
  | some (.lone i) => some i
  | some (.slots c _) => some c
  | none => none

/-- Every member takes the pair's transfer, or none does. -/
noncomputable def State.agree (s : State) (w : Word) (ms : List Nat) : Bool :=
  match cSlot w with
  | none => true
  | some i => (ms.all fun m => (s.th m).takes i) || ms.all fun m => !(s.th m).takes i

/-- The gang is over: every member continues alone. -/
def State.disband (s : State) (ms : List Nat) : State := ms.foldl (fun (s : State) m => s.updTh m fun t => { t with gang := none }) s

/-- The gang goes on only while every member stands at one PC, and none has ended (09 R169). -/
def State.gangKeep (s : State) (leader : Nat) (ms : List Nat) : State :=
  if ms.all fun m => decide ((s.th m).nextPc = (s.th leader).nextPc) && !(s.th m).exited then s else s.disband ms

/-- Members that wait are noted as waiting. -/
def State.noteAll (s : State) (l : List (Nat × Stop)) : State :=
  l.foldl (fun (s : State) (p : Nat × Stop) => { s with cur := p.1 }.halted p.2) s

/-- A pair that the leader cannot fetch, and that its pager has answered with FAIL, traps in the leader (02 R54, 09 R169). -/
def State.fetchStop (s : State) (leader : Nat) (st : Stop) : Stop :=
  match (s.th leader).pageFail with
  | some ea => .trap 0x11 ea
  | none => st

/-- One attempt of a gang: a member's boundary cause ends it; a member that waits holds every member back; otherwise each member
runs the pair on its own state. -/
noncomputable def State.attemptGangNow (s : State) (leader : Nat) (ms : List Nat) : Out :=
  let s := { s with cur := leader, iss := {} }
  match s.gangBlocked ms, ms.findSome? fun m => (s.th m).boundary.map fun b => (m, b) with
  | w :: ws, _ => .next (s.noteAll (w :: ws))
  | [], some (m, b) => .next (s.takeBoundary m b)
  | [], none =>
    match s.fetchPair with
    | .error st => .next ((s.fetchFailed st).halted (s.fetchStop leader st))
    | .ok (s, w) =>
      let s := s.begin w ms true
      let outs := ms.map fun m => (m, s.memberRun m w)
      match outs.filter fun p => heldOut p.2 with
      | [] =>
        match ms.find? fun m => (s.th m).timerDue s.time with
        | some m => .next ({ s with iss := {} }.takeTimer m)
        | none =>
          andThen (ms.foldl (fun o m => andThen o fun s => s.memberRun m w) (.next s)) fun s' =>
            let s' := (s'.popFetch leader (s.th leader)).gangKeep leader ms
            .next (ms.foldl (fun (s : State) m => s.afterStep m) (if s.agree w ms then s' else s'.disband ms))
      | held => .next (s.noteAll (held.filterMap fun p => (stopOf p.2).map fun st => (p.1, st)))

/-- The attempt, once every member's spacing is over; a member whose spacing is not over is PASSED, as a thread alone is (09 R165). -/
noncomputable def State.attemptGang (s : State) (leader : Nat) (ms : List Nat) : Out :=
  let r := s.attemptGangNow leader ms
  match ms.filter s.spaced with
  | [] => r
  | l => .next ({ s with iss := {} }.noteAll (l.map fun m => (m, .wait (spacingWait r))))

/-! ### One core (09 R164, R165, R168) -/

/-- Notes for one thread whether its next pair is held back, and by what. -/
noncomputable def State.noteThread (s : State) (tid : Nat) : State :=
  if !(s.th tid).alone then s
  else
    match s.attempt tid with
    | .next s' => if heldOut (.next s') then s'.cleared else s.updTh tid fun t => { t with wait := none }
    | _ => s.updTh tid fun t => { t with wait := none }

/-- Every member of a gang is ready. -/
noncomputable def State.gangReady (s : State) (g : Nat × List Nat) : Bool :=
  s.gangUp g.2 && !heldOut (s.attemptGang g.1 g.2)

/-- A gang goes in a cycle: it is ready, and no ready gang of lower slot shares a core with it (09 R168). -/
noncomputable def State.gangGoes (s : State) (g : Nat × List Nat) : Bool :=
  s.gangReady g && !(g.2.any fun m => (s.gangsOn (cidOf m)).any fun h => decide (slotOf h.1 < slotOf g.1) && s.gangReady h)

/-- Notes what holds a gang's members back, each by itself: a member that only another one holds back is ready and not chosen. -/
noncomputable def State.noteGang (s : State) (g : Nat × List Nat) : State :=
  g.2.foldl (fun (s : State) m =>
    if !(s.th m).issuing then s
    else
      let s := s.updTh m fun t => { t with wait := none }
      match s.attemptGang g.1 [m] with
      | .next s' => if heldOut (.next s') then s'.cleared else s
      | _ => s) s

/-- The core notes, for every slot, what holds its next pair back. -/
noncomputable def State.noted (s : State) (cid : Nat) : State :=
  (s.gangsOn cid).foldl State.noteGang ((s.rotation cid).foldl State.noteThread s)

/-- A pair has been begun; a boundary cause, the timer's, or a pair that cannot be fetched traps without one. -/
def State.ran (s : State) : Bool := !s.iss.before.isEmpty

/-- The cycle of an attempt ends on the cores of the threads that made it: each counts as issued only where a pair has been begun (09
R163, R165). -/
def State.endAttempt (s : State) (ms : List Nat) : State :=
  let issued := s.ran
  ms.foldl (fun (s : State) m => s.endCycle (cidOf m) (if issued then some m else none)) s

/-- One cycle of a core: a ready gang first, without moving the search pointer, then the first ready slot; otherwise an idle cycle
(09 R164, R165, R168). The answer tells whether a thread has made an attempt. -/
noncomputable def State.cycle (s : State) (cid : Nat) : Out × Bool :=
  let s := s.noted cid
  match (s.gangsOn cid).find? s.gangGoes with
  | some g =>
    let s := ((g.2.map cidOf).filter fun c => decide (c ≠ cid)).foldl State.noted s
    (andThen (s.attemptGang g.1 g.2) fun s => .next (s.endAttempt g.2), true)
  | none =>
    match s.pick cid with
    | some t =>
      (andThen (s.attempt t) fun s =>
        .next ((if s.ran then s.setCore cid { s.core cid with last := slotOf t } else s).endAttempt [t]), true)
    | none => (.next (s.endCycle cid none), false)

/-! ### Which agent acts next -/

/-- The state in which an event occurs: before an idle cycle the core notes what holds its slots back. -/
noncomputable def State.seen (s : State) (i : Instr) : State :=
  match i with
  | .idleCycle c => s.noted c
  | _ => s

/-- The acts of a turn. -/
noncomputable def State.turn (s : State) : Turn → Out
  | .core c => (s.cycle c).1
  | .event i => exec i (s.seen i)
  | .time ns => .next (s.passTime ns)
  | .prefetch t => .next (s.prefetch t)

/-- The next core after `c` in thread order that has a thread in a slot. -/
def State.nextCore (s : State) (c : Nat) : Nat :=
  let cs := (s.threads.filter fun p => decide (p.1 < 2 ^ 25)).map fun p => cidOf p.1
  match cs.find? (fun x => decide (c < x)) with
  | some x => x
  | none => cs.headD c

/-- The event that moves an item in flight on. -/
def State.itemEvent (s : State) (id : Nat) : Item → Out
  | .access _ => execMemoryAccessAtHome id s
  | .reply _ | .result _ _ _ => execLoadReply id s
  | .put _ _ _ => execPutArrival id s
  | .ack _ _ _ => execPutAcknowledgement id s
  | .regPut _ _ _ _ _ => execRemoteRegisterWrite id s
  | .deliver _ => execDeliveryLanding id s
  | .sync _ => execSyncAccessArrival id s
  | .refused _ => execSyncReissue id s
  | .sending _ _ => execSendDeparture id s
  | .message _ => execInboxArrival id s
  | .waiting _ _ => execInboxRetry id s
  | .record _ _ _ _ _ _ => execRingRecordArrival id s
  | .credit _ _ _ _ => execRingCreditReturn id s
  | .move _ => execTileMoveCompletion id s
  | .plane _ => execPlaneCompletion id s
  | .engine _ _ | .coll _ _ _ => execCompletionMessage id s
  | .matrixDone _ _ _ => execMatrixCommandCompletion id s
  | .walk _ => execTableWalk id s
  | .fault _ _ => execFaultMessage id s
  | .pager _ _ _ => execPagerReply id s
  | .hardware k _ => .next (s.hardware k id)
  | .tlbi _ _ _ _ => execTlbiCompletion id s
  | .status _ _ _ | .bind _ _ _ _ _ _ _ => execStatusAnswerArrival id s

/-- A packet's next switch: it wakes where it is powered down, and otherwise forwards. -/
def State.packetEvent (s : State) (die : Nat) (p : Packet) : Out :=
  let sw := shuffle p.line / 2
  if (s.die die).off.contains (switchNo p.stage sw) then execSwitchWake die p.stage sw s
  else execFarNetForward die p.stage sw p.out s

/-- Events of one thread. -/
def State.threadEvents (s : State) (tid : Nat) : List Out :=
  let t := s.th tid
  (if t.sb.isEmpty then [] else [execStoreDrain tid s]) ++
    (if t.exited then [execSlotVacate tid s] else []) ++
    (match t.park with
      | .barrier _ _ => [execBarrierRelease tid s]
      | _ => []) ++
    (if t.drain.isSome then [execDrainThrough tid s] else []) ++
    (if t.inheriting then [execInheritanceCopy tid s] else []) ++
    (((List.range 8).filter fun q => (t.ring q).merge.isSome).map fun q => execSeamTake tid q s) ++
    (if 0 < t.sys.depth then [execWindowFill tid s, execWindowSpill tid s] else []) ++
    (if t.sys.timer.getLsbD 63 then [execTimerExpiry tid s] else []) ++
    (if t.awaitsNeighbour then [execXldTimeout tid s] else [])

/-- Events of one package: what the dispatcher does, and the bellows unit. -/
def State.pkgEvents (s : State) (pkg : Nat) : List Out :=
  let gs := (s.pkg pkg).groups.map (·.1)
  gs.map (fun g => execGroupRetirement pkg g s) ++ gs.map (fun g => execPreemption pkg g s) ++
    gs.map (fun g => execGroupResume pkg g s) ++ [execDispatcherRanking pkg s, execEmberRedistribution pkg s]

/-- What the machine may do beside its cores' cycles, in the order in which the model tries it (notes/assumptions/1.md). -/
def State.events (s : State) : List Out :=
  s.flight.map (fun p => s.itemEvent p.1 p.2) ++
    (s.dies.map fun (d : Nat × Die) => (d.2.packets.filter fun p => decide (p.stage < 7)).map fun p => s.packetEvent d.1 p).flatten ++
    (s.threads.map fun p => s.threadEvents p.1).flatten ++
    ((s.cores.filter fun c => !c.2.queue.isEmpty).map fun c => execMatrixBlock (c.1 / 8) s) ++
    (s.pkgs.map fun p => s.pkgEvents p.1).flatten

/-- An event that changes something. -/
def State.acts (s : State) (o : Out) : Bool :=
  match o with
  | .next s' => decide (s' ≠ s)
  | _ => true

/-- The first event that changes anything. -/
def State.background (s : State) : Out := (s.events.find? s.acts).getD (.next s)

/-- With an empty agenda, the core in focus takes a cycle and the next core comes into focus; where no pair issues, an event
occurs; and TIME goes on. -/
noncomputable def State.auto (s : State) : Out :=
  let r := s.cycle s.focus
  andThen r.1 fun s' =>
    let s' := { s' with focus := s'.nextCore s.focus }.passTime 1
    if r.2 then .next s' else s'.background

/-- A thread in slot 0 of the first core with `pair` in its fetch buffer, its core in focus. -/
def State.loaded (s : State) (pair : Word) : State :=
  let s := { s with agenda := [.core (cidOf s.cur)] }
  s.updMe fun t => { t with slot := .runnable, exited := false, park := .none, gang := none, fetch := [(t.pc, pair)] }

end Sys2Proof.Machine
end

