-- ==== Sys2Proof/Machine/Step.lean ====
section
/-! DEFINITION. Machine/Step.lean: one step of the machine. -/
namespace Sys2Proof.Machine

/-- One step: the agent that the agenda names acts; with an empty agenda, the machine's own choice (notes/assumptions/1.md). -/
noncomputable def step (s : State) : Host.Outcome State Fault Refusal :=
  match s.agenda with
  | t :: rest => State.turn { s with agenda := rest } t
  | [] => s.auto

/-- The state in which the very next step fetches and runs the instruction whose bits the opcode table numbers as `w`
(notes/assumptions/2.md). -/
noncomputable def State.withFetchWord (s : State) (nbits w : Nat) : State := s.loaded (tablePair nbits w)

end Sys2Proof.Machine
end

