-- ==== Sys2Proof/Safety.lean ====
section
/-! DEFINITION. Safety.lean: the terms in which claims speak of a run and of one step: what is ready, what an instruction leaves
alone, and what a safe run is. -/
namespace Sys2Proof.Machine

/-! ### Runs -/

/-- A run of `k` steps that neither faults nor is refused. -/
def SafeRun (k : Nat) (s : State) : Prop := ∃ t, Host.Core.run Sys2Proof.core k s = .next t

/-- A state that some number of steps from `s` reaches. -/
def Reaches (s t : State) : Prop := ∃ k, Host.Core.run Sys2Proof.core k s = .next t

/-! ### Readiness (05 R95, R104; 09 R163) -/

/-- A source is ready: a scalar register is present and not busy, a vector register is not busy, and slot `k` of a LOCAL or IN
ring lies below the capacity and below FILLED, with no SEAM that the hardware takes, no inheritance outstanding and, of an IN ring, no
acquire or atomic outstanding, no older load that it must follow and no buffered store that it overlaps in part. -/
def State.SrcReady (s : State) : Place → Prop
  | .reg i => s.src.present.getLsbD i = true ∧ s.src.busy.getLsbD i = false
  | .vec i => s.src.vbusy.getLsbD i = false
  | .slot q k =>
    ((s.src.ring q).kind = .loc ∨ (s.src.ring q).kind = .inn) ∧ k < (s.src.ring q).cap ∧ k < (s.src.ring q).filled ∧
      ((s.src.ring q).kind = .inn → s.acquiring s.cur = false ∧ s.atomicPending s.cur = false ∧
        s.readsNow ((s.src.ring q).slotKey ((s.src.ring q).head + k)) (s.src.ring q).size = true ∧
        s.slotForward (s.src.ring q) ((s.src.ring q).head + k) ≠ .part) ∧
      (q = 0 → s.src.inheriting = false) ∧ s.seamAtHead (s.src.ring q) = false ∧ s.drainAtHead s.src q = false
  | .pred _ | .mask _ => True

/-- A destination is ready: no register that is busy or awaits a delivery, and a LOCAL or OUT slot with room, whose binding has been
answered. -/
def State.DstReady (s : State) : Place → Prop
  | .reg i => s.src.busy.getLsbD i = false ∧ s.src.pend.getLsbD i = false
  | .vec i => s.src.vbusy.getLsbD i = false
  | .slot q k =>
    ((s.src.ring q).kind = .loc ∨ (s.src.ring q).kind = .out) ∧ k < (s.src.ring q).cap ∧
      k < (if (s.src.ring q).kind = .out then (s.src.ring q).free else (s.src.ring q).cap - (s.src.ring q).filled) ∧
      s.binding q = false
  | .pred _ | .mask _ => True

/-- Reading a slot raises nothing: it is unmarked or the thread is mark-active, and it is untyped or its TX bit is the thread's
(01 R25, 05 R107). -/
def State.SlotPlain (s : State) : Place → Prop
  | .slot q k =>
    let r := s.src.ring q
    let b := r.slotBits (r.head + k)
    (b.mark = false ∨ s.src.markActive = true) ∧ (b.typed = false ∨ b.tx = s.src.tx)
  | _ => True

/-- Every source and destination of an instruction is ready, and no slot it reads raises anything. -/
def State.Ready (s : State) (rs ws : List Place) : Prop :=
  (∀ p ∈ rs, s.SrcReady p ∧ s.SlotPlain p) ∧ ∀ p ∈ ws, s.DstReady p

/-! ### How an instruction completes -/

/-- A pair that has had its effect `t` and moves on to the next. -/
def past (t : State) : Out := .next t.advance

/-- A scalar result is written and the PC moves past the pair. -/
def State.delivers (s : State) (d : SOpd) (w : Word) : Out := past (s.writeS d w)

/-- A register result is written and the PC moves past the pair. -/
def State.deliversX (s : State) (d : XReg) (w : Word) : Out := past (s.writeX d w)

/-- A predicate is written and the PC moves past the pair. -/
def State.decides (s : State) (d : PReg) (b : Bool) : Out := past (s.updMe fun t => t.setPred d.val b)

/-- What an A-slot result does beside its destination: its flags are ORed into FLAGS and its draws are counted. -/
def State.flagged (s : State) (flags draws : Nat) : State := (s.orFlags flags).drew draws

/-- No raised flag is enabled (01 R29). -/
def State.Quiet (s : State) (flags : Nat) : Prop := flags &&& s.src.fe = 0

/-- A scalar floating result is written, zero-extended; the C slot of the pair moves the PC (17 R285). -/
def State.floats (s : State) (d : SOpd) (r : Rounded) : Out :=
  .next ((s.writeS d (BitVec.ofNat 64 r.code)).flagged r.flags r.draws)

/-- The same with a latency above 4: a register is busy until the result lands (09 R162, 17 R286). -/
def State.floatsLate (s : State) (d : SOpd) (r : Rounded) : Out :=
  .next ((s.resultS d (BitVec.ofNat 64 r.code)).flagged r.flags r.draws)

/-- A vector result is written (18 R305); `typed` marks a slot of E4 or E5 (05 R103). -/
def State.vectors (s : State) (d : VOpd) (r : VRes) (typed : Bool := false) : Out :=
  .next ((s.writeV d r.val typed).flagged r.flags r.draws)

/-- The same with a latency above 4 (18 R306). -/
def State.vectorsLate (s : State) (d : VOpd) (r : VRes) : Out :=
  .next ((s.resultV d r.val).flagged r.flags r.draws)

/-! ### Accesses that leave their thread -/

/-- No undelivered acquire and no unperformed atomic holds the thread's later accesses back (08 R150, R152). -/
def State.Open (s : State) : Prop := s.acquiring s.cur = false ∧ s.atomicPending s.cur = false

/-- An access leaves its thread with its destination busy, and the PC moves past the pair (09 R162). -/
def State.departs (s : State) (a : Access) : Out := past ((s.occupy a.dst).depart a)

/-- A check of 02 R42 that fails for `n` bytes at `ea`, the first in its order: the cause it gives. -/
def Thread.Denied (t : Thread) (ea : Word) (n : Nat) (r : Rights) (al c : Nat) : Prop :=
  let w0 := (t.seg (Fld ea 63 61)).1
  let w1 := (t.seg (Fld ea 63 61)).2
  let o := ea.toNat % 2 ^ 61
  let outside : Prop := Fld w1 60 0 ≤ o + n - 1 ∨ 2 ^ 52 ≤ Fld w0 51 16 * 2 ^ 16 + o + n - 1
  let lacks : Prop := (r.rd = true ∧ w0.getLsbD 0 = false) ∨ (r.w = true ∧ w0.getLsbD 1 = false) ∨
    (r.x = true ∧ w0.getLsbD 2 = false) ∨ (r.a = true ∧ w0.getLsbD 3 = false) ∨ (r.s = true ∧ w0.getLsbD 4 = false)
  (c = 0x03 ∧ outside) ∨ (c = 0x04 ∧ ¬outside ∧ lacks) ∨ (c = 0x05 ∧ ¬outside ∧ ¬lacks ∧ ea.toNat % al ≠ 0)

/-! ### Frames -/

/-- Everything but the threads and the issue context is as before. -/
def State.OnlyThreads (s t : State) : Prop := t = { s with threads := t.threads, iss := t.iss }

/-- Every thread but the issuing one is as before. -/
def State.OthersKept (s t : State) : Prop := ∀ u, u ≠ s.cur → t.th u = s.th u

/-- Memory reads as before at every key outside a run of `n` bytes from `k`. -/
def State.MemKept (s t : State) (k n : Nat) : Prop :=
  ∀ a, a < k ∨ k + n ≤ a → readByte t.mem a = readByte s.mem a

end Sys2Proof.Machine

/-- The rows of the table that are events: no word encodes them. -/
def Sys2Proof.Instr.isEvent : Sys2Proof.Instr → Bool
  | .boundaryTrap _ | .timerExpiry _ | .xldTimeout _ | .tableWalk _ | .faultMessage _ | .pagerReply _ |
    .eccUncorrectableError _ | .softError _ | .farNetForward _ _ _ _ | .switchPowerDown _ _ _ | .memoryAccessAtHome _ |
    .loadReply _ | .putArrival _ | .putAcknowledgement _ | .remoteRegisterWrite _ | .deliveryLanding _ |
    .syncAccessArrival _ | .syncRetryTick | .syncReissue _ | .storeDrain _ | .sendDeparture _ | .inboxArrival _ |
    .inboxRetry _ | .ringRecordArrival _ | .ringCreditReturn _ | .seamTake _ _ | .drainThrough _ | .inheritanceCopy _ |
    .spliceMessage _ | .windowSpill _ | .windowFill _ | .tileMoveCompletion _ | .planeCompletion _ | .completionMessage _ |
    .collTimeout _ | .matrixBlock _ | .matrixCommandCompletion _ | .matrixRampDown _ | .hintedRampUp _ | .barrierRelease _ |
    .emberRedistribution _ | .waitCycle _ | .opChange _ | .ceilLower _ | .ceilRaise _ | .opthrWrite _ _ _ | .ceilWrite _ _ |
    .bstatCycClear _ | .qrecCommit _ _ _ | .dispatcherRanking _ | .slotVacate _ | .groupRetirement _ _ |
    .completionCounterWrite _ _ _ | .preemption _ _ | .groupResume _ _ | .ctxsResultMessage _ | .hostWrite _ _ _ _ |
    .hostRead _ _ _ _ | .tenantRefused _ | .fabricDown _ | .powerAlarm _ | .flitRetransmit _ _ | .linkLoss _ _ |
    .linkRestore _ _ | .ftmoExpiry _ _ | .crackedConnectionAlarm _ _ _ | .pwralmAlarmClear _ | .monitorReport _ _ _ _ _ |
    .powerStateEntry _ | .powerStateWake _ | .deviceReset _ _ _ | .attestationStart _ | .attestationComplete _ |
    .mirmorStop _ | .mirmorResume _ | .mirmorStep _ | .mirmorHalt _ | .mirmorRelease _ | .brkstopOn _ _ | .brkstopOff _ _ |
    .mirmorThreadRecordWrite _ _ _ | .trctlWrite _ _ | .acctFreeze _ _ | .acctZero _ | .registerWrite _ _ _ |
    .tlbiCompletion _ | .statusAnswerArrival _ | .switchWake _ _ _ | .idleCycle _ | .firmwareThreadStart _ => true
  | _ => false
end

