-- ==== Sys2Proof/Certificates/Slice0/Obligations.lean ====
section
/-! DEFINITION. Certificates/Slice0/Obligations.lean: the statements for the provers. Each docstring names the rules of spec/ that
its statement rests on; an entry of notes/assumptions/ is named where a clause rests on one. -/
open Sys2Proof Sys2Proof.Machine

/-- With a true guard and ready operands, ADD, SUB, AND, OR, XOR, ANDN, MUL, MULHS, MULHU, SHL, SHR, SHA, ROTR, MINS,
MAXS, MINU, MAXU, SEL, LEA, BEXT and BEXT.S write the result of the table to d, taken modulo 2^64, and the PC moves
past the pair. With a true guard where the form has one and ready operands, MOV, the SEXT and ZEXT forms, CLZ, CTZ,
POPC, BREV, ADDI, ANDI, ORI, XORI, SHLI, SHRI, SHAI and MOVI write the result of the table to d, and the PC moves past
the pair: CLZ gives the number of zero bits above the highest set bit, CTZ the number below the lowest, each 64 for 0,
POPC the number of set bits, BREV the bits in reversed order. With ready operands, BINS (guard true) delivers d with
bits [min(pos + w − 1, 63) : pos] replaced by the low bits of s1; MOVW writes the sign-extended 48-bit immediate;
MOVW.HI reads d and replaces its bits [63:48]; the PC moves past the pair (R287, R288, R290, R218, R292). -/
def Obligations.ScalarTable : Prop :=
  (∀ (s : State) (d a b : SOpd) (g : Fin 8), s.guarded g = true → s.Ready [a.place, b.place] [d.place] →
    let x := s.readS a
    let y := s.readS b
    let pos := y.toNat % 64
    let w := y.toNat / 256 % 64 + 1
    exec (.add d a b g) s = s.delivers d (x + y) ∧
    exec (.sub d a b g) s = s.delivers d (x - y) ∧
    exec (.andC d a b g) s = s.delivers d (x &&& y) ∧
    exec (.orC d a b g) s = s.delivers d (x ||| y) ∧
    exec (.xorC d a b g) s = s.delivers d (x ^^^ y) ∧
    exec (.andn d a b g) s = s.delivers d (x &&& ~~~y) ∧
    exec (.mul d a b g) s = s.delivers d (BitVec.ofNat 64 (x.toNat * y.toNat)) ∧
    exec (.mulhs d a b g) s = s.delivers d (BitVec.ofInt 64 (x.toInt * y.toInt / 2 ^ 64)) ∧
    exec (.mulhu d a b g) s = s.delivers d (BitVec.ofNat 64 (x.toNat * y.toNat / 2 ^ 64)) ∧
    exec (.shl d a b g) s = s.delivers d (BitVec.ofNat 64 (x.toNat * 2 ^ pos)) ∧
    exec (.shr d a b g) s = s.delivers d (BitVec.ofNat 64 (x.toNat / 2 ^ pos)) ∧
    exec (.sha d a b g) s = s.delivers d (BitVec.ofInt 64 (x.toInt / 2 ^ pos)) ∧
    exec (.rotr d a b g) s = s.delivers d (x.rotateRight pos) ∧
    exec (.mins d a b g) s = s.delivers d (if x.toInt ≤ y.toInt then x else y) ∧
    exec (.maxs d a b g) s = s.delivers d (if x.toInt ≤ y.toInt then y else x) ∧
    exec (.minu d a b g) s = s.delivers d (if x.toNat ≤ y.toNat then x else y) ∧
    exec (.maxu d a b g) s = s.delivers d (if x.toNat ≤ y.toNat then y else x) ∧
    (∀ p : Fin 8, exec (.sel d a b p g) s = s.delivers d (if s.src.pred p.val then x else y)) ∧
    (∀ k : Fin 4, exec (.lea d a b k g) s = s.delivers d (BitVec.ofNat 64 (x.toNat + y.toNat * 2 ^ k.val))) ∧
    exec (.bext d a b g) s = s.delivers d (BitVec.ofNat 64 (x.toNat / 2 ^ pos % 2 ^ w)) ∧
    exec (.bextS d a b g) s = s.delivers d (signExtend64 w (x.toNat / 2 ^ pos))) ∧
  (∀ (s : State) (d a : SOpd) (g : Fin 8) (imm : BitVec 12) (n : Fin 64),
    s.guarded g = true → s.Ready [a.place] [d.place] →
    let x := s.readS a
    exec (.mov d a g) s = s.delivers d x ∧
    exec (.sextB d a g) s = s.delivers d ((x.setWidth 8).signExtend 64) ∧
    exec (.sextH d a g) s = s.delivers d ((x.setWidth 16).signExtend 64) ∧
    exec (.sextW d a g) s = s.delivers d ((x.setWidth 32).signExtend 64) ∧
    exec (.zextB d a g) s = s.delivers d (BitVec.ofNat 64 (x.toNat % 2 ^ 8)) ∧
    exec (.zextH d a g) s = s.delivers d (BitVec.ofNat 64 (x.toNat % 2 ^ 16)) ∧
    exec (.zextW d a g) s = s.delivers d (BitVec.ofNat 64 (x.toNat % 2 ^ 32)) ∧
    (∃ r : Word, exec (.clz d a g) s = s.delivers d r ∧ r.toNat ≤ 64 ∧ x.toNat < 2 ^ (64 - r.toNat) ∧
      (x ≠ 0 → 2 ^ (63 - r.toNat) ≤ x.toNat ∧ r.toNat ≤ 63) ∧ (x = 0 → r = 64)) ∧
    (∃ r : Word, exec (.ctz d a g) s = s.delivers d r ∧ r.toNat ≤ 64 ∧ (∀ i, i < r.toNat → x.getLsbD i = false) ∧
      (x ≠ 0 → x.getLsbD r.toNat = true) ∧ (x = 0 → r = 64)) ∧
    exec (.popc d a g) s = s.delivers d (BitVec.ofNat 64 ((List.range 64).countP fun i => x.getLsbD i)) ∧
    (∃ r : Word, exec (.brev d a g) s = s.delivers d r ∧ ∀ i, i < 64 → r.getLsbD i = x.getLsbD (63 - i)) ∧
    exec (.addi d a imm) s = s.delivers d (x + imm.signExtend 64) ∧
    exec (.andi d a imm) s = s.delivers d (x &&& imm.setWidth 64) ∧
    exec (.ori d a imm) s = s.delivers d (x ||| imm.setWidth 64) ∧
    exec (.xori d a imm) s = s.delivers d (x ^^^ imm.setWidth 64) ∧
    exec (.shli d a n) s = s.delivers d (BitVec.ofNat 64 (x.toNat * 2 ^ n.val)) ∧
    exec (.shri d a n) s = s.delivers d (BitVec.ofNat 64 (x.toNat / 2 ^ n.val)) ∧
    exec (.shai d a n) s = s.delivers d (BitVec.ofInt 64 (x.toInt / 2 ^ n.val)) ∧
    (s.Ready [] [d.place] → exec (.movi d imm) s = s.delivers d (imm.signExtend 64))) ∧
  ((∀ (s : State) (d a b : SOpd) (g : Fin 8), s.guarded g = true → s.Ready [a.place, b.place, d.place] [d.place] →
    let y := s.readS b
    let pos := y.toNat % 64
    let hi := min (pos + y.toNat / 256 % 64) 63
    ∃ r : Word, exec (.bins d a b g) s = s.delivers d r ∧ ∀ i, i < 64 →
      r.getLsbD i = if pos ≤ i ∧ i ≤ hi then (s.readS a).getLsbD (i - pos) else (s.readS d).getLsbD i) ∧
  (∀ (s : State) (d : XReg) (hi : BitVec 16) (lo : BitVec 32), s.Ready [] [.reg d.val] →
    exec (.movw d hi lo) s = s.deliversX d ((hi ++ lo).signExtend 64)) ∧
  ∀ (s : State) (d : XReg) (imm : BitVec 16), s.Ready [.reg d.val] [.reg d.val] →
    exec (.movwHi d imm) s = s.deliversX d (imm ++ (s.readX d).setWidth 48))

/-- With a true guard and ready operands: a divisor of 0 makes DIVS, DIVU, REMS and REMU trap with cause 0x07, TVAL
the pair, and nothing is written; otherwise DIVS delivers the quotient rounded toward zero, REMS s1 − q × s2 with that
quotient q, DIVU and REMU the unsigned quotient and remainder; DIVS of −2^63 by −1 delivers −2^63 and REMS of those
operands 0, and neither traps; the PC moves past the pair (R289). -/
def Obligations.Division : Prop :=
  ∀ (s : State) (d a b : SOpd) (g : Fin 8), s.guarded g = true → s.Ready [a.place, b.place] [d.place] →
    let x := s.readS a
    let y := s.readS b
    (y = 0 → ∀ i ∈ [Instr.divs d a b g, .divu d a b g, .rems d a b g, .remu d a b g],
      exec i s = .next (s.halted (.trap 0x07 s.iss.word))) ∧
    (y ≠ 0 →
      exec (.divs d a b g) s = past (s.resultS d (BitVec.ofInt 64 (x.toInt.tdiv y.toInt))) ∧
      exec (.rems d a b g) s = past (s.resultS d (BitVec.ofInt 64 (x.toInt - x.toInt.tdiv y.toInt * y.toInt))) ∧
      exec (.divu d a b g) s = past (s.resultS d (BitVec.ofNat 64 (x.toNat / y.toNat))) ∧
      exec (.remu d a b g) s = past (s.resultS d (BitVec.ofNat 64 (x.toNat % y.toNat)))) ∧
    (x = BitVec.ofInt 64 (-2 ^ 63) → y = BitVec.ofInt 64 (-1) →
      exec (.divs d a b g) s = past (s.resultS d (BitVec.ofInt 64 (-2 ^ 63))) ∧
      exec (.rems d a b g) s = past (s.resultS d 0))

/-- With a true guard where the form has one and ready operands, CMP.cc and CMPI.cc write to p(d) whether the
condition of the table holds of s1 and s2 or the sign-extended immediate; PAND, POR, PXOR, PNOT and PMOV write their
combination of the predicates as they stood before the pair; a write to p0 has no effect and p0 reads true; the PC
moves past the pair (R291, R293, R96). -/
def Obligations.ComparisonsWritePredicates : Prop :=
  (∀ (s : State) (d : PReg) (a b : SOpd) (g : Fin 8), s.guarded g = true → s.Ready [a.place, b.place] [] →
    let x := s.readS a
    let y := s.readS b
    exec (.cmpEq d a b g) s = s.decides d (decide (x = y)) ∧
    exec (.cmpNe d a b g) s = s.decides d (decide (x ≠ y)) ∧
    exec (.cmpLt d a b g) s = s.decides d (x.slt y) ∧
    exec (.cmpGe d a b g) s = s.decides d (y.sle x) ∧
    exec (.cmpLtu d a b g) s = s.decides d (x.ult y) ∧
    exec (.cmpGeu d a b g) s = s.decides d (y.ule x)) ∧
  (∀ (s : State) (d : PReg) (a : SOpd) (imm : BitVec 12), s.Ready [a.place] [] →
    let x := s.readS a
    let y := imm.signExtend 64
    exec (.cmpiEq d a imm) s = s.decides d (decide (x = y)) ∧
    exec (.cmpiNe d a imm) s = s.decides d (decide (x ≠ y)) ∧
    exec (.cmpiLt d a imm) s = s.decides d (x.slt y) ∧
    exec (.cmpiGe d a imm) s = s.decides d (y.sle x) ∧
    exec (.cmpiLtu d a imm) s = s.decides d (x.ult y) ∧
    exec (.cmpiGeu d a imm) s = s.decides d (y.ule x)) ∧
  (∀ (s : State) (d a b : PReg) (g : Fin 8), s.guarded g = true →
    let x := s.src.pred a.val
    let y := s.src.pred b.val
    exec (.pand d a b g) s = s.decides d (x && y) ∧
    exec (.por d a b g) s = s.decides d (x || y) ∧
    exec (.pxor d a b g) s = s.decides d (x ^^ y) ∧
    exec (.pnot d a g) s = s.decides d (!x) ∧
    exec (.pmov d a g) s = s.decides d x) ∧
  ∀ (t : Thread) (i j : Fin 16) (b : Bool),
    (t.setPred i.val b).pred j.val = if j = 0 then true else if i = j then b else t.pred j.val

/-- BR transfers to the pair address plus 8 × OFF; BRP transfers there when p[PRED] equals SENSE and moves on
otherwise; JMPI with a true guard and a readable source transfers to an 8-aligned value of the source, and traps with
cause 0x05 and that value as TVAL on any other; CNOP only moves on, whatever its guard; ANOP has no effect. A transfer
changes the PC and nothing else of the thread but its note of a wait. With a true guard EXIT completes: the thread is
no longer live and issues nothing more, it leaves its gang, the messages addressed to it are discarded, its registers
keep their values and memory is as before; with a false guard it only moves on. With a true guard: PFENCE waits while
a put of the thread is not acknowledged, and otherwise only moves on; FENCE of every scope waits while an earlier
store, put, load or atomic of the thread is outstanding, and otherwise only moves on; IFENCE waits while an acquire of
the thread is undelivered (notes/assumptions/24.md), and otherwise discards the fetch buffer and moves on (R300, R302,
R304, R215, R217, R303, R272, R161, R258, R257, R153, R351). -/
def Obligations.ControlInstructions : Prop :=
  ((∀ (s : State) (off : BitVec 19), exec (.br off) s = .next (s.jump (s.src.pc + off.signExtend 64 * 8))) ∧
  (∀ (s : State) (p : PReg) (sense : Bool) (off : BitVec 19), exec (.brp p sense off) s =
    if s.src.pred p.val = sense then .next (s.jump (s.src.pc + off.signExtend 64 * 8)) else .next s.advance) ∧
  (∀ (s : State) (x : XReg) (g : Fin 8), s.guarded g = true → s.Ready [.reg x.val] [] →
    (s.readX x).toNat % 8 = 0 → exec (.jmpi x g) s = .next (s.jump (s.readX x))) ∧
  (∀ (s : State) (x : XReg) (g : Fin 8), s.guarded g = true → s.Ready [.reg x.val] [] →
    (s.readX x).toNat % 8 ≠ 0 → exec (.jmpi x g) s = .next (s.halted (.trap 0x05 (s.readX x)))) ∧
  (∀ (s : State) (g : Fin 8), exec (.cnop g) s = .next s.advance) ∧
  (∀ s : State, exec .anop s = .next s) ∧
  ∀ (s : State) (w : Word), s.OthersKept (s.jump w) ∧ s.OnlyThreads (s.jump w) ∧
    (s.jump w).me = { s.me with pc := w, wait := none }) ∧
  (∀ (s : State) (g : Fin 8),
    (s.guarded g = false → exec (.exit g) s = .next s.advance) ∧
    (s.guarded g = true → ∃ t, exec (.exit g) s = .next t ∧ t.me.exited = true ∧ t.me.live = false ∧ t.me.issuing = false ∧
      t.me.gang = none ∧ t.me.regs = s.me.regs ∧ t.mem = s.mem ∧ (∀ m ∈ (t.core s.cid).inbox, m.dst ≠ s.cur) ∧
      s.OthersKept t)) ∧
  (∀ (s : State) (g : Fin 8), s.guarded g = true →
    exec (.pfence g) s = (if (s.ofThread s.cur).all (fun p => !(decide (p.1 < s.serial) && p.2.isPut)) then past s
      else .next (s.halted (.wait onMemory))) ∧
    (∀ sc : Scope, exec (.fence sc g) s = if s.released s.cur s.serial then past s
      else .next (s.halted (.wait onMemory))) ∧
    exec (.ifence g) s = if s.acquiring s.cur then .next (s.halted (.wait onMemory))
      else past (s.updMe fun t => { t with fetch := [] }))

/-- With its counter ready, LOOP moves on and writes nothing when the counter is 0; otherwise it writes the counter
less 1 and transfers to the pair address plus 8 × OFF when that is not 0, and moves on when it is; the counter counts
as a destination of the pair even when LOOP writes nothing (R301). -/
def Obligations.LoopCountsDown : Prop :=
  ∀ (s : State) (c : PReg) (off : BitVec 19), s.Ready [.reg c.val] [.reg c.val] →
    let x := s.src.reg c.val
    let s' := s.updMe fun t => t.setReg c.val (x - 1)
    (x = 0 → exec (.loop c off) s = .next s.advance) ∧
    (x ≠ 0 → x - 1 ≠ 0 → exec (.loop c off) s = .next (s'.jump (s.src.pc + off.signExtend 64 * 8))) ∧
    (x ≠ 0 → x - 1 = 0 → exec (.loop c off) s = .next s'.advance) ∧
    (Instr.loop c off).places = [.reg c.val]

/-- Where no delivery into an l register is pending and none is busy, before the pair and after its A slot, and the
window area is legal: CALL and CALLI with a frame free rotate and transfer, CALLI to its 8-aligned source; RET with a
resident frame rotates back and transfers to its 8-aligned source, read in the callee window; RET at depth 0 traps
with cause 0x03 and TVAL WBASE; all three trap likewise with an illegal area. Rotating for a call writes l0 to l15 to
frame slot DEPTH mod N, l<i> to the 8 bytes at 8 × i of it, where no ring descriptor covers the slot, zeroes l0 to
l15, each present, adds 1 to DEPTH and RES, writes the address of the next pair to g15 and leaves g0 to g14 alone. A
rotation for a call followed by the rotation of a return gives every local register its value again, each present, and
DEPTH and RES as before, where no ring descriptor and no poisoned word covers the frame slot (R98, R99, R302). -/
def Obligations.CallsAndReturns : Prop :=
  (let quiet (s : State) : Prop := s.src.pend.toNat / 2 ^ 16 = 0 ∧ s.src.busy.toNat / 2 ^ 16 = 0 ∧ s.me.busy.toNat / 2 ^ 16 = 0
  (∀ (s : State) (off : BitVec 19), s.Ready [] [.reg 15] → quiet s → s.src.sys.windowOk = true →
    s.src.sys.res ≠ s.src.sys.frames →
    exec (.call off) s = .next (s.rotateCall s.cur (s.src.pc + off.signExtend 64 * 8))) ∧
  (∀ (s : State) (x : XReg) (g : Fin 8), s.guarded g = true → s.Ready [.reg x.val] [.reg 15] → quiet s →
    s.src.sys.windowOk = true → s.src.sys.res ≠ s.src.sys.frames → (s.readX x).toNat % 8 = 0 →
    exec (.calli x g) s = .next (s.rotateCall s.cur (s.readX x))) ∧
  (∀ (s : State) (x : XReg) (g : Fin 8), s.guarded g = true → s.Ready [.reg x.val] [] → quiet s →
    s.src.sys.windowOk = true → s.src.sys.depth ≠ 0 → s.src.sys.res ≠ 0 → (s.readX x).toNat % 8 = 0 →
    exec (.ret x g) s = .next (s.rotateRet s.cur (s.readX x))) ∧
  (∀ (s : State) (x : XReg) (g : Fin 8), s.guarded g = true → s.Ready [.reg x.val] [] → quiet s →
    (s.src.sys.windowOk = false ∨ s.src.sys.depth = 0) →
    exec (.ret x g) s = .next (s.halted (.trap 0x03 s.src.sys.wbase))) ∧
  (∀ (s : State) (off : BitVec 19), s.Ready [] [.reg 15] → quiet s → s.src.sys.windowOk = false →
    exec (.call off) s = .next (s.halted (.trap 0x03 s.src.sys.wbase))) ∧
  (∀ (s : State) (x : XReg) (g : Fin 8), s.guarded g = true → s.Ready [.reg x.val] [.reg 15] → quiet s →
    s.src.sys.windowOk = false → exec (.calli x g) s = .next (s.halted (.trap 0x03 s.src.sys.wbase))) ∧
  (∀ (s : State) (t : Nat) (w : Word), let x := s.th t
    let slots := (Fld x.sys.wlim 31 0 - Fld x.sys.wbase 31 0) / 128
    let k := frameKey (cidOf t) x.sys x.sys.depth
    k = keyLocal (cidOf t) (Fld x.sys.wbase 31 0 + 128 * (Fld x.sys.wsp 31 0 % slots)) ∧
    (x.sys.windowOk = true → (∀ i, i < 128 → s.hidden (k + i) = false) →
      ∀ i, i < 16 → (s.rotateCall t w).load (k + 8 * i) 8 = (x.reg (16 + i)).toNat)) ∧
  ∀ (s : State) (t : Nat) (w : Word), let x := s.th t; let y := (s.rotateCall t w).th t
    y.pc = w ∧ y.reg 15 = x.pc + 8 ∧ (∀ i, i < 15 → y.reg i = x.reg i) ∧
    (∀ i, 16 ≤ i → i < 32 → y.reg i = 0 ∧ y.present.getLsbD i = true) ∧
    (x.sys.depth + 1 < 2 ^ 32 → y.sys.depth = x.sys.depth + 1) ∧ y.sys.res = (x.sys.res + 1) % 16 ∧
    s.MemKept (s.rotateCall t w) (frameKey (cidOf t) x.sys x.sys.depth) 128) ∧
  (∀ (s : State) (t : Nat) (w back : Word), let x := s.th t
    let k := frameKey (cidOf t) x.sys x.sys.depth
    x.sys.depth + 1 < 2 ^ 32 → x.sys.res < 8 → (∀ i, i < 128 → s.hidden (k + i) = false) →
    (∀ w ∈ s.poison, w * 8 + 8 ≤ k ∨ k + 128 ≤ w * 8) →
    let y := ((s.rotateCall t w).rotateRet t back).th t
    (∀ i, 16 ≤ i → i < 32 → y.reg i = x.reg i ∧ y.present.getLsbD i = true) ∧ y.sys.depth = x.sys.depth ∧
      y.sys.res = x.sys.res ∧ y.pc = back ∧ y.reg 15 = x.pc + 8)

/-- A thread with TVEC not 0 that takes a trap has EPC, CAUSE and TVAL as given, PSUP the old SUP, SUP 1 and its PC at
TVEC; its fetch buffer is discarded; a member of a gang leaves it, and every other member continues alone; every other
STATUS bit, FLAGS among them, mark-active, the store buffer, every register and every pending delivery is as before;
so is every other thread and everything else in the machine. Of what the thread was about to issue nothing stays: a
walk that it awaits, a failed check of its window and the cycles of a waiting XLD are forgotten, and so is a pager's
FAIL that its pair has not met, which is the model's choice (notes/assumptions/26.md). With TVEC 0 a thread in a slot
exits, and where it has a group that the package holds, every thread of the group that is in a slot exits and the
group is faulted (R208, R205, R198, R169). -/
def Obligations.TrapEntry : Prop :=
  ∀ (s : State) (t : Nat) (epc : Word) (cause : Nat) (tval : Word),
    let x := s.th t
    let u := s.enterTrap t epc cause tval
    (∀ g, x.gang = some g → t ∈ gangMembers g) →
    (x.sys.tvec ≠ 0 →
      u.th t = { x with
        gang := none, pc := x.sys.tvec, fetch := [], wait := none, walk := none, windowFault := none, pageFail := none,
        xldCycles := 0, xldExpired := false,
        sys := { x.sys with epc := epc, cause := BitVec.ofNat 64 cause, tval := tval, status := (u.th t).sys.status } } ∧
      (u.th t).sup = true ∧ (u.th t).psup = x.sup ∧
      (∀ i, i ≠ 31 → i ≠ 32 → (u.th t).sys.status.getLsbD i = x.sys.status.getLsbD i) ∧
      (∀ v, v ≠ t → (∀ g, x.gang = some g → v ∉ gangMembers g) → u.th v = s.th v) ∧
      (∀ v, v ≠ t → ∀ g, x.gang = some g → v ∈ gangMembers g → u.th v = { s.th v with gang := none }) ∧
      s.OnlyThreads u) ∧
    (x.sys.tvec = 0 → x.slot ≠ .vacant → (u.th t).exited = true ∧ ∀ n g, x.grp = some n → s.group (pkgOf (cidOf t)) n = some g →
      (∀ v ∈ g.threads, (s.th v).slot ≠ .vacant → (u.th v).exited = true) ∧
      ∃ g', u.group (pkgOf (cidOf t)) n = some g' ∧ g'.faulted = true)

/-- TRAP takes cause 0x0E with EPC at the following pair and TVAL its immediate; BRK takes cause 0x0D with EPC at its
pair and TVAL its immediate, or stops the thread where BRKSTOP is set for its group; ERET without SUP traps with cause
0x02, TVAL the pair, and with EPC not 8-aligned with cause 0x05, TVAL EPC; otherwise SUP takes PSUP, PSUP and
mark-active stay, the fetch buffer is discarded and the PC goes to EPC (R349, R350, R205, R395). -/
def Obligations.TrapInstructions : Prop :=
  (∀ (s : State) (imm : BitVec 12),
    exec (.trap imm) s = .next (s.enterTrap s.cur (s.src.pc + 8) 0x0E (BitVec.ofNat 64 imm.toNat))) ∧
  (∀ (s : State) (imm : BitVec 12),
    (∀ n, s.src.grp = some n → n ∉ (s.pkg (pkgOf s.cid)).service.brkstop) →
    exec (.brk imm) s = .next (s.halted (.trap 0x0D (BitVec.ofNat 64 imm.toNat)))) ∧
  (∀ (s : State) (imm : BitVec 12) (n : Nat), s.src.grp = some n → n ∈ (s.pkg (pkgOf s.cid)).service.brkstop →
    ∃ t, exec (.brk imm) s = .next t ∧ t.me.slot = .stopped ∧ t.me.pc = s.me.pc) ∧
  (∀ (s : State) (g : Fin 8), s.guarded g = true → s.src.sup = false →
    exec (.eret g) s = .next (s.halted (.trap 0x02 s.iss.word))) ∧
  (∀ (s : State) (g : Fin 8), s.guarded g = true → s.src.sup = true → s.src.sys.epc.toNat % 8 ≠ 0 →
    exec (.eret g) s = .next (s.halted (.trap 0x05 s.src.sys.epc))) ∧
  ∀ (s : State) (g : Fin 8), s.guarded g = true → s.src.sup = true → s.src.sys.epc.toNat % 8 = 0 →
    ∃ t, exec (.eret g) s = .next t ∧ t.me.pc = s.me.sys.epc ∧ t.me.fetch = [] ∧ t.me.sup = s.me.psup ∧
      t.me.psup = s.me.psup ∧ t.me.markActive = s.me.markActive ∧ t.me.regs = s.me.regs ∧
      (∀ i, i ≠ 31 → t.me.sys.status.getLsbD i = s.me.sys.status.getLsbD i) ∧ s.OthersKept t ∧ s.OnlyThreads t

/-- A pending boundary cause of a thread that may issue, and whose last pair has no rotation to come, is taken in the
order 0x0B, 0x09, 0x10 with EPC the next pair, or the STE pair for 0x09, and it is pending no more; with none of them
and no wait a due timer is taken as cause 0x0F with TVAL TIME and clears TIMER.EN; TIMER_EXPIRY of an armed timer
whose target TIME has reached makes 0x0F pending, leaves EN set, and on a hob core wakes the package; each cycle of
its core, whoever issues in it, counts for an XLD that waits for its neighbour; once it has waited XLTO cycles
XLD_TIMEOUT marks it expired, and an expired XLD whose neighbour is of its group and not RUNNABLE completes with its
predicate false and its destination unchanged; where no slot of its core is ready IDLE_CYCLE is a cycle in which none
issues: unless the counters are frozen it counts one idle cycle on memory where a slot is MEM, else on message where
one is MSG, else vacant, and changes no other idle counter; where one is ready, as its thread's wait is noted before
each cycle (log 5), nothing occurs; ACCT_FREEZE and ACCT_ZERO wake the package, and freeze and clear the counters
(R207, R206, R110, R170, R165, R391, R398). -/
def Obligations.BoundaryCauses : Prop :=
  (∀ (s : State) (t : Nat) (v : Word), (s.th t).issuing = true → (s.th t).rotate = none → (s.th t).pending.poison = some v →
    exec (.boundaryTrap t) s = .next ((s.updTh t fun x => { x with pending := { x.pending with poison := none } }).enterTrap t
      (s.th t).pc 0x0B v)) ∧
  (∀ (s : State) (t : Nat) (v : Word) (pc : Option Word), (s.th t).issuing = true → (s.th t).rotate = none → (s.th t).pending.poison = none →
    (s.th t).pending.sync = some (v, pc) →
    exec (.boundaryTrap t) s = .next ((s.updTh t fun x => { x with pending := { x.pending with sync := none } }).enterTrap t
      (pc.getD (s.th t).pc) 0x09 v)) ∧
  (∀ (s : State) (t : Nat) (v : Word), (s.th t).issuing = true → (s.th t).rotate = none → (s.th t).pending.poison = none →
    (s.th t).pending.sync = none → (s.th t).pending.late = some v →
    exec (.boundaryTrap t) s = .next ((s.updTh t fun x => { x with pending := { x.pending with late := none } }).enterTrap t
      (s.th t).pc 0x10 v)) ∧
  (∀ (s : State) (t : Nat), (s.th t).issuing = true → (s.th t).rotate = none → (s.th t).boundary = none → (s.th t).wait = none →
    (s.th t).pending.timer = true → (s.th t).sys.tvec ≠ 0 →
    ∃ u, exec (.boundaryTrap t) s = .next u ∧ (u.th t).sys.cause = 0x0F ∧ (u.th t).sys.epc = (s.th t).pc ∧
      (u.th t).sys.tval = s.time.setWidth 64 ∧ (u.th t).sys.timer.getLsbD 63 = false ∧ (u.th t).pending.timer = false ∧
      (u.th t).pc = (s.th t).sys.tvec) ∧
  (∀ (s : State) (t : Nat), (s.th t).slot ≠ .vacant → timerReached (s.th t).sys.timer s.time = true →
    ∃ u, exec (.timerExpiry t) s = .next u ∧ (u.th t).pending.timer = true ∧ (u.th t).sys = (s.th t).sys ∧
      (isHob (cidOf t) = true → (u.pkg (pkgOf (cidOf t))).around.pscur = 0) ∧ ∀ v, v ≠ t → u.th v = s.th v) ∧
  (∀ (s : State) (c t : Nat) (winner : Option Nat), cidOf t = c → ((s.endCycle c winner).th t).xldCycles =
    (s.th t).xldCycles + if (s.th t).awaitsNeighbour then 1 else 0) ∧
  (∀ (s : State) (t : Nat), (s.th t).awaitsNeighbour = true → (s.th t).xldBound ≤ (s.th t).xldCycles →
    exec (.xldTimeout t) s = .next (s.updTh t fun x => { x with xldExpired := true })) ∧
  (∀ (s : State) (d a : VReg) (dp : Fin 32) (m : MReg), s.Ready [] [.vec d.val] → isHob s.cid = false →
    let nb := s.before (neighbour s.cur (decide (16 ≤ dp.val)))
    nb.slot ≠ .vacant → nb.slot ≠ .runnable → nb.grp = s.src.grp → s.src.xldExpired = true →
    ∃ t, exec (.xld d a dp m) s = .next t ∧ (dp.val % 16 ≠ 0 → t.me.pred (dp.val % 16) = false) ∧ t.me.v = s.me.v ∧
      t.me.regs = s.me.regs ∧ t.me.xldExpired = false ∧ t.me.xldCycles = 0) ∧
  (∀ (s : State) (c : Nat), s.someReady c = true → exec (.idleCycle c) s = .next s) ∧
  (∀ (s : State) (c : Nat), s.turn (.event (.idleCycle c)) = exec (.idleCycle c) (s.noted c)) ∧
  (∀ (s : State) (c : Nat), s.someReady c = false → ∃ u, exec (.idleCycle c) s = .next u ∧ u.mem = s.mem ∧
    (∀ t, (s.th t).awaitsNeighbour = false → u.th t = s.th t) ∧
    ((s.core c).freeze = true → ∀ k, lookup 0 (u.core c).acct k = lookup 0 (s.core c).acct k) ∧
    ((s.core c).freeze = false →
      let cls := (List.range 16).map fun sl => s.classOf none (16 * c + sl)
      let n := if Cls.mem ∈ cls then 80 else if Cls.msg ∈ cls then 81 else 82
      ∀ k, 80 ≤ k → k < 83 → lookup 0 (u.core c).acct k =
        if k = n then (lookup 0 (s.core c).acct k + 1) % 2 ^ 48 else lookup 0 (s.core c).acct k)) ∧
  ∀ (s : State) (c : Nat) (b : Bool), (s.pkg (pkgOf c)).service.secmode ≠ 3 →
    let w := s.wakePkg (pkgOf c)
    exec (.acctFreeze c b) s = .next (w.setCore c { s.core c with freeze := b }) ∧
    exec (.acctZero c) s = .next (w.setCore c { s.core c with acct := [] }) ∧ (w.pkg (pkgOf c)).around.pscur = 0

/-- With ready operands and no raised flag enabled, FADD, FSUB, FMUL, FDIV, FSQRT, FMA, FMIN, FMAX, FCMP and FCLASS
write their result, OR the flags they raise into FLAGS and count their rounding draws; FDIV and FSQRT make a register
destination busy. FMA reads d as the addend. With a raised flag enabled each of them but FCLASS, which raises none,
traps with cause 0x06 and the raised flags as TVAL. The rounding mode is RND, or STATUS.RM where RND says so;
STATUS.FTZ does not apply (R294, R295, R297, R286, R29, R27). -/
def Obligations.ScalarFloatingResults : Prop :=
  ∀ (s : State) (ty : AFmt) (d a b : SOpd) (r : Rnd),
    let f := ty.fmt
    let m := resolve r s.src.rm
    let w := s.draw 0
    let x := (s.readS a).toNat
    let y := (s.readS b).toNat
    let z := (s.readS d).toNat
    let two := s.Ready [a.place, b.place] [d.place]
    let one := s.Ready [a.place] [d.place]
    let three := s.Ready [a.place, b.place, d.place] [d.place]
    let trap (fl : Nat) : Out := .next (s.halted (.trap 0x06 (BitVec.ofNat 64 fl)))
    (two → s.Quiet (fArith .add f false m w x y).flags →
      exec (.fadd ty d a b r) s = s.floats d (fArith .add f false m w x y)) ∧
    (two → s.Quiet (fArith .sub f false m w x y).flags →
      exec (.fsub ty d a b r) s = s.floats d (fArith .sub f false m w x y)) ∧
    (two → s.Quiet (fArith .mul f false m w x y).flags →
      exec (.fmul ty d a b r) s = s.floats d (fArith .mul f false m w x y)) ∧
    (two → s.Quiet (fArith .div f false m w x y).flags →
      exec (.fdiv ty d a b r) s = s.floatsLate d (fArith .div f false m w x y)) ∧
    (one → s.Quiet (fArith .sqrt f false m w x 0).flags →
      exec (.fsqrt ty d a r) s = s.floatsLate d (fArith .sqrt f false m w x 0)) ∧
    (three → s.Quiet (fFma f false m w false x y z).flags →
      exec (.fma ty d a b r) s = s.floats d (fFma f false m w false x y z)) ∧
    (two → s.Quiet (fMinMax false f false x y).flags →
      exec (.fmin ty d a b) s = s.floats d (fMinMax false f false x y)) ∧
    (two → s.Quiet (fMinMax true f false x y).flags →
      exec (.fmax ty d a b) s = s.floats d (fMinMax true f false x y)) ∧
    (two → s.Quiet (fCompare f x y).2 →
      exec (.fcmp ty d a b) s = s.floats d ⟨(fCompare f x y).1, (fCompare f x y).2, 0⟩) ∧
    (one → exec (.fclass ty d a) s = s.floats d ⟨fClass f x, 0, 0⟩) ∧
    (two → ¬ s.Quiet (fArith .add f false m w x y).flags →
      exec (.fadd ty d a b r) s = trap (fArith .add f false m w x y).flags) ∧
    (two → ¬ s.Quiet (fArith .sub f false m w x y).flags →
      exec (.fsub ty d a b r) s = trap (fArith .sub f false m w x y).flags) ∧
    (two → ¬ s.Quiet (fArith .mul f false m w x y).flags →
      exec (.fmul ty d a b r) s = trap (fArith .mul f false m w x y).flags) ∧
    (two → ¬ s.Quiet (fArith .div f false m w x y).flags →
      exec (.fdiv ty d a b r) s = trap (fArith .div f false m w x y).flags) ∧
    (one → ¬ s.Quiet (fArith .sqrt f false m w x 0).flags →
      exec (.fsqrt ty d a r) s = trap (fArith .sqrt f false m w x 0).flags) ∧
    (three → ¬ s.Quiet (fFma f false m w false x y z).flags →
      exec (.fma ty d a b r) s = trap (fFma f false m w false x y z).flags) ∧
    (two → ¬ s.Quiet (fMinMax false f false x y).flags →
      exec (.fmin ty d a b) s = trap (fMinMax false f false x y).flags) ∧
    (two → ¬ s.Quiet (fMinMax true f false x y).flags →
      exec (.fmax ty d a b) s = trap (fMinMax true f false x y).flags) ∧
    (two → ¬ s.Quiet (fCompare f x y).2 → exec (.fcmp ty d a b) s = trap (fCompare f x y).2)

/-- With ready operands FABS, FNEG and FSGN write their result and change no flag and no draw count: an absent input
gives absent, in FSGN from either operand; otherwise FABS clears the sign bit, FNEG inverts it and FSGN takes that of
b, every other bit as in a, but for a result that equals the absent code, whose fraction bits below the quiet bit are
cleared; FNEG.F32 of 0x7FC00001 delivers 0xFFC00000 (R296). -/
def Obligations.SignOperations : Prop :=
  let clear (f : Fmt) (x : Nat) : Nat := if x = absentCode f then x - 1 else x
  (∀ (s : State) (ty : AFmt) (d a b : SOpd),
    let f := ty.fmt
    let w := 2 ^ fmtWidth f
    let top := 2 ^ (fmtWidth f - 1)
    let x := (s.readS a).toNat % w
    let y := (s.readS b).toNat % w
    let kept (c : Nat) : Out := s.floats d ⟨c, 0, 0⟩
    (s.Ready [a.place] [d.place] → exec (.fabs ty d a) s =
      if x = absentCode f then kept x else kept (x % top)) ∧
    (s.Ready [a.place] [d.place] → exec (.fneg ty d a) s =
      if x = absentCode f then kept x else kept (clear f ((x + top) % w))) ∧
    (s.Ready [a.place, b.place] [d.place] → exec (.fsgn ty d a b) s =
      if x = absentCode f then kept x
      else if y = absentCode f then kept y
      else kept (clear f (x % top + y / top * top)))) ∧
  (∀ (s : State) (d : SOpd) (c : Nat), ∃ t, s.floats d ⟨c, 0, 0⟩ = .next t ∧
    t.me.sys.status = (s.writeS d (BitVec.ofNat 64 c)).me.sys.status ∧ t.me.draws = (s.writeS d (BitVec.ofNat 64 c)).me.draws) ∧
  (fSign .neg .f32 false 0x7FC00001 0).code = 0xFFC00000

/-- In each of F64, F32, F16 and BF16 a code decodes to absent exactly when it is the absent code; FSUB, FMUL, FDIV
and FSQRT with an absent input give absent with no flag and no draw; FADD and FMIN and FMAX with one absent input pass
the other, and with two give absent; a present code that is no NaN is passed as it is, with no flag and no draw; FMA
with an absent factor passes d; FCMP with an absent operand sets AB alone; FCLASS of absent is bit 10 alone; none of
these takes a draw or raises a flag where its inputs are absent (R20, R295, R297, R24, R12). -/
def Obligations.AbsentInScalarFloat : Prop :=
  ∀ (ty : AFmt) (m : Mode) (w c e : Nat),
    let f := ty.fmt
    let ab := absentCode f
    let v := decode f false false c
    c < 2 ^ fmtWidth f →
    (v.isAbsent = true ↔ c = ab) ∧
    (∀ op ∈ [FOp.sub, .mul, .div], fArith op f false m w ab c = ⟨ab, 0, 0⟩ ∧ fArith op f false m w c ab = ⟨ab, 0, 0⟩) ∧
    fArith .sqrt f false m w ab e = ⟨ab, 0, 0⟩ ∧
    fArith .add f false m w ab c = pass f v ∧ fArith .add f false m w c ab = pass f v ∧
    (∀ mx, fMinMax mx f false ab c = pass f v ∧ fMinMax mx f false c ab = pass f v) ∧
    fFma f false m w false ab e c = pass f v ∧ fFma f false m w false e ab c = pass f v ∧
    pass f (decode f false false ab) = ⟨ab, 0, 0⟩ ∧
    (v.isAbsent = false → v.isNan = false → pass f v = ⟨c, 0, 0⟩) ∧
    fCompare f ab e = (16, 0) ∧ fCompare f e ab = (16, 0) ∧
    fClass f ab = 2 ^ 10

/-- With a ready source and destination and no raised flag enabled, FCVT writes the conversion of its source under
STATUS.TX and the rounding mode: a floating, UI32, UI8 or TS8 result zero-extended, an I64, I32, I16 or I8 result
sign-extended, the slot of an E4 or E5 result typed; it ORs its flags and counts its draws. With a raised flag enabled
it traps with cause 0x06. An absent source gives the absent code of the destination, with no flag and no draw (R298,
R285, R33, R29, R103). -/
def Obligations.ScalarConversion : Prop :=
  let form (f : Fmt) (c : Nat) : Word :=
    if f = .i64 ∨ f = .i32 ∨ f = .i16 ∨ f = .i8 then signExtend64 (fmtWidth f) c else BitVec.ofNat 64 c
  (∀ (s : State) (dst src : Fmt) (d a : SOpd) (r : Rnd) (i : Instr),
    ((∃ ty : FFmt, dst = ty.fmt ∧ i = .fcvtF ty d a src r) ∨ ∃ ty : IFmt, dst = ty.fmt ∧ i = .fcvtI ty d a src r) →
    let x := fConvert dst src s.src.tx (resolve r s.src.rm) (s.draw 0) (s.readS a).toNat
    s.Ready [a.place] [d.place] →
    (s.Quiet x.flags → exec i s =
      .next ((s.writeS d (form dst x.code) (decide (dst = .e4 ∨ dst = .e5))).flagged x.flags x.draws)) ∧
    (¬ s.Quiet x.flags → exec i s = .next (s.halted (.trap 0x06 (BitVec.ofNat 64 x.flags))))) ∧
  ∀ (dst src : Fmt) (tx : Bool) (m : Mode) (w c : Nat), (decode src tx false c).isAbsent = true →
    fConvert dst src tx m w c = ⟨absentCode dst, 0, 0⟩

/-- A lane function without flags or draws, applied under a mask to lanes of 8, 16, 32 or 64 bits, gives in every
enabled lane the low bits of its value and in every other lane the old contents, raises no flag and takes no draw;
with flags, the flags raised are the OR over the enabled lanes of a lane function whose flags do not depend on its
draw (R305, R307, R308, R220). -/
def Obligations.LanesFollowTheMask : Prop :=
  ∀ (w : Nat) (mask : Word) (old : Nat), w = 8 ∨ w = 16 ∨ w = 32 ∨ w = 64 →
    (∀ (g : Nat → Nat),
      let r := lanewise w mask old fun i _ => plain (g i)
      (∀ i, i < 512 / w → laneOf w r.val i = if mask.getLsbD i then g i % 2 ^ w else laneOf w old i) ∧
      r.val < 2 ^ 512 ∧ r.flags = 0 ∧ r.draws = 0) ∧
    ∀ (g fl : Nat → Nat) (b : Nat), (∀ i, fl i < 64) →
      ((lanewise w mask old fun i _ => ⟨g i, fl i, 0⟩).flags.testBit b = true ↔
        ∃ i, i < 512 / w ∧ mask.getLsbD i = true ∧ (fl i).testBit b = true)

/-- With ready operands and no raised flag enabled, VADD.F, VSUB.F, VMUL.F, VFMA, VFMS, VMIN.F, VMAX.F, VABS.F,
VNEG.F, VDIV, VSQRT, VRCP, VRSQ, VEXP2, VLOG2, VSIN, VCOS and VTANH compute, in every enabled lane, what the scalar
operation computes under STATUS.FTZ, the lanes drawing in ascending order, OR the flags of all lanes into FLAGS and
write the destination; VDIV, VSQRT, VRCP, VRSQ and the special functions make a register destination busy; VFMA and
VFMS read d as the addend. With a raised flag enabled each of them traps with cause 0x06 and as TVAL the OR of the
flags of all lanes, and has no other effect (R306, R308, R309, R311, R30). -/
def Obligations.VectorFloatArithmetic : Prop :=
  ∀ (s : State) (ty : AFmt) (d a b : VOpd) (e : VReg) (m : MReg) (r : Rnd),
    let f := ty.fmt
    let w := f.lane
    let z := s.src.ftz
    let mode := resolve r s.src.rm
    let x (i : Nat) : Nat := laneOf w (s.readV a) i
    let y (i : Nat) : Nat := laneOf w (s.readV b) i
    let c (i : Nat) : Nat := laneOf w (s.src.vec e.val).toNat i
    let L (g : Nat → Nat → Rounded) : VRes := lanewise w (s.enables m) (s.oldV d) g
    let ends (i : Instr) (fl : Nat) (o : Out) : Prop :=
      (s.Quiet fl → exec i s = o) ∧ (¬ s.Quiet fl → exec i s = .next (s.halted (.trap 0x06 (BitVec.ofNat 64 fl))))
    let now (i : Instr) (v : VRes) : Prop := ends i v.flags (s.vectors d v)
    let late (i : Instr) (v : VRes) : Prop := ends i v.flags (s.vectorsLate d v)
    let acc (i : Instr) (v : VRes) : Prop := ends i v.flags (s.vectors (.v e) v)
    (s.Ready [a.place, b.place] [d.place] →
      now (.vaddF ty d a b m r) (L fun i n => fArith .add f z mode (s.draw n) (x i) (y i)) ∧
      now (.vsubF ty d a b m r) (L fun i n => fArith .sub f z mode (s.draw n) (x i) (y i)) ∧
      now (.vmulF ty d a b m r) (L fun i n => fArith .mul f z mode (s.draw n) (x i) (y i)) ∧
      late (.vdiv ty d a b m r) (L fun i n => fArith .div f z mode (s.draw n) (x i) (y i)) ∧
      now (.vminF ty d a b m) (L fun i _ => fMinMax false f z (x i) (y i)) ∧
      now (.vmaxF ty d a b m) (L fun i _ => fMinMax true f z (x i) (y i))) ∧
    (s.Ready [a.place] [d.place] →
      now (.vabsF ty d a m) (L fun i _ => fSign .abs f z (x i) 0) ∧
      now (.vnegF ty d a m) (L fun i _ => fSign .neg f z (x i) 0) ∧
      late (.vsqrt ty d a m r) (L fun i n => fArith .sqrt f z mode (s.draw n) (x i) 0) ∧
      late (.vrcp ty d a m r) (L fun i n => fArith .rcp f z mode (s.draw n) (x i) 0) ∧
      late (.vrsq ty d a m r) (L fun i n => fArith .rsq f z mode (s.draw n) (x i) 0) ∧
      late (.vexp2 ty d a m) (L fun i _ => special .exp2 f z (x i)) ∧
      late (.vlog2 ty d a m) (L fun i _ => special .log2 f z (x i)) ∧
      late (.vsin ty d a m) (L fun i _ => special .sin f z (x i)) ∧
      late (.vcos ty d a m) (L fun i _ => special .cos f z (x i)) ∧
      late (.vtanh ty d a m) (L fun i _ => special .tanh f z (x i))) ∧
    (s.Ready [a.place, b.place, .vec e.val] [.vec e.val] →
      acc (.vfma ty e a b m r) (lanewise w (s.enables m) (s.src.vec e.val).toNat fun i n =>
        fFma f z mode (s.draw n) false (x i) (y i) (c i)) ∧
      acc (.vfms ty e a b m r) (lanewise w (s.enables m) (s.src.vec e.val).toNat fun i n =>
        fFma f z mode (s.draw n) true (x i) (y i) (c i)))

/-- With ready operands and, for VADD.I to VNEG.I, no raised flag enabled: VADD.I, VSUB.I, VMUL.I, VMIN.I, VMAX.I,
VABS.I and VNEG.I compute each enabled lane as the integer operation under STATUS.SAT, and with one enabled they trap
with cause 0x06 and the OR of the lanes' flags as TVAL; VAND, VOR and VXOR are bitwise; VSHL, VSHR and VSHA shift each
lane by the unsigned lane of b, a count of the width or more giving 0, or the sign in VSHA; VPERM takes lane b[i] of
a, or 0 beyond the lanes; VBCAST copies a scalar; VMOV copies a vector; each writes its destination and moves nothing
else; VSEL takes a where the mask bit is set and b elsewhere in every lane (R310, R312, R314, R316, R317). -/
def Obligations.VectorIntegerArithmetic : Prop :=
  ∀ (s : State) (ty : VFmt) (d a b : VOpd) (v : SOpd) (m : MReg),
    let f := ty.fmt
    let w := f.lane
    let x (i : Nat) : Nat := laneOf w (s.readV a) i
    let y (i : Nat) : Nat := laneOf w (s.readV b) i
    let L (g : Nat → Nat → Rounded) : VRes := lanewise w (s.enables m) (s.oldV d) g
    let now (i : Instr) (v : VRes) : Prop :=
      (s.Quiet v.flags → exec i s = s.vectors d v) ∧
      (¬ s.Quiet v.flags → exec i s = .next (s.halted (.trap 0x06 (BitVec.ofNat 64 v.flags))))
    let int (op : IOp) (p q : Nat) : Rounded := ⟨(iArith op f s.src.sat p q).1, (iArith op f s.src.sat p q).2, 0⟩
    let pure (i : Instr) (g : Nat → Nat) : Prop := exec i s = s.vectors d (L fun i _ => plain (g i))
    (s.Ready [a.place, b.place] [d.place] →
      now (.vaddI ty d a b m) (L fun i _ => int .add (x i) (y i)) ∧
      now (.vsubI ty d a b m) (L fun i _ => int .sub (x i) (y i)) ∧
      now (.vmulI ty d a b m) (L fun i _ => int .mul (x i) (y i)) ∧
      now (.vminI ty d a b m) (L fun i _ => int .min (x i) (y i)) ∧
      now (.vmaxI ty d a b m) (L fun i _ => int .max (x i) (y i)) ∧
      pure (.vand ty d a b m) (fun i => x i &&& y i) ∧
      pure (.vor ty d a b m) (fun i => x i ||| y i) ∧
      pure (.vxor ty d a b m) (fun i => x i ^^^ y i) ∧
      pure (.vshl ty d a b m) (fun i => if y i < w then x i * 2 ^ y i % 2 ^ w else 0) ∧
      pure (.vshr ty d a b m) (fun i => if y i < w then x i / 2 ^ y i else 0) ∧
      pure (.vsha ty d a b m) (fun i => toBits w (toSigned w (x i) / 2 ^ min (y i) w)) ∧
      pure (.vperm ty d a b m) (fun i => if y i < 512 / w then x (y i) else 0) ∧
      exec (.vsel ty d a b m) s = s.vectors d (lanewise w (BitVec.allOnes 64) 0 fun i _ =>
        plain (if (s.enables m).getLsbD i then x i else y i))) ∧
    (s.Ready [a.place] [d.place] →
      now (.vabsI ty d a m) (L fun i _ => int .abs (x i) 0) ∧
      now (.vnegI ty d a m) (L fun i _ => int .neg (x i) 0) ∧
      pure (.vmov ty d a m) x) ∧
    (s.Ready [v.place] [d.place] → pure (.vbcast ty d v m) fun _ => (s.readS v).toNat)

/-- With ready operands: VCMP.F and VCMP.I write, for each enabled lane, the relation into one mask and absence of an
operand into the other, 0 elsewhere, and OR their flags when none is enabled, and otherwise trap with cause 0x06 and
the OR of the lanes' flags as TVAL; VISAB writes which enabled lanes hold the absent code; VCNT counts the enabled
lanes that do not; VMKAB copies the lanes below n and makes the others absent; VMOV to a mask writes all 64 bits and
from a mask reads them; VEXT delivers lane i mod L of a, and VINS writes it in d, where its mask bit is set, and leave
d unchanged where it is not (R307, R313, R315, R316, R317). -/
def Obligations.VectorMasksAndLanes : Prop :=
  ∀ (s : State) (at_ : AFmt) (ft : FFmt) (vt : VFmt) (md : Fin 64) (mk ms : Fin 4) (d a b : VOpd) (ds vs : SOpd) (n dx : XReg)
    (e : VReg) (m : MReg),
    let on (i : Nat) : Bool := (s.enables m).getLsbD i
    let mask (w : Nat) (p : Nat → Bool) : Word := maskBits ((List.range (512 / w)).map fun i => on i && p i)
    let cmp (w : Nat) (rel : Nat → Nat → CmpLane) : Nat → CmpLane := fun i =>
      rel (laneOf w (s.readV a) i) (laneOf w (s.readV b) i)
    let both (i : Instr) (w : Nat) (rel : Nat → Nat → CmpLane) : Prop :=
      let fl := (List.range (512 / w)).foldl (fun acc i => acc ||| if on i then (cmp w rel i).2.2 else 0) 0
      (s.Quiet fl → exec i s = .next ((s.updMe fun t =>
        (t.setMask (md.val % 4) (mask w fun i => (cmp w rel i).1)).setMask (md.val / 4 % 4) (mask w fun i => (cmp w rel i).2.1)).orFlags
          fl)) ∧
      (¬ s.Quiet fl → exec i s = .next (s.halted (.trap 0x06 (BitVec.ofNat 64 fl))))
    let isAb (f : Fmt) (x : Nat) : Bool := decide (x % 2 ^ fmtWidth f = absentCode f)
    let j (w : Nat) : Nat := (s.readX n).toNat % (512 / w)
    (s.Ready [a.place, b.place] [] →
      both (.vcmpF at_ md a b m) at_.fmt.lane (fun x y =>
        let p := decode at_.fmt false (ftzFor at_.fmt s.src.ftz) x
        let q := decode at_.fmt false (ftzFor at_.fmt s.src.ftz) y
        if p.isAbsent || q.isAbsent then (false, true, 0) else ((relF (md.val / 16) p q).1, false, (relF (md.val / 16) p q).2)) ∧
      both (.vcmpI vt md a b m) vt.fmt.lane (fun x y =>
        if x = absentCode vt.fmt ∨ y = absentCode vt.fmt then (false, true, 0)
        else (relI (md.val / 16) (intVal vt.fmt x) (intVal vt.fmt y), false, 0))) ∧
    (s.Ready [a.place] [] →
      exec (.visabF ft mk a m) s = .next (s.updMe fun t => t.setMask mk.val
        (mask ft.fmt.lane fun i => isAb ft.fmt (laneOf ft.fmt.lane (s.readV a) i))) ∧
      exec (.visabI vt mk a m) s = .next (s.updMe fun t => t.setMask mk.val
        (mask vt.fmt.lane fun i => isAb vt.fmt (laneOf vt.fmt.lane (s.readV a) i)))) ∧
    (s.Ready [a.place] [ds.place] →
      exec (.vcntF ft ds a m) s = .next (s.writeS ds (BitVec.ofNat 64 ((List.range (512 / ft.fmt.lane)).countP fun i =>
        on i && !isAb ft.fmt (laneOf ft.fmt.lane (s.readV a) i)))) ∧
      exec (.vcntI vt ds a m) s = .next (s.writeS ds (BitVec.ofNat 64 ((List.range (512 / vt.fmt.lane)).countP fun i =>
        on i && !isAb vt.fmt (laneOf vt.fmt.lane (s.readV a) i))))) ∧
    (s.Ready [a.place, .reg n.val] [d.place] →
      exec (.vmkabF ft d a n m) s = s.vectors d (lanewise ft.fmt.lane (s.enables m) (s.oldV d) fun i _ => plain
        (if i < (s.readX n).toNat then copied ft.fmt s.src.ftz (laneOf ft.fmt.lane (s.readV a) i) else absentCode ft.fmt))
        (decide (ft.fmt = .e4 ∨ ft.fmt = .e5)) ∧
      exec (.vmkabI vt d a n m) s = s.vectors d (lanewise vt.fmt.lane (s.enables m) (s.oldV d) fun i _ => plain
        (if i < (s.readX n).toNat then laneOf vt.fmt.lane (s.readV a) i else absentCode vt.fmt))) ∧
    (s.Ready [.reg n.val] [] → exec (.vmovToMask mk n) s = .next (s.updMe fun t => t.setMask mk.val (s.readX n))) ∧
    (s.Ready [] [.reg dx.val] → exec (.vmovFromMask dx ms) s = .next (s.writeX dx (s.src.mask ms.val))) ∧
    (s.Ready [a.place, .reg n.val] [ds.place] → exec (.vext vt ds a n m) s = .next
      (if on (j vt.fmt.lane) then s.writeS ds (BitVec.ofNat 64 (laneOf vt.fmt.lane (s.readV a) (j vt.fmt.lane))) else s)) ∧
    (s.Ready [vs.place, .reg n.val, .vec e.val] [.vec e.val] → ∃ t, exec (.vins vt e vs n m) s = .next t ∧
      (on (j vt.fmt.lane) = false → t = s) ∧
      (on (j vt.fmt.lane) = true → ∀ i, i < 512 / vt.fmt.lane → laneOf vt.fmt.lane (t.me.vec e.val).toNat i =
        if i = j vt.fmt.lane then (s.readS vs).toNat % 2 ^ vt.fmt.lane else laneOf vt.fmt.lane (s.src.vec e.val).toNat i))

/-- With ready operands and no raised flag enabled: VRED.F and VRED.I reduce the enabled lanes, a disabled lane
entering as absent, into lane 0 with the count of present lanes in lane 1 and 0 elsewhere; VDOT.F and VDOT.I
accumulate the group products of each destination lane; VCVT converts the lanes that PART names; with a raised flag
enabled each of these traps with cause 0x06 and the OR of the flags as TVAL; VRNG with a stream below 2^32 fills each
enabled lane with its counter-based number, and traps with cause 0x01 on a larger stream; XLD reads the vector
register of the neighbouring RUNNABLE thread of the same group and sets its predicate, and clears the predicate and
leaves d unchanged on a hob core, next to a VACANT slot or another group (R318, R319, R320, R322, R324, R170). -/
def Obligations.VectorReductionsAndConversions : Prop :=
  ∀ (s : State) (at_ : AFmt) (vt : VFmt) (df : DFmt) (di : DIFmt) (ff : FFmt) (fi : IFmt) (d a b : VOpd) (e u : VReg) (k n : XReg)
    (src : PSrc) (op : ROp) (m : MReg) (r : Rnd) (dp : Fin 32),
    let mode := resolve r s.src.rm
    let z := s.src.ftz
    let leaves (f : Fmt) : List Nat := (List.range (512 / f.lane)).map fun i =>
      if (s.enables m).getLsbD i then laneOf f.lane (s.readV a) i else absentCode f
    let count (f : Fmt) : Nat := (leaves f).countP fun x => decide (x ≠ absentCode f)
    let pair (w code c : Nat) : Nat := code % 2 ^ w + 2 ^ w * (c % 2 ^ w)
    let vdot (f : Fmt) (g : Nat → List (Nat × Nat) → Nat → Rounded) : VRes :=
      let w := (dotDst f).lane
      let q := w / f.lane
      lanewise w (s.enables m) (s.src.vec e.val).toNat fun j dr => g dr
        ((List.range q).map fun i => (laneOf f.lane (s.readV a) (q * j + i), laneOf f.lane (s.readV b) (q * j + i)))
        (laneOf w (s.src.vec e.val).toNat j)
    let cvt (dst : Fmt) : VRes :=
      let ws := src.fmt.lane
      let wd := dst.lane
      let base := src.part.val * (512 / max ws wd)
      let one (dr x : Nat) : Rounded := fConvert dst src.fmt s.src.tx mode (s.draw dr) x
      lanewise wd (s.enables m) (s.oldV d) fun j dr =>
        if ws ≤ wd then one dr (laneOf ws (s.readV a) (base + j))
        else if base ≤ j ∧ j < base + 512 / ws then one dr (laneOf ws (s.readV a) (j - base))
        else plain (laneOf wd (s.oldV d) j)
    let stream := (s.src.reg (k.val + 1)).toNat
    let rnd (i : Nat) : Nat := mix (s.readX k).toNat stream (((s.readX n).toNat + i) % 2 ^ 64)
    let nb := s.before (neighbour s.cur (decide (16 ≤ dp.val)))
    let ends (i : Instr) (fl : Nat) (o : Out) : Prop :=
      (s.Quiet fl → exec i s = o) ∧ (¬ s.Quiet fl → exec i s = .next (s.halted (.trap 0x06 (BitVec.ofNat 64 fl))))
    (s.Ready [a.place] [d.place] →
      (let x := redF at_.fmt z mode s.draw op (leaves at_.fmt) (count at_.fmt)
       ends (.vredF at_ d a op m r) x.flags (s.vectorsLate d ⟨pair at_.fmt.lane x.code (count at_.fmt), x.flags, x.draws⟩)) ∧
      (let x := redI vt.fmt s.src.sat op (leaves vt.fmt)
       ends (.vredI vt d a op m) x.2 (s.vectorsLate d ⟨pair vt.fmt.lane x.1 (count vt.fmt), x.2, 0⟩)) ∧
      ends (.vcvtF ff d a src m r) (cvt ff.fmt).flags (s.vectors d (cvt ff.fmt) (decide (ff.fmt = .e4 ∨ ff.fmt = .e5))) ∧
      ends (.vcvtI fi d a src m r) (cvt fi.fmt).flags (s.vectors d (cvt fi.fmt))) ∧
    (s.Ready [a.place, b.place, .vec e.val] [.vec e.val] →
      (let x := vdot df.fmt fun dr ps c => fDot df.fmt (dotDst df.fmt) z mode (s.draw dr) ps c
       ends (.vdotF df e a b m r) x.flags (s.vectorsLate (.v e) x)) ∧
      (let x := vdot di.fmt fun _ ps c =>
         ⟨(iDot di.fmt (dotDst di.fmt) s.src.sat ps c).1, (iDot di.fmt (dotDst di.fmt) s.src.sat ps c).2, 0⟩
       ends (.vdotI di e a b m) x.flags (s.vectorsLate (.v e) x))) ∧
    (s.Ready [.reg k.val, .reg (k.val + 1), .reg n.val] [d.place] →
      (stream < 2 ^ 32 →
        exec (.vrngF at_ d k n m) s = s.vectorsLate d (lanewise at_.fmt.lane (s.enables m) (s.oldV d) fun i _ =>
          plain (rngF at_.fmt (rnd i))) ∧
        exec (.vrngI vt d k n m) s = s.vectorsLate d (lanewise vt.fmt.lane (s.enables m) (s.oldV d) fun i _ =>
          plain (rngI vt.fmt (rnd i)))) ∧
      (2 ^ 32 ≤ stream → exec (.vrngF at_ d k n m) s = .next (s.halted (.trap 0x01 s.iss.word)) ∧
        exec (.vrngI vt d k n m) s = .next (s.halted (.trap 0x01 s.iss.word)))) ∧
    (s.Ready [] [.vec e.val] →
      (isHob s.cid = true ∨ nb.slot = .vacant ∨ nb.grp ≠ s.src.grp → ∃ t, exec (.xld e u dp m) s = .next t ∧
        t.me.pred (dp.val % 16) = decide (dp.val % 16 = 0) ∧ t.me.v = s.me.v ∧ s.OthersKept t) ∧
      (isHob s.cid = false → nb.slot = .runnable → nb.grp = s.src.grp → ∃ t, exec (.xld e u dp m) s = .next t ∧
        t.me.pred (dp.val % 16) = true ∧ (∀ i, i < 8 → laneOf 64 (t.me.vec e.val).toNat i =
          if (s.enables m).getLsbD i then laneOf 64 (nb.vec u.val).toNat i else laneOf 64 (s.src.vec e.val).toNat i)))

/-- With ready operands, passed checks and a translation, no acquire or atomic of the thread outstanding and fewer
than 8 loads: LD.B, LD.H, LD.W in both extensions, LD.D, LD.ACQ and LDV of 1, 2, 4, 8 and 64 bytes at the base plus
the sign-extended IMM make their destination busy; one that buffered stores cover whole takes its value from the
youngest of them, extended, once it no longer has to follow an older load; one that they cover in part waits; any
other leaves for its home; the PC moves past the pair. An access that leaves changes no memory and no thread (R247,
R248, R249, R149, R162). -/
def Obligations.FarLoads : Prop :=
  (∀ (s : State) (d b : XReg) (v : VReg) (imm : BitVec 12) (key : Nat) (rest : Option (Nat × Nat)),
    let ea := s.readX b + imm.signExtend 64
    let x := Dest.reg d.val
    ∀ p ∈ [(Instr.ldBZ d b imm, x, 1, 1, false, false), (.ldBS d b imm, x, 1, 1, true, false),
      (.ldHZ d b imm, x, 2, 2, false, false), (.ldHS d b imm, x, 2, 2, true, false),
      (.ldWZ d b imm, x, 4, 4, false, false), (.ldWS d b imm, x, 4, 4, true, false),
      (.ldD d b imm, x, 8, 8, false, false), (.ldAcq d b imm, x, 8, 8, false, true),
      (.ldv v b imm, .vec v.val, 64, 8, false, false)],
      let (i, q, n, al, sext, acq) := p
      s.Ready [xplace b] q.places → s.Open → s.loads s.cur < 8 →
      s.farWide ea n { rd := true, s := acq } al accLoad = .ok (key, rest) →
      match (if isAperKey key then Forward.none else forward s.hidden s.src.sb s.serial (spanOf key rest n)) with
      | .none => exec i s = s.departs ⟨s.cur, .load sext acq, true, key, rest, ea, n, 0, q, s.src.dueBy, false⟩
      | .all w => exec i s =
        if s.inOrder s.cur s.serial (spanOf key rest n) then
          past ((s.occupy q).post (.reply { tid := s.cur, dst := q, val := extend sext n w, acq := acq, ea := ea }))
        else .next (s.halted (.wait onMemory))
      | .part => exec i s = .next (s.halted (.wait onMemory))) ∧
  ∀ (s : State) (a : Access), (s.depart a).mem = s.mem ∧ (s.depart a).threads = s.threads ∧ (s.depart a).poison = s.poison ∧ (s.depart a).empty = s.empty ∧
    (s.depart a).item s.serial = some (.access a)

/-- With ready operands, passed checks and a translation, no acquire or atomic of the thread outstanding and a free
buffer entry: ST.B, ST.H, ST.W, ST.D, ST.REL and STV enter the low 1, 2, 4, 8, 8 and 64 bytes of their data, marked as
a release for ST.REL, with the thread's deadline, at the tail of the thread's store buffer, and the PC moves past the
pair; no register, predicate, flag or other thread changes, and every byte of memory outside the leaf entries of the
cluster's translation unit, whose D bit a store sets, reads as before. ST.B, ST.H and ST.W to a poisoned word trap
with cause 0x0B (R247, R249, R149, R50, R58). -/
def Obligations.FarStores : Prop :=
  ∀ (s : State) (d : SOpd) (b : XReg) (v : VOpd) (imm : BitVec 12) (key : Nat) (rest : Option (Nat × Nat)),
    let ea := s.readX b + imm.signExtend 64
    let x := (s.readS d).toNat
    ∀ p ∈ [(Instr.stB d b imm, d.place, x, 1, 1, false), (.stH d b imm, d.place, x, 2, 2, false),
      (.stW d b imm, d.place, x, 4, 4, false), (.stD d b imm, d.place, x, 8, 8, false),
      (.stRel d b imm, d.place, x, 8, 8, true), (.stv v b imm, v.place, s.readV v, 64, 8, false)],
      let (i, o, y, n, al, rel) := p
      s.Ready [o, xplace b] [] → s.Open → s.src.sb.length < 16 →
      s.farWide ea n { w := true, s := rel } al accStore = .ok (key, rest) →
      (n < 8 → s.poisoned key n = true → exec i s = .next (s.halted (.trap 0x0B ea))) ∧
      ((8 ≤ n ∨ s.poisoned key n = false) → ∃ t, exec i s = past t ∧
        t.me = { s.me with sb := s.me.sb ++ [⟨s.serial, ea, true, rel, .bytes key (toBytes n y) rest, s.src.dueBy, false⟩] } ∧
        s.OthersKept t ∧ t.flight = s.flight ∧ t.empty = s.empty ∧
        ∀ a, (∀ e ∈ (s.cluster (clidOf s.cid)).tu, a < e.leafKey ∨ e.leafKey + 8 ≤ a) → readByte t.mem a = readByte s.mem a)

/-- With a true guard, ready operands, passed checks and a translation, and no acquire or atomic of the thread
outstanding: AADD, AFADD, AMIN, AMAX, AAND, AOR, AXOR, AXCHG and ACAS of 8 bytes, or 4 where F[0] is 1, set D, make
their destination busy and leave for their word's home with the second source, ACAS with the value that its
destination held; AFADD carries its rounding mode and draw; LOCK and UNLOCK leave with no destination, or with a busy
one in their status forms; the PC moves past the pair (R251, R252, R253, R255, R256, R325). -/
def Obligations.FarAtomics : Prop :=
  ∀ (s : State) (d b : XReg) (v : SOpd) (z : Fin 2) (f : Fin 4) (g : Fin 8) (key : Nat), s.guarded g = true → s.Open →
    let ea := s.readX b
    let send (op : AccOp) (q : Dest) (n : Nat) (x : Word) : Out :=
      (s.dirtied s.cur ea accAtomic).departs ⟨s.cur, op, true, key, none, ea, n, x, q, s.src.dueBy, false⟩
    let n := if z.val = 0 then 8 else 4
    (s.Ready [xplace b, v.place] [xplace d] → s.loads s.cur < 8 →
      (s.far ea n { rd := true, w := true, a := true } n accAtomic = .ok key →
        (∀ p ∈ [(Instr.aadd d b v z g, AccOp.add), (.aand d b v z g, .and), (.aor d b v z g, .or), (.axor d b v z g, .xor),
          (.axchg d b v z g, .xchg)], exec p.1 s = send p.2 (.reg d.val) n (s.readS v)) ∧
        (s.Ready [xplace b, v.place, xplace d] [xplace d] →
          exec (.acas d b v z g) s = send (.cas (s.readX d)) (.reg d.val) n (s.readS v)) ∧
        ∃ t, send (.fadd s.src.rm s.cDraw) (.reg d.val) n (s.readS v) = past t ∧
          exec (.afadd d b v z g) s = past (if modeOf s.src.rm = .sr then t.drew 1 else t)) ∧
      let m := if f.val % 2 = 0 then 8 else 4
      (s.far ea m { rd := true, w := true, a := true } m accAtomic = .ok key →
        exec (.amin d b v f g) s = send (if f.val < 2 then .mins else .minu) (.reg d.val) m (s.readS v) ∧
        exec (.amax d b v f g) s = send (if f.val < 2 then .maxs else .maxu) (.reg d.val) m (s.readS v))) ∧
    (s.far ea 8 { rd := true, w := true, a := true, s := true } 8 accAtomic = .ok key →
      (s.Ready [xplace b] [] →
        exec (.lock b g) s = send .lock .none 8 0 ∧ exec (.unlock b g) s = send .unlock .none 8 0) ∧
      (s.Ready [xplace b] [xplace d] → s.loads s.cur < 8 →
        exec (.lockStatus d b g) s = send .lock (.reg d.val) 8 0 ∧
        exec (.unlockStatus d b g) s = send .unlock (.reg d.val) 8 0))

/-- Every far load, store, atomic, LOCK and UNLOCK, and every fetch, makes the checks of R42 before it has any effect,
once its operands are ready and no outstanding access or limit holds it back: outside LIMIT or the VA space it traps
with cause 0x03, without a right it needs with cause 0x04, misaligned with cause 0x05, TVAL the EA; loads need Rd,
stores W, fetches X, atomics Rd, W and A, and LD.ACQ, ST.REL, LOCK and UNLOCK also S; an access that passes has VA =
BASE × 2^16 + o (R42). -/
def Obligations.FarChecks : Prop :=
  (∀ (s : State) (d b : XReg) (x : SOpd) (v : VReg) (y : VOpd) (imm : BitVec 12) (c : Nat),
    let ea := s.readX b + imm.signExtend 64
    (∀ p ∈ [(Instr.ldBZ d b imm, xplace d, 1, 1, false), (.ldBS d b imm, xplace d, 1, 1, false),
        (.ldHZ d b imm, xplace d, 2, 2, false), (.ldHS d b imm, xplace d, 2, 2, false), (.ldWZ d b imm, xplace d, 4, 4, false),
        (.ldWS d b imm, xplace d, 4, 4, false), (.ldD d b imm, xplace d, 8, 8, false), (.ldAcq d b imm, xplace d, 8, 8, true),
        (.ldv v b imm, .vec v.val, 64, 8, false)],
      s.Ready [xplace b] [p.2.1] → s.Open → s.loads s.cur < 8 → s.src.Denied ea p.2.2.1 { rd := true, s := p.2.2.2.2 } p.2.2.2.1 c →
      exec p.1 s = .next (s.halted (.trap c ea))) ∧
    ∀ p ∈ [(Instr.stB x b imm, x.place, 1, 1, false), (.stH x b imm, x.place, 2, 2, false),
        (.stW x b imm, x.place, 4, 4, false), (.stD x b imm, x.place, 8, 8, false), (.stRel x b imm, x.place, 8, 8, true),
        (.stv y b imm, y.place, 64, 8, false)],
      s.Ready [p.2.1, xplace b] [] → s.Open → s.src.sb.length < 16 → s.src.Denied ea p.2.2.1 { w := true, s := p.2.2.2.2 } p.2.2.2.1 c →
      exec p.1 s = .next (s.halted (.trap c ea))) ∧
  (∀ (s : State) (d b : XReg) (v : SOpd) (z : Fin 2) (f : Fin 4) (g : Fin 8) (c : Nat), s.guarded g = true → s.Open →
    s.loads s.cur < 8 →
    let ea := s.readX b
    (∀ p ∈ [(Instr.aadd d b v z g, z.val), (.afadd d b v z g, z.val), (.amin d b v f g, f.val % 2), (.amax d b v f g, f.val % 2),
        (.aand d b v z g, z.val), (.aor d b v z g, z.val), (.axor d b v z g, z.val), (.axchg d b v z g, z.val),
        (.acas d b v z g, z.val)],
      let n := if p.2 = 0 then 8 else 4
      s.Ready [xplace b, v.place, xplace d] [xplace d] → s.src.Denied ea n { rd := true, w := true, a := true } n c →
      exec p.1 s = .next (s.halted (.trap c ea))) ∧
    ∀ i ∈ [Instr.lock b g, .lockStatus d b g, .unlock b g, .unlockStatus d b g],
      s.Ready [xplace b] [xplace d] → s.src.Denied ea 8 { rd := true, w := true, a := true, s := true } 8 c →
      exec i s = .next (s.halted (.trap c ea))) ∧
  (∀ (s : State) (pc : Word) (c : Nat), s.src.Denied pc 8 { x := true } 8 c → s.fetchAt pc = .error (.trap c pc)) ∧
  ∀ (t : Thread) (ea : Word) (n al : Nat) (r : Rights), (∀ c, ¬t.Denied ea n r al c) →
    let w0 := (t.seg (Fld ea 63 61)).1
    t.segCheck ea n r al = .ok (w0.getLsbD 5, Fld w0 51 16 * 2 ^ 16 + ea.toNat % 2 ^ 61)

/-- With ready operands (and a true guard) and passed checks: LDN.W, LDN.D and VLDN make their destination busy and
leave for their bytes, or take them from the store buffer as far loads do; STN.W, STN.D and VSTN enter the store
buffer, or leave as a put through a core window; NADD and NCAS make their destination busy and leave for their word's
owner; the PC moves past the pair, and neither the full/empty bits, nor memory, nor any register but a busy
destination changes. An access that touches the window of a hob core, or on a hob core the register aperture, traps
with cause 0x02 without SUP; with SUP, or where it touches neither, bytes outside one mapped range, and a plain load
through any core window, trap with cause 0x03, a misaligned address with cause 0x05, TVAL the near address in all
three; otherwise the own local store, the windows (stores as puts), the cluster scratchpad and the die scratchpad
stand at the keys of the table; the aperture serves 8-byte plain forms alone, on hob cores alone (R259, R260, R263,
R151, R71, R378). -/
def Obligations.NearMemory : Prop :=
  ((∀ (s : State) (d b : XReg) (v : VReg) (imm : BitVec 12) (r : Near),
    let na := s.readX b + imm.signExtend 64
    ∀ p ∈ [(Instr.ldnW d b imm, Dest.reg d.val, 4, 4), (.ldnD d b imm, .reg d.val, 8, 8), (.vldn v b imm, .vec v.val, 64, 8)],
      let (i, q, n, al) := p
      s.Ready [xplace b] q.places → s.Open → s.loads s.cur < 8 → s.near na n al .load = .ok r →
      let go := exec i s = s.departs ⟨s.cur, .load false false, false, r.key, none, na, n, 0, q, s.src.dueBy, false⟩
      (isAperKey r.key = true → go) ∧
      (isAperKey r.key = false → match forward s.hidden s.src.sb s.serial [(r.key, n)] with
        | .none => go
        | .all w => exec i s =
          if s.inOrder s.cur s.serial [(r.key, n)] then
            past ((s.occupy q).post (.reply { tid := s.cur, dst := q, val := w, ea := na }))
          else .next (s.halted (.wait onMemory))
        | .part => exec i s = .next (s.halted (.wait onMemory)))) ∧
  (∀ (s : State) (d : SOpd) (b : XReg) (v : VOpd) (imm : BitVec 12) (r : Near),
    let na := s.readX b + imm.signExtend 64
    ∀ p ∈ [(Instr.stnW d b imm, d.place, (s.readS d).toNat, 4, 4), (.stnD d b imm, d.place, (s.readS d).toNat, 8, 8),
      (.vstn v b imm, v.place, s.readV v, 64, 8)],
      let (i, o, y, n, al) := p
      s.Ready [o, xplace b] [] → s.near na n al .store = .ok r →
      (r.put = true → s.acquiring s.cur = false → exec i s = past (s.post (.put s.cur r.key (toBytes n y)))) ∧
      (r.put = false → s.Open → s.src.sb.length < 16 →
        exec i s = past (s.buffer na false false (.bytes r.key (toBytes n y) none)))) ∧
  ∀ (s : State) (d b : XReg) (v : SOpd) (g : Fin 8) (r : Near), s.guarded g = true → s.Open → s.loads s.cur < 8 →
    let na := s.readX b
    s.near na 8 8 .sync = .ok r → s.Ready [xplace b, v.place] [xplace d] →
    exec (.nadd d b v g) s = s.departs ⟨s.cur, .add, false, r.key, none, na, 8, s.readS v, .reg d.val, s.src.dueBy, false⟩ ∧
    (s.Ready [xplace b, v.place, xplace d] [xplace d] → exec (.ncas d b v g) s =
      s.departs ⟨s.cur, .cas (s.readX d), false, r.key, none, na, 8, s.readS v, .reg d.val, s.src.dueBy, false⟩)) ∧
  (∀ (s : State) (na : Word) (n al : Nat) (use : NearUse), 0 < n →
    let a := na.toNat
    let c := s.cid
    let i := (a - 0x40000000) / 0x40000
    let o := (a - 0x40000000) % 0x40000
    let window := 0x40000000 ≤ a ∧ a < 0x80000000 ∧ i < 68 ∧ o + n ≤ 0x30000
    let aper := 0xE0000000 ≤ a ∧ a + n ≤ 0xE4000000 ∧ isHob c = true
    let hobs (x : Nat) : Prop :=
      (0x41000000 ≤ x ∧ x < 0x41100000 ∧ (x - 0x41000000) % 0x40000 < 0x30000) ∨ (0xE0000000 ≤ x ∧ x < 0xE4000000 ∧ isHob c = true)
    let private_ : Prop := ∃ x, a ≤ x ∧ x < a + n ∧ hobs x
    (private_ → s.src.sup = false → s.near na n al use = .error (.trap 0x02 na)) ∧
    (2 ^ 32 ≤ a → s.near na n al use = .error (.trap 0x03 na)) ∧
    (s.src.sup = true ∨ ¬private_ →
      let at_ (k : Nat) (put : Bool) : Prop :=
        s.near na n al use = if a % al = 0 then .ok ⟨k, put⟩ else .error (.trap 0x05 na)
      (a + n ≤ 0x30000 → at_ (keyLocal c a) false) ∧
      (window → use ≠ .load → at_ (keyLocal (clidOf c * 128 + i) o) true) ∧
      (0x80000000 ≤ a → a + n ≤ 0x80800000 → at_ (keyCluster (clidOf c) (a - 0x80000000)) false) ∧
      (0xC0000000 ≤ a → a + n ≤ 0xC4000000 → at_ (keyDie (didOf c) (a - 0xC0000000)) false) ∧
      (aper → n = 8 → use ≠ .sync → at_ (keyAper (pkgOf c) (a - 0xE0000000)) false) ∧
      (window → use = .load → s.near na n al use = .error (.trap 0x03 na)) ∧
      (¬a + n ≤ 0x30000 → ¬window → ¬(0x80000000 ≤ a ∧ a + n ≤ 0x80800000) → ¬(0xC0000000 ≤ a ∧ a + n ≤ 0xC4000000) →
        ¬(aper ∧ n = 8 ∧ use ≠ .sync) → s.near na n al use = .error (.trap 0x03 na))))

/-- With ready operands, passed checks and no acquire or atomic of the thread outstanding: LDF and LDFE clear the
presence of their destination, which awaits its delivery; FEQ makes its destination busy; STE and STF carry their
value; each leaves for its word's owner with the thread's group, SYNCLIM and deadline, STE parks its thread, and the
PC moves past the pair; memory and the full/empty bits are as before (R261, R75, R77). -/
def Obligations.FullEmptyIssue : Prop :=
  ∀ (s : State) (d b : XReg) (v : SOpd) (imm : BitVec 12) (r : Near), s.Open →
    let na := s.readX b + imm.signExtend 64
    s.near na 8 8 .sync = .ok r →
    let go (t : State) (op : SyncOp) (x : Word) (reg : Nat) : State := t.sendSync op r.key na x reg
    (∀ op x reg, let t := s.sendSync op r.key na x reg
      t.item s.serial = some (.sync ⟨s.serial, s.cur, op, r.key, na, x, reg, s.src.grp, Fld s.src.sys.synclim 15 0, 0, s.src.pc,
        s.src.dueBy, false⟩) ∧ t.mem = s.mem ∧ t.empty = s.empty ∧ t.claims = s.claims ∧ t.threads = s.threads) ∧
    (s.Ready [xplace b] [xplace d] → s.loads s.cur < 8 →
      let absent := s.updMe fun t =>
        { t with present := setBitOf t.present d.val false, pend := setBitOf t.pend d.val true }
      exec (.ldf d b imm) s = past (go absent .ldf 0 d.val) ∧ exec (.ldfe d b imm) s = past (go absent .ldfe 0 d.val) ∧
      exec (.feq d b imm) s = past (go (s.updMe fun t => t.setBusy d.val true) .feq 0 d.val)) ∧
    (s.Ready [v.place, xplace b] [] →
      exec (.stf v b imm) s = past (go s .stf (s.readS v) 0) ∧
      exec (.ste v b imm) s = past ((go s .ste (s.readS v) 0).updMe fun t => { t with slot := .parked, park := .sync })) ∧
    (s.Ready [xplace b] [] →
      exec (.feclr b imm) s = past (go s .feclr 0 0) ∧ exec (.feset b imm) s = past (go s .feset 0 0) ∧
      exec (.claim b imm) s = past (go s .claim 0 0))

/-- A load or atomic that may be performed is performed at one instant, outside the far net at once and otherwise once
all its packets have come to its home's ports; two whose packets a switch has combined are performed at one instant,
in that order, each with its own late bit, or neither (a late bit for each, and the waiting of both for the later, are
the model's choice, log 12); a load replies with its bytes, extended, or with the aperture register; an atomic replies
with the old bytes (a signed AMIN.W or AMAX.W extended) and writes old + s, the rounded sum, the smaller or larger,
old & s, old | s, old ^ s, or s, modulo its size; ACAS writes s only where the old bytes equal its comparand; on a
poisoned word nothing is written and the reply is poisoned; LD.ACQ and LOCK hold later accesses back until the reply
lands; no thread changes, and without waiting LOCKs every byte outside the word reads as before (R249, R252, R253,
R260, R263, R250, R60, R62, R64). -/
def Obligations.AccessesAtHome : Prop :=
  (∀ (s : State) (id : Nat) (a : Access), s.access? id = some a → s.packetsOf id = [] → s.performable id a = true →
    exec (.memoryAccessAtHome id) s = .next (s.perform id a a.late)) ∧
  (∀ (s : State) (id : Nat) (a : Access) (q : Nat × Packet) (rest : List (Nat × Packet)), s.access? id = some a →
    s.packetsOf id = q :: rest →
    ((∃ r ∈ s.packetsOf id, ¬ (r.2.stage = 7 ∧ r.2.home = r.1)) → exec (.memoryAccessAtHome id) s = .next s) ∧
    ((∀ r ∈ s.packetsOf id, r.2.ids = [id] ∧ r.2.stage = 7 ∧ r.2.home = r.1) → s.performable id a = true →
      exec (.memoryAccessAtHome id) s = .next ((s.unpack [id]).perform id a (s.isLate id)))) ∧
  (∀ (s : State) (i j : Nat) (a b : Access), i ≠ j → s.access? i = some a → s.access? j = some b →
    (∀ q ∈ s.packetsOf i, q.2.ids = [i] ∨ q.2.ids = [i, j]) → (∀ q ∈ s.packetsOf j, q.2.ids = [j] ∨ q.2.ids = [i, j]) →
    (∃ q ∈ s.packetsOf i, q.2.ids = [i, j]) →
    (s.arrived i = true → s.arrived j = true → s.performable i a = true → s.performable j b = true →
      exec (.memoryAccessAtHome i) s = .next (((s.unpack [i, j]).performId (s.isLate i) i).performId (s.isLate j) j)) ∧
    (s.arrived i = false ∨ s.arrived j = false ∨ s.performable i a = false ∨ s.performable j b = false →
      exec (.memoryAccessAtHome i) s = .next s)) ∧
  ∀ (s : State) (id : Nat) (a : Access) (late : Bool), s.item id = some (.access a) →
    let due : Option Word := if late then some a.ea else none
    let bad := a.span.any fun r => s.poisoned r.1 r.2
    let w := 8 * a.n
    let old := s.load a.key a.n
    let x := a.src.toNat % 2 ^ w
    let reply (v : Nat) (bad : Option Word) (acq : Bool) : Item := .reply ⟨a.tid, a.dst, v, bad, due, acq, a.ways, a.ea, false⟩
    let answer (t : State) (v : Nat) : State := t.setItem id (reply v none false)
    let writes (v r : Nat) : State := answer ((s.storeAt a.key (toBytes a.n v)).settleLocks) r
    (∀ sext acq, a.op = .load sext acq →
      (isAperKey a.key = true → s.perform id a late = s.setItem id
        (reply (s.regRead ((a.key - 2 ^ 55) / 2 ^ 26) (a.key % 2 ^ 26)).toNat none acq)) ∧
      (isAperKey a.key = false → bad = true →
        s.perform id a late = (s.unhold id a.tid).setItem id (reply 0 (some a.ea) acq)) ∧
      (isAperKey a.key = false → bad = false → s.perform id a late = s.setItem id
        (reply (extend sext a.n (s.loadSpan a.span)) none acq))) ∧
    ((∀ sext acq, a.op ≠ .load sext acq) → isAperKey a.key = false → bad = true →
      s.perform id a late = (s.unhold id a.tid).setItem id (reply 0 (some a.ea) (decide (a.op = .lock)))) ∧
    (isAperKey a.key = false → bad = false →
      (a.op = .add → s.perform id a late = writes ((old + x) % 2 ^ w) old) ∧
      (∀ rm draw, a.op = .fadd rm draw → s.perform id a late =
        writes (fArith .add (if a.n = 8 then .f64 else .f32) false (modeOf rm) draw old x).code old) ∧
      (a.op = .mins → s.perform id a late =
        writes (if toSigned w old ≤ toSigned w x then old else x) (signExtend64 w old).toNat) ∧
      (a.op = .maxs → s.perform id a late =
        writes (if toSigned w old ≤ toSigned w x then x else old) (signExtend64 w old).toNat) ∧
      (a.op = .minu → s.perform id a late = writes (min old x) old) ∧
      (a.op = .maxu → s.perform id a late = writes (max old x) old) ∧
      (a.op = .and → s.perform id a late = writes (old &&& x) old) ∧
      (a.op = .or → s.perform id a late = writes (old ||| x) old) ∧
      (a.op = .xor → s.perform id a late = writes (old ^^^ x) old) ∧
      (a.op = .xchg → s.perform id a late = writes x old) ∧
      (∀ c, a.op = .cas c → s.perform id a late = if old = c.toNat % 2 ^ w then writes x old else answer s old)) ∧
    (s.locks = [] → (∀ v r, (writes v r).threads = s.threads) ∧ ∀ v r, s.MemKept (writes v r) a.key a.n)

/-- On a word that is not poisoned: LOCK writes the holder word of its thread into a word with HELD = 0 and answers 0,
answers 1 without a write where its thread holds the word, joins the tail of the word's queue of its die and parks its
RUNNABLE thread while the die has fewer than 1,024 waits and none held back, and is otherwise held back behind the
others, the first of which joins as soon as there is room; UNLOCK answers 1 without a write where its thread does not
hold the word, writes 0 and answers 0 where no queue of the word waits, and otherwise writes the holder word of a
queue's head, which leaves the queue and is answered 0 over the way of its LOCK, and is itself answered 0: the word
never reads HELD = 0 in between (R254, R255, R256). -/
def Obligations.LocksAtHome : Prop :=
  ∀ (s : State) (id : Nat) (a : Access) (late : Bool), isAperKey a.key = false →
    (a.span.any fun r => s.poisoned r.1 r.2) = false → a.n = 8 →
    let due : Option Word := if late then some a.ea else none
    let w := BitVec.ofNat 64 (s.load a.key 8)
    let me := s.holderWord a.tid
    let die := didOf (cidOf a.tid)
    let answer (t : State) (v : Nat) (acq : Bool) : State := t.setItem id (.reply ⟨a.tid, a.dst, v, none, due, acq, a.ways, a.ea, false⟩)
    let me' : Waiter := ⟨a.tid, a.dst, a.ea, late, id⟩
    let back (l : List Nat) : State :=
      (s.setItem id (.access { a with late := late })).setDie die { s.die die with heldLocks := l ++ [id] }
    (a.op = .lock → (s.die die).heldLocks = [] →
      (w.getLsbD 63 = false → s.perform id a late = answer (s.storeAt a.key (toBytes 8 me.toNat)) 0 true) ∧
      (w.getLsbD 63 = true → sameHolder w me = true → s.perform id a late = answer s 1 true) ∧
      (w.getLsbD 63 = true → sameHolder w me = false → s.lockWaits die < 1024 →
        let t := s.perform id a late
        t.mem = s.mem ∧ t.item id = none ∧ t.locks = joinLock s.locks a.key die me' ∧
          ((s.th a.tid).slot = .runnable → (t.th a.tid).park = .lock ∧ (t.th a.tid).slot = .parked)) ∧
      (w.getLsbD 63 = true → sameHolder w me = false → 1024 ≤ s.lockWaits die → s.perform id a late = back [])) ∧
    (∀ l, a.op = .lock → (s.die die).heldLocks = l → l ≠ [] → id ∉ l → w.getLsbD 63 = true → sameHolder w me = false →
      s.perform id a late = back l) ∧
    (∀ l, a.op = .lock → (s.die die).heldLocks = id :: l → id ∉ l → w.getLsbD 63 = true → sameHolder w me = false →
      s.lockWaits die < 1024 →
      let t := s.perform id a late
      t.locks = joinLock s.locks a.key die me' ∧ (t.die die).heldLocks = l ∧ t.item id = none) ∧
    (a.op = .unlock →
      (sameHolder w me = false → s.perform id a late = answer s 1 false) ∧
      (sameHolder w me = true → (∀ q ∈ s.locks, q.key ≠ a.key) →
        s.perform id a late = answer (s.storeAt a.key (toBytes 8 0)) 0 false) ∧
      (sameHolder w me = true → (∃ q ∈ s.locks, q.key = a.key) → (∀ q ∈ s.locks, q.waiters ≠ [] ∧ ∀ v ∈ q.waiters, v.id ≠ id) →
        ∃ q ∈ s.locks, q.key = a.key ∧ ∃ v rest, q.waiters = v :: rest ∧
          let t := s.perform id a late
          t.mem = (s.storeAt a.key (toBytes 8 (s.holderWord v.tid).toNat)).mem ∧
          t.item id = some (.reply ⟨a.tid, a.dst, 0, none, due, false, a.ways, a.ea, false⟩) ∧
          t.locks = dropHead s.locks a.key q.die ∧ t.threads = s.threads ∧
          t.item v.id = some (.reply
            { tid := v.tid, dst := v.dst, val := 0, late := if v.late then some v.ea else none, acq := true,
              ways := waysOf (cidOf v.tid) [(a.key, 8)], ea := v.ea, grant := true })))

/-- At the end of its way: a reply lands once no older access with a packet of one source and destination port with
it, a FEQ among them, has its reply still to come, but that of a lock that has waited lands at once and wakes its
parked thread; it writes its register or v register, which stops being busy and is present; a poisoned one leaves the
old value and makes cause 0x0B pending, the first of two before a boundary keeping its address (log 26); a late one
makes cause 0x10 pending while DEADLINE.LTE is set; one whose way passes a fabric port without a link stays there, and
one that comes over the fabric wakes its package; a delivery sets its register's presence and awaits it no more; a put
writes its bytes and no others and becomes an acknowledgement, which ends once its way has its links, that of a late
PUTR as a late reply (of its address log 12); the answer of a far agent lands in its register. The oldest store of a
thread, once it may leave, leaves the buffer and writes its bytes, and no byte outside them changes where no LOCK
waits; one that crosses the far net first sends its packets with its deadline, waits for them in the buffer, and is
then written but for what a port has refused; a slot that an OUT handle commits becomes a record on its way to the
consumer; the rest of the buffer stays in order, and a store that may not leave yet changes nothing (R162, R250, R61,
R64, R75, R151, R387, R391, R149, R155, R63, R66). -/
def Obligations.StoresAndLandings : Prop :=
  ((∀ (s : State) (id : Nat) (r : Reply), s.item id = some (.reply r) → s.firstReply id r = false →
    exec (.loadReply id) s = .next s) ∧
  (∀ (s : State) (id : Nat) (r : Reply), r.ways = [] → s.firstReply id r = true) ∧
  (∀ (s : State) (id : Nat) (r : Reply), s.firstReply id r = true ↔ r.grant = true ∨ ∀ p ∈ s.flight, p.1 < id →
    (∀ a, p.2 = .access a → (∃ w ∈ a.ways, w ∈ r.ways) → s.lockHeld p.1 = true) ∧
    (∀ x, p.2 = .reply x → ∀ w ∈ x.ways, w ∉ r.ways) ∧
    ∀ a, p.2 = .sync a → a.op = .feq → ∀ w ∈ waysOf (cidOf a.tid) [(a.key, 8)], w ∉ r.ways) ∧
  (∀ (cid : Nat) (runs : List (Nat × Nat)) (w : Nat × Nat), w ∈ waysOf cid runs ↔ ∃ r ∈ pieces runs,
    w = (didOf cid * 128 + srcPort cid, servedOn (didOf cid) r.1 * 128 + homePort r.1)) ∧
  (∀ (s : State) (id : Nat) (r : Reply), s.item id = some (.reply r) → s.replyCut r.ways = true →
    exec (.loadReply id) s = .next s) ∧
  (∀ (s : State) (id tid i : Nat) (v : Nat) (acq grant : Bool) (ways : List (Nat × Nat)) (ea : Word) (r : Reply),
    (s.th tid).slot ≠ .vacant → (s.th tid).rotate = none → r = ⟨tid, .reg i, v, none, none, acq, ways, ea, grant⟩ →
    s.item id = some (.reply r) → s.firstReply id r = true → s.replyCut ways = false → i < 32 →
    ∃ t, exec (.loadReply id) s = .next t ∧ (t.th tid).reg i = BitVec.ofNat 64 v ∧ (t.th tid).busy.getLsbD i = false ∧
      (t.th tid).present.getLsbD i = true ∧ (∀ j, j ≠ i → (t.th tid).reg j = (s.th tid).reg j) ∧
      (∀ u, u ≠ tid → t.th u = s.th u) ∧ t.mem = s.mem ∧
      (grant = false → (t.th tid).slot = (s.th tid).slot) ∧
      (grant = true → (s.th tid).park = .lock → (t.th tid).park = .none ∧ (t.th tid).slot ≠ .parked) ∧
      ∀ w ∈ ways, w.1 / 512 ≠ w.2 / 512 → (t.pkg (w.1 / 512)).around.pscur = 0) ∧
  (∀ (s : State) (id tid i : Nat) (v : Nat), (s.th tid).slot ≠ .vacant → (s.th tid).rotate = none →
    s.item id = some (.result tid (.vec i) v) → i < 16 →
    ∃ t, exec (.loadReply id) s = .next t ∧ (t.th tid).vec i = BitVec.ofNat 512 v ∧ (t.th tid).vbusy.getLsbD i = false ∧
      (t.th tid).regs = (s.th tid).regs ∧ t.mem = s.mem) ∧
  (∀ (s : State) (id tid : Nat) (d : Dest) (v : Nat) (ea at_ : Word) (late : Option Word) (acq grant : Bool)
    (ways : List (Nat × Nat)) (r : Reply), (s.th tid).slot ≠ .vacant → (s.th tid).rotate = none →
    r = ⟨tid, d, v, some ea, late, acq, ways, at_, grant⟩ → s.item id = some (.reply r) →
    s.firstReply id r = true → s.replyCut ways = false →
    ∃ t, exec (.loadReply id) s = .next t ∧ (t.th tid).regs = (s.th tid).regs ∧ (t.th tid).v = (s.th tid).v ∧
      (t.th tid).pending.poison = some ((s.th tid).pending.poison.getD ea) ∧
      (∀ l, late = some l → (s.th tid).sys.deadline.getLsbD 63 = true →
        (t.th tid).pending.late = some ((s.th tid).pending.late.getD l)) ∧
      (late = none ∨ (s.th tid).sys.deadline.getLsbD 63 = false → (t.th tid).pending.late = (s.th tid).pending.late)) ∧
  (∀ (s : State) (id tid i : Nat) (v : Word), (s.th tid).slot ≠ .vacant → (s.th tid).slot ≠ .saved → i < 32 →
    s.item id = some (.deliver ⟨tid, i, v, none, none⟩) →
    ∃ t, exec (.deliveryLanding id) s = .next t ∧ (t.th tid).reg i = v ∧ (t.th tid).present.getLsbD i = true ∧
      (t.th tid).pend.getLsbD i = false ∧ t.mem = s.mem ∧ ∀ u, u ≠ tid → t.th u = s.th u) ∧
  (∀ (s : State) (id tid i : Nat) (v : Word) (na : Word), (s.th tid).slot ≠ .vacant → i < 32 →
    s.item id = some (.deliver ⟨tid, i, v, some na, none⟩) →
    ∃ t, exec (.deliveryLanding id) s = .next t ∧ (t.th tid).regs = (s.th tid).regs ∧ (t.th tid).present.getLsbD i = true ∧
      (t.th tid).pend.getLsbD i = false ∧ (t.th tid).pending.poison = some ((s.th tid).pending.poison.getD na)) ∧
  (∀ (s : State) (id tid key : Nat) (data : List Byte), s.item id = some (.put tid key data) →
    (∀ p ∈ s.flight, ∀ k d, p.2 = .put tid k d → id ≤ p.1) →
    ∃ t, exec (.putArrival id) s = .next t ∧ t.item id = some (.ack tid (localCore key * 16) false) ∧ t.threads = s.threads ∧
      t.mem = (s.storeAt key data).mem ∧ s.MemKept t key data.length ∧ t.empty = s.empty) ∧
  (∀ (s : State) (id tid from_ : Nat) (late : Bool), s.item id = some (.ack tid from_ late) →
    let cut := s.unlinked (pkgOf (cidOf tid)) (pkgOf (cidOf from_))
    (cut = true → exec (.putAcknowledgement id) s = .next s) ∧
    (cut = false → late = false ∨ (s.th tid).slot = .vacant →
      exec (.putAcknowledgement id) s = .next ((s.wakeFrom from_ tid).dropItem id)) ∧
    (cut = false → late = true → (s.th tid).slot ≠ .vacant → ∃ t ea, exec (.putAcknowledgement id) s = .next t ∧
      t.item id = none ∧ t.mem = s.mem ∧ (∀ u, u ≠ tid → t.th u = s.th u) ∧
      t.th tid = { s.th tid with pending := { (s.th tid).pending with
        late := if (s.th tid).sys.deadline.getLsbD 63 then some ((s.th tid).pending.late.getD ea)
          else (s.th tid).pending.late } })) ∧
  ∀ (s : State) (id tid i : Nat) (v : Word), s.item id = some (.status tid i v) → i < 32 →
    ∃ t, exec (.statusAnswerArrival id) s = .next t ∧ (t.th tid).reg i = v ∧ (t.th tid).busy.getLsbD i = false ∧
      (∀ u, u ≠ tid → t.th u = s.th u) ∧ t.mem = s.mem) ∧
  ((∀ (s : State) (tid : Nat) (e : StoreEntry) (rest : List StoreEntry) (k : Nat) (d : List Byte), (s.th tid).sb = e :: rest →
    e.kind = .bytes k d none → d ≠ [] →
    let left := (s.updTh tid fun t => { t with sb := rest }).unpack [e.id]
    (s.mayDrain tid e = false → exec (.storeDrain tid) s = .next s) ∧
    (s.mayDrain tid e = true → crosses k = false → s.packetsOf e.id = [] →
      exec (.storeDrain tid) s = .next (left.writeRun k d).settleLocks) ∧
    (s.mayDrain tid e = true → crosses k = true →
      (e.sent = false → exec (.storeDrain tid) s = .next ((s.updTh tid fun t => { t with sb := { e with sent := true } :: rest }).sendOut
        e.id (cidOf tid) (s.th tid).tenant e.deadline true [(k, d.length)])) ∧
      (e.sent = true → s.arrived e.id = false → exec (.storeDrain tid) s = .next s) ∧
      (∀ q, e.sent = true → s.arrived e.id = true → s.packetsOf e.id = [q] → q.2.key = k → q.2.len = d.length →
        exec (.storeDrain tid) s = .next (left.storeAt k d).settleLocks) ∧
      (e.sent = true → s.packetsOf e.id = [] → exec (.storeDrain tid) s = .next left.settleLocks))) ∧
  (∀ (s : State) (tid q cons consQ bnd : Nat) (x : Staged) (e : StoreEntry) (rest : List StoreEntry), (s.th tid).sb = e :: rest →
    e.kind = .push q cons consQ bnd x → exec (.storeDrain tid) s =
      .next ((s.updTh tid fun t => { t with sb := rest }).setItem e.id (.record tid q cons consQ bnd x))) ∧
  (∀ (s : State) (ids : List Nat), let t := s.unpack ids
    t.mem = s.mem ∧ t.threads = s.threads ∧ t.flight = s.flight ∧ t.poison = s.poison ∧ ∀ i ∈ ids, t.packetsOf i = []) ∧
  (∀ s : State, s.locks = [] → s.settleLocks = s) ∧
  (∀ (s : State) (k : Nat) (d : List Byte), isAperKey k = false → s.writeRun k d = s.storeAt k d) ∧
  ∀ (s : State) (k : Nat) (d : List Byte), s.MemKept (s.storeAt k d) k d.length ∧ (s.storeAt k d).threads = s.threads ∧
    (∀ i, i < d.length → s.hidden (k + i) = false →
      let w := (k + i) / 8
      w ∉ s.poison ∨ (k ≤ w * 8 ∧ w * 8 + 8 ≤ k + d.length) →
      readByte (s.storeAt k d).mem (k + i) = d.getD i 0))

/-- An operation whose packet, if it crosses the far net, has come to its word's owner, and that finds an empty queue:
LDF and LDFE of a full word deliver its value, LDFE sets it empty; STE of an empty word writes, sets it full and
clears its claim; each of the three otherwise joins the queue while the owner's pool has room, and is refused and
counted while it has none (of a full pool log 21); STF, FECLR, FESET, FEQ and CLAIM act at once, a CLAIM of a thread
without a group with group number 0 (log 21); an operation that queues joins a queue that is not empty even if it
could proceed; whatever arrives, the head of the word's queue cannot proceed afterwards if it could not before; a
refused access goes again, but for a SAVED thread; each time TIME passes a multiple of 1,024 ns every parked access
counts a retry, and a load that exceeds its limit leaves its queue, its register present with its old value and cause
0x09 pending, the first of two before a boundary keeping its address (log 26) (R73, R74, R77, R261). -/
def Obligations.FullEmptyAtOwner : Prop :=
  (∀ (s : State) (id : Nat) (a : Sync), s.item id = some (.sync a) → a.id = id → s.arrived id = true →
    s.syncReady id a = true → s.waiters (a.key / 8) = [] → s.poisoned a.key 8 = false →
    let b : Sync := { a with late := a.late || s.isLate id }
    let due : Option Word := if b.late then some a.na else none
    let u := s.unpack [id]
    let full := s.isFull a.key
    let v := s.load a.key 8
    let left := u.dropItem id
    let written := left.storeAt a.key (toBytes 8 a.val.toNat)
    let go (t : State) : Prop := exec (.syncAccessArrival id) s = .next t
    let deliver := u.setItem id (.deliver ⟨a.tid, a.reg, BitVec.ofNat 64 v, none, due⟩)
    (a.op = .ldf → full = true → go deliver) ∧
    (a.op = .ldfe → full = true → go (deliver.setFull a.key false)) ∧
    (a.op = .ste → full = false → (s.th a.tid).park = .sync →
      go (((written.setFull a.key true).setClaim a.key none).updTh a.tid Thread.wake)) ∧
    (a.op = .ldf ∨ a.op = .ldfe → full = false → s.pool (ownerOf a.key) < 256 → go (left.setWaiters (a.key / 8) [b])) ∧
    (a.op = .ste → full = true → s.pool (ownerOf a.key) < 256 → go (left.setWaiters (a.key / 8) [b])) ∧
    ((a.op = .ldf ∨ a.op = .ldfe) ∧ full = false ∨ a.op = .ste ∧ full = true → 256 ≤ s.pool (ownerOf a.key) →
      a.limit = 0 ∨ a.count < a.limit → go (u.setItem id (.refused { b with count := a.count + 1 }))) ∧
    (a.op = .stf → go ((written.setFull a.key true).setClaim a.key none)) ∧
    (a.op = .feclr → go (left.setFull a.key false)) ∧
    (a.op = .feset → go ((left.setFull a.key true).setClaim a.key none)) ∧
    (a.op = .feq → go (u.setItem id (.reply
      { tid := a.tid, dst := .reg a.reg, val := full.toNat + 4 * (s.claim a.key).isSome.toNat, late := due,
        ways := waysOf (cidOf a.tid) [(a.key, 8)], ea := a.na }))) ∧
    (a.op = .claim → go (if full then left else left.setClaim a.key (some (a.grp.getD 0))))) ∧
  (∀ (s : State) (id : Nat) (a : Sync), s.item id = some (.sync a) → s.arrived id = true → s.syncReady id a = true →
    a.op.queues = true → s.waiters (a.key / 8) ≠ [] → s.pool (ownerOf a.key) < 256 → exec (.syncAccessArrival id) s =
      .next (((s.unpack [id]).dropItem id).setWaiters (a.key / 8) (s.waiters (a.key / 8) ++ [{ a with late := a.late || s.isLate id }]))) ∧
  (∀ (s t : State) (id : Nat) (a : Sync), s.item id = some (.sync a) → exec (.syncAccessArrival id) s = .next t →
    let stuck (u : State) : Prop := ∀ h ∈ (u.waiters (a.key / 8)).head?, h.op.proceeds (u.isFull (a.key / 8 * 8)) = false
    stuck s → stuck t) ∧
  (∀ (s : State) (id : Nat) (a : Sync), s.item id = some (.refused a) →
    ((s.th a.tid).slot = .saved → exec (.syncReissue id) s = .next s) ∧
    ((s.th a.tid).slot ≠ .saved → exec (.syncReissue id) s = .next ((s.setItem id (.sync a)).sendOut id (cidOf a.tid) (s.th a.tid).tenant a.deadline a.op.stores
      [(a.key, 8)]))) ∧
  (∀ s : State, (∀ p ∈ s.deferred, p.1 * 8 < 2 ^ 66 ∧ ∀ a ∈ p.2, a.limit = 0 ∨ a.count < a.limit) →
    ∃ t, exec .syncRetryTick s = .next t ∧ t.time.toNat % 1024 = 0 ∧ t.threads = s.threads ∧ t.mem = s.mem ∧
      t.deferred = s.deferred.map fun p => (p.1, p.2.map fun a => { a with count := a.count + 1 })) ∧
  ∀ (s : State) (a : Sync) (w : Nat), s.deferred = [(w, [a])] → w * 8 < 2 ^ 66 → a.op = .ldf ∨ a.op = .ldfe →
    a.limit ≠ 0 → a.limit ≤ a.count → a.reg < 32 → ∃ t, exec .syncRetryTick s = .next t ∧ t.deferred = [] ∧
      ((s.th a.tid).slot ≠ .saved → t.mem = s.mem) ∧
      (t.th a.tid).pending.sync = some ((s.th a.tid).pending.sync.getD (a.na, none)) ∧
      (t.th a.tid).present.getLsbD a.reg = true ∧ (t.th a.tid).regs = (s.th a.tid).regs

/-- A powered switch with one head bound for an output sends it to the next stage, on the line of that output; with
two heads that do not combine it sends the one that goes first and keeps the other; two that combine go on as one
packet, input 0 first (with input 0's deadline and tenant: log 12); a head that has waited 256 network cycles goes
first, else one with a deadline, else the earlier deadline, else input 0; a packet whose deadline TIME has passed is
marked late and counted in LATECNT once; a switch whose inputs have been empty for 512 network cycles powers down, a
wake signal of a powered one starts that count again, of an unpowered one wakes it, and neither loses a packet (R61,
R62, R63, R64, R65). -/
def Obligations.FarNetSwitches : Prop :=
  (∀ (s : State) (die stage sw out : Nat) (p : Packet), let d := s.die die
    d.off.contains (switchNo stage sw) = false → stage < 6 → p.stage = stage → p.out = out →
    (d.head stage sw 0 = some p ∧ (∀ q, d.head stage sw 1 = some q → q.out ≠ out)) ∨
      (d.head stage sw 1 = some p ∧ (∀ q, d.head stage sw 0 = some q → q.out ≠ out)) →
    ∃ t q, exec (.farNetForward die stage sw out) s = .next t ∧ (t.die die).packets = (d.without p).packets ++ [q] ∧
      q.stage = stage + 1 ∧ q.line = 2 * sw + out ∧ q.ids = p.ids ∧ q.dport = p.dport ∧ q.deadline = p.deadline ∧
      q.late = (p.late || (!p.nodl && passed p.deadline s.time)) ∧ t.mem = s.mem ∧ t.threads = s.threads ∧
      t.flight = s.flight ∧ ((p.nodl = true ∨ p.late = true ∨ passed p.deadline s.time = false) →
        (t.die die).latecnt = d.latecnt ∧ q.lates = p.lates) ∧
      (p.nodl = false → p.late = false → passed p.deadline s.time = true →
        (t.die die).latecnt = satInc d.latecnt ∧ q.lates = p.ids)) ∧
  (∀ (s : State) (die stage sw out : Nat) (p q : Packet), let d := s.die die
    d.off.contains (switchNo stage sw) = false → d.head stage sw 0 = some p → d.head stage sw 1 = some q → p.out = out →
    q.out = out → exec (.farNetForward die stage sw out) s =
      if s.joinable p q then
        .next ((s.setDie die ((d.without p).without q)).sendOn die sw { p with ids := p.ids ++ q.ids, lates := p.lates ++ q.lates } out)
      else if upperLoses p q s.time then .next ((s.setDie die (d.without q)).sendOn die sw q out)
      else .next ((s.setDie die (d.without p)).sendOn die sw p out)) ∧
  (∀ (p q : Packet) (now : BitVec 48),
    (p.aged now = true → upperLoses p q now = false) ∧
    (p.aged now = false → q.aged now = true → upperLoses p q now = true) ∧
    (p.aged now = false → q.aged now = false →
      (p.nodl = true → q.nodl = false → upperLoses p q now = true) ∧
      (p.nodl = false → q.nodl = true → upperLoses p q now = false) ∧
      (p.nodl = true → q.nodl = true → upperLoses p q now = false) ∧
      (p.nodl = false → q.nodl = false →
        (upperLoses p q now = true ↔ 2 ^ 47 ≤ (q.deadline + 2 ^ 48 - p.deadline % 2 ^ 48) % 2 ^ 48)))) ∧
  (∀ (s : State) (die stage sw : Nat), let d := s.die die
    d.head stage sw 0 = none → d.head stage sw 1 = none →
    let idle := (s.time.toNat + 2 ^ 48 - lookup 0 d.idleFrom (switchNo stage sw)) % 2 ^ 48
    (5120 ≤ 12 * idle →
      exec (.switchPowerDown die stage sw) s = .next (s.setDie die { d with off := addKey d.off (switchNo stage sw) })) ∧
    (12 * idle < 5120 → exec (.switchPowerDown die stage sw) s = .next s)) ∧
  (∀ (d : Die) (n time : Nat), (d.wake n time).packets = d.packets ∧ (d.wake n time).off = d.off ∧
    (d.off.contains n = false → lookup 0 (d.wake n time).idleFrom n = time) ∧
    (d.off.contains n = true → n ∈ (d.wake n time).waking)) ∧
  ∀ (s : State) (die stage sw : Nat), let d := s.die die
    d.waking.contains (switchNo stage sw) = true → exec (.switchWake die stage sw) s =
      .next (s.setDie die { d with off := delKey d.off (switchNo stage sw), waking := delKey d.waking (switchNo stage sw),
                                   idleFrom := insert d.idleFrom (switchNo stage sw) s.time.toNat })

/-- QBIND of an unbound handle: LOCAL and IN bind an area of 128 bytes and C slots at a 64-aligned near address inside
the own local store that no bound handle of the core overlaps, and d takes 0; OUT makes d busy until the consumer's
channel has performed the binding or refused it; then d takes 1 where the named slot is VACANT or the named handle is
not bound IN, 3 where it is of another cluster or tenant, 2 where size or capacity differ, each with nothing bound,
and 0 otherwise, where the handle feeds the channel as one of at most two producers, and is current if none of them is
current in its term and no SEAM is awaited; a third producer and a bound handle trap with cause 0x0A, TVAL the handle;
a QBIND that only bindings still on their way could make a third, and what uses the handle meanwhile, wait (the
model's choice, log 26). QUNBIND of a LOCAL handle, of an IN handle without producers or of an OUT handle that no
pending merge names unbinds it; any other traps with cause 0x0A, TVAL the handle (R278, R279, R280, R130, R335, R374).
-/
def Obligations.RingBinding : Prop :=
  (∀ (s : State) (q : Fin 8) (kind sz : Fin 4) (lc : Fin 8) (d a : XReg), s.Ready [xplace a] [xplace d] →
    (s.binding q.val = true → exec (.qbind q kind sz lc d a) s = .next (s.halted (.wait onAnswer))) ∧
    (s.binding q.val = false → (s.src.ring q.val).kind ≠ .unbound →
      (2 ≤ kind.val → Fld (s.readX a) 31 25 = 0 ∧ Fld (s.readX a) 63 35 = 0) →
      exec (.qbind q kind sz lc d a) s = .next (s.halted (.trap 0x0A (BitVec.ofNat 64 q.val))))) ∧
  (∀ (s : State) (q : Fin 8) (kind sz : Fin 4) (lc : Fin 8) (d a : XReg), s.Ready [xplace a] [xplace d] →
    s.binding q.val = false → (s.src.ring q.val).kind = .unbound → kind.val < 2 →
    let size := 8 * 2 ^ sz.val
    let cap := 2 ^ (lc.val + 1)
    let na := (s.readX a).toNat
    let key := keyLocal s.cid na
    na + (128 + cap * size) ≤ 0x30000 → s.areaTaken s.cid key (128 + cap * size) = false → na % 64 = 0 →
    exec (.qbind q kind sz lc d a) s = (s.numbered.updMe fun t => t.setRing q.val
      { kind := if kind.val = 0 then .loc else .inn, size := size, cap := cap, base := key, bound := s.serial }).deliversX d 0) ∧
  (∀ (s : State) (q : Fin 8) (sz : Fin 4) (lc : Fin 8) (d a : XReg) (kind : Fin 4), s.Ready [xplace a] [xplace d] →
    s.binding q.val = false → (s.src.ring q.val).kind = .unbound → 2 ≤ kind.val → Fld (s.readX a) 31 25 = 0 →
    Fld (s.readX a) 63 35 = 0 →
    let size := 8 * 2 ^ sz.val
    let cap := 2 ^ (lc.val + 1)
    let cons := Fld (s.readX a) 24 0
    let consQ := Fld (s.readX a) 34 32
    let st := s.bindStatus s.cur size cap cons consQ
    let n := ((s.th (s.savedAs cons)).ring consQ).prods.length
    (st ≠ 0 ∨ n + s.bindsTo cons consQ < 2 → exec (.qbind q kind sz lc d a) s =
      past ((s.updMe fun t => t.setBusy d.val true).post (.bind s.cur q.val size cap cons consQ d.val))) ∧
    (st = 0 → 2 ≤ n → exec (.qbind q kind sz lc d a) s = .next (s.halted (.trap 0x0A (BitVec.ofNat 64 q.val)))) ∧
    (st = 0 → n < 2 → 2 ≤ n + s.bindsTo cons consQ → exec (.qbind q kind sz lc d a) s = .next (s.halted (.wait onAnswer)))) ∧
  (∀ (s : State) (tid size cap cons consQ : Nat),
    let c := s.th (s.savedAs cons)
    let r := c.ring consQ
    let other : Prop := clidOf (cidOf cons) ≠ clidOf (cidOf tid) ∨ c.tenant ≠ (s.th tid).tenant
    let st := s.bindStatus tid size cap cons consQ
    (c.slot = .vacant ∨ r.kind ≠ .inn → st = 1) ∧
    (c.slot ≠ .vacant → r.kind = .inn → other → st = 3) ∧
    (c.slot ≠ .vacant → r.kind = .inn → ¬other → r.size ≠ size ∨ r.cap ≠ cap → st = 2) ∧
    (c.slot ≠ .vacant → r.kind = .inn → ¬other → r.size = size → r.cap = cap → st = 0)) ∧
  (∀ (s : State) (id tid q size cap cons consQ reg : Nat), s.item id = some (.bind tid q size cap cons consQ reg) → reg < 32 →
    let c := s.savedAs cons
    let r := (s.th c).ring consQ
    let st := s.bindStatus tid size cap cons consQ
    ((s.th tid).exited = true → exec (.statusAnswerArrival id) s = .next (s.dropItem id)) ∧
    ((s.th tid).exited = false → st ≠ 0 → ∃ t, exec (.statusAnswerArrival id) s = .next t ∧
      (t.th tid).reg reg = BitVec.ofNat 64 st ∧ (t.th tid).busy.getLsbD reg = false ∧ t.mem = s.mem ∧ t.item id = none ∧
      ∀ u, (t.th u).rings = (s.th u).rings) ∧
    ((s.th tid).exited = false → st = 0 → 2 ≤ r.prods.length → exec (.statusAnswerArrival id) s = .next s) ∧
    ((s.th tid).exited = false → st = 0 → r.prods.length < 2 → q < 8 → consQ < 8 → ((s.th tid).ring q).kind = .unbound →
      ∃ t, exec (.statusAnswerArrival id) s = .next t ∧
        (t.th tid).reg reg = 0 ∧ (t.th tid).busy.getLsbD reg = false ∧ t.mem = s.mem ∧ t.item id = none ∧
        ((t.th tid).ring q).kind = .out ∧ ((t.th tid).ring q).size = size ∧ ((t.th tid).ring q).cap = cap ∧
        ((t.th tid).ring q).cons = c ∧ ((t.th tid).ring q).consQ = consQ ∧ ((t.th tid).ring q).consBound = r.bound ∧
        ((t.th c).ring consQ).prods = r.prods ++ [(tid, q)] ∧
        (r.cur = none → ((t.th c).ring consQ).cur = some (tid, q)) ∧
        (∀ p, r.cur = some p → (s.th tid).ring q = {} →
          let feeds : Prop := p ∈ r.prods ∧ s.isCurrent p.1 p.2 = true
          (r.merge.isSome = true ∨ feeds → ((t.th c).ring consQ).cur = some p) ∧
          (r.merge = none → ¬feeds → ((t.th c).ring consQ).cur = some (tid, q))))) ∧
  ∀ (s : State) (q g : Fin 8), s.guarded g = true →
    let r := s.me.ring q.val
    let named : Bool := (s.consumer r).merge.any fun m => decide (m.newTid = s.cur) && decide (m.newQ = q.val)
    (s.binding q.val = true → exec (.qunbind q g) s = .next (s.halted (.wait onAnswer))) ∧ (s.binding q.val = false →
    (r.kind = .loc ∨ r.kind = .inn ∧ r.prods = [] →
      exec (.qunbind q g) s = past (s.updMe fun t => t.setRing q.val {})) ∧
    (r.kind = .out → named = false → ∃ t, exec (.qunbind q g) s = past t ∧ t.me.ring q.val = {} ∧ t.mem = s.mem ∧
      (r.cons ≠ s.cur → (s.consumer r).kind = .inn → (s.consumer r).bound = r.consBound → r.consQ < 8 →
        (s.cur, q.val) ∉ ((t.th r.cons).ring r.consQ).prods)) ∧
    (r.kind = .unbound ∨ r.kind = .inn ∧ r.prods ≠ [] ∨ r.kind = .out ∧ named = true →
      exec (.qunbind q g) s = .next (s.halted (.trap 0x0A (BitVec.ofNat 64 q.val)))))

/-- QSTAT delivers the state of a handle, 0 for an unbound one and its filled slots for an IN one; QPOP of n slots
that have been filled moves HEAD on, without waiting for an undelivered acquire (log 24), and an IN handle returns n
slots to its current producer for its present term, if that feeds the handle still and has one; QPUSH of a LOCAL ring
with room moves TAIL on and fills n slots; QPUSH of an OUT handle that is current, with n free slots, hands its staged
slots to the store buffer, blank where none is staged, and takes n from its free slots; a record that arrives enters
the consumer's slot at TAIL and no other byte of memory changes, and one for a binding that has gone is lost; a credit
gives its slots back to the handle while the term it was returned for lasts (R281, R282, R280, R104, R130, R149,
R155). -/
def Obligations.RingAdvance : Prop :=
  (∀ (s : State) (d : XReg) (q g : Fin 8), s.guarded g = true → s.Ready [] [xplace d] →
    exec (.qstat d q g) s = s.deliversX d (s.ringStat q.val) ∧
    ((s.src.ring q.val).kind = .unbound → s.ringStat q.val = 0) ∧
    ((s.src.ring q.val).kind = .inn → (s.src.ring q.val).filled < 2 ^ 16 →
      Fld (s.ringStat q.val) 15 0 = (s.src.ring q.val).filled)) ∧
  (∀ (s : State) (k q g : Fin 8), s.guarded g = true →
    let r := s.src.ring q.val
    let n := k.val + 1
    r.kind = .loc ∨ r.kind = .inn → n ≤ r.cap → n ≤ r.filled → (q.val = 0 → s.src.inheriting = false) →
    s.seamAtHead r = false → s.drainAtHead s.src q.val = false →
    (∀ i, i < n → (r.slotBits (r.head + i)).typed = false ∨ (r.slotBits (r.head + i)).tx = s.src.tx) →
    let m := s.me.ring q.val
    let u := s.updMe fun t => t.setRing q.val { m with head := (m.head + n) % m.cap, filled := m.filled - n }
    (m.kind ≠ .inn ∨ m.cur = none → exec (.qpop k q g) s = past u) ∧
    (∀ p, m.kind = .inn → m.cur = some p → let o := (u.th p.1).ring p.2
      exec (.qpop k q g) s = past (if o.feeds s.cur q.val m.bound && decide (o.term ≠ 0) then u.post (.credit p.1 p.2 o.term n) else u))) ∧
  (∀ (r : Ring) (t q bnd : Nat), r.feeds t q bnd = true ↔ r.kind = .out ∧ r.cons = t ∧ r.consQ = q ∧ r.consBound = bnd) ∧
  (∀ (s : State) (k q g : Fin 8), s.guarded g = true →
    let r := s.src.ring q.val
    let n := k.val + 1
    s.binding q.val = false → r.kind = .loc → n ≤ r.cap → n ≤ r.cap - r.filled →
    let m := s.me.ring q.val
    exec (.qpush k q g) s = past (s.updMe fun t => t.setRing q.val { m with tail := (m.tail + n) % m.cap, filled := m.filled + n })) ∧
  (∀ (s : State) (k q g : Fin 8), s.guarded g = true →
    let r := s.src.ring q.val
    let m := s.me.ring q.val
    let n := k.val + 1
    s.binding q.val = false → r.kind = .out → n ≤ r.cap → s.acquiring s.cur = false → s.consumerEnded r = false → n ≤ r.free →
    s.mayPush s.cur q.val = true → s.src.sb.length + n ≤ 16 →
    ∃ t, exec (.qpush k q g) s = past t ∧ t.mem = s.mem ∧ s.OthersKept t ∧ (t.me.ring q.val).free = m.free - n ∧
      (t.me.ring q.val).tail = (m.tail + n) % m.cap ∧ (t.me.ring q.val).staged = [] ∧
      t.me.sb.length = s.me.sb.length + n ∧
      ∀ i, i < n → ∃ e, t.me.sb[s.me.sb.length + i]? = some e ∧
        e.kind = .push q.val m.cons m.consQ m.consBound (lookup (blankSlot s.cur) m.staged i)) ∧
  (∀ (s : State) (id tid q cons consQ bnd : Nat) (x : Staged), s.item id = some (.record tid q cons consQ bnd x) →
    s.firstRecord id cons consQ = true → (s.th cons).slot ≠ .saved → ((s.th cons).ring consQ).bound ≠ bnd →
    exec (.ringRecordArrival id) s = .next (s.dropItem id)) ∧
  (∀ (s : State) (id tid q cons consQ : Nat) (x : Staged),
    s.item id = some (.record tid q cons consQ ((s.th cons).ring consQ).bound x) →
    s.firstRecord id cons consQ = true → (s.th cons).slot ≠ .saved → ((s.th cons).ring consQ).kind = .inn → consQ < 8 →
    let r := (s.th cons).ring consQ
    ∃ t, exec (.ringRecordArrival id) s = .next t ∧ ((t.th cons).ring consQ).filled = r.filled + 1 ∧
      ((t.th cons).ring consQ).tail = (r.tail + 1) % r.cap ∧ ((t.th cons).ring consQ).slotBits r.tail = x.bits ∧
      t.item id = none ∧ s.MemKept t (r.slotKey r.tail) r.size ∧ (∀ u, u ≠ cons → t.th u = s.th u)) ∧
  ∀ (s : State) (id tid q term k : Nat), s.item id = some (.credit tid q term k) → q < 8 →
    let r := (s.th tid).ring q
    (r.kind ≠ .out ∨ r.term ≠ term → exec (.ringCreditReturn id) s = .next (s.dropItem id)) ∧
    (r.kind = .out → r.term = term → ∃ t, exec (.ringCreditReturn id) s = .next t ∧ ((t.th tid).ring q).free = r.free + k ∧ t.mem = s.mem ∧ t.item id = none)

/-- SPLICE with a primed OUT handle of 32-byte slots or more pushes one marked control record with its fields; QFWD of
a filled q0 moves its head slot to q1, with its first writer (the model's choice, log 26); QSEAM of a splice request
away from its commit stage forwards it and answers 0xFF; one that fails, or that finds no q1, is rewritten in place as
SPLICE-FAILED with its reason, which d takes and a message brings to its origin, and goes on through q1 if there is
one; one that passes all checks leaves a SEAM in q1, pops the request, answers 0, tells the origin and commits as one:
INSERT binds q1 to the new stage, whose producer becomes current, and marks the merge at the old consumer; REMOVE
binds q1 past the outgoing stage, which drains; REBIND does both; a SEAM at the head of a merge channel is taken and
the new producer becomes current; a stage that drains forwards its SEAM and ends; the inheritance follows once that
stage and its stores have ended; QINHERIT declares or withdraws the stage state; MARKRET returns from a mark event to
MARKPC with mark-active 0, and traps with cause 0x0A outside one (R132, R135, R136, R137, R138, R139, R140, R142,
R143, R134, R283, R284). -/
def Obligations.Splices : Prop :=
  (∀ (s : State) (q : Fin 8) (inh : Fin 4) (snum : BitVec 16) (target newstage : BitVec 12) (nt : XReg),
    s.Ready [xplace nt] [] → Fld (s.readX nt) 63 25 = 0 →
    let r := s.src.ring q.val
    s.binding q.val = false → r.kind = .out → 32 ≤ r.size → r.staged = [] → s.acquiring s.cur = false → s.consumerEnded r = false → 1 ≤ r.free →
    s.mayPush s.cur q.val = true → s.src.sb.length < 16 →
    let m := s.me.ring q.val
    let pushed (i : Instr) (w0 w1 : Nat) : Prop := ∃ t e, exec i s = past t ∧ t.me.sb = s.me.sb ++ [e] ∧
      (t.me.ring q.val).free = m.free - 1 ∧ ∃ x, e.kind = .push q.val m.cons m.consQ m.consBound x ∧ x.bits.mark = true ∧
        x.bits.typed = false ∧ x.bits.tx = s.src.tx ∧ x.data = w0 + w1 * 2 ^ 64 + s.cur * 2 ^ 128
    let w (op inh st : Nat) : Nat := op * 2 ^ 58 + inh * 2 ^ 56 + target.toNat * 2 ^ 36 + st * 2 ^ 24 + snum.toNat
    pushed (.spliceInsert q inh snum target newstage nt) (w 0 inh.val newstage.toNat) (Fld (s.readX nt) 24 0) ∧
    pushed (.spliceRebind q inh snum target newstage nt) (w 2 inh.val newstage.toNat) (Fld (s.readX nt) 24 0) ∧
    pushed (.spliceRemove q snum target) (w 1 0 0) 0) ∧
  (∀ (s : State) (d : XReg) (g : Fin 8), s.guarded g = true → s.Ready [] [xplace d] →
    let a := s.src.ring 0
    let b := s.src.ring 1
    let m := s.me.ring 1
    let c := Control.ofSlot (s.headSlot a)
    s.stageNo ≠ 0 → a.kind = .inn → s.src.inheriting = false → 0 < a.filled → s.seamAtHead a = false →
    s.drainAtHead s.src 0 = false → s.Open → s.readsNow (a.slotKey a.head) a.size = true →
    s.noOlderStore s.cur s.serial [(a.slotKey a.head, a.size)] = true → s.binding 1 = false → (s.headSlot a).bits.mark = true →
    c.kind = 0 →
    (b.kind = .out → s.consumerEnded b = false ∧ 1 ≤ b.free ∧ s.mayPush s.cur 1 = true ∧ s.src.sb.length < 16 ∧ 32 ≤ b.size ∧
      b.staged = []) →
    let commitHere : Prop :=
      if c.op = 0 then s.stageNo = c.targetStage else b.kind = .out ∧ Fld (s.th b.cons).sys.stage 11 0 = c.targetStage
    let told (t : State) (result : Nat) : Prop := ∃ n x, t.item n = some (.hardware 0 x) ∧ x.dst = c.orig ∧
      x.words = [BitVec.ofNat 64 (result * 2 ^ 56 + c.op * 2 ^ 54 + c.targetStage * 2 ^ 36 + c.snum), BitVec.ofNat 64 s.cur]
    let rewritten (reason : Nat) : State := s.storeAt ((s.me.ring 0).slotKey (s.me.ring 0).head)
      (toBytes 8 (BitVec.ofNat 64 (setBits (setBits c.w0.toNat 63 60 2) 55 48 reason)).toNat)
    let sent (t : State) (x : Staged) : Prop := ∃ e, t.me.sb = s.me.sb ++ [e] ∧ e.kind = .push 1 m.cons m.consQ m.consBound x
    let failed (reason : Nat) (t : State) : Prop := exec (.qseam d g) s = past t ∧ t.me.reg d.val = BitVec.ofNat 64 reason ∧
      t.mem = (rewritten reason).mem ∧ told t reason
    (¬commitHere → b.kind = .out → a.size ≤ b.size → ∃ t, exec (.qseam d g) s = past t ∧ t.me.reg d.val = 0xFF ∧ t.mem = s.mem ∧
      (t.me.ring 0).filled = (s.me.ring 0).filled - 1 ∧ sent t (s.headSlot (s.me.ring 0))) ∧
    (¬commitHere → b.kind ≠ .out → ∃ t, failed 1 t ∧ (t.me.ring 0).filled = (s.me.ring 0).filled ∧ t.me.sb = s.me.sb) ∧
    (commitHere → s.spliceReason c ≠ 0 → b.kind = .out → a.size ≤ b.size → ∃ t, failed (s.spliceReason c) t ∧
      (t.me.ring 0).filled = (s.me.ring 0).filled - 1 ∧ sent t ((rewritten (s.spliceReason c)).headSlot (s.me.ring 0))) ∧
    (commitHere → s.spliceReason c = 0 → m.consQ < 8 →
      let y := m.cons
      let yq := (s.th y).ring 1
      let x := c.newThr
      ∃ t seam, exec (.qseam d g) s = past t ∧ t.me.reg d.val = 0 ∧ t.mem = s.mem ∧ told t 0 ∧ sent t seam ∧
        seam.bits.mark = true ∧ (Control.ofSlot seam).kind = 1 ∧ (t.me.ring 0).filled = (s.me.ring 0).filled - 1 ∧
        (c.op = 0 → x ≠ s.cur → y ≠ s.cur → x ≠ y →
          (t.me.ring 1).cons = x ∧ (t.me.ring 1).consQ = 0 ∧ ((t.th x).ring 0).prods = [(s.cur, 1)] ∧
          ((t.th x).ring 0).cur = some (s.cur, 1) ∧ (s.cur, 1) ∉ ((t.th y).ring m.consQ).prods ∧
          ((t.th y).ring m.consQ).merge = some ⟨c.snum, c.orig, x, 1⟩ ∧ (c.inh = 1 → (t.th x).inheriting = true)) ∧
        (c.op = 1 ∨ c.op = 2 → y ≠ s.cur → yq.cons ≠ y → yq.cons ≠ s.cur → yq.consQ < 8 →
          (s.cur, 1) ∉ ((t.th y).ring m.consQ).prods ∧
          (t.th y).drain = some { snum := c.snum, orig := c.orig, inh := c.inh, x := x } ∧
          (c.op = 1 → (t.me.ring 1).cons = yq.cons ∧ (t.me.ring 1).consQ = yq.consQ ∧
            (s.cur, 1) ∈ ((t.th yq.cons).ring yq.consQ).prods ∧
            ((t.th yq.cons).ring yq.consQ).merge = some ⟨c.snum, c.orig, s.cur, 1⟩) ∧
          (c.op = 2 → x ≠ s.cur → x ≠ y → x ≠ yq.cons → (t.me.ring 1).cons = x ∧ (t.me.ring 1).consQ = 0 ∧
            ((t.th x).ring 0).cur = some (s.cur, 1) ∧
            ((t.th yq.cons).ring yq.consQ).merge = some ⟨c.snum, c.orig, x, 1⟩ ∧
            (c.inh ≠ 0 → (t.th x).inheriting = true))))) ∧
  (∀ (s : State) (g : Fin 8), s.guarded g = true →
    let a := s.src.ring 0
    let b := s.src.ring 1
    s.stageNo ≠ 0 → a.kind = .inn → b.kind = .out → s.src.inheriting = false → 0 < a.filled → s.seamAtHead a = false →
    s.drainAtHead s.src 0 = false → a.size ≤ b.size → ((a.slotBits a.head).mark = true → 32 ≤ b.size) → b.staged = [] →
    s.Open → s.readsNow (a.slotKey a.head) a.size = true → s.noOlderStore s.cur s.serial [(a.slotKey a.head, a.size)] = true →
    s.binding 1 = false → s.consumerEnded b = false → 1 ≤ b.free → s.mayPush s.cur 1 = true →
    s.src.sb.length < 16 → ((a.slotBits a.head).typed = false ∨ (a.slotBits a.head).tx = s.src.tx) →
    let m := s.me.ring 1
    ∃ t e, exec (.qfwd g) s = past t ∧ (t.me.ring 0).filled = (s.me.ring 0).filled - 1 ∧ t.me.sb = s.me.sb ++ [e] ∧
      e.kind = .push 1 m.cons m.consQ m.consBound (s.headSlot (s.me.ring 0)) ∧ t.mem = s.mem) ∧
  (∀ (s : State) (tid q : Nat) (m : Merge), q < 8 → ((s.th tid).ring q).kind = .inn → ((s.th tid).ring q).merge = some m →
    s.seamAtHead ((s.th tid).ring q) = true → (s.th tid).slot ≠ .saved →
    ∃ t, exec (.seamTake tid q) s = .next t ∧ ((t.th tid).ring q).merge = none ∧
      ((t.th tid).ring q).filled = ((s.th tid).ring q).filled - 1 ∧ t.mem = s.mem ∧
      ((m.newTid, m.newQ) ∈ ((s.th tid).ring q).prods → m.newTid ≠ tid →
        ((t.th tid).ring q).cur = some (m.newTid, m.newQ))) ∧
  (∀ (s : State) (tid : Nat) (d : Drain), (s.th tid).drain = some d → (s.th tid).issuing = true → s.drainAtHead (s.th tid) 0 = true →
    ((s.th tid).wait.any fun w => decide (w.ring = some 0)) = true → ((s.th tid).ring 1).kind = .out →
    1 ≤ ((s.th tid).ring 1).free → s.mayPush tid 1 = true → (s.th tid).sb.length < 16 →
    ∃ t, exec (.drainThrough tid) s = .next t ∧ (t.th tid).exited = true ∧
      (t.th tid).drain = (if d.inh = 0 then none else some { d with ended := true }) ∧ t.mem = s.mem) ∧
  (∀ (s : State) (tid : Nat), let t := s.th tid
    let copied (u : State) : State := u.updTh tid fun t => { t with inheriting := false, arriving := none }
    (t.inheriting = false ∨ t.slot = .saved → exec (.inheritanceCopy tid) s = .next s) ∧
    (t.inheriting = true → t.slot ≠ .saved → ∀ y d, s.heirOf tid = some (y, d) →
      (s.drainedOut y d = false → exec (.inheritanceCopy tid) s = .next s) ∧
      (s.drainedOut y d = true → t.sb = [] → d.inh ≠ 2 → exec (.inheritanceCopy tid) s =
        .next (copied ((s.updTh y fun t => { t with drain := none }).landState tid (s.stageState y)))) ∧
      (s.drainedOut y d = true → d.inh = 2 → ∃ u, exec (.inheritanceCopy tid) s = .next u ∧ u.mem = s.mem ∧
        (u.th tid).inheriting = false ∧ (u.th tid).inherit = (s.th y).inherit)) ∧
    (t.inheriting = true → t.slot ≠ .saved → s.heirOf tid = none → t.sb = [] →
      (t.arriving = none → exec (.inheritanceCopy tid) s = .next (copied s)) ∧
      (∀ x, t.arriving = some x → exec (.inheritanceCopy tid) s = .next (copied (s.landState tid x)))) ∧
    ∀ base n, t.inherit = some (base, n) → (∀ x, (s.landState tid x).mem = (s.storeAt (keyLocal (cidOf tid) base) x.data).mem) ∧
      (s.stageState tid).data.length = n ∧
      ∀ i, i < n → t.sb = [] → s.hidden (keyLocal (cidOf tid) base + i) = false →
        (s.stageState tid).data.getD i 0 = readByte s.mem (keyLocal (cidOf tid) base + i)) ∧
  (∀ (s : State) (b n : XReg) (g : Fin 8), s.guarded g = true → s.Ready [xplace b, xplace n] [] →
    let base := (s.readX b).toNat
    let len := (s.readX n).toNat
    (len = 0 → exec (.qinherit b n g) s = past (s.updMe fun t => { t with inherit := none })) ∧
    (0 < len → len % 8 = 0 → len ≤ 65536 → base + len ≤ 0x30000 → base % 8 = 0 →
      exec (.qinherit b n g) s = past (s.updMe fun t => { t with inherit := some (base, len) })) ∧
    (0 < len → len % 8 ≠ 0 ∨ 65536 < len ∨ 0x30000 < base + len →
      exec (.qinherit b n g) s = .next (s.halted (.trap 0x03 (s.readX b)))) ∧
    (0 < len → len % 8 = 0 → len ≤ 65536 → base + len ≤ 0x30000 → base % 8 ≠ 0 →
      exec (.qinherit b n g) s = .next (s.halted (.trap 0x05 (s.readX b))))) ∧
  ∀ (s : State) (g : Fin 8), s.guarded g = true →
    (s.src.markActive = true → s.src.sys.markpc.toNat % 8 = 0 → exec (.markret g) s =
      .next (s.updMe fun t => { t with pc := s.src.sys.markpc, wait := none, markActive := false, fetch := [] })) ∧
    (s.src.markActive = false → exec (.markret g) s = .next (s.halted (.trap 0x0A 0)))

/-- With a true guard, ready operands, no reserved bit in the target word and room in the core's send buffer, SEND and
SEND.T queue a message of two words with the target word's TAG and SEQ and complete; a message leaves once its
thread's earlier ones have left and the release waits are over, a splice message once its stage's are; one for another
die leaves by a die-to-die or fabric port (which one is log 12) as a packet with its thread's tenant and deadline; a
message waits behind an older one of its sender to the same inbox; one that reaches a live slot of its tenant enters
the tail of the core's inbox, SEND messages while fewer than 48 of them and every message while fewer than 64 stand
there, and otherwise waits at its source, from where one for another die leaves as a packet again; one for a VACANT
slot, an ended thread or slot 15 is discarded; every hardware message takes the same way; what comes over the fabric
wakes its package (R272, R273, R274, R152, R155, R144, R181, R388, R391, R63, R66, R387). -/
def Obligations.Sending : Prop :=
  (∀ (s : State) (a b : SOpd) (t : XReg) (g : Fin 8), s.guarded g = true → s.Ready [xplace t, a.place, b.place] [] →
    let tw := s.readX t
    Fld tw 31 25 = 0 →
    (s.sendingFrom s.cid < 8 →
      let m (typed : Bool) : Msg :=
        ⟨s.cur, Fld tw 47 32, Fld tw 63 48, typed, s.src.tx, [s.readS a, s.readS b], Fld tw 24 0, true, s.src.tenant⟩
      exec (.send a t b g) s = past (s.post (.sending (m false) s.src.dueBy)) ∧
      exec (.sendT a t b g) s = past (s.post (.sending (m true) s.src.dueBy))) ∧
    (8 ≤ s.sendingFrom s.cid → exec (.send a t b g) s = .next (s.halted (.wait ⟨.msg, 8, none, none⟩)))) ∧
  (∀ (s : State) (id due : Nat) (m : Msg), s.item id = some (.sending m due) →
    (∀ p ∈ s.flight, ∀ x n, p.2 = .sending x n → x.sender = m.sender → id ≤ p.1) →
    (s.released m.sender id = true →
      exec (.sendDeparture id) s = .next ((s.setItem id (.message m)).sendTo id m.sender m.dst m.tenant due)) ∧
    (s.released m.sender id = false → exec (.sendDeparture id) s = .next s)) ∧
  (∀ (s : State) (id : Nat) (m : Msg), s.firstMessage id m = true → s.arrived id = true →
    ∀ p ∈ [(Instr.inboxArrival id, Item.message m, false), (.inboxRetry id, .waiting m none, false),
      (.spliceMessage id, .hardware 0 m, true), (.waitCycle id, .hardware 1 m, false), (.tenantRefused id, .hardware 2 m, false),
      (.fabricDown id, .hardware 3 m, false), (.powerAlarm id, .hardware 4 m, false), (.ctxsResultMessage id, .hardware 5 m, false)],
      let spliced := p.2.1 = .hardware 0 m
      s.item id = some p.2.1 → (spliced → s.released m.sender id = true) →
      (p.2.2 = true → s.unlinked (pkgOf (cidOf m.sender)) (pkgOf (cidOf m.dst)) = false) →
      let w := (if m.soft = true ∨ spliced then s.wakeFrom m.sender m.dst else s).landed id
      let c := cidOf m.dst
      let t := s.th m.dst
      (s.namesSlot m.dst = false ∨ t.slot = .vacant ∨ t.exited = true → exec p.1 s = .next (w.dropItem id)) ∧
      (s.namesSlot m.dst = true → t.slot ≠ .vacant → t.slot ≠ .saved → t.exited = false →
        (m.soft = true → m.tenant = t.tenant) →
        ((s.core c).inbox.length < 64 → (m.soft = true → (s.core c).inbox.countP (fun x => x.soft) < 48) →
          ∃ u, exec p.1 s = .next u ∧ (u.core c).inbox = (s.core c).inbox ++ [m] ∧ u.item id = none ∧ u.mem = s.mem ∧
            (t.park.matches m = true → (u.th m.dst).park = .none)) ∧
        ((64 ≤ (s.core c).inbox.length ∨ (m.soft = true ∧ 48 ≤ (s.core c).inbox.countP (fun x => x.soft))) →
          exec p.1 s = .next (w.setItem id (.waiting m ((s.packetsOf id).head?.map fun q => q.2.deadline)))))) ∧
  (∀ (s : State) (id due : Nat) (m : Msg), s.item id = some (.waiting m (some due)) →
    exec (.inboxRetry id) s = .next ((s.setItem id (.message m)).sendTo id m.sender m.dst m.tenant due)) ∧
  (∀ (s : State) (id : Nat) (m : Msg), s.item id = some (.hardware 0 m) → s.released m.sender id = false →
    exec (.spliceMessage id) s = .next s) ∧
  (∀ (s : State) (id : Nat) (m : Msg), s.item id = some (.message m) → s.firstMessage id m = false ∨ s.arrived id = false →
    exec (.inboxArrival id) s = .next s) ∧
  (∀ (s : State) (id from_ to_ tenant due : Nat), let d := didOf (cidOf from_)
    (s.namesSlot to_ = false ∨ didOf (cidOf to_) = d → s.sendTo id from_ to_ tenant due = s) ∧
    (s.namesSlot to_ = true → didOf (cidOf to_) ≠ d → ∃ p, let t := s.sendTo id from_ to_ tenant due
      (t.die d).packets = (s.die d).packets ++ [p] ∧ p.ids = [id] ∧ p.tenant = tenant ∧ p.deadline = due ∧
      p.nodl = decide (due = 0) ∧ p.home = didOf (cidOf to_) ∧ p.wr = true ∧
      p.dport = (if didOf (cidOf to_) / 4 = d / 4 then 112 + didOf (cidOf to_) % 4 * 2
        else 120 + s.fabricPort (d / 4) (didOf (cidOf to_) / 4) / 2) ∧ t.threads = s.threads ∧ t.mem = s.mem ∧
      t.flight = s.flight)) ∧
  (∀ (s : State) (a b : Nat), (pkgOf (cidOf a) = pkgOf (cidOf b) → s.wakeFrom a b = s) ∧
    (pkgOf (cidOf a) ≠ pkgOf (cidOf b) → ((s.wakeFrom a b).pkg (pkgOf (cidOf b))).around.pscur = 0)) ∧
  ∀ (s : State) (tid : Nat), slotOf tid = 15 → s.namesSlot tid = false

/-- With a true guard and ready operands: the three take the oldest message of the thread, of any kind, with SENDER
and SEQ, or with TAG (0: any); WIN 0, 1 and 2 deliver words 0 and 1, 2 and 3, 4 and 5 of it, 0 beyond its length, WIN
3 its header and 0; with KEEP the inbox stays as it was, without it the message leaves it; a typed message of the
other TX traps with cause 0x08, TVAL its sender; without such a message RECV waits as RUNNABLE, RECVS and WAITM park
(R275, R273, R25). -/
def Obligations.Receiving : Prop :=
  ∀ (s : State) (d e x : XReg) (f g : Fin 8), s.guarded g = true → s.Ready [xplace x] [xplace d, xplace e] →
    let w := s.readX x
    let c := s.core s.cid
    let first (want : Msg → Bool) : Option Msg := c.inbox.find? fun m => decide (m.dst = s.cur) && want m
    let takes (i : Instr) (want : Msg → Bool) : Prop :=
      ∀ m, first want = some m →
        ((m.typed = false ∨ m.tx = s.src.tx) →
          let k := f.val % 4
          let v : Word × Word := if k = 3 then (m.header, 0) else (m.words.getD (2 * k) 0, m.words.getD (2 * k + 1) 0)
          exec i s = past (((if f.val < 4 then s.setCore s.cid { c with inbox := c.inbox.erase m } else s).writeX d v.1).writeX e v.2)) ∧
        (m.typed = true → m.tx ≠ s.src.tx → exec i s = .next (s.halted (.trap 0x08 (BitVec.ofNat 64 m.sender))))
    let any (_ : Msg) : Bool := true
    let from_ (m : Msg) : Bool := m.sender = Fld w 24 0 && m.seq = Fld w 63 48
    let tagged (m : Msg) : Bool := Fld w 15 0 = 0 || m.tag = Fld w 15 0
    takes (.recv d e f g) any ∧
    (first any = none → exec (.recv d e f g) s = .next (s.halted (.wait ⟨.msg, 8, none, none⟩))) ∧
    (Fld w 47 25 = 0 → takes (.recvs d x e f g) from_ ∧
      (first from_ = none → ∃ t, exec (.recvs d x e f g) s = .next t ∧ t.me.slot = .parked ∧
        t.me.park = .recvs (Fld w 24 0) (Fld w 63 48) ∧ t.me.pc = s.me.pc ∧ t.me.regs = s.me.regs)) ∧
    (Fld w 63 16 = 0 → takes (.waitm d x e f g) tagged ∧
      (first tagged = none → ∃ t, exec (.waitm d x e f g) s = .next t ∧ t.me.slot = .parked ∧
        t.me.park = .waitm (Fld w 15 0) ∧ t.me.pc = s.me.pc ∧ t.me.regs = s.me.regs))

/-- PCLR waits while d is busy or awaits a delivery, and then clears its presence and leaves its value; it counts as a
write of d; PTST writes to d the presence, busy and pending bits of s as they stood before the pair, s equal to d
included, and the write sets d's presence; a PUTR or delivery that lands after a PCLR sets presence again (R277). -/
def Obligations.PresenceOperations : Prop :=
  (∀ (s : State) (d : XReg) (g : Fin 8), s.guarded g = true →
    (s.src.busy.getLsbD d.val = false → s.src.pend.getLsbD d.val = false → ∃ t, exec (.pclr d g) s = past t ∧
      t.me.present.getLsbD d.val = false ∧ (∀ i, i ≠ d.val → t.me.present.getLsbD i = s.me.present.getLsbD i) ∧
      t.me.regs = s.me.regs ∧ s.OthersKept t ∧ s.OnlyThreads t) ∧
    (s.src.busy.getLsbD d.val = true ∨ s.src.pend.getLsbD d.val = true →
      ∃ w, exec (.pclr d g) s = .next (s.halted (.wait w))) ∧
    (Instr.pclr d g).places = [.reg d.val]) ∧
  (∀ (s : State) (d x : XReg) (g : Fin 8), s.guarded g = true → s.src.busy.getLsbD d.val = false →
    s.src.pend.getLsbD d.val = false → ∃ t, exec (.ptst d x g) s = past t ∧ t.me.present.getLsbD d.val = true ∧
      (t.me.reg d.val).getLsbD 0 = s.src.present.getLsbD x.val ∧ (t.me.reg d.val).getLsbD 1 = s.src.busy.getLsbD x.val ∧
      (t.me.reg d.val).getLsbD 2 = s.src.pend.getLsbD x.val ∧ (∀ i, 3 ≤ i → (t.me.reg d.val).getLsbD i = false) ∧
      (∀ i, i ≠ d.val → t.me.reg i = s.me.reg i) ∧ s.OthersKept t ∧ s.OnlyThreads t) ∧
  (∀ (s t : State) (id tid target i : Nat) (v : Word) (n : Nat), s.item id = some (.regPut tid target i v n) → i < 32 →
    exec (.remoteRegisterWrite id) s = .next t → t.item id = some (.ack tid target (s.isLate id)) → (s.th target).slot ≠ .vacant →
    (s.th target).slot ≠ .saved → s.namesSlot target = true → (s.th target).tenant = n →
    (t.th target).present.getLsbD i = true) ∧
  ∀ (s t : State) (id : Nat) (d : Delivery), s.item id = some (.deliver d) → d.reg < 32 →
    (s.th d.tid).slot ≠ .vacant → (s.th d.tid).slot ≠ .saved → exec (.deliveryLanding id) s = .next t →
    (t.th d.tid).present.getLsbD d.reg = true

/-- With a true guard, ready operands, no reserved bit in t and no undelivered acquire, PUTR leaves at once with its
value, for another die as a packet; a write that is the oldest of its thread to its register lands in the register
that the identifier names, sets its presence whether or not it awaited anything, and is acknowledged, with the late
bit of its packet, once that has come to its core; one for a VACANT slot, slot 15 or a core that does not exist
changes nothing but its acknowledgement; one for another tenant counts in TENVCNT (R276, R101, R102, R64, R66). -/
def Obligations.RemoteRegisterWrites : Prop :=
  (∀ (s : State) (ix t : XReg) (v : SOpd) (g : Fin 8), s.guarded g = true → s.Ready [xplace t, v.place] [] →
    Fld (s.readX t) 63 25 = 0 → s.acquiring s.cur = false → exec (.putr ix t v g) s =
      past ((s.post (.regPut s.cur (s.readX t).toNat ix.val (s.readS v) s.src.tenant)).sendTo s.serial s.cur (s.readX t).toNat
        s.src.tenant s.src.dueBy)) ∧
  ∀ (s : State) (id tid target i : Nat) (v : Word) (n : Nat), s.item id = some (.regPut tid target i v n) → i < 32 →
    (∀ p ∈ s.flight, ∀ v' n', p.2 = .regPut tid target i v' n' → id ≤ p.1) →
    (s.arrived id = false → exec (.remoteRegisterWrite id) s = .next s) ∧ (s.arrived id = true →
    let t := s.th target
    let acked := ((s.wakeFrom tid target).landed id).setItem id (.ack tid target (s.isLate id))
    (s.namesSlot target = false ∨ t.slot = .vacant → exec (.remoteRegisterWrite id) s = .next acked) ∧
    (s.namesSlot target = true → t.slot ≠ .vacant → t.tenant ≠ n → ∃ u, exec (.remoteRegisterWrite id) s = .next u ∧
      u.threads = s.threads ∧ u.mem = s.mem ∧ (u.die (didOf (cidOf target))).tenvcnt = satInc (s.die (didOf (cidOf target))).tenvcnt) ∧
    (s.namesSlot target = true → t.slot ≠ .vacant → t.slot ≠ .saved → t.tenant = n →
      exec (.remoteRegisterWrite id) s = .next (acked.updTh target fun t => t.setReg i v) ∧
      (t.setReg i v).reg i = v ∧ (t.setReg i v).present.getLsbD i = true ∧ ∀ j, j ≠ i → (t.setReg i v).reg j = t.reg j))

/-- With a true guard and ready operands, on a compute core whose queues are unowned or the group's: TQPUSH inserts
behind its class and answers 0 while the class holds fewer than 32, and 1 otherwise; TQPOP and TQPEEK deliver the
first entry, by class, then deadline, none counting as the latest, then insertion (for deadlines within half the range
of TIME), and 0, and only TQPOP removes it, or 0 and 1 from an empty queue; SLEEP records its tag, word and class and
answers 0, or 1 while the table holds 32, and SLEEP.W parks while the ready queue is empty; another group's queues
trap with cause 0x02, a hob core with 0x01. TIMER writes the old TIMER to d, arms the target TIME + s or s, or clears
EN, and cancels a pending cause 0x0F (R199, R200, R201, R63, R343, R344, R345, R110, R335). -/
def Obligations.Tasks : Prop :=
  (∀ (s : State) (d e w t : XReg) (c : Fin 4) (g : Fin 8), s.guarded g = true → s.Ready [xplace w, xplace t] [xplace d, xplace e] →
    Fld (s.readX t) 63 16 = 0 →
    let all : List Instr :=
      [.tqpush d w c g, .tqpop d e g, .tqpeek d e g, .sleep d w t c g, .sleepW d w t c g]
    (isHob s.cid = true → ∀ i ∈ all, exec i s = .next (s.halted (.trap 0x01 s.iss.word))) ∧
    (isHob s.cid = false → ∀ o, (s.core s.cid).tasksOwner = some o → o ≠ s.src.groupNo →
      ∀ i ∈ all, exec i s = .next (s.halted (.trap 0x02 s.iss.word))) ∧
    (isHob s.cid = false → (∀ o, (s.core s.cid).tasksOwner = some o → o = s.src.groupNo) →
      let k := s.core s.cid
      let n := k.ready.countP fun t => decide (t.cls = c.val)
      let tag := s.readX t
      (n < 32 → k.sleepers = [] → ∃ u, exec (.tqpush d w c g) s = past u ∧ u.me.reg d.val = 0 ∧
        (u.core s.cid).ready = k.ready ++ [⟨c.val, s.readX w⟩] ∧ (u.core s.cid).tasksOwner = some s.src.groupNo) ∧
      (32 ≤ n → ∃ u, exec (.tqpush d w c g) s = past u ∧ u.me.reg d.val = 1 ∧ (u.core s.cid).ready = k.ready) ∧
      (k.ready = [] → ∀ i ∈ [Instr.tqpop d e g, .tqpeek d e g], exec i s = past ((s.writeX d 0).writeX e 1)) ∧
      (∀ x, firstTask k.ready = some x →
        exec (.tqpeek d e g) s = past ((s.writeX d x.word).writeX e 0) ∧
        (k.sleepers = [] → ∃ u, exec (.tqpop d e g) s = past u ∧ (u.core s.cid).ready = k.ready.erase x ∧
          (d ≠ e → u.me.reg d.val = x.word) ∧ u.me.reg e.val = 0)) ∧
      (tag ≠ 0 → k.sleepers.length < 32 → ∀ i ∈ [Instr.sleep d w t c g, .sleepW d w t c g], ∃ u, exec i s = past u ∧
        u.me.reg d.val = 0 ∧ (u.core s.cid).sleepers = k.sleepers ++ [⟨tag.toNat, s.readX w, c.val, false⟩] ∧
        (i = .sleepW d w t c g → k.ready = [] → u.me.slot = .parked ∧ u.me.park = .sleep) ∧
        ((i = .sleep d w t c g ∨ k.ready ≠ []) → u.me.slot = s.me.slot)) ∧
      (tag ≠ 0 → 32 ≤ k.sleepers.length → ∃ u, exec (.sleep d w t c g) s = past u ∧ u.me.reg d.val = 1 ∧
        (u.core s.cid).sleepers = k.sleepers) ∧
      (tag = 0 → ∃ u, exec (.sleep d w t c g) s = past u ∧ u.me.reg d.val = 0 ∧ (u.core s.cid).sleepers = k.sleepers))) ∧
  (∀ (l : List Task) (x : Task), firstTask l = some x → x ∈ l ∧ ∀ y ∈ l, y.cls ≤ x.cls) ∧
  (∀ (l : List Task) (x : Task) (base : Nat), firstTask l = some x →
    let due (y : Task) : Nat := y.word.toNat % 2 ^ 48
    let sooner (a b : Task) : Prop := b.cls < a.cls ∨
      (a.cls = b.cls ∧ due a ≠ 0 ∧ (due b = 0 ∨ 2 ^ 47 ≤ (due a + 2 ^ 48 - due b) % 2 ^ 48))
    (∀ y ∈ l, due y = 0 ∨ (due y + 2 ^ 48 - base % 2 ^ 48) % 2 ^ 48 < 2 ^ 47) →
    ∃ i : Nat, l[i]? = some x ∧ ∀ (j : Nat) (y : Task), l[j]? = some y → ¬sooner y x ∧ (j < i → sooner x y)) ∧
  ∀ (s : State) (d x : XReg) (g : Fin 8), s.guarded g = true → s.Ready [xplace x] [xplace d] →
    let old := s.src.sys.timer
    let sets (i : Instr) (w : Word) : Prop := ∃ t, exec i s = past t ∧ t.me.reg d.val = old ∧ t.me.sys.timer = w ∧
      t.me.pending.timer = false ∧ s.OthersKept t ∧ s.OnlyThreads t
    (Fld (s.readX x) 63 48 = 0 →
      sets (.timer d x g) (BitVec.ofNat 64 (2 ^ 63 + (s.time.toNat + Fld (s.readX x) 47 0) % 2 ^ 48)) ∧
      sets (.timerAbs d x g) (BitVec.ofNat 64 (2 ^ 63 + Fld (s.readX x) 47 0))) ∧
    sets (.timerOff d g) (BitVec.ofNat 64 (old.toNat % 2 ^ 63))

/-- With a true guard and ready operands, in a scope other than SYS: BARA of a member whose phase has room counts its
arrival, re-evaluates completion and writes its ticket, and waits where the phase and the next are full; BAR does the
same and parks until its ticket is released; a non-member's BAR only moves on, and its BARA writes
0x8000_0000_0000_0000; BARW parks on a ticket that is not released, and otherwise only moves on; BARI reads its block
as a plain load does, a poisoned word of it raising cause 0x0B with its address; it answers BUSY with nothing changed
while an arrival counts, and otherwise DONE with the context DEFAULT or INITIALISED with the members of its block; a
thread leaves the barrier when its ticket has been passed, in POD once its package has links to the members' (log 12);
SYS traps with cause 0x01 (R336, R337, R338, R339, R335, R210, R387, R391). -/
def Obligations.Barriers : Prop :=
  (∀ (s : State) (d x : XReg) (b : Fin 16) (sc : Scope) (g : Fin 8), s.guarded g = true → sc ≠ .sys →
    let key := barrierKey sc (instanceOf sc s.cid) s.src.tenant b.val
    let parks (t : State) (n : BitVec 16) : Out :=
      if ticketPassed n ((t.barrier key).genOf (pkgOf s.cid) s.src.groupNo) then past t
      else past (t.updMe fun x => { x with slot := .parked, park := .barrier key n.toNat })
    (∀ n c, s.arrival key = .ticket n c →
      let u := (s.setBarrier key c).evalBarrier key
      exec (.bar b sc g) s = parks u n ∧
      (s.Ready [] [xplace d] → exec (.bara d b sc g) s = u.deliversX d (n.setWidth 64))) ∧
    (s.arrival key = .notMember → exec (.bar b sc g) s = past s ∧
      (s.Ready [] [xplace d] → exec (.bara d b sc g) s = s.deliversX d 0x8000000000000000)) ∧
    (s.arrival key = .full → s.Ready [] [xplace d] → ∀ i ∈ [Instr.bar b sc g, .bara d b sc g],
      exec i s = .next (s.halted (.wait ⟨.msg, 8, none, none⟩))) ∧
    (s.Ready [xplace x] [] →
      let w := s.readX x
      (w = 0x8000000000000000 → exec (.barw x b sc g) s = past s) ∧
      (w ≠ 0x8000000000000000 → Fld w 63 16 ≠ 0 → exec (.barw x b sc g) s = .next (s.halted (.trap 0x01 s.iss.word))) ∧
      (Fld w 63 16 = 0 → exec (.barw x b sc g) s = parks s (w.setWidth 16)))) ∧
  (∀ (s : State) (key : Nat) (m : Member), (s.barrier key).init = true →
    (s.barrier key).member (pkgOf s.cid) s.src.groupNo = some m →
    let b := s.barrier key
    (m.cur < m.need → s.arrival key = .ticket b.gen (b.setMember { m with cur := m.cur + 1 })) ∧
    (m.need ≤ m.cur → m.next < m.need → s.arrival key = .ticket (b.gen + 1) (b.setMember { m with next := m.next + 1 })) ∧
    (m.need ≤ m.cur → m.need ≤ m.next → s.arrival key = .full)) ∧
  (∀ (s : State) (key : Nat), (s.barrier key).init = true → (s.barrier key).members ≠ [] →
    (∀ m ∈ (s.barrier key).members, 0 < m.cur ∧ m.need ≤ m.cur ∧ m.next = 0) →
    ((s.evalBarrier key).barrier key).gen = (s.barrier key).gen + 1 ∧
      ∀ m ∈ ((s.evalBarrier key).barrier key).members, m.cur = 0) ∧
  (∀ (s : State) (key : Nat) (m : Member), (s.barrier key).init = true → m ∈ (s.barrier key).members → m.cur < m.need →
    (s.evalBarrier key).barrier key = s.barrier key) ∧
  (∀ (s : State) (sc : Scope) (b : Fin 16) (d a : XReg) (ws : List Word), s.Ready [xplace a] [xplace d] → sc ≠ .sys →
    let key := barrierKey sc (instanceOf sc s.cid) s.src.tenant b.val
    let na := (s.readX a).toNat
    s.Open → na + 64 ≤ 0x30000 → na % 64 = 0 → s.plainWords na (keyLocal s.cid na) 8 = .ok ws →
    let ms := ws.filterMap memberOf
    let answers (v : Nat) (c : Barrier) : Prop := ∃ t, exec (.bari sc b d a) s = past t ∧ t.barrier key = c ∧ t.mem = s.mem ∧
      t.me.busy.getLsbD d.val = true ∧ ∃ n, t.item n = some (.status s.cur d.val (BitVec.ofNat 64 v))
    ((ws.any badMember || repeated ms) = true → exec (.bari sc b d a) s = .next (s.halted (.trap 0x01 s.iss.word))) ∧
    ((ws.any badMember || repeated ms) = false →
      let c := s.barrier key
      ((∃ m ∈ c.members, 0 < m.cur ∨ 0 < m.next) → answers 1 c) ∧
      ((∀ m ∈ c.members, m.cur = 0 ∧ m.next = 0) →
        (ms = [] → answers 0 (if c.init then { c with init := false, members := [] } else c)) ∧
        (ms ≠ [] → answers 0 { c with init := true, members := ms })))) ∧
  (∀ (s : State) (sc : Scope) (b : Fin 16) (d a : XReg) (st : Stop), s.Ready [xplace a] [xplace d] → sc ≠ .sys → s.Open →
    let na := (s.readX a).toNat
    na + 64 ≤ 0x30000 → na % 64 = 0 → s.plainWords na (keyLocal s.cid na) 8 = .error st →
    exec (.bari sc b d a) s = .next (s.halted st)) ∧
  (∀ (s : State) (na k n : Nat), s.readsNow k n = true → forward s.hidden s.src.sb s.serial [(k, n)] = .none →
    s.plainLoad na k n = if s.poisoned k n then .error (.trap 0x0B (BitVec.ofNat 64 na)) else .ok (s.loadFrom s.srcMem k n)) ∧
  (∀ (s : State) (tid key n : Nat), (s.th tid).park = .barrier key n → (s.th tid).slot ≠ .saved →
    let pkg := pkgOf (cidOf tid)
    let remote : Prop := key / 2 ^ 34 = scopeCode .pod ∧ ∃ m ∈ (s.barrier key).members, m.pkg ≠ pkg
    let cut : Prop := key / 2 ^ 34 = scopeCode .pod ∧ ∃ m ∈ (s.barrier key).members, s.unlinked pkg m.pkg = true
    let passed : Prop := ticketPassed (BitVec.ofNat 16 n) ((s.barrier key).genOf pkg (s.th tid).groupNo) = true
    (passed → ¬cut → ¬remote → exec (.barrierRelease tid) s = .next (s.updTh tid Thread.wake)) ∧
    (passed → ¬cut → remote → exec (.barrierRelease tid) s = .next ((s.wakePkg pkg).updTh tid Thread.wake)) ∧
    (¬passed ∨ cut → exec (.barrierRelease tid) s = .next s)) ∧
  (∀ t gen : BitVec 16, ticketPassed t gen = true ↔ 2 ^ 15 ≤ (t - gen).toNat) ∧
  ∀ (s : State) (d x : XReg) (b : Fin 16) (g : Fin 8), s.guarded g = true → s.Ready [xplace x] [xplace d] →
    (∀ i ∈ [Instr.bar b .sys g, .bara d b .sys g, .barw x b .sys g], exec i s = .next (s.halted (.trap 0x01 s.iss.word))) ∧
    (s.Open → exec (.bari .sys b d x) s = .next (s.halted (.trap 0x01 s.iss.word)))

/-- With a true guard on a compute core: GANGW parks its thread; GANG of 2, 4 or 8 whose followers, the leader's slot
on the next columns of its row, are PARKED on GANGW, of its group and in no gang, and whose leader is in none, forms
the gang: every follower is RUNNABLE at the pair after the GANG, its fetch buffer empty; otherwise it traps with cause
0x0C, TVAL the mask of the offending members; GANGW in a gang traps with its own bit alone in TVAL (log 15); DISBAND
ends the gang for every member and has no effect outside one; on a hob core GANG and GANGW trap with cause 0x0C, TVAL
0 (R167, R169, R342, R334). -/
def Obligations.Gangs : Prop :=
  ∀ (s : State) (n : Fin 8) (g : Fin 8), s.guarded g = true →
    let size := 2 ^ n.val
    let member (j : Nat) : Nat := (s.cid / 8 * 8 + (s.cid % 8 + j) % 8) * 16 + slotOf s.cur
    let offends (j : Nat) : Bool := if j = 0 then s.src.gang.isSome else !s.followerOk s.cur (member j)
    (isHob s.cid = true → exec (.gang n g) s = .next (s.halted (.trap 0x0C 0)) ∧
      exec (.gangw g) s = .next (s.halted (.trap 0x0C 0))) ∧
    (isHob s.cid = false →
      (1 ≤ n.val → n.val ≤ 3 → (∀ j, j < size → offends j = false) → ∃ t, exec (.gang n g) s = past t ∧
        t.me.gang = some ⟨s.cur, 0, size⟩ ∧ t.mem = s.mem ∧
        (∀ j, 1 ≤ j → j < size → (t.th (member j)).gang = some ⟨s.cur, j, size⟩ ∧ (t.th (member j)).slot = .runnable ∧
          (t.th (member j)).pc = s.src.pc + 8 ∧ (t.th (member j)).fetch = [] ∧ (t.th (member j)).regs = (s.th (member j)).regs) ∧
        ∀ u, (∀ j, j < size → u ≠ member j) → t.th u = s.th u) ∧
      (1 ≤ n.val → n.val ≤ 3 → (∃ j, j < size ∧ offends j = true) → ∃ mask : Nat,
        exec (.gang n g) s = .next (s.halted (.trap 0x0C (BitVec.ofNat 64 mask))) ∧
        ∀ j, j < size → mask.testBit j = offends j) ∧
      (s.src.gang = none → exec (.gangw g) s = past (s.updMe fun t => { t with slot := .parked, park := .gangw })) ∧
      (∀ m, s.src.gang = some m → exec (.gangw g) s = .next (s.halted (.trap 0x0C (BitVec.ofNat 64 (2 ^ m.idx)))))) ∧
    (s.me.gang = none → exec (.disband g) s = past s) ∧
    (∀ m, s.me.gang = some m → ∃ t, exec (.disband g) s = past t ∧ t.mem = s.mem ∧
      (∀ u ∈ gangMembers m, t.th u = { s.th u with gang := none }) ∧ ∀ u, u ∉ gangMembers m → t.th u = s.th u)

/-- With a true guard and a ready destination, EMB writes EMBOWN and EMBHELD, EMB.HEARTH the hearth's sum, operating
point, target and CEIL; a division of u units gives each of n members floor(u/n), the first u mod n one more, and
loses none; a redistribution leaves EMBHELD 0 in every thread of the package that is not active and changes no memory
and no register; what EMB reads of EMBHELD is what the last redistribution gave, while no more units are counted than
there are (a reading of R179, log 16), and the sum of R186 holds; a hearth begins a change to its target, completes it
at one event, and then begins one to the newest target, hearth 16 never; CEIL falls, with the controller's ceiling
(log 16), by one step while the average power, as PIN shows it (log 16), exceeds 2,200 W, rises by one to 7 once it
has stayed below 2,090 W for 1 ms but not under the alarm, and a write above the controller's ceiling leaves it; OPTHR
takes what is written, BSTAT.CYC is cleared (R341, R175, R179, R182, R183, R184, R186, R187, R389). -/
def Obligations.Embers : Prop :=
  (∀ (s : State) (d : XReg) (g : Fin 8), s.guarded g = true → s.Ready [] [xplace d] →
    let h := s.cid / 128 * 17 + hearthOf s.cid
    exec (.emb d g) s =
      s.deliversX d (BitVec.ofNat 64 (s.ownShare s.cur * 2 ^ 32 + s.embHeld s.cur)) ∧
    exec (.embHearth d g) s = s.deliversX d (BitVec.ofNat 64
      (s.hearthSum h + s.hearthOp h * 2 ^ 32 + s.hearthTarget h * 2 ^ 35 + (s.pkg (pkgOf s.cid)).bellows.ceil * 2 ^ 38)) ∧
    (isHob s.cid = true → s.hearthSum h = 0 ∧ s.hearthOp h = 3)) ∧
  (∀ (s : State) (pkg : Nat), s.overdrawn pkg = false →
    (∀ tid, pkgOf (cidOf tid) = pkg → s.embHeld tid = Fld (s.th tid).sys.embheld 31 0) ∧
    (s.pkg pkg).bellows.free + s.transit pkg + s.spareUnits pkg + s.activeUnits pkg +
      ((s.threads.filter fun p => decide (pkgOf (cidOf p.1) = pkg)).map fun p => s.embHeld p.1).sum = 4194304) ∧
  (∀ u n : Nat, 0 < n → (divide u n).length = n ∧ (divide u n).sum = u ∧
    ∀ i, i < n → (divide u n)[i]? = some (u / n + if i < u % n then 1 else 0)) ∧
  (∀ (s : State) (pkg : Nat), ∃ t, exec (.emberRedistribution pkg) s = .next t ∧ t.mem = s.mem ∧
    (∀ tid, (t.th tid).regs = (s.th tid).regs ∧ (t.th tid).pc = (s.th tid).pc ∧ (t.th tid).slot = (s.th tid).slot) ∧
    ∀ tid, pkgOf (cidOf tid) = pkg → s.isActive tid = false → (t.th tid).sys.embheld = 0) ∧
  (∀ (s : State) (h : Nat), (h % 17 = 16 → exec (.opChange h) s = .next s) ∧
    (h % 17 ≠ 16 →
      let going (u : State) : Option (Nat × Nat) := (u.pkg (hearthPkg h)).moving.find? fun p => decide (p.1 = h)
      let n := match going s with
        | none => s.hearthOp h
        | some p => p.2
      ∃ t, exec (.opChange h) s = .next t ∧ t.hearthOp h = n ∧
        going t = (if s.hearthTarget h = n then none else some (h, s.hearthTarget h)) ∧ t.threads = s.threads ∧
        ∀ k, k ≠ h → t.hearthOp k = s.hearthOp k)) ∧
  (∀ (s : State) (pkg : Nat) (hi : Bool) (v : BitVec 64), (s.pkg pkg).service.secmode ≠ 3 →
    let b (t : State) : Bellows := (t.pkg pkg).bellows
    let a := (s.pkg pkg).around
    let watts := Fld a.pin 47 32
    let since := (s.time.toNat + 2 ^ 48 - a.coolAt) % 2 ^ 48
    (2200 < watts → ∃ t, exec (.ceilLower pkg) s = .next t ∧ (b t).ceil = (b s).ceil - 1 ∧ (b t).ctlCeil = (b s).ctlCeil - 1) ∧
    (watts ≤ 2200 → exec (.ceilLower pkg) s = .next s) ∧
    (a.alarm = false → watts < 2090 → 1000000 ≤ since → ∃ t, exec (.ceilRaise pkg) s = .next t ∧
      (b t).ceil = min 7 ((b s).ceil + 1) ∧ (t.pkg pkg).around.coolAt = s.time.toNat) ∧
    (a.alarm = true ∨ 2090 ≤ watts ∨ since < 1000000 → exec (.ceilRaise pkg) s = .next s) ∧
    (∃ t, exec (.ceilWrite pkg v) s = .next t ∧
      (b t).ceil = (if Fld v 2 0 ≤ (b s).ctlCeil then Fld v 2 0 else (b s).ceil) ∧ (b t).ctlCeil = (b s).ctlCeil) ∧
    (∃ t, exec (.opthrWrite pkg hi v) s = .next t ∧ (b t).opthr0 = (if hi then (b s).opthr0 else v) ∧
      (b t).opthr1 = (if hi then v else (b s).opthr1)) ∧
    ∃ t, exec (.bstatCycClear pkg) s = .next t ∧ (b t).cyc = false ∧ (b t).ceil = (b s).ceil) ∧
  ∀ (b : Bellows), b.badThr = true → b.thresholds = [0, 1024, 2048, 4096, 6144, 8192, 12288, 16384]

/-- With a true guard and ready operands: MFS and MTS of a number that is not listed, or of a root register on a
compute core, trap with cause 0x01; MTS of a register marked (S) without SUP traps with cause 0x02; otherwise MFS
writes the register's value to d, and MTS leaves in the register the value of s with its reserved fields zero, ignores
it for a read-only register, and changes nothing else but a pending timer cause and the failed check of a window
transfer; one of WBASE, WSP and WLIM waits while a spill or fill of the thread is in flight; a write of STATUS without
SUP keeps SUP, PSUP and DET; ROOTP and ROOTS are those of the cluster for the tenant in ROOTSEL (R108, R109, R110,
R347, R46, R335, R100). -/
def Obligations.SystemRegisters : Prop :=
  (∀ (s : State) (d x : XReg) (n : Fin 64) (g : Fin 8), s.guarded g = true → s.Ready [xplace x] [xplace d] →
    let w := s.readX x
    let clid := clidOf s.cid
    let listed : Prop := n.val ≤ 0x14 ∨ n.val = 0x20 ∨ n.val = 0x21 ∨ n.val = 0x22
    let root : Prop := 0x20 ≤ n.val
    let sup : Prop := (1 ≤ n.val ∧ n.val ≤ 7) ∨ root
    (¬listed ∨ (root ∧ isHob s.cid = false) →
      exec (.mfs d n g) s = .next (s.halted (.trap 0x01 s.iss.word)) ∧
      exec (.mts x n g) s = .next (s.halted (.trap 0x01 s.iss.word))) ∧
    (listed → (root → isHob s.cid = true) →
      exec (.mfs d n g) s = s.deliversX d (s.sysRead s.cur s.src n.val) ∧
      (sup → s.src.sup = false → exec (.mts x n g) s = .next (s.halted (.trap 0x02 s.iss.word))) ∧
      (5 ≤ n.val → n.val ≤ 7 → s.movingWindow s.cur = true → exec (.mts x n g) s = .next (s.halted (.wait onMemory))) ∧
      ((sup → s.src.sup = true) → (5 ≤ n.val ∧ n.val ≤ 7 → s.movingWindow s.cur = false) → ∃ t, exec (.mts x n g) s = past t ∧
        s.OthersKept t ∧ t = { s with threads := t.threads, clusters := t.clusters } ∧
        t.me = { s.me with sys := t.me.sys, pending := t.me.pending, windowFault := t.me.windowFault } ∧
        t.me.pending = (if n.val = 0x0E then { s.me.pending with timer := false } else s.me.pending) ∧
        t.me.windowFault = (if 5 ≤ n.val ∧ n.val ≤ 7 then none else s.me.windowFault) ∧
        (n.val = 0x00 → t.me.sys = { s.me.sys with status := t.me.sys.status }) ∧
        (n.val = 0x01 → t.me.sys = { s.me.sys with epc := t.me.sys.epc }) ∧
        (n.val = 0x02 → t.me.sys = { s.me.sys with cause := t.me.sys.cause }) ∧
        (n.val = 0x03 → t.me.sys = { s.me.sys with tval := t.me.sys.tval }) ∧
        (n.val = 0x04 → t.me.sys = { s.me.sys with tvec := t.me.sys.tvec }) ∧
        (n.val = 0x05 → t.me.sys = { s.me.sys with wbase := t.me.sys.wbase }) ∧
        (n.val = 0x06 → t.me.sys = { s.me.sys with wsp := t.me.sys.wsp }) ∧
        (n.val = 0x07 → t.me.sys = { s.me.sys with wlim := t.me.sys.wlim }) ∧
        (n.val = 0x08 → t.me.sys = { s.me.sys with markvec := t.me.sys.markvec }) ∧
        (n.val = 0x09 → t.me.sys = { s.me.sys with markpc := t.me.sys.markpc }) ∧
        (n.val = 0x0A → t.me.sys = { s.me.sys with stage := t.me.sys.stage }) ∧
        (n.val = 0x0E → t.me.sys = { s.me.sys with timer := t.me.sys.timer }) ∧
        (n.val = 0x0F → t.me.sys = { s.me.sys with deadline := t.me.sys.deadline }) ∧
        (n.val = 0x12 → t.me.sys = { s.me.sys with xlto := t.me.sys.xlto }) ∧
        (n.val = 0x13 → t.me.sys = { s.me.sys with synclim := t.me.sys.synclim }) ∧
        (n.val = 0x20 → t.me.sys = { s.me.sys with rootsel := t.me.sys.rootsel }) ∧
        (n.val ∈ [0x0B, 0x0C, 0x0D, 0x10, 0x11, 0x14] → t.me = s.me ∧ t.clusters = s.clusters) ∧
        (∀ p ∈ ([(0x01, 0xFFFFFFFFFFFFFFFF), (0x02, 0xFF), (0x03, 0xFFFFFFFFFFFFFFFF), (0x04, 0xFFFFFFFFFFFFFFF8), (0x05, 0xFFFFFFFF),
            (0x06, 0xFFFFFFFFF), (0x07, 0xFFFFFFFFFFFFFFFF), (0x08, 0xFFFFFFFFFFFFFFFF), (0x09, 0xFFFFFFFFFFFFFFFF), (0x0A, 0xFFF),
            (0x0E, 0x8000FFFFFFFFFFFF), (0x0F, 0x8000FFFFFFFFFFFF), (0x12, 0xFFFF), (0x13, 0xFFFF), (0x20, 0xFF)] : List (Nat × Word)),
          n.val = p.1 → t.sysRead s.cur t.me n.val = w &&& p.2 ∧ t.clusters = s.clusters) ∧
        (n.val = 0 → let v := if 5 ≤ Fld w 28 26 then w &&& 0xFFFFFFFFE3FFFFFF else w
          t.me.sys.status = (if s.src.sup then v &&& 0x1FF03F03F
            else (v &&& 0x3F03F03F) ||| (s.src.sys.status &&& 0x1C0000000)) ||| s.iss.flags.setWidth 64) ∧
        (root → n.val ≠ 0x20 → t.root clid (Fld s.src.sys.rootsel 7 0) (n.val - 0x21) = w &&& 0xC0000001C7FFFFFF ∧
          ∀ c tenant sp, c ≠ clid → t.root c tenant sp = s.root c tenant sp)))) ∧
  ∀ (s : State) (tid : Nat) (t : Thread),
    s.sysRead tid t 0x00 = t.sys.status ∧ s.sysRead tid t 0x01 = t.sys.epc ∧ s.sysRead tid t 0x02 = t.sys.cause ∧
    s.sysRead tid t 0x03 = t.sys.tval ∧ s.sysRead tid t 0x0B = BitVec.ofNat 64 t.groupNo ∧
    s.sysRead tid t 0x0C = BitVec.ofNat 64 tid ∧ s.sysRead tid t 0x0D = s.time.setWidth 64 ∧
    s.sysRead tid t 0x10 = BitVec.ofNat 64 (s.ownShare tid) ∧ s.sysRead tid t 0x11 = BitVec.ofNat 64 (s.embHeld tid) ∧
    s.sysRead tid t 0x14 = 0x100

/-- With a true guard, ready operands and no access that holds them back: SEGLD loads segment register n from two
words of the own local store and discards the fetch buffer, traps with cause 0x01 on a reserved bit of a block it can
read, and otherwise needs SUP (cause 0x02); a poisoned word of it raises cause 0x0B; SEGST sends the two words of
segment n to the store buffer, or as two puts through a window; TREMIT needs SUP (cause 0x02) and moves on, and while
EMIT is set and the trace ring has room writes a record of three words at its tail (one word of the ring stays free:
log 13); without room the record is dropped and counted, and without a ring nothing is written; RPUSH pushes the label
on a stack of at most 16, RPOP pops it into d, and beyond 16 they count: RPOP of an overflowed or empty stack writes
0x10000 (R41, R335, R348, R355, R356, R397, R210). -/
def Obligations.SegmentsAndTrace : Prop :=
  (∀ (s : State) (b : XReg) (n : Fin 8) (g : Fin 8), s.guarded g = true → s.Ready [xplace b] [] →
    let na := s.readX b
    (s.Open → s.src.sup = false → ¬(na.toNat + 16 ≤ 0x30000 ∧ na.toNat % 16 = 0) →
      exec (.segld b n g) s = .next (s.halted (.trap 0x02 s.iss.word))) ∧
    (s.Open → na.toNat + 16 ≤ 0x30000 → na.toNat % 16 = 0 → ∀ w0 w1 : Word,
      s.plainWords na.toNat (keyLocal s.cid na.toNat) 2 = .ok [w0, w1] →
      let bad : Prop := Fld w0 63 52 ≠ 0 ∨ Fld w0 15 6 ≠ 0 ∨ Fld w1 63 61 ≠ 0
      (bad → exec (.segld b n g) s = .next (s.halted (.trap 0x01 s.iss.word))) ∧
      (¬bad → s.src.sup = false → exec (.segld b n g) s = .next (s.halted (.trap 0x02 s.iss.word))) ∧
      (¬bad → s.src.sup = true → exec (.segld b n g) s = past (s.updMe fun t => { t.setSeg n.val (w0, w1) with fetch := [] }))) ∧
    (s.Open → na.toNat + 16 ≤ 0x30000 → na.toNat % 16 = 0 → ∀ c v,
      s.plainWords na.toNat (keyLocal s.cid na.toNat) 2 = .error (.trap c v) →
      (s.src.sup = true → exec (.segld b n g) s = .next (s.halted (.trap c v))) ∧
      (s.src.sup = false → exec (.segld b n g) s = .next (s.halted (.trap 0x02 s.iss.word)))) ∧
    (∀ r0 r1, s.near na 8 8 .store = .ok r0 → s.near (na + 8) 8 8 .store = .ok r1 → r0.put = r1.put →
      (r0.put = true → s.acquiring s.cur = false → exec (.segst b n g) s =
        past ((s.post (.put s.cur r0.key (toBytes 8 (s.src.seg n.val).1.toNat))).post
          (.put s.cur r1.key (toBytes 8 (s.src.seg n.val).2.toNat)))) ∧
      (r0.put = false → s.Open → s.src.sb.length < 15 → exec (.segst b n g) s =
        past ((s.buffer na false false (.bytes r0.key (toBytes 8 (s.src.seg n.val).1.toNat) none)).buffer (na + 8) false false
          (.bytes r1.key (toBytes 8 (s.src.seg n.val).2.toNat) none))))) ∧
  (∀ (s : State) (x : SOpd) (g : Fin 8), s.guarded g = true → s.Ready [x.place] [] →
    let pkg := pkgOf s.cid
    let v := (s.pkg pkg).service
    let w := s.readS x
    (s.src.sup = false → exec (.tremit x g) s = .next (s.halted (.trap 0x02 s.iss.word))) ∧
    (s.src.sup = true → v.trctl.getLsbD 0 = false ∨ v.ring pkg = none → exec (.tremit x g) s = past s) ∧
    (s.src.sup = true → v.trctl.getLsbD 0 = true → ∀ k n, v.ring pkg = some (k, n) → k + n ≤ 2 ^ 50 → v.trtail % 8 = 0 → v.trdrop = 0 →
      s.locks = [] → (∀ q ∈ s.deferred, q.1 ∉ s.poison) →
      (3 ≤ v.free n → ∃ t, exec (.tremit x g) s = past t ∧ t.threads = s.threads ∧
        (t.pkg pkg).service.trtail = (v.trtail + 24) % n ∧
        t.load (k + v.trtail % n) 8 = 3 * 2 ^ 62 + 1 * 2 ^ 56 + 2 * 2 ^ 54 + s.time.toNat ∧
        t.load (k + (v.trtail + 8) % n) 8 = Fld w 61 0 ∧
        t.load (k + (v.trtail + 16) % n) 8 = Fld w 63 62 * 2 ^ 17 + s.cur % 2 ^ 17 ∧
        ∀ a, a < k ∨ k + n ≤ a → readByte t.mem a = readByte s.mem a) ∧
      (v.free n < 3 → ∃ t, exec (.tremit x g) s = past t ∧ t.threads = s.threads ∧ t.mem = s.mem ∧
        (t.pkg pkg).service.trtail = v.trtail ∧ (t.pkg pkg).service.trdrop = 1 ∧
        (t.pkg pkg).service.trlost = min (v.trlost + 1) (2 ^ 32 - 1)))) ∧
  (∀ (s : State) (x : SOpd) (g : Fin 8), s.guarded g = true → s.Ready [x.place] [] →
    (16 ≤ s.src.ranges.length →
      exec (.rpush x g) s = past (s.updMe fun t => { t with overflow := t.overflow + 1 })) ∧
    (s.src.ranges.length < 16 → ∃ t, exec (.rpush x g) s = past t ∧ s.OthersKept t ∧
      t.me.ranges = s.me.ranges ++ [(s.readS x).setWidth 16] ∧ t.me.overflow = s.me.overflow ∧ t.me.regs = s.me.regs ∧
      ((s.pkg (pkgOf s.cid)).service.trctl.getLsbD 1 = false → t.mem = s.mem))) ∧
  ∀ (s : State) (d : XReg) (g : Fin 8), s.guarded g = true → s.Ready [] [xplace d] →
    (s.src.overflow ≠ 0 → exec (.rpop d g) s =
      (s.updMe fun t => { t with overflow := t.overflow - 1 }).deliversX d 0x10000) ∧
    (s.src.overflow = 0 → s.src.ranges = [] → exec (.rpop d g) s = s.deliversX d 0x10000) ∧
    (s.src.overflow = 0 → ∀ label, s.src.ranges.getLast? = some label → ∃ t, exec (.rpop d g) s = past t ∧ s.OthersKept t ∧
      t.me.ranges = s.me.ranges.dropLast ∧ t.me.reg d.val = label.setWidth 64 ∧
      (∀ i, i ≠ d.val → t.me.reg i = s.me.reg i) ∧
      ((s.pkg (pkgOf s.cid)).service.trctl.getLsbD 1 = false → t.mem = s.mem))

/-- A walk, which reads its tables with no poison check (log 17), and that ends at a leaf sets AC, and D for a write,
in the leaf, installs it in the unit of its cluster and ends, and its engine goes on; one that fails parks its thread,
or pauses its engine, and sends a fault message; a table entry or frame that no memory holds stops the machine, which
is no rule's but the model's choice (log 17). The checks of a leaf come in the order V, reserved fields, MIGRATING,
another package, the write rights, the others. The fault message of two words enters the inbox of hob core 64 or 65 by
VA[21]. PGREP and PGREP.FAIL need a hob core and SUP, and reply to a thread or flue slot of their cluster; a reply
wakes its parked thread, FAIL with cause 0x11 to come, and is discarded by a thread that does not wait. TLBI needs SUP
and the scope CLUSTER, DIE, PKG or POD; at its first event no unit of the scope holds a matching entry any more, every
other entry stays, and it ends once the tenant's far accesses of the scope that were translated until then have been
performed: it waits for all of them (log 17) (R45, R50, R52, R53, R54, R352, R353, R335). -/
def Obligations.PagingServices : Prop :=
  (∀ (s : State) (id : Nat) (w : Walk), s.item id = some (.walk w) →
    (∀ k e, s.walkTable w = .leaf k e → w.pkg < 256 → k < 2 ^ 50 → s.poison.contains (k / 8) = false →
      let e' : Word := e ||| (if w.acc = accStore ∨ w.acc = accAtomic ∨ w.acc = accSpill ∨ w.acc = accEngWrite then 0xC0 else 0x40)
      ∃ t, exec (.tableWalk id) s = .next t ∧ t.load k 8 = e'.toNat ∧
        (∃ x ∈ (t.cluster w.clid).tu, x.covers w.tenant w.pod w.va = true ∧ x.leaf = e' ∧ x.leafKey = k) ∧
        (∀ a, a < k ∨ k + 8 ≤ a → readByte t.mem a = readByte s.mem a) ∧
        (w.eng = none → t.item id = none ∧ (t.th w.tid).walk = none ∧ (t.th w.tid).slot = (s.th w.tid).slot) ∧
        (∀ r c q, w.eng = some r → s.item r = some (.engine c q) → t.item id = none ∧
          t.item r = some (.engine c { q with pause := .no }))) ∧
    (∀ kind r c q, s.walkTable w = .fault kind → w.eng = some r → s.item r = some (.engine c q) → r ≠ s.serial →
      ∃ t q', exec (.tableWalk id) s = .next t ∧ t.item s.serial = some (.fault w kind) ∧ t.item r = some (.engine c q') ∧
        q'.pause = .fault ∧ q'.src = q.src ∧ q'.dst = q.dst ∧ q'.done = q.done ∧ t.mem = s.mem ∧ t.threads = s.threads) ∧
    (s.walkTable w = .noFrame → exec (.tableWalk id) s = .fault .noSuchFrame) ∧
    (∀ kind, s.walkTable w = .fault kind → w.eng = none → s.walkWanted id w = true →
      ∃ t, exec (.tableWalk id) s = .next t ∧ t.item s.serial = some (.fault w kind) ∧ (t.th w.tid).slot = .parked ∧
        (t.th w.tid).park = .page w.ea ∧ (t.th w.tid).pc = (s.th w.tid).pc ∧ (t.th w.tid).regs = (s.th w.tid).regs ∧
        t.mem = s.mem)) ∧
  (∀ (pkg acc : Nat) (e : Word),
    let writes : Prop := acc = accStore ∨ acc = accAtomic ∨ acc = accSpill ∨ acc = accEngWrite
    let state := Fld e 62 61
    let reserved : Prop := Fld e 17 8 ≠ 0 ∨ Fld e 5 4 ≠ 0 ∨ (state ≠ 2 ∧ Fld e 25 18 ≠ 0) ∨ (e.getLsbD 60 = true ∧ Fld e 30 26 ≠ 0)
    let foreign : Prop := (state = 0 ∨ state = 2) ∧ Fld e 59 52 ≠ pkg
    let guarded : Prop := writes ∧ (e.getLsbD 1 = false ∨ state = 2)
    (e.getLsbD 63 = false → leafFault pkg acc e = some 0) ∧
    (e.getLsbD 63 = true → reserved → leafFault pkg acc e = some 4) ∧
    (e.getLsbD 63 = true → ¬reserved → state = 3 → leafFault pkg acc e = some 3) ∧
    (e.getLsbD 63 = true → ¬reserved → state ≠ 3 → foreign → leafFault pkg acc e = some 5) ∧
    (e.getLsbD 63 = true → ¬reserved → state ≠ 3 → ¬foreign → guarded → leafFault pkg acc e = some 1) ∧
    (e.getLsbD 63 = true → ¬reserved → state ≠ 3 → ¬foreign → ¬guarded →
      leafFault pkg acc e = if leafRights e acc then none else some 2)) ∧
  (∀ (s : State) (id : Nat) (w : Walk) (kind : Nat), s.item id = some (.fault w kind) →
    let pager := (w.clid * 128 + 64 + w.va / 2 ^ 21 % 2) * 16
    s.namesSlot pager = true → (s.th pager).slot ≠ .vacant → (s.th pager).slot ≠ .saved → (s.th pager).exited = false →
    (s.core (cidOf pager)).inbox.length < 64 → 
    s.arrived id = true → (∀ p ∈ s.flight,
      (∀ m k o, p.2 = .sending m k ∨ p.2 = .message m ∨ p.2 = .waiting m o ∨ p.2 = .hardware k m → m.sender = 0x1FFFFFC →
        cidOf m.dst = cidOf pager → id ≤ p.1) ∧
      ∀ x k, p.2 = .fault x k → x.clid * 128 + 64 + x.va / 2 ^ 21 % 2 = cidOf pager → id ≤ p.1) →
    ∃ t m, exec (.faultMessage id) s = .next t ∧ (t.core (cidOf pager)).inbox = (s.core (cidOf pager)).inbox ++ [m] ∧
      m.dst = pager ∧ m.words = [BitVec.ofNat 64 (kind * 2 ^ 60 + w.acc * 2 ^ 56 + w.va % 2 ^ 52),
        BitVec.ofNat 64 (w.tenant % 256 * 2 ^ 56 + w.pod.toNat * 2 ^ 55 + w.eng.isSome.toNat * 2 ^ 54 + w.tid % 2 ^ 17)]) ∧
  (∀ (s : State) (x : XReg) (g : Fin 8), s.guarded g = true → s.Ready [xplace x] [] →
    let w := s.readX x
    let tid := pkgOf s.cid * 2 ^ 17 + Fld w 16 0
    ∀ p ∈ [(Instr.pgrep x g, false), (.pgrepFail x g, true)],
      (isHob s.cid = false ∨ Fld w 63 18 ≠ 0 → exec p.1 s = .next (s.halted (.trap 0x01 s.iss.word))) ∧
      (isHob s.cid = true → Fld w 63 18 = 0 →
        (s.src.sup = false → exec p.1 s = .next (s.halted (.trap 0x02 s.iss.word))) ∧
        (s.src.sup = true → exec p.1 s =
          past (if tid / 2048 = s.cid / 128 then s.post (.pager tid p.2 (w.getLsbD 17)) else s)))) ∧
  (∀ (s : State) (id tid : Nat) (fail : Bool), s.item id = some (.pager tid fail false) →
    (∀ ea, (s.th tid).park = .page ea → (s.th tid).slot = .parked → exec (.pagerReply id) s =
      .next ((s.dropItem id).updTh tid fun t =>
        { t with park := .none, wait := none, slot := .runnable, pageFail := if fail then some ea else none })) ∧
    ((∀ ea, (s.th tid).park ≠ .page ea) → exec (.pagerReply id) s = .next (s.dropItem id))) ∧
  (∀ (s : State) (x : XReg) (sc : Scope) (g : Fin 8), s.guarded g = true → s.Ready [xplace x] [] →
    let w := s.readX x
    let bad : Prop := sc = .core ∨ sc = .quad ∨ sc = .sys ∨ Fld w 53 52 ≠ 0 ∨ Fld w 15 0 ≠ 0
    (bad → exec (.tlbi x sc g) s = .next (s.halted (.trap 0x01 s.iss.word))) ∧
    (¬bad → s.src.sup = false → exec (.tlbi x sc g) s = .next (s.halted (.trap 0x02 s.iss.word))) ∧
    (¬bad → s.src.sup = true → exec (.tlbi x sc g) s = past (s.post (.tlbi s.cur w sc none)))) ∧
  ∀ (s : State) (id tid : Nat) (desc : Word) (sc : Scope) (gone : Option Nat), s.item id = some (.tlbi tid desc sc gone) →
    let within_ (cid : Nat) : Prop := instanceOf sc cid = instanceOf sc (cidOf tid)
    let matching (e : TuEntry) : Prop := e.tenant = Fld desc 63 56 ∧ e.pod = desc.getLsbD 55 ∧
      (desc.getLsbD 54 = true ∨ e.vpn = Fld desc 51 16 * 2 ^ 16 / (if e.big then 2 ^ 21 else 2 ^ 16))
    let quiet (n : Nat) : Prop :=
      (∀ p ∈ s.flight, (∀ a, p.2 = .access a → a.far = true → (s.th a.tid).tenant = Fld desc 63 56 → within_ (cidOf a.tid) →
          n ≤ p.1) ∧
        ∀ c r, (p.2 = .engine c r ∨ ∃ z, p.2 = .coll c r z) → r.path ≠ [] → r.tenant = Fld desc 63 56 → within_ c → n ≤ r.used) ∧
      ∀ p ∈ s.threads, p.2.tenant = Fld desc 63 56 → within_ (cidOf p.1) → ∀ e ∈ p.2.sb, e.far = true → n ≤ e.id
    let pkg := pkgOf (cidOf tid)
    let other (p : Nat) : Prop := sc = .pod ∧ p < s.npkg ∧ p ≠ pkg
    ((∃ p, other p ∧ s.unlinked pkg p = true) → exec (.tlbiCompletion id) s = .next s) ∧
    ((∀ p, other p → s.unlinked pkg p = false) →
    (gone = none → ∃ t, exec (.tlbiCompletion id) s = .next t ∧ t.mem = s.mem ∧ t.threads = s.threads ∧
      (∀ p, other p → (t.pkg p).around.pscur = 0) ∧
      (∀ c, within_ (c * 128) → ∀ e, e ∈ (t.cluster c).tu ↔ e ∈ (s.cluster c).tu ∧ ¬matching e) ∧
      (∀ c, ¬within_ (c * 128) → t.cluster c = s.cluster c) ∧
      (quiet s.serial → t.item id = none) ∧ (¬quiet s.serial → t.item id = some (.tlbi tid desc sc (some s.serial)))) ∧
    ∀ n, gone = some n → (quiet n → exec (.tlbiCompletion id) s = .next (s.dropItem id)) ∧
      (¬quiet n → exec (.tlbiCompletion id) s = .next (s.setItem id (.tlbi tid desc sc gone))))

/-- An uncorrectable error poisons the eight words of its 64-byte line of far memory, a soft error one word of a
scratchpad or one element of a tile; neither changes a byte, and an access parked on a word that becomes poisoned
leaves the queue: an LDF or LDFE is delivered poisoned, an STE's thread goes on with cause 0x0B to come. A spill
copies the oldest resident frame to its place in far memory when N - 1 or more are resident, unless the thread is
ready or a RET of it waits for a fill, and one frame less is resident; a fill copies the youngest frame of far memory
back when fewer than F are resident, or none is and a RET waits for it, and one more is; both carry the poison of
whole words (log 17) and leave the depth, the registers and the PC; what a port refuses or fails of a spill is
discarded, and of a fill comes poisoned; a failed check waits for the CALL, CALLI or RET that needs the frame, which
traps with it; a transfer waits for a link that its way lacks (R58, R210, R98, R100, R99, R54, R261, R66, R387). -/
def Obligations.ErrorsAndWindowMoves : Prop :=
  (∀ (s : State) (key : Nat), key < 2 ^ 50 → farExists key = true →
    ∃ t, exec (.eccUncorrectableError key) s = .next t ∧ t.mem = s.mem ∧
      ((∀ q ∈ s.deferred, q.1 / 8 ≠ key / 64) → t.threads = s.threads ∧ t.deferred = s.deferred) ∧
      ∀ w, w ∈ t.poison ↔ w ∈ s.poison ∨ w / 8 = key / 64) ∧
  (∀ (s : State) (key : Nat), (2 ^ 50 ≤ key → key < 2 ^ 53 → ∃ t, exec (.softError key) s = .next t ∧ t.mem = s.mem ∧
      (∀ w, w ∈ t.poison ↔ w ∈ s.poison ∨ w = key / 8) ∧
      ((∀ q ∈ s.deferred, q.1 ≠ key / 8) → t.threads = s.threads ∧ t.deferred = s.deferred) ∧ (key / 8 ∈ s.poison → t = s) ∧
      (∀ a, s.deferred = [(key / 8, [a])] → key / 8 ∉ s.poison → t.deferred = [] ∧
        (a.op = .ldf ∨ a.op = .ldfe → t.threads = s.threads ∧ t.item a.id = some (.deliver
          { tid := a.tid, reg := a.reg, val := 0, poison := some a.na, late := if a.late then some a.na else none })) ∧
        (a.op = .ste → (t.th a.tid).pending.poison = some ((s.th a.tid).pending.poison.getD a.na) ∧
          ((s.th a.tid).park = .sync → (t.th a.tid).park = .none)))) ∧
    ∀ c n, n < 2 ^ 14 → c < 2 ^ 36 → key = keyAcc c n → ∃ t, exec (.softError key) s = .next t ∧ t.mem = s.mem ∧
      t.poison = s.poison ∧ (t.core c).tile.elems = (s.core c).tile.elems ∧
      ∀ i, i ∈ (t.core c).tile.bad ↔ i ∈ (s.core c).tile.bad ∨ i = n) ∧
  (∀ (s : State) (tid k : Nat),
    let t := s.th tid
    let y := t.sys
    let f := y.depth - y.res
    let d := frameKey (cidOf tid) y f
    let kept : Bool := (t.issuing && t.wait.isNone) || t.wait.any fun w => decide (w.ring = some 8)
    t.movesWindows = true → 0 < y.res → y.res ≤ y.depth →
    (y.frames ≤ y.res + 1 → kept = false → s.frameAccess tid (y.frameEa f) true = .ok k →
      (s.awaitsLink (cidOf tid) k = true → exec (.windowSpill tid) s = .next s) ∧
      (s.awaitsLink (cidOf tid) k = false → (∀ x ∈ (s.cluster (clidOf (cidOf tid))).tu, x.dirty = true) → k % 8 = 0 →
        k + 128 ≤ 2 ^ 50 → s.locks = [] → (∀ q ∈ s.deferred, 2 ^ 50 ≤ q.1 * 8) →
        let cut := s.cutOff (cidOf tid) t.tenant [(k, 128)]
        ∃ u, exec (.windowSpill tid) s = .next u ∧ (u.th tid).sys.res = y.res - 1 ∧ (u.th tid).sys.depth = y.depth ∧
          (u.th tid).regs = t.regs ∧ (u.th tid).pc = t.pc ∧
          (∀ i, i < 16 → let b := k + 8 * i
            let from_ := if inRuns cut b then b else d + 8 * i
            u.load b 8 = s.load from_ 8 ∧ u.poisoned b 8 = s.poisoned from_ 8) ∧
          ∀ a, a < k ∨ k + 128 ≤ a → readByte u.mem a = readByte s.mem a)) ∧
    (y.frames ≤ y.res + 1 → kept = false → ∀ c ea, s.frameAccess tid (y.frameEa f) true = .error (.trap c ea) →
      exec (.windowSpill tid) s = .next (s.updTh tid fun t => { t with windowFault := some (c, ea) })) ∧
    (y.res + 1 < y.frames ∨ kept = true → exec (.windowSpill tid) s = .next s)) ∧
  (∀ (s : State) (tid k : Nat),
    let t := s.th tid
    let y := t.sys
    let f := y.depth - y.res - 1
    let d := frameKey (cidOf tid) y f
    let low := min 2 (y.frames - 2)
    let wait : Bool := t.wait.any fun w => decide (w.ring = some 8)
    let due : Prop := y.res < low ∨ (y.res = 0 ∧ wait = true)
    t.movesWindows = true → y.res < y.depth →
    (due → s.frameAccess tid (y.frameEa f) false = .ok k →
      (s.awaitsLink (cidOf tid) k = true → exec (.windowFill tid) s = .next s) ∧
      (s.awaitsLink (cidOf tid) k = false → d % 8 = 0 → k + 128 ≤ 2 ^ 50 → (∀ i, i < 128 → s.hidden (d + i) = false) →
        let cut := s.cutOff (cidOf tid) t.tenant [(k, 128)]
        ∃ u, exec (.windowFill tid) s = .next u ∧ (u.th tid).sys.res = y.res + 1 ∧ (u.th tid).sys.depth = y.depth ∧
          (u.th tid).regs = t.regs ∧ (u.th tid).pc = t.pc ∧
          (∀ i, i < 16 → let a := k + 8 * i; let b := d + 8 * i
            (inRuns cut a = true → u.load b 8 = s.load b 8 ∧ u.poisoned b 8 = true) ∧
            (inRuns cut a = false → u.load b 8 = s.load a 8 ∧ u.poisoned b 8 = s.poisoned a 8)) ∧
          ∀ a, a < d ∨ d + 128 ≤ a → readByte u.mem a = readByte s.mem a)) ∧
    (due → ∀ c ea, s.frameAccess tid (y.frameEa f) false = .error (.trap c ea) →
      exec (.windowFill tid) s = .next (s.updTh tid fun t => { t with windowFault := some (c, ea) })) ∧
    (¬due → exec (.windowFill tid) s = .next s)) ∧
  ∀ (s : State) (off : BitVec 19) (x : XReg) (g : Fin 8) (c : Nat) (ea : Word), s.guarded g = true →
    s.Ready [xplace x] [.reg 15] → s.src.pend.toNat / 2 ^ 16 = 0 → s.src.busy.toNat / 2 ^ 16 = 0 → s.src.sys.windowOk = true →
    s.src.windowFault = some (c, ea) →
    (s.src.sys.res = s.src.sys.frames → ∀ i ∈ [Instr.call off, .calli x g], exec i s = .next (s.halted (.trap c ea))) ∧
    (s.src.sys.res = 0 → s.src.sys.depth ≠ 0 → exec (.ret x g) s = .next (s.halted (.trap c ea)))

/-- With ready sources and no undelivered acquire: a reserved bit traps with cause 0x01; in user mode an endpoint in a
hob core's window with 0x02; an endpoint outside its regions, overlapping ranges or rows with 0x03; a misaligned one
with 0x05, a PLANE's source included; the destination comes first, and its address is TVAL (which address TVAL holds
is the reading of logs 18 and 19). Endpoints that meet every check give, once the token is ready, an outstanding move
whose token register is absent and awaits its delivery; the ninth outstanding move waits (checks before this wait and
after that for the sources: the model's reading, notes/assumptions/24.md). A move whose thread's earlier stores have
drained copies every word of every row with its poison, changes no other byte, and delivers rows x length to its
token; one with an endpoint in another tenant's cluster moves nothing and delivers CODE 3. That a word which a port
refuses or fails comes poisoned, or is left where it would be written, and that the token counts it, is the model's
choice (log 12); so of a PLANE's source. A late read makes cause 0x10 pending while DEADLINE.LTE is set. A PLANE
without scales changes nothing outside its tile and delivers the bytes it wrote; both wait for earlier stores. A move
takes place at one instant, with no lock or parked access to settle here (notes/assumptions/8.md) (R80, R81, R82,
R265, R266, R267, R268, R269, R64, R66). -/
def Obligations.TileMovesAndPlanes : Prop :=
  (∀ (s : State) (t da sa sh : XReg), s.Ready [xplace da, xplace sa, xplace sh] [] →
    let dw := s.readX da
    let sw := s.readX sa
    let h := s.readX sh
    let rows := Fld h 63 56 + 1
    let len := 8 * (Fld h 55 45 + 1)
    let dstr := 8 * Fld h 44 23
    let sstr := 8 * Fld h 22 1
    let dn := (rows - 1) * dstr + len
    let sn := (rows - 1) * sstr + len
    let malformed : Prop := badEndpoint dw = true ∨ badEndpoint sw = true ∨ h.getLsbD 0 = true
    let traps (c n : Nat) : Prop := exec (.tmov t da sa sh) s = .next (s.halted (.trap c (BitVec.ofNat 64 n)))
    s.acquiring s.cur = false →
    (malformed → exec (.tmov t da sa sh) s = .next (s.halted (.trap 0x01 s.iss.word))) ∧
    (¬malformed → s.src.sup = false →
      (endPrivileged s.cid dw dn = true → traps 0x02 (Fld dw 31 0)) ∧
      (endPrivileged s.cid dw dn = false → endPrivileged s.cid sw sn = true → traps 0x02 (Fld sw 31 0))) ∧
    (¬malformed → s.src.sup = true ∨ (endPrivileged s.cid dw dn = false ∧ endPrivileged s.cid sw sn = false) →
      (endKey s.cid dw dn .store = none → traps 0x03 (Fld dw 31 0)) ∧
      (endKey s.cid dw dn .store ≠ none → endKey s.cid sw sn .load = none → traps 0x03 (Fld sw 31 0)) ∧
      ∀ dk sk, endKey s.cid dw dn .store = some dk → endKey s.cid sw sn .load = some sk →
        let meets : Prop := (1 < rows ∧ dstr < len) ∨ (dk < sk + sn ∧ sk < dk + dn)
        (meets → traps 0x03 (Fld dw 31 0)) ∧
        (¬meets → Fld dw 31 0 % 8 ≠ 0 → traps 0x05 (Fld dw 31 0)) ∧
        (¬meets → Fld dw 31 0 % 8 = 0 → Fld sw 31 0 % 8 ≠ 0 → traps 0x05 (Fld sw 31 0)) ∧
        (¬meets → Fld dw 31 0 % 8 = 0 → Fld sw 31 0 % 8 = 0 → s.DstReady (xplace t) →
          (8 ≤ s.moves s.cur → exec (.tmov t da sa sh) s = .next (s.halted (.wait ⟨.mem, 1, none, none⟩))) ∧
          (s.moves s.cur < 8 → exec (.tmov t da sa sh) s = past ((s.openToken t).post (.move
            { tid := s.cur, tenant := s.src.tenant, deadline := s.src.dueBy, tok := t.val, rows := rows, len := len, src := sk,
              dst := dk, sstr := sstr, dstr := dstr, refused := s.foreignEnd dw || s.foreignEnd sw,
              ea := BitVec.ofNat 64 (Fld sw 31 0) })))))) ∧
  (∀ (s : State) (t da sa ct : XReg), s.Ready [xplace da, xplace sa, xplace ct] [] →
    let dw := s.readX da
    let sw := s.readX sa
    let c := s.readX ct
    let sg := Fld c 54 53
    let roleB := c.getLsbD 55
    s.acquiring s.cur = false →
    (badPlane c = true → exec (.plane t da sa ct) s = .next (s.halted (.trap 0x01 s.iss.word))) ∧
    (badPlane c = false → s.src.sup = true → isHob s.cid = false → ∀ f l dk sk ok ik, descFmt (Fld c 63 60) = some f →
      layout f = some l → matRegion s.cid (Fld dw 31 0) l.size = .ok dk →
      tileRange s.cid (Fld sw 31 0) (127 * (8 * Fld c 52 32) + 16 * fmtWidth f) .load = some sk →
      overlap dk l.size sk (127 * (8 * Fld c 52 32) + 16 * fmtWidth f) = false →
      (sg = 0 → ok = 0 ∧ ik = 0) →
      (sg ≠ 0 → matRegion s.cid (Fld dw 63 32) (if roleB then 1 else 128) = .ok ok ∧
        tileRange s.cid (Fld sw 63 32) (if sg = 2 then 512 else if roleB then 1 else 128) .load = some ik ∧
        (roleB = false → Fld dw 63 32 % 64 = 0)) →
      (Fld dw 31 0 % 2048 ≠ 0 → exec (.plane t da sa ct) s = .next (s.halted (.trap 0x05 (BitVec.ofNat 64 (Fld dw 31 0))))) ∧
      (Fld dw 31 0 % 2048 = 0 → Fld sw 31 0 % 8 ≠ 0 →
        exec (.plane t da sa ct) s = .next (s.halted (.trap 0x05 (BitVec.ofNat 64 (Fld sw 31 0))))) ∧
      (Fld dw 31 0 % 2048 = 0 → Fld sw 31 0 % 8 = 0 → s.DstReady (xplace t) →
        (8 ≤ s.moves s.cur → exec (.plane t da sa ct) s = .next (s.halted (.wait ⟨.mem, 1, none, none⟩))) ∧
        (s.moves s.cur < 8 → exec (.plane t da sa ct) s = past ((s.openToken t).post (.plane
          { tid := s.cur, tenant := s.src.tenant, deadline := s.src.dueBy, tok := t.val, fmt := Fld c 63 60,
            d := if Fld c 59 56 = 0 then l.full else Fld c 59 56, roleB := roleB, sg := sg, sstr := 8 * Fld c 52 32, src := sk,
            dst := dk, sscale := ik, dscale := ok, tx := s.src.tx, ea := BitVec.ofNat 64 (Fld sw 31 0),
            scaleEa := BitVec.ofNat 64 (Fld sw 63 32) })))))) ∧
  (∀ (s : State) (t : XReg), (s.openToken t).me.present.getLsbD t.val = false ∧ (s.openToken t).me.pend.getLsbD t.val = true ∧
    (s.openToken t).me.regs = s.me.regs ∧ (s.openToken t).mem = s.mem ∧ s.OthersKept (s.openToken t)) ∧
  (∀ (s : State) (id : Nat) (x : Move), s.item id = some (.move x) →
    let rd := rowsOf x.src x.sstr x.rows x.len
    let wr := rowsOf x.dst x.dstr x.rows x.len
    let cut := s.cutOff (cidOf x.tid) x.tenant (rd ++ wr)
    let late : Bool := s.pastDue x.deadline rd && (s.th x.tid).sys.deadline.getLsbD 63
    (s.drained x.tid id = false → exec (.tileMoveCompletion id) s = .next s) ∧
    (s.drained x.tid id = true → (s.th x.tid).slot ≠ .vacant → x.tok < 32 → id < s.serial →
      let token (u : State) (n : Nat) : Prop := (u.th x.tid).reg x.tok = BitVec.ofNat 64 n ∧
        (u.th x.tid).present.getLsbD x.tok = true ∧ (u.th x.tid).pend.getLsbD x.tok = false ∧ u.item id = none
      (x.refused = true → ∃ u, exec (.tileMoveCompletion id) s = .next u ∧ u.mem = s.mem ∧ u.poison = s.poison ∧
        token u 0x0300000000000000) ∧
      (x.refused = false → s.locks = [] → s.deferred = [] → x.src % 8 = 0 → x.dst % 8 = 0 → x.len % 8 = 0 → x.sstr % 8 = 0 →
        x.dstr % 8 = 0 → (1 < x.rows → x.len ≤ x.dstr) →
        (∀ a, x.dst ≤ a → a < x.dst + ((x.rows - 1) * x.dstr + x.len) →
          s.hidden a = false ∧ (a < x.src ∨ x.src + ((x.rows - 1) * x.sstr + x.len) ≤ a)) →
        ∃ u, exec (.tileMoveCompletion id) s = .next u ∧ token u (x.rows * x.len) ∧
          (∀ r i, r < x.rows → 8 * i < x.len →
            let a := x.src + r * x.sstr + 8 * i
            let b := x.dst + r * x.dstr + 8 * i
            (inRuns cut b = true → u.load b 8 = s.load b 8 ∧ u.poisoned b 8 = s.poisoned b 8) ∧
            (inRuns cut b = false → inRuns cut a = true → u.load b 8 = s.load b 8 ∧ u.poisoned b 8 = true) ∧
            (inRuns cut b = false → inRuns cut a = false → u.load b 8 = s.load a 8 ∧ u.poisoned b 8 = s.poisoned a 8)) ∧
          (∀ a, (∀ r, r < x.rows → a < x.dst + r * x.dstr ∨ x.dst + r * x.dstr + x.len ≤ a) →
            readByte u.mem a = readByte s.mem a) ∧
          (u.th x.tid).pending.late =
            if late then some ((s.th x.tid).pending.late.getD x.ea) else (s.th x.tid).pending.late))) ∧
  ∀ (s : State) (id : Nat) (x : Plane) (f : Fmt) (l : Layout), s.item id = some (.plane x) → descFmt x.fmt = some f →
    layout f = some l →
    let cut := s.cutOff (cidOf x.tid) x.tenant (x.reads f)
    (s.drained x.tid id = false → exec (.planeCompletion id) s = .next s) ∧
    (s.drained x.tid id = true → (s.th x.tid).slot ≠ .vacant → x.tok < 32 → id < s.serial → s.locks = [] → s.deferred = [] →
      x.sg = 0 → x.d ≤ l.full →
      ∃ u, exec (.planeCompletion id) s = .next u ∧ u.item id = none ∧
        (∀ a, a < x.dst ∨ x.dst + l.size ≤ a → readByte u.mem a = readByte s.mem a) ∧
        (u.th x.tid).reg x.tok = BitVec.ofNat 64 (2048 * (1 + l.signs.length + l.e + min x.d l.planes)) ∧
        (u.th x.tid).present.getLsbD x.tok = true ∧ (u.th x.tid).pend.getLsbD x.tok = false ∧
        (x.dst % 8 = 0 → (∀ i, i < 2048 → s.hidden (x.dst + i) = false) → ∀ r c, r < 128 → c < 128 →
          let k := x.src + r * x.sstr + fmtWidth f * c / 8
          s.poisoned k 1 = true ∨ inRuns cut k = true → u.poisoned (x.dst + 16 * r + c / 8) 1 = true) ∧
        ∀ tid, tid ≠ x.tid → u.th tid = s.th tid)

/-- With a true guard and a ready S1, FLUE captures the block at S1 in the lowest empty mailbox, which is an event of
the flue slot; it meets what the block's loads meet, traps with the block's first failing check (a reserved field
first, cause 0x01), and parks while the four are full. Outside slot 15 the engine commands trap with cause 0x02; in it
they answer 1 while 16 commands run, 2 for an empty mailbox, 3 for one that is not the oldest, 4 for another
operation, and otherwise take the request, answer 0 and start it; a COLL with fewer clusters than PCNT completes with
status 4, and else joins with the logical order of its group, the time of all its participants stopped while the
package of one is halted. A copy sends for the bytes up to the next 256-byte boundary of its destination and moves
them at one instant (notes/assumptions/8.md, 12.md); it completes with status 0, or 1 after poisoned words, its
message leaving then; EXC, of a GATH or SCAT with both counts, is their sum (log 18), and DONE wraps at 2^40 (log 26).
A failed translation gives 2, a port's refusal 3. An index of a GATH adds its element, or an absent one that is
counted; one of a SCAT that is out of range writes nothing and counts; the elements move at one instant (log 8). Once
a COLL has all its participants, and their packages their links (log 12), a disagreement ends it for each with 5; that
one participant's failed walk ends it for each with 2, and one's refusal with 3, is the reading of log 18; one that
lacks some and times out ends with 6 for those that joined (R83, R84, R85, R86, R87, R88, R89, R91, R93, R166, R270,
R271). -/
def Obligations.FlueAndEngines : Prop :=
  (∀ (s : State) (x : GReg) (g : Fin 8) (w0 w1 w2 w3 : Word), s.guarded g = true → s.Ready [.reg x.val] [] →
    let na := (s.src.reg x.val).toNat
    let c := s.core s.cid
    na + 32 ≤ 0x30000 → na % 32 = 0 → s.Open →
    (∀ st, s.plainWords na (keyLocal s.cid na) 4 = .error st → exec (.flue x g) s = .next (s.halted st)) ∧
    (s.plainWords na (keyLocal s.cid na) 4 = .ok [w0, w1, w2, w3] →
      (4 ≤ Fld w0 63 60 ∨ Fld w0 59 58 = 3 ∨ Fld w0 57 56 = 3 ∨ Fld w0 26 16 ≠ 0 ∨ (Fld w0 63 60 ≠ 3 ∧ Fld w0 55 53 ≠ 0) ∨
          (Fld w0 63 60 = 0 ∧ (Fld w3 63 40 ≠ 0 ∨ Fld w3 39 0 % 8 ≠ 0)) ∨ (Fld w0 63 60 ≠ 0 ∧ Fld w0 52 50 = 7) →
        exec (.flue x g) s = .next (s.halted (.trap 0x01 s.iss.word))) ∧
      (∀ k v, s.capture [w0, w1, w2, w3] = .error (.trap k v) → exec (.flue x g) s = .next (s.halted (.trap k v))) ∧
      (∀ r, s.capture [w0, w1, w2, w3] = .ok r →
        r.tid = s.cur ∧ r.w0 = w0 ∧ r.w1 = w1 ∧ r.w2 = w2 ∧ r.w3 = w3 ∧ r.tenant = s.src.tenant ∧ r.deadline = s.src.dueBy ∧
        (∀ n, n < 4 → (∀ p ∈ c.mail, p.1 ≠ n) → (∀ m, m < n → ∃ p ∈ c.mail, p.1 = m) →
          exec (.flue x g) s = past ((s.setCore s.cid { c with mail := c.mail ++ [(n, r)] }).flueEvent s.cid)) ∧
        ((∀ m, m < 4 → ∃ p ∈ c.mail, p.1 = m) →
          exec (.flue x g) s = .next (s.halted (.park .mailbox ⟨.msg, 8, none, none⟩)))))) ∧
  (∀ (s : State) (d : XReg) (mb : Fin 4),
    let c := s.core s.cid
    ∀ p ∈ [(Instr.bcpy d mb, 0), (.gath d mb, 1), (.scat d mb, 2), (.coll d mb, 3)],
      (slotOf s.cur ≠ 15 → s.Ready [] [xplace d] → s.acquiring s.cur = false → exec p.1 s = .next (s.halted (.trap 0x02 s.iss.word))) ∧
      (slotOf s.cur = 15 → s.Ready [] [xplace d] → s.acquiring s.cur = false → (∀ q ∈ c.mail, s.saving s.cid q.2 = false) →
        (16 ≤ s.engines s.cid → exec p.1 s = s.deliversX d 1) ∧
        (s.engines s.cid < 16 → (∀ q ∈ c.mail, q.1 ≠ mb.val) → exec p.1 s = s.deliversX d 2) ∧
        (s.engines s.cid < 16 → ∀ n r rest, c.mail = (n, r) :: rest →
          (n ≠ mb.val → (∃ q ∈ c.mail, q.1 = mb.val) → exec p.1 s = s.deliversX d 3) ∧
          (n = mb.val → reqOp r.w0 ≠ p.2 → exec p.1 s = s.deliversX d 4) ∧
          (n = mb.val → reqOp r.w0 = p.2 → ∃ t k, exec p.1 s = past t ∧ t.me.reg d.val = 0 ∧ t.mem = s.mem ∧
            (t.core s.cid).mail = rest.filter (fun q => decide (q.1 ≠ mb.val)) ∧
            (p.2 ≠ 3 → t.item k = some (.engine s.cid r)) ∧
            (p.2 = 3 → s.liveClusters s.cid r < reqPcnt r.w3 → t.item k = some (.message (s.completion s.cid r 4))) ∧
            (p.2 = 3 → reqPcnt r.w3 ≤ s.liveClusters s.cid r → (∀ q ∈ s.flight, q.1 ≠ s.serial) → ∃ z,
              (z = true ↔ (s.pkg (pkgOf s.cid)).service.halt = true ∨
                ∃ y ∈ s.joined ⟨0, s.cid, r, false⟩, (s.pkg (pkgOf y.cid)).service.halt = true) ∧
              ((s.flight.map (·.1)).Nodup → ∀ y ∈ s.joined ⟨0, s.cid, r, false⟩, ∃ r', t.item y.id = some (.coll y.cid r' z)) ∧
              t.item k = some (.coll s.cid
                { r with rank := s.lowestRank s.cid r.grp, since := if z = true then 0 else s.time.toNat } z)))))) ∧
  (∀ (s : State) (cid : Nat) (r : Req) (st : Nat), st < 16 →
    let m := s.completion cid r st
    m.dst = r.tid ∧ m.tag = Fld r.w0 15 0 ∧ m.sender = cid * 16 + 15 ∧ m.typed = false ∧ m.tx = (s.th (cid * 16 + 15)).tx ∧ ∃ a b, m.words = [a, b] ∧ Fld a 59 56 = st ∧
      Fld a 15 0 = Fld r.w0 15 0 ∧ Fld b 39 0 = r.done / 8 % 2 ^ 40 ∧ Fld b 63 40 = min (r.exc + r.bad) (2 ^ 24 - 1)) ∧
  (∀ (s : State) (id cid : Nat) (r : Req) (st : Nat),
    let t := s.finish id cid r st
    t.item s.serial = some (.message (s.completion cid r st)) ∧ (id ≠ s.serial → t.item id = none) ∧ t.mem = s.mem ∧ (t.core cid).event = true ∧
      ((s.th (cid * 16 + 15)).park = .flue → (t.th (cid * 16 + 15)).park = .none)) ∧
  (∀ (s : State) (id cid : Nat) (r : Req), s.item id = some (.engine cid r) →
    (r.fail = true → exec (.completionMessage id) s = .next (s.finish id cid r 2)) ∧
    (r.fail = false → r.refused = true → exec (.completionMessage id) s = .next (s.finish id cid r 3)) ∧
    (r.fail = false → r.refused = false → (r.pause ≠ .no ∨ s.drained r.tid id = false) →
      exec (.completionMessage id) s = .next s) ∧
    (r.fail = false → r.refused = false → r.pause = .no → s.drained r.tid id = true →
      (reqOp r.w0 = 0 → r.path = [] → reqLen r.w3 ≤ r.pos →
        exec (.completionMessage id) s = .next (s.finish id cid r (if r.bad = 0 then 0 else 1))) ∧
      (∀ sk sn dk dn, reqOp r.w0 = 0 → r.src = .near sk sn → r.dst = .near dk dn → r.path = [] → r.pos < reqLen r.w3 →
        let n := min (reqLen r.w3 - r.pos) (256 - (dk + r.pos) % 256)
        ∃ t, exec (.completionMessage id) s = .next t ∧ t.mem = s.mem ∧
          t.item id = some (.engine cid (r.take { rd := [(sk + r.pos, n)], wr := [(dk + r.pos, n)] } s.serial))) ∧
      (∀ sk dk n, reqOp r.w0 = 0 → r.path = [{ rd := [(sk, n)], wr := [(dk, n)] }] → sk + n ≤ 2 ^ 52 → 2 ^ 50 ≤ sk → dk + n ≤ 2 ^ 52 →
        2 ^ 50 ≤ dk → s.packetsOf id = [] → s.poison = [] → s.locks = [] → s.deferred = [] →
        (∀ i, i < n → s.hidden (dk + i) = false) →
        ∃ t, exec (.completionMessage id) s = .next t ∧
          (∀ i, i < n → t.load (dk + i) 1 = s.load (sk + i) 1) ∧
          (∀ a, a < dk ∨ dk + n ≤ a → readByte t.mem a = readByte s.mem a) ∧
          t.item id = some (.engine cid { r with path := [], done := r.done + 8 * n, pos := r.pos + n })) ∧
      (∀ f, reqOp r.w0 = 2 → reqFmt r.w0 = some f → r.pos < reqN r.w3 → s.cutOff cid r.tenant (State.indexRun r) = [] →
        s.indexAt r (fmtWidth f) r.dst = .none → ∃ t, exec (.completionMessage id) s = .next t ∧ t.mem = s.mem ∧
          t.item id = some (.engine cid { r with pos := r.pos + 1, exc := r.exc + 1 })) ∧
      (∀ f sk sn dk dn, reqOp r.w0 = 1 → reqFmt r.w0 = some f → r.pos < reqN r.w3 →
        s.cutOff cid r.tenant (State.indexRun r) = [] → r.src = .near sk sn → r.dst = .near dk dn →
        let w := fmtWidth f
        let wr := [(dk + r.pos * w / 8, max 1 (w / 8))]
        (∀ i, s.indexAt r w r.src = .elem i → ∃ t r', exec (.completionMessage id) s = .next t ∧ t.mem = s.mem ∧
          t.item id = some (.engine cid r') ∧ r'.pos = r.pos + 1 ∧ r'.exc = r.exc ∧
          r'.path = r.path ++ [{ rd := [(sk + i * w / 8, max 1 (w / 8))], wr := wr, rn := i % 2, wn := r.pos % 2 }]) ∧
        (s.indexAt r w r.src = .none → ∃ t r', exec (.completionMessage id) s = .next t ∧ t.mem = s.mem ∧
          t.item id = some (.engine cid r') ∧ r'.pos = r.pos + 1 ∧ r'.exc = r.exc + 1 ∧
          r'.path = r.path ++ [{ rd := [], wr := wr, wn := r.pos % 2 }])) ∧
      (∀ f, reqOp r.w0 = 1 ∨ reqOp r.w0 = 2 → reqFmt r.w0 = some f → r.pos < reqN r.w3 →
        s.cutOff cid r.tenant (State.indexRun r) ≠ [] → exec (.completionMessage id) s =
          .next ((s.crossing cid r.tenant r.deadline false (State.indexRun r)).finish id cid r 3)) ∧
      (∀ f sk dk rn wn, reqOp r.w0 = 1 ∨ reqOp r.w0 = 2 → reqFmt r.w0 = some f → 8 ≤ fmtWidth f → reqN r.w3 ≤ r.pos →
        let n := fmtWidth f / 8
        r.path = [{ rd := [(sk, n)], wr := [(dk, n)], rn := rn, wn := wn }] → sk + n ≤ 2 ^ 52 → 2 ^ 50 ≤ sk → dk + n ≤ 2 ^ 52 →
        2 ^ 50 ≤ dk → s.packetsOf id = [] → s.poison = [] → s.locks = [] → s.deferred = [] →
        (∀ i, i < n → s.hidden (dk + i) = false) →
        ∃ t, exec (.completionMessage id) s = .next t ∧ t.load dk n = s.load sk n ∧
          (∀ a, a < dk ∨ dk + n ≤ a → readByte t.mem a = readByte s.mem a) ∧
          t.item s.serial = some (.message (s.completion cid { r with path := [], done := r.done + 8 * n } (if r.bad = 0 then 0 else 1)))))) ∧
  (∀ (s : State) (id cid : Nat) (r : Req) (f : Fmt), s.item id = some (.coll cid r false) → (s.flight.map (·.1)).Nodup →
    (∀ p ∈ s.flight, p.1 < s.serial) → reqFmt r.w0 = some f →
    let l := s.party ⟨id, cid, r, false⟩
    reqPcnt r.w3 ≤ l.length → (∀ y ∈ l, y.frozen = false ∧ s.drained y.req.tid y.id = true) →
    let cut : Prop := ∃ a ∈ l, ∃ b ∈ l, s.unlinked (pkgOf a.cid) (pkgOf b.cid) = true
    let ends (st : Nat) : Prop := ∃ t, exec (.completionMessage id) s = .next t ∧ t.mem = s.mem ∧
      ∀ y ∈ l, t.item y.id = none ∧ ∃ k, t.item k = some (.message (s.completion y.cid y.req st))
    (cut → exec (.completionMessage id) s = .next s) ∧ (¬cut →
    (disagree l = true → ends 5) ∧
    (disagree l = false → (∃ y ∈ l, y.req.fail = true) → ends 2) ∧
    (disagree l = false → (∀ y ∈ l, y.req.fail = false) → (∃ y ∈ l, y.req.refused = true) → ends 3))) ∧
  ∀ (s : State) (id cid : Nat) (r : Req), s.item id = some (.coll cid r false) → (s.flight.map (·.1)).Nodup →
    (∀ p ∈ s.flight, p.1 < s.serial) →
    let l := s.joined ⟨id, cid, r, false⟩
    let waited := (s.time.toNat + 2 ^ 48 - r.since) % 2 ^ 48
    let due : Prop := Fld r.w0 42 27 ≠ 0 ∧ Fld r.w0 42 27 * 1000 ≤ waited ∧ l.length < Fld r.w3 47 32 ∧ ∀ y ∈ l, y.frozen = false
    (due → ∃ t, exec (.collTimeout id) s = .next t ∧ t.mem = s.mem ∧
      ∀ y ∈ l, t.item y.id = none ∧ ∃ k, t.item k = some (.message (s.completion y.cid y.req 6))) ∧
    (¬due → exec (.collTimeout id) s = .next s)

/-- On a hob core every matrix command but MHINT traps with cause 0x01. On a compute core with ready operands, fewer
than 8 outstanding moves and fewer than 4 queued commands, MZERO, MSTAT, MLOAD, MDRAIN and the MMA forms enter the
core's queue with what their issue captures, their token is absent and awaits its delivery, and the PC moves past the
pair; MZERO and MSTAT do so while an acquire is undelivered too; a command that has passed its checks waits at a full
queue or with 8 moves outstanding (notes/assumptions/24.md). A descriptor of another format, with a reserved bit or a
plane count out of range traps with cause 0x01; a range outside the permitted regions, a hob core's window included
and in either mode, a row stride below the row or an address of 2^32 or more with cause 0x03; a misaligned address or
stride with cause 0x05. MHINT at a unit that is down schedules a ramp-up, and otherwise only moves on (R111, R114,
R121, R128, R326, R327, R328, R329, R330, R331). -/
def Obligations.MatrixCommands : Prop :=
  (∀ (s : State) (t da db ad st : XReg) (n : Fin 32) (g : Fin 8) (mode : Fin 4) (cls : Fin 2) (ty : Fin 8) (rm : Fin 4)
      (wrap clr : Fin 2), s.guarded g = true → s.Ready [xplace da, xplace db, xplace ad, xplace st] [] →
    let c := s.core s.cid
    let a := s.readX da
    let b := s.readX db
    let na := s.readX ad
    let stride := s.readX st
    let mma : List (Instr × Fmt × Fmt) :=
      [(.mmaF4F4 t da db n, .f4, .f4), (.mmaE4E4 t da db n, .e4, .e4), (.mmaE5E5 t da db n, .e5, .e5),
       (.mmaE4E5 t da db n, .e4, .e5), (.mmaE5E4 t da db n, .e5, .e4), (.mmaBF16BF16 t da db n, .bf16, .bf16),
       (.mmaF16F16 t da db n, .f16, .f16), (.mmaBF16F4 t da db n, .bf16, .f4), (.mmaBF16E4 t da db n, .bf16, .e4),
       (.mmaBF16TS8 t da db n, .bf16, .ts8), (.mmaE4TS8 t da db n, .e4, .ts8), (.mmaI8I8 t da db n, .i8, .i8)]
    let f := drainFmt cls.val ty.val
    let drain : Instr := .mdrain mode cls ty rm wrap clr t ad st
    let rows : List (Instr × MatCmd × Nat) :=
      [(.mloadFlt t ad st, .load false na.toNat stride.toNat, 1024), (.mloadInt t ad st, .load true na.toNat stride.toNat, 1024),
       (drain, .drain mode.val f rm.val (wrap.val = 1) (clr.val = 1) na.toNat stride.toNat, 16 * fmtWidth f)]
    let plain : List (Instr × MatCmd) := [(.mzeroFlt t g, .zero false), (.mzeroInt t g, .zero true), (.mstat t g, .stat)]
    let all : List Instr := plain.map (·.1) ++ mma.map (·.1) ++ rows.map (·.1)
    let enters (i : Instr) (cmd : MatCmd) : Prop := s.DstReady (xplace t) →
      (8 ≤ s.moves s.cur ∨ 4 ≤ c.queue.length → exec i s = .next (s.halted (.wait ⟨.mem, 1, none, none⟩))) ∧
      (s.moves s.cur < 8 → c.queue.length < 4 → ∃ u, exec i s = past u ∧
      (u.core s.cid).queue = c.queue ++ [(s.serial, ⟨s.cur, t.val, s.src.grp, cmd, s.src.tx, 0⟩)] ∧
      u.me.present.getLsbD t.val = false ∧ u.me.pend.getLsbD t.val = true ∧ u.me.regs = s.me.regs ∧ u.mem = s.mem ∧
      s.OthersKept u ∧ (u.core s.cid).tile = c.tile)
    (isHob s.cid = true → ∀ i ∈ all, i ∈ plain.map (·.1) ∨ s.acquiring s.cur = false → exec i s = .next (s.halted (.trap 0x01 s.iss.word))) ∧
    (isHob s.cid = false →
      (∀ p ∈ plain, enters p.1 p.2) ∧ (s.acquiring s.cur = false →
      (∀ p ∈ mma,
        (badDescriptor p.2.1 true a = true ∨ badDescriptor p.2.2 false b = true →
          exec p.1 s = .next (s.halted (.trap 0x01 s.iss.word))) ∧
        (badDescriptor p.2.1 true a = false → badDescriptor p.2.2 false b = false →
          ∀ la lb, layout p.2.1 = some la → layout p.2.2 = some lb →
          (∀ x, matRegion s.cid (Fld a 54 34 * 2048) ((n.val + 1) * la.size) = .error x →
            exec p.1 s = .next (s.halted (.trap 0x03 (BitVec.ofNat 64 x)))) ∧
          ((∃ k, matRegion s.cid (Fld a 54 34 * 2048) ((n.val + 1) * la.size) = .ok k) →
            (∃ k, matRegion s.cid (Fld b 54 34 * 2048) ((n.val + 1) * lb.size) = .ok k) →
            (a.getLsbD 55 = true → ∃ k, matRegion s.cid (Fld a 33 8 * 64) (128 * (n.val + 1)) = .ok k) →
            (b.getLsbD 55 = true → ∃ k, matRegion s.cid (Fld b 33 8 * 64) (n.val + 1) = .ok k) →
            enters p.1 (.mma p.2.1 p.2.2 a b (n.val + 1))))) ∧
      (∀ p ∈ rows,
        (2 ^ 32 ≤ na.toNat ∨ stride.toNat < p.2.2 → exec p.1 s = .next (s.halted (.trap 0x03 na))) ∧
        (na.toNat < 2 ^ 32 → p.2.2 ≤ stride.toNat →
          (∀ x, matRegion s.cid na.toNat (127 * stride.toNat + p.2.2) = .error x →
            exec p.1 s = .next (s.halted (.trap 0x03 (BitVec.ofNat 64 x))))) ∧
        (na.toNat < 2 ^ 32 → p.2.2 ≤ stride.toNat → (∃ k, matRegion s.cid na.toNat (127 * stride.toNat + p.2.2) = .ok k) →
          (na.toNat % 8 ≠ 0 ∨ stride.toNat % 8 ≠ 0 → exec p.1 s = .next (s.halted (.trap 0x05 na))) ∧
          (na.toNat % 8 = 0 → stride.toNat % 8 = 0 → enters p.1 p.2.1))))) ) ∧
  ∀ (s : State) (imm : BitVec 12),
    let u := s.unit (s.cid / 8)
    (isHob s.cid = true ∨ u.up = true → exec (.mhint imm) s = past s) ∧
    (isHob s.cid = false → u.up = false → exec (.mhint imm) s = past (s.setUnit (s.cid / 8) { u with hinted := true }))

/-- The unit serves the head of the queue its pointer visits, and nothing while every queue is empty. A command whose
ranges leave the regions is refused with CODE 3, one of a group that does not own a live owner's tile with CODE 2, an
MMA of the other kind of tile with CODE 1, and a refused one changes neither the tile nor memory. MZERO empties the
tile and takes it for its group; MLOAD puts each word of its rows into its element, a NaN as the default one and the
absent code as it is (notes/assumptions/19.md); MDRAIN writes each element in the target format, absent for COUNT 0,
and clears only with CLR; an MMA performs one block and ends after its last. An integer element adds its present
products modulo 2^48, COUNT grows by their number up to 65,535, and an element without a present product stays. The
token word lands in its register; the ramps change only the unit (R113, R118, R119, R121, R122, R123, R125, R126,
R127, R128, R37, R38). -/
def Obligations.MatrixUnit : Prop :=
  (∀ (s : State) (unit : Nat),
    exec (.matrixRampDown unit) s = .next (s.setUnit unit { s.unit unit with up := false }) ∧
    ((s.unit unit).hinted = true → exec (.hintedRampUp unit) s = .next (s.setUnit unit { s.unit unit with up := true, hinted := false })) ∧
    ((s.unit unit).hinted = false → exec (.hintedRampUp unit) s = .next s) ∧
    ((s.unit unit).left = 0 → (∀ c, c < 8 → (s.core (unit * 8 + c)).queue = []) → exec (.matrixBlock unit) s = .next s)) ∧
  (∀ (s : State) (id tid tok : Nat) (w : Word), s.item id = some (.matrixDone tid tok w) → tok < 32 →
    ((s.th tid).slot = .vacant → exec (.matrixCommandCompletion id) s = .next (s.dropItem id)) ∧
    ((s.th tid).slot ≠ .vacant → ∃ t, exec (.matrixCommandCompletion id) s = .next t ∧ t.item id = none ∧ t.mem = s.mem ∧
      (t.th tid).reg tok = w ∧ (t.th tid).present.getLsbD tok = true ∧ (t.th tid).pend.getLsbD tok = false ∧
      ∀ u, u ≠ tid → t.th u = s.th u)) ∧
  (∀ (s : State) (cid : Nat) (m : Matrix),
    let t := (s.core cid).tile
    let outside : Prop := ∃ r ∈ m.cmd.ranges, ∀ k, matRegion cid r.1 r.2 ≠ .ok k
    let live (g : Nat) : Prop := t.owner = some g ∧ (s.group (pkgOf cid) g).isSome = true
    let kind : Prop := ∀ fa fb a b n, m.cmd = .mma fa fb a b n → t.int = decide (fa = .i8)
    (outside → s.refusal cid m = 3) ∧
    (¬outside → (∃ g, live g ∧ m.grp ≠ some g) → s.refusal cid m = 2) ∧
    (¬outside → (∀ g, live g → m.grp = some g) → ¬kind → s.refusal cid m = 1) ∧
    (¬outside → (∀ g, live g → m.grp = some g) → kind → s.refusal cid m = 0)) ∧
  (∀ (s : State) (unit id : Nat) (m : Matrix) (rest : List (Nat × Matrix)),
    let u := s.unit unit
    let cid := unit * 8 + u.ptr
    let c := s.core cid
    u.left ≠ 0 → c.queue = (id, m) :: rest →
    let ends (t : State) (code : Nat) (low : Nat) : Prop := ∃ w, t.item id = some (.matrixDone m.tid m.tok w) ∧
      Fld w 63 56 = code ∧ Fld w 31 0 = low ∧ (t.core cid).queue = rest.filter fun p => decide (p.1 ≠ id)
    let code := s.refusal cid m
    ((∃ fa fb a b n, m.cmd = .mma fa fb a b n) ∨ (∃ int ad st, m.cmd = .load int ad st) → s.drained m.tid id = false →
      exec (.matrixBlock unit) s = .next s) ∧
    (s.drained m.tid id = true → code ≠ 0 → m.cmd ≠ .stat →
      ∃ t, exec (.matrixBlock unit) s = .next t ∧ ends t code 0 ∧ (t.core cid).tile = c.tile ∧ t.mem = s.mem ∧ t.threads = s.threads) ∧
    (m.cmd = .stat → ∃ t, exec (.matrixBlock unit) s = .next t ∧ (∃ low, ends t code low) ∧ (t.core cid).tile = c.tile ∧
      t.mem = s.mem) ∧
    (∀ int, m.cmd = .zero int → code = 0 → ∃ t, exec (.matrixBlock unit) s = .next t ∧ ends t 0 0 ∧
      (t.core cid).tile = { int := int, owner := m.grp } ∧ t.mem = s.mem) ∧
    (∀ int ad st key, m.cmd = .load int ad st → s.drained m.tid id = true → code = 0 →
      matRegion cid ad (127 * st + 1024) = .ok key → ∃ t, exec (.matrixBlock unit) s = .next t ∧ ends t 0 0 ∧ t.mem = s.mem ∧
      (t.core cid).tile.int = int ∧ (t.core cid).tile.owner = m.grp ∧
      ∀ i j, i < 128 → j < 128 →
        let x := s.load (key + i * st + 8 * j) 8
        lookup 0 (t.core cid).tile.elems (128 * i + j) = if int then x
          else x / 2 ^ 48 * 2 ^ 48 + (if 0x7F800000 < x % 2 ^ 31 ∧ x % 2 ^ 32 ≠ 0xFFC00001 then 0x7FC00000 else x % 2 ^ 32)) ∧
    (∀ mode f rm wrap clr ad st key, m.cmd = .drain mode f rm wrap clr ad st → code = 0 →
      matRegion cid ad (127 * st + 16 * fmtWidth f) = .ok key → 2 ^ 51 ≤ key → key + 127 * st + 16 * fmtWidth f ≤ 2 ^ 52 →
      key % 8 = 0 → st % 8 = 0 → 16 * fmtWidth f ≤ st → c.tile.bad = [] → s.locks = [] → s.deferred = [] →
      ∃ t, exec (.matrixBlock unit) s = .next t ∧ (∃ low, ends t 0 low) ∧
        (clr = false → (t.core cid).tile = c.tile) ∧ (clr = true → (t.core cid).tile.elems = [] ∧ (t.core cid).tile.owner = c.tile.owner) ∧
        (∀ a, a < key ∨ key + 127 * st + 16 * fmtWidth f ≤ a → readByte t.mem a = readByte s.mem a) ∧
        ∀ i j, i < 128 → j < 128 →
          let e := lookup 0 c.tile.elems (128 * i + j)
          let got := t.load (key + i * st) (16 * fmtWidth f) / 2 ^ (fmtWidth f * j) % 2 ^ fmtWidth f
          got = (drainElem c.tile.int f m.tx mode rm wrap e).code % 2 ^ fmtWidth f ∧
          (mode ≠ 2 → e / 2 ^ 48 % 2 ^ 16 = 0 → got = absentCode f % 2 ^ fmtWidth f)) ∧
    (∀ fa fb a b n, m.cmd = .mma fa fb a b n → n ≤ 32 → s.drained m.tid id = true → code = 0 →
      ∃ t, exec (.matrixBlock unit) s = .next t ∧ t.mem = s.mem ∧ t.threads = s.threads ∧
        (∀ k, k ≠ cid → t.core k = s.core k) ∧ (t.core cid).tile.owner = c.tile.owner ∧ (t.core cid).tile.int = c.tile.int ∧
        (n ≤ m.done + 1 → ends t 0 n) ∧
        (m.done + 1 < n → (id, { m with done := m.done + 1 }) ∈ (t.core cid).queue ∧ t.flight = s.flight))) ∧
  (∀ (e : Nat) (ps : List Val), ps ≠ [] → (∀ v ∈ ps, ∃ n m x, v = .fin n m x ∧ 0 ≤ x) →
    let value (v : Val) : Int := match v with
      | .fin n m x => if n then -((m * 2 ^ x.toNat : Nat) : Int) else ((m * 2 ^ x.toNat : Nat) : Int)
      | _ => 0
    let r := (intElem e ps false).1
    r / 2 ^ 48 = min (e / 2 ^ 48 % 2 ^ 16 + ps.length) 65535 ∧
      ((r % 2 ^ 48 : Nat) : Int) = ((e % 2 ^ 48 : Nat) + (ps.map value).sum) % 2 ^ 48) ∧
  ∀ (e : Nat) (scale : Int), intElem e [] false = (e, {}) ∧ floatElem e [] scale false = (e, {})

/-- With a true guard and ready operands the three need a hob core, a group number of 16 bits and SUP. They answer 1
for a group that is not live, 5 for the thread's own, 2 for one that is being saved or is saved (3 for a resume of one
that is neither), 4 for an area that does not fit, and otherwise 0: CTXS stops the group's threads and starts its
save, or of a RESUMING one keeps the request until it runs; CTXS.RESUME asks for its resume from the area that it
names, if no earlier one has; CTXS.SIZE writes the area's size or 0. A save waits for an area that does not translate,
for a thread with anything in flight and for running copies, and then leaves the group SAVED and returns its grant; a
thread's record stands word by word in the area, and its header ends with STATE 2 and SIZE. A resume takes PC and
registers from the area, but for a register that changed meanwhile, and leaves the group running; a poisoned word in
the area ends it with FAULTED (the readings of notes/assumptions/22.md) (R202, R211, R212, R213, R214, R354, R92). -/
def Obligations.ContextSwitching : Prop :=
  (∀ (s : State) (d gr a : XReg) (g : Fin 8), s.guarded g = true → s.Ready [xplace gr, xplace a] [xplace d] →
    let n := Fld (s.readX gr) 15 0
    let pkg := pkgOf s.cid
    let all : List Instr := [.ctxs d gr a g, .ctxsResume d gr a g, .ctxsSize d gr g]
    let answers (i : Instr) (v : Nat) : Prop := exec i s = past (s.answer d (BitVec.ofNat 64 v))
    (isHob s.cid = false ∨ Fld (s.readX gr) 63 16 ≠ 0 → ∀ i ∈ all, exec i s = .next (s.halted (.trap 0x01 s.iss.word))) ∧
    (isHob s.cid = true → Fld (s.readX gr) 63 16 = 0 →
      (s.src.sup = false → ∀ i ∈ all, exec i s = .next (s.halted (.trap 0x02 s.iss.word))) ∧
      (s.src.sup = true →
        (s.launchedGroup pkg n = none → exec (.ctxsSize d gr g) s = s.deliversX d 0) ∧
        (∀ x, s.launchedGroup pkg n = some x →
          exec (.ctxsSize d gr g) s = s.deliversX d (BitVec.ofNat 64 (recSaveSize x.record))) ∧
        (∀ c v, s.src.segCheck (s.readX a) 64 { rd := true, w := true } 64 = .error (.trap c v) →
          ∀ i ∈ [Instr.ctxs d gr a g, .ctxsResume d gr a g], exec i s = .next (s.halted (.trap c v))) ∧
        (∀ pod va, s.src.segCheck (s.readX a) 64 { rd := true, w := true } 64 = .ok (pod, va) →
          (s.launchedGroup pkg n = none → answers (.ctxs d gr a g) 1 ∧ answers (.ctxsResume d gr a g) 1) ∧
          (∀ x, s.launchedGroup pkg n = some x →
            let small (size : Nat) : Prop :=
              (s.src.seg (Fld (s.readX a) 63 61)).2.toNat % 2 ^ 61 < (s.readX a).toNat % 2 ^ 61 + size ∨ 2 ^ 52 < va + size
            (s.src.grp = some n → answers (.ctxs d gr a g) 5 ∧ answers (.ctxsResume d gr a g) 5) ∧
            (s.src.grp ≠ some n →
              (x.state = .saving ∨ x.state = .saved ∨ x.again ≠ none → answers (.ctxs d gr a g) 2) ∧
              (x.state = .running ∨ x.state = .resuming → x.again = none →
                (small (recSaveSize x.record) → answers (.ctxs d gr a g) 4) ∧
                (¬small (recSaveSize x.record) → ∃ t y, exec (.ctxs d gr a g) s = past t ∧ t.group pkg n = some y ∧
                  y.threads = x.threads ∧ y.record = x.record ∧ t.me.busy.getLsbD d.val = true ∧
                  (∃ k, t.item k = some (.status s.cur d.val 0)) ∧
                  (x.state = .running → y.state = .saving ∧ y.issuer = some s.cur ∧ ∀ u ∈ x.threads, (t.th u).held = true) ∧
                  (x.state = .resuming → y.state = .resuming ∧ y.again = some (s.areaAt pod va, s.cur) ∧ t.mem = s.mem))) ∧
              (x.state ≠ .saving → x.state ≠ .saved → answers (.ctxsResume d gr a g) 3) ∧
              (∀ k, s.far (s.readX a) 64 { rd := true, w := true } 64 accLoad = .ok k → s.poisoned k 16 = false →
                (x.state = .saved → s.load (k + 3) 1 ≠ 2 → answers (.ctxsResume d gr a g) 3) ∧
                (x.state = .saving ∨ (x.state = .saved ∧ s.load (k + 3) 1 = 2) →
                  (small (s.load (k + 8) 8) → answers (.ctxsResume d gr a g) 4) ∧
                  (¬small (s.load (k + 8) 8) → ∃ t y, exec (.ctxsResume d gr a g) s = past t ∧ n ∈ (t.pkg pkg).resumes ∧
                    t.group pkg n = some y ∧ y.resumers = x.resumers ++ [s.cur] ∧
                    (∀ v, x.saved = some v → ∃ v', y.saved = some v' ∧
                      v'.named = some (v.named.getD (s.areaAt pod va))) ∧
                    t.mem = s.mem ∧ t.me.busy.getLsbD d.val = true ∧ ∃ k, t.item k = some (.status s.cur d.val 0)))))))))) ∧
  (∀ (s : State) (pkg g : Nat) (x : Group), s.group pkg g = some x →
    (x.state ≠ .saving → exec (.preemption pkg g) s = .next s) ∧
    (∀ v, x.state = .saving → x.saved = some v →
      ((∃ t ∈ x.threads, s.quiet t = false) ∨ s.copying pkg g = true ∨ s.areaPages v.area (recSaveSize x.record) = none →
        exec (.preemption pkg g) s = .next s) ∧
      (∀ pages, x.threads ≠ [] → (∀ t ∈ x.threads, s.quiet t = true) → s.copying pkg g = false →
        s.areaPages v.area (recSaveSize x.record) = some pages →
        ∃ t y, exec (.preemption pkg g) s = .next t ∧ t.group pkg g = some y ∧ y.state = .saved ∧ y.record = x.record ∧
          (t.pkg pkg).bellows.free = (s.pkg pkg).bellows.free + x.grant * 256)) ∧
    (x.state ≠ .resuming → exec (.groupResume pkg g) s = .next s) ∧
    (∀ v, x.state = .resuming → x.saved = some v →
      let size := recSaveSize x.record
      (s.areaPages v.area size = none → exec (.groupResume pkg g) s = .next s) ∧
      (∀ pages, s.areaPages v.area size = some pages →
        let a : Area := { v.area with pages := pages.map (·.2) }
        let bad := (a.span 0 size).any fun r => s.poisoned r.1 r.2
        (bad = true → ∃ t y, exec (.groupResume pkg g) s = .next t ∧ t.group pkg g = some y ∧ y.faulted = true ∧
          (t.pkg pkg).bellows.free = (s.pkg pkg).bellows.free + x.grant * 256) ∧
        (bad = false → (∃ p ∈ x.lsOff.zipIdx, s.roomFor { v with area := a } p.2 p.1.1 = false) →
          exec (.groupResume pkg g) s = .next s) ∧
        (bad = false → (∀ p ∈ x.lsOff.zipIdx, s.roomFor { v with area := a } p.2 p.1.1 = true) → x.again = none →
          ∃ t y, exec (.groupResume pkg g) s = .next t ∧ t.group pkg g = some y ∧ y.state = .running ∧ y.saved = none ∧
            y.resumers = [] ∧ y.threads = x.threads ∧ y.record = x.record ∧
            ∀ u ∈ x.threads, (t.th u).slot = .runnable ∨ (t.th u).slot = .parked)))) ∧
  (∀ (s : State) (pkg g : Nat), s.group pkg g = none →
    exec (.preemption pkg g) s = .next s ∧ exec (.groupResume pkg g) s = .next s) ∧
  (∀ (s : State) (a : Area) (g : Nat) (r : List Word), a.va % 64 = 0 → a.key 0 + 64 ≤ 2 ^ 50 → g < 2 ^ 16 → s.poison = [] →
    s.locks = [] → s.deferred = [] →
    (s.finalHeader a g r).load (a.key 0) 8 = headerWord g r 2 ∧
      (s.finalHeader a g r).load (a.key 8) 8 = recSaveSize r % 2 ^ 64) ∧
  (∀ (s : State) (a : Area) (r : List Word) (base tid : Nat),
    let rank := (s.th tid).rank
    rank < recThreads r → a.va % 64 = 0 → a.pages.getD 0 0 + 2 ^ 16 ≤ 2 ^ 50 → s.poison = [] →
    a.va % 2 ^ 16 + (128 + 2048 * recThreads r + recImage r * (rank + 1)) ≤ 2 ^ 16 →
    ∀ i, i < 256 → (s.saveThread a r base tid).load (a.key (128 + 2048 * rank + 8 * i)) 8 = (s.recordWord tid i).toNat) ∧
  ∀ (s : State) (a : Area) (changed : List (Nat × Nat)) (tid : Nat), a.va % 64 = 0 →
    let x := s.th tid
    let o := 128 + 2048 * x.rank
    let t := s.fillThread a changed tid
    (t.th tid).pc = BitVec.ofNat 64 (s.load (a.key o) 8 / 8 * 8) ∧ (∀ u, u ≠ tid → t.th u = s.th u) ∧
      ∀ i, i < 32 →
        ((x.rank, i) ∉ changed → (t.th tid).reg i = BitVec.ofNat 64 (s.load (a.key (o + 0x10 + 8 * i)) 8) ∧
          (t.th tid).present.getLsbD i = (s.load (a.key (o + 8)) 8).testBit (32 + i)) ∧
        ((x.rank, i) ∈ changed → (t.th tid).reg i = x.reg i ∧ (t.th tid).present.getLsbD i = x.present.getLsbD i)

/-- With ready operands LAUNCH answers 3 for a queue of another tenant, 2 for a disabled one, 1 for a full one, and
otherwise 0, with the record committed under the thread's tenant. A write of the last word of QREC commits the record,
or counts it lost. The dispatcher ranks by class, then deadline, then resumes before heads, then number: its list is a
permutation, in that order where the deadlines lie within half the range; it starts the first contender that passes
its gates (a head whose SEGTAB or a resume whose area no longer translates waits: notes/assumptions/20.md), takes its
grant from FREE; each that fails the ember gate reserves, and behind a reservation only those without a grant start. A
launched thread begins at PC, in user mode, with its rank and group. A slot becomes VACANT once its ended thread has
nothing under way; a group retires once its threads have left and nothing of it is under way, and returns its grant;
firmware starts a thread in a VACANT slot alone, of a group of its own, or of none in slot 15 (R97, R189, R190, R191,
R192, R193, R194, R196, R198, R303, R346, R6). -/
def Obligations.Launching : Prop :=
  (∀ (s : State) (d a q : XReg), s.Ready [xplace a, xplace q] [xplace d] → s.Open →
    let na := (s.readX a).toNat
    let pkg := pkgOf s.cid
    let n := Fld (s.readX q) 13 0
    let x := (s.pkg pkg).queue n
    let tenant := s.src.tenant
    (Fld (s.readX q) 63 14 ≠ 0 → exec (.launch d a q) s = .next (s.halted (.trap 0x01 s.iss.word))) ∧
    (Fld (s.readX q) 63 14 = 0 → na + 128 ≤ 0x30000 → na % 8 = 0 →
      (∀ st, s.plainWords na (keyLocal s.cid na) 16 = .error st → exec (.launch d a q) s = .next (s.halted st)) ∧
      ∀ ws, s.plainWords na (keyLocal s.cid na) 16 = .ok ws →
        let st := if Fld x.qcfg 7 0 ≠ tenant then 3 else if x.qcfg.getLsbD 8 = false then 2 else if 64 ≤ x.recs.length then 1 else 0
        ∃ t, exec (.launch d a q) s = past t ∧ t.mem = s.mem ∧ t.me.busy.getLsbD d.val = true ∧
          (∃ k, t.item k = some (.status s.cur d.val (BitVec.ofNat 64 st))) ∧
          (st ≠ 0 → t.pkgs = s.pkgs) ∧
          (st = 0 → ((t.pkg pkg).queue n).recs = x.recs ++ [(withTenant ws tenant, s.time.toNat)]))) ∧
  (∀ (r : List Word) (tenant : Nat), r.length = 16 → tenant < 256 →
    let u := withTenant r tenant
    u.length = 16 ∧ recTenant u = tenant ∧ Fld (u.getD 3 0) 55 0 = Fld (r.getD 3 0) 55 0 ∧
      ∀ i, i ≠ 3 → u.getD i 0 = r.getD i 0) ∧
  (∀ (s : State) (pkg q : Nat) (v : Word), (s.pkg pkg).service.secmode ≠ 3 →
    let x := (s.pkg pkg).queue q
    (16384 ≤ q → exec (.qrecCommit pkg q v) s = .next (s.wakePkg pkg)) ∧
    (q < 16384 → ∃ t, exec (.qrecCommit pkg q v) s = .next t ∧ t.mem = s.mem ∧ t.threads = s.threads ∧
      (t.pkg pkg).around.pscur = 0 ∧
      let y := (t.pkg pkg).queue q
      (x.recs.length < 64 → x.qcfg.getLsbD 8 = true →
        y.recs = x.recs ++ [((List.range 15).map (fun i => lookup 0 x.qrec i) ++ [v], s.time.toNat)] ∧ y.lost = x.lost) ∧
      (64 ≤ x.recs.length ∨ x.qcfg.getLsbD 8 = false → y.recs = x.recs ∧ y.lost = min (x.lost + 1) 0xFFFF))) ∧
  (∀ a b : Ranked, a.before b = true ↔ b.cls < a.cls ∨ (a.cls = b.cls ∧ (
    (a.deadline ≠ b.deadline ∧ 2 ^ 47 ≤ (a.deadline + 2 ^ 48 - b.deadline % 2 ^ 48) % 2 ^ 48) ∨
    (a.deadline = b.deadline ∧ ((a.head = false ∧ b.head = true) ∨ (a.head = b.head ∧ a.num < b.num)))))) ∧
  (∀ l : List Ranked, (ranked l).Perm l ∧
    ∀ d0, (∀ x ∈ l, x.deadline < 2 ^ 48 ∧ (x.deadline + 2 ^ 48 - d0 % 2 ^ 48) % 2 ^ 48 < 2 ^ 47) →
      (ranked l).Pairwise fun a b => b.before a = false) ∧
  (∀ (s : State) (pkg : Nat),
    ((s.pkg pkg).resumes = [] → (∀ p ∈ (s.pkg pkg).queues, p.2.recs = []) → exec (.dispatcherRanking pkg) s = .next s) ∧
    ((s.refuseAll pkg).dropResumes pkg = s → ∀ c rest, ranked (s.contenders pkg) = c :: rest →
      (∀ t, c.grant * 256 ≤ (s.pkg pkg).bellows.free → s.tryStart pkg c = some t → exec (.dispatcherRanking pkg) s = .next t) ∧
      ((s.pkg pkg).bellows.free < c.grant * 256 →
        exec (.dispatcherRanking pkg) s = .next ((s.reserve pkg c).visit pkg true rest)) ∧
      (c.grant * 256 ≤ (s.pkg pkg).bellows.free → s.tryStart pkg c = none →
        exec (.dispatcherRanking pkg) s = .next (s.visit pkg (s.reserves pkg c) rest)))) ∧
  (∀ (s : State) (pkg : Nat) (l : List Ranked), (∀ x ∈ l, x.grant ≠ 0) →
    let t := s.visit pkg true l
    t.threads = s.threads ∧ t.mem = s.mem ∧ (t.pkg pkg).bellows = (s.pkg pkg).bellows ∧
    ∀ x ∈ l, x.head = true → (s.pkg pkg).bellows.free < x.grant * 256 → t.reserves pkg x = true) ∧
  (∀ (s t : State) (pkg : Nat) (reserved : Bool) (c : Ranked) (rest : List Ranked), c.grant = 0 → s.tryStart pkg c = some t →
    s.visit pkg reserved (c :: rest) = t) ∧
  (∀ (s : State) (pkg q : Nat) (x : Queue) (r : List Word) (arrival g : Nat) (segs : List (Word × Word))
      (pl : List (Nat × Nat) × Nat),
    let t := s.startGroup pkg q x r arrival g segs pl
    let tid (k : Nat) : Nat := s.rankSlot pl.1 (recTpc r) k
    (t.pkg pkg).bellows.free = (s.pkg pkg).bellows.free - recGrant r * 256 ∧ ((t.pkg pkg).queue q).recs = x.recs.drop 1 ∧
    (∃ y, t.group pkg g = some y ∧ y.record = r ∧ y.grant = recGrant r ∧ y.state = .running ∧ y.launched = true ∧
      y.threads = (List.range (recThreads r)).map tid) ∧
    ∀ k, k < recThreads r → (∀ j, j < recThreads r → j ≠ k → tid j ≠ tid k) →
      let u := t.th (tid k)
      u.slot = .runnable ∧ u.pc = BitVec.ofNat 64 ((recWord r 0).toNat / 8 * 8) ∧ u.sup = false ∧ u.det = recDet r ∧ u.rank = k ∧
        u.grp = some g ∧ u.tenant = recTenant r ∧ (∀ i, u.reg i = 0) ∧ (∀ i, i < 7 → u.seg i = segs.getD i (0, 0))) ∧
  (∀ (s : State) (tid : Nat),
    let t := s.th tid
    let stays : Prop := t.exited = false ∨ t.slot = .saved ∨ t.slot = .vacant ∨ s.keepsSlot tid = true ∨ s.bequeaths t = true
    (stays → exec (.slotVacate tid) s = .next s) ∧
    (¬stays → ∃ u, exec (.slotVacate tid) s = .next u ∧ u.th tid = {} ∧ (u.th tid).slot = .vacant)) ∧
  (∀ (s : State) (pkg g : Nat), (s.group pkg g = none → exec (.groupRetirement pkg g) s = .next s) ∧
    ∀ x, s.group pkg g = some x →
      (x.threads ≠ [] ∨ s.groupBusy pkg g = true → exec (.groupRetirement pkg g) s = .next s) ∧
      (x.threads = [] → s.groupBusy pkg g = false → ∃ t, exec (.groupRetirement pkg g) s = .next t ∧ t.group pkg g = none ∧
        (t.pkg pkg).bellows.free = (s.pkg pkg).bellows.free + x.grant * 256 ∧
        (recDet x.record = false → t.threads = s.threads))) ∧
  (∀ (s : State) (pkg ctr : Nat) (v : BitVec 32), (s.pkg pkg).service.secmode ≠ 3 →
    (4096 ≤ ctr → exec (.completionCounterWrite pkg ctr v) s = .next (s.wakePkg pkg)) ∧
    (ctr < 4096 → ∃ t, exec (.completionCounterWrite pkg ctr v) s = .next t ∧ t.mem = s.mem ∧ t.threads = s.threads ∧
      lookup 0 (t.pkg pkg).counters ctr = v ∧ ∀ c, c ≠ ctr → lookup 0 (t.pkg pkg).counters c = lookup 0 (s.pkg pkg).counters c)) ∧
  ∀ (s : State) (f : FwStart),
    let x := (s.group (pkgOf (cidOf f.tid)) f.grp).getD (fwGroup f.tenant)
    let may : Prop := coreExists (cidOf f.tid) = true ∧ (s.th f.tid).slot = .vacant ∧ (slotOf f.tid = 15 ↔ f.grp = 0) ∧
      f.grp < 2 ^ 16 ∧ x.launched = false ∧ x.threads.length < 4096
    (¬may → exec (.firmwareThreadStart f) s = .next s) ∧
    (may → ∃ t, exec (.firmwareThreadStart f) s = .next t ∧ t.mem = s.mem ∧ (t.th f.tid).slot = .runnable ∧
      (t.th f.tid).pc = BitVec.ofNat 64 (f.pc.toNat / 8 * 8) ∧ (t.th f.tid).tenant = f.tenant % 256 ∧ (t.th f.tid).sup = f.sup ∧
      (t.th f.tid).sys.tvec = BitVec.ofNat 64 (f.tvec.toNat / 8 * 8) ∧
      (f.grp ≠ 0 → ∃ y, t.group (pkgOf (cidOf f.tid)) f.grp = some y ∧ y.threads = x.threads ++ [f.tid] ∧
        (t.th f.tid).grp = some f.grp) ∧
      (f.grp = 0 → (t.th f.tid).grp = none) ∧ ∀ u, u ≠ f.tid → t.th u = s.th u)

/-- A host access through an enabled window with its right reads or writes its bytes and wakes the package; any other
counts in MBERR and changes no byte; a read answers its data with EP where a word is poisoned, or Completer Abort; one
whose fabric port has no link is kept until that returns, and where the port has failed a write is discarded and a
read answers EP (notes/assumptions/12.md); through BAR0 an aligned 8-byte access reads or writes a register, and
another is discarded or Unsupported. A retransmitted flit changes nothing; a port that loses its link is down until it
is restored, and once FTMO microseconds have passed it keeps no packet any more and reports that once. The input is
low while it lies 4 V below the prediction: the alarm, where none stands and after 1 ms of it, sets ALARM and CEIL 0
and reports, and is cleared after 100 ms of normal input; a monitor report stores its word and the supply, and caps
the hearth above THOT until it is 5 degrees below; an idle package (hob and flue threads PARKED) enters the deepest
state that LATTOL tolerates. Device reset empties the package but its far memory and checks the image: RECOVERY with
every MR 0, or BOOT with the image in MR0; each measurement extends one MR; entering SERVICE clears TRCTL.EMIT. A
report holds identity, measurements, nonce, version and mode, then its signature. What counts as idle, the mode in
RECOVERY and the layout of the report are of notes/assumptions/23.md, the fused key hash and version are free (9.md)
(R157, R378, R382, R383, R386, R387, R389, R390, R391, R392, R393, R394). -/
def Obligations.HostFabricAndPower : Prop :=
  (∀ (s : State) (pkg win off n : Nat) (bytes : List (BitVec 8)),
    let s' := s.wakePkg pkg
    let a := (s.pkg pkg).around
    let wa := lookup 0 a.mbwa win
    (s'.pkg pkg).around.pscur = 0 ∧
    (64 ≤ win ∨ wa.getLsbD 0 = false ∨ wa.getLsbD 52 = false ∨ 2 ^ 30 < off + bytes.length →
      s'.windowRuns pkg win off bytes.length true = none) ∧
    (64 ≤ win ∨ wa.getLsbD 0 = false ∨ wa.getLsbD 51 = false ∨ 2 ^ 30 < off + n → s'.windowRuns pkg win off n false = none) ∧
    (s'.windowRuns pkg win off bytes.length true = none → ∃ t, exec (.hostWrite pkg (some win) off bytes) s = .next t ∧
      t.mem = s.mem ∧ (t.pkg pkg).around.mberr = min (a.mberr + 1) (2 ^ 32 - 1)) ∧
    (∀ k, s'.windowRuns pkg win off bytes.length true = some [(k, bytes.length)] → s.poison = [] → s.locks = [] → s.deferred = [] →
      k + bytes.length ≤ 2 ^ 50 → s.awaitsLink (pkg * 8192) k = false →
      ∃ t, exec (.hostWrite pkg (some win) off bytes) s = .next t ∧ t.threads = s.threads ∧
      (s.lost (pkg * 8192) k = true → t.mem = s.mem) ∧ (s.lost (pkg * 8192) k = false →
      (∀ i, i < bytes.length → readByte t.mem (k + i) = bytes.getD i 0) ∧
      ∀ x, x < k ∨ k + bytes.length ≤ x → readByte t.mem x = readByte s.mem x)) ∧
    (∀ runs, s'.windowRuns pkg win off bytes.length true = some runs → (∃ r ∈ runs, s.awaitsLink (pkg * 8192) r.1 = true) →
      exec (.hostWrite pkg (some win) off bytes) s =
        .next (s'.updAround pkg fun a => { a with held := a.held ++ [⟨win, off, bytes.length, some bytes⟩] })) ∧
    (∀ runs, s'.windowRuns pkg win off n false = some runs → (∃ r ∈ runs, s.awaitsLink (pkg * 8192) r.1 = true) →
      exec (.hostRead pkg (some win) off n) s =
        .next (s'.updAround pkg fun a => { a with held := a.held ++ [⟨win, off, n, none⟩] })) ∧
    (s'.windowRuns pkg win off n false = none → ∃ t, exec (.hostRead pkg (some win) off n) s = .next t ∧ t.mem = s.mem ∧
      (t.pkg pkg).answers = (s.pkg pkg).answers ++ [.abort] ∧ (t.pkg pkg).around.mberr = min (a.mberr + 1) (2 ^ 32 - 1)) ∧
    (∀ runs, s'.windowRuns pkg win off n false = some runs → (∀ r ∈ runs, s.awaitsLink (pkg * 8192) r.1 = false) →
      ∃ t, exec (.hostRead pkg (some win) off n) s = .next t ∧ t.mem = s.mem ∧ (t.pkg pkg).around.mberr = a.mberr ∧
      ((∀ r ∈ runs, s.lost (pkg * 8192) r.1 = false) → (t.pkg pkg).answers = (s.pkg pkg).answers ++
        [.data (s.bytesAt runs) (runs.any fun r => s.poisoned r.1 r.2)]) ∧
      ((∃ r ∈ runs, s.lost (pkg * 8192) r.1 = true) → ∃ any, any.length = n ∧
        (t.pkg pkg).answers = (s.pkg pkg).answers ++ [.data any true])) ∧
    (bytes.length = 8 ∧ off % 8 = 0 ∧ off < 2 ^ 26 →
      exec (.hostWrite pkg none off bytes) s = .next (s'.regWrite pkg off (BitVec.ofNat 64 (ofBytes bytes)))) ∧
    (¬(bytes.length = 8 ∧ off % 8 = 0 ∧ off < 2 ^ 26) → exec (.hostWrite pkg none off bytes) s = .next s') ∧
    ∃ t, exec (.hostRead pkg none off n) s = .next t ∧ t.mem = s.mem ∧ (t.pkg pkg).answers = (s.pkg pkg).answers ++
      [if n = 8 ∧ off % 8 = 0 ∧ off < 2 ^ 26 then .data (toBytes 8 (s'.regRead pkg off).toNat) false else .unsupported]) ∧
  (∀ (s : State) (pkg port : Nat),
    let a := (s.pkg pkg).around
    let overdue : Prop := port % 8 ∈ a.down ∧ port % 8 ∉ a.failed ∧ a.ftmo.toNat * 1000 ≤ (s.time.toNat + 2 ^ 48 - lookup 0 a.downAt (port % 8)) % 2 ^ 48
    exec (.flitRetransmit pkg port) s = .next s ∧
    (∃ t, exec (.linkLoss pkg port) s = .next t ∧ t.mem = s.mem ∧ t.flight = s.flight ∧
      (∀ x, x ∈ (t.pkg pkg).around.down ↔ x ∈ a.down ∨ x = port % 8) ∧
      (port % 8 ∉ a.down → lookup 0 (t.pkg pkg).around.downAt (port % 8) = s.time.toNat)) ∧
    (∃ u : State, exec (.linkRestore pkg port) s = .next (u.pkgs.foldl (fun v p => v.retryHost p.1) u) ∧ u.mem = s.mem ∧
      (∀ q, (u.pkg q).around.held = (s.pkg q).around.held) ∧
      ∀ x, (x ∈ (u.pkg pkg).around.down ↔ x ∈ a.down ∧ x ≠ port % 8) ∧
        (x ∈ (u.pkg pkg).around.failed ↔ x ∈ a.failed ∧ x ≠ port % 8)) ∧
    (¬overdue → exec (.ftmoExpiry pkg port) s = .next s) ∧
    (overdue → ∃ u : State, exec (.ftmoExpiry pkg port) s = .next ((u.retryHost pkg).serviceMsg pkg 3 0x51 (port % 8)) ∧
      u.time = s.time ∧ (u.pkg pkg).around.down = a.down ∧ (u.pkg pkg).around.held = a.held ∧
      (∀ x, x ∈ (u.pkg pkg).around.failed ↔ x ∈ a.failed ∨ x = port % 8) ∧
      ∀ (d : Nat) (p : Packet), p ∈ (u.die d).packets → u.keptAt p d pkg (port % 8) = false) ∧
    s.retryHost pkg = a.held.foldl (fun v x => v.hostAccess pkg x)
      (if a.held = [] then s else s.updAround pkg fun a => { a with held := [] }) ∧
    ∀ kind code w, ∃ n m, (s.serviceMsg pkg kind code w).item n = some (.hardware kind m) ∧ m.dst = (pkg * 8192 + 67) * 16 ∧
      m.words = [BitVec.ofNat 64 (code * 2 ^ 56 + s.time.toNat), BitVec.ofNat 64 w]) ∧
  (∀ (s : State) (pkg hearth : Nat) (pred vin temp mv : BitVec 16) (x : Readings),
    let a := (s.pkg pkg).around
    let held := (s.time.toNat + 2 ^ 48 - a.inputAt) % 2 ^ 48
    let alarms : Prop := a.alarm = false ∧ a.low = true ∧ vin.toNat + 400 < pred.toNat ∧ 1000000 ≤ held
    (¬alarms → exec (.crackedConnectionAlarm pkg pred vin) s = .next s) ∧
    (alarms → ∃ t n m, exec (.crackedConnectionAlarm pkg pred vin) s = .next t ∧ (t.pkg pkg).around.alarm = true ∧
      (t.pkg pkg).around.pscur = 0 ∧ (t.pkg pkg).bellows.ceil = 0 ∧ (t.pkg pkg).bellows.ctlCeil = 0 ∧ t.mem = s.mem ∧
      t.threads = s.threads ∧ t.item n = some (.hardware 4 m) ∧ m.dst = (pkg * 8192 + 67) * 16 ∧
      m.words = [BitVec.ofNat 64 (0x52 * 2 ^ 56 + s.time.toNat), BitVec.ofNat 64 (pred.toNat * 2 ^ 16 + vin.toNat)]) ∧
    ((s.pkg pkg).service.secmode ≠ 3 → ∃ t, exec (.pwralmAlarmClear pkg) s = .next t ∧ t.mem = s.mem ∧
      (t.pkg pkg).around.alarm = (a.alarm && !(!a.low && decide (100000000 ≤ held)))) ∧
    (1088 ≤ hearth → exec (.monitorReport pkg hearth temp mv x) s = .next s) ∧
    (hearth < 1088 → ∃ t, exec (.monitorReport pkg hearth temp mv x) s = .next t ∧ t.mem = s.mem ∧ t.threads = s.threads ∧
      lookup 0 (t.pkg pkg).around.mon hearth = BitVec.ofNat 64 (temp.toNat + mv.toNat * 2 ^ 32 + x.osc.toNat * 2 ^ 48) ∧
      (t.pkg pkg).around.pin = BitVec.ofNat 64 (x.vin.toNat + x.current.toNat * 2 ^ 16 + x.power.toNat * 2 ^ 32) ∧
      (t.pkg pkg).around.low = decide (x.vin.toNat + 400 < x.pred.toNat) ∧
      (t.pkg pkg).around.inputAt = (if (t.pkg pkg).around.low = a.low then a.inputAt else s.time.toNat) ∧
      (t.pkg pkg).around.coolAt = (if Fld a.pin 47 32 < 2090 ∧ x.power.toNat < 2090 then a.coolAt else s.time.toNat) ∧
      ∀ h, h ∈ (t.pkg pkg).around.capped ↔
        (h ≠ pkg * 1088 + hearth ∧ h ∈ a.capped) ∨
        (h = pkg * 1088 + hearth ∧ ((a.thot.toNat : Int) < temp.toInt ∨
          (h ∈ a.capped ∧ (a.thot.toNat : Int) - 80 < temp.toInt)))) ∧
    (s.idlePkg pkg = true → ∃ t, exec (.powerStateEntry pkg) s = .next t ∧ t.threads = s.threads ∧ t.mem = s.mem ∧
      (t.pkg pkg).around.pscur =
        (if 2000000 ≤ a.lattol.toNat then 3 else if 50000 ≤ a.lattol.toNat then 2 else if 2000 ≤ a.lattol.toNat then 1 else 0)) ∧
    (s.idlePkg pkg = false → exec (.powerStateEntry pkg) s = .next s) ∧
    ∃ t, exec (.powerStateWake pkg) s = .next t ∧ (t.pkg pkg).around.pscur = 0 ∧ t.threads = s.threads ∧ t.mem = s.mem) ∧
  (∀ (s : State) (pkg : Nat) (f : Firmware) (image : List (BitVec 8)), ∃ t, exec (.deviceReset pkg (.rom f) image) s = .next t ∧
      (bootOk pkg f image = false → (t.pkg pkg).service.secmode = 3 ∧ ∀ i, lookup 0 (t.pkg pkg).service.mr i = 0) ∧
      (bootOk pkg f image = true → (t.pkg pkg).service.secmode = 0 ∧
        (∀ i, i < 8 → lookup 0 (t.pkg pkg).service.mr i =
          (wordsOf 8 (sha3 (List.replicate 64 0 ++ sha3 image))).getD i 0) ∧
        ∀ i, 8 ≤ i → lookup 0 (t.pkg pkg).service.mr i = 0) ∧
      (t.pkg pkg).service.version = f.version.toNat ∧
      (t.pkg pkg).bellows.ceil = 7 ∧ (t.pkg pkg).groups = [] ∧ t.time = s.time ∧
      (∀ tid, pkgOf (cidOf tid) = pkg → t.th tid = {}) ∧ (∀ tid, pkgOf (cidOf tid) ≠ pkg → t.th tid = s.th tid) ∧
      (∀ p, p ≠ pkg → t.pkg p = s.pkg p) ∧
      (∀ k, k < 2 ^ 50 → readByte t.mem k = readByte s.mem k) ∧
      ∀ k, 2 ^ 50 ≤ k → k < 2 ^ 53 → homeOf k / 4 = pkg → readByte t.mem k = 0) ∧
  (∀ (s : State) (pkg : Nat) (k : Fin 8) (digest : List (BitVec 8)),
    let v := (s.pkg pkg).service
    (v.secmode = 3 → exec (.deviceReset pkg (.measure k) digest) s = .next s) ∧
    (v.secmode ≠ 3 → ∃ t, exec (.deviceReset pkg (.measure k) digest) s = .next t ∧ t.mem = s.mem ∧ t.threads = s.threads ∧
      (∀ i, i < 8 → lookup 0 (t.pkg pkg).service.mr (8 * k.val + i) =
        (wordsOf 8 (sha3 (((List.range 8).map fun j => toBytes 8 (lookup 0 v.mr (8 * k.val + j)).toNat).flatten ++ digest))).getD i 0) ∧
      ∀ i, i / 8 ≠ k.val → lookup 0 (t.pkg pkg).service.mr i = lookup 0 v.mr i) ∧
    (v.secmode ≠ 0 → exec (.deviceReset pkg .service digest) s = .next s) ∧
    (v.secmode = 0 → ∃ t, exec (.deviceReset pkg .service digest) s = .next t ∧ t.mem = s.mem ∧ t.threads = s.threads ∧
      (t.pkg pkg).service = { v with secmode := 1, trctl := v.trctl &&& 6 })) ∧
  ∀ (s : State) (pkg : Nat),
    let v := (s.pkg pkg).service
    let word (t : State) (o : Nat) : Nat :=
      ofBytes ((List.range 8).map fun b => lookup 0 (t.pkg pkg).service.attrep (o + b))
    (∃ t, exec (.attestationStart pkg) s = .next t ∧ (t.pkg pkg).service = { v with attbusy := true } ∧ t.mem = s.mem ∧
      t.threads = s.threads) ∧
    (v.attbusy = false → exec (.attestationComplete pkg) s = .next s) ∧
    (v.attbusy = true → ∃ t, exec (.attestationComplete pkg) s = .next t ∧ (t.pkg pkg).service.attbusy = false ∧ t.mem = s.mem ∧
      (t.pkg pkg).service.mr = v.mr ∧
      (∀ i, i < 64 → lookup 0 (t.pkg pkg).service.attrep i = Config.identityHash pkg i) ∧
      (∀ i, i < 64 → word t (64 + 8 * i) = (lookup 0 v.mr i).toNat) ∧
      (∀ i, i < 8 → word t (576 + 8 * i) = (lookup 0 v.nonce i).toNat) ∧
      word t 640 = v.version % 2 ^ 64 ∧ word t 648 = v.secmode % 2 ^ 64 ∧
      ∀ i, i < 4627 → lookup 0 (t.pkg pkg).service.attrep (656 + i) = Config.signature pkg (v.report pkg) i)

/-- A register write wakes the package; a misaligned one is discarded; in RECOVERY only the security block and TRCTL
accept writes; a register reads back what was written but for its reserved fields, and QSTC, where one was written,
makes its ring malformed, as log 18 reads R198; the capability list does not change; a write that frees two words of
the trace ring after drops writes the LOST record. LATECNT clears and the routing table is written at offsets of the
model's own (notes/assumptions/12.md). TRCTL.EMIT is writable in TEST, BOOT and RECOVERY but not in SERVICE, the other
bits not in RECOVERY. Outside RECOVERY the Mirmor operations stand in MCMD: STOP makes a RUNNABLE or PARKED thread
STOPPED, with a STOP record where TRCTL asks for one, but one whose rotation is held back only as that ends, RESUME
and STEP start a STOPPED one again, and MSTAT tells DONE, NO-THREAD or STATE; HALT stops every thread of the package
and RELEASE resumes those; BRKSTOP adds or removes a group; the record of a STOPPED thread that MCMD names can be
written word by word (notes/assumptions/21.md) (R378, R379, R190, R198, R382, R386, R390, R391, R392, R395, R396,
R397). -/
def Obligations.RegistersAndMirmor : Prop :=
  (∀ (s : State) (pkg off : Nat) (v : Word),
    let old := (s.pkg pkg).service
    (off % 8 ≠ 0 → exec (.registerWrite pkg off v) s = .next (s.wakePkg pkg)) ∧
    (old.secmode = 3 → off ≠ 0x60020 → off < 0x80000 ∨ 0x90000 ≤ off →
      exec (.registerWrite pkg off v) s = .next (s.wakePkg pkg)) ∧
    (0x100 ≤ off → off < 0x220 → exec (.registerWrite pkg off v) s = .next (s.wakePkg pkg)) ∧
    (off % 8 = 0 → old.secmode ≠ 3 → ∃ t, exec (.registerWrite pkg off v) s = .next t ∧ (t.pkg pkg).around.pscur = 0 ∧
      (∀ p ∈ ([(0x20000, 0xFFFFFFFFFFFFFFFF), (0x20008, 0xFFFFFFFFFFFFFFFF), (0x20030, 0xFFFFFFFF), (0x30400, 0xFFFFFFFF),
          (0x40000, 0xFFFFFFFFFFFF), (0x40020, 0xFFFF), (0x50000, 0xFFFFFFFFFFFFFFFF), (0x60000, 0xC0000001C7FFFFFF),
          (0x60008, 0xFFFFFFFFFFFFFFFF), (0x60010, 0xFFFFFFFFFFFFFFFF)] : List (Nat × Word)),
        off = p.1 → t.regRead pkg off = v &&& p.2 ∧ (old.trdrop = 0 → t.mem = s.mem ∧ t.threads = s.threads)) ∧
      (∀ n, n < 64 → off = 0x30000 + 16 * n → t.regRead pkg off = v &&& 0xFF98000000000001) ∧
      (∀ n, n < 64 → off = 0x30008 + 16 * n → t.regRead pkg off = v &&& 0xFFFFFFFFF0000) ∧
      (∀ n, n < 4 → off = 0x60040 + 8 * n → t.regRead pkg off = v &&& 0x1FFFFFFFF) ∧
      (0x10000 ≤ off → off < 0x14000 → t.regRead pkg off = v) ∧
      (∀ k n, off = 0x60010 → old.ring pkg = some (k, n) → 0 < old.trdrop → 2 ≤ ({ old with trhead := v } : Service).free n →
        (t.pkg pkg).service.trdrop = 0) ∧
      (∀ d, d < 4 → off = ownBase + 2 ^ 16 * d → t.regRead pkg off = 0 ∧ (t.die (pkg * 4 + d)).latecnt = 0) ∧
      (∀ k, k < 256 → off = ownBase + 2 ^ 21 + 8 * k → t.regRead pkg off = v &&& 7 ∧ t.fabricPort pkg k = (v &&& 7).toNat) ∧
      (∀ q, q < 16384 →
        (off = 0x400000 + 256 * q → t.regRead pkg off = v &&& 0xFFFFFFFFFFFF01FF) ∧
        (off = 0x400010 + 256 * q → t.regRead pkg off = v &&& 0xFFFFFFFFFFFFFFC0) ∧
        (off = 0x400018 + 256 * q → t.regRead pkg off = v &&& 0x0000FFFF0000FFFF ∧
          (v ≠ v &&& 0x0000FFFF0000FFFF → ((t.pkg pkg).queue q).ringOk = false)) ∧
        (off = 0x400028 + 256 * q → t.regRead pkg off = v &&& 0xFFFF)))) ∧
  (∀ (s : State) (pkg : Nat) (v : Word), ∃ t, exec (.trctlWrite pkg v) s = .next t ∧ t.mem = s.mem ∧ t.threads = s.threads ∧
    let old := (s.pkg pkg).service.trctl
    (t.pkg pkg).service.trctl = match (s.pkg pkg).service.secmode with
      | 1 => (v &&& 6) ||| (old &&& 1)
      | 3 => (old &&& 6) ||| (v &&& 1)
      | _ => v &&& 7) ∧
  (∀ (s : State) (tid : Nat), tid < 2 ^ 25 →
    let t := s.th tid
    let pkg := pkgOf (cidOf tid)
    let awake := s.wakePkg pkg
    let named (op : Nat) : State :=
      awake.updService pkg fun v => { v with mcmd := BitVec.ofNat 64 (op * 2 ^ 56 + tid % 2 ^ 17) }
    let shows (i : Instr) (u : State) (st : Nat) : Prop := exec i s = .next (State.mresult (u, st) pkg)
    let again : SlotState := if t.park = .none then .runnable else .parked
    ((s.pkg pkg).service.secmode = 3 →
      ∀ i ∈ [Instr.mirmorStop tid, .mirmorResume tid, .mirmorStep tid, .mirmorHalt pkg, .mirmorRelease pkg], exec i s = .next awake) ∧
    ((s.pkg pkg).service.secmode ≠ 3 → t.stopping = true → shows (.mirmorResume tid) ((named 2).updTh tid fun t => { t with stopping := false }) 0) ∧
    ((s.pkg pkg).service.secmode ≠ 3 → t.stopping = false →
      (t.slot = .vacant → shows (.mirmorStop tid) (named 1) 2 ∧ shows (.mirmorResume tid) (named 2) 2 ∧
        shows (.mirmorStep tid) (named 3) 2) ∧
      (t.slot = .saved → shows (.mirmorStop tid) (named 1) 3 ∧ shows (.mirmorResume tid) (named 2) 3 ∧
        shows (.mirmorStep tid) (named 3) 3) ∧
      (t.slot = .runnable ∨ t.slot = .parked → shows (.mirmorResume tid) (named 2) 3 ∧ shows (.mirmorStep tid) (named 3) 3 ∧
        (t.exited = true → shows (.mirmorStop tid) (named 1) 2) ∧
        (t.exited = false → shows (.mirmorStop tid) ((named 1).stopAt tid) 0)) ∧
      (t.slot = .stopped → shows (.mirmorStop tid) (named 1) 0 ∧
        shows (.mirmorResume tid) ((named 2).updTh tid fun t => { t with slot := again, stepping := false }) 0 ∧
        shows (.mirmorStep tid) ((named 3).updTh tid fun t => { t with slot := again, stepping := true }) 0))) ∧
  (∀ (s : State) (tid : Nat),
    let pkg := pkgOf (cidOf tid)
    let u := s.updTh tid fun t => { t with slot := .stopped, stepping := false, stopping := false }
    ((s.th tid).rotate ≠ none → s.stopAt tid = s.updTh tid fun t => { t with stepping := false, stopping := true }) ∧
    ((s.th tid).rotate = none → s.stopAt tid = s.stopNow tid) ∧
    (∀ target, (s.th tid).busy.toNat < 2 ^ 16 →
      ((s.th tid).rotate = some (.call target) →
        s.rotateOn tid = if (s.th tid).stopping then (s.rotateCall tid target).stopNow tid else s.rotateCall tid target) ∧
      ((s.th tid).rotate = some (.ret target) →
        s.rotateOn tid = if (s.th tid).stopping then (s.rotateRet tid target).stopNow tid else s.rotateRet tid target)) ∧
    ((s.pkg pkg).service.trctl.getLsbD 2 = false → s.stopNow tid = u) ∧
    ((s.pkg pkg).service.trctl.getLsbD 2 = true → s.stopNow tid =
      u.trace pkg 5 [cidOf tid % 2 ^ 13 * 2 ^ 48 + slotOf tid * 2 ^ 44 + Fld (s.th tid).pc 43 3 * 8])) ∧
  (∀ (u : State) (st pkg : Nat), ((State.mresult (u, st) pkg).pkg pkg).service.mstat = st ∧
    (State.mresult (u, st) pkg).threads = u.threads ∧ (State.mresult (u, st) pkg).mem = u.mem) ∧
  (∀ (s : State) (pkg : Nat), (s.pkg pkg).service.secmode ≠ 3 →
    (∃ t, exec (.mirmorHalt pkg) s = .next t ∧ (t.pkg pkg).service.halt = true ∧
      (t.pkg pkg).service.mstat = 0 ∧ (∀ x ∈ (s.pkg pkg).service.halted, x ∈ (t.pkg pkg).service.halted) ∧
      ((s.pkg pkg).service.trctl.getLsbD 2 = false → t.mem = s.mem ∧ ∀ tid, pkgOf (cidOf tid) ≠ pkg → t.th tid = s.th tid) ∧
      ∀ tid, pkgOf (cidOf tid) = pkg → (s.th tid).slot = .runnable ∨ (s.th tid).slot = .parked → (s.th tid).exited = false →
        ((s.th tid).rotate = none → (t.th tid).slot = .stopped) ∧ ((s.th tid).rotate ≠ none → (t.th tid).stopping = true) ∧
          tid ∈ (t.pkg pkg).service.halted ∧ (t.th tid).pc = (s.th tid).pc ∧
          (t.th tid).regs = (s.th tid).regs) ∧
    (∃ t, exec (.mirmorRelease pkg) s = .next t ∧ t.mem = s.mem ∧ (t.pkg pkg).service.halt = false ∧
      (t.pkg pkg).service.halted = [] ∧ (∀ tid, tid ∉ (s.pkg pkg).service.halted → t.th tid = s.th tid) ∧
      ∀ tid ∈ (s.pkg pkg).service.halted, ((s.th tid).stopping = true → (s.th tid).slot = .runnable ∨ (s.th tid).slot = .parked →
        t.th tid = { s.th tid with stopping := false }) ∧ ((s.th tid).slot = .stopped → (s.th tid).stopping = false →
        (t.th tid).slot = (if (s.th tid).park = .none then .runnable else .parked) ∧ (t.th tid).pc = (s.th tid).pc)) ∧
    ∀ grp, grp < 2 ^ 16 → (∃ t, exec (.brkstopOn pkg grp) s = .next t ∧ t.threads = s.threads ∧
        ∀ x, x ∈ (t.pkg pkg).service.brkstop ↔ x ∈ (s.pkg pkg).service.brkstop ∨ x = grp) ∧
      ∃ t, exec (.brkstopOff pkg grp) s = .next t ∧ t.threads = s.threads ∧
        ∀ x, x ∈ (t.pkg pkg).service.brkstop ↔ x ∈ (s.pkg pkg).service.brkstop ∧ x ≠ grp) ∧
  ∀ (s : State) (pkg off : Nat) (v : Word), (s.pkg pkg).service.secmode ≠ 3 →
    let tid := pkg * 2 ^ 17 + Fld (s.pkg pkg).service.mcmd 16 0
    let awake := s.wakePkg pkg
    ((s.th tid).slot ≠ .stopped ∨ off < 0x1000 ∨ 0x1800 ≤ off → exec (.mirmorThreadRecordWrite pkg off v) s = .next awake) ∧
    ((s.th tid).slot = .stopped →
      (off = 0x1000 → exec (.mirmorThreadRecordWrite pkg off v) s =
        .next (awake.updTh tid fun t => { t with pc := BitVec.ofNat 64 (v.toNat / 8 * 8) })) ∧
      (∀ i, i < 32 → off = 0x1010 + 8 * i → ∃ t, exec (.mirmorThreadRecordWrite pkg off v) s = .next t ∧ t.mem = s.mem ∧
        (t.th tid).reg i = v ∧ (t.th tid).present = (s.th tid).present ∧ (∀ j, j ≠ i → (t.th tid).reg j = (s.th tid).reg j)))

/-- A pair whose guard is false only advances, whatever its A slot is. With a true guard, where both slots complete,
the A slot takes effect and then the C slot on the same sources, and an access of the C slot that reads bytes which
the A slot has written is performed at once on memory as it stood before the pair; where one slot is stopped, the pair
is stopped by it and neither slot has an effect; where both wait, the two waits count together; where both are stopped
otherwise, the one that R207 places first counts, the C slot's where they stand alike. The order is that of R207:
0x01, 0x02, 0x0D, 0x0C, 0x0A, 0x03, 0x04, 0x05, a walk, a mark event, 0x08, 0x0B, 0x11, 0x07, 0x06; that a wait stands
before every cause, and a park after them, is the model's reading (notes/assumptions/24.md); how two waits count
together is log 11's; that the access of such a C slot is performed as the pair issues, which waits until it may be,
is the model's choice of log 26; and that the C slot's cause counts where the two stand alike is the model's as well
(log 26). A lone instruction issues alone. From the moment a pair issues, its sources read what stood before it,
whatever its slots have written since. The operand checks pass exactly where every source and destination is ready
(R163, R207, R224, R225). -/
def Obligations.PairIssue : Prop :=
  (∀ (s : State) (c a : Instr), s.guarded (cGuard c) = false → s.runPair (.slots c a) = .next s.advance) ∧
  (∀ (s : State) (c a : Instr), s.guarded (cGuard c) = true →
    let s0 : State := { s with iss := { s.iss with cdraws := s.drawsOf c } }
    ∀ tc ta : State, exec c s0 = .next tc → exec a s0 = .next ta →
      (tc.iss.stop = none → ta.iss.stop = none →
        let reads := ((tc.item s.serial).map Item.touches).getD []
        let same : Prop := ∀ r ∈ reads, ta.load r.1 r.2 = s.load r.1 r.2 ∧ ta.poisoned r.1 r.2 = s.poisoned r.1 r.2
        (same → s.runPair (.slots c a) = exec c ta) ∧
        (¬same → tc.ready s.serial = false → s.runPair (.slots c a) = .next (s0.halted (.wait onMemory))) ∧
        (¬same → tc.ready s.serial = true → s.runPair (.slots c a) = andThen (exec c ta) fun u => s0.performedOn u ta.serial)) ∧
      (tc.iss.stop = none → ta.iss.stop ≠ none → s.runPair (.slots c a) = .next ta) ∧
      (tc.iss.stop ≠ none → ta.iss.stop = none → s.runPair (.slots c a) = .next tc) ∧
      (∀ x y : Waiting, tc.iss.stop = some (.wait x) → ta.iss.stop = some (.wait y) →
        s.runPair (.slots c a) = .next (s0.halted (.wait (x.and y)))) ∧
      ∀ x y : Stop, tc.iss.stop = some x → ta.iss.stop = some y → (∀ w w', x = .wait w → y ≠ .wait w') →
        s.runPair (.slots c a) = .next (if stopRank y < stopRank x then ta else tc)) ∧
  (∀ (s u : State) (id : Nat) (a : Access), u.item id = some (.access a) → s.performedOn u id =
    andThen (exec (.memoryAccessAtHome id) { u with mem := s.mem, poison := s.poison }) fun x =>
      .next { x with mem := u.mem, poison := u.poison }) ∧
  (∀ (w : Waiting) (v : Word) (k : Walk) (p : Park),
    ([Stop.wait w, .trap 0x01 v, .trap 0x02 v, .trap 0x0D v, .trap 0x0C v, .trap 0x0A v, .trap 0x03 v, .trap 0x04 v, .trap 0x05 v,
      .walk k, .mark v, .trap 0x08 v, .trap 0x0B v, .trap 0x11 v, .trap 0x07 v, .trap 0x06 v, .park p w].map stopRank).Pairwise
        (· < ·) ∧ stopRank .brk = stopRank (.trap 0x0D v)) ∧
  (∀ (s : State) (i : Instr), s.runPair (.lone i) = exec i s) ∧
  (∀ (s t : State) (w : Word) (ganged : Bool), t.cur = s.cur → t.iss.before = (s.begin w [s.cur] ganged).iss.before →
    t.src = s.me ∧ (∀ r : XReg, t.readX r = s.me.reg r.val) ∧ ∀ g : Fin 8, t.guarded g = s.me.pred g.val) ∧
  ∀ (s : State) (rs ws : List Place),
    s.need rs ws = .ok () ↔ (∀ p ∈ rs, s.SrcReady p) ∧ ∀ p ∈ ws, s.DstReady p

/-- When the agenda names a core on which no gang goes, the step is the attempt of the first ready slot after the one
issued last; where a pair is begun, the search pointer then stands at that slot and the cycle ends as one in which it
issued, and otherwise, a boundary cause having been taken or no pair fetched, as one in which none did (the model's
reading, log 11). The attempt of a thread that nothing holds back, with no boundary cause, no failed page and no timer
due, 4 cycles after it last issued, whose fetched pair decodes and is not held back, runs that pair: a lone
instruction by exec, two slots as PairIssue says; then the pair leaves the fetch buffer and a thread that Mirmor steps
stops. Sooner than that it waits as PASSED, whatever its next pair awaits (log 11 on R165). A pair in the fetch buffer
is the one fetched; otherwise the fetch is a far access for execution, which crosses the far net as log 12 says; where
its page is present it waits for a link that its way lacks; where no port refuses or fails it and its bytes are not
poisoned the 8 bytes there are the pair, and else cause 0x0B is met; a late one makes cause 0x10 pending while
DEADLINE.LTE is set. A pair that does not decode traps with cause 0x01, TVAL the pair. Which agent the agenda names is
the model's choice (notes/assumptions/1.md) (R164, R163, R215, R225, R231, R165, R43, R58, R64, R66, R387). -/
def Obligations.StepRunsTheDecodedPair : Prop :=
  (∀ (s : State) (cid tid : Nat) (rest : List Turn), s.agenda = .core cid :: rest →
    let n : State := ({ s with agenda := rest }).noted cid
    (n.gangsOn cid).find? n.gangGoes = none → n.pick cid = some tid →
    step s = andThen (n.attempt tid) fun t =>
      .next (if t.iss.before = [] then t.endCycle cid none
        else (t.setCore cid { t.core cid with last := slotOf tid }).endCycle cid (some tid))) ∧
  (∀ (n : State) (tid : Nat) (w : Word),
    let b : State := { n with cur := tid, iss := {} }
    b.lingers tid = false → b.blocked tid = none → b.me.boundary = none → b.me.pageFail = none → b.me.timerDue b.time = false →
    n.spaced tid = false → ∀ f : State, b.fetchPair = .ok (f, w) →
    (∀ p : Pair, decodePair w = some p → heldOut ((f.begin w [tid] false).runPair p) = false →
      n.attempt tid = andThen ((f.begin w [tid] false).runPair p) fun t => .next (t.issuedBy tid f.me)) ∧
    (decodePair w = none →
      n.attempt tid = .next (((f.begin w [tid] false).halted (.trap 0x01 w)).issuedBy tid f.me))) ∧
  (∀ (n : State) (tid : Nat) (v : Word),
    let b : State := { n with cur := tid, iss := {} }
    b.lingers tid = false → b.blocked tid = none → b.me.boundary = none → b.me.pageFail = none → b.me.timerDue b.time = false →
    n.spaced tid = false → b.fetchPair = .error (.trap 0x0B v) →
    n.attempt tid = .next (((b.fetchTrail b.me.pc).halted (.trap 0x0B v)).issuedBy tid b.me)) ∧
  (∀ (n : State) (tid : Nat), n.spaced tid = true →
    ∃ x : Waiting, n.attempt tid = .next (({ n with cur := tid, iss := {} } : State).halted (.wait x)) ∧ x.cls = .passed) ∧
  (∀ (s : State) (i : Instr), s.runPair (.lone i) = exec i s) ∧
  (∀ (s : State) (c a : Instr), s.runPair (.slots c a) = s.runSlots c a) ∧
  (∀ (s : State) (w : Word) (rest : List (Word × Word)), s.me.buffered = (s.me.pc, w) :: rest → s.fetchPair = .ok (s, w)) ∧
  ∀ (s : State) (k : Nat), s.me.buffered = [] → s.far s.me.pc 8 { x := true } 8 accFetch = .ok k →
    let refused : Prop := s.cutOff s.cid s.src.tenant [(k, 8)] ≠ [] ∨ s.poisoned k 8 = true
    let late : Prop := s.pastDue s.src.dueBy [(k, 8)] = true ∧ s.me.sys.deadline.getLsbD 63 = true
    (s.awaitsLink s.cid k = true → s.fetchPair = .error (.wait onMemory)) ∧ (s.awaitsLink s.cid k = false →
    (refused → s.fetchPair = .error (.trap 0x0B s.me.pc)) ∧
    (¬refused → ∃ t : State, s.fetchPair = .ok (t, BitVec.ofNat 64 (s.load k 8)) ∧ t.mem = s.mem ∧ s.OthersKept t ∧
      t.me = { s.me with fetch := [(s.me.pc, BitVec.ofNat 64 (s.load k 8))], pending := t.me.pending } ∧
      t.me.pending = if late then { s.me.pending with late := some (s.me.pending.late.getD s.me.pc) } else s.me.pending))

/-- The pair 0x2662_8214_1004_2503 is (p3) ADD g1, g2, l4 beside VFMA.F32 v2, v0, v1, m1; each of its neighbours with
a reserved F, a reserved TYPE or a reserved cell, the reserved lone opcode 0x05, and the pair whose slots write one
destination is no instruction, while FADD.F32 g0 beside ADD g1 is; the all-zero pair is CNOP beside ANOP; MOVW g5 with
0x5678_9ABC_DEF0 and MOVW.HI g5 with 0x1234 are lone words; SUB g3, g3, g4 and FADD.F64 decode beside an empty slot
(R215, R216, R217, R219, R231). -/
def Obligations.DecodeWords : Prop :=
  decodePair 0x2662821410042503 = some (.slots (.add (.r 1) (.r 2) (.r 20) 3) (.vfma .f32 2 (.v 0) (.v 1) 1 .status)) ∧
  decodePair 0x2662821410042533 = none ∧
  decodePair 0x27E2821410042503 = none ∧
  decodePair 0xC000000010042503 = none ∧
  decodePair 0x0000000082800000 = none ∧
  decodePair 0x0240000010042503 =
    some (.slots (.add (.r 1) (.r 2) (.r 20) 3) (.fadd .f32 (.r 0) (.r 0) (.r 0) .status)) ∧
  decodePair 0x0241000010042503 = none ∧
  decodePair 0 = some (.slots (.cnop 0) .anop) ∧
  decodePair 0x00000000100C3108 = some (.slots (.sub (.r 3) (.r 3) (.r 4) 0) .anop) ∧
  decodePair 0x9ABCDEF0800A5678 = some (.lone (.movw 5 0x5678 0x9ABCDEF0)) ∧
  decodePair 0x00001234800B0000 = some (.lone (.movwHi 5 0x1234))

/-- Every instruction of the table but the events has a word, and the pair of a well-formed instruction decodes to it:
alone where it is a lone instruction, beside ANOP in the C slot, beside CNOP in the A slot, with every operand at
every value. A pair of two well-formed slot instructions decodes to the two where their destinations differ, and is
refused where both write one destination (R215, R216, R217, R219, R225, R234). -/
def Obligations.EncodingRoundTrip : Prop :=
  (∀ i : Instr, encode i = none ↔ i.isEvent = true) ∧
  (∀ (i : Instr) (w : Word), i.wf = true → encode i = some w →
    ∃ p, decodePair w = some p ∧ p.single = i ∧ (p = .lone i ∨ p = .slots i .anop ∨ p = .slots (.cnop 0) i)) ∧
  ∀ (c a : Instr) (w : Word), c.wf = true → a.wf = true → encodeSlots c a = some w →
    decodePair w = if clash c a then none else some (.slots c a)

/-- From every state whose memory is in canonical form, a step that answers a next state answers one whose memory is
in canonical form: addresses strictly rising, and no listed byte that holds what an unlisted address reads as. The
form is the model's (notes/assumptions/3.md) (R72, R147). -/
def Obligations.MemoryStaysCanonical : Prop :=
  ∀ s t : State, Memory.wf s.mem = true → step s = .next t → Memory.wf t.mem = true

/-- After reset every scratchpad byte is 0 and every word of it full, unclaimed and not poisoned; every core's tile
holds zero elements, is of kind float, has no flag set and no owner; its mailboxes are empty and its search for a
ready slot starts at slot 0; every slot is vacant, both words of every SEG register are 0; FTMO is 10,000 and THOT
0x0690. That bytes outside the scratchpads read 0, that memory is canonical, that registers of a vacant slot hold 0,
that TIME is 0 and that nothing is in flight are the model's (notes/assumptions/3.md, 4.md) (R41, R72, R83, R113,
R164, R387, R390). -/
def Obligations.ResetState : Prop :=
  let s := State.reset
  (∀ k, readByte s.mem k = 0 ∧ s.isFull k = true ∧ s.claim k = none ∧ ∀ n, s.poisoned k n = false) ∧
  (∀ c, (s.core c).tile.elems = [] ∧ (s.core c).tile.int = false ∧ (s.core c).tile.owner = none ∧
    (s.core c).tile.nv = false ∧ (s.core c).tile.ov = false ∧ (s.core c).tile.csat = false ∧ (s.core c).tile.iov = false ∧
    (s.core c).mail = [] ∧ (s.core c).queue = [] ∧ s.rotation c = (List.range 16).map fun i => c * 16 + i) ∧
  (∀ t, (s.th t).slot = .vacant ∧ (∀ i, (s.th t).seg i = (0, 0)) ∧ (∀ i, (s.th t).reg i = 0) ∧ (s.th t).sb = []) ∧
  (∀ p, (s.pkg p).around.ftmo = 10000 ∧ (s.pkg p).around.thot = 0x0690 ∧ (s.pkg p).groups = []) ∧
  Memory.wf s.mem = true ∧ s.time = 0 ∧ s.flight = [] ∧ s.barriers = []

/-- What the other statements name as a result's delivery has this frame. A register result gives the register its
value and sets its presence; every other register and presence bit, and everything else of its thread and of the
machine, is as before; the same holds of a vector register. A predicate or mask result changes one predicate or mask,
and nothing where it names p0 or m0. Moving past a pair changes the PC alone. Flags change STATUS bits [5:0] alone, by
ORing, and draws the draw counter alone. A result of a later cycle makes its register busy and puts the value in
flight. A slot result changes the bytes of slot TAIL + k alone, or for an OUT handle what it stages there, with the
slot's mark cleared and its TX and typed bits set. Every other thread is as before (R29, R95, R96, R103, R104, R225).
-/
def Obligations.ResultFrame : Prop :=
  ∀ s : State,
    (∀ (d : XReg) (w : Word), let t := s.writeX d w
      s.OnlyThreads t ∧ s.OthersKept t ∧ t.iss = s.iss ∧ t.me = { s.me with regs := t.me.regs, present := t.me.present } ∧
      t.me.reg d.val = w ∧ t.me.present.getLsbD d.val = true ∧
      (∀ i, i ≠ d.val → t.me.reg i = s.me.reg i ∧ t.me.present.getLsbD i = s.me.present.getLsbD i) ∧
      s.writeS (.r d) w = t) ∧
    (∀ (d : VReg) (x : Nat), let t := s.writeV (.v d) x
      s.OnlyThreads t ∧ s.OthersKept t ∧ t.iss = s.iss ∧ t.me = { s.me with v := t.me.v } ∧
      t.me.vec d.val = BitVec.ofNat 512 x ∧ ∀ i, i ≠ d.val → t.me.vec i = s.me.vec i) ∧
    (∀ (d : PReg) (b : Bool), ∃ t, s.decides d b = .next t ∧ s.OnlyThreads t ∧ s.OthersKept t ∧ t.iss = s.iss ∧
      t.me = { s.me with p := t.me.p, pc := s.me.pc + 8, wait := none } ∧
      (d.val ≠ 0 → t.me.pred d.val = b) ∧ t.me.pred 0 = true ∧ ∀ i, i ≠ d.val → t.me.pred i = s.me.pred i) ∧
    (∀ (d : Fin 4) (w : Word), let t := s.updMe fun t => t.setMask d.val w
      s.OnlyThreads t ∧ s.OthersKept t ∧ t.me = { s.me with m := t.me.m } ∧
      (d.val ≠ 0 → t.me.mask d.val = w) ∧ t.me.mask 0 = BitVec.allOnes 64 ∧ ∀ i, i ≠ d.val → t.me.mask i = s.me.mask i) ∧
    (s.OnlyThreads s.advance ∧ s.OthersKept s.advance ∧ s.advance.iss = s.iss ∧
      s.advance.me = { s.me with pc := s.me.pc + 8, wait := none }) ∧
    (∀ fl n : Nat, let t := s.flagged fl n
      s.OnlyThreads t ∧ s.OthersKept t ∧
      t.me = { s.me with sys := { s.me.sys with status := t.me.sys.status }, draws := s.me.draws + BitVec.ofNat 64 n } ∧
      ∀ j, j < 64 → t.me.sys.status.getLsbD j = (s.me.sys.status.getLsbD j || (decide (j < 6) && fl.testBit j))) ∧
    (∀ (d : XReg) (w : Word), let t := s.resultS (.r d) w
      t = { s with threads := t.threads, flight := t.flight, serial := s.serial + 1 } ∧ s.OthersKept t ∧
      t.me = { s.me with busy := t.me.busy } ∧ t.me.busy.getLsbD d.val = true ∧
      (∀ i, i ≠ d.val → t.me.busy.getLsbD i = s.me.busy.getLsbD i) ∧
      t.item s.serial = some (.result s.cur (.reg d.val) w.toNat) ∧ ∀ j, j ≠ s.serial → t.item j = s.item j) ∧
    ∀ (q : Fin 8) (k data : Nat) (typed : Bool), let t := s.writeSlot q.val k data typed
      let r := s.me.ring q.val
      let b : SlotBits := ⟨false, s.src.tx, typed, s.cur⟩
      t = { s with threads := t.threads, mem := t.mem, poison := t.poison } ∧ s.OthersKept t ∧
      t.me = { s.me with rings := t.me.rings } ∧ (∀ j, j ≠ q.val → t.me.ring j = s.me.ring j) ∧
      (r.kind = .out → t.mem = s.mem ∧ t.poison = s.poison ∧
        t.me.ring q.val = { r with staged := insert r.staged k ⟨data % 2 ^ (8 * r.size), b⟩ }) ∧
      (r.kind ≠ .out → s.MemKept t (r.slotKey (r.tail + k)) r.size ∧
        t.me.ring q.val = { r with bits := insert r.bits ((r.tail + k) % r.cap) b })

/-- Where a thread with SUP = 0 issues an instruction of any kind but TRAP, and the instruction completes without
being stopped, SUP, PSUP and DET of its STATUS are as before: only trap entry sets SUP, and MTS leaves the three
unchanged (R109, R208, R349, R350). -/
def Obligations.UserModeStaysUserMode : Prop :=
  ∀ (i : Instr) (s t : State), i.isEvent = false → (∀ imm, i ≠ .trap imm) →
    s.src.sys.status = s.me.sys.status → s.me.sup = false →
    exec i s = .next t → t.iss.stop = none →
    t.cur = s.cur ∧ Fld t.me.sys.status 32 30 = Fld s.me.sys.status 32 30
end

