-- ==== Sys2Proof/Laws/Dispatch.lean ====
section
/-! SUPPORT. Laws/Dispatch.lean: the meaning that each arm of exec calls. -/
namespace Sys2Proof.Machine

@[simp] theorem exec_cnop (g : Fin 8) (s : State) : exec (.cnop g) s = execCnop g s := rfl
@[simp] theorem exec_br (off : BitVec 19) (s : State) : exec (.br off) s = execBr off s := rfl
@[simp] theorem exec_brp (p : PReg) (sense : Bool) (off : BitVec 19) (s : State) : exec (.brp p sense off) s = execBrp p sense off s := rfl
@[simp] theorem exec_call (off : BitVec 19) (s : State) : exec (.call off) s = execCall off s := rfl
@[simp] theorem exec_loop (c : PReg) (off : BitVec 19) (s : State) : exec (.loop c off) s = execLoop c off s := rfl
@[simp] theorem exec_calli (x : XReg) (g : Fin 8) (s : State) : exec (.calli x g) s = execCalli x g s := rfl
@[simp] theorem exec_ret (x : XReg) (g : Fin 8) (s : State) : exec (.ret x g) s = execRet x g s := rfl
@[simp] theorem exec_jmpi (x : XReg) (g : Fin 8) (s : State) : exec (.jmpi x g) s = execJmpi x g s := rfl
@[simp] theorem exec_exit (g : Fin 8) (s : State) : exec (.exit g) s = execExit g s := rfl
@[simp] theorem exec_trap (imm : BitVec 12) (s : State) : exec (.trap imm) s = execTrap imm s := rfl
@[simp] theorem exec_brk (imm : BitVec 12) (s : State) : exec (.brk imm) s = execBrk imm s := rfl
@[simp] theorem exec_eret (g : Fin 8) (s : State) : exec (.eret g) s = execEret g s := rfl
@[simp] theorem exec_ifence (g : Fin 8) (s : State) : exec (.ifence g) s = execIfence g s := rfl
@[simp] theorem exec_pfence (g : Fin 8) (s : State) : exec (.pfence g) s = execPfence g s := rfl
@[simp] theorem exec_fence (sc : Scope) (g : Fin 8) (s : State) : exec (.fence sc g) s = execFence sc g s := rfl
@[simp] theorem exec_add (d : SOpd) (a : SOpd) (b : SOpd) (g : Fin 8) (s : State) : exec (.add d a b g) s = execAdd d a b g s := rfl
@[simp] theorem exec_sub (d : SOpd) (a : SOpd) (b : SOpd) (g : Fin 8) (s : State) : exec (.sub d a b g) s = execSub d a b g s := rfl
@[simp] theorem exec_andC (d : SOpd) (a : SOpd) (b : SOpd) (g : Fin 8) (s : State) : exec (.andC d a b g) s = execAndC d a b g s := rfl
@[simp] theorem exec_orC (d : SOpd) (a : SOpd) (b : SOpd) (g : Fin 8) (s : State) : exec (.orC d a b g) s = execOrC d a b g s := rfl
@[simp] theorem exec_xorC (d : SOpd) (a : SOpd) (b : SOpd) (g : Fin 8) (s : State) : exec (.xorC d a b g) s = execXorC d a b g s := rfl
@[simp] theorem exec_andn (d : SOpd) (a : SOpd) (b : SOpd) (g : Fin 8) (s : State) : exec (.andn d a b g) s = execAndn d a b g s := rfl
@[simp] theorem exec_mul (d : SOpd) (a : SOpd) (b : SOpd) (g : Fin 8) (s : State) : exec (.mul d a b g) s = execMul d a b g s := rfl
@[simp] theorem exec_mulhs (d : SOpd) (a : SOpd) (b : SOpd) (g : Fin 8) (s : State) : exec (.mulhs d a b g) s = execMulhs d a b g s := rfl
@[simp] theorem exec_mulhu (d : SOpd) (a : SOpd) (b : SOpd) (g : Fin 8) (s : State) : exec (.mulhu d a b g) s = execMulhu d a b g s := rfl
@[simp] theorem exec_divs (d : SOpd) (a : SOpd) (b : SOpd) (g : Fin 8) (s : State) : exec (.divs d a b g) s = execDivs d a b g s := rfl
@[simp] theorem exec_divu (d : SOpd) (a : SOpd) (b : SOpd) (g : Fin 8) (s : State) : exec (.divu d a b g) s = execDivu d a b g s := rfl
@[simp] theorem exec_rems (d : SOpd) (a : SOpd) (b : SOpd) (g : Fin 8) (s : State) : exec (.rems d a b g) s = execRems d a b g s := rfl
@[simp] theorem exec_remu (d : SOpd) (a : SOpd) (b : SOpd) (g : Fin 8) (s : State) : exec (.remu d a b g) s = execRemu d a b g s := rfl
@[simp] theorem exec_shl (d : SOpd) (a : SOpd) (b : SOpd) (g : Fin 8) (s : State) : exec (.shl d a b g) s = execShl d a b g s := rfl
@[simp] theorem exec_shr (d : SOpd) (a : SOpd) (b : SOpd) (g : Fin 8) (s : State) : exec (.shr d a b g) s = execShr d a b g s := rfl
@[simp] theorem exec_sha (d : SOpd) (a : SOpd) (b : SOpd) (g : Fin 8) (s : State) : exec (.sha d a b g) s = execSha d a b g s := rfl
@[simp] theorem exec_rotr (d : SOpd) (a : SOpd) (b : SOpd) (g : Fin 8) (s : State) : exec (.rotr d a b g) s = execRotr d a b g s := rfl
@[simp] theorem exec_mins (d : SOpd) (a : SOpd) (b : SOpd) (g : Fin 8) (s : State) : exec (.mins d a b g) s = execMins d a b g s := rfl
@[simp] theorem exec_maxs (d : SOpd) (a : SOpd) (b : SOpd) (g : Fin 8) (s : State) : exec (.maxs d a b g) s = execMaxs d a b g s := rfl
@[simp] theorem exec_minu (d : SOpd) (a : SOpd) (b : SOpd) (g : Fin 8) (s : State) : exec (.minu d a b g) s = execMinu d a b g s := rfl
@[simp] theorem exec_maxu (d : SOpd) (a : SOpd) (b : SOpd) (g : Fin 8) (s : State) : exec (.maxu d a b g) s = execMaxu d a b g s := rfl
@[simp] theorem exec_clz (d : SOpd) (a : SOpd) (g : Fin 8) (s : State) : exec (.clz d a g) s = execClz d a g s := rfl
@[simp] theorem exec_ctz (d : SOpd) (a : SOpd) (g : Fin 8) (s : State) : exec (.ctz d a g) s = execCtz d a g s := rfl
@[simp] theorem exec_popc (d : SOpd) (a : SOpd) (g : Fin 8) (s : State) : exec (.popc d a g) s = execPopc d a g s := rfl
@[simp] theorem exec_brev (d : SOpd) (a : SOpd) (g : Fin 8) (s : State) : exec (.brev d a g) s = execBrev d a g s := rfl
@[simp] theorem exec_sextB (d : SOpd) (a : SOpd) (g : Fin 8) (s : State) : exec (.sextB d a g) s = execSextB d a g s := rfl
@[simp] theorem exec_sextH (d : SOpd) (a : SOpd) (g : Fin 8) (s : State) : exec (.sextH d a g) s = execSextH d a g s := rfl
@[simp] theorem exec_sextW (d : SOpd) (a : SOpd) (g : Fin 8) (s : State) : exec (.sextW d a g) s = execSextW d a g s := rfl
@[simp] theorem exec_zextB (d : SOpd) (a : SOpd) (g : Fin 8) (s : State) : exec (.zextB d a g) s = execZextB d a g s := rfl
@[simp] theorem exec_zextH (d : SOpd) (a : SOpd) (g : Fin 8) (s : State) : exec (.zextH d a g) s = execZextH d a g s := rfl
@[simp] theorem exec_zextW (d : SOpd) (a : SOpd) (g : Fin 8) (s : State) : exec (.zextW d a g) s = execZextW d a g s := rfl
@[simp] theorem exec_mov (d : SOpd) (a : SOpd) (g : Fin 8) (s : State) : exec (.mov d a g) s = execMov d a g s := rfl
@[simp] theorem exec_sel (d : SOpd) (a : SOpd) (b : SOpd) (p : Fin 8) (g : Fin 8) (s : State) : exec (.sel d a b p g) s = execSel d a b p g s := rfl
@[simp] theorem exec_lea (d : SOpd) (a : SOpd) (b : SOpd) (k : Fin 4) (g : Fin 8) (s : State) : exec (.lea d a b k g) s = execLea d a b k g s := rfl
@[simp] theorem exec_cmpEq (d : PReg) (a : SOpd) (b : SOpd) (g : Fin 8) (s : State) : exec (.cmpEq d a b g) s = execCmpEq d a b g s := rfl
@[simp] theorem exec_cmpNe (d : PReg) (a : SOpd) (b : SOpd) (g : Fin 8) (s : State) : exec (.cmpNe d a b g) s = execCmpNe d a b g s := rfl
@[simp] theorem exec_cmpLt (d : PReg) (a : SOpd) (b : SOpd) (g : Fin 8) (s : State) : exec (.cmpLt d a b g) s = execCmpLt d a b g s := rfl
@[simp] theorem exec_cmpGe (d : PReg) (a : SOpd) (b : SOpd) (g : Fin 8) (s : State) : exec (.cmpGe d a b g) s = execCmpGe d a b g s := rfl
@[simp] theorem exec_cmpLtu (d : PReg) (a : SOpd) (b : SOpd) (g : Fin 8) (s : State) : exec (.cmpLtu d a b g) s = execCmpLtu d a b g s := rfl
@[simp] theorem exec_cmpGeu (d : PReg) (a : SOpd) (b : SOpd) (g : Fin 8) (s : State) : exec (.cmpGeu d a b g) s = execCmpGeu d a b g s := rfl
@[simp] theorem exec_bext (d : SOpd) (a : SOpd) (b : SOpd) (g : Fin 8) (s : State) : exec (.bext d a b g) s = execBext d a b g s := rfl
@[simp] theorem exec_bextS (d : SOpd) (a : SOpd) (b : SOpd) (g : Fin 8) (s : State) : exec (.bextS d a b g) s = execBextS d a b g s := rfl
@[simp] theorem exec_bins (d : SOpd) (a : SOpd) (b : SOpd) (g : Fin 8) (s : State) : exec (.bins d a b g) s = execBins d a b g s := rfl
@[simp] theorem exec_tremit (x : SOpd) (g : Fin 8) (s : State) : exec (.tremit x g) s = execTremit x g s := rfl
@[simp] theorem exec_rpush (x : SOpd) (g : Fin 8) (s : State) : exec (.rpush x g) s = execRpush x g s := rfl
@[simp] theorem exec_rpop (d : XReg) (g : Fin 8) (s : State) : exec (.rpop d g) s = execRpop d g s := rfl
@[simp] theorem exec_ctxs (d : XReg) (a : XReg) (b : XReg) (g : Fin 8) (s : State) : exec (.ctxs d a b g) s = execCtxs d a b g s := rfl
@[simp] theorem exec_ctxsResume (d : XReg) (a : XReg) (b : XReg) (g : Fin 8) (s : State) : exec (.ctxsResume d a b g) s = execCtxsResume d a b g s := rfl
@[simp] theorem exec_ctxsSize (d : XReg) (a : XReg) (g : Fin 8) (s : State) : exec (.ctxsSize d a g) s = execCtxsSize d a g s := rfl
@[simp] theorem exec_addi (d : SOpd) (a : SOpd) (imm : BitVec 12) (s : State) : exec (.addi d a imm) s = execAddi d a imm s := rfl
@[simp] theorem exec_andi (d : SOpd) (a : SOpd) (imm : BitVec 12) (s : State) : exec (.andi d a imm) s = execAndi d a imm s := rfl
@[simp] theorem exec_ori (d : SOpd) (a : SOpd) (imm : BitVec 12) (s : State) : exec (.ori d a imm) s = execOri d a imm s := rfl
@[simp] theorem exec_xori (d : SOpd) (a : SOpd) (imm : BitVec 12) (s : State) : exec (.xori d a imm) s = execXori d a imm s := rfl
@[simp] theorem exec_shli (d : SOpd) (a : SOpd) (n : Fin 64) (s : State) : exec (.shli d a n) s = execShli d a n s := rfl
@[simp] theorem exec_shri (d : SOpd) (a : SOpd) (n : Fin 64) (s : State) : exec (.shri d a n) s = execShri d a n s := rfl
@[simp] theorem exec_shai (d : SOpd) (a : SOpd) (n : Fin 64) (s : State) : exec (.shai d a n) s = execShai d a n s := rfl
@[simp] theorem exec_movi (d : SOpd) (imm : BitVec 12) (s : State) : exec (.movi d imm) s = execMovi d imm s := rfl
@[simp] theorem exec_cmpiEq (d : PReg) (a : SOpd) (imm : BitVec 12) (s : State) : exec (.cmpiEq d a imm) s = execCmpiEq d a imm s := rfl
@[simp] theorem exec_cmpiNe (d : PReg) (a : SOpd) (imm : BitVec 12) (s : State) : exec (.cmpiNe d a imm) s = execCmpiNe d a imm s := rfl
@[simp] theorem exec_cmpiLt (d : PReg) (a : SOpd) (imm : BitVec 12) (s : State) : exec (.cmpiLt d a imm) s = execCmpiLt d a imm s := rfl
@[simp] theorem exec_cmpiGe (d : PReg) (a : SOpd) (imm : BitVec 12) (s : State) : exec (.cmpiGe d a imm) s = execCmpiGe d a imm s := rfl
@[simp] theorem exec_cmpiLtu (d : PReg) (a : SOpd) (imm : BitVec 12) (s : State) : exec (.cmpiLtu d a imm) s = execCmpiLtu d a imm s := rfl
@[simp] theorem exec_cmpiGeu (d : PReg) (a : SOpd) (imm : BitVec 12) (s : State) : exec (.cmpiGeu d a imm) s = execCmpiGeu d a imm s := rfl
@[simp] theorem exec_ldBZ (d : XReg) (b : XReg) (imm : BitVec 12) (s : State) : exec (.ldBZ d b imm) s = execLdBZ d b imm s := rfl
@[simp] theorem exec_ldBS (d : XReg) (b : XReg) (imm : BitVec 12) (s : State) : exec (.ldBS d b imm) s = execLdBS d b imm s := rfl
@[simp] theorem exec_ldHZ (d : XReg) (b : XReg) (imm : BitVec 12) (s : State) : exec (.ldHZ d b imm) s = execLdHZ d b imm s := rfl
@[simp] theorem exec_ldHS (d : XReg) (b : XReg) (imm : BitVec 12) (s : State) : exec (.ldHS d b imm) s = execLdHS d b imm s := rfl
@[simp] theorem exec_ldWZ (d : XReg) (b : XReg) (imm : BitVec 12) (s : State) : exec (.ldWZ d b imm) s = execLdWZ d b imm s := rfl
@[simp] theorem exec_ldWS (d : XReg) (b : XReg) (imm : BitVec 12) (s : State) : exec (.ldWS d b imm) s = execLdWS d b imm s := rfl
@[simp] theorem exec_ldD (d : XReg) (b : XReg) (imm : BitVec 12) (s : State) : exec (.ldD d b imm) s = execLdD d b imm s := rfl
@[simp] theorem exec_ldAcq (d : XReg) (b : XReg) (imm : BitVec 12) (s : State) : exec (.ldAcq d b imm) s = execLdAcq d b imm s := rfl
@[simp] theorem exec_stB (v : SOpd) (b : XReg) (imm : BitVec 12) (s : State) : exec (.stB v b imm) s = execStB v b imm s := rfl
@[simp] theorem exec_stH (v : SOpd) (b : XReg) (imm : BitVec 12) (s : State) : exec (.stH v b imm) s = execStH v b imm s := rfl
@[simp] theorem exec_stW (v : SOpd) (b : XReg) (imm : BitVec 12) (s : State) : exec (.stW v b imm) s = execStW v b imm s := rfl
@[simp] theorem exec_stD (v : SOpd) (b : XReg) (imm : BitVec 12) (s : State) : exec (.stD v b imm) s = execStD v b imm s := rfl
@[simp] theorem exec_stRel (v : SOpd) (b : XReg) (imm : BitVec 12) (s : State) : exec (.stRel v b imm) s = execStRel v b imm s := rfl
@[simp] theorem exec_ldv (d : VReg) (b : XReg) (imm : BitVec 12) (s : State) : exec (.ldv d b imm) s = execLdv d b imm s := rfl
@[simp] theorem exec_stv (v : VOpd) (b : XReg) (imm : BitVec 12) (s : State) : exec (.stv v b imm) s = execStv v b imm s := rfl
@[simp] theorem exec_aadd (d : XReg) (b : XReg) (v : SOpd) (z : Fin 2) (g : Fin 8) (s : State) : exec (.aadd d b v z g) s = execAadd d b v z g s := rfl
@[simp] theorem exec_afadd (d : XReg) (b : XReg) (v : SOpd) (z : Fin 2) (g : Fin 8) (s : State) : exec (.afadd d b v z g) s = execAfadd d b v z g s := rfl
@[simp] theorem exec_amin (d : XReg) (b : XReg) (v : SOpd) (z : Fin 4) (g : Fin 8) (s : State) : exec (.amin d b v z g) s = execAmin d b v z g s := rfl
@[simp] theorem exec_amax (d : XReg) (b : XReg) (v : SOpd) (z : Fin 4) (g : Fin 8) (s : State) : exec (.amax d b v z g) s = execAmax d b v z g s := rfl
@[simp] theorem exec_aand (d : XReg) (b : XReg) (v : SOpd) (z : Fin 2) (g : Fin 8) (s : State) : exec (.aand d b v z g) s = execAand d b v z g s := rfl
@[simp] theorem exec_aor (d : XReg) (b : XReg) (v : SOpd) (z : Fin 2) (g : Fin 8) (s : State) : exec (.aor d b v z g) s = execAor d b v z g s := rfl
@[simp] theorem exec_axor (d : XReg) (b : XReg) (v : SOpd) (z : Fin 2) (g : Fin 8) (s : State) : exec (.axor d b v z g) s = execAxor d b v z g s := rfl
@[simp] theorem exec_axchg (d : XReg) (b : XReg) (v : SOpd) (z : Fin 2) (g : Fin 8) (s : State) : exec (.axchg d b v z g) s = execAxchg d b v z g s := rfl
@[simp] theorem exec_acas (d : XReg) (b : XReg) (v : SOpd) (z : Fin 2) (g : Fin 8) (s : State) : exec (.acas d b v z g) s = execAcas d b v z g s := rfl
@[simp] theorem exec_lock (b : XReg) (g : Fin 8) (s : State) : exec (.lock b g) s = execLock b g s := rfl
@[simp] theorem exec_lockStatus (d : XReg) (b : XReg) (g : Fin 8) (s : State) : exec (.lockStatus d b g) s = execLockStatus d b g s := rfl
@[simp] theorem exec_unlock (b : XReg) (g : Fin 8) (s : State) : exec (.unlock b g) s = execUnlock b g s := rfl
@[simp] theorem exec_unlockStatus (d : XReg) (b : XReg) (g : Fin 8) (s : State) : exec (.unlockStatus d b g) s = execUnlockStatus d b g s := rfl
@[simp] theorem exec_nadd (d : XReg) (b : XReg) (v : SOpd) (g : Fin 8) (s : State) : exec (.nadd d b v g) s = execNadd d b v g s := rfl
@[simp] theorem exec_ncas (d : XReg) (b : XReg) (v : SOpd) (g : Fin 8) (s : State) : exec (.ncas d b v g) s = execNcas d b v g s := rfl
@[simp] theorem exec_mzeroFlt (t : XReg) (g : Fin 8) (s : State) : exec (.mzeroFlt t g) s = execMzeroFlt t g s := rfl
@[simp] theorem exec_mzeroInt (t : XReg) (g : Fin 8) (s : State) : exec (.mzeroInt t g) s = execMzeroInt t g s := rfl
@[simp] theorem exec_mstat (t : XReg) (g : Fin 8) (s : State) : exec (.mstat t g) s = execMstat t g s := rfl
@[simp] theorem exec_mhint (imm : BitVec 12) (s : State) : exec (.mhint imm) s = execMhint imm s := rfl
@[simp] theorem exec_ldnW (d : XReg) (b : XReg) (imm : BitVec 12) (s : State) : exec (.ldnW d b imm) s = execLdnW d b imm s := rfl
@[simp] theorem exec_ldnD (d : XReg) (b : XReg) (imm : BitVec 12) (s : State) : exec (.ldnD d b imm) s = execLdnD d b imm s := rfl
@[simp] theorem exec_stnW (v : SOpd) (b : XReg) (imm : BitVec 12) (s : State) : exec (.stnW v b imm) s = execStnW v b imm s := rfl
@[simp] theorem exec_stnD (v : SOpd) (b : XReg) (imm : BitVec 12) (s : State) : exec (.stnD v b imm) s = execStnD v b imm s := rfl
@[simp] theorem exec_vldn (d : VReg) (b : XReg) (imm : BitVec 12) (s : State) : exec (.vldn d b imm) s = execVldn d b imm s := rfl
@[simp] theorem exec_vstn (v : VOpd) (b : XReg) (imm : BitVec 12) (s : State) : exec (.vstn v b imm) s = execVstn v b imm s := rfl
@[simp] theorem exec_ldf (d : XReg) (b : XReg) (imm : BitVec 12) (s : State) : exec (.ldf d b imm) s = execLdf d b imm s := rfl
@[simp] theorem exec_ldfe (d : XReg) (b : XReg) (imm : BitVec 12) (s : State) : exec (.ldfe d b imm) s = execLdfe d b imm s := rfl
@[simp] theorem exec_ste (v : SOpd) (b : XReg) (imm : BitVec 12) (s : State) : exec (.ste v b imm) s = execSte v b imm s := rfl
@[simp] theorem exec_stf (v : SOpd) (b : XReg) (imm : BitVec 12) (s : State) : exec (.stf v b imm) s = execStf v b imm s := rfl
@[simp] theorem exec_feclr (b : XReg) (imm : BitVec 12) (s : State) : exec (.feclr b imm) s = execFeclr b imm s := rfl
@[simp] theorem exec_feset (b : XReg) (imm : BitVec 12) (s : State) : exec (.feset b imm) s = execFeset b imm s := rfl
@[simp] theorem exec_feq (d : XReg) (b : XReg) (imm : BitVec 12) (s : State) : exec (.feq d b imm) s = execFeq d b imm s := rfl
@[simp] theorem exec_claim (b : XReg) (imm : BitVec 12) (s : State) : exec (.claim b imm) s = execClaim b imm s := rfl
@[simp] theorem exec_flue (x : GReg) (g : Fin 8) (s : State) : exec (.flue x g) s = execFlue x g s := rfl
@[simp] theorem exec_send (a : SOpd) (t : XReg) (b : SOpd) (g : Fin 8) (s : State) : exec (.send a t b g) s = execSend a t b g s := rfl
@[simp] theorem exec_sendT (a : SOpd) (t : XReg) (b : SOpd) (g : Fin 8) (s : State) : exec (.sendT a t b g) s = execSendT a t b g s := rfl
@[simp] theorem exec_recv (d : XReg) (e : XReg) (f : Fin 8) (g : Fin 8) (s : State) : exec (.recv d e f g) s = execRecv d e f g s := rfl
@[simp] theorem exec_recvs (d : XReg) (x : XReg) (e : XReg) (f : Fin 8) (g : Fin 8) (s : State) : exec (.recvs d x e f g) s = execRecvs d x e f g s := rfl
@[simp] theorem exec_waitm (d : XReg) (x : XReg) (e : XReg) (f : Fin 8) (g : Fin 8) (s : State) : exec (.waitm d x e f g) s = execWaitm d x e f g s := rfl
@[simp] theorem exec_putr (idx : XReg) (t : XReg) (v : SOpd) (g : Fin 8) (s : State) : exec (.putr idx t v g) s = execPutr idx t v g s := rfl
@[simp] theorem exec_pclr (d : XReg) (g : Fin 8) (s : State) : exec (.pclr d g) s = execPclr d g s := rfl
@[simp] theorem exec_ptst (d : XReg) (x : XReg) (g : Fin 8) (s : State) : exec (.ptst d x g) s = execPtst d x g s := rfl
@[simp] theorem exec_qunbind (q : Fin 8) (g : Fin 8) (s : State) : exec (.qunbind q g) s = execQunbind q g s := rfl
@[simp] theorem exec_qpop (k : Fin 8) (q : Fin 8) (g : Fin 8) (s : State) : exec (.qpop k q g) s = execQpop k q g s := rfl
@[simp] theorem exec_qpush (k : Fin 8) (q : Fin 8) (g : Fin 8) (s : State) : exec (.qpush k q g) s = execQpush k q g s := rfl
@[simp] theorem exec_qstat (d : XReg) (q : Fin 8) (g : Fin 8) (s : State) : exec (.qstat d q g) s = execQstat d q g s := rfl
@[simp] theorem exec_qfwd (g : Fin 8) (s : State) : exec (.qfwd g) s = execQfwd g s := rfl
@[simp] theorem exec_qseam (d : XReg) (g : Fin 8) (s : State) : exec (.qseam d g) s = execQseam d g s := rfl
@[simp] theorem exec_qinherit (b : XReg) (n : XReg) (g : Fin 8) (s : State) : exec (.qinherit b n g) s = execQinherit b n g s := rfl
@[simp] theorem exec_markret (g : Fin 8) (s : State) : exec (.markret g) s = execMarkret g s := rfl
@[simp] theorem exec_pand (d : PReg) (a : PReg) (b : PReg) (g : Fin 8) (s : State) : exec (.pand d a b g) s = execPand d a b g s := rfl
@[simp] theorem exec_por (d : PReg) (a : PReg) (b : PReg) (g : Fin 8) (s : State) : exec (.por d a b g) s = execPor d a b g s := rfl
@[simp] theorem exec_pxor (d : PReg) (a : PReg) (b : PReg) (g : Fin 8) (s : State) : exec (.pxor d a b g) s = execPxor d a b g s := rfl
@[simp] theorem exec_pnot (d : PReg) (a : PReg) (g : Fin 8) (s : State) : exec (.pnot d a g) s = execPnot d a g s := rfl
@[simp] theorem exec_pmov (d : PReg) (a : PReg) (g : Fin 8) (s : State) : exec (.pmov d a g) s = execPmov d a g s := rfl
@[simp] theorem exec_bar (b : Fin 16) (sc : Scope) (g : Fin 8) (s : State) : exec (.bar b sc g) s = execBar b sc g s := rfl
@[simp] theorem exec_bara (d : XReg) (b : Fin 16) (sc : Scope) (g : Fin 8) (s : State) : exec (.bara d b sc g) s = execBara d b sc g s := rfl
@[simp] theorem exec_barw (x : XReg) (b : Fin 16) (sc : Scope) (g : Fin 8) (s : State) : exec (.barw x b sc g) s = execBarw x b sc g s := rfl
@[simp] theorem exec_emb (d : XReg) (g : Fin 8) (s : State) : exec (.emb d g) s = execEmb d g s := rfl
@[simp] theorem exec_embHearth (d : XReg) (g : Fin 8) (s : State) : exec (.embHearth d g) s = execEmbHearth d g s := rfl
@[simp] theorem exec_gang (n : Fin 8) (g : Fin 8) (s : State) : exec (.gang n g) s = execGang n g s := rfl
@[simp] theorem exec_gangw (g : Fin 8) (s : State) : exec (.gangw g) s = execGangw g s := rfl
@[simp] theorem exec_disband (g : Fin 8) (s : State) : exec (.disband g) s = execDisband g s := rfl
@[simp] theorem exec_tqpush (d : XReg) (w : XReg) (c : Fin 4) (g : Fin 8) (s : State) : exec (.tqpush d w c g) s = execTqpush d w c g s := rfl
@[simp] theorem exec_tqpop (d : XReg) (e : XReg) (g : Fin 8) (s : State) : exec (.tqpop d e g) s = execTqpop d e g s := rfl
@[simp] theorem exec_tqpeek (d : XReg) (e : XReg) (g : Fin 8) (s : State) : exec (.tqpeek d e g) s = execTqpeek d e g s := rfl
@[simp] theorem exec_sleep (d : XReg) (w : XReg) (t : XReg) (c : Fin 4) (g : Fin 8) (s : State) : exec (.sleep d w t c g) s = execSleep d w t c g s := rfl
@[simp] theorem exec_sleepW (d : XReg) (w : XReg) (t : XReg) (c : Fin 4) (g : Fin 8) (s : State) : exec (.sleepW d w t c g) s = execSleepW d w t c g s := rfl
@[simp] theorem exec_timer (d : XReg) (x : XReg) (g : Fin 8) (s : State) : exec (.timer d x g) s = execTimer d x g s := rfl
@[simp] theorem exec_timerAbs (d : XReg) (x : XReg) (g : Fin 8) (s : State) : exec (.timerAbs d x g) s = execTimerAbs d x g s := rfl
@[simp] theorem exec_timerOff (d : XReg) (g : Fin 8) (s : State) : exec (.timerOff d g) s = execTimerOff d g s := rfl
@[simp] theorem exec_mfs (d : XReg) (n : Fin 64) (g : Fin 8) (s : State) : exec (.mfs d n g) s = execMfs d n g s := rfl
@[simp] theorem exec_mts (x : XReg) (n : Fin 64) (g : Fin 8) (s : State) : exec (.mts x n g) s = execMts x n g s := rfl
@[simp] theorem exec_segld (b : XReg) (n : Fin 8) (g : Fin 8) (s : State) : exec (.segld b n g) s = execSegld b n g s := rfl
@[simp] theorem exec_segst (b : XReg) (n : Fin 8) (g : Fin 8) (s : State) : exec (.segst b n g) s = execSegst b n g s := rfl
@[simp] theorem exec_tlbi (x : XReg) (sc : Scope) (g : Fin 8) (s : State) : exec (.tlbi x sc g) s = execTlbi x sc g s := rfl
@[simp] theorem exec_pgrep (x : XReg) (g : Fin 8) (s : State) : exec (.pgrep x g) s = execPgrep x g s := rfl
@[simp] theorem exec_pgrepFail (x : XReg) (g : Fin 8) (s : State) : exec (.pgrepFail x g) s = execPgrepFail x g s := rfl
@[simp] theorem exec_anop (s : State) : exec .anop s = execAnop s := rfl
@[simp] theorem exec_fadd (ty : AFmt) (d : SOpd) (a : SOpd) (b : SOpd) (r : Rnd) (s : State) : exec (.fadd ty d a b r) s = execFadd ty d a b r s := rfl
@[simp] theorem exec_fsub (ty : AFmt) (d : SOpd) (a : SOpd) (b : SOpd) (r : Rnd) (s : State) : exec (.fsub ty d a b r) s = execFsub ty d a b r s := rfl
@[simp] theorem exec_fmul (ty : AFmt) (d : SOpd) (a : SOpd) (b : SOpd) (r : Rnd) (s : State) : exec (.fmul ty d a b r) s = execFmul ty d a b r s := rfl
@[simp] theorem exec_fma (ty : AFmt) (d : SOpd) (a : SOpd) (b : SOpd) (r : Rnd) (s : State) : exec (.fma ty d a b r) s = execFma ty d a b r s := rfl
@[simp] theorem exec_fdiv (ty : AFmt) (d : SOpd) (a : SOpd) (b : SOpd) (r : Rnd) (s : State) : exec (.fdiv ty d a b r) s = execFdiv ty d a b r s := rfl
@[simp] theorem exec_fsqrt (ty : AFmt) (d : SOpd) (a : SOpd) (r : Rnd) (s : State) : exec (.fsqrt ty d a r) s = execFsqrt ty d a r s := rfl
@[simp] theorem exec_fmin (ty : AFmt) (d : SOpd) (a : SOpd) (b : SOpd) (s : State) : exec (.fmin ty d a b) s = execFmin ty d a b s := rfl
@[simp] theorem exec_fmax (ty : AFmt) (d : SOpd) (a : SOpd) (b : SOpd) (s : State) : exec (.fmax ty d a b) s = execFmax ty d a b s := rfl
@[simp] theorem exec_fabs (ty : AFmt) (d : SOpd) (a : SOpd) (s : State) : exec (.fabs ty d a) s = execFabs ty d a s := rfl
@[simp] theorem exec_fneg (ty : AFmt) (d : SOpd) (a : SOpd) (s : State) : exec (.fneg ty d a) s = execFneg ty d a s := rfl
@[simp] theorem exec_fsgn (ty : AFmt) (d : SOpd) (a : SOpd) (b : SOpd) (s : State) : exec (.fsgn ty d a b) s = execFsgn ty d a b s := rfl
@[simp] theorem exec_fcmp (ty : AFmt) (d : SOpd) (a : SOpd) (b : SOpd) (s : State) : exec (.fcmp ty d a b) s = execFcmp ty d a b s := rfl
@[simp] theorem exec_fclass (ty : AFmt) (d : SOpd) (a : SOpd) (s : State) : exec (.fclass ty d a) s = execFclass ty d a s := rfl
@[simp] theorem exec_fcvtF (ty : FFmt) (d : SOpd) (a : SOpd) (src : Fmt) (r : Rnd) (s : State) : exec (.fcvtF ty d a src r) s = execFcvtF ty d a src r s := rfl
@[simp] theorem exec_fcvtI (ty : IFmt) (d : SOpd) (a : SOpd) (src : Fmt) (r : Rnd) (s : State) : exec (.fcvtI ty d a src r) s = execFcvtI ty d a src r s := rfl
@[simp] theorem exec_vaddF (ty : AFmt) (d : VOpd) (a : VOpd) (b : VOpd) (m : MReg) (r : Rnd) (s : State) : exec (.vaddF ty d a b m r) s = execVaddF ty d a b m r s := rfl
@[simp] theorem exec_vsubF (ty : AFmt) (d : VOpd) (a : VOpd) (b : VOpd) (m : MReg) (r : Rnd) (s : State) : exec (.vsubF ty d a b m r) s = execVsubF ty d a b m r s := rfl
@[simp] theorem exec_vmulF (ty : AFmt) (d : VOpd) (a : VOpd) (b : VOpd) (m : MReg) (r : Rnd) (s : State) : exec (.vmulF ty d a b m r) s = execVmulF ty d a b m r s := rfl
@[simp] theorem exec_vfma (ty : AFmt) (d : VReg) (a : VOpd) (b : VOpd) (m : MReg) (r : Rnd) (s : State) : exec (.vfma ty d a b m r) s = execVfma ty d a b m r s := rfl
@[simp] theorem exec_vfms (ty : AFmt) (d : VReg) (a : VOpd) (b : VOpd) (m : MReg) (r : Rnd) (s : State) : exec (.vfms ty d a b m r) s = execVfms ty d a b m r s := rfl
@[simp] theorem exec_vminF (ty : AFmt) (d : VOpd) (a : VOpd) (b : VOpd) (m : MReg) (s : State) : exec (.vminF ty d a b m) s = execVminF ty d a b m s := rfl
@[simp] theorem exec_vmaxF (ty : AFmt) (d : VOpd) (a : VOpd) (b : VOpd) (m : MReg) (s : State) : exec (.vmaxF ty d a b m) s = execVmaxF ty d a b m s := rfl
@[simp] theorem exec_vabsF (ty : AFmt) (d : VOpd) (a : VOpd) (m : MReg) (s : State) : exec (.vabsF ty d a m) s = execVabsF ty d a m s := rfl
@[simp] theorem exec_vnegF (ty : AFmt) (d : VOpd) (a : VOpd) (m : MReg) (s : State) : exec (.vnegF ty d a m) s = execVnegF ty d a m s := rfl
@[simp] theorem exec_vdiv (ty : AFmt) (d : VOpd) (a : VOpd) (b : VOpd) (m : MReg) (r : Rnd) (s : State) : exec (.vdiv ty d a b m r) s = execVdiv ty d a b m r s := rfl
@[simp] theorem exec_vsqrt (ty : AFmt) (d : VOpd) (a : VOpd) (m : MReg) (r : Rnd) (s : State) : exec (.vsqrt ty d a m r) s = execVsqrt ty d a m r s := rfl
@[simp] theorem exec_vrcp (ty : AFmt) (d : VOpd) (a : VOpd) (m : MReg) (r : Rnd) (s : State) : exec (.vrcp ty d a m r) s = execVrcp ty d a m r s := rfl
@[simp] theorem exec_vrsq (ty : AFmt) (d : VOpd) (a : VOpd) (m : MReg) (r : Rnd) (s : State) : exec (.vrsq ty d a m r) s = execVrsq ty d a m r s := rfl
@[simp] theorem exec_vdotF (ty : DFmt) (d : VReg) (a : VOpd) (b : VOpd) (m : MReg) (r : Rnd) (s : State) : exec (.vdotF ty d a b m r) s = execVdotF ty d a b m r s := rfl
@[simp] theorem exec_vexp2 (ty : AFmt) (d : VOpd) (a : VOpd) (m : MReg) (s : State) : exec (.vexp2 ty d a m) s = execVexp2 ty d a m s := rfl
@[simp] theorem exec_vlog2 (ty : AFmt) (d : VOpd) (a : VOpd) (m : MReg) (s : State) : exec (.vlog2 ty d a m) s = execVlog2 ty d a m s := rfl
@[simp] theorem exec_vsin (ty : AFmt) (d : VOpd) (a : VOpd) (m : MReg) (s : State) : exec (.vsin ty d a m) s = execVsin ty d a m s := rfl
@[simp] theorem exec_vcos (ty : AFmt) (d : VOpd) (a : VOpd) (m : MReg) (s : State) : exec (.vcos ty d a m) s = execVcos ty d a m s := rfl
@[simp] theorem exec_vtanh (ty : AFmt) (d : VOpd) (a : VOpd) (m : MReg) (s : State) : exec (.vtanh ty d a m) s = execVtanh ty d a m s := rfl
@[simp] theorem exec_vand (ty : VFmt) (d : VOpd) (a : VOpd) (b : VOpd) (m : MReg) (s : State) : exec (.vand ty d a b m) s = execVand ty d a b m s := rfl
@[simp] theorem exec_vor (ty : VFmt) (d : VOpd) (a : VOpd) (b : VOpd) (m : MReg) (s : State) : exec (.vor ty d a b m) s = execVor ty d a b m s := rfl
@[simp] theorem exec_vxor (ty : VFmt) (d : VOpd) (a : VOpd) (b : VOpd) (m : MReg) (s : State) : exec (.vxor ty d a b m) s = execVxor ty d a b m s := rfl
@[simp] theorem exec_vshl (ty : VFmt) (d : VOpd) (a : VOpd) (b : VOpd) (m : MReg) (s : State) : exec (.vshl ty d a b m) s = execVshl ty d a b m s := rfl
@[simp] theorem exec_vshr (ty : VFmt) (d : VOpd) (a : VOpd) (b : VOpd) (m : MReg) (s : State) : exec (.vshr ty d a b m) s = execVshr ty d a b m s := rfl
@[simp] theorem exec_vsha (ty : VFmt) (d : VOpd) (a : VOpd) (b : VOpd) (m : MReg) (s : State) : exec (.vsha ty d a b m) s = execVsha ty d a b m s := rfl
@[simp] theorem exec_vcmpF (ty : AFmt) (md : Fin 64) (a : VOpd) (b : VOpd) (m : MReg) (s : State) : exec (.vcmpF ty md a b m) s = execVcmpF ty md a b m s := rfl
@[simp] theorem exec_vsel (ty : VFmt) (d : VOpd) (a : VOpd) (b : VOpd) (m : MReg) (s : State) : exec (.vsel ty d a b m) s = execVsel ty d a b m s := rfl
@[simp] theorem exec_vcvtF (ty : FFmt) (d : VOpd) (a : VOpd) (src : PSrc) (m : MReg) (r : Rnd) (s : State) : exec (.vcvtF ty d a src m r) s = execVcvtF ty d a src m r s := rfl
@[simp] theorem exec_vbcast (ty : VFmt) (d : VOpd) (x : SOpd) (m : MReg) (s : State) : exec (.vbcast ty d x m) s = execVbcast ty d x m s := rfl
@[simp] theorem exec_vperm (ty : VFmt) (d : VOpd) (a : VOpd) (b : VOpd) (m : MReg) (s : State) : exec (.vperm ty d a b m) s = execVperm ty d a b m s := rfl
@[simp] theorem exec_vredF (ty : AFmt) (d : VOpd) (a : VOpd) (op : ROp) (m : MReg) (r : Rnd) (s : State) : exec (.vredF ty d a op m r) s = execVredF ty d a op m r s := rfl
@[simp] theorem exec_vcntF (ty : FFmt) (d : SOpd) (a : VOpd) (m : MReg) (s : State) : exec (.vcntF ty d a m) s = execVcntF ty d a m s := rfl
@[simp] theorem exec_visabF (ty : FFmt) (md : Fin 4) (a : VOpd) (m : MReg) (s : State) : exec (.visabF ty md a m) s = execVisabF ty md a m s := rfl
@[simp] theorem exec_vmkabF (ty : FFmt) (d : VOpd) (a : VOpd) (n : XReg) (m : MReg) (s : State) : exec (.vmkabF ty d a n m) s = execVmkabF ty d a n m s := rfl
@[simp] theorem exec_vmov (ty : VFmt) (d : VOpd) (a : VOpd) (m : MReg) (s : State) : exec (.vmov ty d a m) s = execVmov ty d a m s := rfl
@[simp] theorem exec_vmovToMask (md : Fin 4) (x : XReg) (s : State) : exec (.vmovToMask md x) s = execVmovToMask md x s := rfl
@[simp] theorem exec_vmovFromMask (d : XReg) (ms : Fin 4) (s : State) : exec (.vmovFromMask d ms) s = execVmovFromMask d ms s := rfl
@[simp] theorem exec_vext (ty : VFmt) (d : SOpd) (a : VOpd) (ix : XReg) (m : MReg) (s : State) : exec (.vext ty d a ix m) s = execVext ty d a ix m s := rfl
@[simp] theorem exec_vins (ty : VFmt) (d : VReg) (x : SOpd) (ix : XReg) (m : MReg) (s : State) : exec (.vins ty d x ix m) s = execVins ty d x ix m s := rfl
@[simp] theorem exec_xld (d : VReg) (a : VReg) (dp : Fin 32) (m : MReg) (s : State) : exec (.xld d a dp m) s = execXld d a dp m s := rfl
@[simp] theorem exec_vrngF (ty : AFmt) (d : VOpd) (k : XReg) (ix : XReg) (m : MReg) (s : State) : exec (.vrngF ty d k ix m) s = execVrngF ty d k ix m s := rfl
@[simp] theorem exec_vaddI (ty : VFmt) (d : VOpd) (a : VOpd) (b : VOpd) (m : MReg) (s : State) : exec (.vaddI ty d a b m) s = execVaddI ty d a b m s := rfl
@[simp] theorem exec_vsubI (ty : VFmt) (d : VOpd) (a : VOpd) (b : VOpd) (m : MReg) (s : State) : exec (.vsubI ty d a b m) s = execVsubI ty d a b m s := rfl
@[simp] theorem exec_vmulI (ty : VFmt) (d : VOpd) (a : VOpd) (b : VOpd) (m : MReg) (s : State) : exec (.vmulI ty d a b m) s = execVmulI ty d a b m s := rfl
@[simp] theorem exec_vminI (ty : VFmt) (d : VOpd) (a : VOpd) (b : VOpd) (m : MReg) (s : State) : exec (.vminI ty d a b m) s = execVminI ty d a b m s := rfl
@[simp] theorem exec_vmaxI (ty : VFmt) (d : VOpd) (a : VOpd) (b : VOpd) (m : MReg) (s : State) : exec (.vmaxI ty d a b m) s = execVmaxI ty d a b m s := rfl
@[simp] theorem exec_vabsI (ty : VFmt) (d : VOpd) (a : VOpd) (m : MReg) (s : State) : exec (.vabsI ty d a m) s = execVabsI ty d a m s := rfl
@[simp] theorem exec_vnegI (ty : VFmt) (d : VOpd) (a : VOpd) (m : MReg) (s : State) : exec (.vnegI ty d a m) s = execVnegI ty d a m s := rfl
@[simp] theorem exec_vdotI (ty : DIFmt) (d : VReg) (a : VOpd) (b : VOpd) (m : MReg) (s : State) : exec (.vdotI ty d a b m) s = execVdotI ty d a b m s := rfl
@[simp] theorem exec_vcmpI (ty : VFmt) (md : Fin 64) (a : VOpd) (b : VOpd) (m : MReg) (s : State) : exec (.vcmpI ty md a b m) s = execVcmpI ty md a b m s := rfl
@[simp] theorem exec_vcvtI (ty : IFmt) (d : VOpd) (a : VOpd) (src : PSrc) (m : MReg) (r : Rnd) (s : State) : exec (.vcvtI ty d a src m r) s = execVcvtI ty d a src m r s := rfl
@[simp] theorem exec_vredI (ty : VFmt) (d : VOpd) (a : VOpd) (op : ROp) (m : MReg) (s : State) : exec (.vredI ty d a op m) s = execVredI ty d a op m s := rfl
@[simp] theorem exec_vcntI (ty : VFmt) (d : SOpd) (a : VOpd) (m : MReg) (s : State) : exec (.vcntI ty d a m) s = execVcntI ty d a m s := rfl
@[simp] theorem exec_visabI (ty : VFmt) (md : Fin 4) (a : VOpd) (m : MReg) (s : State) : exec (.visabI ty md a m) s = execVisabI ty md a m s := rfl
@[simp] theorem exec_vmkabI (ty : VFmt) (d : VOpd) (a : VOpd) (n : XReg) (m : MReg) (s : State) : exec (.vmkabI ty d a n m) s = execVmkabI ty d a n m s := rfl
@[simp] theorem exec_vrngI (ty : VFmt) (d : VOpd) (k : XReg) (ix : XReg) (m : MReg) (s : State) : exec (.vrngI ty d k ix m) s = execVrngI ty d k ix m s := rfl
@[simp] theorem exec_movw (d : XReg) (hi : BitVec 16) (lo : BitVec 32) (s : State) : exec (.movw d hi lo) s = execMovw d hi lo s := rfl
@[simp] theorem exec_movwHi (d : XReg) (imm : BitVec 16) (s : State) : exec (.movwHi d imm) s = execMovwHi d imm s := rfl
@[simp] theorem exec_qbind (q : Fin 8) (kind : Fin 4) (sz : Fin 4) (lc : Fin 8) (d : XReg) (a : XReg) (s : State) : exec (.qbind q kind sz lc d a) s = execQbind q kind sz lc d a s := rfl
@[simp] theorem exec_spliceInsert (q : Fin 8) (inh : Fin 4) (snum : BitVec 16) (target : BitVec 12) (newstage : BitVec 12) (nt : XReg) (s : State) : exec (.spliceInsert q inh snum target newstage nt) s = execSpliceInsert q inh snum target newstage nt s := rfl
@[simp] theorem exec_spliceRemove (q : Fin 8) (snum : BitVec 16) (target : BitVec 12) (s : State) : exec (.spliceRemove q snum target) s = execSpliceRemove q snum target s := rfl
@[simp] theorem exec_spliceRebind (q : Fin 8) (inh : Fin 4) (snum : BitVec 16) (target : BitVec 12) (newstage : BitVec 12) (nt : XReg) (s : State) : exec (.spliceRebind q inh snum target newstage nt) s = execSpliceRebind q inh snum target newstage nt s := rfl
@[simp] theorem exec_launch (d : XReg) (a : XReg) (q : XReg) (s : State) : exec (.launch d a q) s = execLaunch d a q s := rfl
@[simp] theorem exec_bari (sc : Scope) (b : Fin 16) (d : XReg) (a : XReg) (s : State) : exec (.bari sc b d a) s = execBari sc b d a s := rfl
@[simp] theorem exec_tmov (t : XReg) (da : XReg) (sa : XReg) (sh : XReg) (s : State) : exec (.tmov t da sa sh) s = execTmov t da sa sh s := rfl
@[simp] theorem exec_plane (t : XReg) (da : XReg) (sa : XReg) (ct : XReg) (s : State) : exec (.plane t da sa ct) s = execPlane t da sa ct s := rfl
@[simp] theorem exec_bcpy (d : XReg) (mb : Fin 4) (s : State) : exec (.bcpy d mb) s = execBcpy d mb s := rfl
@[simp] theorem exec_gath (d : XReg) (mb : Fin 4) (s : State) : exec (.gath d mb) s = execGath d mb s := rfl
@[simp] theorem exec_scat (d : XReg) (mb : Fin 4) (s : State) : exec (.scat d mb) s = execScat d mb s := rfl
@[simp] theorem exec_coll (d : XReg) (mb : Fin 4) (s : State) : exec (.coll d mb) s = execColl d mb s := rfl
@[simp] theorem exec_mdrain (mode : Fin 4) (cls : Fin 2) (ty : Fin 8) (rm : Fin 4) (wrap : Fin 2) (clr : Fin 2) (t : XReg) (ad : XReg) (st : XReg) (s : State) : exec (.mdrain mode cls ty rm wrap clr t ad st) s = execMdrain mode cls ty rm wrap clr t ad st s := rfl
@[simp] theorem exec_mloadFlt (t : XReg) (ad : XReg) (st : XReg) (s : State) : exec (.mloadFlt t ad st) s = execMloadFlt t ad st s := rfl
@[simp] theorem exec_mloadInt (t : XReg) (ad : XReg) (st : XReg) (s : State) : exec (.mloadInt t ad st) s = execMloadInt t ad st s := rfl
@[simp] theorem exec_mmaF4F4 (t : XReg) (da : XReg) (db : XReg) (n : Fin 32) (s : State) : exec (.mmaF4F4 t da db n) s = execMmaF4F4 t da db n s := rfl
@[simp] theorem exec_mmaE4E4 (t : XReg) (da : XReg) (db : XReg) (n : Fin 32) (s : State) : exec (.mmaE4E4 t da db n) s = execMmaE4E4 t da db n s := rfl
@[simp] theorem exec_mmaE5E5 (t : XReg) (da : XReg) (db : XReg) (n : Fin 32) (s : State) : exec (.mmaE5E5 t da db n) s = execMmaE5E5 t da db n s := rfl
@[simp] theorem exec_mmaE4E5 (t : XReg) (da : XReg) (db : XReg) (n : Fin 32) (s : State) : exec (.mmaE4E5 t da db n) s = execMmaE4E5 t da db n s := rfl
@[simp] theorem exec_mmaE5E4 (t : XReg) (da : XReg) (db : XReg) (n : Fin 32) (s : State) : exec (.mmaE5E4 t da db n) s = execMmaE5E4 t da db n s := rfl
@[simp] theorem exec_mmaBF16BF16 (t : XReg) (da : XReg) (db : XReg) (n : Fin 32) (s : State) : exec (.mmaBF16BF16 t da db n) s = execMmaBF16BF16 t da db n s := rfl
@[simp] theorem exec_mmaF16F16 (t : XReg) (da : XReg) (db : XReg) (n : Fin 32) (s : State) : exec (.mmaF16F16 t da db n) s = execMmaF16F16 t da db n s := rfl
@[simp] theorem exec_mmaBF16F4 (t : XReg) (da : XReg) (db : XReg) (n : Fin 32) (s : State) : exec (.mmaBF16F4 t da db n) s = execMmaBF16F4 t da db n s := rfl
@[simp] theorem exec_mmaBF16E4 (t : XReg) (da : XReg) (db : XReg) (n : Fin 32) (s : State) : exec (.mmaBF16E4 t da db n) s = execMmaBF16E4 t da db n s := rfl
@[simp] theorem exec_mmaBF16TS8 (t : XReg) (da : XReg) (db : XReg) (n : Fin 32) (s : State) : exec (.mmaBF16TS8 t da db n) s = execMmaBF16TS8 t da db n s := rfl
@[simp] theorem exec_mmaE4TS8 (t : XReg) (da : XReg) (db : XReg) (n : Fin 32) (s : State) : exec (.mmaE4TS8 t da db n) s = execMmaE4TS8 t da db n s := rfl
@[simp] theorem exec_mmaI8I8 (t : XReg) (da : XReg) (db : XReg) (n : Fin 32) (s : State) : exec (.mmaI8I8 t da db n) s = execMmaI8I8 t da db n s := rfl
@[simp] theorem exec_boundaryTrap (tid : Nat) (s : State) : exec (.boundaryTrap tid) s = execBoundaryTrap tid s := rfl
@[simp] theorem exec_timerExpiry (tid : Nat) (s : State) : exec (.timerExpiry tid) s = execTimerExpiry tid s := rfl
@[simp] theorem exec_xldTimeout (tid : Nat) (s : State) : exec (.xldTimeout tid) s = execXldTimeout tid s := rfl
@[simp] theorem exec_tableWalk (id : Nat) (s : State) : exec (.tableWalk id) s = execTableWalk id s := rfl
@[simp] theorem exec_faultMessage (id : Nat) (s : State) : exec (.faultMessage id) s = execFaultMessage id s := rfl
@[simp] theorem exec_pagerReply (id : Nat) (s : State) : exec (.pagerReply id) s = execPagerReply id s := rfl
@[simp] theorem exec_eccUncorrectableError (key : Nat) (s : State) : exec (.eccUncorrectableError key) s = execEccUncorrectableError key s := rfl
@[simp] theorem exec_softError (key : Nat) (s : State) : exec (.softError key) s = execSoftError key s := rfl
@[simp] theorem exec_farNetForward (die : Nat) (stage : Nat) (sw : Nat) (out : Nat) (s : State) : exec (.farNetForward die stage sw out) s = execFarNetForward die stage sw out s := rfl
@[simp] theorem exec_switchPowerDown (die : Nat) (stage : Nat) (sw : Nat) (s : State) : exec (.switchPowerDown die stage sw) s = execSwitchPowerDown die stage sw s := rfl
@[simp] theorem exec_memoryAccessAtHome (id : Nat) (s : State) : exec (.memoryAccessAtHome id) s = execMemoryAccessAtHome id s := rfl
@[simp] theorem exec_loadReply (id : Nat) (s : State) : exec (.loadReply id) s = execLoadReply id s := rfl
@[simp] theorem exec_putArrival (id : Nat) (s : State) : exec (.putArrival id) s = execPutArrival id s := rfl
@[simp] theorem exec_putAcknowledgement (id : Nat) (s : State) : exec (.putAcknowledgement id) s = execPutAcknowledgement id s := rfl
@[simp] theorem exec_remoteRegisterWrite (id : Nat) (s : State) : exec (.remoteRegisterWrite id) s = execRemoteRegisterWrite id s := rfl
@[simp] theorem exec_deliveryLanding (id : Nat) (s : State) : exec (.deliveryLanding id) s = execDeliveryLanding id s := rfl
@[simp] theorem exec_syncAccessArrival (id : Nat) (s : State) : exec (.syncAccessArrival id) s = execSyncAccessArrival id s := rfl
@[simp] theorem exec_syncRetryTick (s : State) : exec .syncRetryTick s = execSyncRetryTick s := rfl
@[simp] theorem exec_syncReissue (id : Nat) (s : State) : exec (.syncReissue id) s = execSyncReissue id s := rfl
@[simp] theorem exec_storeDrain (tid : Nat) (s : State) : exec (.storeDrain tid) s = execStoreDrain tid s := rfl
@[simp] theorem exec_sendDeparture (id : Nat) (s : State) : exec (.sendDeparture id) s = execSendDeparture id s := rfl
@[simp] theorem exec_inboxArrival (id : Nat) (s : State) : exec (.inboxArrival id) s = execInboxArrival id s := rfl
@[simp] theorem exec_inboxRetry (id : Nat) (s : State) : exec (.inboxRetry id) s = execInboxRetry id s := rfl
@[simp] theorem exec_ringRecordArrival (id : Nat) (s : State) : exec (.ringRecordArrival id) s = execRingRecordArrival id s := rfl
@[simp] theorem exec_ringCreditReturn (id : Nat) (s : State) : exec (.ringCreditReturn id) s = execRingCreditReturn id s := rfl
@[simp] theorem exec_seamTake (tid : Nat) (q : Nat) (s : State) : exec (.seamTake tid q) s = execSeamTake tid q s := rfl
@[simp] theorem exec_drainThrough (tid : Nat) (s : State) : exec (.drainThrough tid) s = execDrainThrough tid s := rfl
@[simp] theorem exec_inheritanceCopy (tid : Nat) (s : State) : exec (.inheritanceCopy tid) s = execInheritanceCopy tid s := rfl
@[simp] theorem exec_spliceMessage (id : Nat) (s : State) : exec (.spliceMessage id) s = execSpliceMessage id s := rfl
@[simp] theorem exec_windowSpill (tid : Nat) (s : State) : exec (.windowSpill tid) s = execWindowSpill tid s := rfl
@[simp] theorem exec_windowFill (tid : Nat) (s : State) : exec (.windowFill tid) s = execWindowFill tid s := rfl
@[simp] theorem exec_tileMoveCompletion (id : Nat) (s : State) : exec (.tileMoveCompletion id) s = execTileMoveCompletion id s := rfl
@[simp] theorem exec_planeCompletion (id : Nat) (s : State) : exec (.planeCompletion id) s = execPlaneCompletion id s := rfl
@[simp] theorem exec_completionMessage (id : Nat) (s : State) : exec (.completionMessage id) s = execCompletionMessage id s := rfl
@[simp] theorem exec_collTimeout (id : Nat) (s : State) : exec (.collTimeout id) s = execCollTimeout id s := rfl
@[simp] theorem exec_matrixBlock (unit : Nat) (s : State) : exec (.matrixBlock unit) s = execMatrixBlock unit s := rfl
@[simp] theorem exec_matrixCommandCompletion (id : Nat) (s : State) : exec (.matrixCommandCompletion id) s = execMatrixCommandCompletion id s := rfl
@[simp] theorem exec_matrixRampDown (unit : Nat) (s : State) : exec (.matrixRampDown unit) s = execMatrixRampDown unit s := rfl
@[simp] theorem exec_hintedRampUp (unit : Nat) (s : State) : exec (.hintedRampUp unit) s = execHintedRampUp unit s := rfl
@[simp] theorem exec_barrierRelease (tid : Nat) (s : State) : exec (.barrierRelease tid) s = execBarrierRelease tid s := rfl
@[simp] theorem exec_emberRedistribution (pkg : Nat) (s : State) : exec (.emberRedistribution pkg) s = execEmberRedistribution pkg s := rfl
@[simp] theorem exec_waitCycle (id : Nat) (s : State) : exec (.waitCycle id) s = execWaitCycle id s := rfl
@[simp] theorem exec_opChange (hearth : Nat) (s : State) : exec (.opChange hearth) s = execOpChange hearth s := rfl
@[simp] theorem exec_ceilLower (pkg : Nat) (s : State) : exec (.ceilLower pkg) s = execCeilLower pkg s := rfl
@[simp] theorem exec_ceilRaise (pkg : Nat) (s : State) : exec (.ceilRaise pkg) s = execCeilRaise pkg s := rfl
@[simp] theorem exec_opthrWrite (pkg : Nat) (hi : Bool) (v : BitVec 64) (s : State) : exec (.opthrWrite pkg hi v) s = execOpthrWrite pkg hi v s := rfl
@[simp] theorem exec_ceilWrite (pkg : Nat) (v : BitVec 64) (s : State) : exec (.ceilWrite pkg v) s = execCeilWrite pkg v s := rfl
@[simp] theorem exec_bstatCycClear (pkg : Nat) (s : State) : exec (.bstatCycClear pkg) s = execBstatCycClear pkg s := rfl
@[simp] theorem exec_qrecCommit (pkg : Nat) (q : Nat) (v : BitVec 64) (s : State) : exec (.qrecCommit pkg q v) s = execQrecCommit pkg q v s := rfl
@[simp] theorem exec_dispatcherRanking (pkg : Nat) (s : State) : exec (.dispatcherRanking pkg) s = execDispatcherRanking pkg s := rfl
@[simp] theorem exec_slotVacate (tid : Nat) (s : State) : exec (.slotVacate tid) s = execSlotVacate tid s := rfl
@[simp] theorem exec_groupRetirement (pkg : Nat) (grp : Nat) (s : State) : exec (.groupRetirement pkg grp) s = execGroupRetirement pkg grp s := rfl
@[simp] theorem exec_completionCounterWrite (pkg : Nat) (ctr : Nat) (v : BitVec 32) (s : State) : exec (.completionCounterWrite pkg ctr v) s = execCompletionCounterWrite pkg ctr v s := rfl
@[simp] theorem exec_preemption (pkg : Nat) (grp : Nat) (s : State) : exec (.preemption pkg grp) s = execPreemption pkg grp s := rfl
@[simp] theorem exec_groupResume (pkg : Nat) (grp : Nat) (s : State) : exec (.groupResume pkg grp) s = execGroupResume pkg grp s := rfl
@[simp] theorem exec_ctxsResultMessage (id : Nat) (s : State) : exec (.ctxsResultMessage id) s = execCtxsResultMessage id s := rfl
@[simp] theorem exec_hostWrite (pkg : Nat) (win : Option Nat) (off : Nat) (bytes : List (BitVec 8)) (s : State) : exec (.hostWrite pkg win off bytes) s = execHostWrite pkg win off bytes s := rfl
@[simp] theorem exec_hostRead (pkg : Nat) (win : Option Nat) (off : Nat) (n : Nat) (s : State) : exec (.hostRead pkg win off n) s = execHostRead pkg win off n s := rfl
@[simp] theorem exec_tenantRefused (id : Nat) (s : State) : exec (.tenantRefused id) s = execTenantRefused id s := rfl
@[simp] theorem exec_fabricDown (id : Nat) (s : State) : exec (.fabricDown id) s = execFabricDown id s := rfl
@[simp] theorem exec_powerAlarm (id : Nat) (s : State) : exec (.powerAlarm id) s = execPowerAlarm id s := rfl
@[simp] theorem exec_flitRetransmit (pkg : Nat) (port : Nat) (s : State) : exec (.flitRetransmit pkg port) s = execFlitRetransmit pkg port s := rfl
@[simp] theorem exec_linkLoss (pkg : Nat) (port : Nat) (s : State) : exec (.linkLoss pkg port) s = execLinkLoss pkg port s := rfl
@[simp] theorem exec_linkRestore (pkg : Nat) (port : Nat) (s : State) : exec (.linkRestore pkg port) s = execLinkRestore pkg port s := rfl
@[simp] theorem exec_ftmoExpiry (pkg : Nat) (port : Nat) (s : State) : exec (.ftmoExpiry pkg port) s = execFtmoExpiry pkg port s := rfl
@[simp] theorem exec_crackedConnectionAlarm (pkg : Nat) (pred : BitVec 16) (vin : BitVec 16) (s : State) : exec (.crackedConnectionAlarm pkg pred vin) s = execCrackedConnectionAlarm pkg pred vin s := rfl
@[simp] theorem exec_pwralmAlarmClear (pkg : Nat) (s : State) : exec (.pwralmAlarmClear pkg) s = execPwralmAlarmClear pkg s := rfl
@[simp] theorem exec_monitorReport (pkg : Nat) (hearth : Nat) (temp : BitVec 16) (mv : BitVec 16) (x : Readings) (s : State) : exec (.monitorReport pkg hearth temp mv x) s = execMonitorReport pkg hearth temp mv x s := rfl
@[simp] theorem exec_powerStateEntry (pkg : Nat) (s : State) : exec (.powerStateEntry pkg) s = execPowerStateEntry pkg s := rfl
@[simp] theorem exec_powerStateWake (pkg : Nat) (s : State) : exec (.powerStateWake pkg) s = execPowerStateWake pkg s := rfl
@[simp] theorem exec_deviceReset (pkg : Nat) (step : BootStep) (bytes : List (BitVec 8)) (s : State) : exec (.deviceReset pkg step bytes) s = execDeviceReset pkg step bytes s := rfl
@[simp] theorem exec_attestationStart (pkg : Nat) (s : State) : exec (.attestationStart pkg) s = execAttestationStart pkg s := rfl
@[simp] theorem exec_attestationComplete (pkg : Nat) (s : State) : exec (.attestationComplete pkg) s = execAttestationComplete pkg s := rfl
@[simp] theorem exec_mirmorStop (tid : Nat) (s : State) : exec (.mirmorStop tid) s = execMirmorStop tid s := rfl
@[simp] theorem exec_mirmorResume (tid : Nat) (s : State) : exec (.mirmorResume tid) s = execMirmorResume tid s := rfl
@[simp] theorem exec_mirmorStep (tid : Nat) (s : State) : exec (.mirmorStep tid) s = execMirmorStep tid s := rfl
@[simp] theorem exec_mirmorHalt (pkg : Nat) (s : State) : exec (.mirmorHalt pkg) s = execMirmorHalt pkg s := rfl
@[simp] theorem exec_mirmorRelease (pkg : Nat) (s : State) : exec (.mirmorRelease pkg) s = execMirmorRelease pkg s := rfl
@[simp] theorem exec_brkstopOn (pkg : Nat) (grp : Nat) (s : State) : exec (.brkstopOn pkg grp) s = execBrkstopOn pkg grp s := rfl
@[simp] theorem exec_brkstopOff (pkg : Nat) (grp : Nat) (s : State) : exec (.brkstopOff pkg grp) s = execBrkstopOff pkg grp s := rfl
@[simp] theorem exec_mirmorThreadRecordWrite (pkg : Nat) (off : Nat) (v : BitVec 64) (s : State) : exec (.mirmorThreadRecordWrite pkg off v) s = execMirmorThreadRecordWrite pkg off v s := rfl
@[simp] theorem exec_trctlWrite (pkg : Nat) (v : BitVec 64) (s : State) : exec (.trctlWrite pkg v) s = execTrctlWrite pkg v s := rfl
@[simp] theorem exec_acctFreeze (cid : Nat) (v : Bool) (s : State) : exec (.acctFreeze cid v) s = execAcctFreeze cid v s := rfl
@[simp] theorem exec_acctZero (cid : Nat) (s : State) : exec (.acctZero cid) s = execAcctZero cid s := rfl
@[simp] theorem exec_registerWrite (pkg : Nat) (off : Nat) (v : BitVec 64) (s : State) : exec (.registerWrite pkg off v) s = execRegisterWrite pkg off v s := rfl
@[simp] theorem exec_tlbiCompletion (id : Nat) (s : State) : exec (.tlbiCompletion id) s = execTlbiCompletion id s := rfl
@[simp] theorem exec_statusAnswerArrival (id : Nat) (s : State) : exec (.statusAnswerArrival id) s = execStatusAnswerArrival id s := rfl
@[simp] theorem exec_switchWake (die : Nat) (stage : Nat) (sw : Nat) (s : State) : exec (.switchWake die stage sw) s = execSwitchWake die stage sw s := rfl
@[simp] theorem exec_idleCycle (cid : Nat) (s : State) : exec (.idleCycle cid) s = execIdleCycle cid s := rfl
@[simp] theorem exec_firmwareThreadStart (f : FwStart) (s : State) : exec (.firmwareThreadStart f) s = execFirmwareThreadStart f s := rfl

end Sys2Proof.Machine
end

