-- ==== Sys2Proof/Laws/Encoding.lean ====
section
/-! SUPPORT. Laws/Encoding.lean: every field code is read back as what it stands for, and every slot word as its fields. -/
namespace Sys2Proof

/-! ### Field codes -/

@[simp] theorem finOf_val {k : Nat} (x : Fin k) : finOf k x.val = some x := by simp [finOf]

@[simp] theorem is_self (v : Nat) : is v v = some () := by simp [is]

@[simp] theorem sOpd_code (o : SOpd) : sOpd o.code = some o := by
  cases o with
  | r i => exact (by decide : ∀ i : Fin 32, sOpd (SOpd.r i).code = some (.r i)) i
  | q n k => exact (by decide : ∀ (n : Fin 8) (k : Fin 2), sOpd (SOpd.q n k).code = some (.q n k)) n k

@[simp] theorem vOpd_code (o : VOpd) : vOpd o.code = some o := by
  cases o with
  | v i => exact (by decide : ∀ i : Fin 16, vOpd (VOpd.v i).code = some (.v i)) i
  | q n k => exact (by decide : ∀ (n : Fin 8) (k : Fin 2), vOpd (VOpd.q n k).code = some (.q n k)) n k

@[simp] theorem vReg_code (i : VReg) : vReg (32 + i.val) = some i := by
  have h : 32 + i.val - 32 = i.val := by omega
  simp [vReg]

@[simp] theorem scope_code (x : Scope) : scope x.code = some x := by cases x <;> rfl
@[simp] theorem aFmt_code (x : AFmt) : aFmt x.code = some x := by cases x <;> rfl
@[simp] theorem fFmt_code (x : FFmt) : fFmt x.code = some x := by cases x <;> rfl
@[simp] theorem iFmt_code (x : IFmt) : iFmt x.code = some x := by cases x <;> rfl
@[simp] theorem vFmt_code (x : VFmt) : vFmt x.code = some x := by cases x <;> rfl
@[simp] theorem dFmt_code (x : DFmt) : dFmt x.code = some x := by cases x <;> rfl
@[simp] theorem diFmt_code (x : DIFmt) : diFmt x.code = some x := by cases x <;> rfl
@[simp] theorem srcFmt_code (x : Fmt) : srcFmt x.code = some x := by cases x <;> rfl
@[simp] theorem rOp_code (x : ROp) : rOp x.code = some x := by cases x <;> rfl
@[simp] theorem rnd_code (x : Rnd) : rnd x.code = some x := by cases x <;> rfl
@[simp] theorem flag_toNat (b : Bool) : flag b.toNat = some b := by cases b <;> rfl
@[simp] theorem hi4_code (x : Fin 4) : hi4 (4 + x.val) = some x := by simp [hi4]

theorem Fmt.code_lt (x : Fmt) : x.code < 16 := by cases x <;> decide

@[simp] theorem pSrc_code (x : PSrc) : pSrc x.code = some x := by
  have h := Fmt.code_lt x.fmt
  have h1 : x.code / 16 = x.part.val := by simp only [PSrc.code]; omega
  have h2 : x.code % 16 = x.fmt.code := by simp only [PSrc.code]; omega
  simp [pSrc, h1, h2]

/-! ### Ranges of the codes -/

theorem SOpd.code_lt (x : SOpd) : x.code < 64 := by
  rcases x with i | ⟨n, k⟩ <;> simp only [SOpd.code] <;> omega
theorem VOpd.code_lt (x : VOpd) : x.code < 64 := by
  rcases x with i | ⟨n, k⟩ <;> simp only [VOpd.code] <;> omega
theorem Scope.code_lt (x : Scope) : x.code < 7 := by cases x <;> decide
theorem AFmt.code_lt (x : AFmt) : x.code < 4 := by cases x <;> decide
theorem FFmt.code_lt (x : FFmt) : x.code < 8 := by cases x <;> decide
theorem IFmt.code_lt (x : IFmt) : x.code < 8 := by cases x <;> decide
theorem VFmt.code_lt (x : VFmt) : x.code < 8 := by cases x <;> decide
theorem DFmt.code_lt (x : DFmt) : x.code < 8 := by cases x <;> decide
theorem DIFmt.code_lt (x : DIFmt) : x.code < 8 := by cases x <;> decide
theorem PSrc.code_lt (x : PSrc) : x.code < 64 := by
  have := Fmt.code_lt x.fmt
  simp only [PSrc.code]; omega
theorem ROp.code_lt (x : ROp) : x.code < 4 := by cases x <;> decide
theorem Rnd.code_lt (x : Rnd) : x.code < 4 := by cases x <;> decide

/-! ### Fields of the C-I and C-B layouts -/

theorem CWord.imm_ofI (op d s : Nat) (imm : BitVec 12) : (CWord.ofI op d s imm.toNat).imm = imm.toNat := by
  have := imm.isLt
  simp only [CWord.ofI, CWord.imm]; omega

@[simp] theorem CWord.ofI_d (op d s imm : Nat) : (CWord.ofI op d s imm).d = d := rfl
@[simp] theorem CWord.ofI_s (op d s imm : Nat) : (CWord.ofI op d s imm).s = s := rfl

theorem CWord.imm_ofI_fin (op d s : Nat) (n : Fin 64) : (CWord.ofI op d s n.val).imm = n.val := by
  have := n.isLt
  simp only [CWord.ofI, CWord.imm]; omega

theorem CWord.off_ofB (op p sn : Nat) (off : BitVec 19) : (CWord.ofB op p sn off.toNat).off = off.toNat := by
  have := off.isLt
  simp only [CWord.ofB, CWord.off]; omega

theorem CWord.pred_ofB (op p sn : Nat) (off : BitVec 19) (h : sn < 2) : (CWord.ofB op p sn off.toNat).pred = p := by
  have := off.isLt
  simp only [CWord.ofB, CWord.pred]; omega

theorem CWord.sense_ofB (op p sn : Nat) (off : BitVec 19) (h : sn < 2) : (CWord.ofB op p sn off.toNat).sense = sn := by
  have := off.isLt
  simp only [CWord.ofB, CWord.sense]; omega

/-! ### Words -/

/-- Every field lies within its width (13 R216, R219, R221). -/
def CWord.fits (w : CWord) : Prop := w.op < 128 ∧ w.d < 64 ∧ w.s < 64 ∧ w.t < 64 ∧ w.f < 8 ∧ w.g < 8
def AWord.fits (w : AWord) : Prop :=
  w.op < 128 ∧ w.ty < 8 ∧ w.d < 64 ∧ w.a < 64 ∧ w.b < 64 ∧ w.m < 4 ∧ w.r < 4
def LWord.fits (w : LWord) : Prop := w.op < 256 ∧ w.w0 < 2 ^ 23 ∧ w.w1 < 2 ^ 32

theorem CWord.fits_ofI (op d s : Nat) (imm : BitVec 12) (h1 : op < 128) (h2 : d < 64) (h3 : s < 64) :
    (CWord.ofI op d s imm.toNat).fits := by
  have := imm.isLt
  simp only [CWord.fits, CWord.ofI]; omega

theorem CWord.fits_ofI_fin (op d s : Nat) (n : Fin 64) (h1 : op < 128) (h2 : d < 64) (h3 : s < 64) :
    (CWord.ofI op d s n.val).fits := by
  have := n.isLt
  simp only [CWord.fits, CWord.ofI]; omega

theorem CWord.fits_ofB (op p sn : Nat) (off : BitVec 19) (h1 : op < 128) (h2 : p < 16) (h3 : sn < 2) :
    (CWord.ofB op p sn off.toNat).fits := by
  have := off.isLt
  simp only [CWord.fits, CWord.ofB]; omega

theorem Bool.toNat_lt_two (b : Bool) : b.toNat < 2 := by cases b <;> decide

theorem CWord.ofNat_toNat (w : CWord) (h : w.fits) : CWord.ofNat w.toNat = w := by
  obtain ⟨op, d, s, t, f, g⟩ := w
  obtain ⟨h1, h2, h3, h4, h5, h6⟩ := h
  simp only [CWord.ofNat, CWord.toNat] at *
  congr 1 <;> omega

theorem AWord.ofNat_toNat (w : AWord) (h : w.fits) : AWord.ofNat w.toNat = w := by
  obtain ⟨op, ty, d, a, b, m, r⟩ := w
  obtain ⟨h1, h2, h3, h4, h5, h6, h7⟩ := h
  simp only [AWord.ofNat, AWord.toNat] at *
  congr 1 <;> omega

theorem LWord.ofNat_toNat (w : LWord) (h : w.fits) : LWord.ofNat w.toNat = w := by
  obtain ⟨op, w0, w1⟩ := w
  obtain ⟨h1, h2, h3⟩ := h
  simp only [LWord.ofNat, LWord.toNat] at *
  congr 1 <;> omega

end Sys2Proof
end

