-- ==== Sys2Proof/Laws/Memory.lean ====
section
/-! SUPPORT. Laws/Memory.lean: sparse maps read back what is written and nothing else, and memory operations keep the canonical
form. -/
namespace Sys2Proof.Machine

/-! ### Sparse maps -/

@[simp] theorem lookup_insert_self {α : Type} (d : α) (m : List (Nat × α)) (i : Nat) (x : α) :
    lookup d (insert m i x) i = x := by
  induction m with
  | nil => simp [insert, lookup]
  | cons p t ih =>
    obtain ⟨k, v⟩ := p
    simp only [insert]
    split
    · rename_i h; simp [lookup, Nat.ne_of_lt h, ih]
    · split <;> simp [lookup]

theorem lookup_insert_of_ne {α : Type} (d : α) (m : List (Nat × α)) (i j : Nat) (x : α) (h : i ≠ j) :
    lookup d (insert m i x) j = lookup d m j := by
  induction m with
  | nil => simp [insert, lookup, h]
  | cons p t ih =>
    obtain ⟨k, v⟩ := p
    simp only [insert]
    split
    · simp [lookup, ih]
    · split
      · rename_i h'; subst h'; simp [lookup, h]
      · simp [lookup, h]

@[simp] theorem lookup_erase_self {α : Type} (d : α) (m : List (Nat × α)) (i : Nat) : lookup d (erase m i) i = d := by
  induction m with
  | nil => rfl
  | cons p t ih =>
    obtain ⟨k, v⟩ := p
    simp only [erase]
    split
    · exact ih
    · rename_i h; simp [lookup, h, ih]

theorem lookup_erase_of_ne {α : Type} (d : α) (m : List (Nat × α)) (i j : Nat) (h : i ≠ j) :
    lookup d (erase m i) j = lookup d m j := by
  induction m with
  | nil => rfl
  | cons p t ih =>
    obtain ⟨k, v⟩ := p
    simp only [erase]
    split
    · rename_i h'; subst h'; simp [lookup, h, ih]
    · simp [lookup, ih]

@[simp] theorem lookup_store_self {α : Type} [DecidableEq α] (d : α) (m : List (Nat × α)) (i : Nat) (x : α) :
    lookup d (store d m i x) i = x := by
  unfold store
  split
  · rename_i h; simp [h]
  · simp

theorem lookup_store_of_ne {α : Type} [DecidableEq α] (d : α) (m : List (Nat × α)) (i j : Nat) (x : α) (h : i ≠ j) :
    lookup d (store d m i x) j = lookup d m j := by
  unfold store
  split
  · exact lookup_erase_of_ne d m i j h
  · exact lookup_insert_of_ne d m i j x h

/-! ### The canonical form -/

theorem mem_insert {α : Type} {m : List (Nat × α)} {i : Nat} {x : α} {c : Nat × α} (h : c ∈ insert m i x) :
    c = (i, x) ∨ c ∈ m := by
  induction m with
  | nil => simpa [insert] using h
  | cons p t ih =>
    obtain ⟨k, v⟩ := p
    simp only [insert] at h
    split at h
    · rcases List.mem_cons.mp h with h | h
      · exact .inr (by simp [h])
      · rcases ih h with h | h
        · exact .inl h
        · exact .inr (List.mem_cons_of_mem _ h)
    · split at h
      · rcases List.mem_cons.mp h with h | h
        · exact .inl h
        · exact .inr (List.mem_cons_of_mem _ h)
      · rcases List.mem_cons.mp h with h | h
        · exact .inl h
        · exact .inr h

theorem mem_erase {α : Type} {m : List (Nat × α)} {i : Nat} {c : Nat × α} (h : c ∈ erase m i) : c ∈ m := by
  induction m with
  | nil => exact h
  | cons p t ih =>
    obtain ⟨k, v⟩ := p
    simp only [erase] at h
    split at h
    · exact List.mem_cons_of_mem _ (ih h)
    · rcases List.mem_cons.mp h with h | h
      · simp [h]
      · exact List.mem_cons_of_mem _ (ih h)

theorem rising_insert {α : Type} (m : List (Nat × α)) (i : Nat) (x : α) (h : m.Pairwise fun a b => a.1 < b.1) :
    (insert m i x).Pairwise fun a b => a.1 < b.1 := by
  induction m with
  | nil => simp [insert]
  | cons p t ih =>
    obtain ⟨k, v⟩ := p
    obtain ⟨h1, h2⟩ := List.pairwise_cons.mp h
    simp only [insert]
    split
    · rename_i hk
      refine List.pairwise_cons.mpr ⟨fun c hc => ?_, ih h2⟩
      rcases mem_insert hc with rfl | hc
      · exact hk
      · exact h1 c hc
    · split
      · rename_i hk; subst hk; exact List.pairwise_cons.mpr ⟨h1, h2⟩
      · rename_i hk hne
        refine List.pairwise_cons.mpr ⟨fun c hc => ?_, h⟩
        have hki : i < k := by omega
        rcases List.mem_cons.mp hc with rfl | hc
        · exact hki
        · exact Nat.lt_trans hki (h1 c hc)

theorem rising_erase {α : Type} (m : List (Nat × α)) (i : Nat) (h : m.Pairwise fun a b => a.1 < b.1) :
    (erase m i).Pairwise fun a b => a.1 < b.1 := by
  induction m with
  | nil => exact h
  | cons p t ih =>
    obtain ⟨k, v⟩ := p
    obtain ⟨h1, h2⟩ := List.pairwise_cons.mp h
    simp only [erase]
    split
    · exact ih h2
    · exact List.pairwise_cons.mpr ⟨fun c hc => h1 c (mem_erase hc), ih h2⟩

theorem Memory.wf_iff (m : List Host.Cell) :
    Memory.wf m = true ↔ (m.Pairwise fun a b => a.1 < b.1) ∧ ∀ c ∈ m, c.2 ≠ unlisted := by
  simp [Memory.wf]

/-- Writing a byte keeps the canonical form. -/
theorem Memory.wf_store (m : List Host.Cell) (k : Nat) (b : Byte) (h : Memory.wf m = true) :
    Memory.wf (store unlisted m k b) = true := by
  rw [Memory.wf_iff] at *
  unfold store
  split
  · exact ⟨rising_erase m k h.1, fun c hc => h.2 c (mem_erase hc)⟩
  · rename_i hb
    refine ⟨rising_insert m k b h.1, fun c hc => ?_⟩
    rcases mem_insert hc with rfl | hc
    · exact hb
    · exact h.2 c hc

/-- Writing bytes keeps the canonical form. -/
theorem Memory.wf_writeBytes (skip : Nat → Bool) (data : List Byte) (m : List Host.Cell) (k : Nat)
    (h : Memory.wf m = true) : Memory.wf (writeBytes skip m k data) = true := by
  induction data generalizing m k with
  | nil => exact h
  | cons b t ih =>
    simp only [writeBytes]
    apply ih
    split
    · exact h
    · exact Memory.wf_store m k b h

/-- Leaving cells out keeps the canonical form. -/
theorem Memory.wf_filter (m : List Host.Cell) (f : Host.Cell → Bool) (h : Memory.wf m = true) :
    Memory.wf (m.filter f) = true := by
  rw [Memory.wf_iff] at *
  exact ⟨h.1.sublist List.filter_sublist, fun c hc => h.2 c (List.mem_filter.mp hc).1⟩

/-- Every write of memory by an instruction keeps the canonical form. -/
theorem wf_storeAt (s : State) (k : Nat) (data : List Byte) (h : Memory.wf s.mem = true) :
    Memory.wf (s.storeAt k data).mem = true := Memory.wf_writeBytes _ data s.mem k h

theorem wf_reset : Memory.wf State.reset.mem = true := rfl

/-! ### Reading after writing -/

theorem readByte_writeBytes_of_lt (skip : Nat → Bool) (data : List Byte) (m : List Host.Cell) (k a : Nat) (h : a < k) :
    readByte (writeBytes skip m k data) a = readByte m a := by
  induction data generalizing m k with
  | nil => rfl
  | cons b t ih =>
    simp only [writeBytes]
    rw [ih _ _ (Nat.lt_succ_of_lt h)]
    split
    · rfl
    · exact lookup_store_of_ne _ _ _ _ _ (by omega)

/-- A write leaves every byte outside it alone. -/
theorem readByte_writeBytes_outside (skip : Nat → Bool) (data : List Byte) (m : List Host.Cell) (k a : Nat)
    (h : a < k ∨ k + data.length ≤ a) : readByte (writeBytes skip m k data) a = readByte m a := by
  induction data generalizing m k with
  | nil => rfl
  | cons b t ih =>
    simp only [List.length_cons] at h
    simp only [writeBytes]
    rw [ih _ _ (by omega)]
    split
    · rfl
    · exact lookup_store_of_ne _ _ _ _ _ (by omega)

/-- A byte that a write does not skip reads back as written. -/
theorem readByte_writeBytes_inside (skip : Nat → Bool) (data : List Byte) (m : List Host.Cell) (k i : Nat)
    (h : i < data.length) (hs : skip (k + i) = false) :
    readByte (writeBytes skip m k data) (k + i) = data.getD i 0 := by
  induction data generalizing m k i with
  | nil => simp at h
  | cons b t ih =>
    simp only [writeBytes]
    cases i with
    | zero =>
      simp only [Nat.add_zero] at hs ⊢
      rw [readByte_writeBytes_of_lt _ _ _ _ _ (Nat.lt_succ_self k), if_neg (by simp [hs])]
      simp [readByte]
    | succ j =>
      have e : k + (j + 1) = k + 1 + j := by omega
      rw [e] at hs ⊢
      rw [ih _ _ _ (by simpa using h) hs]
      simp

/-- A store leaves every byte outside it alone. -/
theorem readByte_storeAt_outside (s : State) (k : Nat) (data : List Byte) (a : Nat) (h : a < k ∨ k + data.length ≤ a) :
    readByte (s.storeAt k data).mem a = readByte s.mem a := readByte_writeBytes_outside _ data s.mem k a h

end Sys2Proof.Machine
end

