-- ==== Sys2Proof/Laws/State.lean ====
section
/-! SUPPORT. Laws/State.lean: what each update of the state does to each field, so that no proof unfolds a record update. -/
namespace Sys2Proof.Machine

/-! ### Updates of the state -/

@[simp] theorem State.setTh_mem (s : State) (t : Nat) (x : Thread) : (s.setTh t x).mem = s.mem := rfl
@[simp] theorem State.setTh_empty (s : State) (t : Nat) (x : Thread) : (s.setTh t x).empty = s.empty := rfl
@[simp] theorem State.setTh_poison (s : State) (t : Nat) (x : Thread) : (s.setTh t x).poison = s.poison := rfl
@[simp] theorem State.setTh_claims (s : State) (t : Nat) (x : Thread) : (s.setTh t x).claims = s.claims := rfl
@[simp] theorem State.setTh_deferred (s : State) (t : Nat) (x : Thread) : (s.setTh t x).deferred = s.deferred := rfl
@[simp] theorem State.setTh_threads (s : State) (t : Nat) (x : Thread) : (s.setTh t x).threads = insert s.threads t x := rfl
@[simp] theorem State.setTh_cores (s : State) (t : Nat) (x : Thread) : (s.setTh t x).cores = s.cores := rfl
@[simp] theorem State.setTh_units (s : State) (t : Nat) (x : Thread) : (s.setTh t x).units = s.units := rfl
@[simp] theorem State.setTh_clusters (s : State) (t : Nat) (x : Thread) : (s.setTh t x).clusters = s.clusters := rfl
@[simp] theorem State.setTh_dies (s : State) (t : Nat) (x : Thread) : (s.setTh t x).dies = s.dies := rfl
@[simp] theorem State.setTh_pkgs (s : State) (t : Nat) (x : Thread) : (s.setTh t x).pkgs = s.pkgs := rfl
@[simp] theorem State.setTh_barriers (s : State) (t : Nat) (x : Thread) : (s.setTh t x).barriers = s.barriers := rfl
@[simp] theorem State.setTh_locks (s : State) (t : Nat) (x : Thread) : (s.setTh t x).locks = s.locks := rfl
@[simp] theorem State.setTh_flight (s : State) (t : Nat) (x : Thread) : (s.setTh t x).flight = s.flight := rfl
@[simp] theorem State.setTh_time (s : State) (t : Nat) (x : Thread) : (s.setTh t x).time = s.time := rfl
@[simp] theorem State.setTh_npkg (s : State) (t : Nat) (x : Thread) : (s.setTh t x).npkg = s.npkg := rfl
@[simp] theorem State.setTh_serial (s : State) (t : Nat) (x : Thread) : (s.setTh t x).serial = s.serial := rfl
@[simp] theorem State.setTh_fresh (s : State) (t : Nat) (x : Thread) : (s.setTh t x).fresh = s.fresh := rfl
@[simp] theorem State.setTh_cur (s : State) (t : Nat) (x : Thread) : (s.setTh t x).cur = s.cur := rfl
@[simp] theorem State.setTh_focus (s : State) (t : Nat) (x : Thread) : (s.setTh t x).focus = s.focus := rfl
@[simp] theorem State.setTh_agenda (s : State) (t : Nat) (x : Thread) : (s.setTh t x).agenda = s.agenda := rfl
@[simp] theorem State.setTh_iss (s : State) (t : Nat) (x : Thread) : (s.setTh t x).iss = s.iss := rfl

@[simp] theorem State.setCore_mem (s : State) (c : Nat) (x : Core) : (s.setCore c x).mem = s.mem := rfl
@[simp] theorem State.setCore_empty (s : State) (c : Nat) (x : Core) : (s.setCore c x).empty = s.empty := rfl
@[simp] theorem State.setCore_poison (s : State) (c : Nat) (x : Core) : (s.setCore c x).poison = s.poison := rfl
@[simp] theorem State.setCore_claims (s : State) (c : Nat) (x : Core) : (s.setCore c x).claims = s.claims := rfl
@[simp] theorem State.setCore_deferred (s : State) (c : Nat) (x : Core) : (s.setCore c x).deferred = s.deferred := rfl
@[simp] theorem State.setCore_threads (s : State) (c : Nat) (x : Core) : (s.setCore c x).threads = s.threads := rfl
@[simp] theorem State.setCore_cores (s : State) (c : Nat) (x : Core) : (s.setCore c x).cores = insert s.cores c x := rfl
@[simp] theorem State.setCore_units (s : State) (c : Nat) (x : Core) : (s.setCore c x).units = s.units := rfl
@[simp] theorem State.setCore_clusters (s : State) (c : Nat) (x : Core) : (s.setCore c x).clusters = s.clusters := rfl
@[simp] theorem State.setCore_dies (s : State) (c : Nat) (x : Core) : (s.setCore c x).dies = s.dies := rfl
@[simp] theorem State.setCore_pkgs (s : State) (c : Nat) (x : Core) : (s.setCore c x).pkgs = s.pkgs := rfl
@[simp] theorem State.setCore_barriers (s : State) (c : Nat) (x : Core) : (s.setCore c x).barriers = s.barriers := rfl
@[simp] theorem State.setCore_locks (s : State) (c : Nat) (x : Core) : (s.setCore c x).locks = s.locks := rfl
@[simp] theorem State.setCore_flight (s : State) (c : Nat) (x : Core) : (s.setCore c x).flight = s.flight := rfl
@[simp] theorem State.setCore_time (s : State) (c : Nat) (x : Core) : (s.setCore c x).time = s.time := rfl
@[simp] theorem State.setCore_npkg (s : State) (c : Nat) (x : Core) : (s.setCore c x).npkg = s.npkg := rfl
@[simp] theorem State.setCore_serial (s : State) (c : Nat) (x : Core) : (s.setCore c x).serial = s.serial := rfl
@[simp] theorem State.setCore_fresh (s : State) (c : Nat) (x : Core) : (s.setCore c x).fresh = s.fresh := rfl
@[simp] theorem State.setCore_cur (s : State) (c : Nat) (x : Core) : (s.setCore c x).cur = s.cur := rfl
@[simp] theorem State.setCore_focus (s : State) (c : Nat) (x : Core) : (s.setCore c x).focus = s.focus := rfl
@[simp] theorem State.setCore_agenda (s : State) (c : Nat) (x : Core) : (s.setCore c x).agenda = s.agenda := rfl
@[simp] theorem State.setCore_iss (s : State) (c : Nat) (x : Core) : (s.setCore c x).iss = s.iss := rfl

@[simp] theorem State.setUnit_mem (s : State) (u : Nat) (x : MatUnit) : (s.setUnit u x).mem = s.mem := rfl
@[simp] theorem State.setUnit_empty (s : State) (u : Nat) (x : MatUnit) : (s.setUnit u x).empty = s.empty := rfl
@[simp] theorem State.setUnit_poison (s : State) (u : Nat) (x : MatUnit) : (s.setUnit u x).poison = s.poison := rfl
@[simp] theorem State.setUnit_claims (s : State) (u : Nat) (x : MatUnit) : (s.setUnit u x).claims = s.claims := rfl
@[simp] theorem State.setUnit_deferred (s : State) (u : Nat) (x : MatUnit) : (s.setUnit u x).deferred = s.deferred := rfl
@[simp] theorem State.setUnit_threads (s : State) (u : Nat) (x : MatUnit) : (s.setUnit u x).threads = s.threads := rfl
@[simp] theorem State.setUnit_cores (s : State) (u : Nat) (x : MatUnit) : (s.setUnit u x).cores = s.cores := rfl
@[simp] theorem State.setUnit_units (s : State) (u : Nat) (x : MatUnit) : (s.setUnit u x).units = insert s.units u x := rfl
@[simp] theorem State.setUnit_clusters (s : State) (u : Nat) (x : MatUnit) : (s.setUnit u x).clusters = s.clusters := rfl
@[simp] theorem State.setUnit_dies (s : State) (u : Nat) (x : MatUnit) : (s.setUnit u x).dies = s.dies := rfl
@[simp] theorem State.setUnit_pkgs (s : State) (u : Nat) (x : MatUnit) : (s.setUnit u x).pkgs = s.pkgs := rfl
@[simp] theorem State.setUnit_barriers (s : State) (u : Nat) (x : MatUnit) : (s.setUnit u x).barriers = s.barriers := rfl
@[simp] theorem State.setUnit_locks (s : State) (u : Nat) (x : MatUnit) : (s.setUnit u x).locks = s.locks := rfl
@[simp] theorem State.setUnit_flight (s : State) (u : Nat) (x : MatUnit) : (s.setUnit u x).flight = s.flight := rfl
@[simp] theorem State.setUnit_time (s : State) (u : Nat) (x : MatUnit) : (s.setUnit u x).time = s.time := rfl
@[simp] theorem State.setUnit_npkg (s : State) (u : Nat) (x : MatUnit) : (s.setUnit u x).npkg = s.npkg := rfl
@[simp] theorem State.setUnit_serial (s : State) (u : Nat) (x : MatUnit) : (s.setUnit u x).serial = s.serial := rfl
@[simp] theorem State.setUnit_fresh (s : State) (u : Nat) (x : MatUnit) : (s.setUnit u x).fresh = s.fresh := rfl
@[simp] theorem State.setUnit_cur (s : State) (u : Nat) (x : MatUnit) : (s.setUnit u x).cur = s.cur := rfl
@[simp] theorem State.setUnit_focus (s : State) (u : Nat) (x : MatUnit) : (s.setUnit u x).focus = s.focus := rfl
@[simp] theorem State.setUnit_agenda (s : State) (u : Nat) (x : MatUnit) : (s.setUnit u x).agenda = s.agenda := rfl
@[simp] theorem State.setUnit_iss (s : State) (u : Nat) (x : MatUnit) : (s.setUnit u x).iss = s.iss := rfl

@[simp] theorem State.setCluster_mem (s : State) (c : Nat) (x : Cluster) : (s.setCluster c x).mem = s.mem := rfl
@[simp] theorem State.setCluster_empty (s : State) (c : Nat) (x : Cluster) : (s.setCluster c x).empty = s.empty := rfl
@[simp] theorem State.setCluster_poison (s : State) (c : Nat) (x : Cluster) : (s.setCluster c x).poison = s.poison := rfl
@[simp] theorem State.setCluster_claims (s : State) (c : Nat) (x : Cluster) : (s.setCluster c x).claims = s.claims := rfl
@[simp] theorem State.setCluster_deferred (s : State) (c : Nat) (x : Cluster) : (s.setCluster c x).deferred = s.deferred := rfl
@[simp] theorem State.setCluster_threads (s : State) (c : Nat) (x : Cluster) : (s.setCluster c x).threads = s.threads := rfl
@[simp] theorem State.setCluster_cores (s : State) (c : Nat) (x : Cluster) : (s.setCluster c x).cores = s.cores := rfl
@[simp] theorem State.setCluster_units (s : State) (c : Nat) (x : Cluster) : (s.setCluster c x).units = s.units := rfl
@[simp] theorem State.setCluster_clusters (s : State) (c : Nat) (x : Cluster) : (s.setCluster c x).clusters = insert s.clusters c x := rfl
@[simp] theorem State.setCluster_dies (s : State) (c : Nat) (x : Cluster) : (s.setCluster c x).dies = s.dies := rfl
@[simp] theorem State.setCluster_pkgs (s : State) (c : Nat) (x : Cluster) : (s.setCluster c x).pkgs = s.pkgs := rfl
@[simp] theorem State.setCluster_barriers (s : State) (c : Nat) (x : Cluster) : (s.setCluster c x).barriers = s.barriers := rfl
@[simp] theorem State.setCluster_locks (s : State) (c : Nat) (x : Cluster) : (s.setCluster c x).locks = s.locks := rfl
@[simp] theorem State.setCluster_flight (s : State) (c : Nat) (x : Cluster) : (s.setCluster c x).flight = s.flight := rfl
@[simp] theorem State.setCluster_time (s : State) (c : Nat) (x : Cluster) : (s.setCluster c x).time = s.time := rfl
@[simp] theorem State.setCluster_npkg (s : State) (c : Nat) (x : Cluster) : (s.setCluster c x).npkg = s.npkg := rfl
@[simp] theorem State.setCluster_serial (s : State) (c : Nat) (x : Cluster) : (s.setCluster c x).serial = s.serial := rfl
@[simp] theorem State.setCluster_fresh (s : State) (c : Nat) (x : Cluster) : (s.setCluster c x).fresh = s.fresh := rfl
@[simp] theorem State.setCluster_cur (s : State) (c : Nat) (x : Cluster) : (s.setCluster c x).cur = s.cur := rfl
@[simp] theorem State.setCluster_focus (s : State) (c : Nat) (x : Cluster) : (s.setCluster c x).focus = s.focus := rfl
@[simp] theorem State.setCluster_agenda (s : State) (c : Nat) (x : Cluster) : (s.setCluster c x).agenda = s.agenda := rfl
@[simp] theorem State.setCluster_iss (s : State) (c : Nat) (x : Cluster) : (s.setCluster c x).iss = s.iss := rfl

@[simp] theorem State.setDie_mem (s : State) (d : Nat) (x : Die) : (s.setDie d x).mem = s.mem := rfl
@[simp] theorem State.setDie_empty (s : State) (d : Nat) (x : Die) : (s.setDie d x).empty = s.empty := rfl
@[simp] theorem State.setDie_poison (s : State) (d : Nat) (x : Die) : (s.setDie d x).poison = s.poison := rfl
@[simp] theorem State.setDie_claims (s : State) (d : Nat) (x : Die) : (s.setDie d x).claims = s.claims := rfl
@[simp] theorem State.setDie_deferred (s : State) (d : Nat) (x : Die) : (s.setDie d x).deferred = s.deferred := rfl
@[simp] theorem State.setDie_threads (s : State) (d : Nat) (x : Die) : (s.setDie d x).threads = s.threads := rfl
@[simp] theorem State.setDie_cores (s : State) (d : Nat) (x : Die) : (s.setDie d x).cores = s.cores := rfl
@[simp] theorem State.setDie_units (s : State) (d : Nat) (x : Die) : (s.setDie d x).units = s.units := rfl
@[simp] theorem State.setDie_clusters (s : State) (d : Nat) (x : Die) : (s.setDie d x).clusters = s.clusters := rfl
@[simp] theorem State.setDie_dies (s : State) (d : Nat) (x : Die) : (s.setDie d x).dies = insert s.dies d x := rfl
@[simp] theorem State.setDie_pkgs (s : State) (d : Nat) (x : Die) : (s.setDie d x).pkgs = s.pkgs := rfl
@[simp] theorem State.setDie_barriers (s : State) (d : Nat) (x : Die) : (s.setDie d x).barriers = s.barriers := rfl
@[simp] theorem State.setDie_locks (s : State) (d : Nat) (x : Die) : (s.setDie d x).locks = s.locks := rfl
@[simp] theorem State.setDie_flight (s : State) (d : Nat) (x : Die) : (s.setDie d x).flight = s.flight := rfl
@[simp] theorem State.setDie_time (s : State) (d : Nat) (x : Die) : (s.setDie d x).time = s.time := rfl
@[simp] theorem State.setDie_npkg (s : State) (d : Nat) (x : Die) : (s.setDie d x).npkg = s.npkg := rfl
@[simp] theorem State.setDie_serial (s : State) (d : Nat) (x : Die) : (s.setDie d x).serial = s.serial := rfl
@[simp] theorem State.setDie_fresh (s : State) (d : Nat) (x : Die) : (s.setDie d x).fresh = s.fresh := rfl
@[simp] theorem State.setDie_cur (s : State) (d : Nat) (x : Die) : (s.setDie d x).cur = s.cur := rfl
@[simp] theorem State.setDie_focus (s : State) (d : Nat) (x : Die) : (s.setDie d x).focus = s.focus := rfl
@[simp] theorem State.setDie_agenda (s : State) (d : Nat) (x : Die) : (s.setDie d x).agenda = s.agenda := rfl
@[simp] theorem State.setDie_iss (s : State) (d : Nat) (x : Die) : (s.setDie d x).iss = s.iss := rfl

@[simp] theorem State.setPkg_mem (s : State) (p : Nat) (x : Pkg) : (s.setPkg p x).mem = s.mem := rfl
@[simp] theorem State.setPkg_empty (s : State) (p : Nat) (x : Pkg) : (s.setPkg p x).empty = s.empty := rfl
@[simp] theorem State.setPkg_poison (s : State) (p : Nat) (x : Pkg) : (s.setPkg p x).poison = s.poison := rfl
@[simp] theorem State.setPkg_claims (s : State) (p : Nat) (x : Pkg) : (s.setPkg p x).claims = s.claims := rfl
@[simp] theorem State.setPkg_deferred (s : State) (p : Nat) (x : Pkg) : (s.setPkg p x).deferred = s.deferred := rfl
@[simp] theorem State.setPkg_threads (s : State) (p : Nat) (x : Pkg) : (s.setPkg p x).threads = s.threads := rfl
@[simp] theorem State.setPkg_cores (s : State) (p : Nat) (x : Pkg) : (s.setPkg p x).cores = s.cores := rfl
@[simp] theorem State.setPkg_units (s : State) (p : Nat) (x : Pkg) : (s.setPkg p x).units = s.units := rfl
@[simp] theorem State.setPkg_clusters (s : State) (p : Nat) (x : Pkg) : (s.setPkg p x).clusters = s.clusters := rfl
@[simp] theorem State.setPkg_dies (s : State) (p : Nat) (x : Pkg) : (s.setPkg p x).dies = s.dies := rfl
@[simp] theorem State.setPkg_pkgs (s : State) (p : Nat) (x : Pkg) : (s.setPkg p x).pkgs = insert s.pkgs p x := rfl
@[simp] theorem State.setPkg_barriers (s : State) (p : Nat) (x : Pkg) : (s.setPkg p x).barriers = s.barriers := rfl
@[simp] theorem State.setPkg_locks (s : State) (p : Nat) (x : Pkg) : (s.setPkg p x).locks = s.locks := rfl
@[simp] theorem State.setPkg_flight (s : State) (p : Nat) (x : Pkg) : (s.setPkg p x).flight = s.flight := rfl
@[simp] theorem State.setPkg_time (s : State) (p : Nat) (x : Pkg) : (s.setPkg p x).time = s.time := rfl
@[simp] theorem State.setPkg_npkg (s : State) (p : Nat) (x : Pkg) : (s.setPkg p x).npkg = s.npkg := rfl
@[simp] theorem State.setPkg_serial (s : State) (p : Nat) (x : Pkg) : (s.setPkg p x).serial = s.serial := rfl
@[simp] theorem State.setPkg_fresh (s : State) (p : Nat) (x : Pkg) : (s.setPkg p x).fresh = s.fresh := rfl
@[simp] theorem State.setPkg_cur (s : State) (p : Nat) (x : Pkg) : (s.setPkg p x).cur = s.cur := rfl
@[simp] theorem State.setPkg_focus (s : State) (p : Nat) (x : Pkg) : (s.setPkg p x).focus = s.focus := rfl
@[simp] theorem State.setPkg_agenda (s : State) (p : Nat) (x : Pkg) : (s.setPkg p x).agenda = s.agenda := rfl
@[simp] theorem State.setPkg_iss (s : State) (p : Nat) (x : Pkg) : (s.setPkg p x).iss = s.iss := rfl

@[simp] theorem State.setBarrier_mem (s : State) (b : Nat) (x : Barrier) : (s.setBarrier b x).mem = s.mem := rfl
@[simp] theorem State.setBarrier_empty (s : State) (b : Nat) (x : Barrier) : (s.setBarrier b x).empty = s.empty := rfl
@[simp] theorem State.setBarrier_poison (s : State) (b : Nat) (x : Barrier) : (s.setBarrier b x).poison = s.poison := rfl
@[simp] theorem State.setBarrier_claims (s : State) (b : Nat) (x : Barrier) : (s.setBarrier b x).claims = s.claims := rfl
@[simp] theorem State.setBarrier_deferred (s : State) (b : Nat) (x : Barrier) : (s.setBarrier b x).deferred = s.deferred := rfl
@[simp] theorem State.setBarrier_threads (s : State) (b : Nat) (x : Barrier) : (s.setBarrier b x).threads = s.threads := rfl
@[simp] theorem State.setBarrier_cores (s : State) (b : Nat) (x : Barrier) : (s.setBarrier b x).cores = s.cores := rfl
@[simp] theorem State.setBarrier_units (s : State) (b : Nat) (x : Barrier) : (s.setBarrier b x).units = s.units := rfl
@[simp] theorem State.setBarrier_clusters (s : State) (b : Nat) (x : Barrier) : (s.setBarrier b x).clusters = s.clusters := rfl
@[simp] theorem State.setBarrier_dies (s : State) (b : Nat) (x : Barrier) : (s.setBarrier b x).dies = s.dies := rfl
@[simp] theorem State.setBarrier_pkgs (s : State) (b : Nat) (x : Barrier) : (s.setBarrier b x).pkgs = s.pkgs := rfl
@[simp] theorem State.setBarrier_barriers (s : State) (b : Nat) (x : Barrier) : (s.setBarrier b x).barriers = insert s.barriers b x := rfl
@[simp] theorem State.setBarrier_locks (s : State) (b : Nat) (x : Barrier) : (s.setBarrier b x).locks = s.locks := rfl
@[simp] theorem State.setBarrier_flight (s : State) (b : Nat) (x : Barrier) : (s.setBarrier b x).flight = s.flight := rfl
@[simp] theorem State.setBarrier_time (s : State) (b : Nat) (x : Barrier) : (s.setBarrier b x).time = s.time := rfl
@[simp] theorem State.setBarrier_npkg (s : State) (b : Nat) (x : Barrier) : (s.setBarrier b x).npkg = s.npkg := rfl
@[simp] theorem State.setBarrier_serial (s : State) (b : Nat) (x : Barrier) : (s.setBarrier b x).serial = s.serial := rfl
@[simp] theorem State.setBarrier_fresh (s : State) (b : Nat) (x : Barrier) : (s.setBarrier b x).fresh = s.fresh := rfl
@[simp] theorem State.setBarrier_cur (s : State) (b : Nat) (x : Barrier) : (s.setBarrier b x).cur = s.cur := rfl
@[simp] theorem State.setBarrier_focus (s : State) (b : Nat) (x : Barrier) : (s.setBarrier b x).focus = s.focus := rfl
@[simp] theorem State.setBarrier_agenda (s : State) (b : Nat) (x : Barrier) : (s.setBarrier b x).agenda = s.agenda := rfl
@[simp] theorem State.setBarrier_iss (s : State) (b : Nat) (x : Barrier) : (s.setBarrier b x).iss = s.iss := rfl

@[simp] theorem State.setMe_mem (s : State) (x : Thread) : (s.setMe x).mem = s.mem := rfl
@[simp] theorem State.setMe_empty (s : State) (x : Thread) : (s.setMe x).empty = s.empty := rfl
@[simp] theorem State.setMe_poison (s : State) (x : Thread) : (s.setMe x).poison = s.poison := rfl
@[simp] theorem State.setMe_claims (s : State) (x : Thread) : (s.setMe x).claims = s.claims := rfl
@[simp] theorem State.setMe_deferred (s : State) (x : Thread) : (s.setMe x).deferred = s.deferred := rfl
@[simp] theorem State.setMe_threads (s : State) (x : Thread) : (s.setMe x).threads = insert s.threads s.cur x := rfl
@[simp] theorem State.setMe_cores (s : State) (x : Thread) : (s.setMe x).cores = s.cores := rfl
@[simp] theorem State.setMe_units (s : State) (x : Thread) : (s.setMe x).units = s.units := rfl
@[simp] theorem State.setMe_clusters (s : State) (x : Thread) : (s.setMe x).clusters = s.clusters := rfl
@[simp] theorem State.setMe_dies (s : State) (x : Thread) : (s.setMe x).dies = s.dies := rfl
@[simp] theorem State.setMe_pkgs (s : State) (x : Thread) : (s.setMe x).pkgs = s.pkgs := rfl
@[simp] theorem State.setMe_barriers (s : State) (x : Thread) : (s.setMe x).barriers = s.barriers := rfl
@[simp] theorem State.setMe_locks (s : State) (x : Thread) : (s.setMe x).locks = s.locks := rfl
@[simp] theorem State.setMe_flight (s : State) (x : Thread) : (s.setMe x).flight = s.flight := rfl
@[simp] theorem State.setMe_time (s : State) (x : Thread) : (s.setMe x).time = s.time := rfl
@[simp] theorem State.setMe_npkg (s : State) (x : Thread) : (s.setMe x).npkg = s.npkg := rfl
@[simp] theorem State.setMe_serial (s : State) (x : Thread) : (s.setMe x).serial = s.serial := rfl
@[simp] theorem State.setMe_fresh (s : State) (x : Thread) : (s.setMe x).fresh = s.fresh := rfl
@[simp] theorem State.setMe_cur (s : State) (x : Thread) : (s.setMe x).cur = s.cur := rfl
@[simp] theorem State.setMe_focus (s : State) (x : Thread) : (s.setMe x).focus = s.focus := rfl
@[simp] theorem State.setMe_agenda (s : State) (x : Thread) : (s.setMe x).agenda = s.agenda := rfl
@[simp] theorem State.setMe_iss (s : State) (x : Thread) : (s.setMe x).iss = s.iss := rfl

@[simp] theorem State.updMe_mem (s : State) (f : Thread → Thread) : (s.updMe f).mem = s.mem := rfl
@[simp] theorem State.updMe_empty (s : State) (f : Thread → Thread) : (s.updMe f).empty = s.empty := rfl
@[simp] theorem State.updMe_poison (s : State) (f : Thread → Thread) : (s.updMe f).poison = s.poison := rfl
@[simp] theorem State.updMe_claims (s : State) (f : Thread → Thread) : (s.updMe f).claims = s.claims := rfl
@[simp] theorem State.updMe_deferred (s : State) (f : Thread → Thread) : (s.updMe f).deferred = s.deferred := rfl
@[simp] theorem State.updMe_threads (s : State) (f : Thread → Thread) : (s.updMe f).threads = insert s.threads s.cur (f s.me) := rfl
@[simp] theorem State.updMe_cores (s : State) (f : Thread → Thread) : (s.updMe f).cores = s.cores := rfl
@[simp] theorem State.updMe_units (s : State) (f : Thread → Thread) : (s.updMe f).units = s.units := rfl
@[simp] theorem State.updMe_clusters (s : State) (f : Thread → Thread) : (s.updMe f).clusters = s.clusters := rfl
@[simp] theorem State.updMe_dies (s : State) (f : Thread → Thread) : (s.updMe f).dies = s.dies := rfl
@[simp] theorem State.updMe_pkgs (s : State) (f : Thread → Thread) : (s.updMe f).pkgs = s.pkgs := rfl
@[simp] theorem State.updMe_barriers (s : State) (f : Thread → Thread) : (s.updMe f).barriers = s.barriers := rfl
@[simp] theorem State.updMe_locks (s : State) (f : Thread → Thread) : (s.updMe f).locks = s.locks := rfl
@[simp] theorem State.updMe_flight (s : State) (f : Thread → Thread) : (s.updMe f).flight = s.flight := rfl
@[simp] theorem State.updMe_time (s : State) (f : Thread → Thread) : (s.updMe f).time = s.time := rfl
@[simp] theorem State.updMe_npkg (s : State) (f : Thread → Thread) : (s.updMe f).npkg = s.npkg := rfl
@[simp] theorem State.updMe_serial (s : State) (f : Thread → Thread) : (s.updMe f).serial = s.serial := rfl
@[simp] theorem State.updMe_fresh (s : State) (f : Thread → Thread) : (s.updMe f).fresh = s.fresh := rfl
@[simp] theorem State.updMe_cur (s : State) (f : Thread → Thread) : (s.updMe f).cur = s.cur := rfl
@[simp] theorem State.updMe_focus (s : State) (f : Thread → Thread) : (s.updMe f).focus = s.focus := rfl
@[simp] theorem State.updMe_agenda (s : State) (f : Thread → Thread) : (s.updMe f).agenda = s.agenda := rfl
@[simp] theorem State.updMe_iss (s : State) (f : Thread → Thread) : (s.updMe f).iss = s.iss := rfl

@[simp] theorem State.updTh_mem (s : State) (t : Nat) (f : Thread → Thread) : (s.updTh t f).mem = s.mem := rfl
@[simp] theorem State.updTh_empty (s : State) (t : Nat) (f : Thread → Thread) : (s.updTh t f).empty = s.empty := rfl
@[simp] theorem State.updTh_poison (s : State) (t : Nat) (f : Thread → Thread) : (s.updTh t f).poison = s.poison := rfl
@[simp] theorem State.updTh_claims (s : State) (t : Nat) (f : Thread → Thread) : (s.updTh t f).claims = s.claims := rfl
@[simp] theorem State.updTh_deferred (s : State) (t : Nat) (f : Thread → Thread) : (s.updTh t f).deferred = s.deferred := rfl
@[simp] theorem State.updTh_threads (s : State) (t : Nat) (f : Thread → Thread) : (s.updTh t f).threads = insert s.threads t (f (s.th t)) := rfl
@[simp] theorem State.updTh_cores (s : State) (t : Nat) (f : Thread → Thread) : (s.updTh t f).cores = s.cores := rfl
@[simp] theorem State.updTh_units (s : State) (t : Nat) (f : Thread → Thread) : (s.updTh t f).units = s.units := rfl
@[simp] theorem State.updTh_clusters (s : State) (t : Nat) (f : Thread → Thread) : (s.updTh t f).clusters = s.clusters := rfl
@[simp] theorem State.updTh_dies (s : State) (t : Nat) (f : Thread → Thread) : (s.updTh t f).dies = s.dies := rfl
@[simp] theorem State.updTh_pkgs (s : State) (t : Nat) (f : Thread → Thread) : (s.updTh t f).pkgs = s.pkgs := rfl
@[simp] theorem State.updTh_barriers (s : State) (t : Nat) (f : Thread → Thread) : (s.updTh t f).barriers = s.barriers := rfl
@[simp] theorem State.updTh_locks (s : State) (t : Nat) (f : Thread → Thread) : (s.updTh t f).locks = s.locks := rfl
@[simp] theorem State.updTh_flight (s : State) (t : Nat) (f : Thread → Thread) : (s.updTh t f).flight = s.flight := rfl
@[simp] theorem State.updTh_time (s : State) (t : Nat) (f : Thread → Thread) : (s.updTh t f).time = s.time := rfl
@[simp] theorem State.updTh_npkg (s : State) (t : Nat) (f : Thread → Thread) : (s.updTh t f).npkg = s.npkg := rfl
@[simp] theorem State.updTh_serial (s : State) (t : Nat) (f : Thread → Thread) : (s.updTh t f).serial = s.serial := rfl
@[simp] theorem State.updTh_fresh (s : State) (t : Nat) (f : Thread → Thread) : (s.updTh t f).fresh = s.fresh := rfl
@[simp] theorem State.updTh_cur (s : State) (t : Nat) (f : Thread → Thread) : (s.updTh t f).cur = s.cur := rfl
@[simp] theorem State.updTh_focus (s : State) (t : Nat) (f : Thread → Thread) : (s.updTh t f).focus = s.focus := rfl
@[simp] theorem State.updTh_agenda (s : State) (t : Nat) (f : Thread → Thread) : (s.updTh t f).agenda = s.agenda := rfl
@[simp] theorem State.updTh_iss (s : State) (t : Nat) (f : Thread → Thread) : (s.updTh t f).iss = s.iss := rfl

@[simp] theorem State.setItem_mem (s : State) (id : Nat) (x : Item) : (s.setItem id x).mem = s.mem := rfl
@[simp] theorem State.setItem_empty (s : State) (id : Nat) (x : Item) : (s.setItem id x).empty = s.empty := rfl
@[simp] theorem State.setItem_poison (s : State) (id : Nat) (x : Item) : (s.setItem id x).poison = s.poison := rfl
@[simp] theorem State.setItem_claims (s : State) (id : Nat) (x : Item) : (s.setItem id x).claims = s.claims := rfl
@[simp] theorem State.setItem_deferred (s : State) (id : Nat) (x : Item) : (s.setItem id x).deferred = s.deferred := rfl
@[simp] theorem State.setItem_threads (s : State) (id : Nat) (x : Item) : (s.setItem id x).threads = s.threads := rfl
@[simp] theorem State.setItem_cores (s : State) (id : Nat) (x : Item) : (s.setItem id x).cores = s.cores := rfl
@[simp] theorem State.setItem_units (s : State) (id : Nat) (x : Item) : (s.setItem id x).units = s.units := rfl
@[simp] theorem State.setItem_clusters (s : State) (id : Nat) (x : Item) : (s.setItem id x).clusters = s.clusters := rfl
@[simp] theorem State.setItem_dies (s : State) (id : Nat) (x : Item) : (s.setItem id x).dies = s.dies := rfl
@[simp] theorem State.setItem_pkgs (s : State) (id : Nat) (x : Item) : (s.setItem id x).pkgs = s.pkgs := rfl
@[simp] theorem State.setItem_barriers (s : State) (id : Nat) (x : Item) : (s.setItem id x).barriers = s.barriers := rfl
@[simp] theorem State.setItem_locks (s : State) (id : Nat) (x : Item) : (s.setItem id x).locks = s.locks := rfl
@[simp] theorem State.setItem_flight (s : State) (id : Nat) (x : Item) : (s.setItem id x).flight = insert s.flight id x := rfl
@[simp] theorem State.setItem_time (s : State) (id : Nat) (x : Item) : (s.setItem id x).time = s.time := rfl
@[simp] theorem State.setItem_npkg (s : State) (id : Nat) (x : Item) : (s.setItem id x).npkg = s.npkg := rfl
@[simp] theorem State.setItem_serial (s : State) (id : Nat) (x : Item) : (s.setItem id x).serial = s.serial := rfl
@[simp] theorem State.setItem_fresh (s : State) (id : Nat) (x : Item) : (s.setItem id x).fresh = s.fresh := rfl
@[simp] theorem State.setItem_cur (s : State) (id : Nat) (x : Item) : (s.setItem id x).cur = s.cur := rfl
@[simp] theorem State.setItem_focus (s : State) (id : Nat) (x : Item) : (s.setItem id x).focus = s.focus := rfl
@[simp] theorem State.setItem_agenda (s : State) (id : Nat) (x : Item) : (s.setItem id x).agenda = s.agenda := rfl
@[simp] theorem State.setItem_iss (s : State) (id : Nat) (x : Item) : (s.setItem id x).iss = s.iss := rfl

@[simp] theorem State.dropItem_mem (s : State) (id : Nat) : (s.dropItem id).mem = s.mem := rfl
@[simp] theorem State.dropItem_empty (s : State) (id : Nat) : (s.dropItem id).empty = s.empty := rfl
@[simp] theorem State.dropItem_poison (s : State) (id : Nat) : (s.dropItem id).poison = s.poison := rfl
@[simp] theorem State.dropItem_claims (s : State) (id : Nat) : (s.dropItem id).claims = s.claims := rfl
@[simp] theorem State.dropItem_deferred (s : State) (id : Nat) : (s.dropItem id).deferred = s.deferred := rfl
@[simp] theorem State.dropItem_threads (s : State) (id : Nat) : (s.dropItem id).threads = s.threads := rfl
@[simp] theorem State.dropItem_cores (s : State) (id : Nat) : (s.dropItem id).cores = s.cores := rfl
@[simp] theorem State.dropItem_units (s : State) (id : Nat) : (s.dropItem id).units = s.units := rfl
@[simp] theorem State.dropItem_clusters (s : State) (id : Nat) : (s.dropItem id).clusters = s.clusters := rfl
@[simp] theorem State.dropItem_dies (s : State) (id : Nat) : (s.dropItem id).dies = s.dies := rfl
@[simp] theorem State.dropItem_pkgs (s : State) (id : Nat) : (s.dropItem id).pkgs = s.pkgs := rfl
@[simp] theorem State.dropItem_barriers (s : State) (id : Nat) : (s.dropItem id).barriers = s.barriers := rfl
@[simp] theorem State.dropItem_locks (s : State) (id : Nat) : (s.dropItem id).locks = s.locks := rfl
@[simp] theorem State.dropItem_flight (s : State) (id : Nat) : (s.dropItem id).flight = erase s.flight id := rfl
@[simp] theorem State.dropItem_time (s : State) (id : Nat) : (s.dropItem id).time = s.time := rfl
@[simp] theorem State.dropItem_npkg (s : State) (id : Nat) : (s.dropItem id).npkg = s.npkg := rfl
@[simp] theorem State.dropItem_serial (s : State) (id : Nat) : (s.dropItem id).serial = s.serial := rfl
@[simp] theorem State.dropItem_fresh (s : State) (id : Nat) : (s.dropItem id).fresh = s.fresh := rfl
@[simp] theorem State.dropItem_cur (s : State) (id : Nat) : (s.dropItem id).cur = s.cur := rfl
@[simp] theorem State.dropItem_focus (s : State) (id : Nat) : (s.dropItem id).focus = s.focus := rfl
@[simp] theorem State.dropItem_agenda (s : State) (id : Nat) : (s.dropItem id).agenda = s.agenda := rfl
@[simp] theorem State.dropItem_iss (s : State) (id : Nat) : (s.dropItem id).iss = s.iss := rfl

@[simp] theorem State.post_mem (s : State) (x : Item) : (s.post x).mem = s.mem := rfl
@[simp] theorem State.post_empty (s : State) (x : Item) : (s.post x).empty = s.empty := rfl
@[simp] theorem State.post_poison (s : State) (x : Item) : (s.post x).poison = s.poison := rfl
@[simp] theorem State.post_claims (s : State) (x : Item) : (s.post x).claims = s.claims := rfl
@[simp] theorem State.post_deferred (s : State) (x : Item) : (s.post x).deferred = s.deferred := rfl
@[simp] theorem State.post_threads (s : State) (x : Item) : (s.post x).threads = s.threads := rfl
@[simp] theorem State.post_cores (s : State) (x : Item) : (s.post x).cores = s.cores := rfl
@[simp] theorem State.post_units (s : State) (x : Item) : (s.post x).units = s.units := rfl
@[simp] theorem State.post_clusters (s : State) (x : Item) : (s.post x).clusters = s.clusters := rfl
@[simp] theorem State.post_dies (s : State) (x : Item) : (s.post x).dies = s.dies := rfl
@[simp] theorem State.post_pkgs (s : State) (x : Item) : (s.post x).pkgs = s.pkgs := rfl
@[simp] theorem State.post_barriers (s : State) (x : Item) : (s.post x).barriers = s.barriers := rfl
@[simp] theorem State.post_locks (s : State) (x : Item) : (s.post x).locks = s.locks := rfl
@[simp] theorem State.post_flight (s : State) (x : Item) : (s.post x).flight = insert s.flight s.serial x := rfl
@[simp] theorem State.post_time (s : State) (x : Item) : (s.post x).time = s.time := rfl
@[simp] theorem State.post_npkg (s : State) (x : Item) : (s.post x).npkg = s.npkg := rfl
@[simp] theorem State.post_serial (s : State) (x : Item) : (s.post x).serial = s.serial + 1 := rfl
@[simp] theorem State.post_fresh (s : State) (x : Item) : (s.post x).fresh = s.fresh := rfl
@[simp] theorem State.post_cur (s : State) (x : Item) : (s.post x).cur = s.cur := rfl
@[simp] theorem State.post_focus (s : State) (x : Item) : (s.post x).focus = s.focus := rfl
@[simp] theorem State.post_agenda (s : State) (x : Item) : (s.post x).agenda = s.agenda := rfl
@[simp] theorem State.post_iss (s : State) (x : Item) : (s.post x).iss = s.iss := rfl

@[simp] theorem State.numbered_mem (s : State) : (s.numbered).mem = s.mem := rfl
@[simp] theorem State.numbered_empty (s : State) : (s.numbered).empty = s.empty := rfl
@[simp] theorem State.numbered_poison (s : State) : (s.numbered).poison = s.poison := rfl
@[simp] theorem State.numbered_claims (s : State) : (s.numbered).claims = s.claims := rfl
@[simp] theorem State.numbered_deferred (s : State) : (s.numbered).deferred = s.deferred := rfl
@[simp] theorem State.numbered_threads (s : State) : (s.numbered).threads = s.threads := rfl
@[simp] theorem State.numbered_cores (s : State) : (s.numbered).cores = s.cores := rfl
@[simp] theorem State.numbered_units (s : State) : (s.numbered).units = s.units := rfl
@[simp] theorem State.numbered_clusters (s : State) : (s.numbered).clusters = s.clusters := rfl
@[simp] theorem State.numbered_dies (s : State) : (s.numbered).dies = s.dies := rfl
@[simp] theorem State.numbered_pkgs (s : State) : (s.numbered).pkgs = s.pkgs := rfl
@[simp] theorem State.numbered_barriers (s : State) : (s.numbered).barriers = s.barriers := rfl
@[simp] theorem State.numbered_locks (s : State) : (s.numbered).locks = s.locks := rfl
@[simp] theorem State.numbered_flight (s : State) : (s.numbered).flight = s.flight := rfl
@[simp] theorem State.numbered_time (s : State) : (s.numbered).time = s.time := rfl
@[simp] theorem State.numbered_npkg (s : State) : (s.numbered).npkg = s.npkg := rfl
@[simp] theorem State.numbered_serial (s : State) : (s.numbered).serial = s.serial + 1 := rfl
@[simp] theorem State.numbered_fresh (s : State) : (s.numbered).fresh = s.fresh := rfl
@[simp] theorem State.numbered_cur (s : State) : (s.numbered).cur = s.cur := rfl
@[simp] theorem State.numbered_focus (s : State) : (s.numbered).focus = s.focus := rfl
@[simp] theorem State.numbered_agenda (s : State) : (s.numbered).agenda = s.agenda := rfl
@[simp] theorem State.numbered_iss (s : State) : (s.numbered).iss = s.iss := rfl

@[simp] theorem State.addPoison_mem (s : State) (k : Nat) : (s.addPoison k).mem = s.mem := rfl
@[simp] theorem State.addPoison_empty (s : State) (k : Nat) : (s.addPoison k).empty = s.empty := rfl
@[simp] theorem State.addPoison_poison (s : State) (k : Nat) : (s.addPoison k).poison = addKey s.poison (k / 8) := rfl
@[simp] theorem State.addPoison_claims (s : State) (k : Nat) : (s.addPoison k).claims = s.claims := rfl
@[simp] theorem State.addPoison_deferred (s : State) (k : Nat) : (s.addPoison k).deferred = s.deferred := rfl
@[simp] theorem State.addPoison_threads (s : State) (k : Nat) : (s.addPoison k).threads = s.threads := rfl
@[simp] theorem State.addPoison_cores (s : State) (k : Nat) : (s.addPoison k).cores = s.cores := rfl
@[simp] theorem State.addPoison_units (s : State) (k : Nat) : (s.addPoison k).units = s.units := rfl
@[simp] theorem State.addPoison_clusters (s : State) (k : Nat) : (s.addPoison k).clusters = s.clusters := rfl
@[simp] theorem State.addPoison_dies (s : State) (k : Nat) : (s.addPoison k).dies = s.dies := rfl
@[simp] theorem State.addPoison_pkgs (s : State) (k : Nat) : (s.addPoison k).pkgs = s.pkgs := rfl
@[simp] theorem State.addPoison_barriers (s : State) (k : Nat) : (s.addPoison k).barriers = s.barriers := rfl
@[simp] theorem State.addPoison_locks (s : State) (k : Nat) : (s.addPoison k).locks = s.locks := rfl
@[simp] theorem State.addPoison_flight (s : State) (k : Nat) : (s.addPoison k).flight = s.flight := rfl
@[simp] theorem State.addPoison_time (s : State) (k : Nat) : (s.addPoison k).time = s.time := rfl
@[simp] theorem State.addPoison_npkg (s : State) (k : Nat) : (s.addPoison k).npkg = s.npkg := rfl
@[simp] theorem State.addPoison_serial (s : State) (k : Nat) : (s.addPoison k).serial = s.serial := rfl
@[simp] theorem State.addPoison_fresh (s : State) (k : Nat) : (s.addPoison k).fresh = s.fresh := rfl
@[simp] theorem State.addPoison_cur (s : State) (k : Nat) : (s.addPoison k).cur = s.cur := rfl
@[simp] theorem State.addPoison_focus (s : State) (k : Nat) : (s.addPoison k).focus = s.focus := rfl
@[simp] theorem State.addPoison_agenda (s : State) (k : Nat) : (s.addPoison k).agenda = s.agenda := rfl
@[simp] theorem State.addPoison_iss (s : State) (k : Nat) : (s.addPoison k).iss = s.iss := rfl

@[simp] theorem State.storeAt_empty (s : State) (k : Nat) (data : List Byte) : (s.storeAt k data).empty = s.empty := rfl
@[simp] theorem State.storeAt_claims (s : State) (k : Nat) (data : List Byte) : (s.storeAt k data).claims = s.claims := rfl
@[simp] theorem State.storeAt_deferred (s : State) (k : Nat) (data : List Byte) : (s.storeAt k data).deferred = s.deferred := rfl
@[simp] theorem State.storeAt_threads (s : State) (k : Nat) (data : List Byte) : (s.storeAt k data).threads = s.threads := rfl
@[simp] theorem State.storeAt_cores (s : State) (k : Nat) (data : List Byte) : (s.storeAt k data).cores = s.cores := rfl
@[simp] theorem State.storeAt_units (s : State) (k : Nat) (data : List Byte) : (s.storeAt k data).units = s.units := rfl
@[simp] theorem State.storeAt_clusters (s : State) (k : Nat) (data : List Byte) : (s.storeAt k data).clusters = s.clusters := rfl
@[simp] theorem State.storeAt_dies (s : State) (k : Nat) (data : List Byte) : (s.storeAt k data).dies = s.dies := rfl
@[simp] theorem State.storeAt_pkgs (s : State) (k : Nat) (data : List Byte) : (s.storeAt k data).pkgs = s.pkgs := rfl
@[simp] theorem State.storeAt_barriers (s : State) (k : Nat) (data : List Byte) : (s.storeAt k data).barriers = s.barriers := rfl
@[simp] theorem State.storeAt_locks (s : State) (k : Nat) (data : List Byte) : (s.storeAt k data).locks = s.locks := rfl
@[simp] theorem State.storeAt_flight (s : State) (k : Nat) (data : List Byte) : (s.storeAt k data).flight = s.flight := rfl
@[simp] theorem State.storeAt_time (s : State) (k : Nat) (data : List Byte) : (s.storeAt k data).time = s.time := rfl
@[simp] theorem State.storeAt_npkg (s : State) (k : Nat) (data : List Byte) : (s.storeAt k data).npkg = s.npkg := rfl
@[simp] theorem State.storeAt_serial (s : State) (k : Nat) (data : List Byte) : (s.storeAt k data).serial = s.serial := rfl
@[simp] theorem State.storeAt_fresh (s : State) (k : Nat) (data : List Byte) : (s.storeAt k data).fresh = s.fresh := rfl
@[simp] theorem State.storeAt_cur (s : State) (k : Nat) (data : List Byte) : (s.storeAt k data).cur = s.cur := rfl
@[simp] theorem State.storeAt_focus (s : State) (k : Nat) (data : List Byte) : (s.storeAt k data).focus = s.focus := rfl
@[simp] theorem State.storeAt_agenda (s : State) (k : Nat) (data : List Byte) : (s.storeAt k data).agenda = s.agenda := rfl
@[simp] theorem State.storeAt_iss (s : State) (k : Nat) (data : List Byte) : (s.storeAt k data).iss = s.iss := rfl

@[simp] theorem State.setFull_mem (s : State) (k : Nat) (b : Bool) : (s.setFull k b).mem = s.mem := rfl
@[simp] theorem State.setFull_poison (s : State) (k : Nat) (b : Bool) : (s.setFull k b).poison = s.poison := rfl
@[simp] theorem State.setFull_claims (s : State) (k : Nat) (b : Bool) : (s.setFull k b).claims = s.claims := rfl
@[simp] theorem State.setFull_deferred (s : State) (k : Nat) (b : Bool) : (s.setFull k b).deferred = s.deferred := rfl
@[simp] theorem State.setFull_threads (s : State) (k : Nat) (b : Bool) : (s.setFull k b).threads = s.threads := rfl
@[simp] theorem State.setFull_cores (s : State) (k : Nat) (b : Bool) : (s.setFull k b).cores = s.cores := rfl
@[simp] theorem State.setFull_units (s : State) (k : Nat) (b : Bool) : (s.setFull k b).units = s.units := rfl
@[simp] theorem State.setFull_clusters (s : State) (k : Nat) (b : Bool) : (s.setFull k b).clusters = s.clusters := rfl
@[simp] theorem State.setFull_dies (s : State) (k : Nat) (b : Bool) : (s.setFull k b).dies = s.dies := rfl
@[simp] theorem State.setFull_pkgs (s : State) (k : Nat) (b : Bool) : (s.setFull k b).pkgs = s.pkgs := rfl
@[simp] theorem State.setFull_barriers (s : State) (k : Nat) (b : Bool) : (s.setFull k b).barriers = s.barriers := rfl
@[simp] theorem State.setFull_locks (s : State) (k : Nat) (b : Bool) : (s.setFull k b).locks = s.locks := rfl
@[simp] theorem State.setFull_flight (s : State) (k : Nat) (b : Bool) : (s.setFull k b).flight = s.flight := rfl
@[simp] theorem State.setFull_time (s : State) (k : Nat) (b : Bool) : (s.setFull k b).time = s.time := rfl
@[simp] theorem State.setFull_npkg (s : State) (k : Nat) (b : Bool) : (s.setFull k b).npkg = s.npkg := rfl
@[simp] theorem State.setFull_serial (s : State) (k : Nat) (b : Bool) : (s.setFull k b).serial = s.serial := rfl
@[simp] theorem State.setFull_fresh (s : State) (k : Nat) (b : Bool) : (s.setFull k b).fresh = s.fresh := rfl
@[simp] theorem State.setFull_cur (s : State) (k : Nat) (b : Bool) : (s.setFull k b).cur = s.cur := rfl
@[simp] theorem State.setFull_focus (s : State) (k : Nat) (b : Bool) : (s.setFull k b).focus = s.focus := rfl
@[simp] theorem State.setFull_agenda (s : State) (k : Nat) (b : Bool) : (s.setFull k b).agenda = s.agenda := rfl
@[simp] theorem State.setFull_iss (s : State) (k : Nat) (b : Bool) : (s.setFull k b).iss = s.iss := rfl

@[simp] theorem State.setClaim_mem (s : State) (k : Nat) (g : Option Nat) : (s.setClaim k g).mem = s.mem := rfl
@[simp] theorem State.setClaim_empty (s : State) (k : Nat) (g : Option Nat) : (s.setClaim k g).empty = s.empty := rfl
@[simp] theorem State.setClaim_poison (s : State) (k : Nat) (g : Option Nat) : (s.setClaim k g).poison = s.poison := rfl
@[simp] theorem State.setClaim_deferred (s : State) (k : Nat) (g : Option Nat) : (s.setClaim k g).deferred = s.deferred := rfl
@[simp] theorem State.setClaim_threads (s : State) (k : Nat) (g : Option Nat) : (s.setClaim k g).threads = s.threads := rfl
@[simp] theorem State.setClaim_cores (s : State) (k : Nat) (g : Option Nat) : (s.setClaim k g).cores = s.cores := rfl
@[simp] theorem State.setClaim_units (s : State) (k : Nat) (g : Option Nat) : (s.setClaim k g).units = s.units := rfl
@[simp] theorem State.setClaim_clusters (s : State) (k : Nat) (g : Option Nat) : (s.setClaim k g).clusters = s.clusters := rfl
@[simp] theorem State.setClaim_dies (s : State) (k : Nat) (g : Option Nat) : (s.setClaim k g).dies = s.dies := rfl
@[simp] theorem State.setClaim_pkgs (s : State) (k : Nat) (g : Option Nat) : (s.setClaim k g).pkgs = s.pkgs := rfl
@[simp] theorem State.setClaim_barriers (s : State) (k : Nat) (g : Option Nat) : (s.setClaim k g).barriers = s.barriers := rfl
@[simp] theorem State.setClaim_locks (s : State) (k : Nat) (g : Option Nat) : (s.setClaim k g).locks = s.locks := rfl
@[simp] theorem State.setClaim_flight (s : State) (k : Nat) (g : Option Nat) : (s.setClaim k g).flight = s.flight := rfl
@[simp] theorem State.setClaim_time (s : State) (k : Nat) (g : Option Nat) : (s.setClaim k g).time = s.time := rfl
@[simp] theorem State.setClaim_npkg (s : State) (k : Nat) (g : Option Nat) : (s.setClaim k g).npkg = s.npkg := rfl
@[simp] theorem State.setClaim_serial (s : State) (k : Nat) (g : Option Nat) : (s.setClaim k g).serial = s.serial := rfl
@[simp] theorem State.setClaim_fresh (s : State) (k : Nat) (g : Option Nat) : (s.setClaim k g).fresh = s.fresh := rfl
@[simp] theorem State.setClaim_cur (s : State) (k : Nat) (g : Option Nat) : (s.setClaim k g).cur = s.cur := rfl
@[simp] theorem State.setClaim_focus (s : State) (k : Nat) (g : Option Nat) : (s.setClaim k g).focus = s.focus := rfl
@[simp] theorem State.setClaim_agenda (s : State) (k : Nat) (g : Option Nat) : (s.setClaim k g).agenda = s.agenda := rfl
@[simp] theorem State.setClaim_iss (s : State) (k : Nat) (g : Option Nat) : (s.setClaim k g).iss = s.iss := rfl

/-! ### Updates of a thread -/

@[simp] theorem Thread.setReg_slot (t : Thread) (i : Nat) (w : Word) : (t.setReg i w).slot = t.slot := rfl
@[simp] theorem Thread.setReg_pc (t : Thread) (i : Nat) (w : Word) : (t.setReg i w).pc = t.pc := rfl
@[simp] theorem Thread.setReg_regs (t : Thread) (i : Nat) (w : Word) : (t.setReg i w).regs = t.regs.setIfInBounds i w := rfl
@[simp] theorem Thread.setReg_present (t : Thread) (i : Nat) (w : Word) : (t.setReg i w).present = setBitOf t.present i true := rfl
@[simp] theorem Thread.setReg_busy (t : Thread) (i : Nat) (w : Word) : (t.setReg i w).busy = t.busy := rfl
@[simp] theorem Thread.setReg_pend (t : Thread) (i : Nat) (w : Word) : (t.setReg i w).pend = t.pend := rfl
@[simp] theorem Thread.setReg_v (t : Thread) (i : Nat) (w : Word) : (t.setReg i w).v = t.v := rfl
@[simp] theorem Thread.setReg_vbusy (t : Thread) (i : Nat) (w : Word) : (t.setReg i w).vbusy = t.vbusy := rfl
@[simp] theorem Thread.setReg_m (t : Thread) (i : Nat) (w : Word) : (t.setReg i w).m = t.m := rfl
@[simp] theorem Thread.setReg_p (t : Thread) (i : Nat) (w : Word) : (t.setReg i w).p = t.p := rfl
@[simp] theorem Thread.setReg_rings (t : Thread) (i : Nat) (w : Word) : (t.setReg i w).rings = t.rings := rfl
@[simp] theorem Thread.setReg_segs (t : Thread) (i : Nat) (w : Word) : (t.setReg i w).segs = t.segs := rfl
@[simp] theorem Thread.setReg_sys (t : Thread) (i : Nat) (w : Word) : (t.setReg i w).sys = t.sys := rfl
@[simp] theorem Thread.setReg_tenant (t : Thread) (i : Nat) (w : Word) : (t.setReg i w).tenant = t.tenant := rfl
@[simp] theorem Thread.setReg_grp (t : Thread) (i : Nat) (w : Word) : (t.setReg i w).grp = t.grp := rfl
@[simp] theorem Thread.setReg_rank (t : Thread) (i : Nat) (w : Word) : (t.setReg i w).rank = t.rank := rfl
@[simp] theorem Thread.setReg_sb (t : Thread) (i : Nat) (w : Word) : (t.setReg i w).sb = t.sb := rfl
@[simp] theorem Thread.setReg_fetch (t : Thread) (i : Nat) (w : Word) : (t.setReg i w).fetch = t.fetch := rfl
@[simp] theorem Thread.setReg_markActive (t : Thread) (i : Nat) (w : Word) : (t.setReg i w).markActive = t.markActive := rfl
@[simp] theorem Thread.setReg_draws (t : Thread) (i : Nat) (w : Word) : (t.setReg i w).draws = t.draws := rfl
@[simp] theorem Thread.setReg_ranges (t : Thread) (i : Nat) (w : Word) : (t.setReg i w).ranges = t.ranges := rfl
@[simp] theorem Thread.setReg_overflow (t : Thread) (i : Nat) (w : Word) : (t.setReg i w).overflow = t.overflow := rfl
@[simp] theorem Thread.setReg_pending (t : Thread) (i : Nat) (w : Word) : (t.setReg i w).pending = t.pending := rfl
@[simp] theorem Thread.setReg_park (t : Thread) (i : Nat) (w : Word) : (t.setReg i w).park = t.park := rfl
@[simp] theorem Thread.setReg_wait (t : Thread) (i : Nat) (w : Word) : (t.setReg i w).wait = t.wait := rfl
@[simp] theorem Thread.setReg_walk (t : Thread) (i : Nat) (w : Word) : (t.setReg i w).walk = t.walk := rfl
@[simp] theorem Thread.setReg_pageFail (t : Thread) (i : Nat) (w : Word) : (t.setReg i w).pageFail = t.pageFail := rfl
@[simp] theorem Thread.setReg_gang (t : Thread) (i : Nat) (w : Word) : (t.setReg i w).gang = t.gang := rfl
@[simp] theorem Thread.setReg_inherit (t : Thread) (i : Nat) (w : Word) : (t.setReg i w).inherit = t.inherit := rfl
@[simp] theorem Thread.setReg_drain (t : Thread) (i : Nat) (w : Word) : (t.setReg i w).drain = t.drain := rfl
@[simp] theorem Thread.setReg_inheriting (t : Thread) (i : Nat) (w : Word) : (t.setReg i w).inheriting = t.inheriting := rfl
@[simp] theorem Thread.setReg_arriving (t : Thread) (i : Nat) (w : Word) : (t.setReg i w).arriving = t.arriving := rfl
@[simp] theorem Thread.setReg_exited (t : Thread) (i : Nat) (w : Word) : (t.setReg i w).exited = t.exited := rfl
@[simp] theorem Thread.setReg_windowFault (t : Thread) (i : Nat) (w : Word) : (t.setReg i w).windowFault = t.windowFault := rfl
@[simp] theorem Thread.setReg_rotate (t : Thread) (i : Nat) (w : Word) : (t.setReg i w).rotate = t.rotate := rfl
@[simp] theorem Thread.setReg_xldCycles (t : Thread) (i : Nat) (w : Word) : (t.setReg i w).xldCycles = t.xldCycles := rfl
@[simp] theorem Thread.setReg_xldExpired (t : Thread) (i : Nat) (w : Word) : (t.setReg i w).xldExpired = t.xldExpired := rfl
@[simp] theorem Thread.setReg_stepping (t : Thread) (i : Nat) (w : Word) : (t.setReg i w).stepping = t.stepping := rfl
@[simp] theorem Thread.setReg_stopping (t : Thread) (i : Nat) (w : Word) : (t.setReg i w).stopping = t.stopping := rfl
@[simp] theorem Thread.setReg_held (t : Thread) (i : Nat) (w : Word) : (t.setReg i w).held = t.held := rfl

@[simp] theorem Thread.setVec_slot (t : Thread) (i : Nat) (w : BitVec 512) : (t.setVec i w).slot = t.slot := rfl
@[simp] theorem Thread.setVec_pc (t : Thread) (i : Nat) (w : BitVec 512) : (t.setVec i w).pc = t.pc := rfl
@[simp] theorem Thread.setVec_regs (t : Thread) (i : Nat) (w : BitVec 512) : (t.setVec i w).regs = t.regs := rfl
@[simp] theorem Thread.setVec_present (t : Thread) (i : Nat) (w : BitVec 512) : (t.setVec i w).present = t.present := rfl
@[simp] theorem Thread.setVec_busy (t : Thread) (i : Nat) (w : BitVec 512) : (t.setVec i w).busy = t.busy := rfl
@[simp] theorem Thread.setVec_pend (t : Thread) (i : Nat) (w : BitVec 512) : (t.setVec i w).pend = t.pend := rfl
@[simp] theorem Thread.setVec_v (t : Thread) (i : Nat) (w : BitVec 512) : (t.setVec i w).v = t.v.setIfInBounds i w := rfl
@[simp] theorem Thread.setVec_vbusy (t : Thread) (i : Nat) (w : BitVec 512) : (t.setVec i w).vbusy = t.vbusy := rfl
@[simp] theorem Thread.setVec_m (t : Thread) (i : Nat) (w : BitVec 512) : (t.setVec i w).m = t.m := rfl
@[simp] theorem Thread.setVec_p (t : Thread) (i : Nat) (w : BitVec 512) : (t.setVec i w).p = t.p := rfl
@[simp] theorem Thread.setVec_rings (t : Thread) (i : Nat) (w : BitVec 512) : (t.setVec i w).rings = t.rings := rfl
@[simp] theorem Thread.setVec_segs (t : Thread) (i : Nat) (w : BitVec 512) : (t.setVec i w).segs = t.segs := rfl
@[simp] theorem Thread.setVec_sys (t : Thread) (i : Nat) (w : BitVec 512) : (t.setVec i w).sys = t.sys := rfl
@[simp] theorem Thread.setVec_tenant (t : Thread) (i : Nat) (w : BitVec 512) : (t.setVec i w).tenant = t.tenant := rfl
@[simp] theorem Thread.setVec_grp (t : Thread) (i : Nat) (w : BitVec 512) : (t.setVec i w).grp = t.grp := rfl
@[simp] theorem Thread.setVec_rank (t : Thread) (i : Nat) (w : BitVec 512) : (t.setVec i w).rank = t.rank := rfl
@[simp] theorem Thread.setVec_sb (t : Thread) (i : Nat) (w : BitVec 512) : (t.setVec i w).sb = t.sb := rfl
@[simp] theorem Thread.setVec_fetch (t : Thread) (i : Nat) (w : BitVec 512) : (t.setVec i w).fetch = t.fetch := rfl
@[simp] theorem Thread.setVec_markActive (t : Thread) (i : Nat) (w : BitVec 512) : (t.setVec i w).markActive = t.markActive := rfl
@[simp] theorem Thread.setVec_draws (t : Thread) (i : Nat) (w : BitVec 512) : (t.setVec i w).draws = t.draws := rfl
@[simp] theorem Thread.setVec_ranges (t : Thread) (i : Nat) (w : BitVec 512) : (t.setVec i w).ranges = t.ranges := rfl
@[simp] theorem Thread.setVec_overflow (t : Thread) (i : Nat) (w : BitVec 512) : (t.setVec i w).overflow = t.overflow := rfl
@[simp] theorem Thread.setVec_pending (t : Thread) (i : Nat) (w : BitVec 512) : (t.setVec i w).pending = t.pending := rfl
@[simp] theorem Thread.setVec_park (t : Thread) (i : Nat) (w : BitVec 512) : (t.setVec i w).park = t.park := rfl
@[simp] theorem Thread.setVec_wait (t : Thread) (i : Nat) (w : BitVec 512) : (t.setVec i w).wait = t.wait := rfl
@[simp] theorem Thread.setVec_walk (t : Thread) (i : Nat) (w : BitVec 512) : (t.setVec i w).walk = t.walk := rfl
@[simp] theorem Thread.setVec_pageFail (t : Thread) (i : Nat) (w : BitVec 512) : (t.setVec i w).pageFail = t.pageFail := rfl
@[simp] theorem Thread.setVec_gang (t : Thread) (i : Nat) (w : BitVec 512) : (t.setVec i w).gang = t.gang := rfl
@[simp] theorem Thread.setVec_inherit (t : Thread) (i : Nat) (w : BitVec 512) : (t.setVec i w).inherit = t.inherit := rfl
@[simp] theorem Thread.setVec_drain (t : Thread) (i : Nat) (w : BitVec 512) : (t.setVec i w).drain = t.drain := rfl
@[simp] theorem Thread.setVec_inheriting (t : Thread) (i : Nat) (w : BitVec 512) : (t.setVec i w).inheriting = t.inheriting := rfl
@[simp] theorem Thread.setVec_arriving (t : Thread) (i : Nat) (w : BitVec 512) : (t.setVec i w).arriving = t.arriving := rfl
@[simp] theorem Thread.setVec_exited (t : Thread) (i : Nat) (w : BitVec 512) : (t.setVec i w).exited = t.exited := rfl
@[simp] theorem Thread.setVec_windowFault (t : Thread) (i : Nat) (w : BitVec 512) : (t.setVec i w).windowFault = t.windowFault := rfl
@[simp] theorem Thread.setVec_rotate (t : Thread) (i : Nat) (w : BitVec 512) : (t.setVec i w).rotate = t.rotate := rfl
@[simp] theorem Thread.setVec_xldCycles (t : Thread) (i : Nat) (w : BitVec 512) : (t.setVec i w).xldCycles = t.xldCycles := rfl
@[simp] theorem Thread.setVec_xldExpired (t : Thread) (i : Nat) (w : BitVec 512) : (t.setVec i w).xldExpired = t.xldExpired := rfl
@[simp] theorem Thread.setVec_stepping (t : Thread) (i : Nat) (w : BitVec 512) : (t.setVec i w).stepping = t.stepping := rfl
@[simp] theorem Thread.setVec_stopping (t : Thread) (i : Nat) (w : BitVec 512) : (t.setVec i w).stopping = t.stopping := rfl
@[simp] theorem Thread.setVec_held (t : Thread) (i : Nat) (w : BitVec 512) : (t.setVec i w).held = t.held := rfl

@[simp] theorem Thread.setRing_slot (t : Thread) (i : Nat) (r : Ring) : (t.setRing i r).slot = t.slot := rfl
@[simp] theorem Thread.setRing_pc (t : Thread) (i : Nat) (r : Ring) : (t.setRing i r).pc = t.pc := rfl
@[simp] theorem Thread.setRing_regs (t : Thread) (i : Nat) (r : Ring) : (t.setRing i r).regs = t.regs := rfl
@[simp] theorem Thread.setRing_present (t : Thread) (i : Nat) (r : Ring) : (t.setRing i r).present = t.present := rfl
@[simp] theorem Thread.setRing_busy (t : Thread) (i : Nat) (r : Ring) : (t.setRing i r).busy = t.busy := rfl
@[simp] theorem Thread.setRing_pend (t : Thread) (i : Nat) (r : Ring) : (t.setRing i r).pend = t.pend := rfl
@[simp] theorem Thread.setRing_v (t : Thread) (i : Nat) (r : Ring) : (t.setRing i r).v = t.v := rfl
@[simp] theorem Thread.setRing_vbusy (t : Thread) (i : Nat) (r : Ring) : (t.setRing i r).vbusy = t.vbusy := rfl
@[simp] theorem Thread.setRing_m (t : Thread) (i : Nat) (r : Ring) : (t.setRing i r).m = t.m := rfl
@[simp] theorem Thread.setRing_p (t : Thread) (i : Nat) (r : Ring) : (t.setRing i r).p = t.p := rfl
@[simp] theorem Thread.setRing_rings (t : Thread) (i : Nat) (r : Ring) : (t.setRing i r).rings = t.rings.setIfInBounds i r := rfl
@[simp] theorem Thread.setRing_segs (t : Thread) (i : Nat) (r : Ring) : (t.setRing i r).segs = t.segs := rfl
@[simp] theorem Thread.setRing_sys (t : Thread) (i : Nat) (r : Ring) : (t.setRing i r).sys = t.sys := rfl
@[simp] theorem Thread.setRing_tenant (t : Thread) (i : Nat) (r : Ring) : (t.setRing i r).tenant = t.tenant := rfl
@[simp] theorem Thread.setRing_grp (t : Thread) (i : Nat) (r : Ring) : (t.setRing i r).grp = t.grp := rfl
@[simp] theorem Thread.setRing_rank (t : Thread) (i : Nat) (r : Ring) : (t.setRing i r).rank = t.rank := rfl
@[simp] theorem Thread.setRing_sb (t : Thread) (i : Nat) (r : Ring) : (t.setRing i r).sb = t.sb := rfl
@[simp] theorem Thread.setRing_fetch (t : Thread) (i : Nat) (r : Ring) : (t.setRing i r).fetch = t.fetch := rfl
@[simp] theorem Thread.setRing_markActive (t : Thread) (i : Nat) (r : Ring) : (t.setRing i r).markActive = t.markActive := rfl
@[simp] theorem Thread.setRing_draws (t : Thread) (i : Nat) (r : Ring) : (t.setRing i r).draws = t.draws := rfl
@[simp] theorem Thread.setRing_ranges (t : Thread) (i : Nat) (r : Ring) : (t.setRing i r).ranges = t.ranges := rfl
@[simp] theorem Thread.setRing_overflow (t : Thread) (i : Nat) (r : Ring) : (t.setRing i r).overflow = t.overflow := rfl
@[simp] theorem Thread.setRing_pending (t : Thread) (i : Nat) (r : Ring) : (t.setRing i r).pending = t.pending := rfl
@[simp] theorem Thread.setRing_park (t : Thread) (i : Nat) (r : Ring) : (t.setRing i r).park = t.park := rfl
@[simp] theorem Thread.setRing_wait (t : Thread) (i : Nat) (r : Ring) : (t.setRing i r).wait = t.wait := rfl
@[simp] theorem Thread.setRing_walk (t : Thread) (i : Nat) (r : Ring) : (t.setRing i r).walk = t.walk := rfl
@[simp] theorem Thread.setRing_pageFail (t : Thread) (i : Nat) (r : Ring) : (t.setRing i r).pageFail = t.pageFail := rfl
@[simp] theorem Thread.setRing_gang (t : Thread) (i : Nat) (r : Ring) : (t.setRing i r).gang = t.gang := rfl
@[simp] theorem Thread.setRing_inherit (t : Thread) (i : Nat) (r : Ring) : (t.setRing i r).inherit = t.inherit := rfl
@[simp] theorem Thread.setRing_drain (t : Thread) (i : Nat) (r : Ring) : (t.setRing i r).drain = t.drain := rfl
@[simp] theorem Thread.setRing_inheriting (t : Thread) (i : Nat) (r : Ring) : (t.setRing i r).inheriting = t.inheriting := rfl
@[simp] theorem Thread.setRing_arriving (t : Thread) (i : Nat) (r : Ring) : (t.setRing i r).arriving = t.arriving := rfl
@[simp] theorem Thread.setRing_exited (t : Thread) (i : Nat) (r : Ring) : (t.setRing i r).exited = t.exited := rfl
@[simp] theorem Thread.setRing_windowFault (t : Thread) (i : Nat) (r : Ring) : (t.setRing i r).windowFault = t.windowFault := rfl
@[simp] theorem Thread.setRing_rotate (t : Thread) (i : Nat) (r : Ring) : (t.setRing i r).rotate = t.rotate := rfl
@[simp] theorem Thread.setRing_xldCycles (t : Thread) (i : Nat) (r : Ring) : (t.setRing i r).xldCycles = t.xldCycles := rfl
@[simp] theorem Thread.setRing_xldExpired (t : Thread) (i : Nat) (r : Ring) : (t.setRing i r).xldExpired = t.xldExpired := rfl
@[simp] theorem Thread.setRing_stepping (t : Thread) (i : Nat) (r : Ring) : (t.setRing i r).stepping = t.stepping := rfl
@[simp] theorem Thread.setRing_stopping (t : Thread) (i : Nat) (r : Ring) : (t.setRing i r).stopping = t.stopping := rfl
@[simp] theorem Thread.setRing_held (t : Thread) (i : Nat) (r : Ring) : (t.setRing i r).held = t.held := rfl

@[simp] theorem Thread.setSeg_slot (t : Thread) (i : Nat) (x : Word × Word) : (t.setSeg i x).slot = t.slot := rfl
@[simp] theorem Thread.setSeg_pc (t : Thread) (i : Nat) (x : Word × Word) : (t.setSeg i x).pc = t.pc := rfl
@[simp] theorem Thread.setSeg_regs (t : Thread) (i : Nat) (x : Word × Word) : (t.setSeg i x).regs = t.regs := rfl
@[simp] theorem Thread.setSeg_present (t : Thread) (i : Nat) (x : Word × Word) : (t.setSeg i x).present = t.present := rfl
@[simp] theorem Thread.setSeg_busy (t : Thread) (i : Nat) (x : Word × Word) : (t.setSeg i x).busy = t.busy := rfl
@[simp] theorem Thread.setSeg_pend (t : Thread) (i : Nat) (x : Word × Word) : (t.setSeg i x).pend = t.pend := rfl
@[simp] theorem Thread.setSeg_v (t : Thread) (i : Nat) (x : Word × Word) : (t.setSeg i x).v = t.v := rfl
@[simp] theorem Thread.setSeg_vbusy (t : Thread) (i : Nat) (x : Word × Word) : (t.setSeg i x).vbusy = t.vbusy := rfl
@[simp] theorem Thread.setSeg_m (t : Thread) (i : Nat) (x : Word × Word) : (t.setSeg i x).m = t.m := rfl
@[simp] theorem Thread.setSeg_p (t : Thread) (i : Nat) (x : Word × Word) : (t.setSeg i x).p = t.p := rfl
@[simp] theorem Thread.setSeg_rings (t : Thread) (i : Nat) (x : Word × Word) : (t.setSeg i x).rings = t.rings := rfl
@[simp] theorem Thread.setSeg_segs (t : Thread) (i : Nat) (x : Word × Word) : (t.setSeg i x).segs = t.segs.setIfInBounds i x := rfl
@[simp] theorem Thread.setSeg_sys (t : Thread) (i : Nat) (x : Word × Word) : (t.setSeg i x).sys = t.sys := rfl
@[simp] theorem Thread.setSeg_tenant (t : Thread) (i : Nat) (x : Word × Word) : (t.setSeg i x).tenant = t.tenant := rfl
@[simp] theorem Thread.setSeg_grp (t : Thread) (i : Nat) (x : Word × Word) : (t.setSeg i x).grp = t.grp := rfl
@[simp] theorem Thread.setSeg_rank (t : Thread) (i : Nat) (x : Word × Word) : (t.setSeg i x).rank = t.rank := rfl
@[simp] theorem Thread.setSeg_sb (t : Thread) (i : Nat) (x : Word × Word) : (t.setSeg i x).sb = t.sb := rfl
@[simp] theorem Thread.setSeg_fetch (t : Thread) (i : Nat) (x : Word × Word) : (t.setSeg i x).fetch = t.fetch := rfl
@[simp] theorem Thread.setSeg_markActive (t : Thread) (i : Nat) (x : Word × Word) : (t.setSeg i x).markActive = t.markActive := rfl
@[simp] theorem Thread.setSeg_draws (t : Thread) (i : Nat) (x : Word × Word) : (t.setSeg i x).draws = t.draws := rfl
@[simp] theorem Thread.setSeg_ranges (t : Thread) (i : Nat) (x : Word × Word) : (t.setSeg i x).ranges = t.ranges := rfl
@[simp] theorem Thread.setSeg_overflow (t : Thread) (i : Nat) (x : Word × Word) : (t.setSeg i x).overflow = t.overflow := rfl
@[simp] theorem Thread.setSeg_pending (t : Thread) (i : Nat) (x : Word × Word) : (t.setSeg i x).pending = t.pending := rfl
@[simp] theorem Thread.setSeg_park (t : Thread) (i : Nat) (x : Word × Word) : (t.setSeg i x).park = t.park := rfl
@[simp] theorem Thread.setSeg_wait (t : Thread) (i : Nat) (x : Word × Word) : (t.setSeg i x).wait = t.wait := rfl
@[simp] theorem Thread.setSeg_walk (t : Thread) (i : Nat) (x : Word × Word) : (t.setSeg i x).walk = t.walk := rfl
@[simp] theorem Thread.setSeg_pageFail (t : Thread) (i : Nat) (x : Word × Word) : (t.setSeg i x).pageFail = t.pageFail := rfl
@[simp] theorem Thread.setSeg_gang (t : Thread) (i : Nat) (x : Word × Word) : (t.setSeg i x).gang = t.gang := rfl
@[simp] theorem Thread.setSeg_inherit (t : Thread) (i : Nat) (x : Word × Word) : (t.setSeg i x).inherit = t.inherit := rfl
@[simp] theorem Thread.setSeg_drain (t : Thread) (i : Nat) (x : Word × Word) : (t.setSeg i x).drain = t.drain := rfl
@[simp] theorem Thread.setSeg_inheriting (t : Thread) (i : Nat) (x : Word × Word) : (t.setSeg i x).inheriting = t.inheriting := rfl
@[simp] theorem Thread.setSeg_arriving (t : Thread) (i : Nat) (x : Word × Word) : (t.setSeg i x).arriving = t.arriving := rfl
@[simp] theorem Thread.setSeg_exited (t : Thread) (i : Nat) (x : Word × Word) : (t.setSeg i x).exited = t.exited := rfl
@[simp] theorem Thread.setSeg_windowFault (t : Thread) (i : Nat) (x : Word × Word) : (t.setSeg i x).windowFault = t.windowFault := rfl
@[simp] theorem Thread.setSeg_rotate (t : Thread) (i : Nat) (x : Word × Word) : (t.setSeg i x).rotate = t.rotate := rfl
@[simp] theorem Thread.setSeg_xldCycles (t : Thread) (i : Nat) (x : Word × Word) : (t.setSeg i x).xldCycles = t.xldCycles := rfl
@[simp] theorem Thread.setSeg_xldExpired (t : Thread) (i : Nat) (x : Word × Word) : (t.setSeg i x).xldExpired = t.xldExpired := rfl
@[simp] theorem Thread.setSeg_stepping (t : Thread) (i : Nat) (x : Word × Word) : (t.setSeg i x).stepping = t.stepping := rfl
@[simp] theorem Thread.setSeg_stopping (t : Thread) (i : Nat) (x : Word × Word) : (t.setSeg i x).stopping = t.stopping := rfl
@[simp] theorem Thread.setSeg_held (t : Thread) (i : Nat) (x : Word × Word) : (t.setSeg i x).held = t.held := rfl

@[simp] theorem Thread.setBusy_slot (t : Thread) (i : Nat) (b : Bool) : (t.setBusy i b).slot = t.slot := rfl
@[simp] theorem Thread.setBusy_pc (t : Thread) (i : Nat) (b : Bool) : (t.setBusy i b).pc = t.pc := rfl
@[simp] theorem Thread.setBusy_regs (t : Thread) (i : Nat) (b : Bool) : (t.setBusy i b).regs = t.regs := rfl
@[simp] theorem Thread.setBusy_present (t : Thread) (i : Nat) (b : Bool) : (t.setBusy i b).present = t.present := rfl
@[simp] theorem Thread.setBusy_busy (t : Thread) (i : Nat) (b : Bool) : (t.setBusy i b).busy = setBitOf t.busy i b := rfl
@[simp] theorem Thread.setBusy_pend (t : Thread) (i : Nat) (b : Bool) : (t.setBusy i b).pend = t.pend := rfl
@[simp] theorem Thread.setBusy_v (t : Thread) (i : Nat) (b : Bool) : (t.setBusy i b).v = t.v := rfl
@[simp] theorem Thread.setBusy_vbusy (t : Thread) (i : Nat) (b : Bool) : (t.setBusy i b).vbusy = t.vbusy := rfl
@[simp] theorem Thread.setBusy_m (t : Thread) (i : Nat) (b : Bool) : (t.setBusy i b).m = t.m := rfl
@[simp] theorem Thread.setBusy_p (t : Thread) (i : Nat) (b : Bool) : (t.setBusy i b).p = t.p := rfl
@[simp] theorem Thread.setBusy_rings (t : Thread) (i : Nat) (b : Bool) : (t.setBusy i b).rings = t.rings := rfl
@[simp] theorem Thread.setBusy_segs (t : Thread) (i : Nat) (b : Bool) : (t.setBusy i b).segs = t.segs := rfl
@[simp] theorem Thread.setBusy_sys (t : Thread) (i : Nat) (b : Bool) : (t.setBusy i b).sys = t.sys := rfl
@[simp] theorem Thread.setBusy_tenant (t : Thread) (i : Nat) (b : Bool) : (t.setBusy i b).tenant = t.tenant := rfl
@[simp] theorem Thread.setBusy_grp (t : Thread) (i : Nat) (b : Bool) : (t.setBusy i b).grp = t.grp := rfl
@[simp] theorem Thread.setBusy_rank (t : Thread) (i : Nat) (b : Bool) : (t.setBusy i b).rank = t.rank := rfl
@[simp] theorem Thread.setBusy_sb (t : Thread) (i : Nat) (b : Bool) : (t.setBusy i b).sb = t.sb := rfl
@[simp] theorem Thread.setBusy_fetch (t : Thread) (i : Nat) (b : Bool) : (t.setBusy i b).fetch = t.fetch := rfl
@[simp] theorem Thread.setBusy_markActive (t : Thread) (i : Nat) (b : Bool) : (t.setBusy i b).markActive = t.markActive := rfl
@[simp] theorem Thread.setBusy_draws (t : Thread) (i : Nat) (b : Bool) : (t.setBusy i b).draws = t.draws := rfl
@[simp] theorem Thread.setBusy_ranges (t : Thread) (i : Nat) (b : Bool) : (t.setBusy i b).ranges = t.ranges := rfl
@[simp] theorem Thread.setBusy_overflow (t : Thread) (i : Nat) (b : Bool) : (t.setBusy i b).overflow = t.overflow := rfl
@[simp] theorem Thread.setBusy_pending (t : Thread) (i : Nat) (b : Bool) : (t.setBusy i b).pending = t.pending := rfl
@[simp] theorem Thread.setBusy_park (t : Thread) (i : Nat) (b : Bool) : (t.setBusy i b).park = t.park := rfl
@[simp] theorem Thread.setBusy_wait (t : Thread) (i : Nat) (b : Bool) : (t.setBusy i b).wait = t.wait := rfl
@[simp] theorem Thread.setBusy_walk (t : Thread) (i : Nat) (b : Bool) : (t.setBusy i b).walk = t.walk := rfl
@[simp] theorem Thread.setBusy_pageFail (t : Thread) (i : Nat) (b : Bool) : (t.setBusy i b).pageFail = t.pageFail := rfl
@[simp] theorem Thread.setBusy_gang (t : Thread) (i : Nat) (b : Bool) : (t.setBusy i b).gang = t.gang := rfl
@[simp] theorem Thread.setBusy_inherit (t : Thread) (i : Nat) (b : Bool) : (t.setBusy i b).inherit = t.inherit := rfl
@[simp] theorem Thread.setBusy_drain (t : Thread) (i : Nat) (b : Bool) : (t.setBusy i b).drain = t.drain := rfl
@[simp] theorem Thread.setBusy_inheriting (t : Thread) (i : Nat) (b : Bool) : (t.setBusy i b).inheriting = t.inheriting := rfl
@[simp] theorem Thread.setBusy_arriving (t : Thread) (i : Nat) (b : Bool) : (t.setBusy i b).arriving = t.arriving := rfl
@[simp] theorem Thread.setBusy_exited (t : Thread) (i : Nat) (b : Bool) : (t.setBusy i b).exited = t.exited := rfl
@[simp] theorem Thread.setBusy_windowFault (t : Thread) (i : Nat) (b : Bool) : (t.setBusy i b).windowFault = t.windowFault := rfl
@[simp] theorem Thread.setBusy_rotate (t : Thread) (i : Nat) (b : Bool) : (t.setBusy i b).rotate = t.rotate := rfl
@[simp] theorem Thread.setBusy_xldCycles (t : Thread) (i : Nat) (b : Bool) : (t.setBusy i b).xldCycles = t.xldCycles := rfl
@[simp] theorem Thread.setBusy_xldExpired (t : Thread) (i : Nat) (b : Bool) : (t.setBusy i b).xldExpired = t.xldExpired := rfl
@[simp] theorem Thread.setBusy_stepping (t : Thread) (i : Nat) (b : Bool) : (t.setBusy i b).stepping = t.stepping := rfl
@[simp] theorem Thread.setBusy_stopping (t : Thread) (i : Nat) (b : Bool) : (t.setBusy i b).stopping = t.stopping := rfl
@[simp] theorem Thread.setBusy_held (t : Thread) (i : Nat) (b : Bool) : (t.setBusy i b).held = t.held := rfl

@[simp] theorem Thread.setVBusy_slot (t : Thread) (i : Nat) (b : Bool) : (t.setVBusy i b).slot = t.slot := rfl
@[simp] theorem Thread.setVBusy_pc (t : Thread) (i : Nat) (b : Bool) : (t.setVBusy i b).pc = t.pc := rfl
@[simp] theorem Thread.setVBusy_regs (t : Thread) (i : Nat) (b : Bool) : (t.setVBusy i b).regs = t.regs := rfl
@[simp] theorem Thread.setVBusy_present (t : Thread) (i : Nat) (b : Bool) : (t.setVBusy i b).present = t.present := rfl
@[simp] theorem Thread.setVBusy_busy (t : Thread) (i : Nat) (b : Bool) : (t.setVBusy i b).busy = t.busy := rfl
@[simp] theorem Thread.setVBusy_pend (t : Thread) (i : Nat) (b : Bool) : (t.setVBusy i b).pend = t.pend := rfl
@[simp] theorem Thread.setVBusy_v (t : Thread) (i : Nat) (b : Bool) : (t.setVBusy i b).v = t.v := rfl
@[simp] theorem Thread.setVBusy_vbusy (t : Thread) (i : Nat) (b : Bool) : (t.setVBusy i b).vbusy = setBitOf t.vbusy i b := rfl
@[simp] theorem Thread.setVBusy_m (t : Thread) (i : Nat) (b : Bool) : (t.setVBusy i b).m = t.m := rfl
@[simp] theorem Thread.setVBusy_p (t : Thread) (i : Nat) (b : Bool) : (t.setVBusy i b).p = t.p := rfl
@[simp] theorem Thread.setVBusy_rings (t : Thread) (i : Nat) (b : Bool) : (t.setVBusy i b).rings = t.rings := rfl
@[simp] theorem Thread.setVBusy_segs (t : Thread) (i : Nat) (b : Bool) : (t.setVBusy i b).segs = t.segs := rfl
@[simp] theorem Thread.setVBusy_sys (t : Thread) (i : Nat) (b : Bool) : (t.setVBusy i b).sys = t.sys := rfl
@[simp] theorem Thread.setVBusy_tenant (t : Thread) (i : Nat) (b : Bool) : (t.setVBusy i b).tenant = t.tenant := rfl
@[simp] theorem Thread.setVBusy_grp (t : Thread) (i : Nat) (b : Bool) : (t.setVBusy i b).grp = t.grp := rfl
@[simp] theorem Thread.setVBusy_rank (t : Thread) (i : Nat) (b : Bool) : (t.setVBusy i b).rank = t.rank := rfl
@[simp] theorem Thread.setVBusy_sb (t : Thread) (i : Nat) (b : Bool) : (t.setVBusy i b).sb = t.sb := rfl
@[simp] theorem Thread.setVBusy_fetch (t : Thread) (i : Nat) (b : Bool) : (t.setVBusy i b).fetch = t.fetch := rfl
@[simp] theorem Thread.setVBusy_markActive (t : Thread) (i : Nat) (b : Bool) : (t.setVBusy i b).markActive = t.markActive := rfl
@[simp] theorem Thread.setVBusy_draws (t : Thread) (i : Nat) (b : Bool) : (t.setVBusy i b).draws = t.draws := rfl
@[simp] theorem Thread.setVBusy_ranges (t : Thread) (i : Nat) (b : Bool) : (t.setVBusy i b).ranges = t.ranges := rfl
@[simp] theorem Thread.setVBusy_overflow (t : Thread) (i : Nat) (b : Bool) : (t.setVBusy i b).overflow = t.overflow := rfl
@[simp] theorem Thread.setVBusy_pending (t : Thread) (i : Nat) (b : Bool) : (t.setVBusy i b).pending = t.pending := rfl
@[simp] theorem Thread.setVBusy_park (t : Thread) (i : Nat) (b : Bool) : (t.setVBusy i b).park = t.park := rfl
@[simp] theorem Thread.setVBusy_wait (t : Thread) (i : Nat) (b : Bool) : (t.setVBusy i b).wait = t.wait := rfl
@[simp] theorem Thread.setVBusy_walk (t : Thread) (i : Nat) (b : Bool) : (t.setVBusy i b).walk = t.walk := rfl
@[simp] theorem Thread.setVBusy_pageFail (t : Thread) (i : Nat) (b : Bool) : (t.setVBusy i b).pageFail = t.pageFail := rfl
@[simp] theorem Thread.setVBusy_gang (t : Thread) (i : Nat) (b : Bool) : (t.setVBusy i b).gang = t.gang := rfl
@[simp] theorem Thread.setVBusy_inherit (t : Thread) (i : Nat) (b : Bool) : (t.setVBusy i b).inherit = t.inherit := rfl
@[simp] theorem Thread.setVBusy_drain (t : Thread) (i : Nat) (b : Bool) : (t.setVBusy i b).drain = t.drain := rfl
@[simp] theorem Thread.setVBusy_inheriting (t : Thread) (i : Nat) (b : Bool) : (t.setVBusy i b).inheriting = t.inheriting := rfl
@[simp] theorem Thread.setVBusy_arriving (t : Thread) (i : Nat) (b : Bool) : (t.setVBusy i b).arriving = t.arriving := rfl
@[simp] theorem Thread.setVBusy_exited (t : Thread) (i : Nat) (b : Bool) : (t.setVBusy i b).exited = t.exited := rfl
@[simp] theorem Thread.setVBusy_windowFault (t : Thread) (i : Nat) (b : Bool) : (t.setVBusy i b).windowFault = t.windowFault := rfl
@[simp] theorem Thread.setVBusy_rotate (t : Thread) (i : Nat) (b : Bool) : (t.setVBusy i b).rotate = t.rotate := rfl
@[simp] theorem Thread.setVBusy_xldCycles (t : Thread) (i : Nat) (b : Bool) : (t.setVBusy i b).xldCycles = t.xldCycles := rfl
@[simp] theorem Thread.setVBusy_xldExpired (t : Thread) (i : Nat) (b : Bool) : (t.setVBusy i b).xldExpired = t.xldExpired := rfl
@[simp] theorem Thread.setVBusy_stepping (t : Thread) (i : Nat) (b : Bool) : (t.setVBusy i b).stepping = t.stepping := rfl
@[simp] theorem Thread.setVBusy_stopping (t : Thread) (i : Nat) (b : Bool) : (t.setVBusy i b).stopping = t.stopping := rfl
@[simp] theorem Thread.setVBusy_held (t : Thread) (i : Nat) (b : Bool) : (t.setVBusy i b).held = t.held := rfl

@[simp] theorem Thread.setPend_slot (t : Thread) (i : Nat) (b : Bool) : (t.setPend i b).slot = t.slot := rfl
@[simp] theorem Thread.setPend_pc (t : Thread) (i : Nat) (b : Bool) : (t.setPend i b).pc = t.pc := rfl
@[simp] theorem Thread.setPend_regs (t : Thread) (i : Nat) (b : Bool) : (t.setPend i b).regs = t.regs := rfl
@[simp] theorem Thread.setPend_present (t : Thread) (i : Nat) (b : Bool) : (t.setPend i b).present = t.present := rfl
@[simp] theorem Thread.setPend_busy (t : Thread) (i : Nat) (b : Bool) : (t.setPend i b).busy = t.busy := rfl
@[simp] theorem Thread.setPend_pend (t : Thread) (i : Nat) (b : Bool) : (t.setPend i b).pend = setBitOf t.pend i b := rfl
@[simp] theorem Thread.setPend_v (t : Thread) (i : Nat) (b : Bool) : (t.setPend i b).v = t.v := rfl
@[simp] theorem Thread.setPend_vbusy (t : Thread) (i : Nat) (b : Bool) : (t.setPend i b).vbusy = t.vbusy := rfl
@[simp] theorem Thread.setPend_m (t : Thread) (i : Nat) (b : Bool) : (t.setPend i b).m = t.m := rfl
@[simp] theorem Thread.setPend_p (t : Thread) (i : Nat) (b : Bool) : (t.setPend i b).p = t.p := rfl
@[simp] theorem Thread.setPend_rings (t : Thread) (i : Nat) (b : Bool) : (t.setPend i b).rings = t.rings := rfl
@[simp] theorem Thread.setPend_segs (t : Thread) (i : Nat) (b : Bool) : (t.setPend i b).segs = t.segs := rfl
@[simp] theorem Thread.setPend_sys (t : Thread) (i : Nat) (b : Bool) : (t.setPend i b).sys = t.sys := rfl
@[simp] theorem Thread.setPend_tenant (t : Thread) (i : Nat) (b : Bool) : (t.setPend i b).tenant = t.tenant := rfl
@[simp] theorem Thread.setPend_grp (t : Thread) (i : Nat) (b : Bool) : (t.setPend i b).grp = t.grp := rfl
@[simp] theorem Thread.setPend_rank (t : Thread) (i : Nat) (b : Bool) : (t.setPend i b).rank = t.rank := rfl
@[simp] theorem Thread.setPend_sb (t : Thread) (i : Nat) (b : Bool) : (t.setPend i b).sb = t.sb := rfl
@[simp] theorem Thread.setPend_fetch (t : Thread) (i : Nat) (b : Bool) : (t.setPend i b).fetch = t.fetch := rfl
@[simp] theorem Thread.setPend_markActive (t : Thread) (i : Nat) (b : Bool) : (t.setPend i b).markActive = t.markActive := rfl
@[simp] theorem Thread.setPend_draws (t : Thread) (i : Nat) (b : Bool) : (t.setPend i b).draws = t.draws := rfl
@[simp] theorem Thread.setPend_ranges (t : Thread) (i : Nat) (b : Bool) : (t.setPend i b).ranges = t.ranges := rfl
@[simp] theorem Thread.setPend_overflow (t : Thread) (i : Nat) (b : Bool) : (t.setPend i b).overflow = t.overflow := rfl
@[simp] theorem Thread.setPend_pending (t : Thread) (i : Nat) (b : Bool) : (t.setPend i b).pending = t.pending := rfl
@[simp] theorem Thread.setPend_park (t : Thread) (i : Nat) (b : Bool) : (t.setPend i b).park = t.park := rfl
@[simp] theorem Thread.setPend_wait (t : Thread) (i : Nat) (b : Bool) : (t.setPend i b).wait = t.wait := rfl
@[simp] theorem Thread.setPend_walk (t : Thread) (i : Nat) (b : Bool) : (t.setPend i b).walk = t.walk := rfl
@[simp] theorem Thread.setPend_pageFail (t : Thread) (i : Nat) (b : Bool) : (t.setPend i b).pageFail = t.pageFail := rfl
@[simp] theorem Thread.setPend_gang (t : Thread) (i : Nat) (b : Bool) : (t.setPend i b).gang = t.gang := rfl
@[simp] theorem Thread.setPend_inherit (t : Thread) (i : Nat) (b : Bool) : (t.setPend i b).inherit = t.inherit := rfl
@[simp] theorem Thread.setPend_drain (t : Thread) (i : Nat) (b : Bool) : (t.setPend i b).drain = t.drain := rfl
@[simp] theorem Thread.setPend_inheriting (t : Thread) (i : Nat) (b : Bool) : (t.setPend i b).inheriting = t.inheriting := rfl
@[simp] theorem Thread.setPend_arriving (t : Thread) (i : Nat) (b : Bool) : (t.setPend i b).arriving = t.arriving := rfl
@[simp] theorem Thread.setPend_exited (t : Thread) (i : Nat) (b : Bool) : (t.setPend i b).exited = t.exited := rfl
@[simp] theorem Thread.setPend_windowFault (t : Thread) (i : Nat) (b : Bool) : (t.setPend i b).windowFault = t.windowFault := rfl
@[simp] theorem Thread.setPend_rotate (t : Thread) (i : Nat) (b : Bool) : (t.setPend i b).rotate = t.rotate := rfl
@[simp] theorem Thread.setPend_xldCycles (t : Thread) (i : Nat) (b : Bool) : (t.setPend i b).xldCycles = t.xldCycles := rfl
@[simp] theorem Thread.setPend_xldExpired (t : Thread) (i : Nat) (b : Bool) : (t.setPend i b).xldExpired = t.xldExpired := rfl
@[simp] theorem Thread.setPend_stepping (t : Thread) (i : Nat) (b : Bool) : (t.setPend i b).stepping = t.stepping := rfl
@[simp] theorem Thread.setPend_stopping (t : Thread) (i : Nat) (b : Bool) : (t.setPend i b).stopping = t.stopping := rfl
@[simp] theorem Thread.setPend_held (t : Thread) (i : Nat) (b : Bool) : (t.setPend i b).held = t.held := rfl

@[simp] theorem Thread.clearPresent_slot (t : Thread) (i : Nat) : (t.clearPresent i).slot = t.slot := rfl
@[simp] theorem Thread.clearPresent_pc (t : Thread) (i : Nat) : (t.clearPresent i).pc = t.pc := rfl
@[simp] theorem Thread.clearPresent_regs (t : Thread) (i : Nat) : (t.clearPresent i).regs = t.regs := rfl
@[simp] theorem Thread.clearPresent_present (t : Thread) (i : Nat) : (t.clearPresent i).present = setBitOf t.present i false := rfl
@[simp] theorem Thread.clearPresent_busy (t : Thread) (i : Nat) : (t.clearPresent i).busy = t.busy := rfl
@[simp] theorem Thread.clearPresent_pend (t : Thread) (i : Nat) : (t.clearPresent i).pend = t.pend := rfl
@[simp] theorem Thread.clearPresent_v (t : Thread) (i : Nat) : (t.clearPresent i).v = t.v := rfl
@[simp] theorem Thread.clearPresent_vbusy (t : Thread) (i : Nat) : (t.clearPresent i).vbusy = t.vbusy := rfl
@[simp] theorem Thread.clearPresent_m (t : Thread) (i : Nat) : (t.clearPresent i).m = t.m := rfl
@[simp] theorem Thread.clearPresent_p (t : Thread) (i : Nat) : (t.clearPresent i).p = t.p := rfl
@[simp] theorem Thread.clearPresent_rings (t : Thread) (i : Nat) : (t.clearPresent i).rings = t.rings := rfl
@[simp] theorem Thread.clearPresent_segs (t : Thread) (i : Nat) : (t.clearPresent i).segs = t.segs := rfl
@[simp] theorem Thread.clearPresent_sys (t : Thread) (i : Nat) : (t.clearPresent i).sys = t.sys := rfl
@[simp] theorem Thread.clearPresent_tenant (t : Thread) (i : Nat) : (t.clearPresent i).tenant = t.tenant := rfl
@[simp] theorem Thread.clearPresent_grp (t : Thread) (i : Nat) : (t.clearPresent i).grp = t.grp := rfl
@[simp] theorem Thread.clearPresent_rank (t : Thread) (i : Nat) : (t.clearPresent i).rank = t.rank := rfl
@[simp] theorem Thread.clearPresent_sb (t : Thread) (i : Nat) : (t.clearPresent i).sb = t.sb := rfl
@[simp] theorem Thread.clearPresent_fetch (t : Thread) (i : Nat) : (t.clearPresent i).fetch = t.fetch := rfl
@[simp] theorem Thread.clearPresent_markActive (t : Thread) (i : Nat) : (t.clearPresent i).markActive = t.markActive := rfl
@[simp] theorem Thread.clearPresent_draws (t : Thread) (i : Nat) : (t.clearPresent i).draws = t.draws := rfl
@[simp] theorem Thread.clearPresent_ranges (t : Thread) (i : Nat) : (t.clearPresent i).ranges = t.ranges := rfl
@[simp] theorem Thread.clearPresent_overflow (t : Thread) (i : Nat) : (t.clearPresent i).overflow = t.overflow := rfl
@[simp] theorem Thread.clearPresent_pending (t : Thread) (i : Nat) : (t.clearPresent i).pending = t.pending := rfl
@[simp] theorem Thread.clearPresent_park (t : Thread) (i : Nat) : (t.clearPresent i).park = t.park := rfl
@[simp] theorem Thread.clearPresent_wait (t : Thread) (i : Nat) : (t.clearPresent i).wait = t.wait := rfl
@[simp] theorem Thread.clearPresent_walk (t : Thread) (i : Nat) : (t.clearPresent i).walk = t.walk := rfl
@[simp] theorem Thread.clearPresent_pageFail (t : Thread) (i : Nat) : (t.clearPresent i).pageFail = t.pageFail := rfl
@[simp] theorem Thread.clearPresent_gang (t : Thread) (i : Nat) : (t.clearPresent i).gang = t.gang := rfl
@[simp] theorem Thread.clearPresent_inherit (t : Thread) (i : Nat) : (t.clearPresent i).inherit = t.inherit := rfl
@[simp] theorem Thread.clearPresent_drain (t : Thread) (i : Nat) : (t.clearPresent i).drain = t.drain := rfl
@[simp] theorem Thread.clearPresent_inheriting (t : Thread) (i : Nat) : (t.clearPresent i).inheriting = t.inheriting := rfl
@[simp] theorem Thread.clearPresent_arriving (t : Thread) (i : Nat) : (t.clearPresent i).arriving = t.arriving := rfl
@[simp] theorem Thread.clearPresent_exited (t : Thread) (i : Nat) : (t.clearPresent i).exited = t.exited := rfl
@[simp] theorem Thread.clearPresent_windowFault (t : Thread) (i : Nat) : (t.clearPresent i).windowFault = t.windowFault := rfl
@[simp] theorem Thread.clearPresent_rotate (t : Thread) (i : Nat) : (t.clearPresent i).rotate = t.rotate := rfl
@[simp] theorem Thread.clearPresent_xldCycles (t : Thread) (i : Nat) : (t.clearPresent i).xldCycles = t.xldCycles := rfl
@[simp] theorem Thread.clearPresent_xldExpired (t : Thread) (i : Nat) : (t.clearPresent i).xldExpired = t.xldExpired := rfl
@[simp] theorem Thread.clearPresent_stepping (t : Thread) (i : Nat) : (t.clearPresent i).stepping = t.stepping := rfl
@[simp] theorem Thread.clearPresent_stopping (t : Thread) (i : Nat) : (t.clearPresent i).stopping = t.stopping := rfl
@[simp] theorem Thread.clearPresent_held (t : Thread) (i : Nat) : (t.clearPresent i).held = t.held := rfl

@[simp] theorem Thread.setStatus_slot (t : Thread) (w : Word) : (t.setStatus w).slot = t.slot := rfl
@[simp] theorem Thread.setStatus_pc (t : Thread) (w : Word) : (t.setStatus w).pc = t.pc := rfl
@[simp] theorem Thread.setStatus_regs (t : Thread) (w : Word) : (t.setStatus w).regs = t.regs := rfl
@[simp] theorem Thread.setStatus_present (t : Thread) (w : Word) : (t.setStatus w).present = t.present := rfl
@[simp] theorem Thread.setStatus_busy (t : Thread) (w : Word) : (t.setStatus w).busy = t.busy := rfl
@[simp] theorem Thread.setStatus_pend (t : Thread) (w : Word) : (t.setStatus w).pend = t.pend := rfl
@[simp] theorem Thread.setStatus_v (t : Thread) (w : Word) : (t.setStatus w).v = t.v := rfl
@[simp] theorem Thread.setStatus_vbusy (t : Thread) (w : Word) : (t.setStatus w).vbusy = t.vbusy := rfl
@[simp] theorem Thread.setStatus_m (t : Thread) (w : Word) : (t.setStatus w).m = t.m := rfl
@[simp] theorem Thread.setStatus_p (t : Thread) (w : Word) : (t.setStatus w).p = t.p := rfl
@[simp] theorem Thread.setStatus_rings (t : Thread) (w : Word) : (t.setStatus w).rings = t.rings := rfl
@[simp] theorem Thread.setStatus_segs (t : Thread) (w : Word) : (t.setStatus w).segs = t.segs := rfl
@[simp] theorem Thread.setStatus_sys (t : Thread) (w : Word) : (t.setStatus w).sys = { t.sys with status := w } := rfl
@[simp] theorem Thread.setStatus_tenant (t : Thread) (w : Word) : (t.setStatus w).tenant = t.tenant := rfl
@[simp] theorem Thread.setStatus_grp (t : Thread) (w : Word) : (t.setStatus w).grp = t.grp := rfl
@[simp] theorem Thread.setStatus_rank (t : Thread) (w : Word) : (t.setStatus w).rank = t.rank := rfl
@[simp] theorem Thread.setStatus_sb (t : Thread) (w : Word) : (t.setStatus w).sb = t.sb := rfl
@[simp] theorem Thread.setStatus_fetch (t : Thread) (w : Word) : (t.setStatus w).fetch = t.fetch := rfl
@[simp] theorem Thread.setStatus_markActive (t : Thread) (w : Word) : (t.setStatus w).markActive = t.markActive := rfl
@[simp] theorem Thread.setStatus_draws (t : Thread) (w : Word) : (t.setStatus w).draws = t.draws := rfl
@[simp] theorem Thread.setStatus_ranges (t : Thread) (w : Word) : (t.setStatus w).ranges = t.ranges := rfl
@[simp] theorem Thread.setStatus_overflow (t : Thread) (w : Word) : (t.setStatus w).overflow = t.overflow := rfl
@[simp] theorem Thread.setStatus_pending (t : Thread) (w : Word) : (t.setStatus w).pending = t.pending := rfl
@[simp] theorem Thread.setStatus_park (t : Thread) (w : Word) : (t.setStatus w).park = t.park := rfl
@[simp] theorem Thread.setStatus_wait (t : Thread) (w : Word) : (t.setStatus w).wait = t.wait := rfl
@[simp] theorem Thread.setStatus_walk (t : Thread) (w : Word) : (t.setStatus w).walk = t.walk := rfl
@[simp] theorem Thread.setStatus_pageFail (t : Thread) (w : Word) : (t.setStatus w).pageFail = t.pageFail := rfl
@[simp] theorem Thread.setStatus_gang (t : Thread) (w : Word) : (t.setStatus w).gang = t.gang := rfl
@[simp] theorem Thread.setStatus_inherit (t : Thread) (w : Word) : (t.setStatus w).inherit = t.inherit := rfl
@[simp] theorem Thread.setStatus_drain (t : Thread) (w : Word) : (t.setStatus w).drain = t.drain := rfl
@[simp] theorem Thread.setStatus_inheriting (t : Thread) (w : Word) : (t.setStatus w).inheriting = t.inheriting := rfl
@[simp] theorem Thread.setStatus_arriving (t : Thread) (w : Word) : (t.setStatus w).arriving = t.arriving := rfl
@[simp] theorem Thread.setStatus_exited (t : Thread) (w : Word) : (t.setStatus w).exited = t.exited := rfl
@[simp] theorem Thread.setStatus_windowFault (t : Thread) (w : Word) : (t.setStatus w).windowFault = t.windowFault := rfl
@[simp] theorem Thread.setStatus_rotate (t : Thread) (w : Word) : (t.setStatus w).rotate = t.rotate := rfl
@[simp] theorem Thread.setStatus_xldCycles (t : Thread) (w : Word) : (t.setStatus w).xldCycles = t.xldCycles := rfl
@[simp] theorem Thread.setStatus_xldExpired (t : Thread) (w : Word) : (t.setStatus w).xldExpired = t.xldExpired := rfl
@[simp] theorem Thread.setStatus_stepping (t : Thread) (w : Word) : (t.setStatus w).stepping = t.stepping := rfl
@[simp] theorem Thread.setStatus_stopping (t : Thread) (w : Word) : (t.setStatus w).stopping = t.stopping := rfl
@[simp] theorem Thread.setStatus_held (t : Thread) (w : Word) : (t.setStatus w).held = t.held := rfl

@[simp] theorem Thread.setPred_slot (t : Thread) (i : Nat) (b : Bool) : (t.setPred i b).slot = t.slot := by
  unfold Thread.setPred; split <;> rfl
@[simp] theorem Thread.setPred_pc (t : Thread) (i : Nat) (b : Bool) : (t.setPred i b).pc = t.pc := by
  unfold Thread.setPred; split <;> rfl
@[simp] theorem Thread.setPred_regs (t : Thread) (i : Nat) (b : Bool) : (t.setPred i b).regs = t.regs := by
  unfold Thread.setPred; split <;> rfl
@[simp] theorem Thread.setPred_present (t : Thread) (i : Nat) (b : Bool) : (t.setPred i b).present = t.present := by
  unfold Thread.setPred; split <;> rfl
@[simp] theorem Thread.setPred_busy (t : Thread) (i : Nat) (b : Bool) : (t.setPred i b).busy = t.busy := by
  unfold Thread.setPred; split <;> rfl
@[simp] theorem Thread.setPred_pend (t : Thread) (i : Nat) (b : Bool) : (t.setPred i b).pend = t.pend := by
  unfold Thread.setPred; split <;> rfl
@[simp] theorem Thread.setPred_v (t : Thread) (i : Nat) (b : Bool) : (t.setPred i b).v = t.v := by
  unfold Thread.setPred; split <;> rfl
@[simp] theorem Thread.setPred_vbusy (t : Thread) (i : Nat) (b : Bool) : (t.setPred i b).vbusy = t.vbusy := by
  unfold Thread.setPred; split <;> rfl
@[simp] theorem Thread.setPred_m (t : Thread) (i : Nat) (b : Bool) : (t.setPred i b).m = t.m := by
  unfold Thread.setPred; split <;> rfl
@[simp] theorem Thread.setPred_rings (t : Thread) (i : Nat) (b : Bool) : (t.setPred i b).rings = t.rings := by
  unfold Thread.setPred; split <;> rfl
@[simp] theorem Thread.setPred_segs (t : Thread) (i : Nat) (b : Bool) : (t.setPred i b).segs = t.segs := by
  unfold Thread.setPred; split <;> rfl
@[simp] theorem Thread.setPred_sys (t : Thread) (i : Nat) (b : Bool) : (t.setPred i b).sys = t.sys := by
  unfold Thread.setPred; split <;> rfl
@[simp] theorem Thread.setPred_tenant (t : Thread) (i : Nat) (b : Bool) : (t.setPred i b).tenant = t.tenant := by
  unfold Thread.setPred; split <;> rfl
@[simp] theorem Thread.setPred_grp (t : Thread) (i : Nat) (b : Bool) : (t.setPred i b).grp = t.grp := by
  unfold Thread.setPred; split <;> rfl
@[simp] theorem Thread.setPred_rank (t : Thread) (i : Nat) (b : Bool) : (t.setPred i b).rank = t.rank := by
  unfold Thread.setPred; split <;> rfl
@[simp] theorem Thread.setPred_sb (t : Thread) (i : Nat) (b : Bool) : (t.setPred i b).sb = t.sb := by
  unfold Thread.setPred; split <;> rfl
@[simp] theorem Thread.setPred_fetch (t : Thread) (i : Nat) (b : Bool) : (t.setPred i b).fetch = t.fetch := by
  unfold Thread.setPred; split <;> rfl
@[simp] theorem Thread.setPred_markActive (t : Thread) (i : Nat) (b : Bool) : (t.setPred i b).markActive = t.markActive := by
  unfold Thread.setPred; split <;> rfl
@[simp] theorem Thread.setPred_draws (t : Thread) (i : Nat) (b : Bool) : (t.setPred i b).draws = t.draws := by
  unfold Thread.setPred; split <;> rfl
@[simp] theorem Thread.setPred_ranges (t : Thread) (i : Nat) (b : Bool) : (t.setPred i b).ranges = t.ranges := by
  unfold Thread.setPred; split <;> rfl
@[simp] theorem Thread.setPred_overflow (t : Thread) (i : Nat) (b : Bool) : (t.setPred i b).overflow = t.overflow := by
  unfold Thread.setPred; split <;> rfl
@[simp] theorem Thread.setPred_pending (t : Thread) (i : Nat) (b : Bool) : (t.setPred i b).pending = t.pending := by
  unfold Thread.setPred; split <;> rfl
@[simp] theorem Thread.setPred_park (t : Thread) (i : Nat) (b : Bool) : (t.setPred i b).park = t.park := by
  unfold Thread.setPred; split <;> rfl
@[simp] theorem Thread.setPred_wait (t : Thread) (i : Nat) (b : Bool) : (t.setPred i b).wait = t.wait := by
  unfold Thread.setPred; split <;> rfl
@[simp] theorem Thread.setPred_walk (t : Thread) (i : Nat) (b : Bool) : (t.setPred i b).walk = t.walk := by
  unfold Thread.setPred; split <;> rfl
@[simp] theorem Thread.setPred_pageFail (t : Thread) (i : Nat) (b : Bool) : (t.setPred i b).pageFail = t.pageFail := by
  unfold Thread.setPred; split <;> rfl
@[simp] theorem Thread.setPred_gang (t : Thread) (i : Nat) (b : Bool) : (t.setPred i b).gang = t.gang := by
  unfold Thread.setPred; split <;> rfl
@[simp] theorem Thread.setPred_inherit (t : Thread) (i : Nat) (b : Bool) : (t.setPred i b).inherit = t.inherit := by
  unfold Thread.setPred; split <;> rfl
@[simp] theorem Thread.setPred_drain (t : Thread) (i : Nat) (b : Bool) : (t.setPred i b).drain = t.drain := by
  unfold Thread.setPred; split <;> rfl
@[simp] theorem Thread.setPred_inheriting (t : Thread) (i : Nat) (b : Bool) : (t.setPred i b).inheriting = t.inheriting := by
  unfold Thread.setPred; split <;> rfl
@[simp] theorem Thread.setPred_arriving (t : Thread) (i : Nat) (b : Bool) : (t.setPred i b).arriving = t.arriving := by
  unfold Thread.setPred; split <;> rfl
@[simp] theorem Thread.setPred_exited (t : Thread) (i : Nat) (b : Bool) : (t.setPred i b).exited = t.exited := by
  unfold Thread.setPred; split <;> rfl
@[simp] theorem Thread.setPred_windowFault (t : Thread) (i : Nat) (b : Bool) : (t.setPred i b).windowFault = t.windowFault := by
  unfold Thread.setPred; split <;> rfl
@[simp] theorem Thread.setPred_rotate (t : Thread) (i : Nat) (b : Bool) : (t.setPred i b).rotate = t.rotate := by
  unfold Thread.setPred; split <;> rfl
@[simp] theorem Thread.setPred_xldCycles (t : Thread) (i : Nat) (b : Bool) : (t.setPred i b).xldCycles = t.xldCycles := by
  unfold Thread.setPred; split <;> rfl
@[simp] theorem Thread.setPred_xldExpired (t : Thread) (i : Nat) (b : Bool) : (t.setPred i b).xldExpired = t.xldExpired := by
  unfold Thread.setPred; split <;> rfl
@[simp] theorem Thread.setPred_stepping (t : Thread) (i : Nat) (b : Bool) : (t.setPred i b).stepping = t.stepping := by
  unfold Thread.setPred; split <;> rfl
@[simp] theorem Thread.setPred_stopping (t : Thread) (i : Nat) (b : Bool) : (t.setPred i b).stopping = t.stopping := by
  unfold Thread.setPred; split <;> rfl
@[simp] theorem Thread.setPred_held (t : Thread) (i : Nat) (b : Bool) : (t.setPred i b).held = t.held := by
  unfold Thread.setPred; split <;> rfl

@[simp] theorem Thread.setMask_slot (t : Thread) (i : Nat) (w : Word) : (t.setMask i w).slot = t.slot := by
  unfold Thread.setMask; split <;> rfl
@[simp] theorem Thread.setMask_pc (t : Thread) (i : Nat) (w : Word) : (t.setMask i w).pc = t.pc := by
  unfold Thread.setMask; split <;> rfl
@[simp] theorem Thread.setMask_regs (t : Thread) (i : Nat) (w : Word) : (t.setMask i w).regs = t.regs := by
  unfold Thread.setMask; split <;> rfl
@[simp] theorem Thread.setMask_present (t : Thread) (i : Nat) (w : Word) : (t.setMask i w).present = t.present := by
  unfold Thread.setMask; split <;> rfl
@[simp] theorem Thread.setMask_busy (t : Thread) (i : Nat) (w : Word) : (t.setMask i w).busy = t.busy := by
  unfold Thread.setMask; split <;> rfl
@[simp] theorem Thread.setMask_pend (t : Thread) (i : Nat) (w : Word) : (t.setMask i w).pend = t.pend := by
  unfold Thread.setMask; split <;> rfl
@[simp] theorem Thread.setMask_v (t : Thread) (i : Nat) (w : Word) : (t.setMask i w).v = t.v := by
  unfold Thread.setMask; split <;> rfl
@[simp] theorem Thread.setMask_vbusy (t : Thread) (i : Nat) (w : Word) : (t.setMask i w).vbusy = t.vbusy := by
  unfold Thread.setMask; split <;> rfl
@[simp] theorem Thread.setMask_p (t : Thread) (i : Nat) (w : Word) : (t.setMask i w).p = t.p := by
  unfold Thread.setMask; split <;> rfl
@[simp] theorem Thread.setMask_rings (t : Thread) (i : Nat) (w : Word) : (t.setMask i w).rings = t.rings := by
  unfold Thread.setMask; split <;> rfl
@[simp] theorem Thread.setMask_segs (t : Thread) (i : Nat) (w : Word) : (t.setMask i w).segs = t.segs := by
  unfold Thread.setMask; split <;> rfl
@[simp] theorem Thread.setMask_sys (t : Thread) (i : Nat) (w : Word) : (t.setMask i w).sys = t.sys := by
  unfold Thread.setMask; split <;> rfl
@[simp] theorem Thread.setMask_tenant (t : Thread) (i : Nat) (w : Word) : (t.setMask i w).tenant = t.tenant := by
  unfold Thread.setMask; split <;> rfl
@[simp] theorem Thread.setMask_grp (t : Thread) (i : Nat) (w : Word) : (t.setMask i w).grp = t.grp := by
  unfold Thread.setMask; split <;> rfl
@[simp] theorem Thread.setMask_rank (t : Thread) (i : Nat) (w : Word) : (t.setMask i w).rank = t.rank := by
  unfold Thread.setMask; split <;> rfl
@[simp] theorem Thread.setMask_sb (t : Thread) (i : Nat) (w : Word) : (t.setMask i w).sb = t.sb := by
  unfold Thread.setMask; split <;> rfl
@[simp] theorem Thread.setMask_fetch (t : Thread) (i : Nat) (w : Word) : (t.setMask i w).fetch = t.fetch := by
  unfold Thread.setMask; split <;> rfl
@[simp] theorem Thread.setMask_markActive (t : Thread) (i : Nat) (w : Word) : (t.setMask i w).markActive = t.markActive := by
  unfold Thread.setMask; split <;> rfl
@[simp] theorem Thread.setMask_draws (t : Thread) (i : Nat) (w : Word) : (t.setMask i w).draws = t.draws := by
  unfold Thread.setMask; split <;> rfl
@[simp] theorem Thread.setMask_ranges (t : Thread) (i : Nat) (w : Word) : (t.setMask i w).ranges = t.ranges := by
  unfold Thread.setMask; split <;> rfl
@[simp] theorem Thread.setMask_overflow (t : Thread) (i : Nat) (w : Word) : (t.setMask i w).overflow = t.overflow := by
  unfold Thread.setMask; split <;> rfl
@[simp] theorem Thread.setMask_pending (t : Thread) (i : Nat) (w : Word) : (t.setMask i w).pending = t.pending := by
  unfold Thread.setMask; split <;> rfl
@[simp] theorem Thread.setMask_park (t : Thread) (i : Nat) (w : Word) : (t.setMask i w).park = t.park := by
  unfold Thread.setMask; split <;> rfl
@[simp] theorem Thread.setMask_wait (t : Thread) (i : Nat) (w : Word) : (t.setMask i w).wait = t.wait := by
  unfold Thread.setMask; split <;> rfl
@[simp] theorem Thread.setMask_walk (t : Thread) (i : Nat) (w : Word) : (t.setMask i w).walk = t.walk := by
  unfold Thread.setMask; split <;> rfl
@[simp] theorem Thread.setMask_pageFail (t : Thread) (i : Nat) (w : Word) : (t.setMask i w).pageFail = t.pageFail := by
  unfold Thread.setMask; split <;> rfl
@[simp] theorem Thread.setMask_gang (t : Thread) (i : Nat) (w : Word) : (t.setMask i w).gang = t.gang := by
  unfold Thread.setMask; split <;> rfl
@[simp] theorem Thread.setMask_inherit (t : Thread) (i : Nat) (w : Word) : (t.setMask i w).inherit = t.inherit := by
  unfold Thread.setMask; split <;> rfl
@[simp] theorem Thread.setMask_drain (t : Thread) (i : Nat) (w : Word) : (t.setMask i w).drain = t.drain := by
  unfold Thread.setMask; split <;> rfl
@[simp] theorem Thread.setMask_inheriting (t : Thread) (i : Nat) (w : Word) : (t.setMask i w).inheriting = t.inheriting := by
  unfold Thread.setMask; split <;> rfl
@[simp] theorem Thread.setMask_arriving (t : Thread) (i : Nat) (w : Word) : (t.setMask i w).arriving = t.arriving := by
  unfold Thread.setMask; split <;> rfl
@[simp] theorem Thread.setMask_exited (t : Thread) (i : Nat) (w : Word) : (t.setMask i w).exited = t.exited := by
  unfold Thread.setMask; split <;> rfl
@[simp] theorem Thread.setMask_windowFault (t : Thread) (i : Nat) (w : Word) : (t.setMask i w).windowFault = t.windowFault := by
  unfold Thread.setMask; split <;> rfl
@[simp] theorem Thread.setMask_rotate (t : Thread) (i : Nat) (w : Word) : (t.setMask i w).rotate = t.rotate := by
  unfold Thread.setMask; split <;> rfl
@[simp] theorem Thread.setMask_xldCycles (t : Thread) (i : Nat) (w : Word) : (t.setMask i w).xldCycles = t.xldCycles := by
  unfold Thread.setMask; split <;> rfl
@[simp] theorem Thread.setMask_xldExpired (t : Thread) (i : Nat) (w : Word) : (t.setMask i w).xldExpired = t.xldExpired := by
  unfold Thread.setMask; split <;> rfl
@[simp] theorem Thread.setMask_stepping (t : Thread) (i : Nat) (w : Word) : (t.setMask i w).stepping = t.stepping := by
  unfold Thread.setMask; split <;> rfl
@[simp] theorem Thread.setMask_stopping (t : Thread) (i : Nat) (w : Word) : (t.setMask i w).stopping = t.stopping := by
  unfold Thread.setMask; split <;> rfl
@[simp] theorem Thread.setMask_held (t : Thread) (i : Nat) (w : Word) : (t.setMask i w).held = t.held := by
  unfold Thread.setMask; split <;> rfl

/-! ### Reading what an update wrote -/

@[simp] theorem State.th_setTh (s : State) (t : Nat) (x : Thread) : (s.setTh t x).th t = x := by simp [State.th]
theorem State.th_setTh_of_ne (s : State) (t u : Nat) (x : Thread) (h : u ≠ t) : (s.setTh t x).th u = s.th u := by
  simp [State.th, lookup_insert_of_ne _ _ _ _ _ h.symm]
@[simp] theorem State.me_setMe (s : State) (x : Thread) : (s.setMe x).me = x := by simp [State.me, State.th]
@[simp] theorem State.me_updMe (s : State) (f : Thread → Thread) : (s.updMe f).me = f s.me := by simp [State.me, State.th]
theorem State.th_updMe_of_ne (s : State) (f : Thread → Thread) (u : Nat) (h : u ≠ s.cur) : (s.updMe f).th u = s.th u := by
  simp [State.th, lookup_insert_of_ne _ _ _ _ _ h.symm]
@[simp] theorem State.th_updTh (s : State) (t : Nat) (f : Thread → Thread) : (s.updTh t f).th t = f (s.th t) := by
  simp [State.th]
theorem State.th_updTh_of_ne (s : State) (t u : Nat) (f : Thread → Thread) (h : u ≠ t) : (s.updTh t f).th u = s.th u := by
  simp [State.th, lookup_insert_of_ne _ _ _ _ _ h.symm]
@[simp] theorem State.core_setCore (s : State) (c : Nat) (x : Core) : (s.setCore c x).core c = x := by simp [State.core]
@[simp] theorem State.pkg_setPkg (s : State) (p : Nat) (x : Pkg) : (s.setPkg p x).pkg p = x := by simp [State.pkg]
@[simp] theorem State.die_setDie (s : State) (d : Nat) (x : Die) : (s.setDie d x).die d = x := by simp [State.die]
@[simp] theorem State.cluster_setCluster (s : State) (c : Nat) (x : Cluster) : (s.setCluster c x).cluster c = x := by
  simp [State.cluster]
@[simp] theorem State.barrier_setBarrier (s : State) (b : Nat) (x : Barrier) : (s.setBarrier b x).barrier b = x := by
  simp [State.barrier]

/-- A register reads back what is written to it, and every other register is as before. -/
theorem Thread.reg_setReg (t : Thread) (i : Fin 32) (w : Word) : (t.setReg i.val w).reg i.val = w := by
  simp [Thread.reg, Thread.setReg, Vector.getD]
theorem Thread.reg_setReg_of_ne (t : Thread) (i j : Nat) (w : Word) (h : i ≠ j) : (t.setReg i w).reg j = t.reg j := by
  simp only [Thread.reg, Thread.setReg, Vector.getD, Array.getD]
  by_cases hj : j < 32
  · simp [hj, h]
  · simp [hj]

end Sys2Proof.Machine
end

