-- ==== Sys2Proof/Laws/Operands.lean ====
section
/-! SUPPORT. Laws/Operands.lean: what the shared checks answer, and how an instruction ends, said once. -/
namespace Sys2Proof.Machine

/-! ### Several conditions at once -/

/-- Nothing that holds: no wait. -/
theorem joinWaits_none (l : List (Option Waiting)) (h : ∀ x ∈ l, x = none) : joinWaits l = none := by
  have : l.filterMap id = [] := by simpa [List.filterMap_eq_nil_iff] using h
  unfold joinWaits
  rw [this]

/-- One wait that holds: some wait. -/
theorem joinWaits_some (l : List (Option Waiting)) (w : Waiting) (h : some w ∈ l) : ∃ v, joinWaits l = some v := by
  have hw : w ∈ l.filterMap id := List.mem_filterMap.2 ⟨_, h, rfl⟩
  unfold joinWaits
  cases hl : l.filterMap id with
  | nil => rw [hl] at hw; cases hw
  | cons a t => exact ⟨_, rfl⟩

/-! ### Readiness -/

theorem State.read?_of_ready (s : State) (p : Place) (h : s.SrcReady p) : s.read? p = none := by
  cases p with
  | reg i => simp [State.SrcReady] at h; simp [State.read?, State.readReg?, h]
  | vec i => simp [State.SrcReady] at h; simp [State.read?, State.vec?, h]
  | slot q k =>
    obtain ⟨hk, hc, hf, ha, hi, hs, hd⟩ := h
    have hf' : ¬ (s.src.ring q).filled ≤ k := by omega
    have hq : (decide (q = 0) && s.src.inheriting) = false := by by_cases h : q = 0 <;> simp [h, hi]
    simp only [State.read?, State.readSlot?]
    rw [if_neg (by rcases hk with hk | hk <;> simp [hk, hc])]
    refine joinWaits_none _ ?_
    rcases hk with hk | hk
    · simp [hk, hs, hd, hf', hq]
    · obtain ⟨h1, h2, h3, h4⟩ := ha hk
      simp [hk, h1, h2, h3, h4, hs, hd, hf', hq]
  | pred i => rfl
  | mask i => rfl

theorem State.write?_of_ready (s : State) (p : Place) (h : s.DstReady p) : s.write? p = none := by
  cases p with
  | reg i => simp [State.DstReady] at h; simp [State.write?, State.writeReg?, h]
  | vec i => simp [State.DstReady] at h; simp [State.write?, State.vec?, h]
  | slot q k =>
    obtain ⟨hk, hc, hf, hb⟩ := h
    simp [State.write?, State.writeSlot?, hf, hb]
  | pred i => rfl
  | mask i => rfl

theorem State.badRead_of_ready (s : State) (p : Place) (h : s.SrcReady p) : s.badRead p = none := by
  cases p with
  | slot q k =>
    obtain ⟨hk, hc, _⟩ := h
    rcases hk with hk | hk <;> simp [State.badRead, hk, hc]
  | _ => rfl

theorem State.badWrite_of_ready (s : State) (p : Place) (h : s.DstReady p) : s.badWrite p = none := by
  cases p with
  | slot q k =>
    obtain ⟨hk, hc, _⟩ := h
    rcases hk with hk | hk <;> simp [State.badWrite, hk, hc]
  | _ => rfl

theorem State.markOf_of_plain (s : State) (p : Place) (h : s.SlotPlain p) : s.markOf p = none := by
  cases p with
  | slot q k =>
    obtain ⟨hm, _⟩ := h
    rcases hm with hm | hm <;> simp [State.markOf, hm]
  | _ => rfl

theorem State.txOf_of_plain (s : State) (p : Place) (h : s.SlotPlain p) : s.txOf p = none := by
  cases p with
  | slot q k =>
    obtain ⟨_, hm⟩ := h
    rcases hm with hm | hm <;> simp [State.txOf, hm]
  | _ => rfl

theorem findSome?_none {α β : Type} (f : α → Option β) (l : List α) (h : ∀ a ∈ l, f a = none) : l.findSome? f = none := by
  induction l with
  | nil => rfl
  | cons a t ih =>
    rw [List.findSome?_cons, h a (by simp)]
    exact ih fun b hb => h b (by simp [hb])

/-- Ready operands do not wait. -/
theorem State.waits_of_ready (s : State) (rs ws : List Place) (h : s.Ready rs ws) : s.waits rs ws = .ok () := by
  obtain ⟨hr, hw⟩ := h
  have : joinWaits (rs.map s.read? ++ ws.map s.write?) = none := by
    refine joinWaits_none _ fun x hx => ?_
    rcases List.mem_append.1 hx with hx | hx
    · obtain ⟨p, hp, rfl⟩ := List.mem_map.1 hx
      exact s.read?_of_ready p (hr p hp).1
    · obtain ⟨p, hp, rfl⟩ := List.mem_map.1 hx
      exact s.write?_of_ready p (hw p hp)
  simp only [State.waits, this]

/-- Ready operands use no ring slot wrongly. -/
theorem State.slotUses_of_ready (s : State) (rs ws : List Place) (h : s.Ready rs ws) : s.slotUses rs ws = .ok () := by
  obtain ⟨hr, hw⟩ := h
  simp only [State.slotUses, findSome?_none _ _ fun p hp => s.badRead_of_ready p (hr p hp).1,
    findSome?_none _ _ fun p hp => s.badWrite_of_ready p (hw p hp)]

/-- Ready operands pass every check of an instruction's operands. -/
theorem State.need_of_ready (s : State) (rs ws : List Place) (h : s.Ready rs ws) : s.need rs ws = .ok () := by
  unfold State.need
  rw [s.waits_of_ready rs ws h]
  exact s.slotUses_of_ready rs ws h

theorem State.reading_of_ready (s : State) (rs ws : List Place) (h : s.Ready rs ws) : s.reading rs = .ok () := by
  obtain ⟨hr, _⟩ := h
  simp only [State.reading, findSome?_none _ _ fun p hp => s.markOf_of_plain p (hr p hp).2,
    findSome?_none _ _ fun p hp => s.txOf_of_plain p (hr p hp).2]

theorem State.operands_of_ready (s : State) (rs ws : List Place) (h : s.Ready rs ws) : s.operands rs ws = .ok () := by
  unfold State.operands
  rw [s.need_of_ready rs ws h]
  exact s.reading_of_ready rs ws h

/-! ### All conditions of an instruction -/

@[simp] theorem allOf_nil : allOf [] = .ok () := rfl

theorem waitOf_ok (x : Except Stop Unit) (h : x = .ok ()) : waitOf x = none := by rw [h]; rfl

/-- Conditions that all hold let the instruction go on. -/
theorem allOf_ok (l : List (Except Stop Unit)) (h : ∀ x ∈ l, x = .ok ()) : allOf l = .ok () := by
  have : joinWaits (l.map waitOf) = none := joinWaits_none _ fun x hx => by
    obtain ⟨y, hy, rfl⟩ := List.mem_map.1 hx
    exact waitOf_ok y (h y hy)
  simp only [allOf, this]
  clear this
  induction l with
  | nil => rfl
  | cons a t ih =>
    rw [List.foldl_cons, h a (by simp)]
    exact ih fun x hx => h x (by simp [hx])

/-- One condition that waits keeps the instruction waiting. -/
theorem allOf_wait (l : List (Except Stop Unit)) (w : Waiting) (h : .error (.wait w) ∈ l) : ∃ v, allOf l = .error (.wait v) := by
  obtain ⟨v, hv⟩ := joinWaits_some (l.map waitOf) w (List.mem_map.2 ⟨_, h, rfl⟩)
  exact ⟨v, by simp only [allOf, hv]⟩

/-! ### How an instruction ends -/

@[simp] theorem State.conclude_ok (s t : State) : s.conclude (.ok t) = .next t := rfl
@[simp] theorem State.conclude_error (s : State) (st : Stop) : s.conclude (.error st) = .next (s.halted st) := rfl
@[simp] theorem raiseIf_false (c : Nat) (v : Word) : raiseIf false c v = .ok () := rfl
@[simp] theorem raiseIf_true (c : Nat) (v : Word) : raiseIf true c v = .error (.trap c v) := rfl
@[simp] theorem waitIf_false (w : Waiting) : waitIf false w = .ok () := rfl
@[simp] theorem waitIf_true (w : Waiting) : waitIf true w = .error (.wait w) := rfl
@[simp] theorem andThen_next (s : State) (f : State → Out) : andThen (.next s) f = f s := rfl

/-- An instruction whose guard is true and whose checks pass moves past its pair. -/
theorem State.issueC_ok (s t : State) (g : Fin 8) (f : State → R) (hg : s.guarded g = true) (hf : f s = .ok t) :
    s.issueC g f = past t := by simp [State.issueC, hg, hf, past, Except.map]

theorem State.issue_ok (s t : State) (f : State → R) (hf : f s = .ok t) : s.issue f = past t := by
  simp [State.issue, hf, past, Except.map]

theorem State.issueA_ok (s t : State) (f : State → R) (hf : f s = .ok t) : s.issueA f = .next t := by
  simp [State.issueA, hf]

theorem State.issueJ_ok (s t : State) (g : Fin 8) (f : State → R) (hg : s.guarded g = true) (hf : f s = .ok t) :
    s.issueJ g f = .next t := by simp [State.issueJ, hg, hf]

/-- With a false guard a pair only moves on. -/
theorem State.issueC_unguarded (s : State) (g : Fin 8) (f : State → R) (hg : s.guarded g = false) :
    s.issueC g f = .next s.advance := by simp [State.issueC, hg]

theorem State.issueJ_unguarded (s : State) (g : Fin 8) (f : State → R) (hg : s.guarded g = false) :
    s.issueJ g f = .next s.advance := by simp [State.issueJ, hg]

end Sys2Proof.Machine
end

