-- ==== Sys2Proof/Laws/PerInstr.lean ====
section
/-! SUPPORT. Laws/PerInstr.lean: the family Encoding: the fields that an instruction's encoding gives are read back as the
instruction, and each lies within its width (13 R216 to R221). One lemma for each constructor of Instr. -/
namespace Sys2Proof.Laws.Encoding

/-- The decoding map reads the instruction back from the fields that its encoding gives. -/
def Statement (i : Instr) : Prop :=
  (∀ w, encodeCFields i = some w → decodeCFields w = some i ∧ w.fits) ∧
    (∀ w, encodeAFields i = some w → decodeAFields w = some i ∧ w.fits) ∧
      ∀ w, encodeLFields i = some w → decodeLFields w = some i ∧ w.fits

theorem ofC {i : Instr} {w : CWord} (h : encodeCFields i = some w) (ha : encodeAFields i = none)
    (hl : encodeLFields i = none) (hd : decodeCFields w = some i) (hf : w.fits) : Statement i := by
  refine ⟨?_, ?_, ?_⟩ <;> intro x hx
  · rw [h] at hx; cases hx; exact ⟨hd, hf⟩
  · rw [ha] at hx; cases hx
  · rw [hl] at hx; cases hx

theorem ofA {i : Instr} {w : AWord} (hc : encodeCFields i = none) (h : encodeAFields i = some w)
    (hl : encodeLFields i = none) (hd : decodeAFields w = some i) (hf : w.fits) : Statement i := by
  refine ⟨?_, ?_, ?_⟩ <;> intro x hx
  · rw [hc] at hx; cases hx
  · rw [h] at hx; cases hx; exact ⟨hd, hf⟩
  · rw [hl] at hx; cases hx

theorem ofL {i : Instr} {w : LWord} (hc : encodeCFields i = none) (ha : encodeAFields i = none)
    (h : encodeLFields i = some w) (hd : decodeLFields w = some i) (hf : w.fits) : Statement i := by
  refine ⟨?_, ?_, ?_⟩ <;> intro x hx
  · rw [hc] at hx; cases hx
  · rw [ha] at hx; cases hx
  · rw [h] at hx; cases hx; exact ⟨hd, hf⟩

/-- An event has no word. -/
theorem ofEvent {i : Instr} (hc : encodeCFields i = none) (ha : encodeAFields i = none) (hl : encodeLFields i = none) :
    Statement i := by
  refine ⟨?_, ?_, ?_⟩ <;> intro x hx
  · rw [hc] at hx; cases hx
  · rw [ha] at hx; cases hx
  · rw [hl] at hx; cases hx

/-! ### Codes within their fields -/

theorem bv12 (x : BitVec 12) : x.toNat < 2 ^ 12 := x.isLt
theorem bv16 (x : BitVec 16) : x.toNat < 2 ^ 16 := x.isLt
theorem bv32 (x : BitVec 32) : x.toNat < 2 ^ 32 := x.isLt

/-! ### One lemma for each constructor -/


theorem cnop (g : Fin 8) : Statement (.cnop g) :=
  ofC (w := ⟨0x00, 0, 0, 0, 0, g.val⟩) rfl rfl rfl
    (by show (fieldsC1 _ _ : Option Instr) = _; simp [fieldsC1])
    (by have := g.isLt; simp only [CWord.fits]; omega)

theorem br (off : BitVec 19) : Statement (.br off) :=
  ofC (w := (CWord.ofB 0x01 0 0 off.toNat)) rfl rfl rfl
    (by show (fun cw : CWord => (do is 0 (cw.pred); is 0 (cw.sense); let off := BitVec.ofNat 19 (cw.off); some (.br off) : Option Instr)) _ = _; simp [CWord.off_ofB, CWord.pred_ofB, CWord.sense_ofB])
    (CWord.fits_ofB _ _ _ _ (by omega) (by omega) (by omega))

theorem brp (p : PReg) (sense : Bool) (off : BitVec 19) : Statement (.brp p sense off) :=
  ofC (w := (CWord.ofB 0x02 p.val sense.toNat off.toNat)) rfl rfl rfl
    (by show (fun cw : CWord => (do let p ← finOf 16 (cw.pred); let sense ← flag (cw.sense); let off := BitVec.ofNat 19 (cw.off); some (.brp p sense off) : Option Instr)) _ = _; simp [CWord.off_ofB, CWord.pred_ofB _ _ _ _ (Bool.toNat_lt_two sense), CWord.sense_ofB _ _ _ _ (Bool.toNat_lt_two sense)])
    (CWord.fits_ofB _ _ _ _ (by omega) (by have := p.isLt; omega) (Bool.toNat_lt_two _))

theorem call (off : BitVec 19) : Statement (.call off) :=
  ofC (w := (CWord.ofB 0x03 0 0 off.toNat)) rfl rfl rfl
    (by show (fun cw : CWord => (do is 0 (cw.pred); is 0 (cw.sense); let off := BitVec.ofNat 19 (cw.off); some (.call off) : Option Instr)) _ = _; simp [CWord.off_ofB, CWord.pred_ofB, CWord.sense_ofB])
    (CWord.fits_ofB _ _ _ _ (by omega) (by omega) (by omega))

theorem loop (c : PReg) (off : BitVec 19) : Statement (.loop c off) :=
  ofC (w := (CWord.ofB 0x04 c.val 0 off.toNat)) rfl rfl rfl
    (by show (fun cw : CWord => (do let c ← finOf 16 (cw.pred); is 0 (cw.sense); let off := BitVec.ofNat 19 (cw.off); some (.loop c off) : Option Instr)) _ = _; simp [CWord.off_ofB, CWord.pred_ofB, CWord.sense_ofB])
    (CWord.fits_ofB _ _ _ _ (by omega) (by have := c.isLt; omega) (by omega))

theorem calli (s : XReg) (g : Fin 8) : Statement (.calli s g) :=
  ofC (w := ⟨0x05, 0, s.val, 0, 0, g.val⟩) rfl rfl rfl
    (by show (fieldsC2 _ _ : Option Instr) = _; simp [fieldsC2])
    (by have := s.isLt; have := g.isLt; simp only [CWord.fits]; omega)

theorem ret (s : XReg) (g : Fin 8) : Statement (.ret s g) :=
  ofC (w := ⟨0x06, 0, s.val, 0, 0, g.val⟩) rfl rfl rfl
    (by show (fieldsC2 _ _ : Option Instr) = _; simp [fieldsC2])
    (by have := s.isLt; have := g.isLt; simp only [CWord.fits]; omega)

theorem jmpi (s : XReg) (g : Fin 8) : Statement (.jmpi s g) :=
  ofC (w := ⟨0x07, 0, s.val, 0, 0, g.val⟩) rfl rfl rfl
    (by show (fieldsC2 _ _ : Option Instr) = _; simp [fieldsC2])
    (by have := s.isLt; have := g.isLt; simp only [CWord.fits]; omega)

theorem exit (g : Fin 8) : Statement (.exit g) :=
  ofC (w := ⟨0x08, 0, 0, 0, 0, g.val⟩) rfl rfl rfl
    (by show (fieldsC1 _ _ : Option Instr) = _; simp [fieldsC1])
    (by have := g.isLt; simp only [CWord.fits]; omega)

theorem trap (imm : BitVec 12) : Statement (.trap imm) :=
  ofC (w := (CWord.ofI 0x09 0 0 imm.toNat)) rfl rfl rfl
    (by show (fieldsC3 _ _ : Option Instr) = _; simp [fieldsC3, CWord.imm_ofI])
    (CWord.fits_ofI _ _ _ _ (by omega) (by have := bv12 imm; omega) (by have := bv12 imm; omega))

theorem brk (imm : BitVec 12) : Statement (.brk imm) :=
  ofC (w := (CWord.ofI 0x0a 0 0 imm.toNat)) rfl rfl rfl
    (by show (fieldsC3 _ _ : Option Instr) = _; simp [fieldsC3, CWord.imm_ofI])
    (CWord.fits_ofI _ _ _ _ (by omega) (by have := bv12 imm; omega) (by have := bv12 imm; omega))

theorem eret (g : Fin 8) : Statement (.eret g) :=
  ofC (w := ⟨0x0b, 0, 0, 0, 0, g.val⟩) rfl rfl rfl
    (by show (fieldsC1 _ _ : Option Instr) = _; simp [fieldsC1])
    (by have := g.isLt; simp only [CWord.fits]; omega)

theorem ifence (g : Fin 8) : Statement (.ifence g) :=
  ofC (w := ⟨0x0c, 0, 0, 0, 0, g.val⟩) rfl rfl rfl
    (by show (fieldsC1 _ _ : Option Instr) = _; simp [fieldsC1])
    (by have := g.isLt; simp only [CWord.fits]; omega)

theorem pfence (g : Fin 8) : Statement (.pfence g) :=
  ofC (w := ⟨0x0d, 0, 0, 0, 0, g.val⟩) rfl rfl rfl
    (by show (fieldsC1 _ _ : Option Instr) = _; simp [fieldsC1])
    (by have := g.isLt; simp only [CWord.fits]; omega)

theorem fence (sc : Scope) (g : Fin 8) : Statement (.fence sc g) :=
  ofC (w := ⟨0x0e, 0, 0, 0, sc.code, g.val⟩) rfl rfl rfl
    (by show (fun cw : CWord => (do is 0 (cw.d); is 0 (cw.s); is 0 (cw.t); let sc ← scope (cw.f); let g ← finOf 8 (cw.g); some (.fence sc g) : Option Instr)) _ = _; simp)
    (by have := Scope.code_lt sc; have := g.isLt; simp only [CWord.fits]; omega)

theorem add (d : SOpd) (a : SOpd) (b : SOpd) (g : Fin 8) : Statement (.add d a b g) :=
  ofC (w := ⟨0x10, d.code, a.code, b.code, 0, g.val⟩) rfl rfl rfl
    (by show (fieldsC4 _ _ : Option Instr) = _; simp [fieldsC4])
    (by have := SOpd.code_lt d; have := SOpd.code_lt a; have := SOpd.code_lt b; have := g.isLt; simp only [CWord.fits]; omega)

theorem sub (d : SOpd) (a : SOpd) (b : SOpd) (g : Fin 8) : Statement (.sub d a b g) :=
  ofC (w := ⟨0x10, d.code, a.code, b.code, 1, g.val⟩) rfl rfl rfl
    (by show (fieldsC4 _ _ : Option Instr) = _; simp [fieldsC4])
    (by have := SOpd.code_lt d; have := SOpd.code_lt a; have := SOpd.code_lt b; have := g.isLt; simp only [CWord.fits]; omega)

theorem andC (d : SOpd) (a : SOpd) (b : SOpd) (g : Fin 8) : Statement (.andC d a b g) :=
  ofC (w := ⟨0x10, d.code, a.code, b.code, 2, g.val⟩) rfl rfl rfl
    (by show (fieldsC4 _ _ : Option Instr) = _; simp [fieldsC4])
    (by have := SOpd.code_lt d; have := SOpd.code_lt a; have := SOpd.code_lt b; have := g.isLt; simp only [CWord.fits]; omega)

theorem orC (d : SOpd) (a : SOpd) (b : SOpd) (g : Fin 8) : Statement (.orC d a b g) :=
  ofC (w := ⟨0x10, d.code, a.code, b.code, 3, g.val⟩) rfl rfl rfl
    (by show (fieldsC4 _ _ : Option Instr) = _; simp [fieldsC4])
    (by have := SOpd.code_lt d; have := SOpd.code_lt a; have := SOpd.code_lt b; have := g.isLt; simp only [CWord.fits]; omega)

theorem xorC (d : SOpd) (a : SOpd) (b : SOpd) (g : Fin 8) : Statement (.xorC d a b g) :=
  ofC (w := ⟨0x10, d.code, a.code, b.code, 4, g.val⟩) rfl rfl rfl
    (by show (fieldsC4 _ _ : Option Instr) = _; simp [fieldsC4])
    (by have := SOpd.code_lt d; have := SOpd.code_lt a; have := SOpd.code_lt b; have := g.isLt; simp only [CWord.fits]; omega)

theorem andn (d : SOpd) (a : SOpd) (b : SOpd) (g : Fin 8) : Statement (.andn d a b g) :=
  ofC (w := ⟨0x10, d.code, a.code, b.code, 5, g.val⟩) rfl rfl rfl
    (by show (fieldsC4 _ _ : Option Instr) = _; simp [fieldsC4])
    (by have := SOpd.code_lt d; have := SOpd.code_lt a; have := SOpd.code_lt b; have := g.isLt; simp only [CWord.fits]; omega)

theorem mul (d : SOpd) (a : SOpd) (b : SOpd) (g : Fin 8) : Statement (.mul d a b g) :=
  ofC (w := ⟨0x11, d.code, a.code, b.code, 0, g.val⟩) rfl rfl rfl
    (by show (fieldsC4 _ _ : Option Instr) = _; simp [fieldsC4])
    (by have := SOpd.code_lt d; have := SOpd.code_lt a; have := SOpd.code_lt b; have := g.isLt; simp only [CWord.fits]; omega)

theorem mulhs (d : SOpd) (a : SOpd) (b : SOpd) (g : Fin 8) : Statement (.mulhs d a b g) :=
  ofC (w := ⟨0x11, d.code, a.code, b.code, 1, g.val⟩) rfl rfl rfl
    (by show (fieldsC4 _ _ : Option Instr) = _; simp [fieldsC4])
    (by have := SOpd.code_lt d; have := SOpd.code_lt a; have := SOpd.code_lt b; have := g.isLt; simp only [CWord.fits]; omega)

theorem mulhu (d : SOpd) (a : SOpd) (b : SOpd) (g : Fin 8) : Statement (.mulhu d a b g) :=
  ofC (w := ⟨0x11, d.code, a.code, b.code, 2, g.val⟩) rfl rfl rfl
    (by show (fieldsC4 _ _ : Option Instr) = _; simp [fieldsC4])
    (by have := SOpd.code_lt d; have := SOpd.code_lt a; have := SOpd.code_lt b; have := g.isLt; simp only [CWord.fits]; omega)

theorem divs (d : SOpd) (a : SOpd) (b : SOpd) (g : Fin 8) : Statement (.divs d a b g) :=
  ofC (w := ⟨0x11, d.code, a.code, b.code, 3, g.val⟩) rfl rfl rfl
    (by show (fieldsC4 _ _ : Option Instr) = _; simp [fieldsC4])
    (by have := SOpd.code_lt d; have := SOpd.code_lt a; have := SOpd.code_lt b; have := g.isLt; simp only [CWord.fits]; omega)

theorem divu (d : SOpd) (a : SOpd) (b : SOpd) (g : Fin 8) : Statement (.divu d a b g) :=
  ofC (w := ⟨0x11, d.code, a.code, b.code, 4, g.val⟩) rfl rfl rfl
    (by show (fieldsC4 _ _ : Option Instr) = _; simp [fieldsC4])
    (by have := SOpd.code_lt d; have := SOpd.code_lt a; have := SOpd.code_lt b; have := g.isLt; simp only [CWord.fits]; omega)

theorem rems (d : SOpd) (a : SOpd) (b : SOpd) (g : Fin 8) : Statement (.rems d a b g) :=
  ofC (w := ⟨0x11, d.code, a.code, b.code, 5, g.val⟩) rfl rfl rfl
    (by show (fieldsC4 _ _ : Option Instr) = _; simp [fieldsC4])
    (by have := SOpd.code_lt d; have := SOpd.code_lt a; have := SOpd.code_lt b; have := g.isLt; simp only [CWord.fits]; omega)

theorem remu (d : SOpd) (a : SOpd) (b : SOpd) (g : Fin 8) : Statement (.remu d a b g) :=
  ofC (w := ⟨0x11, d.code, a.code, b.code, 6, g.val⟩) rfl rfl rfl
    (by show (fieldsC4 _ _ : Option Instr) = _; simp [fieldsC4])
    (by have := SOpd.code_lt d; have := SOpd.code_lt a; have := SOpd.code_lt b; have := g.isLt; simp only [CWord.fits]; omega)

theorem shl (d : SOpd) (a : SOpd) (b : SOpd) (g : Fin 8) : Statement (.shl d a b g) :=
  ofC (w := ⟨0x12, d.code, a.code, b.code, 0, g.val⟩) rfl rfl rfl
    (by show (fieldsC4 _ _ : Option Instr) = _; simp [fieldsC4])
    (by have := SOpd.code_lt d; have := SOpd.code_lt a; have := SOpd.code_lt b; have := g.isLt; simp only [CWord.fits]; omega)

theorem shr (d : SOpd) (a : SOpd) (b : SOpd) (g : Fin 8) : Statement (.shr d a b g) :=
  ofC (w := ⟨0x12, d.code, a.code, b.code, 1, g.val⟩) rfl rfl rfl
    (by show (fieldsC4 _ _ : Option Instr) = _; simp [fieldsC4])
    (by have := SOpd.code_lt d; have := SOpd.code_lt a; have := SOpd.code_lt b; have := g.isLt; simp only [CWord.fits]; omega)

theorem sha (d : SOpd) (a : SOpd) (b : SOpd) (g : Fin 8) : Statement (.sha d a b g) :=
  ofC (w := ⟨0x12, d.code, a.code, b.code, 2, g.val⟩) rfl rfl rfl
    (by show (fieldsC4 _ _ : Option Instr) = _; simp [fieldsC4])
    (by have := SOpd.code_lt d; have := SOpd.code_lt a; have := SOpd.code_lt b; have := g.isLt; simp only [CWord.fits]; omega)

theorem rotr (d : SOpd) (a : SOpd) (b : SOpd) (g : Fin 8) : Statement (.rotr d a b g) :=
  ofC (w := ⟨0x12, d.code, a.code, b.code, 3, g.val⟩) rfl rfl rfl
    (by show (fieldsC4 _ _ : Option Instr) = _; simp [fieldsC4])
    (by have := SOpd.code_lt d; have := SOpd.code_lt a; have := SOpd.code_lt b; have := g.isLt; simp only [CWord.fits]; omega)

theorem mins (d : SOpd) (a : SOpd) (b : SOpd) (g : Fin 8) : Statement (.mins d a b g) :=
  ofC (w := ⟨0x13, d.code, a.code, b.code, 0, g.val⟩) rfl rfl rfl
    (by show (fieldsC4 _ _ : Option Instr) = _; simp [fieldsC4])
    (by have := SOpd.code_lt d; have := SOpd.code_lt a; have := SOpd.code_lt b; have := g.isLt; simp only [CWord.fits]; omega)

theorem maxs (d : SOpd) (a : SOpd) (b : SOpd) (g : Fin 8) : Statement (.maxs d a b g) :=
  ofC (w := ⟨0x13, d.code, a.code, b.code, 1, g.val⟩) rfl rfl rfl
    (by show (fieldsC4 _ _ : Option Instr) = _; simp [fieldsC4])
    (by have := SOpd.code_lt d; have := SOpd.code_lt a; have := SOpd.code_lt b; have := g.isLt; simp only [CWord.fits]; omega)

theorem minu (d : SOpd) (a : SOpd) (b : SOpd) (g : Fin 8) : Statement (.minu d a b g) :=
  ofC (w := ⟨0x13, d.code, a.code, b.code, 2, g.val⟩) rfl rfl rfl
    (by show (fieldsC4 _ _ : Option Instr) = _; simp [fieldsC4])
    (by have := SOpd.code_lt d; have := SOpd.code_lt a; have := SOpd.code_lt b; have := g.isLt; simp only [CWord.fits]; omega)

theorem maxu (d : SOpd) (a : SOpd) (b : SOpd) (g : Fin 8) : Statement (.maxu d a b g) :=
  ofC (w := ⟨0x13, d.code, a.code, b.code, 3, g.val⟩) rfl rfl rfl
    (by show (fieldsC4 _ _ : Option Instr) = _; simp [fieldsC4])
    (by have := SOpd.code_lt d; have := SOpd.code_lt a; have := SOpd.code_lt b; have := g.isLt; simp only [CWord.fits]; omega)

theorem clz (d : SOpd) (a : SOpd) (g : Fin 8) : Statement (.clz d a g) :=
  ofC (w := ⟨0x14, d.code, a.code, 0, 0, g.val⟩) rfl rfl rfl
    (by show (fieldsC5 _ _ : Option Instr) = _; simp [fieldsC5])
    (by have := SOpd.code_lt d; have := SOpd.code_lt a; have := g.isLt; simp only [CWord.fits]; omega)

theorem ctz (d : SOpd) (a : SOpd) (g : Fin 8) : Statement (.ctz d a g) :=
  ofC (w := ⟨0x14, d.code, a.code, 0, 1, g.val⟩) rfl rfl rfl
    (by show (fieldsC5 _ _ : Option Instr) = _; simp [fieldsC5])
    (by have := SOpd.code_lt d; have := SOpd.code_lt a; have := g.isLt; simp only [CWord.fits]; omega)

theorem popc (d : SOpd) (a : SOpd) (g : Fin 8) : Statement (.popc d a g) :=
  ofC (w := ⟨0x14, d.code, a.code, 0, 2, g.val⟩) rfl rfl rfl
    (by show (fieldsC5 _ _ : Option Instr) = _; simp [fieldsC5])
    (by have := SOpd.code_lt d; have := SOpd.code_lt a; have := g.isLt; simp only [CWord.fits]; omega)

theorem brev (d : SOpd) (a : SOpd) (g : Fin 8) : Statement (.brev d a g) :=
  ofC (w := ⟨0x14, d.code, a.code, 0, 3, g.val⟩) rfl rfl rfl
    (by show (fieldsC5 _ _ : Option Instr) = _; simp [fieldsC5])
    (by have := SOpd.code_lt d; have := SOpd.code_lt a; have := g.isLt; simp only [CWord.fits]; omega)

theorem sextB (d : SOpd) (a : SOpd) (g : Fin 8) : Statement (.sextB d a g) :=
  ofC (w := ⟨0x15, d.code, a.code, 0, 0, g.val⟩) rfl rfl rfl
    (by show (fieldsC5 _ _ : Option Instr) = _; simp [fieldsC5])
    (by have := SOpd.code_lt d; have := SOpd.code_lt a; have := g.isLt; simp only [CWord.fits]; omega)

theorem sextH (d : SOpd) (a : SOpd) (g : Fin 8) : Statement (.sextH d a g) :=
  ofC (w := ⟨0x15, d.code, a.code, 0, 1, g.val⟩) rfl rfl rfl
    (by show (fieldsC5 _ _ : Option Instr) = _; simp [fieldsC5])
    (by have := SOpd.code_lt d; have := SOpd.code_lt a; have := g.isLt; simp only [CWord.fits]; omega)

theorem sextW (d : SOpd) (a : SOpd) (g : Fin 8) : Statement (.sextW d a g) :=
  ofC (w := ⟨0x15, d.code, a.code, 0, 2, g.val⟩) rfl rfl rfl
    (by show (fieldsC5 _ _ : Option Instr) = _; simp [fieldsC5])
    (by have := SOpd.code_lt d; have := SOpd.code_lt a; have := g.isLt; simp only [CWord.fits]; omega)

theorem zextB (d : SOpd) (a : SOpd) (g : Fin 8) : Statement (.zextB d a g) :=
  ofC (w := ⟨0x15, d.code, a.code, 0, 4, g.val⟩) rfl rfl rfl
    (by show (fieldsC5 _ _ : Option Instr) = _; simp [fieldsC5])
    (by have := SOpd.code_lt d; have := SOpd.code_lt a; have := g.isLt; simp only [CWord.fits]; omega)

theorem zextH (d : SOpd) (a : SOpd) (g : Fin 8) : Statement (.zextH d a g) :=
  ofC (w := ⟨0x15, d.code, a.code, 0, 5, g.val⟩) rfl rfl rfl
    (by show (fieldsC5 _ _ : Option Instr) = _; simp [fieldsC5])
    (by have := SOpd.code_lt d; have := SOpd.code_lt a; have := g.isLt; simp only [CWord.fits]; omega)

theorem zextW (d : SOpd) (a : SOpd) (g : Fin 8) : Statement (.zextW d a g) :=
  ofC (w := ⟨0x15, d.code, a.code, 0, 6, g.val⟩) rfl rfl rfl
    (by show (fieldsC5 _ _ : Option Instr) = _; simp [fieldsC5])
    (by have := SOpd.code_lt d; have := SOpd.code_lt a; have := g.isLt; simp only [CWord.fits]; omega)

theorem mov (d : SOpd) (a : SOpd) (g : Fin 8) : Statement (.mov d a g) :=
  ofC (w := ⟨0x16, d.code, a.code, 0, 0, g.val⟩) rfl rfl rfl
    (by show (fun cw : CWord => (do let d ← sOpd (cw.d); let a ← sOpd (cw.s); is 0 (cw.t); is 0 (cw.f); let g ← finOf 8 (cw.g); some (.mov d a g) : Option Instr)) _ = _; simp)
    (by have := SOpd.code_lt d; have := SOpd.code_lt a; have := g.isLt; simp only [CWord.fits]; omega)

theorem sel (d : SOpd) (a : SOpd) (b : SOpd) (p : Fin 8) (g : Fin 8) : Statement (.sel d a b p g) :=
  ofC (w := ⟨0x17, d.code, a.code, b.code, p.val, g.val⟩) rfl rfl rfl
    (by show (fun cw : CWord => (do let d ← sOpd (cw.d); let a ← sOpd (cw.s); let b ← sOpd (cw.t); let p ← finOf 8 (cw.f); let g ← finOf 8 (cw.g); some (.sel d a b p g) : Option Instr)) _ = _; simp)
    (by have := SOpd.code_lt d; have := SOpd.code_lt a; have := SOpd.code_lt b; have := p.isLt; have := g.isLt; simp only [CWord.fits]; omega)

theorem lea (d : SOpd) (a : SOpd) (b : SOpd) (k : Fin 4) (g : Fin 8) : Statement (.lea d a b k g) :=
  ofC (w := ⟨0x18, d.code, a.code, b.code, k.val, g.val⟩) rfl rfl rfl
    (by show (fun cw : CWord => (do let d ← sOpd (cw.d); let a ← sOpd (cw.s); let b ← sOpd (cw.t); let k ← finOf 4 (cw.f); let g ← finOf 8 (cw.g); some (.lea d a b k g) : Option Instr)) _ = _; simp)
    (by have := SOpd.code_lt d; have := SOpd.code_lt a; have := SOpd.code_lt b; have := k.isLt; have := g.isLt; simp only [CWord.fits]; omega)

theorem cmpEq (d : PReg) (a : SOpd) (b : SOpd) (g : Fin 8) : Statement (.cmpEq d a b g) :=
  ofC (w := ⟨0x19, d.val, a.code, b.code, 0, g.val⟩) rfl rfl rfl
    (by show (fieldsC6 _ _ : Option Instr) = _; simp [fieldsC6])
    (by have := d.isLt; have := SOpd.code_lt a; have := SOpd.code_lt b; have := g.isLt; simp only [CWord.fits]; omega)

theorem cmpNe (d : PReg) (a : SOpd) (b : SOpd) (g : Fin 8) : Statement (.cmpNe d a b g) :=
  ofC (w := ⟨0x19, d.val, a.code, b.code, 1, g.val⟩) rfl rfl rfl
    (by show (fieldsC6 _ _ : Option Instr) = _; simp [fieldsC6])
    (by have := d.isLt; have := SOpd.code_lt a; have := SOpd.code_lt b; have := g.isLt; simp only [CWord.fits]; omega)

theorem cmpLt (d : PReg) (a : SOpd) (b : SOpd) (g : Fin 8) : Statement (.cmpLt d a b g) :=
  ofC (w := ⟨0x19, d.val, a.code, b.code, 2, g.val⟩) rfl rfl rfl
    (by show (fieldsC6 _ _ : Option Instr) = _; simp [fieldsC6])
    (by have := d.isLt; have := SOpd.code_lt a; have := SOpd.code_lt b; have := g.isLt; simp only [CWord.fits]; omega)

theorem cmpGe (d : PReg) (a : SOpd) (b : SOpd) (g : Fin 8) : Statement (.cmpGe d a b g) :=
  ofC (w := ⟨0x19, d.val, a.code, b.code, 3, g.val⟩) rfl rfl rfl
    (by show (fieldsC6 _ _ : Option Instr) = _; simp [fieldsC6])
    (by have := d.isLt; have := SOpd.code_lt a; have := SOpd.code_lt b; have := g.isLt; simp only [CWord.fits]; omega)

theorem cmpLtu (d : PReg) (a : SOpd) (b : SOpd) (g : Fin 8) : Statement (.cmpLtu d a b g) :=
  ofC (w := ⟨0x19, d.val, a.code, b.code, 4, g.val⟩) rfl rfl rfl
    (by show (fieldsC6 _ _ : Option Instr) = _; simp [fieldsC6])
    (by have := d.isLt; have := SOpd.code_lt a; have := SOpd.code_lt b; have := g.isLt; simp only [CWord.fits]; omega)

theorem cmpGeu (d : PReg) (a : SOpd) (b : SOpd) (g : Fin 8) : Statement (.cmpGeu d a b g) :=
  ofC (w := ⟨0x19, d.val, a.code, b.code, 5, g.val⟩) rfl rfl rfl
    (by show (fieldsC6 _ _ : Option Instr) = _; simp [fieldsC6])
    (by have := d.isLt; have := SOpd.code_lt a; have := SOpd.code_lt b; have := g.isLt; simp only [CWord.fits]; omega)

theorem bext (d : SOpd) (a : SOpd) (b : SOpd) (g : Fin 8) : Statement (.bext d a b g) :=
  ofC (w := ⟨0x1a, d.code, a.code, b.code, 0, g.val⟩) rfl rfl rfl
    (by show (fieldsC4 _ _ : Option Instr) = _; simp [fieldsC4])
    (by have := SOpd.code_lt d; have := SOpd.code_lt a; have := SOpd.code_lt b; have := g.isLt; simp only [CWord.fits]; omega)

theorem bextS (d : SOpd) (a : SOpd) (b : SOpd) (g : Fin 8) : Statement (.bextS d a b g) :=
  ofC (w := ⟨0x1a, d.code, a.code, b.code, 1, g.val⟩) rfl rfl rfl
    (by show (fieldsC4 _ _ : Option Instr) = _; simp [fieldsC4])
    (by have := SOpd.code_lt d; have := SOpd.code_lt a; have := SOpd.code_lt b; have := g.isLt; simp only [CWord.fits]; omega)

theorem bins (d : SOpd) (a : SOpd) (b : SOpd) (g : Fin 8) : Statement (.bins d a b g) :=
  ofC (w := ⟨0x1b, d.code, a.code, b.code, 0, g.val⟩) rfl rfl rfl
    (by show (fun cw : CWord => (do let d ← sOpd (cw.d); let a ← sOpd (cw.s); let b ← sOpd (cw.t); is 0 (cw.f); let g ← finOf 8 (cw.g); some (.bins d a b g) : Option Instr)) _ = _; simp)
    (by have := SOpd.code_lt d; have := SOpd.code_lt a; have := SOpd.code_lt b; have := g.isLt; simp only [CWord.fits]; omega)

theorem tremit (s : SOpd) (g : Fin 8) : Statement (.tremit s g) :=
  ofC (w := ⟨0x1c, 0, s.code, 0, 0, g.val⟩) rfl rfl rfl
    (by show (fun cw : CWord => (do is 0 (cw.d); let s ← sOpd (cw.s); is 0 (cw.t); is 0 (cw.f); let g ← finOf 8 (cw.g); some (.tremit s g) : Option Instr)) _ = _; simp)
    (by have := SOpd.code_lt s; have := g.isLt; simp only [CWord.fits]; omega)

theorem rpush (s : SOpd) (g : Fin 8) : Statement (.rpush s g) :=
  ofC (w := ⟨0x1d, 0, s.code, 0, 0, g.val⟩) rfl rfl rfl
    (by show (fun cw : CWord => (do is 0 (cw.d); let s ← sOpd (cw.s); is 0 (cw.t); is 0 (cw.f); let g ← finOf 8 (cw.g); some (.rpush s g) : Option Instr)) _ = _; simp)
    (by have := SOpd.code_lt s; have := g.isLt; simp only [CWord.fits]; omega)

theorem rpop (d : XReg) (g : Fin 8) : Statement (.rpop d g) :=
  ofC (w := ⟨0x1e, d.val, 0, 0, 0, g.val⟩) rfl rfl rfl
    (by show (fieldsC7 _ _ : Option Instr) = _; simp [fieldsC7])
    (by have := d.isLt; have := g.isLt; simp only [CWord.fits]; omega)

theorem ctxs (d : XReg) (a : XReg) (b : XReg) (g : Fin 8) : Statement (.ctxs d a b g) :=
  ofC (w := ⟨0x1f, d.val, a.val, b.val, 0, g.val⟩) rfl rfl rfl
    (by show (fun cw : CWord => (do let d ← finOf 32 (cw.d); let a ← finOf 32 (cw.s); let b ← finOf 32 (cw.t); let g ← finOf 8 (cw.g); some (.ctxs d a b g) : Option Instr)) _ = _; simp)
    (by have := d.isLt; have := a.isLt; have := b.isLt; have := g.isLt; simp only [CWord.fits]; omega)

theorem ctxsResume (d : XReg) (a : XReg) (b : XReg) (g : Fin 8) : Statement (.ctxsResume d a b g) :=
  ofC (w := ⟨0x1f, d.val, a.val, b.val, 1, g.val⟩) rfl rfl rfl
    (by show (fun cw : CWord => (do let d ← finOf 32 (cw.d); let a ← finOf 32 (cw.s); let b ← finOf 32 (cw.t); let g ← finOf 8 (cw.g); some (.ctxsResume d a b g) : Option Instr)) _ = _; simp)
    (by have := d.isLt; have := a.isLt; have := b.isLt; have := g.isLt; simp only [CWord.fits]; omega)

theorem ctxsSize (d : XReg) (a : XReg) (g : Fin 8) : Statement (.ctxsSize d a g) :=
  ofC (w := ⟨0x1f, d.val, a.val, 0, 2, g.val⟩) rfl rfl rfl
    (by show (fieldsC8 _ _ : Option Instr) = _; simp [fieldsC8])
    (by have := d.isLt; have := a.isLt; have := g.isLt; simp only [CWord.fits]; omega)

theorem addi (d : SOpd) (a : SOpd) (imm : BitVec 12) : Statement (.addi d a imm) :=
  ofC (w := (CWord.ofI 0x20 d.code a.code imm.toNat)) rfl rfl rfl
    (by show (fieldsC9 _ _ : Option Instr) = _; simp [fieldsC9, CWord.imm_ofI])
    (CWord.fits_ofI _ _ _ _ (by omega) (by have := SOpd.code_lt d; have := SOpd.code_lt a; have := bv12 imm; omega) (by have := SOpd.code_lt d; have := SOpd.code_lt a; have := bv12 imm; omega))

theorem andi (d : SOpd) (a : SOpd) (imm : BitVec 12) : Statement (.andi d a imm) :=
  ofC (w := (CWord.ofI 0x21 d.code a.code imm.toNat)) rfl rfl rfl
    (by show (fieldsC9 _ _ : Option Instr) = _; simp [fieldsC9, CWord.imm_ofI])
    (CWord.fits_ofI _ _ _ _ (by omega) (by have := SOpd.code_lt d; have := SOpd.code_lt a; have := bv12 imm; omega) (by have := SOpd.code_lt d; have := SOpd.code_lt a; have := bv12 imm; omega))

theorem ori (d : SOpd) (a : SOpd) (imm : BitVec 12) : Statement (.ori d a imm) :=
  ofC (w := (CWord.ofI 0x22 d.code a.code imm.toNat)) rfl rfl rfl
    (by show (fieldsC9 _ _ : Option Instr) = _; simp [fieldsC9, CWord.imm_ofI])
    (CWord.fits_ofI _ _ _ _ (by omega) (by have := SOpd.code_lt d; have := SOpd.code_lt a; have := bv12 imm; omega) (by have := SOpd.code_lt d; have := SOpd.code_lt a; have := bv12 imm; omega))

theorem xori (d : SOpd) (a : SOpd) (imm : BitVec 12) : Statement (.xori d a imm) :=
  ofC (w := (CWord.ofI 0x23 d.code a.code imm.toNat)) rfl rfl rfl
    (by show (fieldsC9 _ _ : Option Instr) = _; simp [fieldsC9, CWord.imm_ofI])
    (CWord.fits_ofI _ _ _ _ (by omega) (by have := SOpd.code_lt d; have := SOpd.code_lt a; have := bv12 imm; omega) (by have := SOpd.code_lt d; have := SOpd.code_lt a; have := bv12 imm; omega))

theorem shli (d : SOpd) (a : SOpd) (n : Fin 64) : Statement (.shli d a n) :=
  ofC (w := (CWord.ofI 0x24 d.code a.code n.val)) rfl rfl rfl
    (by show (fieldsC10 _ _ : Option Instr) = _; simp [fieldsC10, CWord.imm_ofI_fin])
    (CWord.fits_ofI_fin _ _ _ _ (by omega) (by have := SOpd.code_lt d; have := SOpd.code_lt a; have := n.isLt; omega) (by have := SOpd.code_lt d; have := SOpd.code_lt a; have := n.isLt; omega))

theorem shri (d : SOpd) (a : SOpd) (n : Fin 64) : Statement (.shri d a n) :=
  ofC (w := (CWord.ofI 0x25 d.code a.code n.val)) rfl rfl rfl
    (by show (fieldsC10 _ _ : Option Instr) = _; simp [fieldsC10, CWord.imm_ofI_fin])
    (CWord.fits_ofI_fin _ _ _ _ (by omega) (by have := SOpd.code_lt d; have := SOpd.code_lt a; have := n.isLt; omega) (by have := SOpd.code_lt d; have := SOpd.code_lt a; have := n.isLt; omega))

theorem shai (d : SOpd) (a : SOpd) (n : Fin 64) : Statement (.shai d a n) :=
  ofC (w := (CWord.ofI 0x26 d.code a.code n.val)) rfl rfl rfl
    (by show (fieldsC10 _ _ : Option Instr) = _; simp [fieldsC10, CWord.imm_ofI_fin])
    (CWord.fits_ofI_fin _ _ _ _ (by omega) (by have := SOpd.code_lt d; have := SOpd.code_lt a; have := n.isLt; omega) (by have := SOpd.code_lt d; have := SOpd.code_lt a; have := n.isLt; omega))

theorem movi (d : SOpd) (imm : BitVec 12) : Statement (.movi d imm) :=
  ofC (w := (CWord.ofI 0x27 d.code 0 imm.toNat)) rfl rfl rfl
    (by show (fun cw : CWord => (do let d ← sOpd (cw.d); is 0 (cw.s); let imm := BitVec.ofNat 12 (cw.imm); some (.movi d imm) : Option Instr)) _ = _; simp [CWord.imm_ofI])
    (CWord.fits_ofI _ _ _ _ (by omega) (by have := SOpd.code_lt d; have := bv12 imm; omega) (by have := SOpd.code_lt d; have := bv12 imm; omega))

theorem cmpiEq (d : PReg) (a : SOpd) (imm : BitVec 12) : Statement (.cmpiEq d a imm) :=
  ofC (w := (CWord.ofI 0x28 d.val a.code imm.toNat)) rfl rfl rfl
    (by show (fieldsC11 _ _ : Option Instr) = _; simp [fieldsC11, CWord.imm_ofI])
    (CWord.fits_ofI _ _ _ _ (by omega) (by have := d.isLt; have := SOpd.code_lt a; have := bv12 imm; omega) (by have := d.isLt; have := SOpd.code_lt a; have := bv12 imm; omega))

theorem cmpiNe (d : PReg) (a : SOpd) (imm : BitVec 12) : Statement (.cmpiNe d a imm) :=
  ofC (w := (CWord.ofI 0x29 d.val a.code imm.toNat)) rfl rfl rfl
    (by show (fieldsC11 _ _ : Option Instr) = _; simp [fieldsC11, CWord.imm_ofI])
    (CWord.fits_ofI _ _ _ _ (by omega) (by have := d.isLt; have := SOpd.code_lt a; have := bv12 imm; omega) (by have := d.isLt; have := SOpd.code_lt a; have := bv12 imm; omega))

theorem cmpiLt (d : PReg) (a : SOpd) (imm : BitVec 12) : Statement (.cmpiLt d a imm) :=
  ofC (w := (CWord.ofI 0x2a d.val a.code imm.toNat)) rfl rfl rfl
    (by show (fieldsC11 _ _ : Option Instr) = _; simp [fieldsC11, CWord.imm_ofI])
    (CWord.fits_ofI _ _ _ _ (by omega) (by have := d.isLt; have := SOpd.code_lt a; have := bv12 imm; omega) (by have := d.isLt; have := SOpd.code_lt a; have := bv12 imm; omega))

theorem cmpiGe (d : PReg) (a : SOpd) (imm : BitVec 12) : Statement (.cmpiGe d a imm) :=
  ofC (w := (CWord.ofI 0x2b d.val a.code imm.toNat)) rfl rfl rfl
    (by show (fieldsC11 _ _ : Option Instr) = _; simp [fieldsC11, CWord.imm_ofI])
    (CWord.fits_ofI _ _ _ _ (by omega) (by have := d.isLt; have := SOpd.code_lt a; have := bv12 imm; omega) (by have := d.isLt; have := SOpd.code_lt a; have := bv12 imm; omega))

theorem cmpiLtu (d : PReg) (a : SOpd) (imm : BitVec 12) : Statement (.cmpiLtu d a imm) :=
  ofC (w := (CWord.ofI 0x2c d.val a.code imm.toNat)) rfl rfl rfl
    (by show (fieldsC11 _ _ : Option Instr) = _; simp [fieldsC11, CWord.imm_ofI])
    (CWord.fits_ofI _ _ _ _ (by omega) (by have := d.isLt; have := SOpd.code_lt a; have := bv12 imm; omega) (by have := d.isLt; have := SOpd.code_lt a; have := bv12 imm; omega))

theorem cmpiGeu (d : PReg) (a : SOpd) (imm : BitVec 12) : Statement (.cmpiGeu d a imm) :=
  ofC (w := (CWord.ofI 0x2d d.val a.code imm.toNat)) rfl rfl rfl
    (by show (fieldsC11 _ _ : Option Instr) = _; simp [fieldsC11, CWord.imm_ofI])
    (CWord.fits_ofI _ _ _ _ (by omega) (by have := d.isLt; have := SOpd.code_lt a; have := bv12 imm; omega) (by have := d.isLt; have := SOpd.code_lt a; have := bv12 imm; omega))

theorem ldBZ (d : XReg) (b : XReg) (imm : BitVec 12) : Statement (.ldBZ d b imm) :=
  ofC (w := (CWord.ofI 0x30 d.val b.val imm.toNat)) rfl rfl rfl
    (by show (fieldsC12 _ _ : Option Instr) = _; simp [fieldsC12, CWord.imm_ofI])
    (CWord.fits_ofI _ _ _ _ (by omega) (by have := d.isLt; have := b.isLt; have := bv12 imm; omega) (by have := d.isLt; have := b.isLt; have := bv12 imm; omega))

theorem ldBS (d : XReg) (b : XReg) (imm : BitVec 12) : Statement (.ldBS d b imm) :=
  ofC (w := (CWord.ofI 0x31 d.val b.val imm.toNat)) rfl rfl rfl
    (by show (fieldsC12 _ _ : Option Instr) = _; simp [fieldsC12, CWord.imm_ofI])
    (CWord.fits_ofI _ _ _ _ (by omega) (by have := d.isLt; have := b.isLt; have := bv12 imm; omega) (by have := d.isLt; have := b.isLt; have := bv12 imm; omega))

theorem ldHZ (d : XReg) (b : XReg) (imm : BitVec 12) : Statement (.ldHZ d b imm) :=
  ofC (w := (CWord.ofI 0x32 d.val b.val imm.toNat)) rfl rfl rfl
    (by show (fieldsC12 _ _ : Option Instr) = _; simp [fieldsC12, CWord.imm_ofI])
    (CWord.fits_ofI _ _ _ _ (by omega) (by have := d.isLt; have := b.isLt; have := bv12 imm; omega) (by have := d.isLt; have := b.isLt; have := bv12 imm; omega))

theorem ldHS (d : XReg) (b : XReg) (imm : BitVec 12) : Statement (.ldHS d b imm) :=
  ofC (w := (CWord.ofI 0x33 d.val b.val imm.toNat)) rfl rfl rfl
    (by show (fieldsC12 _ _ : Option Instr) = _; simp [fieldsC12, CWord.imm_ofI])
    (CWord.fits_ofI _ _ _ _ (by omega) (by have := d.isLt; have := b.isLt; have := bv12 imm; omega) (by have := d.isLt; have := b.isLt; have := bv12 imm; omega))

theorem ldWZ (d : XReg) (b : XReg) (imm : BitVec 12) : Statement (.ldWZ d b imm) :=
  ofC (w := (CWord.ofI 0x34 d.val b.val imm.toNat)) rfl rfl rfl
    (by show (fieldsC12 _ _ : Option Instr) = _; simp [fieldsC12, CWord.imm_ofI])
    (CWord.fits_ofI _ _ _ _ (by omega) (by have := d.isLt; have := b.isLt; have := bv12 imm; omega) (by have := d.isLt; have := b.isLt; have := bv12 imm; omega))

theorem ldWS (d : XReg) (b : XReg) (imm : BitVec 12) : Statement (.ldWS d b imm) :=
  ofC (w := (CWord.ofI 0x35 d.val b.val imm.toNat)) rfl rfl rfl
    (by show (fieldsC12 _ _ : Option Instr) = _; simp [fieldsC12, CWord.imm_ofI])
    (CWord.fits_ofI _ _ _ _ (by omega) (by have := d.isLt; have := b.isLt; have := bv12 imm; omega) (by have := d.isLt; have := b.isLt; have := bv12 imm; omega))

theorem ldD (d : XReg) (b : XReg) (imm : BitVec 12) : Statement (.ldD d b imm) :=
  ofC (w := (CWord.ofI 0x36 d.val b.val imm.toNat)) rfl rfl rfl
    (by show (fieldsC12 _ _ : Option Instr) = _; simp [fieldsC12, CWord.imm_ofI])
    (CWord.fits_ofI _ _ _ _ (by omega) (by have := d.isLt; have := b.isLt; have := bv12 imm; omega) (by have := d.isLt; have := b.isLt; have := bv12 imm; omega))

theorem ldAcq (d : XReg) (b : XReg) (imm : BitVec 12) : Statement (.ldAcq d b imm) :=
  ofC (w := (CWord.ofI 0x37 d.val b.val imm.toNat)) rfl rfl rfl
    (by show (fieldsC12 _ _ : Option Instr) = _; simp [fieldsC12, CWord.imm_ofI])
    (CWord.fits_ofI _ _ _ _ (by omega) (by have := d.isLt; have := b.isLt; have := bv12 imm; omega) (by have := d.isLt; have := b.isLt; have := bv12 imm; omega))

theorem stB (v : SOpd) (b : XReg) (imm : BitVec 12) : Statement (.stB v b imm) :=
  ofC (w := (CWord.ofI 0x38 v.code b.val imm.toNat)) rfl rfl rfl
    (by show (fieldsC13 _ _ : Option Instr) = _; simp [fieldsC13, CWord.imm_ofI])
    (CWord.fits_ofI _ _ _ _ (by omega) (by have := SOpd.code_lt v; have := b.isLt; have := bv12 imm; omega) (by have := SOpd.code_lt v; have := b.isLt; have := bv12 imm; omega))

theorem stH (v : SOpd) (b : XReg) (imm : BitVec 12) : Statement (.stH v b imm) :=
  ofC (w := (CWord.ofI 0x39 v.code b.val imm.toNat)) rfl rfl rfl
    (by show (fieldsC13 _ _ : Option Instr) = _; simp [fieldsC13, CWord.imm_ofI])
    (CWord.fits_ofI _ _ _ _ (by omega) (by have := SOpd.code_lt v; have := b.isLt; have := bv12 imm; omega) (by have := SOpd.code_lt v; have := b.isLt; have := bv12 imm; omega))

theorem stW (v : SOpd) (b : XReg) (imm : BitVec 12) : Statement (.stW v b imm) :=
  ofC (w := (CWord.ofI 0x3a v.code b.val imm.toNat)) rfl rfl rfl
    (by show (fieldsC13 _ _ : Option Instr) = _; simp [fieldsC13, CWord.imm_ofI])
    (CWord.fits_ofI _ _ _ _ (by omega) (by have := SOpd.code_lt v; have := b.isLt; have := bv12 imm; omega) (by have := SOpd.code_lt v; have := b.isLt; have := bv12 imm; omega))

theorem stD (v : SOpd) (b : XReg) (imm : BitVec 12) : Statement (.stD v b imm) :=
  ofC (w := (CWord.ofI 0x3b v.code b.val imm.toNat)) rfl rfl rfl
    (by show (fieldsC13 _ _ : Option Instr) = _; simp [fieldsC13, CWord.imm_ofI])
    (CWord.fits_ofI _ _ _ _ (by omega) (by have := SOpd.code_lt v; have := b.isLt; have := bv12 imm; omega) (by have := SOpd.code_lt v; have := b.isLt; have := bv12 imm; omega))

theorem stRel (v : SOpd) (b : XReg) (imm : BitVec 12) : Statement (.stRel v b imm) :=
  ofC (w := (CWord.ofI 0x3c v.code b.val imm.toNat)) rfl rfl rfl
    (by show (fieldsC13 _ _ : Option Instr) = _; simp [fieldsC13, CWord.imm_ofI])
    (CWord.fits_ofI _ _ _ _ (by omega) (by have := SOpd.code_lt v; have := b.isLt; have := bv12 imm; omega) (by have := SOpd.code_lt v; have := b.isLt; have := bv12 imm; omega))

theorem ldv (d : VReg) (b : XReg) (imm : BitVec 12) : Statement (.ldv d b imm) :=
  ofC (w := (CWord.ofI 0x3d (32 + d.val) b.val imm.toNat)) rfl rfl rfl
    (by show (fun cw : CWord => (do let d ← vReg (cw.d); let b ← finOf 32 (cw.s); let imm := BitVec.ofNat 12 (cw.imm); some (.ldv d b imm) : Option Instr)) _ = _; simp [CWord.imm_ofI])
    (CWord.fits_ofI _ _ _ _ (by omega) (by have := d.isLt; have := b.isLt; have := bv12 imm; omega) (by have := d.isLt; have := b.isLt; have := bv12 imm; omega))

theorem stv (v : VOpd) (b : XReg) (imm : BitVec 12) : Statement (.stv v b imm) :=
  ofC (w := (CWord.ofI 0x3e v.code b.val imm.toNat)) rfl rfl rfl
    (by show (fun cw : CWord => (do let v ← vOpd (cw.d); let b ← finOf 32 (cw.s); let imm := BitVec.ofNat 12 (cw.imm); some (.stv v b imm) : Option Instr)) _ = _; simp [CWord.imm_ofI])
    (CWord.fits_ofI _ _ _ _ (by omega) (by have := VOpd.code_lt v; have := b.isLt; have := bv12 imm; omega) (by have := VOpd.code_lt v; have := b.isLt; have := bv12 imm; omega))

theorem aadd (d : XReg) (b : XReg) (v : SOpd) (z : Fin 2) (g : Fin 8) : Statement (.aadd d b v z g) :=
  ofC (w := ⟨0x40, d.val, b.val, v.code, z.val, g.val⟩) rfl rfl rfl
    (by show (fieldsC14 _ _ : Option Instr) = _; simp [fieldsC14])
    (by have := d.isLt; have := b.isLt; have := SOpd.code_lt v; have := z.isLt; have := g.isLt; simp only [CWord.fits]; omega)

theorem afadd (d : XReg) (b : XReg) (v : SOpd) (z : Fin 2) (g : Fin 8) : Statement (.afadd d b v z g) :=
  ofC (w := ⟨0x41, d.val, b.val, v.code, z.val, g.val⟩) rfl rfl rfl
    (by show (fieldsC14 _ _ : Option Instr) = _; simp [fieldsC14])
    (by have := d.isLt; have := b.isLt; have := SOpd.code_lt v; have := z.isLt; have := g.isLt; simp only [CWord.fits]; omega)

theorem amin (d : XReg) (b : XReg) (v : SOpd) (z : Fin 4) (g : Fin 8) : Statement (.amin d b v z g) :=
  ofC (w := ⟨0x42, d.val, b.val, v.code, z.val, g.val⟩) rfl rfl rfl
    (by show (fun cw : CWord => (do let d ← finOf 32 (cw.d); let b ← finOf 32 (cw.s); let v ← sOpd (cw.t); let z ← finOf 4 (cw.f); let g ← finOf 8 (cw.g); some (.amin d b v z g) : Option Instr)) _ = _; simp)
    (by have := d.isLt; have := b.isLt; have := SOpd.code_lt v; have := z.isLt; have := g.isLt; simp only [CWord.fits]; omega)

theorem amax (d : XReg) (b : XReg) (v : SOpd) (z : Fin 4) (g : Fin 8) : Statement (.amax d b v z g) :=
  ofC (w := ⟨0x43, d.val, b.val, v.code, z.val, g.val⟩) rfl rfl rfl
    (by show (fun cw : CWord => (do let d ← finOf 32 (cw.d); let b ← finOf 32 (cw.s); let v ← sOpd (cw.t); let z ← finOf 4 (cw.f); let g ← finOf 8 (cw.g); some (.amax d b v z g) : Option Instr)) _ = _; simp)
    (by have := d.isLt; have := b.isLt; have := SOpd.code_lt v; have := z.isLt; have := g.isLt; simp only [CWord.fits]; omega)

theorem aand (d : XReg) (b : XReg) (v : SOpd) (z : Fin 2) (g : Fin 8) : Statement (.aand d b v z g) :=
  ofC (w := ⟨0x44, d.val, b.val, v.code, z.val, g.val⟩) rfl rfl rfl
    (by show (fieldsC14 _ _ : Option Instr) = _; simp [fieldsC14])
    (by have := d.isLt; have := b.isLt; have := SOpd.code_lt v; have := z.isLt; have := g.isLt; simp only [CWord.fits]; omega)

theorem aor (d : XReg) (b : XReg) (v : SOpd) (z : Fin 2) (g : Fin 8) : Statement (.aor d b v z g) :=
  ofC (w := ⟨0x45, d.val, b.val, v.code, z.val, g.val⟩) rfl rfl rfl
    (by show (fieldsC14 _ _ : Option Instr) = _; simp [fieldsC14])
    (by have := d.isLt; have := b.isLt; have := SOpd.code_lt v; have := z.isLt; have := g.isLt; simp only [CWord.fits]; omega)

theorem axor (d : XReg) (b : XReg) (v : SOpd) (z : Fin 2) (g : Fin 8) : Statement (.axor d b v z g) :=
  ofC (w := ⟨0x46, d.val, b.val, v.code, z.val, g.val⟩) rfl rfl rfl
    (by show (fieldsC14 _ _ : Option Instr) = _; simp [fieldsC14])
    (by have := d.isLt; have := b.isLt; have := SOpd.code_lt v; have := z.isLt; have := g.isLt; simp only [CWord.fits]; omega)

theorem axchg (d : XReg) (b : XReg) (v : SOpd) (z : Fin 2) (g : Fin 8) : Statement (.axchg d b v z g) :=
  ofC (w := ⟨0x47, d.val, b.val, v.code, z.val, g.val⟩) rfl rfl rfl
    (by show (fieldsC14 _ _ : Option Instr) = _; simp [fieldsC14])
    (by have := d.isLt; have := b.isLt; have := SOpd.code_lt v; have := z.isLt; have := g.isLt; simp only [CWord.fits]; omega)

theorem acas (d : XReg) (b : XReg) (v : SOpd) (z : Fin 2) (g : Fin 8) : Statement (.acas d b v z g) :=
  ofC (w := ⟨0x48, d.val, b.val, v.code, z.val, g.val⟩) rfl rfl rfl
    (by show (fieldsC14 _ _ : Option Instr) = _; simp [fieldsC14])
    (by have := d.isLt; have := b.isLt; have := SOpd.code_lt v; have := z.isLt; have := g.isLt; simp only [CWord.fits]; omega)

theorem lock (b : XReg) (g : Fin 8) : Statement (.lock b g) :=
  ofC (w := ⟨0x49, 0, b.val, 0, 0, g.val⟩) rfl rfl rfl
    (by show (fieldsC15 _ _ : Option Instr) = _; simp [fieldsC15])
    (by have := b.isLt; have := g.isLt; simp only [CWord.fits]; omega)

theorem lockStatus (d : XReg) (b : XReg) (g : Fin 8) : Statement (.lockStatus d b g) :=
  ofC (w := ⟨0x49, d.val, b.val, 0, 1, g.val⟩) rfl rfl rfl
    (by show (fieldsC8 _ _ : Option Instr) = _; simp [fieldsC8])
    (by have := d.isLt; have := b.isLt; have := g.isLt; simp only [CWord.fits]; omega)

theorem unlock (b : XReg) (g : Fin 8) : Statement (.unlock b g) :=
  ofC (w := ⟨0x4a, 0, b.val, 0, 0, g.val⟩) rfl rfl rfl
    (by show (fieldsC15 _ _ : Option Instr) = _; simp [fieldsC15])
    (by have := b.isLt; have := g.isLt; simp only [CWord.fits]; omega)

theorem unlockStatus (d : XReg) (b : XReg) (g : Fin 8) : Statement (.unlockStatus d b g) :=
  ofC (w := ⟨0x4a, d.val, b.val, 0, 1, g.val⟩) rfl rfl rfl
    (by show (fieldsC8 _ _ : Option Instr) = _; simp [fieldsC8])
    (by have := d.isLt; have := b.isLt; have := g.isLt; simp only [CWord.fits]; omega)

theorem nadd (d : XReg) (b : XReg) (v : SOpd) (g : Fin 8) : Statement (.nadd d b v g) :=
  ofC (w := ⟨0x4b, d.val, b.val, v.code, 0, g.val⟩) rfl rfl rfl
    (by show (fieldsC16 _ _ : Option Instr) = _; simp [fieldsC16])
    (by have := d.isLt; have := b.isLt; have := SOpd.code_lt v; have := g.isLt; simp only [CWord.fits]; omega)

theorem ncas (d : XReg) (b : XReg) (v : SOpd) (g : Fin 8) : Statement (.ncas d b v g) :=
  ofC (w := ⟨0x4c, d.val, b.val, v.code, 0, g.val⟩) rfl rfl rfl
    (by show (fieldsC16 _ _ : Option Instr) = _; simp [fieldsC16])
    (by have := d.isLt; have := b.isLt; have := SOpd.code_lt v; have := g.isLt; simp only [CWord.fits]; omega)

theorem mzeroFlt (t : XReg) (g : Fin 8) : Statement (.mzeroFlt t g) :=
  ofC (w := ⟨0x4d, t.val, 0, 0, 0, g.val⟩) rfl rfl rfl
    (by show (fieldsC17 _ _ : Option Instr) = _; simp [fieldsC17])
    (by have := t.isLt; have := g.isLt; simp only [CWord.fits]; omega)

theorem mzeroInt (t : XReg) (g : Fin 8) : Statement (.mzeroInt t g) :=
  ofC (w := ⟨0x4d, t.val, 0, 0, 1, g.val⟩) rfl rfl rfl
    (by show (fieldsC17 _ _ : Option Instr) = _; simp [fieldsC17])
    (by have := t.isLt; have := g.isLt; simp only [CWord.fits]; omega)

theorem mstat (t : XReg) (g : Fin 8) : Statement (.mstat t g) :=
  ofC (w := ⟨0x4e, t.val, 0, 0, 0, g.val⟩) rfl rfl rfl
    (by show (fieldsC7 _ _ : Option Instr) = _; simp [fieldsC7])
    (by have := t.isLt; have := g.isLt; simp only [CWord.fits]; omega)

theorem mhint (imm : BitVec 12) : Statement (.mhint imm) :=
  ofC (w := (CWord.ofI 0x4f 0 0 imm.toNat)) rfl rfl rfl
    (by show (fieldsC3 _ _ : Option Instr) = _; simp [fieldsC3, CWord.imm_ofI])
    (CWord.fits_ofI _ _ _ _ (by omega) (by have := bv12 imm; omega) (by have := bv12 imm; omega))

theorem ldnW (d : XReg) (b : XReg) (imm : BitVec 12) : Statement (.ldnW d b imm) :=
  ofC (w := (CWord.ofI 0x50 d.val b.val imm.toNat)) rfl rfl rfl
    (by show (fieldsC12 _ _ : Option Instr) = _; simp [fieldsC12, CWord.imm_ofI])
    (CWord.fits_ofI _ _ _ _ (by omega) (by have := d.isLt; have := b.isLt; have := bv12 imm; omega) (by have := d.isLt; have := b.isLt; have := bv12 imm; omega))

theorem ldnD (d : XReg) (b : XReg) (imm : BitVec 12) : Statement (.ldnD d b imm) :=
  ofC (w := (CWord.ofI 0x51 d.val b.val imm.toNat)) rfl rfl rfl
    (by show (fieldsC12 _ _ : Option Instr) = _; simp [fieldsC12, CWord.imm_ofI])
    (CWord.fits_ofI _ _ _ _ (by omega) (by have := d.isLt; have := b.isLt; have := bv12 imm; omega) (by have := d.isLt; have := b.isLt; have := bv12 imm; omega))

theorem stnW (v : SOpd) (b : XReg) (imm : BitVec 12) : Statement (.stnW v b imm) :=
  ofC (w := (CWord.ofI 0x52 v.code b.val imm.toNat)) rfl rfl rfl
    (by show (fieldsC13 _ _ : Option Instr) = _; simp [fieldsC13, CWord.imm_ofI])
    (CWord.fits_ofI _ _ _ _ (by omega) (by have := SOpd.code_lt v; have := b.isLt; have := bv12 imm; omega) (by have := SOpd.code_lt v; have := b.isLt; have := bv12 imm; omega))

theorem stnD (v : SOpd) (b : XReg) (imm : BitVec 12) : Statement (.stnD v b imm) :=
  ofC (w := (CWord.ofI 0x53 v.code b.val imm.toNat)) rfl rfl rfl
    (by show (fieldsC13 _ _ : Option Instr) = _; simp [fieldsC13, CWord.imm_ofI])
    (CWord.fits_ofI _ _ _ _ (by omega) (by have := SOpd.code_lt v; have := b.isLt; have := bv12 imm; omega) (by have := SOpd.code_lt v; have := b.isLt; have := bv12 imm; omega))

theorem vldn (d : VReg) (b : XReg) (imm : BitVec 12) : Statement (.vldn d b imm) :=
  ofC (w := (CWord.ofI 0x54 (32 + d.val) b.val imm.toNat)) rfl rfl rfl
    (by show (fun cw : CWord => (do let d ← vReg (cw.d); let b ← finOf 32 (cw.s); let imm := BitVec.ofNat 12 (cw.imm); some (.vldn d b imm) : Option Instr)) _ = _; simp [CWord.imm_ofI])
    (CWord.fits_ofI _ _ _ _ (by omega) (by have := d.isLt; have := b.isLt; have := bv12 imm; omega) (by have := d.isLt; have := b.isLt; have := bv12 imm; omega))

theorem vstn (v : VOpd) (b : XReg) (imm : BitVec 12) : Statement (.vstn v b imm) :=
  ofC (w := (CWord.ofI 0x55 v.code b.val imm.toNat)) rfl rfl rfl
    (by show (fun cw : CWord => (do let v ← vOpd (cw.d); let b ← finOf 32 (cw.s); let imm := BitVec.ofNat 12 (cw.imm); some (.vstn v b imm) : Option Instr)) _ = _; simp [CWord.imm_ofI])
    (CWord.fits_ofI _ _ _ _ (by omega) (by have := VOpd.code_lt v; have := b.isLt; have := bv12 imm; omega) (by have := VOpd.code_lt v; have := b.isLt; have := bv12 imm; omega))

theorem ldf (d : XReg) (b : XReg) (imm : BitVec 12) : Statement (.ldf d b imm) :=
  ofC (w := (CWord.ofI 0x56 d.val b.val imm.toNat)) rfl rfl rfl
    (by show (fieldsC12 _ _ : Option Instr) = _; simp [fieldsC12, CWord.imm_ofI])
    (CWord.fits_ofI _ _ _ _ (by omega) (by have := d.isLt; have := b.isLt; have := bv12 imm; omega) (by have := d.isLt; have := b.isLt; have := bv12 imm; omega))

theorem ldfe (d : XReg) (b : XReg) (imm : BitVec 12) : Statement (.ldfe d b imm) :=
  ofC (w := (CWord.ofI 0x57 d.val b.val imm.toNat)) rfl rfl rfl
    (by show (fieldsC12 _ _ : Option Instr) = _; simp [fieldsC12, CWord.imm_ofI])
    (CWord.fits_ofI _ _ _ _ (by omega) (by have := d.isLt; have := b.isLt; have := bv12 imm; omega) (by have := d.isLt; have := b.isLt; have := bv12 imm; omega))

theorem ste (v : SOpd) (b : XReg) (imm : BitVec 12) : Statement (.ste v b imm) :=
  ofC (w := (CWord.ofI 0x58 v.code b.val imm.toNat)) rfl rfl rfl
    (by show (fieldsC13 _ _ : Option Instr) = _; simp [fieldsC13, CWord.imm_ofI])
    (CWord.fits_ofI _ _ _ _ (by omega) (by have := SOpd.code_lt v; have := b.isLt; have := bv12 imm; omega) (by have := SOpd.code_lt v; have := b.isLt; have := bv12 imm; omega))

theorem stf (v : SOpd) (b : XReg) (imm : BitVec 12) : Statement (.stf v b imm) :=
  ofC (w := (CWord.ofI 0x59 v.code b.val imm.toNat)) rfl rfl rfl
    (by show (fieldsC13 _ _ : Option Instr) = _; simp [fieldsC13, CWord.imm_ofI])
    (CWord.fits_ofI _ _ _ _ (by omega) (by have := SOpd.code_lt v; have := b.isLt; have := bv12 imm; omega) (by have := SOpd.code_lt v; have := b.isLt; have := bv12 imm; omega))

theorem feclr (b : XReg) (imm : BitVec 12) : Statement (.feclr b imm) :=
  ofC (w := (CWord.ofI 0x5a 0 b.val imm.toNat)) rfl rfl rfl
    (by show (fieldsC18 _ _ : Option Instr) = _; simp [fieldsC18, CWord.imm_ofI])
    (CWord.fits_ofI _ _ _ _ (by omega) (by have := b.isLt; have := bv12 imm; omega) (by have := b.isLt; have := bv12 imm; omega))

theorem feset (b : XReg) (imm : BitVec 12) : Statement (.feset b imm) :=
  ofC (w := (CWord.ofI 0x5b 0 b.val imm.toNat)) rfl rfl rfl
    (by show (fieldsC18 _ _ : Option Instr) = _; simp [fieldsC18, CWord.imm_ofI])
    (CWord.fits_ofI _ _ _ _ (by omega) (by have := b.isLt; have := bv12 imm; omega) (by have := b.isLt; have := bv12 imm; omega))

theorem feq (d : XReg) (b : XReg) (imm : BitVec 12) : Statement (.feq d b imm) :=
  ofC (w := (CWord.ofI 0x5c d.val b.val imm.toNat)) rfl rfl rfl
    (by show (fieldsC12 _ _ : Option Instr) = _; simp [fieldsC12, CWord.imm_ofI])
    (CWord.fits_ofI _ _ _ _ (by omega) (by have := d.isLt; have := b.isLt; have := bv12 imm; omega) (by have := d.isLt; have := b.isLt; have := bv12 imm; omega))

theorem claim (b : XReg) (imm : BitVec 12) : Statement (.claim b imm) :=
  ofC (w := (CWord.ofI 0x5d 0 b.val imm.toNat)) rfl rfl rfl
    (by show (fieldsC18 _ _ : Option Instr) = _; simp [fieldsC18, CWord.imm_ofI])
    (CWord.fits_ofI _ _ _ _ (by omega) (by have := b.isLt; have := bv12 imm; omega) (by have := b.isLt; have := bv12 imm; omega))

theorem flue (s : GReg) (g : Fin 8) : Statement (.flue s g) :=
  ofC (w := ⟨0x5e, 0, s.val, 0, 0, g.val⟩) rfl rfl rfl
    (by show (fun cw : CWord => (do is 0 (cw.d); let s ← finOf 16 (cw.s); is 0 (cw.t); is 0 (cw.f); let g ← finOf 8 (cw.g); some (.flue s g) : Option Instr)) _ = _; simp)
    (by have := s.isLt; have := g.isLt; simp only [CWord.fits]; omega)

theorem send (a : SOpd) (t : XReg) (b : SOpd) (g : Fin 8) : Statement (.send a t b g) :=
  ofC (w := ⟨0x60, a.code, t.val, b.code, 0, g.val⟩) rfl rfl rfl
    (by show (fun cw : CWord => (do let a ← sOpd (cw.d); let t ← finOf 32 (cw.s); let b ← sOpd (cw.t); let g ← finOf 8 (cw.g); some (.send a t b g) : Option Instr)) _ = _; simp)
    (by have := SOpd.code_lt a; have := t.isLt; have := SOpd.code_lt b; have := g.isLt; simp only [CWord.fits]; omega)

theorem sendT (a : SOpd) (t : XReg) (b : SOpd) (g : Fin 8) : Statement (.sendT a t b g) :=
  ofC (w := ⟨0x60, a.code, t.val, b.code, 1, g.val⟩) rfl rfl rfl
    (by show (fun cw : CWord => (do let a ← sOpd (cw.d); let t ← finOf 32 (cw.s); let b ← sOpd (cw.t); let g ← finOf 8 (cw.g); some (.sendT a t b g) : Option Instr)) _ = _; simp)
    (by have := SOpd.code_lt a; have := t.isLt; have := SOpd.code_lt b; have := g.isLt; simp only [CWord.fits]; omega)

theorem recv (d : XReg) (e : XReg) (f : Fin 8) (g : Fin 8) : Statement (.recv d e f g) :=
  ofC (w := ⟨0x61, d.val, 0, e.val, f.val, g.val⟩) rfl rfl rfl
    (by show (fun cw : CWord => (do let d ← finOf 32 (cw.d); is 0 (cw.s); let e ← finOf 32 (cw.t); let f ← finOf 8 (cw.f); let g ← finOf 8 (cw.g); some (.recv d e f g) : Option Instr)) _ = _; simp)
    (by have := d.isLt; have := e.isLt; have := f.isLt; have := g.isLt; simp only [CWord.fits]; omega)

theorem recvs (d : XReg) (s : XReg) (e : XReg) (f : Fin 8) (g : Fin 8) : Statement (.recvs d s e f g) :=
  ofC (w := ⟨0x62, d.val, s.val, e.val, f.val, g.val⟩) rfl rfl rfl
    (by show (fun cw : CWord => (do let d ← finOf 32 (cw.d); let s ← finOf 32 (cw.s); let e ← finOf 32 (cw.t); let f ← finOf 8 (cw.f); let g ← finOf 8 (cw.g); some (.recvs d s e f g) : Option Instr)) _ = _; simp)
    (by have := d.isLt; have := s.isLt; have := e.isLt; have := f.isLt; have := g.isLt; simp only [CWord.fits]; omega)

theorem waitm (d : XReg) (s : XReg) (e : XReg) (f : Fin 8) (g : Fin 8) : Statement (.waitm d s e f g) :=
  ofC (w := ⟨0x63, d.val, s.val, e.val, f.val, g.val⟩) rfl rfl rfl
    (by show (fun cw : CWord => (do let d ← finOf 32 (cw.d); let s ← finOf 32 (cw.s); let e ← finOf 32 (cw.t); let f ← finOf 8 (cw.f); let g ← finOf 8 (cw.g); some (.waitm d s e f g) : Option Instr)) _ = _; simp)
    (by have := d.isLt; have := s.isLt; have := e.isLt; have := f.isLt; have := g.isLt; simp only [CWord.fits]; omega)

theorem putr (idx : XReg) (t : XReg) (v : SOpd) (g : Fin 8) : Statement (.putr idx t v g) :=
  ofC (w := ⟨0x64, idx.val, t.val, v.code, 0, g.val⟩) rfl rfl rfl
    (by show (fieldsC16 _ _ : Option Instr) = _; simp [fieldsC16])
    (by have := idx.isLt; have := t.isLt; have := SOpd.code_lt v; have := g.isLt; simp only [CWord.fits]; omega)

theorem pclr (d : XReg) (g : Fin 8) : Statement (.pclr d g) :=
  ofC (w := ⟨0x65, d.val, 0, 0, 0, g.val⟩) rfl rfl rfl
    (by show (fieldsC7 _ _ : Option Instr) = _; simp [fieldsC7])
    (by have := d.isLt; have := g.isLt; simp only [CWord.fits]; omega)

theorem ptst (d : XReg) (s : XReg) (g : Fin 8) : Statement (.ptst d s g) :=
  ofC (w := ⟨0x66, d.val, s.val, 0, 0, g.val⟩) rfl rfl rfl
    (by show (fun cw : CWord => (do let d ← finOf 32 (cw.d); let s ← finOf 32 (cw.s); is 0 (cw.t); is 0 (cw.f); let g ← finOf 8 (cw.g); some (.ptst d s g) : Option Instr)) _ = _; simp)
    (by have := d.isLt; have := s.isLt; have := g.isLt; simp only [CWord.fits]; omega)

theorem qunbind (q : Fin 8) (g : Fin 8) : Statement (.qunbind q g) :=
  ofC (w := ⟨0x67, 0, 0, 0, q.val, g.val⟩) rfl rfl rfl
    (by show (fun cw : CWord => (do is 0 (cw.d); is 0 (cw.s); is 0 (cw.t); let q ← finOf 8 (cw.f); let g ← finOf 8 (cw.g); some (.qunbind q g) : Option Instr)) _ = _; simp)
    (by have := q.isLt; have := g.isLt; simp only [CWord.fits]; omega)

theorem qpop (k : Fin 8) (q : Fin 8) (g : Fin 8) : Statement (.qpop k q g) :=
  ofC (w := ⟨0x68, 0, 0, k.val, q.val, g.val⟩) rfl rfl rfl
    (by show (fun cw : CWord => (do is 0 (cw.d); is 0 (cw.s); let k ← finOf 8 (cw.t); let q ← finOf 8 (cw.f); let g ← finOf 8 (cw.g); some (.qpop k q g) : Option Instr)) _ = _; simp)
    (by have := k.isLt; have := q.isLt; have := g.isLt; simp only [CWord.fits]; omega)

theorem qpush (k : Fin 8) (q : Fin 8) (g : Fin 8) : Statement (.qpush k q g) :=
  ofC (w := ⟨0x69, 0, 0, k.val, q.val, g.val⟩) rfl rfl rfl
    (by show (fun cw : CWord => (do is 0 (cw.d); is 0 (cw.s); let k ← finOf 8 (cw.t); let q ← finOf 8 (cw.f); let g ← finOf 8 (cw.g); some (.qpush k q g) : Option Instr)) _ = _; simp)
    (by have := k.isLt; have := q.isLt; have := g.isLt; simp only [CWord.fits]; omega)

theorem qstat (d : XReg) (q : Fin 8) (g : Fin 8) : Statement (.qstat d q g) :=
  ofC (w := ⟨0x6a, d.val, 0, 0, q.val, g.val⟩) rfl rfl rfl
    (by show (fun cw : CWord => (do let d ← finOf 32 (cw.d); is 0 (cw.s); is 0 (cw.t); let q ← finOf 8 (cw.f); let g ← finOf 8 (cw.g); some (.qstat d q g) : Option Instr)) _ = _; simp)
    (by have := d.isLt; have := q.isLt; have := g.isLt; simp only [CWord.fits]; omega)

theorem qfwd (g : Fin 8) : Statement (.qfwd g) :=
  ofC (w := ⟨0x6b, 0, 0, 0, 0, g.val⟩) rfl rfl rfl
    (by show (fieldsC1 _ _ : Option Instr) = _; simp [fieldsC1])
    (by have := g.isLt; simp only [CWord.fits]; omega)

theorem qseam (d : XReg) (g : Fin 8) : Statement (.qseam d g) :=
  ofC (w := ⟨0x6c, d.val, 0, 0, 0, g.val⟩) rfl rfl rfl
    (by show (fieldsC7 _ _ : Option Instr) = _; simp [fieldsC7])
    (by have := d.isLt; have := g.isLt; simp only [CWord.fits]; omega)

theorem qinherit (b : XReg) (n : XReg) (g : Fin 8) : Statement (.qinherit b n g) :=
  ofC (w := ⟨0x6d, 0, b.val, n.val, 0, g.val⟩) rfl rfl rfl
    (by show (fun cw : CWord => (do is 0 (cw.d); let b ← finOf 32 (cw.s); let n ← finOf 32 (cw.t); is 0 (cw.f); let g ← finOf 8 (cw.g); some (.qinherit b n g) : Option Instr)) _ = _; simp)
    (by have := b.isLt; have := n.isLt; have := g.isLt; simp only [CWord.fits]; omega)

theorem markret (g : Fin 8) : Statement (.markret g) :=
  ofC (w := ⟨0x6e, 0, 0, 0, 0, g.val⟩) rfl rfl rfl
    (by show (fieldsC1 _ _ : Option Instr) = _; simp [fieldsC1])
    (by have := g.isLt; simp only [CWord.fits]; omega)

theorem pand (d : PReg) (a : PReg) (b : PReg) (g : Fin 8) : Statement (.pand d a b g) :=
  ofC (w := ⟨0x70, d.val, a.val, b.val, 0, g.val⟩) rfl rfl rfl
    (by show (fieldsC19 _ _ : Option Instr) = _; simp [fieldsC19])
    (by have := d.isLt; have := a.isLt; have := b.isLt; have := g.isLt; simp only [CWord.fits]; omega)

theorem por (d : PReg) (a : PReg) (b : PReg) (g : Fin 8) : Statement (.por d a b g) :=
  ofC (w := ⟨0x70, d.val, a.val, b.val, 1, g.val⟩) rfl rfl rfl
    (by show (fieldsC19 _ _ : Option Instr) = _; simp [fieldsC19])
    (by have := d.isLt; have := a.isLt; have := b.isLt; have := g.isLt; simp only [CWord.fits]; omega)

theorem pxor (d : PReg) (a : PReg) (b : PReg) (g : Fin 8) : Statement (.pxor d a b g) :=
  ofC (w := ⟨0x70, d.val, a.val, b.val, 2, g.val⟩) rfl rfl rfl
    (by show (fieldsC19 _ _ : Option Instr) = _; simp [fieldsC19])
    (by have := d.isLt; have := a.isLt; have := b.isLt; have := g.isLt; simp only [CWord.fits]; omega)

theorem pnot (d : PReg) (a : PReg) (g : Fin 8) : Statement (.pnot d a g) :=
  ofC (w := ⟨0x70, d.val, a.val, 0, 3, g.val⟩) rfl rfl rfl
    (by show (fun cw : CWord => (do let d ← finOf 16 (cw.d); let a ← finOf 16 (cw.s); is 0 (cw.t); let g ← finOf 8 (cw.g); some (.pnot d a g) : Option Instr)) _ = _; simp)
    (by have := d.isLt; have := a.isLt; have := g.isLt; simp only [CWord.fits]; omega)

theorem pmov (d : PReg) (a : PReg) (g : Fin 8) : Statement (.pmov d a g) :=
  ofC (w := ⟨0x70, d.val, a.val, 0, 4, g.val⟩) rfl rfl rfl
    (by show (fun cw : CWord => (do let d ← finOf 16 (cw.d); let a ← finOf 16 (cw.s); is 0 (cw.t); let g ← finOf 8 (cw.g); some (.pmov d a g) : Option Instr)) _ = _; simp)
    (by have := d.isLt; have := a.isLt; have := g.isLt; simp only [CWord.fits]; omega)

theorem bar (b : Fin 16) (sc : Scope) (g : Fin 8) : Statement (.bar b sc g) :=
  ofC (w := ⟨0x71, 0, 0, b.val, sc.code, g.val⟩) rfl rfl rfl
    (by show (fun cw : CWord => (do is 0 (cw.d); is 0 (cw.s); let b ← finOf 16 (cw.t); let sc ← scope (cw.f); let g ← finOf 8 (cw.g); some (.bar b sc g) : Option Instr)) _ = _; simp)
    (by have := b.isLt; have := Scope.code_lt sc; have := g.isLt; simp only [CWord.fits]; omega)

theorem bara (d : XReg) (b : Fin 16) (sc : Scope) (g : Fin 8) : Statement (.bara d b sc g) :=
  ofC (w := ⟨0x72, d.val, 0, b.val, sc.code, g.val⟩) rfl rfl rfl
    (by show (fun cw : CWord => (do let d ← finOf 32 (cw.d); is 0 (cw.s); let b ← finOf 16 (cw.t); let sc ← scope (cw.f); let g ← finOf 8 (cw.g); some (.bara d b sc g) : Option Instr)) _ = _; simp)
    (by have := d.isLt; have := b.isLt; have := Scope.code_lt sc; have := g.isLt; simp only [CWord.fits]; omega)

theorem barw (s : XReg) (b : Fin 16) (sc : Scope) (g : Fin 8) : Statement (.barw s b sc g) :=
  ofC (w := ⟨0x73, 0, s.val, b.val, sc.code, g.val⟩) rfl rfl rfl
    (by show (fun cw : CWord => (do is 0 (cw.d); let s ← finOf 32 (cw.s); let b ← finOf 16 (cw.t); let sc ← scope (cw.f); let g ← finOf 8 (cw.g); some (.barw s b sc g) : Option Instr)) _ = _; simp)
    (by have := s.isLt; have := b.isLt; have := Scope.code_lt sc; have := g.isLt; simp only [CWord.fits]; omega)

theorem emb (d : XReg) (g : Fin 8) : Statement (.emb d g) :=
  ofC (w := ⟨0x74, d.val, 0, 0, 0, g.val⟩) rfl rfl rfl
    (by show (fieldsC17 _ _ : Option Instr) = _; simp [fieldsC17])
    (by have := d.isLt; have := g.isLt; simp only [CWord.fits]; omega)

theorem embHearth (d : XReg) (g : Fin 8) : Statement (.embHearth d g) :=
  ofC (w := ⟨0x74, d.val, 0, 0, 1, g.val⟩) rfl rfl rfl
    (by show (fieldsC17 _ _ : Option Instr) = _; simp [fieldsC17])
    (by have := d.isLt; have := g.isLt; simp only [CWord.fits]; omega)

theorem gang (n : Fin 8) (g : Fin 8) : Statement (.gang n g) :=
  ofC (w := ⟨0x75, 0, 0, 0, n.val, g.val⟩) rfl rfl rfl
    (by show (fun cw : CWord => (do is 0 (cw.d); is 0 (cw.s); is 0 (cw.t); let n ← finOf 8 (cw.f); let g ← finOf 8 (cw.g); some (.gang n g) : Option Instr)) _ = _; simp)
    (by have := n.isLt; have := g.isLt; simp only [CWord.fits]; omega)

theorem gangw (g : Fin 8) : Statement (.gangw g) :=
  ofC (w := ⟨0x76, 0, 0, 0, 0, g.val⟩) rfl rfl rfl
    (by show (fieldsC1 _ _ : Option Instr) = _; simp [fieldsC1])
    (by have := g.isLt; simp only [CWord.fits]; omega)

theorem disband (g : Fin 8) : Statement (.disband g) :=
  ofC (w := ⟨0x77, 0, 0, 0, 0, g.val⟩) rfl rfl rfl
    (by show (fieldsC1 _ _ : Option Instr) = _; simp [fieldsC1])
    (by have := g.isLt; simp only [CWord.fits]; omega)

theorem tqpush (d : XReg) (w : XReg) (c : Fin 4) (g : Fin 8) : Statement (.tqpush d w c g) :=
  ofC (w := ⟨0x78, d.val, w.val, c.val, 0, g.val⟩) rfl rfl rfl
    (by show (fun cw : CWord => (do let d ← finOf 32 (cw.d); let w ← finOf 32 (cw.s); let c ← finOf 4 (cw.t); let g ← finOf 8 (cw.g); some (.tqpush d w c g) : Option Instr)) _ = _; simp)
    (by have := d.isLt; have := w.isLt; have := c.isLt; have := g.isLt; simp only [CWord.fits]; omega)

theorem tqpop (d : XReg) (e : XReg) (g : Fin 8) : Statement (.tqpop d e g) :=
  ofC (w := ⟨0x78, d.val, 0, e.val, 1, g.val⟩) rfl rfl rfl
    (by show (fun cw : CWord => (do let d ← finOf 32 (cw.d); is 0 (cw.s); let e ← finOf 32 (cw.t); let g ← finOf 8 (cw.g); some (.tqpop d e g) : Option Instr)) _ = _; simp)
    (by have := d.isLt; have := e.isLt; have := g.isLt; simp only [CWord.fits]; omega)

theorem tqpeek (d : XReg) (e : XReg) (g : Fin 8) : Statement (.tqpeek d e g) :=
  ofC (w := ⟨0x78, d.val, 0, e.val, 2, g.val⟩) rfl rfl rfl
    (by show (fun cw : CWord => (do let d ← finOf 32 (cw.d); is 0 (cw.s); let e ← finOf 32 (cw.t); let g ← finOf 8 (cw.g); some (.tqpeek d e g) : Option Instr)) _ = _; simp)
    (by have := d.isLt; have := e.isLt; have := g.isLt; simp only [CWord.fits]; omega)

theorem sleep (d : XReg) (w : XReg) (t : XReg) (c : Fin 4) (g : Fin 8) : Statement (.sleep d w t c g) :=
  ofC (w := ⟨0x79, d.val, w.val, t.val, c.val, g.val⟩) rfl rfl rfl
    (by
      have key : ∀ c : Fin 4, decodeCFields ⟨0x79, d.val, w.val, t.val, c.val, g.val⟩ =
          (do let d ← finOf 32 d.val; let w ← finOf 32 w.val; let t ← finOf 32 t.val; let c ← finOf 4 (c.val)
              let g ← finOf 8 g.val; some (.sleep d w t c g)) := by
        intro c
        match c with
        | ⟨0, _⟩ => rfl
        | ⟨1, _⟩ => rfl
        | ⟨2, _⟩ => rfl
        | ⟨3, _⟩ => rfl
      rw [key]; simp)
    (by have := d.isLt; have := w.isLt; have := t.isLt; have := c.isLt; have := g.isLt; simp only [CWord.fits]; omega)

theorem sleepW (d : XReg) (w : XReg) (t : XReg) (c : Fin 4) (g : Fin 8) : Statement (.sleepW d w t c g) :=
  ofC (w := ⟨0x79, d.val, w.val, t.val, (4 + c.val), g.val⟩) rfl rfl rfl
    (by
      have key : ∀ c : Fin 4, decodeCFields ⟨0x79, d.val, w.val, t.val, 4 + c.val, g.val⟩ =
          (do let d ← finOf 32 d.val; let w ← finOf 32 w.val; let t ← finOf 32 t.val; let c ← hi4 (4 + c.val)
              let g ← finOf 8 g.val; some (.sleepW d w t c g)) := by
        intro c
        match c with
        | ⟨0, _⟩ => rfl
        | ⟨1, _⟩ => rfl
        | ⟨2, _⟩ => rfl
        | ⟨3, _⟩ => rfl
      rw [key]; simp)
    (by have := d.isLt; have := w.isLt; have := t.isLt; have := c.isLt; have := g.isLt; simp only [CWord.fits]; omega)

theorem timer (d : XReg) (s : XReg) (g : Fin 8) : Statement (.timer d s g) :=
  ofC (w := ⟨0x7a, d.val, s.val, 0, 0, g.val⟩) rfl rfl rfl
    (by show (fieldsC8 _ _ : Option Instr) = _; simp [fieldsC8])
    (by have := d.isLt; have := s.isLt; have := g.isLt; simp only [CWord.fits]; omega)

theorem timerAbs (d : XReg) (s : XReg) (g : Fin 8) : Statement (.timerAbs d s g) :=
  ofC (w := ⟨0x7a, d.val, s.val, 0, 1, g.val⟩) rfl rfl rfl
    (by show (fieldsC8 _ _ : Option Instr) = _; simp [fieldsC8])
    (by have := d.isLt; have := s.isLt; have := g.isLt; simp only [CWord.fits]; omega)

theorem timerOff (d : XReg) (g : Fin 8) : Statement (.timerOff d g) :=
  ofC (w := ⟨0x7a, d.val, 0, 0, 2, g.val⟩) rfl rfl rfl
    (by show (fieldsC17 _ _ : Option Instr) = _; simp [fieldsC17])
    (by have := d.isLt; have := g.isLt; simp only [CWord.fits]; omega)

theorem mfs (d : XReg) (n : Fin 64) (g : Fin 8) : Statement (.mfs d n g) :=
  ofC (w := ⟨0x7b, d.val, 0, n.val, 0, g.val⟩) rfl rfl rfl
    (by show (fun cw : CWord => (do let d ← finOf 32 (cw.d); is 0 (cw.s); let n ← finOf 64 (cw.t); is 0 (cw.f); let g ← finOf 8 (cw.g); some (.mfs d n g) : Option Instr)) _ = _; simp)
    (by have := d.isLt; have := n.isLt; have := g.isLt; simp only [CWord.fits]; omega)

theorem mts (s : XReg) (n : Fin 64) (g : Fin 8) : Statement (.mts s n g) :=
  ofC (w := ⟨0x7c, 0, s.val, n.val, 0, g.val⟩) rfl rfl rfl
    (by show (fun cw : CWord => (do is 0 (cw.d); let s ← finOf 32 (cw.s); let n ← finOf 64 (cw.t); is 0 (cw.f); let g ← finOf 8 (cw.g); some (.mts s n g) : Option Instr)) _ = _; simp)
    (by have := s.isLt; have := n.isLt; have := g.isLt; simp only [CWord.fits]; omega)

theorem segld (b : XReg) (n : Fin 8) (g : Fin 8) : Statement (.segld b n g) :=
  ofC (w := ⟨0x7d, 0, b.val, n.val, 0, g.val⟩) rfl rfl rfl
    (by show (fun cw : CWord => (do is 0 (cw.d); let b ← finOf 32 (cw.s); let n ← finOf 8 (cw.t); let g ← finOf 8 (cw.g); some (.segld b n g) : Option Instr)) _ = _; simp)
    (by have := b.isLt; have := n.isLt; have := g.isLt; simp only [CWord.fits]; omega)

theorem segst (b : XReg) (n : Fin 8) (g : Fin 8) : Statement (.segst b n g) :=
  ofC (w := ⟨0x7d, 0, b.val, n.val, 1, g.val⟩) rfl rfl rfl
    (by show (fun cw : CWord => (do is 0 (cw.d); let b ← finOf 32 (cw.s); let n ← finOf 8 (cw.t); let g ← finOf 8 (cw.g); some (.segst b n g) : Option Instr)) _ = _; simp)
    (by have := b.isLt; have := n.isLt; have := g.isLt; simp only [CWord.fits]; omega)

theorem tlbi (s : XReg) (sc : Scope) (g : Fin 8) : Statement (.tlbi s sc g) :=
  ofC (w := ⟨0x7e, 0, s.val, 0, sc.code, g.val⟩) rfl rfl rfl
    (by show (fun cw : CWord => (do is 0 (cw.d); let s ← finOf 32 (cw.s); is 0 (cw.t); let sc ← scope (cw.f); let g ← finOf 8 (cw.g); some (.tlbi s sc g) : Option Instr)) _ = _; simp)
    (by have := s.isLt; have := Scope.code_lt sc; have := g.isLt; simp only [CWord.fits]; omega)

theorem pgrep (s : XReg) (g : Fin 8) : Statement (.pgrep s g) :=
  ofC (w := ⟨0x7f, 0, s.val, 0, 0, g.val⟩) rfl rfl rfl
    (by show (fieldsC15 _ _ : Option Instr) = _; simp [fieldsC15])
    (by have := s.isLt; have := g.isLt; simp only [CWord.fits]; omega)

theorem pgrepFail (s : XReg) (g : Fin 8) : Statement (.pgrepFail s g) :=
  ofC (w := ⟨0x7f, 0, s.val, 0, 1, g.val⟩) rfl rfl rfl
    (by show (fieldsC15 _ _ : Option Instr) = _; simp [fieldsC15])
    (by have := s.isLt; have := g.isLt; simp only [CWord.fits]; omega)

theorem anop : Statement .anop :=
  ofA (w := ⟨0x00, 0, 0, 0, 0, 0, 0⟩) rfl rfl rfl
    (by show (fun cw : AWord => (do is 0 (cw.ty); is 0 (cw.d); is 0 (cw.a); is 0 (cw.b); is 0 (cw.m); is 0 (cw.r); some (.anop) : Option Instr)) _ = _; simp)
    (by simp only [AWord.fits]; omega)

theorem fadd (ty : AFmt) (d : SOpd) (a : SOpd) (b : SOpd) (r : Rnd) : Statement (.fadd ty d a b r) :=
  ofA (w := ⟨0x01, ty.code, d.code, a.code, b.code, 0, r.code⟩) rfl rfl rfl
    (by show (fieldsA1 _ _ : Option Instr) = _; simp [fieldsA1])
    (by have := AFmt.code_lt ty; have := SOpd.code_lt d; have := SOpd.code_lt a; have := SOpd.code_lt b; have := Rnd.code_lt r; simp only [AWord.fits]; omega)

theorem fsub (ty : AFmt) (d : SOpd) (a : SOpd) (b : SOpd) (r : Rnd) : Statement (.fsub ty d a b r) :=
  ofA (w := ⟨0x02, ty.code, d.code, a.code, b.code, 0, r.code⟩) rfl rfl rfl
    (by show (fieldsA1 _ _ : Option Instr) = _; simp [fieldsA1])
    (by have := AFmt.code_lt ty; have := SOpd.code_lt d; have := SOpd.code_lt a; have := SOpd.code_lt b; have := Rnd.code_lt r; simp only [AWord.fits]; omega)

theorem fmul (ty : AFmt) (d : SOpd) (a : SOpd) (b : SOpd) (r : Rnd) : Statement (.fmul ty d a b r) :=
  ofA (w := ⟨0x03, ty.code, d.code, a.code, b.code, 0, r.code⟩) rfl rfl rfl
    (by show (fieldsA1 _ _ : Option Instr) = _; simp [fieldsA1])
    (by have := AFmt.code_lt ty; have := SOpd.code_lt d; have := SOpd.code_lt a; have := SOpd.code_lt b; have := Rnd.code_lt r; simp only [AWord.fits]; omega)

theorem fma (ty : AFmt) (d : SOpd) (a : SOpd) (b : SOpd) (r : Rnd) : Statement (.fma ty d a b r) :=
  ofA (w := ⟨0x04, ty.code, d.code, a.code, b.code, 0, r.code⟩) rfl rfl rfl
    (by show (fieldsA1 _ _ : Option Instr) = _; simp [fieldsA1])
    (by have := AFmt.code_lt ty; have := SOpd.code_lt d; have := SOpd.code_lt a; have := SOpd.code_lt b; have := Rnd.code_lt r; simp only [AWord.fits]; omega)

theorem fdiv (ty : AFmt) (d : SOpd) (a : SOpd) (b : SOpd) (r : Rnd) : Statement (.fdiv ty d a b r) :=
  ofA (w := ⟨0x05, ty.code, d.code, a.code, b.code, 0, r.code⟩) rfl rfl rfl
    (by show (fieldsA1 _ _ : Option Instr) = _; simp [fieldsA1])
    (by have := AFmt.code_lt ty; have := SOpd.code_lt d; have := SOpd.code_lt a; have := SOpd.code_lt b; have := Rnd.code_lt r; simp only [AWord.fits]; omega)

theorem fsqrt (ty : AFmt) (d : SOpd) (a : SOpd) (r : Rnd) : Statement (.fsqrt ty d a r) :=
  ofA (w := ⟨0x06, ty.code, d.code, a.code, 0, 0, r.code⟩) rfl rfl rfl
    (by show (fun cw : AWord => (do let ty ← aFmt (cw.ty); let d ← sOpd (cw.d); let a ← sOpd (cw.a); is 0 (cw.b); is 0 (cw.m); let r ← rnd (cw.r); some (.fsqrt ty d a r) : Option Instr)) _ = _; simp)
    (by have := AFmt.code_lt ty; have := SOpd.code_lt d; have := SOpd.code_lt a; have := Rnd.code_lt r; simp only [AWord.fits]; omega)

theorem fmin (ty : AFmt) (d : SOpd) (a : SOpd) (b : SOpd) : Statement (.fmin ty d a b) :=
  ofA (w := ⟨0x07, ty.code, d.code, a.code, b.code, 0, 0⟩) rfl rfl rfl
    (by show (fieldsA2 _ _ : Option Instr) = _; simp [fieldsA2])
    (by have := AFmt.code_lt ty; have := SOpd.code_lt d; have := SOpd.code_lt a; have := SOpd.code_lt b; simp only [AWord.fits]; omega)

theorem fmax (ty : AFmt) (d : SOpd) (a : SOpd) (b : SOpd) : Statement (.fmax ty d a b) :=
  ofA (w := ⟨0x08, ty.code, d.code, a.code, b.code, 0, 0⟩) rfl rfl rfl
    (by show (fieldsA2 _ _ : Option Instr) = _; simp [fieldsA2])
    (by have := AFmt.code_lt ty; have := SOpd.code_lt d; have := SOpd.code_lt a; have := SOpd.code_lt b; simp only [AWord.fits]; omega)

theorem fabs (ty : AFmt) (d : SOpd) (a : SOpd) : Statement (.fabs ty d a) :=
  ofA (w := ⟨0x09, ty.code, d.code, a.code, 0, 0, 0⟩) rfl rfl rfl
    (by show (fieldsA3 _ _ : Option Instr) = _; simp [fieldsA3])
    (by have := AFmt.code_lt ty; have := SOpd.code_lt d; have := SOpd.code_lt a; simp only [AWord.fits]; omega)

theorem fneg (ty : AFmt) (d : SOpd) (a : SOpd) : Statement (.fneg ty d a) :=
  ofA (w := ⟨0x0a, ty.code, d.code, a.code, 0, 0, 0⟩) rfl rfl rfl
    (by show (fieldsA3 _ _ : Option Instr) = _; simp [fieldsA3])
    (by have := AFmt.code_lt ty; have := SOpd.code_lt d; have := SOpd.code_lt a; simp only [AWord.fits]; omega)

theorem fsgn (ty : AFmt) (d : SOpd) (a : SOpd) (b : SOpd) : Statement (.fsgn ty d a b) :=
  ofA (w := ⟨0x0b, ty.code, d.code, a.code, b.code, 0, 0⟩) rfl rfl rfl
    (by show (fieldsA2 _ _ : Option Instr) = _; simp [fieldsA2])
    (by have := AFmt.code_lt ty; have := SOpd.code_lt d; have := SOpd.code_lt a; have := SOpd.code_lt b; simp only [AWord.fits]; omega)

theorem fcmp (ty : AFmt) (d : SOpd) (a : SOpd) (b : SOpd) : Statement (.fcmp ty d a b) :=
  ofA (w := ⟨0x0c, ty.code, d.code, a.code, b.code, 0, 0⟩) rfl rfl rfl
    (by show (fieldsA2 _ _ : Option Instr) = _; simp [fieldsA2])
    (by have := AFmt.code_lt ty; have := SOpd.code_lt d; have := SOpd.code_lt a; have := SOpd.code_lt b; simp only [AWord.fits]; omega)

theorem fclass (ty : AFmt) (d : SOpd) (a : SOpd) : Statement (.fclass ty d a) :=
  ofA (w := ⟨0x0d, ty.code, d.code, a.code, 0, 0, 0⟩) rfl rfl rfl
    (by show (fieldsA3 _ _ : Option Instr) = _; simp [fieldsA3])
    (by have := AFmt.code_lt ty; have := SOpd.code_lt d; have := SOpd.code_lt a; simp only [AWord.fits]; omega)

theorem fcvtF (ty : FFmt) (d : SOpd) (a : SOpd) (src : Fmt) (r : Rnd) : Statement (.fcvtF ty d a src r) :=
  ofA (w := ⟨0x0e, ty.code, d.code, a.code, src.code, 0, r.code⟩) rfl rfl rfl
    (by show (fun cw : AWord => (do let ty ← fFmt (cw.ty); let d ← sOpd (cw.d); let a ← sOpd (cw.a); let src ← srcFmt (cw.b); is 0 (cw.m); let r ← rnd (cw.r); some (.fcvtF ty d a src r) : Option Instr)) _ = _; simp)
    (by have := FFmt.code_lt ty; have := SOpd.code_lt d; have := SOpd.code_lt a; have := Fmt.code_lt src; have := Rnd.code_lt r; simp only [AWord.fits]; omega)

theorem fcvtI (ty : IFmt) (d : SOpd) (a : SOpd) (src : Fmt) (r : Rnd) : Statement (.fcvtI ty d a src r) :=
  ofA (w := ⟨0x4e, ty.code, d.code, a.code, src.code, 0, r.code⟩) rfl rfl rfl
    (by show (fun cw : AWord => (do let ty ← iFmt (cw.ty); let d ← sOpd (cw.d); let a ← sOpd (cw.a); let src ← srcFmt (cw.b); is 0 (cw.m); let r ← rnd (cw.r); some (.fcvtI ty d a src r) : Option Instr)) _ = _; simp)
    (by have := IFmt.code_lt ty; have := SOpd.code_lt d; have := SOpd.code_lt a; have := Fmt.code_lt src; have := Rnd.code_lt r; simp only [AWord.fits]; omega)

theorem vaddF (ty : AFmt) (d : VOpd) (a : VOpd) (b : VOpd) (m : MReg) (r : Rnd) : Statement (.vaddF ty d a b m r) :=
  ofA (w := ⟨0x10, ty.code, d.code, a.code, b.code, m.val, r.code⟩) rfl rfl rfl
    (by show (fieldsA4 _ _ : Option Instr) = _; simp [fieldsA4])
    (by have := AFmt.code_lt ty; have := VOpd.code_lt d; have := VOpd.code_lt a; have := VOpd.code_lt b; have := m.isLt; have := Rnd.code_lt r; simp only [AWord.fits]; omega)

theorem vsubF (ty : AFmt) (d : VOpd) (a : VOpd) (b : VOpd) (m : MReg) (r : Rnd) : Statement (.vsubF ty d a b m r) :=
  ofA (w := ⟨0x11, ty.code, d.code, a.code, b.code, m.val, r.code⟩) rfl rfl rfl
    (by show (fieldsA4 _ _ : Option Instr) = _; simp [fieldsA4])
    (by have := AFmt.code_lt ty; have := VOpd.code_lt d; have := VOpd.code_lt a; have := VOpd.code_lt b; have := m.isLt; have := Rnd.code_lt r; simp only [AWord.fits]; omega)

theorem vmulF (ty : AFmt) (d : VOpd) (a : VOpd) (b : VOpd) (m : MReg) (r : Rnd) : Statement (.vmulF ty d a b m r) :=
  ofA (w := ⟨0x12, ty.code, d.code, a.code, b.code, m.val, r.code⟩) rfl rfl rfl
    (by show (fieldsA4 _ _ : Option Instr) = _; simp [fieldsA4])
    (by have := AFmt.code_lt ty; have := VOpd.code_lt d; have := VOpd.code_lt a; have := VOpd.code_lt b; have := m.isLt; have := Rnd.code_lt r; simp only [AWord.fits]; omega)

theorem vfma (ty : AFmt) (d : VReg) (a : VOpd) (b : VOpd) (m : MReg) (r : Rnd) : Statement (.vfma ty d a b m r) :=
  ofA (w := ⟨0x13, ty.code, (32 + d.val), a.code, b.code, m.val, r.code⟩) rfl rfl rfl
    (by show (fun cw : AWord => (do let ty ← aFmt (cw.ty); let d ← vReg (cw.d); let a ← vOpd (cw.a); let b ← vOpd (cw.b); let m ← finOf 4 (cw.m); let r ← rnd (cw.r); some (.vfma ty d a b m r) : Option Instr)) _ = _; simp)
    (by have := AFmt.code_lt ty; have := d.isLt; have := VOpd.code_lt a; have := VOpd.code_lt b; have := m.isLt; have := Rnd.code_lt r; simp only [AWord.fits]; omega)

theorem vfms (ty : AFmt) (d : VReg) (a : VOpd) (b : VOpd) (m : MReg) (r : Rnd) : Statement (.vfms ty d a b m r) :=
  ofA (w := ⟨0x14, ty.code, (32 + d.val), a.code, b.code, m.val, r.code⟩) rfl rfl rfl
    (by show (fun cw : AWord => (do let ty ← aFmt (cw.ty); let d ← vReg (cw.d); let a ← vOpd (cw.a); let b ← vOpd (cw.b); let m ← finOf 4 (cw.m); let r ← rnd (cw.r); some (.vfms ty d a b m r) : Option Instr)) _ = _; simp)
    (by have := AFmt.code_lt ty; have := d.isLt; have := VOpd.code_lt a; have := VOpd.code_lt b; have := m.isLt; have := Rnd.code_lt r; simp only [AWord.fits]; omega)

theorem vminF (ty : AFmt) (d : VOpd) (a : VOpd) (b : VOpd) (m : MReg) : Statement (.vminF ty d a b m) :=
  ofA (w := ⟨0x15, ty.code, d.code, a.code, b.code, m.val, 0⟩) rfl rfl rfl
    (by show (fun cw : AWord => (do let ty ← aFmt (cw.ty); let d ← vOpd (cw.d); let a ← vOpd (cw.a); let b ← vOpd (cw.b); let m ← finOf 4 (cw.m); is 0 (cw.r); some (.vminF ty d a b m) : Option Instr)) _ = _; simp)
    (by have := AFmt.code_lt ty; have := VOpd.code_lt d; have := VOpd.code_lt a; have := VOpd.code_lt b; have := m.isLt; simp only [AWord.fits]; omega)

theorem vmaxF (ty : AFmt) (d : VOpd) (a : VOpd) (b : VOpd) (m : MReg) : Statement (.vmaxF ty d a b m) :=
  ofA (w := ⟨0x16, ty.code, d.code, a.code, b.code, m.val, 0⟩) rfl rfl rfl
    (by show (fun cw : AWord => (do let ty ← aFmt (cw.ty); let d ← vOpd (cw.d); let a ← vOpd (cw.a); let b ← vOpd (cw.b); let m ← finOf 4 (cw.m); is 0 (cw.r); some (.vmaxF ty d a b m) : Option Instr)) _ = _; simp)
    (by have := AFmt.code_lt ty; have := VOpd.code_lt d; have := VOpd.code_lt a; have := VOpd.code_lt b; have := m.isLt; simp only [AWord.fits]; omega)

theorem vabsF (ty : AFmt) (d : VOpd) (a : VOpd) (m : MReg) : Statement (.vabsF ty d a m) :=
  ofA (w := ⟨0x17, ty.code, d.code, a.code, 0, m.val, 0⟩) rfl rfl rfl
    (by show (fieldsA5 _ _ : Option Instr) = _; simp [fieldsA5])
    (by have := AFmt.code_lt ty; have := VOpd.code_lt d; have := VOpd.code_lt a; have := m.isLt; simp only [AWord.fits]; omega)

theorem vnegF (ty : AFmt) (d : VOpd) (a : VOpd) (m : MReg) : Statement (.vnegF ty d a m) :=
  ofA (w := ⟨0x18, ty.code, d.code, a.code, 0, m.val, 0⟩) rfl rfl rfl
    (by show (fieldsA5 _ _ : Option Instr) = _; simp [fieldsA5])
    (by have := AFmt.code_lt ty; have := VOpd.code_lt d; have := VOpd.code_lt a; have := m.isLt; simp only [AWord.fits]; omega)

theorem vdiv (ty : AFmt) (d : VOpd) (a : VOpd) (b : VOpd) (m : MReg) (r : Rnd) : Statement (.vdiv ty d a b m r) :=
  ofA (w := ⟨0x19, ty.code, d.code, a.code, b.code, m.val, r.code⟩) rfl rfl rfl
    (by show (fieldsA4 _ _ : Option Instr) = _; simp [fieldsA4])
    (by have := AFmt.code_lt ty; have := VOpd.code_lt d; have := VOpd.code_lt a; have := VOpd.code_lt b; have := m.isLt; have := Rnd.code_lt r; simp only [AWord.fits]; omega)

theorem vsqrt (ty : AFmt) (d : VOpd) (a : VOpd) (m : MReg) (r : Rnd) : Statement (.vsqrt ty d a m r) :=
  ofA (w := ⟨0x1a, ty.code, d.code, a.code, 0, m.val, r.code⟩) rfl rfl rfl
    (by show (fieldsA6 _ _ : Option Instr) = _; simp [fieldsA6])
    (by have := AFmt.code_lt ty; have := VOpd.code_lt d; have := VOpd.code_lt a; have := m.isLt; have := Rnd.code_lt r; simp only [AWord.fits]; omega)

theorem vrcp (ty : AFmt) (d : VOpd) (a : VOpd) (m : MReg) (r : Rnd) : Statement (.vrcp ty d a m r) :=
  ofA (w := ⟨0x1b, ty.code, d.code, a.code, 0, m.val, r.code⟩) rfl rfl rfl
    (by show (fieldsA6 _ _ : Option Instr) = _; simp [fieldsA6])
    (by have := AFmt.code_lt ty; have := VOpd.code_lt d; have := VOpd.code_lt a; have := m.isLt; have := Rnd.code_lt r; simp only [AWord.fits]; omega)

theorem vrsq (ty : AFmt) (d : VOpd) (a : VOpd) (m : MReg) (r : Rnd) : Statement (.vrsq ty d a m r) :=
  ofA (w := ⟨0x1c, ty.code, d.code, a.code, 0, m.val, r.code⟩) rfl rfl rfl
    (by show (fieldsA6 _ _ : Option Instr) = _; simp [fieldsA6])
    (by have := AFmt.code_lt ty; have := VOpd.code_lt d; have := VOpd.code_lt a; have := m.isLt; have := Rnd.code_lt r; simp only [AWord.fits]; omega)

theorem vdotF (ty : DFmt) (d : VReg) (a : VOpd) (b : VOpd) (m : MReg) (r : Rnd) : Statement (.vdotF ty d a b m r) :=
  ofA (w := ⟨0x1d, ty.code, (32 + d.val), a.code, b.code, m.val, r.code⟩) rfl rfl rfl
    (by show (fun cw : AWord => (do let ty ← dFmt (cw.ty); let d ← vReg (cw.d); let a ← vOpd (cw.a); let b ← vOpd (cw.b); let m ← finOf 4 (cw.m); let r ← rnd (cw.r); some (.vdotF ty d a b m r) : Option Instr)) _ = _; simp)
    (by have := DFmt.code_lt ty; have := d.isLt; have := VOpd.code_lt a; have := VOpd.code_lt b; have := m.isLt; have := Rnd.code_lt r; simp only [AWord.fits]; omega)

theorem vexp2 (ty : AFmt) (d : VOpd) (a : VOpd) (m : MReg) : Statement (.vexp2 ty d a m) :=
  ofA (w := ⟨0x20, ty.code, d.code, a.code, 0, m.val, 0⟩) rfl rfl rfl
    (by show (fieldsA5 _ _ : Option Instr) = _; simp [fieldsA5])
    (by have := AFmt.code_lt ty; have := VOpd.code_lt d; have := VOpd.code_lt a; have := m.isLt; simp only [AWord.fits]; omega)

theorem vlog2 (ty : AFmt) (d : VOpd) (a : VOpd) (m : MReg) : Statement (.vlog2 ty d a m) :=
  ofA (w := ⟨0x21, ty.code, d.code, a.code, 0, m.val, 0⟩) rfl rfl rfl
    (by show (fieldsA5 _ _ : Option Instr) = _; simp [fieldsA5])
    (by have := AFmt.code_lt ty; have := VOpd.code_lt d; have := VOpd.code_lt a; have := m.isLt; simp only [AWord.fits]; omega)

theorem vsin (ty : AFmt) (d : VOpd) (a : VOpd) (m : MReg) : Statement (.vsin ty d a m) :=
  ofA (w := ⟨0x22, ty.code, d.code, a.code, 0, m.val, 0⟩) rfl rfl rfl
    (by show (fieldsA5 _ _ : Option Instr) = _; simp [fieldsA5])
    (by have := AFmt.code_lt ty; have := VOpd.code_lt d; have := VOpd.code_lt a; have := m.isLt; simp only [AWord.fits]; omega)

theorem vcos (ty : AFmt) (d : VOpd) (a : VOpd) (m : MReg) : Statement (.vcos ty d a m) :=
  ofA (w := ⟨0x23, ty.code, d.code, a.code, 0, m.val, 0⟩) rfl rfl rfl
    (by show (fieldsA5 _ _ : Option Instr) = _; simp [fieldsA5])
    (by have := AFmt.code_lt ty; have := VOpd.code_lt d; have := VOpd.code_lt a; have := m.isLt; simp only [AWord.fits]; omega)

theorem vtanh (ty : AFmt) (d : VOpd) (a : VOpd) (m : MReg) : Statement (.vtanh ty d a m) :=
  ofA (w := ⟨0x24, ty.code, d.code, a.code, 0, m.val, 0⟩) rfl rfl rfl
    (by show (fieldsA5 _ _ : Option Instr) = _; simp [fieldsA5])
    (by have := AFmt.code_lt ty; have := VOpd.code_lt d; have := VOpd.code_lt a; have := m.isLt; simp only [AWord.fits]; omega)

theorem vand (ty : VFmt) (d : VOpd) (a : VOpd) (b : VOpd) (m : MReg) : Statement (.vand ty d a b m) :=
  ofA (w := ⟨0x28, ty.code, d.code, a.code, b.code, m.val, 0⟩) rfl rfl rfl
    (by show (fieldsA7 _ _ : Option Instr) = _; simp [fieldsA7])
    (by have := VFmt.code_lt ty; have := VOpd.code_lt d; have := VOpd.code_lt a; have := VOpd.code_lt b; have := m.isLt; simp only [AWord.fits]; omega)

theorem vor (ty : VFmt) (d : VOpd) (a : VOpd) (b : VOpd) (m : MReg) : Statement (.vor ty d a b m) :=
  ofA (w := ⟨0x29, ty.code, d.code, a.code, b.code, m.val, 0⟩) rfl rfl rfl
    (by show (fieldsA7 _ _ : Option Instr) = _; simp [fieldsA7])
    (by have := VFmt.code_lt ty; have := VOpd.code_lt d; have := VOpd.code_lt a; have := VOpd.code_lt b; have := m.isLt; simp only [AWord.fits]; omega)

theorem vxor (ty : VFmt) (d : VOpd) (a : VOpd) (b : VOpd) (m : MReg) : Statement (.vxor ty d a b m) :=
  ofA (w := ⟨0x2a, ty.code, d.code, a.code, b.code, m.val, 0⟩) rfl rfl rfl
    (by show (fieldsA7 _ _ : Option Instr) = _; simp [fieldsA7])
    (by have := VFmt.code_lt ty; have := VOpd.code_lt d; have := VOpd.code_lt a; have := VOpd.code_lt b; have := m.isLt; simp only [AWord.fits]; omega)

theorem vshl (ty : VFmt) (d : VOpd) (a : VOpd) (b : VOpd) (m : MReg) : Statement (.vshl ty d a b m) :=
  ofA (w := ⟨0x2b, ty.code, d.code, a.code, b.code, m.val, 0⟩) rfl rfl rfl
    (by show (fieldsA7 _ _ : Option Instr) = _; simp [fieldsA7])
    (by have := VFmt.code_lt ty; have := VOpd.code_lt d; have := VOpd.code_lt a; have := VOpd.code_lt b; have := m.isLt; simp only [AWord.fits]; omega)

theorem vshr (ty : VFmt) (d : VOpd) (a : VOpd) (b : VOpd) (m : MReg) : Statement (.vshr ty d a b m) :=
  ofA (w := ⟨0x2c, ty.code, d.code, a.code, b.code, m.val, 0⟩) rfl rfl rfl
    (by show (fieldsA7 _ _ : Option Instr) = _; simp [fieldsA7])
    (by have := VFmt.code_lt ty; have := VOpd.code_lt d; have := VOpd.code_lt a; have := VOpd.code_lt b; have := m.isLt; simp only [AWord.fits]; omega)

theorem vsha (ty : VFmt) (d : VOpd) (a : VOpd) (b : VOpd) (m : MReg) : Statement (.vsha ty d a b m) :=
  ofA (w := ⟨0x2d, ty.code, d.code, a.code, b.code, m.val, 0⟩) rfl rfl rfl
    (by show (fieldsA7 _ _ : Option Instr) = _; simp [fieldsA7])
    (by have := VFmt.code_lt ty; have := VOpd.code_lt d; have := VOpd.code_lt a; have := VOpd.code_lt b; have := m.isLt; simp only [AWord.fits]; omega)

theorem vcmpF (ty : AFmt) (md : Fin 64) (a : VOpd) (b : VOpd) (m : MReg) : Statement (.vcmpF ty md a b m) :=
  ofA (w := ⟨0x30, ty.code, md.val, a.code, b.code, m.val, 0⟩) rfl rfl rfl
    (by show (fun cw : AWord => (do let ty ← aFmt (cw.ty); let md ← finOf 64 (cw.d); let a ← vOpd (cw.a); let b ← vOpd (cw.b); let m ← finOf 4 (cw.m); is 0 (cw.r); some (.vcmpF ty md a b m) : Option Instr)) _ = _; simp)
    (by have := AFmt.code_lt ty; have := md.isLt; have := VOpd.code_lt a; have := VOpd.code_lt b; have := m.isLt; simp only [AWord.fits]; omega)

theorem vsel (ty : VFmt) (d : VOpd) (a : VOpd) (b : VOpd) (m : MReg) : Statement (.vsel ty d a b m) :=
  ofA (w := ⟨0x31, ty.code, d.code, a.code, b.code, m.val, 0⟩) rfl rfl rfl
    (by show (fieldsA7 _ _ : Option Instr) = _; simp [fieldsA7])
    (by have := VFmt.code_lt ty; have := VOpd.code_lt d; have := VOpd.code_lt a; have := VOpd.code_lt b; have := m.isLt; simp only [AWord.fits]; omega)

theorem vcvtF (ty : FFmt) (d : VOpd) (a : VOpd) (src : PSrc) (m : MReg) (r : Rnd) : Statement (.vcvtF ty d a src m r) :=
  ofA (w := ⟨0x32, ty.code, d.code, a.code, src.code, m.val, r.code⟩) rfl rfl rfl
    (by show (fun cw : AWord => (do let ty ← fFmt (cw.ty); let d ← vOpd (cw.d); let a ← vOpd (cw.a); let src ← pSrc (cw.b); let m ← finOf 4 (cw.m); let r ← rnd (cw.r); some (.vcvtF ty d a src m r) : Option Instr)) _ = _; simp)
    (by have := FFmt.code_lt ty; have := VOpd.code_lt d; have := VOpd.code_lt a; have := PSrc.code_lt src; have := m.isLt; have := Rnd.code_lt r; simp only [AWord.fits]; omega)

theorem vbcast (ty : VFmt) (d : VOpd) (s : SOpd) (m : MReg) : Statement (.vbcast ty d s m) :=
  ofA (w := ⟨0x33, ty.code, d.code, s.code, 0, m.val, 0⟩) rfl rfl rfl
    (by show (fun cw : AWord => (do let ty ← vFmt (cw.ty); let d ← vOpd (cw.d); let s ← sOpd (cw.a); is 0 (cw.b); let m ← finOf 4 (cw.m); is 0 (cw.r); some (.vbcast ty d s m) : Option Instr)) _ = _; simp)
    (by have := VFmt.code_lt ty; have := VOpd.code_lt d; have := SOpd.code_lt s; have := m.isLt; simp only [AWord.fits]; omega)

theorem vperm (ty : VFmt) (d : VOpd) (a : VOpd) (b : VOpd) (m : MReg) : Statement (.vperm ty d a b m) :=
  ofA (w := ⟨0x34, ty.code, d.code, a.code, b.code, m.val, 0⟩) rfl rfl rfl
    (by show (fieldsA7 _ _ : Option Instr) = _; simp [fieldsA7])
    (by have := VFmt.code_lt ty; have := VOpd.code_lt d; have := VOpd.code_lt a; have := VOpd.code_lt b; have := m.isLt; simp only [AWord.fits]; omega)

theorem vredF (ty : AFmt) (d : VOpd) (a : VOpd) (op : ROp) (m : MReg) (r : Rnd) : Statement (.vredF ty d a op m r) :=
  ofA (w := ⟨0x35, ty.code, d.code, a.code, op.code, m.val, r.code⟩) rfl rfl rfl
    (by show (fun cw : AWord => (do let ty ← aFmt (cw.ty); let d ← vOpd (cw.d); let a ← vOpd (cw.a); let op ← rOp (cw.b); let m ← finOf 4 (cw.m); let r ← rnd (cw.r); some (.vredF ty d a op m r) : Option Instr)) _ = _; simp)
    (by have := AFmt.code_lt ty; have := VOpd.code_lt d; have := VOpd.code_lt a; have := ROp.code_lt op; have := m.isLt; have := Rnd.code_lt r; simp only [AWord.fits]; omega)

theorem vcntF (ty : FFmt) (d : SOpd) (a : VOpd) (m : MReg) : Statement (.vcntF ty d a m) :=
  ofA (w := ⟨0x36, ty.code, d.code, a.code, 0, m.val, 0⟩) rfl rfl rfl
    (by show (fun cw : AWord => (do let ty ← fFmt (cw.ty); let d ← sOpd (cw.d); let a ← vOpd (cw.a); is 0 (cw.b); let m ← finOf 4 (cw.m); is 0 (cw.r); some (.vcntF ty d a m) : Option Instr)) _ = _; simp)
    (by have := FFmt.code_lt ty; have := SOpd.code_lt d; have := VOpd.code_lt a; have := m.isLt; simp only [AWord.fits]; omega)

theorem visabF (ty : FFmt) (md : Fin 4) (a : VOpd) (m : MReg) : Statement (.visabF ty md a m) :=
  ofA (w := ⟨0x37, ty.code, md.val, a.code, 0, m.val, 0⟩) rfl rfl rfl
    (by show (fun cw : AWord => (do let ty ← fFmt (cw.ty); let md ← finOf 4 (cw.d); let a ← vOpd (cw.a); is 0 (cw.b); let m ← finOf 4 (cw.m); is 0 (cw.r); some (.visabF ty md a m) : Option Instr)) _ = _; simp)
    (by have := FFmt.code_lt ty; have := md.isLt; have := VOpd.code_lt a; have := m.isLt; simp only [AWord.fits]; omega)

theorem vmkabF (ty : FFmt) (d : VOpd) (a : VOpd) (n : XReg) (m : MReg) : Statement (.vmkabF ty d a n m) :=
  ofA (w := ⟨0x38, ty.code, d.code, a.code, n.val, m.val, 0⟩) rfl rfl rfl
    (by show (fun cw : AWord => (do let ty ← fFmt (cw.ty); let d ← vOpd (cw.d); let a ← vOpd (cw.a); let n ← finOf 32 (cw.b); let m ← finOf 4 (cw.m); is 0 (cw.r); some (.vmkabF ty d a n m) : Option Instr)) _ = _; simp)
    (by have := FFmt.code_lt ty; have := VOpd.code_lt d; have := VOpd.code_lt a; have := n.isLt; have := m.isLt; simp only [AWord.fits]; omega)

theorem vmov (ty : VFmt) (d : VOpd) (a : VOpd) (m : MReg) : Statement (.vmov ty d a m) :=
  ofA (w := ⟨0x39, ty.code, d.code, a.code, 0, m.val, 0⟩) rfl rfl rfl
    (by show (fun cw : AWord => (do let ty ← vFmt (cw.ty); let d ← vOpd (cw.d); let a ← vOpd (cw.a); let m ← finOf 4 (cw.m); is 0 (cw.r); some (.vmov ty d a m) : Option Instr)) _ = _; simp)
    (by have := VFmt.code_lt ty; have := VOpd.code_lt d; have := VOpd.code_lt a; have := m.isLt; simp only [AWord.fits]; omega)

theorem vmovToMask (md : Fin 4) (s : XReg) : Statement (.vmovToMask md s) :=
  ofA (w := ⟨0x39, 0, md.val, s.val, 1, 0, 0⟩) rfl rfl rfl
    (by show (fun cw : AWord => (do is 0 (cw.ty); let md ← finOf 4 (cw.d); let s ← finOf 32 (cw.a); is 0 (cw.m); is 0 (cw.r); some (.vmovToMask md s) : Option Instr)) _ = _; simp)
    (by have := md.isLt; have := s.isLt; simp only [AWord.fits]; omega)

theorem vmovFromMask (d : XReg) (ms : Fin 4) : Statement (.vmovFromMask d ms) :=
  ofA (w := ⟨0x39, 0, d.val, ms.val, 2, 0, 0⟩) rfl rfl rfl
    (by show (fun cw : AWord => (do is 0 (cw.ty); let d ← finOf 32 (cw.d); let ms ← finOf 4 (cw.a); is 0 (cw.m); is 0 (cw.r); some (.vmovFromMask d ms) : Option Instr)) _ = _; simp)
    (by have := d.isLt; have := ms.isLt; simp only [AWord.fits]; omega)

theorem vext (ty : VFmt) (d : SOpd) (a : VOpd) (i : XReg) (m : MReg) : Statement (.vext ty d a i m) :=
  ofA (w := ⟨0x3a, ty.code, d.code, a.code, i.val, m.val, 0⟩) rfl rfl rfl
    (by show (fun cw : AWord => (do let ty ← vFmt (cw.ty); let d ← sOpd (cw.d); let a ← vOpd (cw.a); let i ← finOf 32 (cw.b); let m ← finOf 4 (cw.m); is 0 (cw.r); some (.vext ty d a i m) : Option Instr)) _ = _; simp)
    (by have := VFmt.code_lt ty; have := SOpd.code_lt d; have := VOpd.code_lt a; have := i.isLt; have := m.isLt; simp only [AWord.fits]; omega)

theorem vins (ty : VFmt) (d : VReg) (s : SOpd) (i : XReg) (m : MReg) : Statement (.vins ty d s i m) :=
  ofA (w := ⟨0x3b, ty.code, (32 + d.val), s.code, i.val, m.val, 0⟩) rfl rfl rfl
    (by show (fun cw : AWord => (do let ty ← vFmt (cw.ty); let d ← vReg (cw.d); let s ← sOpd (cw.a); let i ← finOf 32 (cw.b); let m ← finOf 4 (cw.m); is 0 (cw.r); some (.vins ty d s i m) : Option Instr)) _ = _; simp)
    (by have := VFmt.code_lt ty; have := d.isLt; have := SOpd.code_lt s; have := i.isLt; have := m.isLt; simp only [AWord.fits]; omega)

theorem xld (d : VReg) (a : VReg) (dp : Fin 32) (m : MReg) : Statement (.xld d a dp m) :=
  ofA (w := ⟨0x3c, 0, (32 + d.val), (32 + a.val), dp.val, m.val, 0⟩) rfl rfl rfl
    (by show (fun cw : AWord => (do is 0 (cw.ty); let d ← vReg (cw.d); let a ← vReg (cw.a); let dp ← finOf 32 (cw.b); let m ← finOf 4 (cw.m); is 0 (cw.r); some (.xld d a dp m) : Option Instr)) _ = _; simp)
    (by have := d.isLt; have := a.isLt; have := dp.isLt; have := m.isLt; simp only [AWord.fits]; omega)

theorem vrngF (ty : AFmt) (d : VOpd) (k : XReg) (i : XReg) (m : MReg) : Statement (.vrngF ty d k i m) :=
  ofA (w := ⟨0x3d, ty.code, d.code, k.val, i.val, m.val, 0⟩) rfl rfl rfl
    (by show (fun cw : AWord => (do let ty ← aFmt (cw.ty); let d ← vOpd (cw.d); let k ← finOf 32 (cw.a); let i ← finOf 32 (cw.b); let m ← finOf 4 (cw.m); is 0 (cw.r); some (.vrngF ty d k i m) : Option Instr)) _ = _; simp)
    (by have := AFmt.code_lt ty; have := VOpd.code_lt d; have := k.isLt; have := i.isLt; have := m.isLt; simp only [AWord.fits]; omega)

theorem vaddI (ty : VFmt) (d : VOpd) (a : VOpd) (b : VOpd) (m : MReg) : Statement (.vaddI ty d a b m) :=
  ofA (w := ⟨0x50, ty.code, d.code, a.code, b.code, m.val, 0⟩) rfl rfl rfl
    (by show (fieldsA7 _ _ : Option Instr) = _; simp [fieldsA7])
    (by have := VFmt.code_lt ty; have := VOpd.code_lt d; have := VOpd.code_lt a; have := VOpd.code_lt b; have := m.isLt; simp only [AWord.fits]; omega)

theorem vsubI (ty : VFmt) (d : VOpd) (a : VOpd) (b : VOpd) (m : MReg) : Statement (.vsubI ty d a b m) :=
  ofA (w := ⟨0x51, ty.code, d.code, a.code, b.code, m.val, 0⟩) rfl rfl rfl
    (by show (fieldsA7 _ _ : Option Instr) = _; simp [fieldsA7])
    (by have := VFmt.code_lt ty; have := VOpd.code_lt d; have := VOpd.code_lt a; have := VOpd.code_lt b; have := m.isLt; simp only [AWord.fits]; omega)

theorem vmulI (ty : VFmt) (d : VOpd) (a : VOpd) (b : VOpd) (m : MReg) : Statement (.vmulI ty d a b m) :=
  ofA (w := ⟨0x52, ty.code, d.code, a.code, b.code, m.val, 0⟩) rfl rfl rfl
    (by show (fieldsA7 _ _ : Option Instr) = _; simp [fieldsA7])
    (by have := VFmt.code_lt ty; have := VOpd.code_lt d; have := VOpd.code_lt a; have := VOpd.code_lt b; have := m.isLt; simp only [AWord.fits]; omega)

theorem vminI (ty : VFmt) (d : VOpd) (a : VOpd) (b : VOpd) (m : MReg) : Statement (.vminI ty d a b m) :=
  ofA (w := ⟨0x55, ty.code, d.code, a.code, b.code, m.val, 0⟩) rfl rfl rfl
    (by show (fieldsA7 _ _ : Option Instr) = _; simp [fieldsA7])
    (by have := VFmt.code_lt ty; have := VOpd.code_lt d; have := VOpd.code_lt a; have := VOpd.code_lt b; have := m.isLt; simp only [AWord.fits]; omega)

theorem vmaxI (ty : VFmt) (d : VOpd) (a : VOpd) (b : VOpd) (m : MReg) : Statement (.vmaxI ty d a b m) :=
  ofA (w := ⟨0x56, ty.code, d.code, a.code, b.code, m.val, 0⟩) rfl rfl rfl
    (by show (fieldsA7 _ _ : Option Instr) = _; simp [fieldsA7])
    (by have := VFmt.code_lt ty; have := VOpd.code_lt d; have := VOpd.code_lt a; have := VOpd.code_lt b; have := m.isLt; simp only [AWord.fits]; omega)

theorem vabsI (ty : VFmt) (d : VOpd) (a : VOpd) (m : MReg) : Statement (.vabsI ty d a m) :=
  ofA (w := ⟨0x57, ty.code, d.code, a.code, 0, m.val, 0⟩) rfl rfl rfl
    (by show (fun cw : AWord => (do let ty ← vFmt (cw.ty); let d ← vOpd (cw.d); let a ← vOpd (cw.a); is 0 (cw.b); let m ← finOf 4 (cw.m); is 0 (cw.r); some (.vabsI ty d a m) : Option Instr)) _ = _; simp)
    (by have := VFmt.code_lt ty; have := VOpd.code_lt d; have := VOpd.code_lt a; have := m.isLt; simp only [AWord.fits]; omega)

theorem vnegI (ty : VFmt) (d : VOpd) (a : VOpd) (m : MReg) : Statement (.vnegI ty d a m) :=
  ofA (w := ⟨0x58, ty.code, d.code, a.code, 0, m.val, 0⟩) rfl rfl rfl
    (by show (fun cw : AWord => (do let ty ← vFmt (cw.ty); let d ← vOpd (cw.d); let a ← vOpd (cw.a); is 0 (cw.b); let m ← finOf 4 (cw.m); is 0 (cw.r); some (.vnegI ty d a m) : Option Instr)) _ = _; simp)
    (by have := VFmt.code_lt ty; have := VOpd.code_lt d; have := VOpd.code_lt a; have := m.isLt; simp only [AWord.fits]; omega)

theorem vdotI (ty : DIFmt) (d : VReg) (a : VOpd) (b : VOpd) (m : MReg) : Statement (.vdotI ty d a b m) :=
  ofA (w := ⟨0x5d, ty.code, (32 + d.val), a.code, b.code, m.val, 0⟩) rfl rfl rfl
    (by show (fun cw : AWord => (do let ty ← diFmt (cw.ty); let d ← vReg (cw.d); let a ← vOpd (cw.a); let b ← vOpd (cw.b); let m ← finOf 4 (cw.m); is 0 (cw.r); some (.vdotI ty d a b m) : Option Instr)) _ = _; simp)
    (by have := DIFmt.code_lt ty; have := d.isLt; have := VOpd.code_lt a; have := VOpd.code_lt b; have := m.isLt; simp only [AWord.fits]; omega)

theorem vcmpI (ty : VFmt) (md : Fin 64) (a : VOpd) (b : VOpd) (m : MReg) : Statement (.vcmpI ty md a b m) :=
  ofA (w := ⟨0x70, ty.code, md.val, a.code, b.code, m.val, 0⟩) rfl rfl rfl
    (by show (fun cw : AWord => (do let ty ← vFmt (cw.ty); let md ← finOf 64 (cw.d); let a ← vOpd (cw.a); let b ← vOpd (cw.b); let m ← finOf 4 (cw.m); is 0 (cw.r); some (.vcmpI ty md a b m) : Option Instr)) _ = _; simp)
    (by have := VFmt.code_lt ty; have := md.isLt; have := VOpd.code_lt a; have := VOpd.code_lt b; have := m.isLt; simp only [AWord.fits]; omega)

theorem vcvtI (ty : IFmt) (d : VOpd) (a : VOpd) (src : PSrc) (m : MReg) (r : Rnd) : Statement (.vcvtI ty d a src m r) :=
  ofA (w := ⟨0x72, ty.code, d.code, a.code, src.code, m.val, r.code⟩) rfl rfl rfl
    (by show (fun cw : AWord => (do let ty ← iFmt (cw.ty); let d ← vOpd (cw.d); let a ← vOpd (cw.a); let src ← pSrc (cw.b); let m ← finOf 4 (cw.m); let r ← rnd (cw.r); some (.vcvtI ty d a src m r) : Option Instr)) _ = _; simp)
    (by have := IFmt.code_lt ty; have := VOpd.code_lt d; have := VOpd.code_lt a; have := PSrc.code_lt src; have := m.isLt; have := Rnd.code_lt r; simp only [AWord.fits]; omega)

theorem vredI (ty : VFmt) (d : VOpd) (a : VOpd) (op : ROp) (m : MReg) : Statement (.vredI ty d a op m) :=
  ofA (w := ⟨0x75, ty.code, d.code, a.code, op.code, m.val, 0⟩) rfl rfl rfl
    (by show (fun cw : AWord => (do let ty ← vFmt (cw.ty); let d ← vOpd (cw.d); let a ← vOpd (cw.a); let op ← rOp (cw.b); let m ← finOf 4 (cw.m); is 0 (cw.r); some (.vredI ty d a op m) : Option Instr)) _ = _; simp)
    (by have := VFmt.code_lt ty; have := VOpd.code_lt d; have := VOpd.code_lt a; have := ROp.code_lt op; have := m.isLt; simp only [AWord.fits]; omega)

theorem vcntI (ty : VFmt) (d : SOpd) (a : VOpd) (m : MReg) : Statement (.vcntI ty d a m) :=
  ofA (w := ⟨0x76, ty.code, d.code, a.code, 0, m.val, 0⟩) rfl rfl rfl
    (by show (fun cw : AWord => (do let ty ← vFmt (cw.ty); let d ← sOpd (cw.d); let a ← vOpd (cw.a); is 0 (cw.b); let m ← finOf 4 (cw.m); is 0 (cw.r); some (.vcntI ty d a m) : Option Instr)) _ = _; simp)
    (by have := VFmt.code_lt ty; have := SOpd.code_lt d; have := VOpd.code_lt a; have := m.isLt; simp only [AWord.fits]; omega)

theorem visabI (ty : VFmt) (md : Fin 4) (a : VOpd) (m : MReg) : Statement (.visabI ty md a m) :=
  ofA (w := ⟨0x77, ty.code, md.val, a.code, 0, m.val, 0⟩) rfl rfl rfl
    (by show (fun cw : AWord => (do let ty ← vFmt (cw.ty); let md ← finOf 4 (cw.d); let a ← vOpd (cw.a); is 0 (cw.b); let m ← finOf 4 (cw.m); is 0 (cw.r); some (.visabI ty md a m) : Option Instr)) _ = _; simp)
    (by have := VFmt.code_lt ty; have := md.isLt; have := VOpd.code_lt a; have := m.isLt; simp only [AWord.fits]; omega)

theorem vmkabI (ty : VFmt) (d : VOpd) (a : VOpd) (n : XReg) (m : MReg) : Statement (.vmkabI ty d a n m) :=
  ofA (w := ⟨0x78, ty.code, d.code, a.code, n.val, m.val, 0⟩) rfl rfl rfl
    (by show (fun cw : AWord => (do let ty ← vFmt (cw.ty); let d ← vOpd (cw.d); let a ← vOpd (cw.a); let n ← finOf 32 (cw.b); let m ← finOf 4 (cw.m); is 0 (cw.r); some (.vmkabI ty d a n m) : Option Instr)) _ = _; simp)
    (by have := VFmt.code_lt ty; have := VOpd.code_lt d; have := VOpd.code_lt a; have := n.isLt; have := m.isLt; simp only [AWord.fits]; omega)

theorem vrngI (ty : VFmt) (d : VOpd) (k : XReg) (i : XReg) (m : MReg) : Statement (.vrngI ty d k i m) :=
  ofA (w := ⟨0x7d, ty.code, d.code, k.val, i.val, m.val, 0⟩) rfl rfl rfl
    (by show (fun cw : AWord => (do let ty ← vFmt (cw.ty); let d ← vOpd (cw.d); let k ← finOf 32 (cw.a); let i ← finOf 32 (cw.b); let m ← finOf 4 (cw.m); is 0 (cw.r); some (.vrngI ty d k i m) : Option Instr)) _ = _; simp)
    (by have := VFmt.code_lt ty; have := VOpd.code_lt d; have := k.isLt; have := i.isLt; have := m.isLt; simp only [AWord.fits]; omega)

theorem movw (d : XReg) (hi : BitVec 16) (lo : BitVec 32) : Statement (.movw d hi lo) :=
  ofL (w := ⟨0x00, d.val * 2 ^ 17 + hi.toNat, lo.toNat⟩) rfl rfl rfl
    (by
      have key : ∀ w0 w1 : Nat, w0 / 2 ^ 16 % 2 ^ 1 = 0 → decodeLFields ⟨0x00, w0, w1⟩ = (do let d ← finOf 32 (w0 / 2 ^ 17); let hi := BitVec.ofNat 16 (w0 % 2 ^ 16); let lo := BitVec.ofNat 32 w1; some (.movw d hi lo)) := by
        intro w0 w1 h; simp only [decodeLFields, h]
      have := d.isLt
      have := bv16 hi
      have := bv32 lo
      have e0 : (d.val * 2 ^ 17 + hi.toNat) / 2 ^ 17 = d.val := by omega
      have e1 : (d.val * 2 ^ 17 + hi.toNat) % 2 ^ 16 = hi.toNat := by clear e0; omega
      have e : (d.val * 2 ^ 17 + hi.toNat) / 2 ^ 16 % 2 ^ 1 = 0 := by clear e0 e1; omega
      rw [key _ _ e, e0, e1]
      simp)
    (by have := d.isLt; have := bv16 hi; have := bv32 lo; simp only [LWord.fits]; omega)

theorem movwHi (d : XReg) (imm : BitVec 16) : Statement (.movwHi d imm) :=
  ofL (w := ⟨0x00, d.val * 2 ^ 17 + 1 * 2 ^ 16, imm.toNat⟩) rfl rfl rfl
    (by
      have key : ∀ w0 w1 : Nat, w0 / 2 ^ 16 % 2 ^ 1 = 1 → decodeLFields ⟨0x00, w0, w1⟩ = (do let d ← finOf 32 (w0 / 2 ^ 17); is 0 (w0 % 2 ^ 16); is 0 (w1 / 2 ^ 16); let imm := BitVec.ofNat 16 (w1 % 2 ^ 16); some (.movwHi d imm)) := by
        intro w0 w1 h; simp only [decodeLFields, h]
      have := d.isLt
      have := bv16 imm
      have e0 : (d.val * 2 ^ 17 + 1 * 2 ^ 16) / 2 ^ 17 = d.val := by omega
      have e1 : (d.val * 2 ^ 17 + 1 * 2 ^ 16) % 2 ^ 16 = 0 := by clear e0; omega
      have e2 : (imm.toNat) / 2 ^ 16 = 0 := by clear e0 e1; omega
      have e3 : (imm.toNat) % 2 ^ 16 = imm.toNat := by clear e0 e1 e2; omega
      have e : (d.val * 2 ^ 17 + 1 * 2 ^ 16) / 2 ^ 16 % 2 ^ 1 = 1 := by clear e0 e1 e2 e3; omega
      rw [key _ _ e, e0, e1, e2, e3]
      simp)
    (by have := d.isLt; have := bv16 imm; simp only [LWord.fits]; omega)

theorem qbind (q : Fin 8) (kind : Fin 4) (sz : Fin 4) (lc : Fin 8) (d : XReg) (a : XReg) : Statement (.qbind q kind sz lc d a) :=
  ofL (w := ⟨0x01, q.val * 2 ^ 20 + kind.val * 2 ^ 18 + sz.val * 2 ^ 16 + lc.val * 2 ^ 13, d.val * 2 ^ 26 + a.val * 2 ^ 20⟩) rfl rfl rfl
    (by
      have key : ∀ w0 w1 : Nat, decodeLFields ⟨0x01, w0, w1⟩ = (do let q ← finOf 8 (w0 / 2 ^ 20); let kind ← finOf 4 (w0 / 2 ^ 18 % 2 ^ 2); let sz ← finOf 4 (w0 / 2 ^ 16 % 2 ^ 2); let lc ← finOf 8 (w0 / 2 ^ 13 % 2 ^ 3); is 0 (w0 % 2 ^ 13); let d ← finOf 32 (w1 / 2 ^ 26); let a ← finOf 32 (w1 / 2 ^ 20 % 2 ^ 6); is 0 (w1 % 2 ^ 20); some (.qbind q kind sz lc d a)) := fun _ _ => rfl
      have := q.isLt
      have := kind.isLt
      have := sz.isLt
      have := lc.isLt
      have := d.isLt
      have := a.isLt
      have e0 : (q.val * 2 ^ 20 + kind.val * 2 ^ 18 + sz.val * 2 ^ 16 + lc.val * 2 ^ 13) / 2 ^ 20 = q.val := by omega
      have e1 : (q.val * 2 ^ 20 + kind.val * 2 ^ 18 + sz.val * 2 ^ 16 + lc.val * 2 ^ 13) / 2 ^ 18 % 2 ^ 2 = kind.val := by clear e0; omega
      have e2 : (q.val * 2 ^ 20 + kind.val * 2 ^ 18 + sz.val * 2 ^ 16 + lc.val * 2 ^ 13) / 2 ^ 16 % 2 ^ 2 = sz.val := by clear e0 e1; omega
      have e3 : (q.val * 2 ^ 20 + kind.val * 2 ^ 18 + sz.val * 2 ^ 16 + lc.val * 2 ^ 13) / 2 ^ 13 % 2 ^ 3 = lc.val := by clear e0 e1 e2; omega
      have e4 : (q.val * 2 ^ 20 + kind.val * 2 ^ 18 + sz.val * 2 ^ 16 + lc.val * 2 ^ 13) % 2 ^ 13 = 0 := by clear e0 e1 e2 e3; omega
      have e5 : (d.val * 2 ^ 26 + a.val * 2 ^ 20) / 2 ^ 26 = d.val := by clear e0 e1 e2 e3 e4; omega
      have e6 : (d.val * 2 ^ 26 + a.val * 2 ^ 20) / 2 ^ 20 % 2 ^ 6 = a.val := by clear e0 e1 e2 e3 e4 e5; omega
      have e7 : (d.val * 2 ^ 26 + a.val * 2 ^ 20) % 2 ^ 20 = 0 := by clear e0 e1 e2 e3 e4 e5 e6; omega
      rw [key, e0, e1, e2, e3, e4, e5, e6, e7]
      simp)
    (by have := q.isLt; have := kind.isLt; have := sz.isLt; have := lc.isLt; have := d.isLt; have := a.isLt; simp only [LWord.fits]; omega)

theorem spliceInsert (q : Fin 8) (inh : Fin 4) (snum : BitVec 16) (target : BitVec 12) (newstage : BitVec 12) (nt : XReg) : Statement (.spliceInsert q inh snum target newstage nt) :=
  ofL (w := ⟨0x02, q.val * 2 ^ 20 + inh.val * 2 ^ 16 + snum.toNat, target.toNat * 2 ^ 20 + newstage.toNat * 2 ^ 8 + nt.val * 2 ^ 2⟩) rfl rfl rfl
    (by
      have key : ∀ w0 w1 : Nat, w0 / 2 ^ 18 % 2 ^ 2 = 0 → decodeLFields ⟨0x02, w0, w1⟩ = (do let q ← finOf 8 (w0 / 2 ^ 20); let inh ← finOf 4 (w0 / 2 ^ 16 % 2 ^ 2); let snum := BitVec.ofNat 16 (w0 % 2 ^ 16); let target := BitVec.ofNat 12 (w1 / 2 ^ 20); let newstage := BitVec.ofNat 12 (w1 / 2 ^ 8 % 2 ^ 12); let nt ← finOf 32 (w1 / 2 ^ 2 % 2 ^ 6); is 0 (w1 % 2 ^ 2); some (.spliceInsert q inh snum target newstage nt)) := by
        intro w0 w1 h; simp only [decodeLFields, h]
      have := q.isLt
      have := inh.isLt
      have := bv16 snum
      have := bv12 target
      have := bv12 newstage
      have := nt.isLt
      have e0 : (q.val * 2 ^ 20 + inh.val * 2 ^ 16 + snum.toNat) / 2 ^ 20 = q.val := by omega
      have e1 : (q.val * 2 ^ 20 + inh.val * 2 ^ 16 + snum.toNat) / 2 ^ 16 % 2 ^ 2 = inh.val := by clear e0; omega
      have e2 : (q.val * 2 ^ 20 + inh.val * 2 ^ 16 + snum.toNat) % 2 ^ 16 = snum.toNat := by clear e0 e1; omega
      have e3 : (target.toNat * 2 ^ 20 + newstage.toNat * 2 ^ 8 + nt.val * 2 ^ 2) / 2 ^ 20 = target.toNat := by clear e0 e1 e2; omega
      have e4 : (target.toNat * 2 ^ 20 + newstage.toNat * 2 ^ 8 + nt.val * 2 ^ 2) / 2 ^ 8 % 2 ^ 12 = newstage.toNat := by clear e0 e1 e2 e3; omega
      have e5 : (target.toNat * 2 ^ 20 + newstage.toNat * 2 ^ 8 + nt.val * 2 ^ 2) / 2 ^ 2 % 2 ^ 6 = nt.val := by clear e0 e1 e2 e3 e4; omega
      have e6 : (target.toNat * 2 ^ 20 + newstage.toNat * 2 ^ 8 + nt.val * 2 ^ 2) % 2 ^ 2 = 0 := by clear e0 e1 e2 e3 e4 e5; omega
      have e : (q.val * 2 ^ 20 + inh.val * 2 ^ 16 + snum.toNat) / 2 ^ 18 % 2 ^ 2 = 0 := by clear e0 e1 e2 e3 e4 e5 e6; omega
      rw [key _ _ e, e0, e1, e2, e3, e4, e5, e6]
      simp)
    (by have := q.isLt; have := inh.isLt; have := bv16 snum; have := bv12 target; have := bv12 newstage; have := nt.isLt; simp only [LWord.fits]; omega)

theorem spliceRemove (q : Fin 8) (snum : BitVec 16) (target : BitVec 12) : Statement (.spliceRemove q snum target) :=
  ofL (w := ⟨0x02, q.val * 2 ^ 20 + 1 * 2 ^ 18 + snum.toNat, target.toNat * 2 ^ 20⟩) rfl rfl rfl
    (by
      have key : ∀ w0 w1 : Nat, w0 / 2 ^ 18 % 2 ^ 2 = 1 → decodeLFields ⟨0x02, w0, w1⟩ = (do let q ← finOf 8 (w0 / 2 ^ 20); is 0 (w0 / 2 ^ 16 % 2 ^ 2); let snum := BitVec.ofNat 16 (w0 % 2 ^ 16); let target := BitVec.ofNat 12 (w1 / 2 ^ 20); is 0 (w1 % 2 ^ 20); some (.spliceRemove q snum target)) := by
        intro w0 w1 h; simp only [decodeLFields, h]
      have := q.isLt
      have := bv16 snum
      have := bv12 target
      have e0 : (q.val * 2 ^ 20 + 1 * 2 ^ 18 + snum.toNat) / 2 ^ 20 = q.val := by omega
      have e1 : (q.val * 2 ^ 20 + 1 * 2 ^ 18 + snum.toNat) / 2 ^ 16 % 2 ^ 2 = 0 := by clear e0; omega
      have e2 : (q.val * 2 ^ 20 + 1 * 2 ^ 18 + snum.toNat) % 2 ^ 16 = snum.toNat := by clear e0 e1; omega
      have e3 : (target.toNat * 2 ^ 20) / 2 ^ 20 = target.toNat := by clear e0 e1 e2; omega
      have e4 : (target.toNat * 2 ^ 20) % 2 ^ 20 = 0 := by clear e0 e1 e2 e3; omega
      have e : (q.val * 2 ^ 20 + 1 * 2 ^ 18 + snum.toNat) / 2 ^ 18 % 2 ^ 2 = 1 := by clear e0 e1 e2 e3 e4; omega
      rw [key _ _ e, e0, e1, e2, e3, e4]
      simp)
    (by have := q.isLt; have := bv16 snum; have := bv12 target; simp only [LWord.fits]; omega)

theorem spliceRebind (q : Fin 8) (inh : Fin 4) (snum : BitVec 16) (target : BitVec 12) (newstage : BitVec 12) (nt : XReg) : Statement (.spliceRebind q inh snum target newstage nt) :=
  ofL (w := ⟨0x02, q.val * 2 ^ 20 + 2 * 2 ^ 18 + inh.val * 2 ^ 16 + snum.toNat, target.toNat * 2 ^ 20 + newstage.toNat * 2 ^ 8 + nt.val * 2 ^ 2⟩) rfl rfl rfl
    (by
      have key : ∀ w0 w1 : Nat, w0 / 2 ^ 18 % 2 ^ 2 = 2 → decodeLFields ⟨0x02, w0, w1⟩ = (do let q ← finOf 8 (w0 / 2 ^ 20); let inh ← finOf 4 (w0 / 2 ^ 16 % 2 ^ 2); let snum := BitVec.ofNat 16 (w0 % 2 ^ 16); let target := BitVec.ofNat 12 (w1 / 2 ^ 20); let newstage := BitVec.ofNat 12 (w1 / 2 ^ 8 % 2 ^ 12); let nt ← finOf 32 (w1 / 2 ^ 2 % 2 ^ 6); is 0 (w1 % 2 ^ 2); some (.spliceRebind q inh snum target newstage nt)) := by
        intro w0 w1 h; simp only [decodeLFields, h]
      have := q.isLt
      have := inh.isLt
      have := bv16 snum
      have := bv12 target
      have := bv12 newstage
      have := nt.isLt
      have e0 : (q.val * 2 ^ 20 + 2 * 2 ^ 18 + inh.val * 2 ^ 16 + snum.toNat) / 2 ^ 20 = q.val := by omega
      have e1 : (q.val * 2 ^ 20 + 2 * 2 ^ 18 + inh.val * 2 ^ 16 + snum.toNat) / 2 ^ 16 % 2 ^ 2 = inh.val := by clear e0; omega
      have e2 : (q.val * 2 ^ 20 + 2 * 2 ^ 18 + inh.val * 2 ^ 16 + snum.toNat) % 2 ^ 16 = snum.toNat := by clear e0 e1; omega
      have e3 : (target.toNat * 2 ^ 20 + newstage.toNat * 2 ^ 8 + nt.val * 2 ^ 2) / 2 ^ 20 = target.toNat := by clear e0 e1 e2; omega
      have e4 : (target.toNat * 2 ^ 20 + newstage.toNat * 2 ^ 8 + nt.val * 2 ^ 2) / 2 ^ 8 % 2 ^ 12 = newstage.toNat := by clear e0 e1 e2 e3; omega
      have e5 : (target.toNat * 2 ^ 20 + newstage.toNat * 2 ^ 8 + nt.val * 2 ^ 2) / 2 ^ 2 % 2 ^ 6 = nt.val := by clear e0 e1 e2 e3 e4; omega
      have e6 : (target.toNat * 2 ^ 20 + newstage.toNat * 2 ^ 8 + nt.val * 2 ^ 2) % 2 ^ 2 = 0 := by clear e0 e1 e2 e3 e4 e5; omega
      have e : (q.val * 2 ^ 20 + 2 * 2 ^ 18 + inh.val * 2 ^ 16 + snum.toNat) / 2 ^ 18 % 2 ^ 2 = 2 := by clear e0 e1 e2 e3 e4 e5 e6; omega
      rw [key _ _ e, e0, e1, e2, e3, e4, e5, e6]
      simp)
    (by have := q.isLt; have := inh.isLt; have := bv16 snum; have := bv12 target; have := bv12 newstage; have := nt.isLt; simp only [LWord.fits]; omega)

theorem launch (d : XReg) (a : XReg) (q : XReg) : Statement (.launch d a q) :=
  ofL (w := ⟨0x03, 0, d.val * 2 ^ 26 + a.val * 2 ^ 20 + q.val * 2 ^ 14⟩) rfl rfl rfl
    (by
      have key : ∀ w0 w1 : Nat, decodeLFields ⟨0x03, w0, w1⟩ = (do is 0 w0; let d ← finOf 32 (w1 / 2 ^ 26); let a ← finOf 32 (w1 / 2 ^ 20 % 2 ^ 6); let q ← finOf 32 (w1 / 2 ^ 14 % 2 ^ 6); is 0 (w1 % 2 ^ 14); some (.launch d a q)) := fun _ _ => rfl
      have := d.isLt
      have := a.isLt
      have := q.isLt
      have e0 : (d.val * 2 ^ 26 + a.val * 2 ^ 20 + q.val * 2 ^ 14) / 2 ^ 26 = d.val := by omega
      have e1 : (d.val * 2 ^ 26 + a.val * 2 ^ 20 + q.val * 2 ^ 14) / 2 ^ 20 % 2 ^ 6 = a.val := by clear e0; omega
      have e2 : (d.val * 2 ^ 26 + a.val * 2 ^ 20 + q.val * 2 ^ 14) / 2 ^ 14 % 2 ^ 6 = q.val := by clear e0 e1; omega
      have e3 : (d.val * 2 ^ 26 + a.val * 2 ^ 20 + q.val * 2 ^ 14) % 2 ^ 14 = 0 := by clear e0 e1 e2; omega
      rw [key, e0, e1, e2, e3]
      simp)
    (by have := d.isLt; have := a.isLt; have := q.isLt; simp only [LWord.fits]; omega)

theorem bari (sc : Scope) (b : Fin 16) (d : XReg) (a : XReg) : Statement (.bari sc b d a) :=
  ofL (w := ⟨0x04, sc.code * 2 ^ 20 + b.val * 2 ^ 16, d.val * 2 ^ 26 + a.val * 2 ^ 20⟩) rfl rfl rfl
    (by
      have key : ∀ w0 w1 : Nat, decodeLFields ⟨0x04, w0, w1⟩ = (do let sc ← scope (w0 / 2 ^ 20); let b ← finOf 16 (w0 / 2 ^ 16 % 2 ^ 4); is 0 (w0 % 2 ^ 16); let d ← finOf 32 (w1 / 2 ^ 26); let a ← finOf 32 (w1 / 2 ^ 20 % 2 ^ 6); is 0 (w1 % 2 ^ 20); some (.bari sc b d a)) := fun _ _ => rfl
      have := Scope.code_lt sc
      have := b.isLt
      have := d.isLt
      have := a.isLt
      have e0 : (sc.code * 2 ^ 20 + b.val * 2 ^ 16) / 2 ^ 20 = sc.code := by omega
      have e1 : (sc.code * 2 ^ 20 + b.val * 2 ^ 16) / 2 ^ 16 % 2 ^ 4 = b.val := by clear e0; omega
      have e2 : (sc.code * 2 ^ 20 + b.val * 2 ^ 16) % 2 ^ 16 = 0 := by clear e0 e1; omega
      have e3 : (d.val * 2 ^ 26 + a.val * 2 ^ 20) / 2 ^ 26 = d.val := by clear e0 e1 e2; omega
      have e4 : (d.val * 2 ^ 26 + a.val * 2 ^ 20) / 2 ^ 20 % 2 ^ 6 = a.val := by clear e0 e1 e2 e3; omega
      have e5 : (d.val * 2 ^ 26 + a.val * 2 ^ 20) % 2 ^ 20 = 0 := by clear e0 e1 e2 e3 e4; omega
      rw [key, e0, e1, e2, e3, e4, e5]
      simp)
    (by have := Scope.code_lt sc; have := b.isLt; have := d.isLt; have := a.isLt; simp only [LWord.fits]; omega)

theorem tmov (t : XReg) (da : XReg) (sa : XReg) (sh : XReg) : Statement (.tmov t da sa sh) :=
  ofL (w := ⟨0x08, 0, t.val * 2 ^ 26 + da.val * 2 ^ 20 + sa.val * 2 ^ 14 + sh.val * 2 ^ 8⟩) rfl rfl rfl
    (by
      have key : ∀ w0 w1 : Nat, decodeLFields ⟨0x08, w0, w1⟩ = (do is 0 w0; let t ← finOf 32 (w1 / 2 ^ 26); let da ← finOf 32 (w1 / 2 ^ 20 % 2 ^ 6); let sa ← finOf 32 (w1 / 2 ^ 14 % 2 ^ 6); let sh ← finOf 32 (w1 / 2 ^ 8 % 2 ^ 6); is 0 (w1 % 2 ^ 8); some (.tmov t da sa sh)) := fun _ _ => rfl
      have := t.isLt
      have := da.isLt
      have := sa.isLt
      have := sh.isLt
      have e0 : (t.val * 2 ^ 26 + da.val * 2 ^ 20 + sa.val * 2 ^ 14 + sh.val * 2 ^ 8) / 2 ^ 26 = t.val := by omega
      have e1 : (t.val * 2 ^ 26 + da.val * 2 ^ 20 + sa.val * 2 ^ 14 + sh.val * 2 ^ 8) / 2 ^ 20 % 2 ^ 6 = da.val := by clear e0; omega
      have e2 : (t.val * 2 ^ 26 + da.val * 2 ^ 20 + sa.val * 2 ^ 14 + sh.val * 2 ^ 8) / 2 ^ 14 % 2 ^ 6 = sa.val := by clear e0 e1; omega
      have e3 : (t.val * 2 ^ 26 + da.val * 2 ^ 20 + sa.val * 2 ^ 14 + sh.val * 2 ^ 8) / 2 ^ 8 % 2 ^ 6 = sh.val := by clear e0 e1 e2; omega
      have e4 : (t.val * 2 ^ 26 + da.val * 2 ^ 20 + sa.val * 2 ^ 14 + sh.val * 2 ^ 8) % 2 ^ 8 = 0 := by clear e0 e1 e2 e3; omega
      rw [key, e0, e1, e2, e3, e4]
      simp)
    (by have := t.isLt; have := da.isLt; have := sa.isLt; have := sh.isLt; simp only [LWord.fits]; omega)

theorem plane (t : XReg) (da : XReg) (sa : XReg) (ct : XReg) : Statement (.plane t da sa ct) :=
  ofL (w := ⟨0x09, 0, t.val * 2 ^ 26 + da.val * 2 ^ 20 + sa.val * 2 ^ 14 + ct.val * 2 ^ 8⟩) rfl rfl rfl
    (by
      have key : ∀ w0 w1 : Nat, decodeLFields ⟨0x09, w0, w1⟩ = (do is 0 w0; let t ← finOf 32 (w1 / 2 ^ 26); let da ← finOf 32 (w1 / 2 ^ 20 % 2 ^ 6); let sa ← finOf 32 (w1 / 2 ^ 14 % 2 ^ 6); let ct ← finOf 32 (w1 / 2 ^ 8 % 2 ^ 6); is 0 (w1 % 2 ^ 8); some (.plane t da sa ct)) := fun _ _ => rfl
      have := t.isLt
      have := da.isLt
      have := sa.isLt
      have := ct.isLt
      have e0 : (t.val * 2 ^ 26 + da.val * 2 ^ 20 + sa.val * 2 ^ 14 + ct.val * 2 ^ 8) / 2 ^ 26 = t.val := by omega
      have e1 : (t.val * 2 ^ 26 + da.val * 2 ^ 20 + sa.val * 2 ^ 14 + ct.val * 2 ^ 8) / 2 ^ 20 % 2 ^ 6 = da.val := by clear e0; omega
      have e2 : (t.val * 2 ^ 26 + da.val * 2 ^ 20 + sa.val * 2 ^ 14 + ct.val * 2 ^ 8) / 2 ^ 14 % 2 ^ 6 = sa.val := by clear e0 e1; omega
      have e3 : (t.val * 2 ^ 26 + da.val * 2 ^ 20 + sa.val * 2 ^ 14 + ct.val * 2 ^ 8) / 2 ^ 8 % 2 ^ 6 = ct.val := by clear e0 e1 e2; omega
      have e4 : (t.val * 2 ^ 26 + da.val * 2 ^ 20 + sa.val * 2 ^ 14 + ct.val * 2 ^ 8) % 2 ^ 8 = 0 := by clear e0 e1 e2 e3; omega
      rw [key, e0, e1, e2, e3, e4]
      simp)
    (by have := t.isLt; have := da.isLt; have := sa.isLt; have := ct.isLt; simp only [LWord.fits]; omega)

theorem bcpy (d : XReg) (mb : Fin 4) : Statement (.bcpy d mb) :=
  ofL (w := ⟨0x0c, 0, d.val * 2 ^ 26 + mb.val * 2 ^ 24⟩) rfl rfl rfl
    (by
      have key : ∀ w0 w1 : Nat, decodeLFields ⟨0x0c, w0, w1⟩ = (do is 0 w0; let d ← finOf 32 (w1 / 2 ^ 26); let mb ← finOf 4 (w1 / 2 ^ 24 % 2 ^ 2); is 0 (w1 % 2 ^ 24); some (.bcpy d mb)) := fun _ _ => rfl
      have := d.isLt
      have := mb.isLt
      have e0 : (d.val * 2 ^ 26 + mb.val * 2 ^ 24) / 2 ^ 26 = d.val := by omega
      have e1 : (d.val * 2 ^ 26 + mb.val * 2 ^ 24) / 2 ^ 24 % 2 ^ 2 = mb.val := by clear e0; omega
      have e2 : (d.val * 2 ^ 26 + mb.val * 2 ^ 24) % 2 ^ 24 = 0 := by clear e0 e1; omega
      rw [key, e0, e1, e2]
      simp)
    (by have := d.isLt; have := mb.isLt; simp only [LWord.fits]; omega)

theorem gath (d : XReg) (mb : Fin 4) : Statement (.gath d mb) :=
  ofL (w := ⟨0x0d, 0, d.val * 2 ^ 26 + mb.val * 2 ^ 24⟩) rfl rfl rfl
    (by
      have key : ∀ w0 w1 : Nat, decodeLFields ⟨0x0d, w0, w1⟩ = (do is 0 w0; let d ← finOf 32 (w1 / 2 ^ 26); let mb ← finOf 4 (w1 / 2 ^ 24 % 2 ^ 2); is 0 (w1 % 2 ^ 24); some (.gath d mb)) := fun _ _ => rfl
      have := d.isLt
      have := mb.isLt
      have e0 : (d.val * 2 ^ 26 + mb.val * 2 ^ 24) / 2 ^ 26 = d.val := by omega
      have e1 : (d.val * 2 ^ 26 + mb.val * 2 ^ 24) / 2 ^ 24 % 2 ^ 2 = mb.val := by clear e0; omega
      have e2 : (d.val * 2 ^ 26 + mb.val * 2 ^ 24) % 2 ^ 24 = 0 := by clear e0 e1; omega
      rw [key, e0, e1, e2]
      simp)
    (by have := d.isLt; have := mb.isLt; simp only [LWord.fits]; omega)

theorem scat (d : XReg) (mb : Fin 4) : Statement (.scat d mb) :=
  ofL (w := ⟨0x0e, 0, d.val * 2 ^ 26 + mb.val * 2 ^ 24⟩) rfl rfl rfl
    (by
      have key : ∀ w0 w1 : Nat, decodeLFields ⟨0x0e, w0, w1⟩ = (do is 0 w0; let d ← finOf 32 (w1 / 2 ^ 26); let mb ← finOf 4 (w1 / 2 ^ 24 % 2 ^ 2); is 0 (w1 % 2 ^ 24); some (.scat d mb)) := fun _ _ => rfl
      have := d.isLt
      have := mb.isLt
      have e0 : (d.val * 2 ^ 26 + mb.val * 2 ^ 24) / 2 ^ 26 = d.val := by omega
      have e1 : (d.val * 2 ^ 26 + mb.val * 2 ^ 24) / 2 ^ 24 % 2 ^ 2 = mb.val := by clear e0; omega
      have e2 : (d.val * 2 ^ 26 + mb.val * 2 ^ 24) % 2 ^ 24 = 0 := by clear e0 e1; omega
      rw [key, e0, e1, e2]
      simp)
    (by have := d.isLt; have := mb.isLt; simp only [LWord.fits]; omega)

theorem coll (d : XReg) (mb : Fin 4) : Statement (.coll d mb) :=
  ofL (w := ⟨0x0f, 0, d.val * 2 ^ 26 + mb.val * 2 ^ 24⟩) rfl rfl rfl
    (by
      have key : ∀ w0 w1 : Nat, decodeLFields ⟨0x0f, w0, w1⟩ = (do is 0 w0; let d ← finOf 32 (w1 / 2 ^ 26); let mb ← finOf 4 (w1 / 2 ^ 24 % 2 ^ 2); is 0 (w1 % 2 ^ 24); some (.coll d mb)) := fun _ _ => rfl
      have := d.isLt
      have := mb.isLt
      have e0 : (d.val * 2 ^ 26 + mb.val * 2 ^ 24) / 2 ^ 26 = d.val := by omega
      have e1 : (d.val * 2 ^ 26 + mb.val * 2 ^ 24) / 2 ^ 24 % 2 ^ 2 = mb.val := by clear e0; omega
      have e2 : (d.val * 2 ^ 26 + mb.val * 2 ^ 24) % 2 ^ 24 = 0 := by clear e0 e1; omega
      rw [key, e0, e1, e2]
      simp)
    (by have := d.isLt; have := mb.isLt; simp only [LWord.fits]; omega)

theorem mdrain (mode : Fin 4) (cls : Fin 2) (ty : Fin 8) (rm : Fin 4) (wrap : Fin 2) (clr : Fin 2) (t : XReg) (ad : XReg) (st : XReg) : Statement (.mdrain mode cls ty rm wrap clr t ad st) :=
  ofL (w := ⟨0x10, mode.val * 2 ^ 21 + cls.val * 2 ^ 20 + ty.val * 2 ^ 17 + rm.val * 2 ^ 15 + wrap.val * 2 ^ 14 + clr.val * 2 ^ 13, t.val * 2 ^ 26 + ad.val * 2 ^ 20 + st.val * 2 ^ 14⟩) rfl rfl rfl
    (by
      have key : ∀ w0 w1 : Nat, decodeLFields ⟨0x10, w0, w1⟩ = (do let mode ← finOf 4 (w0 / 2 ^ 21); let cls ← finOf 2 (w0 / 2 ^ 20 % 2 ^ 1); let ty ← finOf 8 (w0 / 2 ^ 17 % 2 ^ 3); let rm ← finOf 4 (w0 / 2 ^ 15 % 2 ^ 2); let wrap ← finOf 2 (w0 / 2 ^ 14 % 2 ^ 1); let clr ← finOf 2 (w0 / 2 ^ 13 % 2 ^ 1); is 0 (w0 % 2 ^ 13); let t ← finOf 32 (w1 / 2 ^ 26); let ad ← finOf 32 (w1 / 2 ^ 20 % 2 ^ 6); let st ← finOf 32 (w1 / 2 ^ 14 % 2 ^ 6); is 0 (w1 % 2 ^ 14); some (.mdrain mode cls ty rm wrap clr t ad st)) := fun _ _ => rfl
      have := mode.isLt
      have := cls.isLt
      have := ty.isLt
      have := rm.isLt
      have := wrap.isLt
      have := clr.isLt
      have := t.isLt
      have := ad.isLt
      have := st.isLt
      have e0 : (mode.val * 2 ^ 21 + cls.val * 2 ^ 20 + ty.val * 2 ^ 17 + rm.val * 2 ^ 15 + wrap.val * 2 ^ 14 + clr.val * 2 ^ 13) / 2 ^ 21 = mode.val := by omega
      have e1 : (mode.val * 2 ^ 21 + cls.val * 2 ^ 20 + ty.val * 2 ^ 17 + rm.val * 2 ^ 15 + wrap.val * 2 ^ 14 + clr.val * 2 ^ 13) / 2 ^ 20 % 2 ^ 1 = cls.val := by clear e0; omega
      have e2 : (mode.val * 2 ^ 21 + cls.val * 2 ^ 20 + ty.val * 2 ^ 17 + rm.val * 2 ^ 15 + wrap.val * 2 ^ 14 + clr.val * 2 ^ 13) / 2 ^ 17 % 2 ^ 3 = ty.val := by clear e0 e1; omega
      have e3 : (mode.val * 2 ^ 21 + cls.val * 2 ^ 20 + ty.val * 2 ^ 17 + rm.val * 2 ^ 15 + wrap.val * 2 ^ 14 + clr.val * 2 ^ 13) / 2 ^ 15 % 2 ^ 2 = rm.val := by clear e0 e1 e2; omega
      have e4 : (mode.val * 2 ^ 21 + cls.val * 2 ^ 20 + ty.val * 2 ^ 17 + rm.val * 2 ^ 15 + wrap.val * 2 ^ 14 + clr.val * 2 ^ 13) / 2 ^ 14 % 2 ^ 1 = wrap.val := by clear e0 e1 e2 e3; omega
      have e5 : (mode.val * 2 ^ 21 + cls.val * 2 ^ 20 + ty.val * 2 ^ 17 + rm.val * 2 ^ 15 + wrap.val * 2 ^ 14 + clr.val * 2 ^ 13) / 2 ^ 13 % 2 ^ 1 = clr.val := by clear e0 e1 e2 e3 e4; omega
      have e6 : (mode.val * 2 ^ 21 + cls.val * 2 ^ 20 + ty.val * 2 ^ 17 + rm.val * 2 ^ 15 + wrap.val * 2 ^ 14 + clr.val * 2 ^ 13) % 2 ^ 13 = 0 := by clear e0 e1 e2 e3 e4 e5; omega
      have e7 : (t.val * 2 ^ 26 + ad.val * 2 ^ 20 + st.val * 2 ^ 14) / 2 ^ 26 = t.val := by clear e0 e1 e2 e3 e4 e5 e6; omega
      have e8 : (t.val * 2 ^ 26 + ad.val * 2 ^ 20 + st.val * 2 ^ 14) / 2 ^ 20 % 2 ^ 6 = ad.val := by clear e0 e1 e2 e3 e4 e5 e6 e7; omega
      have e9 : (t.val * 2 ^ 26 + ad.val * 2 ^ 20 + st.val * 2 ^ 14) / 2 ^ 14 % 2 ^ 6 = st.val := by clear e0 e1 e2 e3 e4 e5 e6 e7 e8; omega
      have e10 : (t.val * 2 ^ 26 + ad.val * 2 ^ 20 + st.val * 2 ^ 14) % 2 ^ 14 = 0 := by clear e0 e1 e2 e3 e4 e5 e6 e7 e8 e9; omega
      rw [key, e0, e1, e2, e3, e4, e5, e6, e7, e8, e9, e10]
      simp)
    (by have := mode.isLt; have := cls.isLt; have := ty.isLt; have := rm.isLt; have := wrap.isLt; have := clr.isLt; have := t.isLt; have := ad.isLt; have := st.isLt; simp only [LWord.fits]; omega)

theorem mloadFlt (t : XReg) (ad : XReg) (st : XReg) : Statement (.mloadFlt t ad st) :=
  ofL (w := ⟨0x11, 0, t.val * 2 ^ 26 + ad.val * 2 ^ 20 + st.val * 2 ^ 14⟩) rfl rfl rfl
    (by
      have key : ∀ w0 w1 : Nat, w0 / 2 ^ 22 = 0 → decodeLFields ⟨0x11, w0, w1⟩ = (do is 0 (w0 % 2 ^ 22); let t ← finOf 32 (w1 / 2 ^ 26); let ad ← finOf 32 (w1 / 2 ^ 20 % 2 ^ 6); let st ← finOf 32 (w1 / 2 ^ 14 % 2 ^ 6); is 0 (w1 % 2 ^ 14); some (.mloadFlt t ad st)) := by
        intro w0 w1 h; simp only [decodeLFields, h]
      have := t.isLt
      have := ad.isLt
      have := st.isLt
      have e0 : (0) % 2 ^ 22 = 0 := by omega
      have e1 : (t.val * 2 ^ 26 + ad.val * 2 ^ 20 + st.val * 2 ^ 14) / 2 ^ 26 = t.val := by clear e0; omega
      have e2 : (t.val * 2 ^ 26 + ad.val * 2 ^ 20 + st.val * 2 ^ 14) / 2 ^ 20 % 2 ^ 6 = ad.val := by clear e0 e1; omega
      have e3 : (t.val * 2 ^ 26 + ad.val * 2 ^ 20 + st.val * 2 ^ 14) / 2 ^ 14 % 2 ^ 6 = st.val := by clear e0 e1 e2; omega
      have e4 : (t.val * 2 ^ 26 + ad.val * 2 ^ 20 + st.val * 2 ^ 14) % 2 ^ 14 = 0 := by clear e0 e1 e2 e3; omega
      have e : (0) / 2 ^ 22 = 0 := by clear e0 e1 e2 e3 e4; omega
      rw [key _ _ e, e0, e1, e2, e3, e4]
      simp)
    (by have := t.isLt; have := ad.isLt; have := st.isLt; simp only [LWord.fits]; omega)

theorem mloadInt (t : XReg) (ad : XReg) (st : XReg) : Statement (.mloadInt t ad st) :=
  ofL (w := ⟨0x11, 1 * 2 ^ 22, t.val * 2 ^ 26 + ad.val * 2 ^ 20 + st.val * 2 ^ 14⟩) rfl rfl rfl
    (by
      have key : ∀ w0 w1 : Nat, w0 / 2 ^ 22 = 1 → decodeLFields ⟨0x11, w0, w1⟩ = (do is 0 (w0 % 2 ^ 22); let t ← finOf 32 (w1 / 2 ^ 26); let ad ← finOf 32 (w1 / 2 ^ 20 % 2 ^ 6); let st ← finOf 32 (w1 / 2 ^ 14 % 2 ^ 6); is 0 (w1 % 2 ^ 14); some (.mloadInt t ad st)) := by
        intro w0 w1 h; simp only [decodeLFields, h]
      have := t.isLt
      have := ad.isLt
      have := st.isLt
      have e0 : (1 * 2 ^ 22) % 2 ^ 22 = 0 := by omega
      have e1 : (t.val * 2 ^ 26 + ad.val * 2 ^ 20 + st.val * 2 ^ 14) / 2 ^ 26 = t.val := by clear e0; omega
      have e2 : (t.val * 2 ^ 26 + ad.val * 2 ^ 20 + st.val * 2 ^ 14) / 2 ^ 20 % 2 ^ 6 = ad.val := by clear e0 e1; omega
      have e3 : (t.val * 2 ^ 26 + ad.val * 2 ^ 20 + st.val * 2 ^ 14) / 2 ^ 14 % 2 ^ 6 = st.val := by clear e0 e1 e2; omega
      have e4 : (t.val * 2 ^ 26 + ad.val * 2 ^ 20 + st.val * 2 ^ 14) % 2 ^ 14 = 0 := by clear e0 e1 e2 e3; omega
      have e : (1 * 2 ^ 22) / 2 ^ 22 = 1 := by clear e0 e1 e2 e3 e4; omega
      rw [key _ _ e, e0, e1, e2, e3, e4]
      simp)
    (by have := t.isLt; have := ad.isLt; have := st.isLt; simp only [LWord.fits]; omega)

theorem mmaF4F4 (t : XReg) (da : XReg) (db : XReg) (n : Fin 32) : Statement (.mmaF4F4 t da db n) :=
  ofL (w := ⟨0x20, 0, t.val * 2 ^ 26 + da.val * 2 ^ 20 + db.val * 2 ^ 14 + n.val * 2 ^ 9⟩) rfl rfl rfl
    (by
      have key : ∀ w0 w1 : Nat, decodeLFields ⟨0x20, w0, w1⟩ = (do is 0 w0; let t ← finOf 32 (w1 / 2 ^ 26); let da ← finOf 32 (w1 / 2 ^ 20 % 2 ^ 6); let db ← finOf 32 (w1 / 2 ^ 14 % 2 ^ 6); let n ← finOf 32 (w1 / 2 ^ 9 % 2 ^ 5); is 0 (w1 % 2 ^ 9); some (.mmaF4F4 t da db n)) := fun _ _ => rfl
      have := t.isLt
      have := da.isLt
      have := db.isLt
      have := n.isLt
      have e0 : (t.val * 2 ^ 26 + da.val * 2 ^ 20 + db.val * 2 ^ 14 + n.val * 2 ^ 9) / 2 ^ 26 = t.val := by omega
      have e1 : (t.val * 2 ^ 26 + da.val * 2 ^ 20 + db.val * 2 ^ 14 + n.val * 2 ^ 9) / 2 ^ 20 % 2 ^ 6 = da.val := by clear e0; omega
      have e2 : (t.val * 2 ^ 26 + da.val * 2 ^ 20 + db.val * 2 ^ 14 + n.val * 2 ^ 9) / 2 ^ 14 % 2 ^ 6 = db.val := by clear e0 e1; omega
      have e3 : (t.val * 2 ^ 26 + da.val * 2 ^ 20 + db.val * 2 ^ 14 + n.val * 2 ^ 9) / 2 ^ 9 % 2 ^ 5 = n.val := by clear e0 e1 e2; omega
      have e4 : (t.val * 2 ^ 26 + da.val * 2 ^ 20 + db.val * 2 ^ 14 + n.val * 2 ^ 9) % 2 ^ 9 = 0 := by clear e0 e1 e2 e3; omega
      rw [key, e0, e1, e2, e3, e4]
      simp)
    (by have := t.isLt; have := da.isLt; have := db.isLt; have := n.isLt; simp only [LWord.fits]; omega)

theorem mmaE4E4 (t : XReg) (da : XReg) (db : XReg) (n : Fin 32) : Statement (.mmaE4E4 t da db n) :=
  ofL (w := ⟨0x21, 0, t.val * 2 ^ 26 + da.val * 2 ^ 20 + db.val * 2 ^ 14 + n.val * 2 ^ 9⟩) rfl rfl rfl
    (by
      have key : ∀ w0 w1 : Nat, decodeLFields ⟨0x21, w0, w1⟩ = (do is 0 w0; let t ← finOf 32 (w1 / 2 ^ 26); let da ← finOf 32 (w1 / 2 ^ 20 % 2 ^ 6); let db ← finOf 32 (w1 / 2 ^ 14 % 2 ^ 6); let n ← finOf 32 (w1 / 2 ^ 9 % 2 ^ 5); is 0 (w1 % 2 ^ 9); some (.mmaE4E4 t da db n)) := fun _ _ => rfl
      have := t.isLt
      have := da.isLt
      have := db.isLt
      have := n.isLt
      have e0 : (t.val * 2 ^ 26 + da.val * 2 ^ 20 + db.val * 2 ^ 14 + n.val * 2 ^ 9) / 2 ^ 26 = t.val := by omega
      have e1 : (t.val * 2 ^ 26 + da.val * 2 ^ 20 + db.val * 2 ^ 14 + n.val * 2 ^ 9) / 2 ^ 20 % 2 ^ 6 = da.val := by clear e0; omega
      have e2 : (t.val * 2 ^ 26 + da.val * 2 ^ 20 + db.val * 2 ^ 14 + n.val * 2 ^ 9) / 2 ^ 14 % 2 ^ 6 = db.val := by clear e0 e1; omega
      have e3 : (t.val * 2 ^ 26 + da.val * 2 ^ 20 + db.val * 2 ^ 14 + n.val * 2 ^ 9) / 2 ^ 9 % 2 ^ 5 = n.val := by clear e0 e1 e2; omega
      have e4 : (t.val * 2 ^ 26 + da.val * 2 ^ 20 + db.val * 2 ^ 14 + n.val * 2 ^ 9) % 2 ^ 9 = 0 := by clear e0 e1 e2 e3; omega
      rw [key, e0, e1, e2, e3, e4]
      simp)
    (by have := t.isLt; have := da.isLt; have := db.isLt; have := n.isLt; simp only [LWord.fits]; omega)

theorem mmaE5E5 (t : XReg) (da : XReg) (db : XReg) (n : Fin 32) : Statement (.mmaE5E5 t da db n) :=
  ofL (w := ⟨0x22, 0, t.val * 2 ^ 26 + da.val * 2 ^ 20 + db.val * 2 ^ 14 + n.val * 2 ^ 9⟩) rfl rfl rfl
    (by
      have key : ∀ w0 w1 : Nat, decodeLFields ⟨0x22, w0, w1⟩ = (do is 0 w0; let t ← finOf 32 (w1 / 2 ^ 26); let da ← finOf 32 (w1 / 2 ^ 20 % 2 ^ 6); let db ← finOf 32 (w1 / 2 ^ 14 % 2 ^ 6); let n ← finOf 32 (w1 / 2 ^ 9 % 2 ^ 5); is 0 (w1 % 2 ^ 9); some (.mmaE5E5 t da db n)) := fun _ _ => rfl
      have := t.isLt
      have := da.isLt
      have := db.isLt
      have := n.isLt
      have e0 : (t.val * 2 ^ 26 + da.val * 2 ^ 20 + db.val * 2 ^ 14 + n.val * 2 ^ 9) / 2 ^ 26 = t.val := by omega
      have e1 : (t.val * 2 ^ 26 + da.val * 2 ^ 20 + db.val * 2 ^ 14 + n.val * 2 ^ 9) / 2 ^ 20 % 2 ^ 6 = da.val := by clear e0; omega
      have e2 : (t.val * 2 ^ 26 + da.val * 2 ^ 20 + db.val * 2 ^ 14 + n.val * 2 ^ 9) / 2 ^ 14 % 2 ^ 6 = db.val := by clear e0 e1; omega
      have e3 : (t.val * 2 ^ 26 + da.val * 2 ^ 20 + db.val * 2 ^ 14 + n.val * 2 ^ 9) / 2 ^ 9 % 2 ^ 5 = n.val := by clear e0 e1 e2; omega
      have e4 : (t.val * 2 ^ 26 + da.val * 2 ^ 20 + db.val * 2 ^ 14 + n.val * 2 ^ 9) % 2 ^ 9 = 0 := by clear e0 e1 e2 e3; omega
      rw [key, e0, e1, e2, e3, e4]
      simp)
    (by have := t.isLt; have := da.isLt; have := db.isLt; have := n.isLt; simp only [LWord.fits]; omega)

theorem mmaE4E5 (t : XReg) (da : XReg) (db : XReg) (n : Fin 32) : Statement (.mmaE4E5 t da db n) :=
  ofL (w := ⟨0x23, 0, t.val * 2 ^ 26 + da.val * 2 ^ 20 + db.val * 2 ^ 14 + n.val * 2 ^ 9⟩) rfl rfl rfl
    (by
      have key : ∀ w0 w1 : Nat, decodeLFields ⟨0x23, w0, w1⟩ = (do is 0 w0; let t ← finOf 32 (w1 / 2 ^ 26); let da ← finOf 32 (w1 / 2 ^ 20 % 2 ^ 6); let db ← finOf 32 (w1 / 2 ^ 14 % 2 ^ 6); let n ← finOf 32 (w1 / 2 ^ 9 % 2 ^ 5); is 0 (w1 % 2 ^ 9); some (.mmaE4E5 t da db n)) := fun _ _ => rfl
      have := t.isLt
      have := da.isLt
      have := db.isLt
      have := n.isLt
      have e0 : (t.val * 2 ^ 26 + da.val * 2 ^ 20 + db.val * 2 ^ 14 + n.val * 2 ^ 9) / 2 ^ 26 = t.val := by omega
      have e1 : (t.val * 2 ^ 26 + da.val * 2 ^ 20 + db.val * 2 ^ 14 + n.val * 2 ^ 9) / 2 ^ 20 % 2 ^ 6 = da.val := by clear e0; omega
      have e2 : (t.val * 2 ^ 26 + da.val * 2 ^ 20 + db.val * 2 ^ 14 + n.val * 2 ^ 9) / 2 ^ 14 % 2 ^ 6 = db.val := by clear e0 e1; omega
      have e3 : (t.val * 2 ^ 26 + da.val * 2 ^ 20 + db.val * 2 ^ 14 + n.val * 2 ^ 9) / 2 ^ 9 % 2 ^ 5 = n.val := by clear e0 e1 e2; omega
      have e4 : (t.val * 2 ^ 26 + da.val * 2 ^ 20 + db.val * 2 ^ 14 + n.val * 2 ^ 9) % 2 ^ 9 = 0 := by clear e0 e1 e2 e3; omega
      rw [key, e0, e1, e2, e3, e4]
      simp)
    (by have := t.isLt; have := da.isLt; have := db.isLt; have := n.isLt; simp only [LWord.fits]; omega)

theorem mmaE5E4 (t : XReg) (da : XReg) (db : XReg) (n : Fin 32) : Statement (.mmaE5E4 t da db n) :=
  ofL (w := ⟨0x24, 0, t.val * 2 ^ 26 + da.val * 2 ^ 20 + db.val * 2 ^ 14 + n.val * 2 ^ 9⟩) rfl rfl rfl
    (by
      have key : ∀ w0 w1 : Nat, decodeLFields ⟨0x24, w0, w1⟩ = (do is 0 w0; let t ← finOf 32 (w1 / 2 ^ 26); let da ← finOf 32 (w1 / 2 ^ 20 % 2 ^ 6); let db ← finOf 32 (w1 / 2 ^ 14 % 2 ^ 6); let n ← finOf 32 (w1 / 2 ^ 9 % 2 ^ 5); is 0 (w1 % 2 ^ 9); some (.mmaE5E4 t da db n)) := fun _ _ => rfl
      have := t.isLt
      have := da.isLt
      have := db.isLt
      have := n.isLt
      have e0 : (t.val * 2 ^ 26 + da.val * 2 ^ 20 + db.val * 2 ^ 14 + n.val * 2 ^ 9) / 2 ^ 26 = t.val := by omega
      have e1 : (t.val * 2 ^ 26 + da.val * 2 ^ 20 + db.val * 2 ^ 14 + n.val * 2 ^ 9) / 2 ^ 20 % 2 ^ 6 = da.val := by clear e0; omega
      have e2 : (t.val * 2 ^ 26 + da.val * 2 ^ 20 + db.val * 2 ^ 14 + n.val * 2 ^ 9) / 2 ^ 14 % 2 ^ 6 = db.val := by clear e0 e1; omega
      have e3 : (t.val * 2 ^ 26 + da.val * 2 ^ 20 + db.val * 2 ^ 14 + n.val * 2 ^ 9) / 2 ^ 9 % 2 ^ 5 = n.val := by clear e0 e1 e2; omega
      have e4 : (t.val * 2 ^ 26 + da.val * 2 ^ 20 + db.val * 2 ^ 14 + n.val * 2 ^ 9) % 2 ^ 9 = 0 := by clear e0 e1 e2 e3; omega
      rw [key, e0, e1, e2, e3, e4]
      simp)
    (by have := t.isLt; have := da.isLt; have := db.isLt; have := n.isLt; simp only [LWord.fits]; omega)

theorem mmaBF16BF16 (t : XReg) (da : XReg) (db : XReg) (n : Fin 32) : Statement (.mmaBF16BF16 t da db n) :=
  ofL (w := ⟨0x25, 0, t.val * 2 ^ 26 + da.val * 2 ^ 20 + db.val * 2 ^ 14 + n.val * 2 ^ 9⟩) rfl rfl rfl
    (by
      have key : ∀ w0 w1 : Nat, decodeLFields ⟨0x25, w0, w1⟩ = (do is 0 w0; let t ← finOf 32 (w1 / 2 ^ 26); let da ← finOf 32 (w1 / 2 ^ 20 % 2 ^ 6); let db ← finOf 32 (w1 / 2 ^ 14 % 2 ^ 6); let n ← finOf 32 (w1 / 2 ^ 9 % 2 ^ 5); is 0 (w1 % 2 ^ 9); some (.mmaBF16BF16 t da db n)) := fun _ _ => rfl
      have := t.isLt
      have := da.isLt
      have := db.isLt
      have := n.isLt
      have e0 : (t.val * 2 ^ 26 + da.val * 2 ^ 20 + db.val * 2 ^ 14 + n.val * 2 ^ 9) / 2 ^ 26 = t.val := by omega
      have e1 : (t.val * 2 ^ 26 + da.val * 2 ^ 20 + db.val * 2 ^ 14 + n.val * 2 ^ 9) / 2 ^ 20 % 2 ^ 6 = da.val := by clear e0; omega
      have e2 : (t.val * 2 ^ 26 + da.val * 2 ^ 20 + db.val * 2 ^ 14 + n.val * 2 ^ 9) / 2 ^ 14 % 2 ^ 6 = db.val := by clear e0 e1; omega
      have e3 : (t.val * 2 ^ 26 + da.val * 2 ^ 20 + db.val * 2 ^ 14 + n.val * 2 ^ 9) / 2 ^ 9 % 2 ^ 5 = n.val := by clear e0 e1 e2; omega
      have e4 : (t.val * 2 ^ 26 + da.val * 2 ^ 20 + db.val * 2 ^ 14 + n.val * 2 ^ 9) % 2 ^ 9 = 0 := by clear e0 e1 e2 e3; omega
      rw [key, e0, e1, e2, e3, e4]
      simp)
    (by have := t.isLt; have := da.isLt; have := db.isLt; have := n.isLt; simp only [LWord.fits]; omega)

theorem mmaF16F16 (t : XReg) (da : XReg) (db : XReg) (n : Fin 32) : Statement (.mmaF16F16 t da db n) :=
  ofL (w := ⟨0x26, 0, t.val * 2 ^ 26 + da.val * 2 ^ 20 + db.val * 2 ^ 14 + n.val * 2 ^ 9⟩) rfl rfl rfl
    (by
      have key : ∀ w0 w1 : Nat, decodeLFields ⟨0x26, w0, w1⟩ = (do is 0 w0; let t ← finOf 32 (w1 / 2 ^ 26); let da ← finOf 32 (w1 / 2 ^ 20 % 2 ^ 6); let db ← finOf 32 (w1 / 2 ^ 14 % 2 ^ 6); let n ← finOf 32 (w1 / 2 ^ 9 % 2 ^ 5); is 0 (w1 % 2 ^ 9); some (.mmaF16F16 t da db n)) := fun _ _ => rfl
      have := t.isLt
      have := da.isLt
      have := db.isLt
      have := n.isLt
      have e0 : (t.val * 2 ^ 26 + da.val * 2 ^ 20 + db.val * 2 ^ 14 + n.val * 2 ^ 9) / 2 ^ 26 = t.val := by omega
      have e1 : (t.val * 2 ^ 26 + da.val * 2 ^ 20 + db.val * 2 ^ 14 + n.val * 2 ^ 9) / 2 ^ 20 % 2 ^ 6 = da.val := by clear e0; omega
      have e2 : (t.val * 2 ^ 26 + da.val * 2 ^ 20 + db.val * 2 ^ 14 + n.val * 2 ^ 9) / 2 ^ 14 % 2 ^ 6 = db.val := by clear e0 e1; omega
      have e3 : (t.val * 2 ^ 26 + da.val * 2 ^ 20 + db.val * 2 ^ 14 + n.val * 2 ^ 9) / 2 ^ 9 % 2 ^ 5 = n.val := by clear e0 e1 e2; omega
      have e4 : (t.val * 2 ^ 26 + da.val * 2 ^ 20 + db.val * 2 ^ 14 + n.val * 2 ^ 9) % 2 ^ 9 = 0 := by clear e0 e1 e2 e3; omega
      rw [key, e0, e1, e2, e3, e4]
      simp)
    (by have := t.isLt; have := da.isLt; have := db.isLt; have := n.isLt; simp only [LWord.fits]; omega)

theorem mmaBF16F4 (t : XReg) (da : XReg) (db : XReg) (n : Fin 32) : Statement (.mmaBF16F4 t da db n) :=
  ofL (w := ⟨0x27, 0, t.val * 2 ^ 26 + da.val * 2 ^ 20 + db.val * 2 ^ 14 + n.val * 2 ^ 9⟩) rfl rfl rfl
    (by
      have key : ∀ w0 w1 : Nat, decodeLFields ⟨0x27, w0, w1⟩ = (do is 0 w0; let t ← finOf 32 (w1 / 2 ^ 26); let da ← finOf 32 (w1 / 2 ^ 20 % 2 ^ 6); let db ← finOf 32 (w1 / 2 ^ 14 % 2 ^ 6); let n ← finOf 32 (w1 / 2 ^ 9 % 2 ^ 5); is 0 (w1 % 2 ^ 9); some (.mmaBF16F4 t da db n)) := fun _ _ => rfl
      have := t.isLt
      have := da.isLt
      have := db.isLt
      have := n.isLt
      have e0 : (t.val * 2 ^ 26 + da.val * 2 ^ 20 + db.val * 2 ^ 14 + n.val * 2 ^ 9) / 2 ^ 26 = t.val := by omega
      have e1 : (t.val * 2 ^ 26 + da.val * 2 ^ 20 + db.val * 2 ^ 14 + n.val * 2 ^ 9) / 2 ^ 20 % 2 ^ 6 = da.val := by clear e0; omega
      have e2 : (t.val * 2 ^ 26 + da.val * 2 ^ 20 + db.val * 2 ^ 14 + n.val * 2 ^ 9) / 2 ^ 14 % 2 ^ 6 = db.val := by clear e0 e1; omega
      have e3 : (t.val * 2 ^ 26 + da.val * 2 ^ 20 + db.val * 2 ^ 14 + n.val * 2 ^ 9) / 2 ^ 9 % 2 ^ 5 = n.val := by clear e0 e1 e2; omega
      have e4 : (t.val * 2 ^ 26 + da.val * 2 ^ 20 + db.val * 2 ^ 14 + n.val * 2 ^ 9) % 2 ^ 9 = 0 := by clear e0 e1 e2 e3; omega
      rw [key, e0, e1, e2, e3, e4]
      simp)
    (by have := t.isLt; have := da.isLt; have := db.isLt; have := n.isLt; simp only [LWord.fits]; omega)

theorem mmaBF16E4 (t : XReg) (da : XReg) (db : XReg) (n : Fin 32) : Statement (.mmaBF16E4 t da db n) :=
  ofL (w := ⟨0x28, 0, t.val * 2 ^ 26 + da.val * 2 ^ 20 + db.val * 2 ^ 14 + n.val * 2 ^ 9⟩) rfl rfl rfl
    (by
      have key : ∀ w0 w1 : Nat, decodeLFields ⟨0x28, w0, w1⟩ = (do is 0 w0; let t ← finOf 32 (w1 / 2 ^ 26); let da ← finOf 32 (w1 / 2 ^ 20 % 2 ^ 6); let db ← finOf 32 (w1 / 2 ^ 14 % 2 ^ 6); let n ← finOf 32 (w1 / 2 ^ 9 % 2 ^ 5); is 0 (w1 % 2 ^ 9); some (.mmaBF16E4 t da db n)) := fun _ _ => rfl
      have := t.isLt
      have := da.isLt
      have := db.isLt
      have := n.isLt
      have e0 : (t.val * 2 ^ 26 + da.val * 2 ^ 20 + db.val * 2 ^ 14 + n.val * 2 ^ 9) / 2 ^ 26 = t.val := by omega
      have e1 : (t.val * 2 ^ 26 + da.val * 2 ^ 20 + db.val * 2 ^ 14 + n.val * 2 ^ 9) / 2 ^ 20 % 2 ^ 6 = da.val := by clear e0; omega
      have e2 : (t.val * 2 ^ 26 + da.val * 2 ^ 20 + db.val * 2 ^ 14 + n.val * 2 ^ 9) / 2 ^ 14 % 2 ^ 6 = db.val := by clear e0 e1; omega
      have e3 : (t.val * 2 ^ 26 + da.val * 2 ^ 20 + db.val * 2 ^ 14 + n.val * 2 ^ 9) / 2 ^ 9 % 2 ^ 5 = n.val := by clear e0 e1 e2; omega
      have e4 : (t.val * 2 ^ 26 + da.val * 2 ^ 20 + db.val * 2 ^ 14 + n.val * 2 ^ 9) % 2 ^ 9 = 0 := by clear e0 e1 e2 e3; omega
      rw [key, e0, e1, e2, e3, e4]
      simp)
    (by have := t.isLt; have := da.isLt; have := db.isLt; have := n.isLt; simp only [LWord.fits]; omega)

theorem mmaBF16TS8 (t : XReg) (da : XReg) (db : XReg) (n : Fin 32) : Statement (.mmaBF16TS8 t da db n) :=
  ofL (w := ⟨0x29, 0, t.val * 2 ^ 26 + da.val * 2 ^ 20 + db.val * 2 ^ 14 + n.val * 2 ^ 9⟩) rfl rfl rfl
    (by
      have key : ∀ w0 w1 : Nat, decodeLFields ⟨0x29, w0, w1⟩ = (do is 0 w0; let t ← finOf 32 (w1 / 2 ^ 26); let da ← finOf 32 (w1 / 2 ^ 20 % 2 ^ 6); let db ← finOf 32 (w1 / 2 ^ 14 % 2 ^ 6); let n ← finOf 32 (w1 / 2 ^ 9 % 2 ^ 5); is 0 (w1 % 2 ^ 9); some (.mmaBF16TS8 t da db n)) := fun _ _ => rfl
      have := t.isLt
      have := da.isLt
      have := db.isLt
      have := n.isLt
      have e0 : (t.val * 2 ^ 26 + da.val * 2 ^ 20 + db.val * 2 ^ 14 + n.val * 2 ^ 9) / 2 ^ 26 = t.val := by omega
      have e1 : (t.val * 2 ^ 26 + da.val * 2 ^ 20 + db.val * 2 ^ 14 + n.val * 2 ^ 9) / 2 ^ 20 % 2 ^ 6 = da.val := by clear e0; omega
      have e2 : (t.val * 2 ^ 26 + da.val * 2 ^ 20 + db.val * 2 ^ 14 + n.val * 2 ^ 9) / 2 ^ 14 % 2 ^ 6 = db.val := by clear e0 e1; omega
      have e3 : (t.val * 2 ^ 26 + da.val * 2 ^ 20 + db.val * 2 ^ 14 + n.val * 2 ^ 9) / 2 ^ 9 % 2 ^ 5 = n.val := by clear e0 e1 e2; omega
      have e4 : (t.val * 2 ^ 26 + da.val * 2 ^ 20 + db.val * 2 ^ 14 + n.val * 2 ^ 9) % 2 ^ 9 = 0 := by clear e0 e1 e2 e3; omega
      rw [key, e0, e1, e2, e3, e4]
      simp)
    (by have := t.isLt; have := da.isLt; have := db.isLt; have := n.isLt; simp only [LWord.fits]; omega)

theorem mmaE4TS8 (t : XReg) (da : XReg) (db : XReg) (n : Fin 32) : Statement (.mmaE4TS8 t da db n) :=
  ofL (w := ⟨0x2a, 0, t.val * 2 ^ 26 + da.val * 2 ^ 20 + db.val * 2 ^ 14 + n.val * 2 ^ 9⟩) rfl rfl rfl
    (by
      have key : ∀ w0 w1 : Nat, decodeLFields ⟨0x2a, w0, w1⟩ = (do is 0 w0; let t ← finOf 32 (w1 / 2 ^ 26); let da ← finOf 32 (w1 / 2 ^ 20 % 2 ^ 6); let db ← finOf 32 (w1 / 2 ^ 14 % 2 ^ 6); let n ← finOf 32 (w1 / 2 ^ 9 % 2 ^ 5); is 0 (w1 % 2 ^ 9); some (.mmaE4TS8 t da db n)) := fun _ _ => rfl
      have := t.isLt
      have := da.isLt
      have := db.isLt
      have := n.isLt
      have e0 : (t.val * 2 ^ 26 + da.val * 2 ^ 20 + db.val * 2 ^ 14 + n.val * 2 ^ 9) / 2 ^ 26 = t.val := by omega
      have e1 : (t.val * 2 ^ 26 + da.val * 2 ^ 20 + db.val * 2 ^ 14 + n.val * 2 ^ 9) / 2 ^ 20 % 2 ^ 6 = da.val := by clear e0; omega
      have e2 : (t.val * 2 ^ 26 + da.val * 2 ^ 20 + db.val * 2 ^ 14 + n.val * 2 ^ 9) / 2 ^ 14 % 2 ^ 6 = db.val := by clear e0 e1; omega
      have e3 : (t.val * 2 ^ 26 + da.val * 2 ^ 20 + db.val * 2 ^ 14 + n.val * 2 ^ 9) / 2 ^ 9 % 2 ^ 5 = n.val := by clear e0 e1 e2; omega
      have e4 : (t.val * 2 ^ 26 + da.val * 2 ^ 20 + db.val * 2 ^ 14 + n.val * 2 ^ 9) % 2 ^ 9 = 0 := by clear e0 e1 e2 e3; omega
      rw [key, e0, e1, e2, e3, e4]
      simp)
    (by have := t.isLt; have := da.isLt; have := db.isLt; have := n.isLt; simp only [LWord.fits]; omega)

theorem mmaI8I8 (t : XReg) (da : XReg) (db : XReg) (n : Fin 32) : Statement (.mmaI8I8 t da db n) :=
  ofL (w := ⟨0x2b, 0, t.val * 2 ^ 26 + da.val * 2 ^ 20 + db.val * 2 ^ 14 + n.val * 2 ^ 9⟩) rfl rfl rfl
    (by
      have key : ∀ w0 w1 : Nat, decodeLFields ⟨0x2b, w0, w1⟩ = (do is 0 w0; let t ← finOf 32 (w1 / 2 ^ 26); let da ← finOf 32 (w1 / 2 ^ 20 % 2 ^ 6); let db ← finOf 32 (w1 / 2 ^ 14 % 2 ^ 6); let n ← finOf 32 (w1 / 2 ^ 9 % 2 ^ 5); is 0 (w1 % 2 ^ 9); some (.mmaI8I8 t da db n)) := fun _ _ => rfl
      have := t.isLt
      have := da.isLt
      have := db.isLt
      have := n.isLt
      have e0 : (t.val * 2 ^ 26 + da.val * 2 ^ 20 + db.val * 2 ^ 14 + n.val * 2 ^ 9) / 2 ^ 26 = t.val := by omega
      have e1 : (t.val * 2 ^ 26 + da.val * 2 ^ 20 + db.val * 2 ^ 14 + n.val * 2 ^ 9) / 2 ^ 20 % 2 ^ 6 = da.val := by clear e0; omega
      have e2 : (t.val * 2 ^ 26 + da.val * 2 ^ 20 + db.val * 2 ^ 14 + n.val * 2 ^ 9) / 2 ^ 14 % 2 ^ 6 = db.val := by clear e0 e1; omega
      have e3 : (t.val * 2 ^ 26 + da.val * 2 ^ 20 + db.val * 2 ^ 14 + n.val * 2 ^ 9) / 2 ^ 9 % 2 ^ 5 = n.val := by clear e0 e1 e2; omega
      have e4 : (t.val * 2 ^ 26 + da.val * 2 ^ 20 + db.val * 2 ^ 14 + n.val * 2 ^ 9) % 2 ^ 9 = 0 := by clear e0 e1 e2 e3; omega
      rw [key, e0, e1, e2, e3, e4]
      simp)
    (by have := t.isLt; have := da.isLt; have := db.isLt; have := n.isLt; simp only [LWord.fits]; omega)

theorem boundaryTrap (tid : Nat) : Statement (.boundaryTrap tid) := ofEvent rfl rfl rfl

theorem timerExpiry (tid : Nat) : Statement (.timerExpiry tid) := ofEvent rfl rfl rfl

theorem xldTimeout (tid : Nat) : Statement (.xldTimeout tid) := ofEvent rfl rfl rfl

theorem tableWalk (id : Nat) : Statement (.tableWalk id) := ofEvent rfl rfl rfl

theorem faultMessage (id : Nat) : Statement (.faultMessage id) := ofEvent rfl rfl rfl

theorem pagerReply (id : Nat) : Statement (.pagerReply id) := ofEvent rfl rfl rfl

theorem eccUncorrectableError (key : Nat) : Statement (.eccUncorrectableError key) := ofEvent rfl rfl rfl

theorem softError (key : Nat) : Statement (.softError key) := ofEvent rfl rfl rfl

theorem farNetForward (die : Nat) (stage : Nat) (sw : Nat) (out : Nat) : Statement (.farNetForward die stage sw out) := ofEvent rfl rfl rfl

theorem switchPowerDown (die : Nat) (stage : Nat) (sw : Nat) : Statement (.switchPowerDown die stage sw) := ofEvent rfl rfl rfl

theorem memoryAccessAtHome (id : Nat) : Statement (.memoryAccessAtHome id) := ofEvent rfl rfl rfl

theorem loadReply (id : Nat) : Statement (.loadReply id) := ofEvent rfl rfl rfl

theorem putArrival (id : Nat) : Statement (.putArrival id) := ofEvent rfl rfl rfl

theorem putAcknowledgement (id : Nat) : Statement (.putAcknowledgement id) := ofEvent rfl rfl rfl

theorem remoteRegisterWrite (id : Nat) : Statement (.remoteRegisterWrite id) := ofEvent rfl rfl rfl

theorem deliveryLanding (id : Nat) : Statement (.deliveryLanding id) := ofEvent rfl rfl rfl

theorem syncAccessArrival (id : Nat) : Statement (.syncAccessArrival id) := ofEvent rfl rfl rfl

theorem syncRetryTick : Statement .syncRetryTick := ofEvent rfl rfl rfl

theorem syncReissue (id : Nat) : Statement (.syncReissue id) := ofEvent rfl rfl rfl

theorem storeDrain (tid : Nat) : Statement (.storeDrain tid) := ofEvent rfl rfl rfl

theorem sendDeparture (id : Nat) : Statement (.sendDeparture id) := ofEvent rfl rfl rfl

theorem inboxArrival (id : Nat) : Statement (.inboxArrival id) := ofEvent rfl rfl rfl

theorem inboxRetry (id : Nat) : Statement (.inboxRetry id) := ofEvent rfl rfl rfl

theorem ringRecordArrival (id : Nat) : Statement (.ringRecordArrival id) := ofEvent rfl rfl rfl

theorem ringCreditReturn (id : Nat) : Statement (.ringCreditReturn id) := ofEvent rfl rfl rfl

theorem seamTake (tid : Nat) (q : Nat) : Statement (.seamTake tid q) := ofEvent rfl rfl rfl

theorem drainThrough (tid : Nat) : Statement (.drainThrough tid) := ofEvent rfl rfl rfl

theorem inheritanceCopy (tid : Nat) : Statement (.inheritanceCopy tid) := ofEvent rfl rfl rfl

theorem spliceMessage (id : Nat) : Statement (.spliceMessage id) := ofEvent rfl rfl rfl

theorem windowSpill (tid : Nat) : Statement (.windowSpill tid) := ofEvent rfl rfl rfl

theorem windowFill (tid : Nat) : Statement (.windowFill tid) := ofEvent rfl rfl rfl

theorem tileMoveCompletion (id : Nat) : Statement (.tileMoveCompletion id) := ofEvent rfl rfl rfl

theorem planeCompletion (id : Nat) : Statement (.planeCompletion id) := ofEvent rfl rfl rfl

theorem completionMessage (id : Nat) : Statement (.completionMessage id) := ofEvent rfl rfl rfl

theorem collTimeout (id : Nat) : Statement (.collTimeout id) := ofEvent rfl rfl rfl

theorem matrixBlock (unit : Nat) : Statement (.matrixBlock unit) := ofEvent rfl rfl rfl

theorem matrixCommandCompletion (id : Nat) : Statement (.matrixCommandCompletion id) := ofEvent rfl rfl rfl

theorem matrixRampDown (unit : Nat) : Statement (.matrixRampDown unit) := ofEvent rfl rfl rfl

theorem hintedRampUp (unit : Nat) : Statement (.hintedRampUp unit) := ofEvent rfl rfl rfl

theorem barrierRelease (tid : Nat) : Statement (.barrierRelease tid) := ofEvent rfl rfl rfl

theorem emberRedistribution (pkg : Nat) : Statement (.emberRedistribution pkg) := ofEvent rfl rfl rfl

theorem waitCycle (id : Nat) : Statement (.waitCycle id) := ofEvent rfl rfl rfl

theorem opChange (hearth : Nat) : Statement (.opChange hearth) := ofEvent rfl rfl rfl

theorem ceilLower (pkg : Nat) : Statement (.ceilLower pkg) := ofEvent rfl rfl rfl

theorem ceilRaise (pkg : Nat) : Statement (.ceilRaise pkg) := ofEvent rfl rfl rfl

theorem opthrWrite (pkg : Nat) (hi : Bool) (v : BitVec 64) : Statement (.opthrWrite pkg hi v) := ofEvent rfl rfl rfl

theorem ceilWrite (pkg : Nat) (v : BitVec 64) : Statement (.ceilWrite pkg v) := ofEvent rfl rfl rfl

theorem bstatCycClear (pkg : Nat) : Statement (.bstatCycClear pkg) := ofEvent rfl rfl rfl

theorem qrecCommit (pkg : Nat) (q : Nat) (v : BitVec 64) : Statement (.qrecCommit pkg q v) := ofEvent rfl rfl rfl

theorem dispatcherRanking (pkg : Nat) : Statement (.dispatcherRanking pkg) := ofEvent rfl rfl rfl

theorem slotVacate (tid : Nat) : Statement (.slotVacate tid) := ofEvent rfl rfl rfl

theorem groupRetirement (pkg : Nat) (grp : Nat) : Statement (.groupRetirement pkg grp) := ofEvent rfl rfl rfl

theorem completionCounterWrite (pkg : Nat) (ctr : Nat) (v : BitVec 32) : Statement (.completionCounterWrite pkg ctr v) := ofEvent rfl rfl rfl

theorem preemption (pkg : Nat) (grp : Nat) : Statement (.preemption pkg grp) := ofEvent rfl rfl rfl

theorem groupResume (pkg : Nat) (grp : Nat) : Statement (.groupResume pkg grp) := ofEvent rfl rfl rfl

theorem ctxsResultMessage (id : Nat) : Statement (.ctxsResultMessage id) := ofEvent rfl rfl rfl

theorem hostWrite (pkg : Nat) (win : Option Nat) (off : Nat) (bytes : List (BitVec 8)) : Statement (.hostWrite pkg win off bytes) := ofEvent rfl rfl rfl

theorem hostRead (pkg : Nat) (win : Option Nat) (off : Nat) (n : Nat) : Statement (.hostRead pkg win off n) := ofEvent rfl rfl rfl

theorem tenantRefused (id : Nat) : Statement (.tenantRefused id) := ofEvent rfl rfl rfl

theorem fabricDown (id : Nat) : Statement (.fabricDown id) := ofEvent rfl rfl rfl

theorem powerAlarm (id : Nat) : Statement (.powerAlarm id) := ofEvent rfl rfl rfl

theorem flitRetransmit (pkg : Nat) (port : Nat) : Statement (.flitRetransmit pkg port) := ofEvent rfl rfl rfl

theorem linkLoss (pkg : Nat) (port : Nat) : Statement (.linkLoss pkg port) := ofEvent rfl rfl rfl

theorem linkRestore (pkg : Nat) (port : Nat) : Statement (.linkRestore pkg port) := ofEvent rfl rfl rfl

theorem ftmoExpiry (pkg : Nat) (port : Nat) : Statement (.ftmoExpiry pkg port) := ofEvent rfl rfl rfl

theorem crackedConnectionAlarm (pkg : Nat) (pred : BitVec 16) (vin : BitVec 16) : Statement (.crackedConnectionAlarm pkg pred vin) := ofEvent rfl rfl rfl

theorem pwralmAlarmClear (pkg : Nat) : Statement (.pwralmAlarmClear pkg) := ofEvent rfl rfl rfl

theorem monitorReport (pkg : Nat) (hearth : Nat) (temp : BitVec 16) (mv : BitVec 16) (x : Readings) : Statement (.monitorReport pkg hearth temp mv x) := ofEvent rfl rfl rfl

theorem powerStateEntry (pkg : Nat) : Statement (.powerStateEntry pkg) := ofEvent rfl rfl rfl

theorem powerStateWake (pkg : Nat) : Statement (.powerStateWake pkg) := ofEvent rfl rfl rfl

theorem deviceReset (pkg : Nat) (step : BootStep) (bytes : List (BitVec 8)) : Statement (.deviceReset pkg step bytes) := ofEvent rfl rfl rfl

theorem attestationStart (pkg : Nat) : Statement (.attestationStart pkg) := ofEvent rfl rfl rfl

theorem attestationComplete (pkg : Nat) : Statement (.attestationComplete pkg) := ofEvent rfl rfl rfl

theorem mirmorStop (tid : Nat) : Statement (.mirmorStop tid) := ofEvent rfl rfl rfl

theorem mirmorResume (tid : Nat) : Statement (.mirmorResume tid) := ofEvent rfl rfl rfl

theorem mirmorStep (tid : Nat) : Statement (.mirmorStep tid) := ofEvent rfl rfl rfl

theorem mirmorHalt (pkg : Nat) : Statement (.mirmorHalt pkg) := ofEvent rfl rfl rfl

theorem mirmorRelease (pkg : Nat) : Statement (.mirmorRelease pkg) := ofEvent rfl rfl rfl

theorem brkstopOn (pkg : Nat) (grp : Nat) : Statement (.brkstopOn pkg grp) := ofEvent rfl rfl rfl

theorem brkstopOff (pkg : Nat) (grp : Nat) : Statement (.brkstopOff pkg grp) := ofEvent rfl rfl rfl

theorem mirmorThreadRecordWrite (pkg : Nat) (off : Nat) (v : BitVec 64) : Statement (.mirmorThreadRecordWrite pkg off v) := ofEvent rfl rfl rfl

theorem trctlWrite (pkg : Nat) (v : BitVec 64) : Statement (.trctlWrite pkg v) := ofEvent rfl rfl rfl

theorem acctFreeze (cid : Nat) (v : Bool) : Statement (.acctFreeze cid v) := ofEvent rfl rfl rfl

theorem acctZero (cid : Nat) : Statement (.acctZero cid) := ofEvent rfl rfl rfl

theorem registerWrite (pkg : Nat) (off : Nat) (v : BitVec 64) : Statement (.registerWrite pkg off v) := ofEvent rfl rfl rfl

theorem tlbiCompletion (id : Nat) : Statement (.tlbiCompletion id) := ofEvent rfl rfl rfl

theorem statusAnswerArrival (id : Nat) : Statement (.statusAnswerArrival id) := ofEvent rfl rfl rfl

theorem switchWake (die : Nat) (stage : Nat) (sw : Nat) : Statement (.switchWake die stage sw) := ofEvent rfl rfl rfl

theorem idleCycle (cid : Nat) : Statement (.idleCycle cid) := ofEvent rfl rfl rfl

theorem firmwareThreadStart (f : FwStart) : Statement (.firmwareThreadStart f) := ofEvent rfl rfl rfl


end Sys2Proof.Laws.Encoding
end

