-- ==== Sys2Proof/Tests/Slice0.lean ====
section
/-! SUPPORT. Tests/Slice0.lean: words written out in the spec and what they decode to, ill-formed terms, small steps whose results
the spec works out, and for every statement with hypotheses a state that meets them. -/
namespace Sys2Proof.Tests
open Machine

/- A proof by evaluation waits for the kernel; one after another they need few threads. -/
set_option Elab.async false

/-! ### Words of the spec

Each word below stands in the spec's own worked encodings, beside ANOP or CNOP where it is one slot. -/

noncomputable def cSlot (w : Nat) : Option Pair := decodePair (BitVec.ofNat 64 w)
noncomputable def aSlot (w : Nat) : Option Pair := decodePair (BitVec.ofNat 64 (w * 2 ^ 32))
noncomputable def lone (w0 w1 : Nat) : Option Pair := decodePair (BitVec.ofNat 64 (w0 + w1 * 2 ^ 32))
def c (i : Instr) : Option Pair := some (.slots i .anop)
def a (i : Instr) : Option Pair := some (.slots (.cnop 0) i)
def l (i : Instr) : Option Pair := some (.lone i)

/-- 13 R231: the worked pair and the fate of its neighbours. -/
theorem test_pair : decodePair 0x2662821410042503 =
    some (.slots (.add (.r 1) (.r 2) (.r 20) 3) (.vfma .f32 2 (.v 0) (.v 1) 1 .status)) := by decide +kernel
theorem test_pair_neighbours : decodePair 0x2662821410042533 = none ∧ decodePair 0x27E2821410042503 = none ∧
    decodePair 0xC000000010042503 = none ∧ lone 0x82800000 0x26628214 = none ∧ decodePair 0x0241000010042503 = none ∧
    decodePair 0x0240000010042503 =
      some (.slots (.add (.r 1) (.r 2) (.r 20) 3) (.fadd .f32 (.r 0) (.r 0) (.r 0) .status)) := by decide +kernel

/-- 17: scalar words. -/
theorem test_words_scalar : cSlot 0x100C3108 = c (.sub (.r 3) (.r 3) (.r 4) 0) ∧
    cSlot 0x11085190 = c (.mulhu (.r 2) (.r 5) (.r 6) 0) ∧ cSlot 0x170C4170 = c (.sel (.r 3) (.r 4) (.r 5) 6 0) ∧
    cSlot 0x181020D8 = c (.lea (.r 4) (.r 2) (.r 3) 3 0) ∧ cSlot 0x190410A0 = c (.cmpLtu 1 (.r 1) (.r 2) 0) ∧
    cSlot 0x2038EF80 = c (.addi (.r 14) (.r 14) (-128)) ∧ cSlot 0x25257038 = c (.shri (.r 9) (.r 23) 56) ∧
    cSlot 0x271C0FFF = c (.movi (.r 7) (-1)) ∧ cSlot 0x2A08400A = c (.cmpiLt 2 (.r 4) 10) := by decide +kernel
theorem test_words_control : cSlot 0x0107FFFD = c (.br (-3)) ∧ cSlot 0x02380005 = c (.brp 3 true 5) ∧
    cSlot 0x04C7FFFC = c (.loop 12 (-4)) ∧ cSlot 0x05008000 = c (.calli 8 0) ∧ cSlot 0x0600F000 = c (.ret 15 0) ∧
    cSlot 0x08000000 = c (.exit 0) ∧ cSlot 0x0E000020 = c (.fence .pkg 0) ∧ cSlot 0x0D000000 = c (.pfence 0) := by
  decide +kernel
theorem test_words_wide : lone 0x800A5678 0x9ABCDEF0 = l (.movw 5 0x5678 0x9ABCDEF0) ∧
    lone 0x800B0000 0x00001234 = l (.movwHi 5 0x1234) := by decide +kernel
theorem test_words_float : aSlot 0x02010830 = a (.fadd .f64 (.r 1) (.r 2) (.r 3) .status) ∧
    aSlot 0x08441461 = a (.fma .f32 (.r 4) (.r 5) (.r 6) .rne) ∧ aSlot 0x18070420 = a (.fcmp .f64 (.r 7) (.r 1) (.r 2)) ∧
    aSlot 0x1CC30C10 = a (.fcvtF .bf16 (.r 3) (.r 3) .f32 .status) ∧
    aSlot 0x9C420402 = a (.fcvtI .i32 (.r 2) (.r 1) .f64 .rtz) := by decide +kernel
theorem test_words_refused : cSlot 0x194410A0 = none ∧ cSlot 0x1640F008 = none ∧ aSlot 0x9C420472 = none := by decide +kernel

/-- 15: memory words. -/
theorem test_words_memory : cSlot 0x36102010 = c (.ldD 4 2 16) ∧ cSlot 0x31043FFF = c (.ldBS 1 3 (-1)) ∧
    cSlot 0x3B10EFF8 = c (.stD (.r 4) 14 (-8)) ∧ cSlot 0x37183000 = c (.ldAcq 6 3 0) ∧
    cSlot 0x401461C8 = c (.aadd 5 6 (.r 7) 1 0) ∧ cSlot 0x41088248 = c (.afadd 2 8 (.r 9) 1 0) ∧
    cSlot 0x48484240 = c (.acas 18 4 (.r 9) 0 0) ∧ cSlot 0x49003000 = c (.lock 3 0) ∧
    cSlot 0x49143008 = c (.lockStatus 5 3 0) ∧ cSlot 0x4A003000 = c (.unlock 3 0) ∧
    cSlot 0x531C6040 = c (.stnD (.r 7) 6 64) ∧ cSlot 0x560C5000 = c (.ldf 3 5 0) ∧
    cSlot 0x591C5000 = c (.stf (.r 7) 5 0) ∧ cSlot 0x5D005000 = c (.claim 5 0) := by decide +kernel
theorem test_words_memory_refused : cSlot 0x49043000 = none ∧ cSlot 0x421461E0 = none ∧ cSlot 0x36842000 = none := by
  decide +kernel

/-- 16: movement, messages and rings. -/
theorem test_words_movement : cSlot 0x5E004000 = c (.flue 4 0) ∧ cSlot 0x60103148 = c (.sendT (.r 4) 3 (.r 5) 0) ∧
    cSlot 0x61000040 = c (.recv 0 1 0 0) ∧ cSlot 0x621821D8 = c (.recvs 6 2 7 3 0) ∧
    cSlot 0x644C3100 = c (.putr 19 3 (.r 4) 0) ∧ cSlot 0x654C0000 = c (.pclr 19 0) ∧ cSlot 0x68000000 = c (.qpop 0 0 0) ∧
    cSlot 0x69000048 = c (.qpush 1 1 0) ∧ cSlot 0x6A080018 = c (.qstat 2 3 0) ∧ cSlot 0x6C240000 = c (.qseam 9 0) ∧
    cSlot 0x6D004140 = c (.qinherit 4 5 0) ∧ cSlot 0x6E000000 = c (.markret 0) ∧
    lone 0x84000000 0x5C414600 = l (.tmov 23 4 5 6) ∧ lone 0x80874000 0x04200000 = l (.qbind 0 1 3 2 1 2) ∧
    lone 0x81100001 0x00200414 = l (.spliceInsert 1 0 1 2 4 5) := by decide +kernel
theorem test_words_movement_refused : cSlot 0x61040040 = none ∧ cSlot 0x648C3100 = none ∧ cSlot 0x68000200 = none ∧
    cSlot 0x5E014000 = none := by decide +kernel

/-- 18: vector words. -/
theorem test_words_vector : aSlot 0x26228210 = a (.vfma .f64 2 (.v 0) (.v 1) 0 .status) ∧
    aSlot 0xA0618620 = a (.vaddI .i32 (.v 1) (.v 1) (.v 2) 0) ∧
    aSlot 0x60598E40 = a (.vcmpF .f32 25 (.v 3) (.v 4) 0) ∧ aSlot 0x64E18810 = a (.vcvtF .bf16 (.v 1) (.v 2) ⟨0, .f32⟩ 0 .status) ∧
    aSlot 0x6E418400 = a (.visabF .f32 1 (.v 1) 0) ∧
    aSlot 0x70618430 = a (.vmkabF .f32 (.v 1) (.v 1) 3 0) ∧
    aSlot 0x6A658430 = a (.vredF .f32 (.v 5) (.v 1) .mean 0 .status) ∧ aSlot 0x74449460 = a (.vext .i32 (.r 4) (.v 5) 6 0) ∧
    aSlot 0x7A640860 = a (.vrngF .f32 (.v 4) 2 6 0) ∧ aSlot 0x78238D20 = a (.xld 3 3 18 0) := by decide +kernel
theorem test_words_vector_refused : aSlot 0x21218620 = none ∧ aSlot 0x6A658440 = none ∧ aSlot 0x7A640C60 = none ∧
    aSlot 0x26308210 = none ∧ aSlot 0x78638D20 = none := by decide +kernel

/-- 19: matrix words. -/
theorem test_words_matrix : lone 0x93800000 0x64A2C000 = l (.mmaBF16F4 25 10 11 0) ∧
    lone 0x90000000 0x64A2C600 = l (.mmaF4F4 25 10 11 3) ∧ cSlot 0x4D1C0000 = c (.mzeroFlt 7 0) ∧
    cSlot 0x4D1C0008 = c (.mzeroInt 7 0) ∧ cSlot 0x4E080000 = c (.mstat 2 0) ∧ cSlot 0x4F000028 = c (.mhint 40) ∧
    lone 0x88C00000 0x4C414000 = l (.mloadInt 19 4 5) ∧
    lone 0x88260000 0x50824000 = l (.mdrain 1 0 3 0 0 0 20 8 9) := by decide +kernel
theorem test_words_matrix_refused : lone 0x88660000 0x50824000 = none ∧ lone 0x88264000 0x50824000 = none ∧
    lone 0x93800000 0x84A2C000 = none ∧ cSlot 0x4E080008 = none := by decide +kernel

/-- 20: synchronisation, tasks and system. -/
theorem test_words_system : lone 0x82320000 0x04200000 = l (.bari .die 2 1 2) ∧ cSlot 0x710000D0 = c (.bar 3 .cluster 0) ∧
    cSlot 0x72100018 = c (.bara 4 0 .die 0) ∧ cSlot 0x73004018 = c (.barw 4 0 .die 0) ∧ cSlot 0x74080008 = c (.embHearth 2 0) ∧
    cSlot 0x75000010 = c (.gang 2 0) ∧ cSlot 0x78045080 = c (.tqpush 1 5 2 0) ∧ cSlot 0x781801C8 = c (.tqpop 6 7 0) ∧
    cSlot 0x790451B0 = c (.sleepW 1 5 6 2 0) ∧ cSlot 0x7A002000 = c (.timer 0 2 0) ∧
    lone 0x81800000 0x0420C000 = l (.launch 1 2 3) ∧ cSlot 0x7B0C0340 = c (.mfs 3 0x0D 0) ∧
    cSlot 0x7C004040 = c (.mts 4 1 0) ∧ cSlot 0x7D004080 = c (.segld 4 2 0) ∧ cSlot 0x0B000000 = c (.eret 0) ∧
    cSlot 0x0C000000 = c (.ifence 0) ∧ cSlot 0x09000005 = c (.trap 5) ∧ cSlot 0x7E005020 = c (.tlbi 5 .pkg 0) ∧
    cSlot 0x7F002008 = c (.pgrepFail 2 0) ∧ cSlot 0x1F0420C0 = c (.ctxs 1 2 3 0) ∧ cSlot 0x1E100000 = c (.rpop 4 0) := by
  decide +kernel
theorem test_words_system_refused : cSlot 0x75000000 = none ∧ cSlot 0x710000F0 = none ∧ cSlot 0x710004D0 = none ∧
    cSlot 0x7E005000 = none ∧ cSlot 0x7B0C0540 = none ∧ cSlot 0x78180188 = none ∧ cSlot 0x09001005 = none := by decide +kernel

/-! ### Ill-formed terms

One for each check of WellFormed.lean. -/

theorem test_illformed_pairs_of_destinations : (Instr.recv 1 1 0 0).wf = false ∧ (Instr.recvs 2 3 2 0 0).wf = false ∧
    (Instr.waitm 2 3 2 0 0).wf = false ∧ (Instr.tqpop 6 6 0).wf = false ∧ (Instr.tqpeek 6 6 0).wf = false := by decide
theorem test_illformed_scopes : (Instr.bar 0 .sys 0).wf = false ∧ (Instr.bara 1 0 .sys 0).wf = false ∧
    (Instr.barw 1 0 .sys 0).wf = false ∧ (Instr.bari .sys 0 1 2).wf = false ∧ (Instr.tlbi 5 .core 0).wf = false := by decide
theorem test_illformed_numbers : (Instr.gang 0 0).wf = false ∧ (Instr.gang 4 0).wf = false ∧ (Instr.mfs 3 0x15 0).wf = false ∧
    (Instr.mts 3 0x23 0).wf = false := by decide
theorem test_illformed_vectors : (Instr.vcmpF .f32 5 (.v 0) (.v 1) 0).wf = false ∧
    (Instr.vcmpI .i8 10 (.v 0) (.v 1) 0).wf = false ∧ (Instr.vrngF .f32 (.v 4) 3 6 0).wf = false ∧
    (Instr.vrngI .i32 (.v 4) 3 6 0).wf = false := by decide
theorem test_illformed_rings : (Instr.qbind 0 3 0 0 1 2).wf = false ∧ (Instr.spliceInsert 1 2 1 2 4 5).wf = false ∧
    (Instr.spliceInsert 1 0 1 0 4 5).wf = false ∧ (Instr.spliceInsert 1 0 1 2 0 5).wf = false ∧
    (Instr.spliceRemove 1 1 0).wf = false ∧ (Instr.spliceRebind 1 3 1 2 4 5).wf = false := by decide
theorem test_illformed_drains : (Instr.mdrain 3 0 1 0 0 0 1 2 3).wf = false ∧ (Instr.mdrain 0 0 7 0 0 0 1 2 3).wf = false ∧
    (Instr.mdrain 0 0 1 0 1 0 1 2 3).wf = false ∧ (Instr.mdrain 2 1 1 0 1 0 1 2 3).wf = false := by decide
theorem test_illformed_conversions : ∃ p : PSrc, p.fmt = .f64 ∧ (Instr.vcvtF .e4 (.v 1) (.v 2) p 0 .status).wf = false :=
  ⟨⟨0, .f64⟩, rfl, by decide⟩

/-! ### Small states -/

/-- A running thread with registers g1 to g7 as given. -/
def thread (r : List Word) (status : Word := 0) : Thread :=
  { slot := .runnable
    regs := Vector.ofFn fun i : Fin 32 => if i.val = 0 then 0 else r.getD (i.val - 1) 0
    sys := { tvec := 0x1000, status := status } }

/-- Thread 0 of core 0 alone in the pod. -/
def solo (t : Thread) : State := { State.reset with threads := [(0, t)] }

/-- The same thread in slot 0 of core `c`. -/
def onCore (c : Nat) (t : Thread) : State := { State.reset with threads := [(c * 16, t)], cur := c * 16 }

/-- Thread 0 with every register 0. -/
def base : State := solo (thread [])

/-- Thread 0 in supervisor mode on hob core 64. -/
def hob (r : List Word := []) : State := onCore 64 (thread r 0x80000000)

/-- Readiness of one source, with nothing raised, and of one destination. -/
def srcOk (s : State) (p : Place) : Bool :=
  match p with
  | .reg i => s.src.present.getLsbD i && !s.src.busy.getLsbD i
  | .vec i => !s.src.vbusy.getLsbD i
  | .slot q k =>
    let r := s.src.ring q
    (r.kind = .loc || r.kind = .inn) && decide (k < r.cap) && decide (k < r.filled) && (decide (q ≠ 0) || !s.src.inheriting) &&
      (!decide (r.kind = .inn) || (!s.acquiring s.cur && !s.atomicPending s.cur && s.readsNow (r.slotKey (r.head + k)) r.size &&
        decide (s.slotForward r (r.head + k) ≠ .part))) &&
      !s.seamAtHead r && !s.drainAtHead s.src q && !(r.slotBits (r.head + k)).mark && !(r.slotBits (r.head + k)).typed
  | .pred _ | .mask _ => true

def dstOk (s : State) (p : Place) : Bool :=
  match p with
  | .reg i => !s.src.busy.getLsbD i && !s.src.pend.getLsbD i
  | .vec i => !s.src.vbusy.getLsbD i
  | .slot q k =>
    let r := s.src.ring q
    (r.kind = .loc || r.kind = .out) && decide (k < r.cap) && decide (k < (if r.kind = .out then r.free else r.cap - r.filled)) && !s.binding q
  | .pred _ | .mask _ => true

theorem srcOk_spec (s : State) (p : Place) (h : srcOk s p = true) : s.SrcReady p ∧ s.SlotPlain p := by
  cases p with
  | reg i => simp [srcOk] at h; exact ⟨h, trivial⟩
  | vec i => simp [srcOk] at h; exact ⟨h, trivial⟩
  | slot q k =>
    simp only [srcOk, Bool.and_eq_true, Bool.or_eq_true, Bool.not_eq_true', decide_eq_true_eq, decide_eq_false_iff_not] at h
    obtain ⟨⟨⟨⟨⟨⟨⟨⟨hk, hc⟩, hf⟩, hi⟩, ha⟩, hs⟩, hd⟩, hm⟩, ht⟩ := h
    exact ⟨⟨hk, hc, hf, fun e => have h := ha.resolve_left fun n => n e
      ⟨h.1.1.1, h.1.1.2, h.1.2, h.2⟩, fun e => hi.resolve_left fun n => n e, hs, hd⟩,
      .inl hm, .inl ht⟩
  | pred i => exact ⟨trivial, trivial⟩
  | mask i => exact ⟨trivial, trivial⟩

theorem dstOk_spec (s : State) (p : Place) (h : dstOk s p = true) : s.DstReady p := by
  cases p with
  | reg i => simp [dstOk] at h; exact h
  | vec i => simp [dstOk] at h; exact h
  | slot q k =>
    simp only [dstOk, Bool.and_eq_true, Bool.or_eq_true, Bool.not_eq_true', decide_eq_true_eq] at h
    exact ⟨h.1.1.1, h.1.1.2, h.1.2, h.2⟩
  | pred i => trivial
  | mask i => trivial

theorem ready (s : State) (rs ws : List Place) (h : (rs.all (srcOk s) && ws.all (dstOk s)) = true) : s.Ready rs ws := by
  simp only [Bool.and_eq_true, List.all_eq_true] at h
  exact ⟨fun p hp => srcOk_spec s p (h.1 p hp), fun p hp => dstOk_spec s p (h.2 p hp)⟩

/-- Whether two answers of a check are one. -/
def same {ε α : Type} [DecidableEq ε] [DecidableEq α] (r v : Except ε α) : Bool :=
  match r, v with
  | .ok x, .ok y => decide (x = y)
  | .error x, .error y => decide (x = y)
  | _, _ => false

theorem is {ε α : Type} [DecidableEq ε] [DecidableEq α] {r v : Except ε α} (h : same r v = true) : r = v := by
  cases r <;> cases v <;> simp_all [same]

/-- The state after an instruction: the state itself where there is none. -/
def after (i : Instr) (s : State) : State :=
  match exec i s with
  | .next t => t
  | _ => s

/-- An instruction has completed. -/
def completes (i : Instr) (s : State) : Bool :=
  match exec i s with
  | .next t => t.iss.stop.isNone
  | _ => false

/-! ### Single steps whose results the spec works out -/

/-- 17 R289: −7 by 2 gives −3 and −1; the least number by −1 gives itself and 0. -/
theorem test_division : (after (.divs (.r 3) (.r 1) (.r 2) 0) (solo (thread [-7, 2]))).item 0 =
      some (.result 0 (.reg 3) (2 ^ 64 - 3)) ∧
    (after (.rems (.r 3) (.r 1) (.r 2) 0) (solo (thread [-7, 2]))).item 0 = some (.result 0 (.reg 3) (2 ^ 64 - 1)) ∧
    (after (.rems (.r 3) (.r 1) (.r 2) 0) (solo (thread [0x8000000000000000, -1]))).item 0 =
      some (.result 0 (.reg 3) 0) := by decide +kernel
/-- 17 R289: a divisor of 0 traps with cause 0x07. -/
theorem test_division_by_zero : (after (.divu (.r 3) (.r 1) (.r 2) 0) (solo (thread [7]))).me.sys.cause = 7 ∧
    (after (.divu (.r 3) (.r 1) (.r 2) 0) (solo (thread [7]))).me.pc = 0x1000 := by decide +kernel
/-- 17 R292: MOVW and MOVW.HI leave 0x1234_5678_9ABC_DEF0. -/
theorem test_wide_immediate : (after (.movwHi 5 0x1234) (after (.movw 5 0x5678 0x9ABCDEF0) base)).me.reg 5 =
    0x123456789ABCDEF0 := by decide +kernel
/-- 17 R301: a counter of 1 ends the loop, one of 0 is not written. -/
theorem test_loop : (after (.loop 1 (-4)) (solo (thread [1]))).me.reg 1 = 0 ∧
    (after (.loop 1 (-4)) (solo (thread [1]))).me.pc = 8 ∧ (after (.loop 1 (-4)) (solo (thread [0]))).me.reg 1 = 0 ∧
    (after (.loop 1 (-4)) (solo (thread [2]))).me.pc = -32 := by decide +kernel
/-- 17 R296: FNEG.F32 of 0x7FC0_0001 delivers 0xFFC0_0000. -/
theorem test_fneg_of_nan : (after (.fneg .f32 (.r 2) (.r 1)) (solo (thread [0x7FC00001]))).me.reg 2 = 0xFFC00000 := by
  decide +kernel
/-- 17 R295: FADD passes a present operand, FMUL of an absent one is absent. -/
theorem test_absent : (after (.fadd .f32 (.r 3) (.r 1) (.r 2) .status) (solo (thread [0xFFC00001, 0x3F800000]))).me.reg 3 =
      0x3F800000 ∧
    (after (.fmul .f32 (.r 3) (.r 1) (.r 2) .status) (solo (thread [0xFFC00001, 0x3F800000]))).me.reg 3 = 0xFFC00001 := by
  decide +kernel
/-- 17 R297: AB, UN, LT and EQ of the relation word. -/
theorem test_fcmp : (after (.fcmp .f32 (.r 3) (.r 1) (.r 2)) (solo (thread [0xFFC00001, 0]))).me.reg 3 = 16 ∧
    (after (.fcmp .f32 (.r 3) (.r 1) (.r 2)) (solo (thread [0x7FC00000, 0]))).me.reg 3 = 8 ∧
    (after (.fcmp .f32 (.r 3) (.r 1) (.r 2)) (solo (thread [0, 0x3F800000]))).me.reg 3 = 2 ∧
    (after (.fcmp .f32 (.r 3) (.r 1) (.r 2)) (solo (thread [0x80000000, 0]))).me.reg 3 = 1 := by decide +kernel
/-- 05 R96: a write to p0 has no effect. -/
theorem test_p0 : (after (.pnot 0 0 0) base).me.pred 0 = true ∧ (after (.pnot 1 1 0) base).me.pred 1 = true := by decide +kernel
/-- 13 R224: a false guard only advances. -/
theorem test_guard : (after (.movi (.r 3) 5) base).me.reg 3 = 5 ∧ (after (.add (.r 3) (.r 1) (.r 1) 1) base).me.reg 3 = 0 ∧
    (after (.add (.r 3) (.r 1) (.r 1) 1) (solo (thread [4]))).me.pc = 8 := by decide +kernel
/-- 20 R349: ERET in user mode traps with cause 0x02; in supervisor mode SUP takes PSUP. -/
theorem test_eret : (after (.eret 0) base).me.sys.cause = 2 ∧ (after (.eret 0) (hob [])).me.sup = false := by decide +kernel
/-- 12 R208: TRAP saves the pair that follows and enters supervisor mode. -/
theorem test_trap : (after (.trap 5) base).me.sys.epc = 8 ∧ (after (.trap 5) base).me.sys.cause = 14 ∧
    (after (.trap 5) base).me.sys.tval = 5 ∧ (after (.trap 5) base).me.sup = true ∧ (after (.trap 5) base).me.pc = 0x1000 := by
  decide +kernel
/-- 05 R109: a user's write of STATUS sets no reserved bit and keeps SUP, PSUP and DET. -/
theorem test_status : (after (.mts 1 0 0) (solo (thread [-1]))).me.sys.status = 0x2303F03F ∧
    (after (.mts 1 0 0) (hob [-1])).me.sys.status = 0x1E303F03F := by decide +kernel
/-- The host's probe: reset with the worked pair placed runs it in the very next step. -/
theorem test_first_step : (match step (State.reset.withFetchWord 32 0x271C0FFF) with
    | .next t => decide (t.me.reg 7 = -1 ∧ t.me.pc = 8)
    | _ => false) = true := by decide +kernel
/-- 17 after R298: the table of absent, NaN and range. -/
theorem test_conversions : (after (.fcvtI .i32 (.r 2) (.r 1) .f64 .rne) (solo (thread [0xFFF8000000000001]))).me.reg 2 =
      0xFFFFFFFF80000000 ∧
    (after (.fcvtI .i8 (.r 2) (.r 1) .f32 .rne) (solo (thread [0x43960000]))).me.reg 2 = 0x7F ∧
    (after (.fcvtI .i8 (.r 2) (.r 1) .f32 .rne) (solo (thread [0x43960000]))).me.sys.status = 16 ∧
    (after (.fcvtI .i8 (.r 2) (.r 1) .f32 .rne) (solo (thread [0xC0200000]))).me.reg 2 = 0xFFFFFFFFFFFFFFFE := by
  decide +kernel
/-- The same table: FMIN with an absent and a signalling operand, FDIV by zero. -/
theorem test_fmin_fdiv : (after (.fmin .f64 (.r 3) (.r 1) (.r 2)) (solo (thread [0xFFF8000000000001, 0x7FF0000000000001]))).me.reg 3 =
      0x7FF8000000000001 ∧
    (after (.fdiv .f64 (.r 3) (.r 1) (.r 2) .rne) (solo (thread [0x3FF0000000000000, 0]))).item 0 =
      some (.result 0 (.reg 3) 0x7FF0000000000000) := by decide +kernel

/-- The ragged row of 18: 1.5, 0.5, 3.0, 7.0 and twelve times 2.0 in v1; g3 holds 3, g6 holds 1. -/
def ragged : State :=
  let lanes : List Nat := [0x3FC00000, 0x3F000000, 0x40400000, 0x40E00000] ++ List.replicate 12 0x40000000
  let t := thread [0, 0, 3, 0, 0, 1]
  solo { t with v := t.v.set 1 (BitVec.ofNat 512 (lanes.foldr (fun x y => x + 2 ^ 32 * y) 0)) }
/-- 18: VRED.MEAN of the three present lanes is 0x3FD5_5555 with a count of 3; VCNT counts 3. -/
theorem test_ragged_row : (after (.vredF .f32 (.v 5) (.v 1) .mean 0 .rne) (after (.vmkabF .f32 (.v 1) (.v 1) 3 0) ragged)).item 0 =
      some (.result 0 (.vec 5) (0x3FD55555 + 2 ^ 32 * 3)) ∧
    (after (.vcntF .f32 (.r 4) (.v 1) 0) (after (.vmkabF .f32 (.v 1) (.v 1) 3 0) ragged)).me.reg 4 = 3 := by decide +kernel

/-! ### States that meet the hypotheses of the statements

One theorem for each statement with hypotheses, clause by clause. -/

/-- Thread 0 with q0 a LOCAL ring of four 64-byte slots, one of them filled. -/
def ringed : State :=
  let t := thread [1, 2, 3]
  solo { t with rings := t.rings.set 0 { kind := .loc, size := 64, cap := 4, base := keyLocal 0 0x400, filled := 1, tail := 1 } }

theorem witness_ScalarTable : base.guarded 0 = true ∧
    base.Ready [(SOpd.r 1).place, (SOpd.r 2).place, (SOpd.r 3).place] [(SOpd.r 3).place] ∧
    ringed.Ready [(SOpd.q 0 0).place, (SOpd.r 2).place] [(SOpd.q 0 1).place] ∧ base.Ready [] [(SOpd.r 31).place] :=
  ⟨rfl, ready _ _ _ rfl, ready _ _ _ (by decide +kernel), ready _ _ _ rfl⟩

theorem witness_Division : (let s := solo (thread [5, 0]);
      s.guarded 0 = true ∧ s.Ready [(SOpd.r 1).place, (SOpd.r 2).place] [(SOpd.r 3).place] ∧ s.readS (.r 2) = 0) ∧
    (let s := solo (thread [-7, 2]);
      s.Ready [(SOpd.r 1).place, (SOpd.r 2).place] [(SOpd.r 3).place] ∧ s.readS (.r 2) ≠ 0) ∧
    (let s := solo (thread [0x8000000000000000, -1]);
      s.Ready [(SOpd.r 1).place, (SOpd.r 2).place] [(SOpd.r 3).place] ∧ s.readS (.r 1) = BitVec.ofInt 64 (-2 ^ 63) ∧
        s.readS (.r 2) = BitVec.ofInt 64 (-1)) :=
  ⟨⟨rfl, ready _ _ _ rfl, rfl⟩, ⟨ready _ _ _ rfl, by decide⟩, ready _ _ _ rfl, rfl, rfl⟩

theorem witness_ComparisonsWritePredicates : base.guarded 0 = true ∧ base.Ready [(SOpd.r 1).place, (SOpd.r 2).place] [] ∧
    ringed.Ready [(SOpd.q 0 0).place] [] := ⟨rfl, ready _ _ _ rfl, ready _ _ _ (by decide +kernel)⟩

theorem witness_ControlInstructions : base.guarded 0 = true ∧ base.guarded 1 = false ∧
    (let s := solo (thread [0x2000, 0x2004]);
      s.Ready [.reg 1] [] ∧ (s.readX 1).toNat % 8 = 0 ∧ s.Ready [.reg 2] [] ∧ (s.readX 2).toNat % 8 ≠ 0) :=
  ⟨rfl, rfl, ready _ _ _ rfl, rfl, ready _ _ _ rfl, by decide⟩

theorem witness_LoopCountsDown :
    (base.Ready [.reg 1] [.reg 1] ∧ base.src.reg 1 = 0) ∧
    (let s := solo (thread [2]); s.Ready [.reg 1] [.reg 1] ∧ s.src.reg 1 ≠ 0 ∧ s.src.reg 1 - 1 ≠ 0) ∧
    (let s := solo (thread [1]); s.Ready [.reg 1] [.reg 1] ∧ s.src.reg 1 ≠ 0 ∧ s.src.reg 1 - 1 = 0) :=
  ⟨⟨ready _ _ _ rfl, rfl⟩, ⟨ready _ _ _ rfl, by decide, by decide⟩, ready _ _ _ rfl, by decide, rfl⟩

/-- Thread 0 with a window area of two frames and `res` resident of `depth`. -/
def windows (res depth : Nat) : State :=
  let t := thread [0x2000]
  solo { t with sys := { t.sys.setWsp res depth with wbase := 0x80, wlim := 0x180 } }

theorem witness_CallsAndReturns :
    (let s := windows 1 1;
      s.guarded 0 = true ∧ s.Ready [.reg 1] [.reg 15] ∧ s.Ready [] [.reg 15] ∧ s.src.pend.toNat / 2 ^ 16 = 0 ∧
        s.src.busy.toNat / 2 ^ 16 = 0 ∧ s.me.busy.toNat / 2 ^ 16 = 0 ∧ s.src.sys.windowOk = true ∧
        s.src.sys.res ≠ s.src.sys.frames ∧ s.src.sys.depth ≠ 0 ∧ s.src.sys.res ≠ 0 ∧ (s.readX 1).toNat % 8 = 0 ∧
        (s.th 0).sys.depth + 1 < 2 ^ 32 ∧ (s.th 0).sys.res < 8) ∧
    (let s := windows 0 0;
      s.Ready [.reg 1] [] ∧ s.src.sys.windowOk = true ∧ s.src.sys.depth = 0 ∧
        (∀ i, i < 128 → s.hidden (frameKey 0 (s.th 0).sys 0 + i) = false) ∧ s.poisoned (frameKey 0 (s.th 0).sys 0) 128 = false) ∧
    base.src.sys.windowOk = false :=
  ⟨⟨rfl, ready _ _ _ rfl, ready _ _ _ rfl, rfl, rfl, rfl, rfl, by decide, by decide, by decide, rfl, by decide, by decide⟩,
    ⟨ready _ _ _ rfl, rfl, rfl, by decide +kernel, rfl⟩, rfl⟩

/-- Two threads of group 1, which package 0 holds, with TVEC 0. -/
def grouped : State :=
  let t : Thread := { slot := .runnable, grp := some 1 }
  let g : Group := { launched := true, record := [], queue := none, tenant := 0, grant := 0, deadline := 0, threads := [0, 1],
                     lsOff := [], csp := none }
  { State.reset with threads := [(0, t), (1, t)], pkgs := [(0, { groups := [(1, g)] })] }

theorem witness_TrapEntry : ((base.th 0).gang = none ∧ (base.th 0).sys.tvec ≠ 0) ∧
    ((grouped.th 0).gang = none ∧ (grouped.th 0).sys.tvec = 0 ∧ (grouped.th 0).slot ≠ .vacant ∧ (grouped.th 0).grp = some 1 ∧
      (grouped.group (pkgOf (cidOf 0)) 1).isSome = true ∧ (grouped.th 1).slot ≠ .vacant) := by decide

/-- Thread 0 of group 1, which stops on BRK. -/
def breaks : State := { solo { thread [] with grp := some 1 } with pkgs := [(0, { service := { brkstop := [1] } })] }

theorem witness_TrapInstructions :
    (∀ n, base.src.grp = some n → n ∉ (base.pkg (pkgOf base.cid)).service.brkstop) ∧
    (breaks.src.grp = some 1 ∧ 1 ∈ (breaks.pkg (pkgOf breaks.cid)).service.brkstop) ∧
    (base.guarded 0 = true ∧ base.src.sup = false) ∧
    (let s := solo { thread [] 0x80000000 with sys := { status := 0x80000000, epc := 4 } };
      s.guarded 0 = true ∧ s.src.sup = true ∧ s.src.sys.epc.toNat % 8 ≠ 0) ∧
    (let s := solo (thread [] 0x80000000); s.guarded 0 = true ∧ s.src.sup = true ∧ s.src.sys.epc.toNat % 8 = 0) :=
  ⟨fun n h => (nomatch (show (none : Option Nat) = some n from h)), by decide, by decide, by decide, by decide⟩

/-- Thread 0 waits for its right neighbour, which is PARKED, and has waited `k` of its 3 cycles. -/
def neighbourly (k : Nat) (expired : Bool := false) : State :=
  let t : Thread := { thread [] with sys := { xlto := 3 }, wait := some ⟨.msg, 5, none, some 9⟩, xldCycles := k, xldExpired := expired }
  { State.reset with threads := [(0, t), (16, { slot := .parked })] }

theorem witness_BoundaryCauses :
    (let p (x : Pending) : Thread := (solo { thread [] with pending := x }).th 0;
      (p { poison := some 8 }).rotate = none ∧
      (p { poison := some 8, late := some 9 }).issuing = true ∧ (p { poison := some 8, late := some 9 }).pending.poison = some 8 ∧
      (p { sync := some (8, none), timer := true }).issuing = true ∧
        (p { sync := some (8, none), timer := true }).pending.sync = some (8, none) ∧
      (p { late := some 8, timer := true }).issuing = true ∧ (p { late := some 8, timer := true }).pending.late = some 8 ∧
      (p { timer := true }).issuing = true ∧ (p { timer := true }).boundary = none ∧ (p { timer := true }).wait = none ∧
        (p { timer := true }).pending.timer = true ∧ (p { timer := true }).gang = none ∧ (p { timer := true }).sys.tvec ≠ 0) ∧
    timerReached 0x8000000000000000 0 = true ∧ timerReached 0x8000000000000000 0x7FFFFFFFFFFF = true ∧
    (((neighbourly 2).th 0).awaitsNeighbour = true ∧ (base.th 0).awaitsNeighbour = false ∧ cidOf 0 = 0) ∧
    ((neighbourly 3).th 0).xldBound ≤ ((neighbourly 3).th 0).xldCycles ∧
    (let s := neighbourly 3 true; let nb := s.before (neighbour s.cur (decide (16 ≤ 16 + 1)));
      s.Ready [] [.vec 3] ∧ isHob s.cid = false ∧ nb.slot ≠ .vacant ∧ nb.slot ≠ .runnable ∧ nb.grp = s.src.grp ∧
        s.src.xldExpired = true) ∧
    ((base.core 0).freeze = false ∧ (base.pkg (pkgOf 0)).service.secmode ≠ 3) :=
  ⟨by decide, by decide, by decide, by decide, by decide, ⟨ready _ _ _ rfl, by decide⟩, by decide⟩

/-- g1 = +∞, g2 = −∞, g3 = +0 in F32, with every flag enabled. -/
def enabled : State := solo (thread [0x7F800000, 0xFF800000, 0, 0x7F800001] 0x3F000)

theorem witness_ScalarFloatingResults :
    (base.Ready [(SOpd.r 1).place, (SOpd.r 2).place, (SOpd.r 3).place] [(SOpd.r 3).place] ∧
      ∀ op ∈ [FOp.add, .sub, .mul, .sqrt], base.Quiet (fArith op .f32 false .rne (base.draw 0) 0 0).flags) ∧
    base.Quiet (fArith .div .f32 false .rne (base.draw 0) 0 1).flags ∧
    base.Quiet (fFma .f32 false .rne (base.draw 0) false 0 0 0).flags ∧ base.Quiet (fMinMax false .f32 false 0 0).flags ∧
    base.Quiet (fMinMax true .f32 false 0 0).flags ∧ base.Quiet (fCompare .f32 0 0).2 ∧
    (let x := (enabled.readS (.r 1)).toNat; let y := (enabled.readS (.r 2)).toNat; let z := (enabled.readS (.r 3)).toNat
      enabled.Ready [(SOpd.r 1).place, (SOpd.r 2).place, (SOpd.r 3).place] [(SOpd.r 3).place] ∧
      ¬enabled.Quiet (fArith .add .f32 false .rne (enabled.draw 0) x y).flags ∧
      ¬enabled.Quiet (fArith .sub .f32 false .rne (enabled.draw 0) x x).flags ∧
      ¬enabled.Quiet (fArith .mul .f32 false .rne (enabled.draw 0) x z).flags ∧
      ¬enabled.Quiet (fArith .div .f32 false .rne (enabled.draw 0) z z).flags ∧
      ¬enabled.Quiet (fFma .f32 false .rne (enabled.draw 0) false x z z).flags ∧
      ¬enabled.Quiet (fCompare .f32 (enabled.readS (.r 4)).toNat x).2) :=
  by
  repeat' first
    | exact ready _ _ _ rfl
    | apply And.intro
  all_goals unfold State.Quiet; decide +kernel

theorem witness_SignOperations : base.Ready [(SOpd.r 1).place, (SOpd.r 2).place] [(SOpd.r 3).place] := ready _ _ _ rfl

theorem witness_AbsentInScalarFloat : absentCode AFmt.f32.fmt < 2 ^ fmtWidth AFmt.f32.fmt ∧
    (2 ^ fmtWidth AFmt.f64.fmt - 1) < 2 ^ fmtWidth AFmt.f64.fmt ∧
    (let v := decode .f32 false false 0xFF7FFFFF; v.isAbsent = false ∧ v.isNan = false) := by decide +kernel

theorem witness_ScalarConversion :
    ((∃ ty : IFmt, Fmt.i32 = ty.fmt ∧ Instr.fcvtI .i32 (.r 2) (.r 1) .f64 .rne = .fcvtI ty (.r 2) (.r 1) .f64 .rne) ∧
      base.Ready [(SOpd.r 1).place] [(SOpd.r 2).place] ∧
      base.Quiet (fConvert .i32 .f64 base.src.tx .rne (base.draw 0) 0).flags) ∧
    (∃ ty : FFmt, Fmt.e4 = ty.fmt ∧ Instr.fcvtF .e4 (.r 2) (.r 1) .f32 .rne = .fcvtF ty (.r 2) (.r 1) .f32 .rne) ∧
    (enabled.Ready [(SOpd.r 1).place] [(SOpd.r 2).place] ∧
      ¬enabled.Quiet (fConvert .i32 .f32 enabled.src.tx .rne (enabled.draw 0) (enabled.readS (.r 1)).toNat).flags) ∧
    (decode .f32 false false 0xFFC00001).isAbsent = true :=
  ⟨⟨⟨.i32, rfl, rfl⟩, ready _ _ _ rfl, by unfold State.Quiet; decide +kernel⟩, ⟨.e4, rfl, rfl⟩,
    ⟨ready _ _ _ rfl, by unfold State.Quiet; decide +kernel⟩, by decide +kernel⟩

theorem witness_LanesFollowTheMask : ((8 : Nat) = 8 ∨ (8 : Nat) = 16 ∨ (8 : Nat) = 32 ∨ (8 : Nat) = 64) ∧ ∀ i : Nat, i % 64 < 64 :=
  ⟨.inl rfl, fun i => Nat.mod_lt i (by decide)⟩

/-- The vector instructions on thread 0, lanes 0 and m0: no flag is raised, so every flag may be enabled. -/
theorem witness_VectorFloatArithmetic :
    base.Ready [(VOpd.v 1).place, (VOpd.v 2).place, .vec 3] [(VOpd.v 3).place] ∧
    ringed.Ready [(VOpd.q 0 0).place] [(VOpd.q 0 1).place] ∧
    (let on := base.enables 0; let z : Nat → Nat := fun _ => 0;
      (∀ op ∈ [FOp.add, .sub, .mul, .sqrt], base.Quiet (lanewise 64 on 0 fun i n =>
        fArith op .f64 false .rne (base.draw n) (z i) (z i)).flags) ∧
      base.Quiet (lanewise 64 0 0 fun i n => fArith .div .f64 false .rne (base.draw n) (z i) (z i)).flags ∧
      base.Quiet (lanewise 64 on 0 fun i n => fFma .f64 false .rne (base.draw n) true (z i) (z i) (z i)).flags ∧
      base.Quiet (lanewise 64 on 0 fun i _ => fMinMax true .f64 false (z i) (z i)).flags ∧
      base.Quiet (lanewise 64 on 0 fun i _ => fSign .neg .f64 false (z i) 0).flags) :=
  ⟨ready _ _ _ rfl, ready _ _ _ (by decide +kernel), by unfold State.Quiet; decide +kernel, by unfold State.Quiet; decide +kernel,
    by unfold State.Quiet; decide +kernel, by unfold State.Quiet; decide +kernel, by unfold State.Quiet; decide +kernel⟩

theorem witness_VectorIntegerArithmetic :
    base.Ready [(VOpd.v 1).place, (VOpd.v 2).place, (SOpd.r 1).place] [(VOpd.v 3).place] ∧
    ringed.Ready [(VOpd.q 0 0).place, (SOpd.q 0 0).place] [(VOpd.q 0 1).place] ∧
    (∀ op ∈ [IOp.add, .sub, .mul, .min, .max, .abs, .neg], base.Quiet (lanewise 32 (base.enables 0) 0 fun _ _ =>
      ⟨(iArith op .i32 false 0 0).1, (iArith op .i32 false 0 0).2, 0⟩).flags) :=
  ⟨ready _ _ _ rfl, ready _ _ _ (by decide +kernel), by unfold State.Quiet; decide +kernel⟩

theorem witness_VectorMasksAndLanes :
    base.Ready [(VOpd.v 1).place, (VOpd.v 2).place, .reg 3, .vec 4, (SOpd.r 1).place]
      [(VOpd.v 3).place, (SOpd.r 2).place, .vec 4, .reg 5] ∧ base.Ready [] [.reg 5] ∧ base.Quiet 0 ∧
    (base.enables 0).getLsbD 0 = true ∧ (base.enables 1).getLsbD 0 = false :=
  ⟨ready _ _ _ rfl, ready _ _ _ rfl, by unfold State.Quiet; decide, by decide, by decide⟩

/-- Thread 0 and its neighbour on the next core to the right, of the same group. -/
def neighbours : State :=
  let t := { thread [] with grp := some 1 }; { State.reset with threads := [(0, t), (16, t)] }

theorem witness_VectorReductionsAndConversions :
    base.Ready [(VOpd.v 1).place, (VOpd.v 2).place, .vec 3, .reg 2, .reg (2 + 1), .reg 4] [(VOpd.v 3).place, .vec 3] ∧
    base.Quiet (redF .f32 false .rne base.draw .sum [0, 0] 2).flags ∧ base.Quiet (redI .i32 false .sum [0, 0]).2 ∧
    base.Quiet (fConvert .f32 .f16 false .rne 0 0).flags ∧ base.Quiet (fDot .f16 (dotDst .f16) false .rne 0 [(0, 0)] 0).flags ∧
    base.Quiet (iDot .i8 (dotDst .i8) false [(0, 0)] 0).2 ∧ (base.src.reg 3).toNat < 2 ^ 32 ∧
    (let s := solo (thread [0, 0, 0x100000000]); s.Ready [.reg 2, .reg (2 + 1), .reg 4] [(VOpd.v 3).place] ∧
      2 ^ 32 ≤ (s.src.reg 3).toNat) ∧
    ((hob []).Ready [] [.vec 3] ∧ isHob (hob []).cid = true) ∧
    (base.Ready [] [.vec 3] ∧ (base.before (neighbour base.cur true)).slot = .vacant) ∧
    (neighbours.Ready [] [.vec 3] ∧ isHob neighbours.cid = false ∧
      (neighbours.before (neighbour neighbours.cur true)).slot = .runnable ∧
      (neighbours.before (neighbour neighbours.cur true)).grp = neighbours.src.grp) :=
  ⟨ready _ _ _ rfl, by unfold State.Quiet; decide +kernel, by unfold State.Quiet; decide +kernel,
    by unfold State.Quiet; decide +kernel, by unfold State.Quiet; decide +kernel, by unfold State.Quiet; decide +kernel, by decide,
    ⟨ready _ _ _ rfl, by decide⟩, ⟨ready _ _ _ rfl, by decide⟩, ⟨ready _ _ _ rfl, by decide⟩, ready _ _ _ rfl, by decide,
    by decide, by decide⟩

/-- Thread 0 with a segment SEG0 of one page with every right, mapped to frame 0 of its die's DRAM, and g1 at offset 64. -/
def mapped (r : List Word := [64]) (sb : List StoreEntry := []) : State :=
  let t := thread r
  let leaf : Word := 0x800000000000000F
  { solo { t with segs := t.segs.set 0 (0x1F, 0x10000), sb := sb } with
    clusters := [(0, { tu := [⟨0, false, false, 0, 2 ^ 20, leaf, false⟩] })] }

theorem witness_FarLoads :
    (let s := mapped; s.Ready [xplace 1] (Dest.reg 2).places ∧ s.Ready [xplace 1] (Dest.vec 2).places ∧ s.Open ∧
      s.loads s.cur < 8 ∧ s.farWide 64 8 { rd := true, s := true } 8 accLoad = .ok (64, none) ∧
      s.farWide 64 64 { rd := true } 8 accLoad = .ok (64, none) ∧ isAperKey 64 = false ∧
      forward s.hidden s.src.sb s.serial (spanOf 64 none 8) = .none) ∧
    (let s := { mapped [64] [⟨0, 64, true, false, .bytes 64 (toBytes 8 7) none, 0, false⟩] with serial := 1 };
      s.Ready [xplace 1] (Dest.reg 2).places ∧ s.Open ∧ forward s.hidden s.src.sb s.serial (spanOf 64 none 8) = .all 7 ∧
      s.inOrder s.cur s.serial (spanOf 64 none 8) = true ∧ forward s.hidden s.src.sb s.serial (spanOf 64 none 64) = .part) :=
  ⟨⟨ready _ _ _ rfl, ready _ _ _ rfl, ⟨rfl, rfl⟩, by decide, is (by decide +kernel), is (by decide +kernel), rfl,
    by decide +kernel⟩, ready _ _ _ rfl, ⟨rfl, rfl⟩, by decide +kernel, by decide +kernel, by decide +kernel⟩

theorem witness_FarStores :
    (let s := mapped; s.Ready [(SOpd.r 2).place, xplace 1] [] ∧ s.Ready [(VOpd.v 2).place, xplace 1] [] ∧ s.Open ∧
      s.src.sb.length < 16 ∧ s.farWide 64 1 { w := true } 1 accStore = .ok (64, none) ∧
      s.farWide 64 8 { w := true, s := true } 8 accStore = .ok (64, none) ∧ s.poisoned 64 1 = false) ∧
    ({ mapped with poison := [8] } : State).poisoned 64 1 = true ∧
    ({ mapped with poison := [8] } : State).farWide 64 1 { w := true } 1 accStore = .ok (64, none) :=
  ⟨⟨ready _ _ _ rfl, ready _ _ _ rfl, ⟨rfl, rfl⟩, by decide, is (by decide +kernel), is (by decide +kernel), rfl⟩, by decide,
    is (by decide +kernel)⟩

theorem witness_FarAtomics :
    let s := mapped
    s.guarded 0 = true ∧ s.Open ∧ s.Ready [xplace 1, (SOpd.r 2).place, xplace 3] [xplace 3] ∧ s.loads s.cur < 8 ∧
    s.far 64 8 { rd := true, w := true, a := true } 8 accAtomic = .ok 64 ∧
    s.far 64 4 { rd := true, w := true, a := true } 4 accAtomic = .ok 64 ∧
    s.far 64 8 { rd := true, w := true, a := true, s := true } 8 accAtomic = .ok 64 ∧ s.Ready [xplace 1] [] :=
  ⟨rfl, ⟨rfl, rfl⟩, ready _ _ _ rfl, by decide, is (by decide +kernel), is (by decide +kernel), is (by decide +kernel), ready _ _ _ rfl⟩

/-- The last byte inside LIMIT passes, the next is outside; a missing right; a misaligned address. -/
theorem witness_FarChecks :
    (mapped.src.Denied 0x10000 1 { rd := true } 1 0x03 ∧ mapped.src.Denied 0xFFFF 8 { rd := true } 8 0x03 ∧
      base.src.Denied 0 1 { rd := true } 1 0x03 ∧ ∀ c, ¬mapped.src.Denied 0xFFFF 1 { rd := true } 1 c) ∧
    (let s := solo { thread [8] with segs := Vector.replicate 8 (0x06, 0x10000) };
      s.Ready [xplace 1, (SOpd.r 2).place, xplace 3] [xplace 3] ∧ s.guarded 0 = true ∧ s.Open ∧ s.loads s.cur < 8 ∧
      s.src.sb.length < 16 ∧ s.src.Denied (s.readX 1) 8 { rd := true } 8 0x04 ∧ s.src.Denied (s.readX 1) 8 { rd := true, w := true, a := true } 8 0x04) ∧
    (let s := mapped [4]; s.Ready [xplace 1, (SOpd.r 2).place, xplace 3] [xplace 3] ∧ s.Open ∧ s.loads s.cur < 8 ∧
      s.src.Denied (s.readX 1) 8 { x := true } 8 0x05 ∧ s.src.Denied (s.readX 1) 8 { w := true, s := true } 8 0x05) := by
  refine ⟨⟨by unfold Thread.Denied; decide +kernel, by unfold Thread.Denied; decide +kernel,
    by unfold Thread.Denied; decide +kernel, fun c h => ?_⟩, ⟨ready _ _ _ rfl, rfl, ⟨rfl, rfl⟩, by decide, by decide,
    by unfold Thread.Denied; decide +kernel, by unfold Thread.Denied; decide +kernel⟩, ready _ _ _ rfl, ⟨rfl, rfl⟩, by decide, by unfold Thread.Denied; decide +kernel,
    by unfold Thread.Denied; decide +kernel⟩
  rcases h with ⟨_, h⟩ | ⟨_, _, h⟩ | ⟨_, _, _, h⟩ <;> exact absurd h (by decide +kernel)

/-! ### Memory, homes and the networks -/

/-- Thread 0 with `x` in flight under stamp 0. -/
def flying (x : Item) (t : Thread := thread [0x1000]) : State := { solo t with flight := [(0, x)], serial := 1 }

/-- Near addresses at both ends of their ranges, for a hob core in supervisor mode and a compute core in user mode. -/
theorem witness_NearMemory :
    (let s := solo (thread [0x2FFF8]); s.guarded 0 = true ∧ s.Ready [xplace 1, (SOpd.r 2).place] [xplace 2] ∧
      s.Ready [(VOpd.v 1).place, xplace 1] [] ∧ s.Open ∧ s.loads s.cur < 8 ∧ s.src.sb.length < 16 ∧
      s.near 0x2FFF8 8 8 .load = .ok ⟨keyLocal 0 0x2FFF8, false⟩ ∧ isAperKey (keyLocal 0 0x2FFF8) = false ∧
      forward s.hidden s.src.sb s.serial [(keyLocal 0 0x2FFF8, 8)] = .none ∧ s.inOrder s.cur s.serial [(keyLocal 0 0x2FFF8, 8)] = true ∧
      s.near 0x2FFF8 8 8 .sync = .ok ⟨keyLocal 0 0x2FFF8, false⟩ ∧ s.near 0x2FFF8 8 8 .store = .ok ⟨keyLocal 0 0x2FFF8, false⟩ ∧
      s.near 0x40000000 8 8 .store = .ok ⟨keyLocal 0 0, true⟩ ∧ s.acquiring s.cur = false ∧
      s.near 0x2FFFC 8 8 .load = .error (.trap 0x03 0x2FFFC) ∧ s.near 0x40000000 8 8 .load = .error (.trap 0x03 0x40000000)) ∧
    (let s := hob [0xE0000000]; s.src.sup = true ∧ s.Ready [xplace 1] [xplace 2] ∧
      s.near 0xE0000000 8 8 .load = .ok ⟨keyAper 0 0, false⟩ ∧ isAperKey (keyAper 0 0) = true ∧
      s.near 0xE3FFFFF8 8 8 .store = .ok ⟨keyAper 0 0x3FFFFF8, false⟩ ∧ s.near 0xE4000000 8 8 .load = .error (.trap 0x03 0xE4000000)) ∧
    (let s := onCore 64 (thread []); s.src.sup = false ∧ isHob s.cid = true ∧
      s.near 0xE3FFFFF8 8 8 .load = .error (.trap 0x02 0xE3FFFFF8)) ∧
    base.src.sup = false ∧ base.near 0x40FFFFF8 64 8 .load = .error (.trap 0x02 0x40FFFFF8) ∧
    base.near 0x411C0000 8 8 .store = .error (.trap 0x03 0x411C0000) ∧
    base.near 0x41100000 8 8 .store = .error (.trap 0x03 0x41100000) ∧ base.near (2 ^ 32) 8 8 .sync = .error (.trap 0x03 (2 ^ 32)) ∧
    base.near 0x807FFFF8 8 8 .load = .ok ⟨keyCluster 0 0x7FFFF8, false⟩ ∧
    base.near 0xC3FFFFF8 8 8 .load = .ok ⟨keyDie 0 0x3FFFFF8, false⟩ :=
  ⟨⟨rfl, ready _ _ _ rfl, ready _ _ _ rfl, ⟨rfl, rfl⟩, by decide, by decide, is (by decide +kernel), by decide, by decide +kernel,
    by decide +kernel, is (by decide +kernel), is (by decide +kernel), is (by decide +kernel), rfl, is (by decide +kernel), is (by decide +kernel)⟩,
    ⟨by decide, ready _ _ _ rfl, is (by decide +kernel), by decide, is (by decide +kernel), is (by decide +kernel)⟩,
    ⟨by decide, by decide, is (by decide +kernel)⟩, by decide, by repeat' first | exact is (by decide +kernel) | apply And.intro⟩

theorem witness_FullEmptyIssue : let s := solo (thread [0x1000])
    s.Open ∧ s.near (s.readX 1 + (0 : BitVec 12).signExtend 64) 8 8 .sync = .ok ⟨keyLocal 0 0x1000, false⟩ ∧
      s.Ready [xplace 1, (SOpd.r 2).place] [xplace 2] ∧ s.Ready [(SOpd.r 2).place, xplace 1] [] ∧ s.Ready [xplace 1] [] ∧
      s.loads s.cur < 8 :=
  ⟨⟨rfl, rfl⟩, is (by decide +kernel), ready _ _ _ rfl, ready _ _ _ rfl, ready _ _ _ rfl, by decide⟩

/-- An access of `op` to 8 bytes at `key`. -/
def access (op : AccOp) (key : Nat) : Access := ⟨0, op, true, key, none, 64, 8, 5, .reg 2, 0, false⟩

/-- A packet of the accesses `ids` for stacked DRAM of die 0, at its destination port or at a switch of stage 6. -/
def parcel (ids : List Nat) (stage : Nat := 7) : Packet :=
  { stage := stage, line := 0, dport := 0, home := 0, nodl := true, deadline := 0, late := false, since := 0, tenant := 0, cid := 0,
    key := 64, len := 8, wr := true, ids := ids, lates := [] }

/-- An access to stacked DRAM with its packet. -/
def arrived (p : Packet := parcel [0]) : State := { flying (.access (access .add 64)) with dies := [(0, { packets := [p] })] }

/-- Accesses of two threads that one packet carries. -/
def together : State :=
  { arrived (parcel [0, 1]) with
    flight := [(0, .access (access .add 64)), (1, .access { access .add 64 with tid := 16 })], serial := 2 }

theorem witness_AccessesAtHome :
    (let s := flying (.access (access (.load true true) (keyLocal 0 0x1000)));
      s.access? 0 = some (access (.load true true) (keyLocal 0 0x1000)) ∧ s.packetsOf 0 = [] ∧
      s.performable 0 (access (.load true true) (keyLocal 0 0x1000)) = true) ∧
    ((arrived (parcel [0] 6)).access? 0 = some (access .add 64) ∧ (arrived (parcel [0] 6)).packetsOf 0 = [(0, parcel [0] 6)] ∧
      (parcel [0] 6).stage ≠ 7) ∧
    (arrived.access? 0 = some (access .add 64) ∧ arrived.packetsOf 0 = [(0, parcel [0])] ∧ (parcel [0]).ids = [0] ∧
      (parcel [0]).stage = 7 ∧ (parcel [0]).home = 0 ∧ arrived.performable 0 (access .add 64) = true) ∧
    (together.access? 0 = some (access .add 64) ∧ together.access? 1 = some { access .add 64 with tid := 16 } ∧
      together.packetsOf 0 = [(0, parcel [0, 1])] ∧ together.arrived 0 = true ∧ together.arrived 1 = true ∧
      together.performable 0 (access .add 64) = true ∧ together.performable 1 { access .add 64 with tid := 16 } = true ∧
      ({ together with flight := together.flight ++ [(2, .access { access .add 64 with tid := 16 })] } : State).performable 2
        { access .add 64 with tid := 16 } = false) ∧
    arrived.item 0 = some (.access (access .add 64)) ∧
    (isAperKey (access (.load false false) (keyAper 0 0)).key = true ∧ isAperKey (access .add 64).key = false) ∧
    ((access .add 64).span.any (fun r => base.poisoned r.1 r.2) = false) ∧
    ((access .add 64).span.any (fun r => ({ base with poison := [8] } : State).poisoned r.1 r.2) = true) ∧ base.locks = [] := by
  decide +kernel

/-- A lock word at key 64 that thread 0 holds, or that thread 1 holds and thread 0 may wait for. -/
def lockWord (holder : Nat) : State :=
  { flying (.access (access .unlock 64)) with mem := insert (insert [] 64 (BitVec.ofNat 8 holder)) 71 0x80 }

/-- `n` waits of die 0 on another word. -/
def lockWaits (n : Nat) : State := { lockWord 1 with locks := [⟨128, 0, (List.range n).map fun i => ⟨i, .none, 128, false, 0⟩⟩] }

/-- The same with accesses that the die's full waits hold back. -/
def lockHeld (n : Nat) (l : List Nat) : State := { lockWaits n with dies := [(0, { heldLocks := l })] }

theorem witness_LocksAtHome :
    (let s := flying (.access (access .lock 64)); isAperKey 64 = false ∧
      ((access .lock 64).span.any fun r => s.poisoned r.1 r.2) = false ∧ (s.die 0).heldLocks = [] ∧
      (BitVec.ofNat 64 (s.load 64 8)).getLsbD 63 = false) ∧
    (let w := BitVec.ofNat 64 ((lockWord 0).load 64 8); w.getLsbD 63 = true ∧ sameHolder w ((lockWord 0).holderWord 0) = true ∧
      ∀ q ∈ (lockWord 0).locks, q.key ≠ 64) ∧
    (let s := lockWaits 1023; let w := BitVec.ofNat 64 (s.load 64 8);
      w.getLsbD 63 = true ∧ sameHolder w (s.holderWord 0) = false ∧ s.lockWaits 0 < 1024 ∧ (s.die 0).heldLocks = []) ∧
    (let s := lockWaits 1024; 1024 ≤ s.lockWaits 0 ∧ (s.die 0).heldLocks = []) ∧
    (let s := lockHeld 1023 [5]; let w := BitVec.ofNat 64 (s.load 64 8); (s.die 0).heldLocks = [5] ∧ 0 ∉ [5] ∧ w.getLsbD 63 = true ∧
      sameHolder w (s.holderWord 0) = false) ∧
    (let s := lockHeld 1023 [0, 5]; (s.die 0).heldLocks = 0 :: [5] ∧ 0 ∉ [5] ∧ s.lockWaits 0 < 1024) ∧
    (let s : State := { lockWord 0 with locks := [⟨64, 0, [⟨1, .none, 64, true, 1⟩]⟩] };
      (∃ q ∈ s.locks, q.key = 64) ∧ (∀ q ∈ s.locks, q.waiters ≠ []) ∧ 0 < s.serial) := by decide +kernel

/-- Thread 0 with one store of a byte to key 64 in its buffer. -/
def stored (rel sent : Bool := false) : StoreEntry := ⟨0, 64, true, rel, .bytes 64 [7] none, 0, sent⟩

theorem witness_Replies :
    (let r : Reply := ⟨0, .reg 31, 5, none, none, true, [], 64, false⟩; let s := flying (.reply r);
      (s.th 0).slot ≠ .vacant ∧ (s.th 0).rotate = none ∧ s.item 0 = some (.reply r) ∧ s.firstReply 0 r = true ∧
        s.replyCut r.ways = false) ∧
    (let r : Reply := ⟨0, .reg 2, 5, none, none, true, [(0, 7), (0, 512)], 64, false⟩;
      let r' : Reply := { r with ways := [(0, 512), (0, 9)] };
      let s : State := { flying (.reply r) with flight := [(0, .reply r), (1, .reply r')], serial := 2 };
      s.firstReply 0 r = true ∧ s.item 1 = some (.reply r') ∧ s.firstReply 1 r' = false ∧ s.replyCut r.ways = false ∧
        s.firstReply 1 { r' with grant := true } = true ∧
        (s.updAround 1 fun a => { a with down := [0] }).replyCut r.ways = true) ∧
    (let r : Reply := ⟨0, .reg 31, 5, none, none, true, [(0, 512)], 64, true⟩;
      let s := flying (.reply r) { thread [] with slot := .parked, park := .lock };
      (s.th 0).slot ≠ .vacant ∧ (s.th 0).rotate = none ∧ (s.th 0).park = .lock ∧ s.firstReply 0 r = true ∧ s.replyCut r.ways = false) := by decide +kernel

theorem witness_StoresAndLandings :
    (flying (.result 0 (.vec 15) 5)).item 0 = some (.result 0 (.vec 15) 5) ∧
    (let r : Reply := ⟨0, .reg 2, 5, some 64, some 64, true, [], 64, false⟩;
      let s := flying (.reply r) { thread [] with sys := { deadline := 0x8000000000000001 } };
      (s.th 0).slot ≠ .vacant ∧ s.item 0 = some (.reply r) ∧ (s.th 0).sys.deadline.getLsbD 63 = true) ∧
    (base.th 0).sys.deadline.getLsbD 63 = false ∧
    (let d : Delivery := ⟨0, 2, 5, none, none⟩; let s := flying (.deliver d);
      (s.th 0).slot ≠ .vacant ∧ (s.th 0).slot ≠ .saved ∧ s.item 0 = some (.deliver d)) ∧
    (flying (.deliver ⟨0, 2, 5, some 64, none⟩)).item 0 = some (.deliver ⟨0, 2, 5, some 64, none⟩) ∧
    (let s := flying (.put 0 (keyLocal 0 0) [1, 2]); s.item 0 = some (.put 0 (keyLocal 0 0) [1, 2]) ∧ ∀ p ∈ s.flight, 0 ≤ p.1) ∧
    (flying (.ack 0 16 false)).item 0 = some (.ack 0 16 false) ∧
    (let s := flying (.ack 0 16 true); s.item 0 = some (.ack 0 16 true) ∧ s.unlinked (pkgOf (cidOf 0)) (pkgOf (cidOf 16)) = false ∧
      (s.th 0).slot ≠ .vacant ∧ (s.updAround 0 fun a => { a with down := [1] }).unlinked 0 1 = true) ∧ (flying (.status 0 31 2)).item 0 = some (.status 0 31 2) ∧
    (let e : StoreEntry := ⟨0, 0x1000, false, false, .bytes (keyLocal 0 0x1000) [7] none, 0, false⟩; let s := mapped [64] [e];
      (s.th 0).sb = e :: [] ∧ s.mayDrain 0 e = true ∧ crosses (keyLocal 0 0x1000) = false ∧ s.packetsOf 0 = [] ∧
        isAperKey (keyLocal 0 0x1000) = false) ∧
    (let s := mapped [64] [stored]; (s.th 0).sb = stored :: [] ∧ s.mayDrain 0 stored = true ∧ crosses 64 = true ∧
      stored.sent = false ∧ s.locks = []) ∧
    (let e := stored false true; let q (stage : Nat) : Packet := { parcel [0] stage with len := 1 };
      let s (l : List Packet) : State := { mapped [64] [e] with dies := [(0, { packets := l })] };
      e.sent = true ∧ (s [q 6]).mayDrain 0 e = true ∧ (s [q 6]).arrived 0 = false ∧
      (s [q 7]).mayDrain 0 e = true ∧ (s [q 7]).arrived 0 = true ∧ (s [q 7]).packetsOf 0 = [(0, q 7)] ∧ (q 7).key = 64 ∧
      (q 7).len = 1 ∧ (s []).packetsOf 0 = [] ∧ (s []).mayDrain 0 e = true) ∧
    (let e := { stored true with id := 1 }; let s := { mapped [64] [e] with flight := [(0, .put 0 0 [1])], serial := 2 };
      s.mayDrain 0 e = false) ∧
    (StoreEntry.kind ⟨0, 0, false, false, .push 1 16 0 3 (blankSlot 0), 0, false⟩ = .push 1 16 0 3 (blankSlot 0)) ∧
    base.hidden 64 = false ∧ base.poisoned 64 8 = false := by decide +kernel

/-- A synchronising access of thread 0 to the word at near address 0x1000. -/
def sync (op : SyncOp) (limit count : Nat := 0) : Sync :=
  ⟨0, 0, op, keyLocal 0 0x1000, 0x1000, 5, 2, none, limit, count, 0, 0, false⟩
/-- The word's number. -/
def word : Nat := keyLocal 0 0x1000 / 8
/-- `n` continuations in another word's queue of the same owner. -/
def pooled (n : Nat) : List (Nat × List Sync) := [(word + 1, (List.range n).map fun _ => sync .ldf)]

theorem witness_FullEmptyAtOwner :
    (∀ op ∈ [SyncOp.ldf, .ldfe, .ste, .stf, .feclr, .feset, .feq, .claim],
      let s := flying (.sync (sync op)) { thread [] with park := .sync }
      s.item 0 = some (.sync (sync op)) ∧ (sync op).id = 0 ∧ s.arrived 0 = true ∧ s.syncReady 0 (sync op) = true ∧ s.waiters word = [] ∧
        s.poisoned (keyLocal 0 0x1000) 8 = false ∧ s.isFull (keyLocal 0 0x1000) = true ∧ (s.th 0).park = .sync) ∧
    (let s : State := { flying (.sync (sync .ldf)) with empty := [word], deferred := pooled 255 };
      s.isFull (keyLocal 0 0x1000) = false ∧ s.pool (ownerOf (keyLocal 0 0x1000)) < 256 ∧ s.waiters word = []) ∧
    (let s : State := { flying (.sync (sync .ldf 2 1)) with empty := [word], deferred := pooled 256 };
      256 ≤ s.pool (ownerOf (keyLocal 0 0x1000)) ∧ (sync .ldf 2 1).count < (sync .ldf 2 1).limit) ∧
    (let s : State := { flying (.sync (sync .ste)) with empty := [word] }; s.isFull (keyLocal 0 0x1000) = false) ∧
    (let s : State := { flying (.sync (sync .ste)) with deferred := pooled 256 };
      s.isFull (keyLocal 0 0x1000) = true ∧ 256 ≤ s.pool (ownerOf (keyLocal 0 0x1000)) ∧ (sync .ste).limit = 0 ∧ s.waiters word = []) ∧
    (let s : State := { flying (.sync (sync .ldf)) with empty := [word], deferred := [(word, [sync .ldfe])] };
      s.arrived 0 = true ∧ s.pool (ownerOf (keyLocal 0 0x1000)) < 256 ∧ (sync .ldf).op.queues = true ∧ s.syncReady 0 (sync .ldf) = true ∧ s.waiters word ≠ [] ∧
        ∀ h ∈ (s.waiters word).head?, h.op.proceeds (s.isFull (word * 8)) = false) ∧
    (flying (.refused (sync .ldf))).item 0 = some (.refused (sync .ldf)) ∧
    (∀ p ∈ pooled 2, p.1 * 8 < 2 ^ 66 ∧ ∀ a ∈ p.2, a.limit = 0 ∨ a.count < a.limit) ∧
    (let a := sync .ldfe 2 2; let s : State := { base with deferred := [(word, [a])] };
      s.deferred = [(word, [a])] ∧ word * 8 < 2 ^ 66 ∧ a.limit ≠ 0 ∧ a.limit ≤ a.count ∧ a.reg < 32) := by decide +kernel

/-- A packet at the input of stage 1 that line `l` feeds, bound for port 0. -/
def packet (l : Nat) (id : Nat) (nodl : Bool := true) : Packet := { parcel [id] 1 with line := l, nodl := nodl }
/-- Die 0 with packets. -/
def net (l : List Packet) (d : Die := {}) : State := { base with dies := [(0, { d with packets := l })] }

theorem witness_FarNetSwitches :
    (let s := net [packet 0 0]; (s.die 0).off.contains (switchNo 1 0) = false ∧ (1 : Nat) < 6 ∧ (packet 0 0).stage = 1 ∧
      (packet 0 0).out = 0 ∧ (s.die 0).head 1 0 0 = some (packet 0 0) ∧ (s.die 0).head 1 0 1 = none ∧ (packet 0 0).nodl = true) ∧
    (let s := { net [packet 64 0 false] with time := 1 }; (s.die 0).head 1 0 1 = some (packet 64 0 false) ∧
      (s.die 0).head 1 0 0 = none ∧ (packet 64 0 false).nodl = false ∧ (packet 64 0 false).late = false ∧
      passed (packet 64 0 false).deadline s.time = true) ∧
    (let s := net [packet 0 0, packet 64 1]; (s.die 0).head 1 0 0 = some (packet 0 0) ∧ (s.die 0).head 1 0 1 = some (packet 64 1) ∧
      (packet 0 0).out = 0 ∧ (packet 64 1).out = 0) ∧
    ((packet 0 0).aged 0x1000 = true ∧ (packet 0 0).aged 0 = false ∧ (packet 0 0).nodl = true ∧ (packet 0 0 false).nodl = false) ∧
    (let s := { net [] with time := 427 }; (s.die 0).head 1 0 0 = none ∧ (s.die 0).head 1 0 1 = none ∧
      5120 ≤ 12 * ((s.time.toNat + 2 ^ 48 - lookup 0 (s.die 0).idleFrom (switchNo 1 0)) % 2 ^ 48)) ∧
    (let s := { net [] with time := 426 };
      12 * ((s.time.toNat + 2 ^ 48 - lookup 0 (s.die 0).idleFrom (switchNo 1 0)) % 2 ^ 48) < 5120) ∧
    (({ off := [64] } : Die).off.contains 64 = true ∧ ({} : Die).off.contains 64 = false) ∧
    ((net [] { waking := [64] }).die 0).waking.contains (switchNo 1 0) = true := by decide +kernel


/-! ### Rings, splices and messages -/

/-- A thread with rings. -/
def withRings (l : List (Nat × Ring)) (t : Thread := thread [0x400]) : Thread :=
  { t with rings := Vector.ofFn fun i : Fin 8 => lookup {} l i.val }

/-- An IN ring of four 64-byte slots that holds `n`, with the bits of its head slot. -/
def inRing (n : Nat) (b : SlotBits := ⟨false, false, false, 0⟩) (prods : List (Nat × Nat) := [(16, 1)]) : Ring :=
  { kind := .inn, size := 64, cap := 4, base := keyLocal 0 0x400, filled := n, tail := n % 4, bits := [(0, b)], prods := prods
    cur := prods.head? }

/-- An OUT ring to q0 of thread 16 with `n` free slots. -/
def outRing (n : Nat) (cons : Nat := 16) : Ring := { kind := .out, size := 64, cap := 4, cons := cons, free := n, term := 1 }

/-- Thread 0 beside thread 16 of core 1. -/
def pair (a b : Thread) : State := { solo a with threads := [(0, a), (16, b)] }

/-- Thread 16 with q0 an IN handle that thread 0 feeds from `q`. -/
def consumer (q : Nat) (merge : Option Merge := none) : Thread :=
  withRings [(0, { inRing 0 ⟨false, false, false, 0⟩ [(0, q)] with base := keyLocal 1 0x400, merge := merge })]

/-- Thread 0, whose binding of handle 0 to q0 of thread 16 is on its way. -/
def binding : State := { pair (thread [16]) (consumer 0) with flight := [(0, .bind 0 0 64 4 16 0 31)], serial := 1 }

theorem witness_RingBinding :
    (let s := solo (withRings [(7, { kind := .loc })]); s.Ready [xplace 1] [xplace 2] ∧ s.binding 7 = false ∧ (s.src.ring 7).kind ≠ .unbound) ∧
    (let s := binding; s.Ready [xplace 1] [xplace 2] ∧ s.guarded 0 = true ∧ s.binding 0 = true) ∧
    (let s := solo (thread [0x2FE00]); s.Ready [xplace 1] [xplace 2] ∧ s.binding 0 = false ∧ (s.src.ring 0).kind = .unbound ∧
      (s.readX 1).toNat + (128 + 2 ^ (2 + 1) * (8 * 2 ^ 2)) ≤ 0x30000 ∧
      s.areaTaken s.cid (keyLocal s.cid (s.readX 1).toNat) 384 = false ∧ (s.readX 1).toNat % 64 = 0) ∧
    (let s := pair (thread [16]) (consumer 0); s.Ready [xplace 1] [xplace 2] ∧ s.binding 0 = false ∧ (s.src.ring 0).kind = .unbound ∧
      s.bindStatus s.cur 64 4 16 0 = 0 ∧ s.bindStatus s.cur 8 4 16 0 = 2 ∧ ((s.th (s.savedAs 16)).ring 0).prods.length + s.bindsTo 16 0 < 2 ∧
      Fld (s.readX 1) 31 25 = 0 ∧ Fld (s.readX 1) 63 35 = 0 ∧
      (s.th (s.savedAs 16)).slot ≠ .vacant ∧ ((s.th (s.savedAs 16)).ring 0).kind = .inn ∧
      ((s.th (s.savedAs 16)).ring 0).prods.length < 2 ∧ (s.me.ring 0).kind = .unbound ∧ clidOf (cidOf 16) = clidOf s.cid ∧ (s.th (s.savedAs 16)).tenant = s.src.tenant ∧
      (((s.th (s.savedAs 16)).ring 0).size ≠ 8 ∧ ((s.th (s.savedAs 16)).ring 0).size = 8 * 2 ^ 3 ∧
        ((s.th (s.savedAs 16)).ring 0).cap = 2 ^ (1 + 1))) ∧
    (let s := pair (thread [16]) (withRings [(0, inRing 0 ⟨false, false, false, 0⟩ [])]); s.savedAs 16 ≠ s.cur ∧
      ((s.th (s.savedAs 16)).ring 0).prods = [] ∧ ((s.th (s.savedAs 16)).ring 0).cur = none ∧
      ((s.th (s.savedAs 16)).ring 0).merge = none ∧ (s.th (s.savedAs 17)).slot = .vacant ∧
      ((s.th (s.savedAs 16)).ring 7).kind ≠ .inn) ∧
    (let s : State := { solo (thread [2048]) with threads := [(0, thread [2048]), (2048, withRings [(0, inRing 0)])] };
      (s.th (s.savedAs 2048)).slot ≠ .vacant ∧ ((s.th (s.savedAs 2048)).ring 0).kind = .inn ∧ clidOf (cidOf 2048) ≠ clidOf s.cid) ∧
    (let s := pair (thread [16]) (withRings [(0, inRing 0 ⟨false, false, false, 0⟩ [(0, 1), (32, 1)])]);
      s.Ready [xplace 1] [xplace 2] ∧ (s.src.ring 0).kind = .unbound ∧ s.bindStatus s.cur 64 4 16 0 = 0 ∧ s.binding 0 = false ∧
        2 ≤ ((s.th (s.savedAs 16)).ring 0).prods.length) ∧
    (let s := binding; s.bindStatus s.cur 64 4 16 0 = 0 ∧ s.binding 7 = false ∧ (s.src.ring 7).kind = .unbound ∧
      ((s.th (s.savedAs 16)).ring 0).prods.length < 2 ∧ 2 ≤ ((s.th (s.savedAs 16)).ring 0).prods.length + s.bindsTo 16 0 ∧
      s.item 0 = some (.bind 0 0 64 4 16 0 31) ∧ (s.th 0).exited = false ∧ ((s.th 0).ring 0).kind = .unbound) ∧
    (let s := { flying (.bind 0 0 64 4 16 0 31) { thread [] with exited := true } with serial := 1 };
      (s.th 0).exited = true ∧ s.bindStatus 0 64 4 16 0 = 1) ∧
    (let s := { flying (.bind 0 0 64 4 16 0 31) with serial := 1 }; (s.th 0).exited = false ∧ s.bindStatus 0 64 4 16 0 ≠ 0) ∧
    (let s := { pair (thread []) (withRings [(0, inRing 0 ⟨false, false, false, 0⟩ [(0, 1), (32, 1)])]) with
        flight := [(0, .bind 0 0 64 4 16 0 31)], serial := 1 };
      s.item 0 = some (.bind 0 0 64 4 16 0 31) ∧ (s.th 0).exited = false ∧ s.bindStatus 0 64 4 16 0 = 0 ∧
        2 ≤ ((s.th (s.savedAs 16)).ring 0).prods.length) ∧
    (let s := pair (withRings [(1, outRing 4)]) (consumer 1); let r := s.me.ring 1;
      r.kind = .out ∧ (s.consumer r).merge = none ∧ r.cons ≠ s.cur ∧ (s.consumer r).kind = .inn ∧
        (s.consumer r).bound = r.consBound ∧ r.consQ < 8) ∧
    (let s := pair (withRings [(1, outRing 4)]) (consumer 1 (some ⟨5, 0, 0, 1⟩)); let r := s.me.ring 1;
      r.kind = .out ∧ ((s.consumer r).merge.any fun m => decide (m.newTid = s.cur) && decide (m.newQ = 1)) = true) ∧
    (let s := solo (withRings [(1, { kind := .loc }), (2, inRing 4 ⟨false, false, false, 0⟩ []), (4, inRing 4)]);
      s.guarded 0 = true ∧ (s.me.ring 1).kind = .loc ∧ (s.me.ring 2).kind = .inn ∧ (s.me.ring 2).prods = [] ∧
        (s.me.ring 0).kind = .unbound ∧ (s.me.ring 4).kind = .inn ∧ (s.me.ring 4).prods ≠ []) :=
  ⟨⟨ready _ _ _ rfl, by decide +kernel⟩, ⟨ready _ _ _ rfl, by decide +kernel⟩, ⟨ready _ _ _ rfl, by decide +kernel⟩,
    ⟨ready _ _ _ rfl, by decide +kernel⟩, by decide +kernel, by decide +kernel, ⟨ready _ _ _ rfl, by decide +kernel⟩, by decide +kernel⟩

theorem witness_RingAdvance :
    (base.Ready [] [xplace 2] ∧ (base.src.ring 0).kind = .unbound) ∧
    (let s := solo (withRings [(4, inRing 4)]); (s.src.ring 4).kind = .inn ∧ (s.src.ring 4).filled < 2 ^ 16) ∧
    (let s := solo (withRings [(0, inRing 4), (1, inRing 4 ⟨false, false, false, 0⟩ []), (7, { kind := .loc, cap := 8, filled := 8 })]);
      s.guarded 0 = true ∧ s.src.inheriting = false ∧
      (∀ q ∈ [(0, 4), (1, 4), (7, 8)], ((s.src.ring q.1).kind = .loc ∨ (s.src.ring q.1).kind = .inn) ∧ q.2 ≤ (s.src.ring q.1).cap ∧
        q.2 ≤ (s.src.ring q.1).filled ∧ s.seamAtHead (s.src.ring q.1) = false ∧ s.drainAtHead s.src q.1 = false ∧
        ∀ i, i < q.2 → ((s.src.ring q.1).slotBits ((s.src.ring q.1).head + i)).typed = false) ∧
      (s.me.ring 0).cur = some (16, 1) ∧ ((s.th 16).ring 1).feeds 0 0 0 = false ∧ (outRing 4).feeds 16 0 0 = true ∧ (s.me.ring 1).cur = none ∧ (s.me.ring 7).kind ≠ .inn) ∧
    (let s := solo (withRings [(7, { kind := .loc, cap := 8 })]); s.binding 7 = false ∧ (s.src.ring 7).kind = .loc ∧ 8 ≤ (s.src.ring 7).cap ∧
      8 ≤ (s.src.ring 7).cap - (s.src.ring 7).filled) ∧
    (let s := pair (withRings [(1, outRing 4)]) (consumer 1); let r := s.src.ring 1;
      s.binding 1 = false ∧ r.kind = .out ∧ 4 ≤ r.cap ∧ s.acquiring s.cur = false ∧ s.consumerEnded r = false ∧ 4 ≤ r.free ∧ s.mayPush s.cur 1 = true ∧
        s.src.sb.length + 4 ≤ 16) ∧
    (let x : Staged := ⟨7, ⟨false, false, false, 0⟩⟩;
      let s : State := { pair (withRings [(1, outRing 3)]) (consumer 1) with flight := [(0, .record 0 1 16 0 0 x)], serial := 1 };
      s.item 0 = some (.record 0 1 16 0 ((s.th 16).ring 0).bound x) ∧ s.firstRecord 0 16 0 = true ∧ (s.th 16).slot ≠ .saved ∧
        ((s.th 16).ring 0).kind = .inn) ∧
    (let x : Staged := ⟨7, ⟨false, false, false, 0⟩⟩;
      let s : State := { pair (withRings [(1, outRing 3)]) (consumer 1) with flight := [(0, .record 0 1 16 0 9 x)], serial := 1 };
      s.item 0 = some (.record 0 1 16 0 9 x) ∧ s.firstRecord 0 16 0 = true ∧ ((s.th 16).ring 0).bound ≠ 9) ∧
    (let s := flying (.credit 0 7 1 4) (withRings [(7, outRing 0)]); let r := (s.th 0).ring 7;
      s.item 0 = some (.credit 0 7 1 4) ∧ r.kind = .out ∧ r.term = 1) ∧
    (let s := flying (.credit 0 7 2 4) (withRings [(7, outRing 0)]);
      s.item 0 = some (.credit 0 7 2 4) ∧ ((s.th 0).ring 7).term ≠ 2) :=
  ⟨⟨ready _ _ _ rfl, rfl⟩, by decide +kernel⟩

/-- A stage of number 1 with a control record of `w0` and `w1` at the head of q0 and an OUT handle q1. -/
def stage (w0 : Nat) (w1 : Nat := 0) (more : Thread → Thread := id) (other : Thread := consumer 1) : State :=
  let t := withRings [(0, inRing 1 ⟨true, false, false, 0⟩), (1, outRing 1)] { thread [16] with sys := { stage := 1 } }
  { pair (more t) other with
    mem := toBytes 16 (w0 + w1 * 2 ^ 64) |>.zipIdx.foldl (fun m x => insert m (keyLocal 0 0x480 + x.2) x.1) [] }

/-- A SEAM record of splice 5. -/
def seam : Nat := 2 ^ 60 + 5

/-- A new stage of number 3 that waits on its empty q0 and feeds q0 of thread `cons`. -/
def newStage (cons : Nat) : Thread :=
  let t := withRings [(0, inRing 0 ⟨false, false, false, 0⟩ []), (1, outRing 0 cons)]
  { t with sys := { stage := 3 }, wait := some ⟨.msg, 5, none, some 0⟩ }

/-- Thread 16 as a stage of number 2 that feeds q0 of thread 32. -/
def nextStage : Thread :=
  let c := consumer 1
  { c with rings := c.rings.set 1 (outRing 1 32), sys := { stage := 2 } }

/-- A chain of threads 0, 16 and 32 and a new stage 48, with the record `w0` that names it. -/
def chain (w0 : Nat) : State :=
  let s := stage w0 48 id nextStage
  let last := withRings [(0, inRing 0 ⟨false, false, false, 0⟩ [(16, 1)])]
  { s with threads := s.threads ++ [(32, last), (48, newStage 32)] }

/-- What QSEAM asks of its stage and of its record `c`. -/
def seamReady (s : State) : Bool :=
  let a := s.src.ring 0; let b := s.src.ring 1; let c := Control.ofSlot (s.headSlot a)
  s.guarded 0 && decide (s.stageNo ≠ 0) && decide (a.kind = .inn) && !s.src.inheriting && decide (0 < a.filled) && !s.seamAtHead a &&
    !s.drainAtHead s.src 0 && !s.acquiring s.cur && !s.atomicPending s.cur && s.readsNow (a.slotKey a.head) a.size &&
    s.noOlderStore s.cur s.serial [(a.slotKey a.head, a.size)] && !s.binding 1 && (s.headSlot a).bits.mark && decide (c.kind = 0) && (decide (b.kind ≠ .out) || (!s.consumerEnded b && decide (1 ≤ b.free) &&
      s.mayPush s.cur 1 && decide (s.src.sb.length < 16) && decide (32 ≤ b.size) && b.staged.isEmpty))

/-- The record of a stage. -/
def recordOf (s : State) : Control := Control.ofSlot (s.headSlot (s.src.ring 0))

/-- A new stage 32 that inherits from thread 16, whose drain has `d`, or from what has been brought. -/
def heir (d : Option Drain) (x : Option Arriving) : State :=
  let t := { thread [] with inheriting := true, inherit := some (0x1000, 8), arriving := x }
  { State.reset with threads := [(16, { thread [] with exited := true, inherit := some (0, 8), drain := d }), (32, t)] }

theorem witness_SpliceRecords :
    (let s := stage 0; s.Ready [xplace 1] [] ∧ Fld (s.readX 1) 63 25 = 0 ∧ (s.src.ring 1).kind = .out ∧ 32 ≤ (s.src.ring 1).size ∧
      s.binding 1 = false ∧ (s.src.ring 1).staged = [] ∧ s.acquiring s.cur = false ∧ s.consumerEnded (s.src.ring 1) = false ∧ 1 ≤ (s.src.ring 1).free ∧
      s.mayPush s.cur 1 = true ∧ s.src.sb.length < 16) ∧
    (let s := stage 0; s.Ready [] [xplace 2] ∧ seamReady s = true ∧ (recordOf s).op = 0 ∧ s.stageNo ≠ (recordOf s).targetStage ∧
      (s.src.ring 1).kind = .out ∧ (s.src.ring 0).size ≤ (s.src.ring 1).size) ∧
    (let s := stage 0 0 fun t => t.setRing 1 {}; seamReady s = true ∧ (recordOf s).op = 0 ∧ s.stageNo ≠ (recordOf s).targetStage ∧
      (s.src.ring 1).kind ≠ .out) ∧
    (let s := stage (2 ^ 36); seamReady s = true ∧ (recordOf s).op = 0 ∧ s.stageNo = (recordOf s).targetStage ∧
      s.spliceReason (recordOf s) = 3 ∧ (s.src.ring 1).kind = .out) :=
  ⟨⟨ready _ _ _ rfl, by decide +kernel⟩, ⟨ready _ _ _ rfl, by decide +kernel⟩, by decide +kernel⟩

theorem witness_SpliceCommits :
    (let s := { chain (2 ^ 36 + 3 * 2 ^ 24) with
        threads := (chain (2 ^ 36 + 3 * 2 ^ 24)).threads.take 3 ++ [(48, newStage 16)] };
      seamReady s = true ∧ (recordOf s).op = 0 ∧ s.stageNo = (recordOf s).targetStage ∧ s.spliceReason (recordOf s) = 0 ∧
      (s.me.ring 1).consQ < 8 ∧ (recordOf s).newThr ≠ s.cur ∧ (s.me.ring 1).cons ≠ s.cur ∧ (recordOf s).newThr ≠ (s.me.ring 1).cons) ∧
    (∀ op ∈ [1, 2], let s := chain (op * 2 ^ 58 + 2 * 2 ^ 36 + 3 * 2 ^ 24);
      let c := recordOf s; let y := (s.me.ring 1).cons; let yq := (s.th y).ring 1;
      seamReady s = true ∧ c.op = op ∧ (s.src.ring 1).kind = .out ∧ Fld (s.th (s.src.ring 1).cons).sys.stage 11 0 = c.targetStage ∧
      s.spliceReason c = 0 ∧ y ≠ s.cur ∧ yq.cons ≠ y ∧ yq.cons ≠ s.cur ∧ yq.consQ < 8 ∧ c.newThr ≠ s.cur ∧ c.newThr ≠ y ∧
      c.newThr ≠ yq.cons) := by decide +kernel

theorem witness_Splices :
    (let s := stage 0; let a := s.src.ring 0; let b := s.src.ring 1;
      s.Open ∧ seamReady s = true ∧ a.size ≤ b.size ∧ b.kind = .out ∧ ((a.slotBits a.head).mark = true → 32 ≤ b.size) ∧
      (a.slotBits a.head).typed = false) ∧
    (let m : Merge := ⟨5, 0, 32, 1⟩;
      let s := stage seam 0 fun t => t.setRing 0 { t.ring 0 with merge := some m, prods := [(32, 1)] };
      ((s.th 0).ring 0).kind = .inn ∧ ((s.th 0).ring 0).merge = some m ∧ s.seamAtHead ((s.th 0).ring 0) = true ∧
        (s.th 0).slot ≠ .saved ∧ (m.newTid, m.newQ) ∈ ((s.th 0).ring 0).prods ∧ m.newTid ≠ 0) ∧
    (∀ d ∈ [(⟨5, 0, 0, 32, false⟩ : Drain), ⟨5, 0, 1, 32, false⟩],
      let s := stage seam 0 fun t => { t with drain := some d, wait := some ⟨.msg, 5, none, some 0⟩ };
      (s.th 0).drain = some d ∧ (s.th 0).issuing = true ∧ s.drainAtHead (s.th 0) 0 = true ∧
        ((s.th 0).wait.any fun w => decide (w.ring = some 0)) = true ∧ ((s.th 0).ring 1).kind = .out ∧ 1 ≤ ((s.th 0).ring 1).free ∧
        s.mayPush 0 1 = true ∧ (s.th 0).sb.length < 16) ∧
    (base.th 0).inheriting = false ∧
    (let d : Drain := ⟨5, 0, 1, 32, true⟩; let s := heir (some d) none;
      (s.th 32).inheriting = true ∧ (s.th 32).slot ≠ .saved ∧ s.heirOf 32 = some (16, d) ∧ s.drainedOut 16 d = true ∧ (s.th 32).sb = [] ∧
        (s.th 32).inherit = some (0x1000, 8) ∧ s.hidden (keyLocal 2 0x1000) = false) ∧
    (let d : Drain := ⟨5, 0, 2, 32, true⟩; (heir (some d) none).heirOf 32 = some (16, d) ∧ (heir (some d) none).drainedOut 16 d = true) ∧
    (let d : Drain := ⟨5, 0, 1, 32, false⟩;
      (heir (some d) none).heirOf 32 = some (16, d) ∧ (heir (some d) none).drainedOut 16 d = false) ∧
    (let s := heir none none; s.heirOf 32 = none ∧ (s.th 32).arriving = none ∧ (s.th 32).sb = []) ∧
    (let x : Arriving := ⟨[1], [true], []⟩; (heir none (some x)).heirOf 32 = none ∧ ((heir none (some x)).th 32).arriving = some x) ∧
    (let s := solo (thread [0x20000, 0x10000, 0]); s.Ready [xplace 1, xplace 2] [] ∧ s.guarded 0 = true ∧ (s.readX 3).toNat = 0 ∧
      0 < (s.readX 2).toNat ∧ (s.readX 2).toNat % 8 = 0 ∧ (s.readX 2).toNat ≤ 65536 ∧
      (s.readX 1).toNat + (s.readX 2).toNat ≤ 0x30000 ∧ (s.readX 1).toNat % 8 = 0) ∧
    (let s := solo (thread [0x1FFFC, 0x10000, 0x10008]); 65536 < (s.readX 3).toNat ∧ (s.readX 1).toNat % 8 ≠ 0 ∧
      (s.readX 1).toNat + (s.readX 2).toNat ≤ 0x30000 ∧ (s.readX 2).toNat % 8 = 0) ∧
    (let s := solo { thread [] with markActive := true, sys := { markpc := 8 } };
      s.guarded 0 = true ∧ s.src.markActive = true ∧ s.src.sys.markpc.toNat % 8 = 0) ∧ base.src.markActive = false :=
  ⟨⟨⟨rfl, rfl⟩, by decide +kernel⟩, by decide +kernel, by decide +kernel, by decide +kernel, by decide +kernel, by decide +kernel,
    by decide +kernel, by decide +kernel, by decide +kernel, ⟨ready _ _ _ rfl, by decide +kernel⟩, by decide +kernel,
    by decide +kernel, by decide +kernel⟩

/-- A message of thread 16 to thread `dst`. -/
def letter (dst : Nat := 0) (soft : Bool := true) : Msg := ⟨16, 0, 0, false, false, [1, 2], dst, soft, 0⟩

/-- A core whose inbox holds `n` messages. -/
def inboxed (n : Nat) (m : Msg) (t : Thread := thread []) (x : Item := .message (letter)) : State :=
  { flying x t with cores := [(0, { inbox := List.replicate n m })] }

/-- The eight items that the events of `Sending` move on, with a message to `dst`. -/
def letters (m : Msg) : List Item :=
  [.message m, .waiting m none, .hardware 0 m, .hardware 1 m, .hardware 2 m, .hardware 3 m, .hardware 4 m, .hardware 5 m]

theorem witness_Sending :
    (let s := solo (thread [0x10000]); s.Ready [xplace 1, (SOpd.r 2).place, (SOpd.r 3).place] [] ∧ s.guarded 0 = true ∧
      Fld (s.readX 2) 31 25 = 0 ∧ s.sendingFrom s.cid < 8) ∧
    (let s : State := { base with flight := (List.range 8).map fun i => (i, .sending { letter 0 with sender := i } 0) };
      8 ≤ s.sendingFrom s.cid) ∧
    (let s := flying (.sending (letter) 0); s.item 0 = some (.sending (letter) 0) ∧ s.released (letter).sender 0 = true) ∧
    (let t := { thread [] with sb := [⟨0, 0, false, false, .bytes 0 [1] none, 0, false⟩] };
      let s : State := { pair (thread []) t with flight := [(1, .sending (letter) 0)], serial := 2 };
      s.item 1 = some (.sending (letter) 0) ∧ s.released (letter).sender 1 = false ∧
        ({ s with flight := [(1, .hardware 0 (letter))] } : State).released (letter).sender 1 = false) ∧
    (∀ x ∈ letters (letter),
      let s := inboxed 47 (letter) { thread [] with park := .waitm 0 } x
      s.item 0 = some x ∧ s.firstMessage 0 (letter) = true ∧ s.arrived 0 = true ∧ s.released (letter).sender 0 = true ∧
        s.unlinked 0 0 = false ∧ s.namesSlot 0 = true ∧
        (s.th 0).slot ≠ .vacant ∧ (s.th 0).slot ≠ .saved ∧ (s.th 0).exited = false ∧ (letter).tenant = (s.th 0).tenant ∧
        (s.core 0).inbox.length < 64 ∧ (s.core 0).inbox.countP (fun x => x.soft) < 48 ∧ (s.th 0).park.matches (letter) = true) ∧
    (let s := inboxed 48 (letter); 48 ≤ (s.core 0).inbox.countP (fun x => x.soft) ∧ (s.core 0).inbox.length < 64) ∧
    (let s := inboxed 63 (letter 0 false) (thread []) (.message (letter 0 false)); s.firstMessage 0 (letter 0 false) = true ∧
      (s.core 0).inbox.length < 64) ∧
    64 ≤ ((inboxed 64 (letter 0 false)).core 0).inbox.length ∧
    (flying (.message (letter 15))).namesSlot (letter 15).dst = false ∧ ((flying (.message (letter 1))).th 1).slot = .vacant ∧
    ((solo { thread [] with exited := true }).th 0).exited = true ∧
    (pkgOf (cidOf 0) = pkgOf (cidOf 16) ∧ pkgOf (cidOf 0) ≠ pkgOf (cidOf 0x20000)) ∧ slotOf 15 = 15 ∧
    (let s : State := { flying (.message (letter)) with flight := [(0, .message (letter)), (1, .message (letter))] };
      s.item 1 = some (.message (letter)) ∧ s.firstMessage 1 (letter) = false) ∧
    (base.namesSlot 0x8000 = true ∧ didOf (cidOf 0x8000) ≠ didOf (cidOf 0) ∧ didOf (cidOf 16) = didOf (cidOf 0)) := by
  refine ⟨⟨ready _ _ _ rfl, ?_⟩, ?_⟩
  · decide +kernel
  · repeat' apply And.intro
    all_goals decide +kernel

theorem witness_Receiving :
    let s := { inboxed 1 (letter) (thread [16]) with flight := [] }
    let y := { inboxed 1 { letter with typed := true, tx := true } (thread [16]) with flight := [] }
    let first (s : State) (want : Msg → Bool) : Option Msg := (s.core s.cid).inbox.find? fun m => decide (m.dst = s.cur) && want m
    let from_ (w : Word) (m : Msg) : Bool := m.sender = Fld w 24 0 && m.seq = Fld w 63 48
    let tagged (w : Word) (m : Msg) : Bool := Fld w 15 0 = 0 || m.tag = Fld w 15 0
    s.Ready [xplace 1] [xplace 2, xplace 3] ∧ s.guarded 0 = true ∧ first s (fun _ => true) = some (letter) ∧
      (letter).typed = false ∧ first y (fun _ => true) = some { letter with typed := true, tx := true } ∧ y.src.tx ≠ true ∧
      first base (fun _ => true) = none ∧ Fld (s.readX 1) 47 25 = 0 ∧ first s (from_ (s.readX 1)) = some (letter) ∧
      first s (from_ 17) = none ∧ Fld (s.readX 1) 63 16 = 0 ∧ first s (tagged 0) = some (letter) ∧ first s (tagged 0xFFFF) = none :=
  ⟨ready _ _ _ rfl, by decide +kernel⟩

theorem witness_PresenceOperations : (base.guarded 0 = true ∧ base.src.busy.getLsbD 31 = false ∧ base.src.pend.getLsbD 31 = false) ∧
    (solo { thread [] with busy := 0x80000000 }).src.busy.getLsbD 31 = true ∧
    (solo { thread [] with pend := 1 }).src.pend.getLsbD 0 = true ∧
    (let s := flying (.regPut 16 0 31 5 0);
      s.item 0 = some (.regPut 16 0 31 5 0) ∧ exec (.remoteRegisterWrite 0) s = .next (after (.remoteRegisterWrite 0) s) ∧
      (after (.remoteRegisterWrite 0) s).item 0 = some (.ack 16 0 false) ∧ (s.th 0).slot ≠ .vacant ∧ (s.th 0).slot ≠ .saved ∧
      s.namesSlot 0 = true ∧ (s.th 0).tenant = 0) ∧
    (let d : Delivery := ⟨0, 31, 5, none, none⟩; let s := flying (.deliver d);
      s.item 0 = some (.deliver d) ∧ (s.th 0).slot ≠ .vacant ∧ (s.th 0).slot ≠ .saved ∧
      exec (.deliveryLanding 0) s = .next (after (.deliveryLanding 0) s)) := by
  refine ⟨by decide +kernel, by decide +kernel, by decide +kernel, ⟨rfl, rfl, by decide +kernel⟩, rfl, by decide, by decide, rfl⟩

theorem witness_RemoteRegisterWrites :
    (let s := solo (thread [0x1FFFFFF]); s.Ready [xplace 1, (SOpd.r 2).place] [] ∧ s.guarded 0 = true ∧
      Fld (s.readX 1) 63 25 = 0 ∧ s.acquiring s.cur = false) ∧
    (let s := flying (.regPut 16 0 31 5 0);
      s.item 0 = some (.regPut 16 0 31 5 0) ∧ (∀ p ∈ s.flight, 0 ≤ p.1) ∧ s.arrived 0 = true ∧
      s.namesSlot 0 = true ∧ (s.th 0).slot ≠ .vacant ∧ (s.th 0).slot ≠ .saved ∧ (s.th 0).tenant = 0 ∧ (s.th 0).tenant ≠ 1) ∧
    (let s := flying (.regPut 16 15 31 5 0); s.arrived 0 = true ∧ s.namesSlot 15 = false) ∧
    (let s : State := { flying (.regPut 16 0x8000 31 5 0) with dies := [(0, { packets := [parcel [0] 3] })] }; s.arrived 0 = false) ∧
    (let s := flying (.regPut 16 1 31 5 0); s.namesSlot 1 = true ∧ (s.th 1).slot = .vacant) :=
  ⟨⟨ready _ _ _ rfl, by decide +kernel⟩, by decide +kernel⟩

/-! ### Tasks, barriers, gangs, embers and registers -/

/-- Core 0 with task queues. -/
def queued (ready : List Task) (sleepers : List Sleeper := []) (owner : Option Nat := none) (r : List Word := [9, 7]) : State :=
  { solo (thread r) with cores := [(0, { ready := ready, sleepers := sleepers, tasksOwner := owner })] }

theorem witness_Tasks :
    (let s := queued []; s.Ready [xplace 1, xplace 2] [xplace 3, xplace 4] ∧ s.guarded 0 = true ∧ isHob s.cid = false ∧
      (∀ o, (s.core s.cid).tasksOwner = some o → o = s.src.groupNo) ∧ (s.core s.cid).ready = [] ∧ (s.core s.cid).sleepers = [] ∧
      Fld (s.readX 2) 63 16 = 0 ∧ s.readX 2 ≠ 0 ∧ s.readX 5 = 0 ∧ (s.core s.cid).sleepers.length < 32) ∧
    (let s := hob [9, 7]; s.Ready [xplace 1, xplace 2] [xplace 3, xplace 4] ∧ isHob s.cid = true) ∧
    (let s := queued [] [] (some 5); (s.core s.cid).tasksOwner = some 5 ∧ 5 ≠ s.src.groupNo) ∧
    (let s := queued (List.replicate 31 ⟨3, 9⟩) [] (some 0); let k := s.core s.cid;
      k.ready.countP (fun t => decide (t.cls = 3)) < 32 ∧ k.sleepers = [] ∧ firstTask k.ready = some ⟨3, 9⟩ ∧ k.ready ≠ []) ∧
    (let s := queued (List.replicate 32 ⟨3, 9⟩); 32 ≤ (s.core s.cid).ready.countP fun t => decide (t.cls = 3)) ∧
    (let s := queued [] (List.replicate 31 ⟨7, 9, 3, false⟩); (s.core s.cid).sleepers.length < 32) ∧
    (let s := queued [] (List.replicate 32 ⟨7, 9, 3, false⟩); 32 ≤ (s.core s.cid).sleepers.length) ∧
    firstTask [⟨0, 0⟩, ⟨3, 9⟩] = some ⟨3, 9⟩ ∧
    (let l : List Task := [⟨2, 0⟩, ⟨2, 0xFFFFFFFFFFFF⟩, ⟨2, 9⟩, ⟨1, 3⟩]; firstTask l = some ⟨2, 0xFFFFFFFFFFFF⟩ ∧
      ∀ y ∈ l, y.word.toNat % 2 ^ 48 = 0 ∨ (y.word.toNat % 2 ^ 48 + 2 ^ 48 - (0xFFFFFFFFFFF0 : Nat) % 2 ^ 48) % 2 ^ 48 < 2 ^ 47) ∧ Fld (solo (thread [0xFFFFFFFFFFFF])).me.sys.timer 63 48 = 0 ∧
    (let s := solo (thread [0xFFFFFFFFFFFF]); s.Ready [xplace 1] [xplace 2] ∧ Fld (s.readX 1) 63 48 = 0) :=
  ⟨⟨ready _ _ _ rfl, rfl, by decide, fun o h => (nomatch (show (none : Option Nat) = some o from h)), rfl, rfl, by decide, by decide,
    rfl, by decide⟩, ⟨ready _ _ _ rfl, by decide⟩, by decide, by decide +kernel, by decide +kernel, by decide, by decide, by decide,
    by decide, by decide, ready _ _ _ rfl, by decide⟩

/-- Barrier 15 of the core as tenant 0 has it. -/
def core15 : Nat := barrierKey .core 0 0 15

/-- Thread 0 with that context. -/
def atBarrier (b : Barrier) (r : List Word := []) : State := { solo (thread r) with barriers := [(core15, b)] }

/-- An INITIALISED context of group 0, which needs `need` arrivals and has had `cur` and `next`. -/
def barred (need cur next : Nat) : Barrier := { init := true, gen := 0xFFFF, members := [⟨0, 0, need, cur, next, 0⟩] }

theorem witness_Barriers :
    (let s := atBarrier (barred 2 1 0) [0x8000000000000000, 0x10000, 0xFFFF]; s.Ready [] [xplace 1] ∧ s.Ready [xplace 1] [] ∧
      s.guarded 0 = true ∧ Scope.core ≠ Scope.sys ∧ barrierKey .core (instanceOf .core s.cid) s.src.tenant 15 = core15 ∧
      s.arrival core15 = .ticket 0xFFFF (barred 2 2 0) ∧ (s.barrier core15).init = true ∧
      (s.barrier core15).member (pkgOf s.cid) s.src.groupNo = some ⟨0, 0, 2, 1, 0, 0⟩ ∧ s.readX 1 = 0x8000000000000000 ∧
      s.readX 2 ≠ 0x8000000000000000 ∧ Fld (s.readX 2) 63 16 ≠ 0 ∧ Fld (s.readX 3) 63 16 = 0) ∧
    (atBarrier { barred 2 1 0 with members := [⟨0, 5, 2, 1, 0, 0⟩] }).arrival core15 = .notMember ∧
    (atBarrier (barred 2 2 2)).arrival core15 = .full ∧
    ((atBarrier (barred 2 2 1)).barrier core15).member 0 0 = some ⟨0, 0, 2, 2, 1, 0⟩ ∧
    (let s := atBarrier (barred 1 1 0); (s.barrier core15).init = true ∧ (s.barrier core15).members ≠ [] ∧
      ∀ m ∈ (s.barrier core15).members, 0 < m.cur ∧ m.need ≤ m.cur ∧ m.next = 0) ∧
    (let s := { atBarrier (barred 2 1 0) [0x2FFC0] with mem := insert [] (keyLocal 0 0x2FFC7) 0x80 };
      s.Ready [xplace 1] [xplace 2] ∧ s.Open ∧ (s.readX 1).toNat + 64 ≤ 0x30000 ∧ (s.readX 1).toNat % 64 = 0 ∧
      s.plainWords (s.readX 1).toNat (keyLocal s.cid (s.readX 1).toNat) 8 = .ok (0x8000000000000000 :: List.replicate 7 0) ∧
      ((0x8000000000000000 :: List.replicate 7 0 : List Word).any badMember = true) ∧
      ∃ m ∈ (s.barrier core15).members, 0 < m.cur) ∧
    (let s := { atBarrier {} [0x2FFC0] with poison := [keyLocal 0 0x2FFF8 / 8] };
      s.plainWords (s.readX 1).toNat (keyLocal s.cid (s.readX 1).toNat) 8 = .error (.trap 0x0B 0x2FFF8)) ∧
    (let s := mapped; s.readsNow (keyLocal 0 0x1000) 8 = true ∧
      forward s.hidden s.src.sb s.serial [(keyLocal 0 0x1000, 8)] = .none) ∧
    (let ws : List Word := 0x8000000000000001 :: List.replicate 7 0;
      (ws.any badMember || repeated (ws.filterMap memberOf)) = false ∧ ws.filterMap memberOf ≠ [] ∧
      (let ms := (List.replicate 8 (0 : Word)).filterMap memberOf; ms = [] ∧ (List.replicate 8 (0 : Word)).any badMember = false) ∧
      ∀ m ∈ (barred 4096 0 0).members, m.cur = 0 ∧ m.next = 0) ∧
    (let t := { thread [] with slot := .parked, park := .barrier core15 0xFFFE };
      let s := { atBarrier (barred 2 1 0) with threads := [(0, t)] }; (s.th 0).park = .barrier core15 0xFFFE ∧ (s.th 0).slot ≠ .saved ∧
      ticketPassed (BitVec.ofNat 16 0xFFFE) ((s.barrier core15).genOf (pkgOf (cidOf 0)) (s.th 0).groupNo) = true) ∧
    ticketPassed (BitVec.ofNat 16 0xFFFF) ((atBarrier (barred 2 1 0)).barrier core15 |>.genOf 0 0) = false :=
  ⟨⟨ready _ _ _ rfl, ready _ _ _ rfl, by decide +kernel⟩, by decide +kernel, by decide +kernel, by decide +kernel, by decide +kernel,
    ⟨ready _ _ _ rfl, ⟨rfl, rfl⟩, by decide, by decide, is (by decide +kernel), by decide, by decide +kernel⟩, is (by decide +kernel),
    by decide +kernel, by decide +kernel, by decide +kernel, by decide +kernel⟩

/-- Thread 0 of core 7, whose gang of eight wraps round its row, with seven followers. -/
def gangRow (park : Park) : State :=
  let f := { thread [] with slot := SlotState.parked, park := park }
  { State.reset with cur := 112, threads := ((List.range 7).map fun j => (j * 16, f)) ++ [(112, thread [])] }

/-- The same thread already in a gang. -/
def ganged : State := onCore 7 { thread [] with gang := some ⟨112, 0, 2⟩ }

theorem witness_Gangs :
    (let s := gangRow .gangw; s.guarded 0 = true ∧ isHob s.cid = false ∧ s.src.gang = none ∧ s.me.gang = none ∧
      ∀ j, j < 8 → (if j = 0 then s.src.gang.isSome
        else !s.followerOk s.cur ((s.cid / 8 * 8 + (s.cid % 8 + j) % 8) * 16 + slotOf s.cur)) = false) ∧
    (let s := gangRow .sleep; ∃ j, j < 2 ∧ (if j = 0 then s.src.gang.isSome
        else !s.followerOk s.cur ((s.cid / 8 * 8 + (s.cid % 8 + j) % 8) * 16 + slotOf s.cur)) = true) ∧
    (hob.guarded 0 = true ∧ isHob hob.cid = true) ∧
    (ganged.src.gang = some ⟨112, 0, 2⟩ ∧ ganged.me.gang = some ⟨112, 0, 2⟩) := by decide +kernel

theorem witness_Embers :
    (base.Ready [] [xplace 2] ∧ base.guarded 0 = true) ∧ isHob hob.cid = true ∧ (0 : Nat) < 1 ∧
    base.overdrawn 0 = false ∧ (pkgOf (cidOf 5) = 0 ∧ base.isActive 5 = false) ∧ (16 % 17 = 16 ∧ 15 % 17 ≠ 16) ∧
    ((base.pkg 0).service.secmode ≠ 3 ∧ (base.pkg 0).around.alarm = false) ∧
    (let s : State := { base with pkgs := [(0, { around := { alarm := true } })] };
      (s.pkg 0).service.secmode ≠ 3 ∧ (s.pkg 0).around.alarm = true) ∧
    (let watts (v : Word) : State := { base with time := 1000000, pkgs := [(0, { around := { pin := v } })] };
      2200 < Fld ((watts 0x089900000000).pkg 0).around.pin 47 32 ∧ Fld ((watts 0x089800000000).pkg 0).around.pin 47 32 ≤ 2200 ∧
      2090 ≤ Fld ((watts 0x082A00000000).pkg 0).around.pin 47 32 ∧ Fld ((watts 0x082900000000).pkg 0).around.pin 47 32 < 2090 ∧
      1000000 ≤ ((watts 0).time.toNat + 2 ^ 48 - ((watts 0).pkg 0).around.coolAt) % 2 ^ 48 ∧
      (base.time.toNat + 2 ^ 48 - (base.pkg 0).around.coolAt) % 2 ^ 48 < 1000000) ∧
    ({ opthr0 := 1 } : Bellows).badThr = true := by
  refine ⟨⟨ready _ _ _ rfl, rfl⟩, ?_, ?_, ?_, ?_, ?_, ?_, ?_, ?_, ?_⟩
  all_goals decide +kernel

theorem witness_SystemRegisters :
    (base.Ready [xplace 1] [xplace 2] ∧ base.guarded 0 = true ∧ base.src.sup = false ∧ isHob base.cid = false) ∧
    (¬((0x15 : Nat) ≤ 0x14 ∨ (0x15 : Nat) = 0x20 ∨ (0x15 : Nat) = 0x21 ∨ (0x15 : Nat) = 0x22)) ∧
    (hob.Ready [xplace 1] [xplace 2] ∧ isHob hob.cid = true ∧ hob.src.sup = true ∧ hob.movingWindow hob.cur = false) ∧
    (solo { thread [] with windowFault := some (4, 0) , walk := some 0, wait := none }).src.windowFault = some (4, 0) ∧
    ({ base with flight := [(0, .walk ⟨0, 0, 0, 0, false, 0, 0, accSpill, none⟩)] } : State).movingWindow 0 = true :=
  ⟨⟨ready _ _ _ rfl, rfl, rfl, rfl⟩, by decide, ⟨ready _ _ _ rfl, by decide, by decide, by decide +kernel⟩, by decide,
    by decide +kernel⟩

/-- A core in supervisor mode with two words at the end of its local store. -/
def descriptor (w : List Byte) : State :=
  { solo (thread [0x2FFF0] 0x80000000) with mem := w.zipIdx.foldl (fun m x => insert m (keyLocal 0 0x2FFF0 + x.2) x.1) [] }

/-- A trace ring of 64 KiB in stacked DRAM that has `used` words. -/
def tracing (used : Nat) : State :=
  { solo (thread [] 0x80000000) with pkgs := [(0, { service := { trbase := 0x8000000000000001, trsize := 0x10000, trctl := 1, trtail := 8 * used } })] }

theorem witness_SegmentsAndTrace :
    (let s := solo (thread [0x2FFF8]); s.Ready [xplace 1] [] ∧ s.guarded 0 = true ∧ s.Open ∧ s.src.sup = false ∧
      ¬((s.readX 1).toNat + 16 ≤ 0x30000 ∧ (s.readX 1).toNat % 16 = 0)) ∧
    (let s := { descriptor [0x1F] with threads := [(0, thread [0x2FFF0])] }; s.Ready [xplace 1] [] ∧ s.Open ∧ s.src.sup = false ∧
      s.plainWords 0x2FFF0 (keyLocal s.cid 0x2FFF0) 2 = .ok [0x1F, 0]) ∧
    (let s := descriptor [0x1F]; s.Open ∧ s.src.sup = true ∧ (s.readX 1).toNat + 16 ≤ 0x30000 ∧ (s.readX 1).toNat % 16 = 0 ∧
      s.plainWords (s.readX 1).toNat (keyLocal s.cid (s.readX 1).toNat) 2 = .ok [0x1F, 0]) ∧
    (let s := descriptor [0x40]; s.plainWords (s.readX 1).toNat (keyLocal s.cid (s.readX 1).toNat) 2 = .ok [0x40, 0] ∧
      Fld (0x40 : Word) 15 6 ≠ 0) ∧
    (let s := { descriptor [0x1F] with poison := [keyLocal 0 0x2FFF8 / 8] };
      s.plainWords (s.readX 1).toNat (keyLocal s.cid (s.readX 1).toNat) 2 = .error (.trap 0x0B 0x2FFF8)) ∧
    (let s := solo (thread [0x2FFF0, 0x40000000]);
      s.near (s.readX 1) 8 8 .store = .ok ⟨keyLocal 0 0x2FFF0, false⟩ ∧
      s.near (s.readX 1 + 8) 8 8 .store = .ok ⟨keyLocal 0 0x2FFF8, false⟩ ∧ s.Open ∧ s.src.sb.length < 15 ∧
      s.near (s.readX 2) 8 8 .store = .ok ⟨keyLocal 0 0, true⟩ ∧ s.near (s.readX 2 + 8) 8 8 .store = .ok ⟨keyLocal 0 8, true⟩ ∧
      s.acquiring s.cur = false) ∧
    (base.Ready [(SOpd.r 1).place] [] ∧ base.src.sup = false) ∧
    (let s := solo (thread [] 0x80000000); s.Ready [(SOpd.r 1).place] [] ∧ s.guarded 0 = true ∧ s.src.sup = true ∧
      (s.pkg 0).service.trctl.getLsbD 0 = false) ∧
    (tracing 0).src.sup = true ∧
    (let v := ((tracing 0).pkg 0).service; v.trctl.getLsbD 0 = true ∧ v.trtail % 8 = 0 ∧ v.trdrop = 0 ∧
      ∃ k n, v.ring 0 = some (k, n) ∧ k + n ≤ 2 ^ 50 ∧ 3 ≤ v.free n) ∧
    ((tracing 0).locks = [] ∧ ∀ q ∈ (tracing 0).deferred, q.1 ∉ (tracing 0).poison) ∧
    (let v := ((tracing 8189).pkg 0).service; ∃ k n, v.ring 0 = some (k, n) ∧ v.free n < 3) ∧
    16 ≤ (solo { thread [] with ranges := List.replicate 16 7 }).src.ranges.length ∧
    (let s := solo { thread [] with ranges := List.replicate 15 7 }; s.src.ranges.length < 16 ∧ s.src.overflow = 0 ∧
      s.src.ranges.getLast? = some 7 ∧ s.Ready [] [xplace 1]) ∧
    ((solo { thread [] with overflow := 1 }).src.overflow ≠ 0 ∧ base.src.ranges = []) :=
  ⟨⟨ready _ _ _ rfl, rfl, ⟨rfl, rfl⟩, rfl, by decide⟩, ⟨ready _ _ _ rfl, ⟨rfl, rfl⟩, rfl, is (by decide +kernel)⟩,
    ⟨⟨rfl, rfl⟩, by decide, by decide, by decide, is (by decide +kernel)⟩, ⟨is (by decide +kernel), by decide⟩,
    is (by decide +kernel), ⟨is (by decide +kernel), is (by decide +kernel), ⟨rfl, rfl⟩, by decide, is (by decide +kernel), is (by decide +kernel), rfl⟩,
    ⟨ready _ _ _ rfl, rfl⟩, ⟨ready _ _ _ rfl, rfl, by decide, by decide⟩, by decide,
    ⟨by decide, by decide, by decide, 0x1000, 0x10000, by decide +kernel⟩, by decide, ⟨0x1000, 0x10000, by decide +kernel⟩,
    by decide, ⟨by decide, rfl, by decide, ready _ _ _ rfl⟩, by decide, rfl⟩

/-- A store's walk for address 0 of thread 0's cluster, whose tables end in `leaf`, with root `root`. -/
def walking (root leaf : Word) (acc : Nat := accStore) : State :=
  let w : Walk := ⟨0, 0, 0, 0, false, 0, 0, acc, none⟩
  let put (m : List Host.Cell) (k : Nat) (v : Word) := (toBytes 8 v.toNat).zipIdx.foldl (fun m x => store 0 m (k + x.2) x.1) m
  { flying (.walk w) { thread [] with walk := some 0, wait := some ⟨.mem, 1, none, none⟩ } with
    clusters := [(0, { roots := [(0, root)] })], mem := put (put [] 0x1000 0xC000000000000002) 0x2000 leaf }

/-- The walk of `walking`. -/
def storeWalk : Walk := ⟨0, 0, 0, 0, false, 0, 0, accStore, none⟩

/-- A request of thread 0 that the engine is at, and the walk of its first write. -/
def wanting : Req :=
  { tid := 0, tenant := 0, grp := none, deadline := 0, det := false, w0 := 0, w1 := 0, w2 := 0, w3 := 0, idx := 0,
    src := .near (keyLocal 0 0) 0x30000, dst := .far false 0 0x10000 0, pos := 0, done := 0, exc := 0, bad := 0, pause := .walk,
    fail := false, since := 0 }
def engWalk : Walk := ⟨0, 0, 0, 0, false, 0, 0, accEngWrite, some 1⟩

theorem witness_PagingServices :
    (let s := walking 0xC000000000000001 0x800000000000000F; s.item 0 = some (.walk storeWalk) ∧
      s.walkTable storeWalk = .leaf 0x2000 0x800000000000000F ∧ s.poison.contains (0x2000 / 8) = false) ∧
    (let s := { walking 0xC000000000000001 0x800000000000000F with flight := [(0, .walk engWalk), (1, .engine 0 wanting)], serial := 2 };
      s.item 0 = some (.walk engWalk) ∧ s.walkTable engWalk = .leaf 0x2000 0x800000000000000F ∧ engWalk.eng = some 1 ∧
        s.item 1 = some (.engine 0 wanting)) ∧
    (let s := { walking 0 0 with flight := [(0, .walk engWalk), (1, .engine 0 wanting)], serial := 2 };
      s.item 0 = some (.walk engWalk) ∧ s.walkTable engWalk = .fault 0 ∧ s.item 1 = some (.engine 0 wanting)) ∧
    (walking 0xC000000007FFFFFF 0).walkTable storeWalk = .noFrame ∧
    (let s := walking 0 0; s.walkTable storeWalk = .fault 0 ∧ s.walkWanted 0 storeWalk = true) ∧
    ((0 : Word).getLsbD 63 = false ∧ (0x8000000000000010 : Word).getLsbD 63 = true ∧ Fld (0x8000000000000010 : Word) 5 4 ≠ 0 ∧
      Fld (0xE000000000000000 : Word) 62 61 = 3 ∧ Fld (0x8010000000000000 : Word) 59 52 ≠ 0 ∧
      (0x8000000000000001 : Word).getLsbD 1 = false ∧ leafRights 0x800000000000000F accStore = true) ∧
    (let s : State := { hob with threads := [(1024, thread [])], flight := [(0, .fault storeWalk 0)], serial := 1 };
      let pager := (storeWalk.clid * 128 + 64 + storeWalk.va / 2 ^ 21 % 2) * 16;
      s.item 0 = some (.fault storeWalk 0) ∧ s.namesSlot pager = true ∧ (s.th pager).slot ≠ .vacant ∧
      (s.th pager).slot ≠ .saved ∧ (s.th pager).exited = false ∧ (s.core (cidOf pager)).inbox.length < 64 ∧
      s.arrived 0 = true ∧ ∀ p ∈ s.flight, 0 ≤ p.1) ∧
    (let s := hob [0x20000, 0x800, 0x40000]; s.Ready [xplace 1] [] ∧ s.guarded 0 = true ∧ isHob s.cid = true ∧
      Fld (s.readX 1) 63 18 = 0 ∧ s.src.sup = true ∧ (pkgOf s.cid * 2 ^ 17 + Fld (s.readX 1) 16 0) / 2048 = s.cid / 128 ∧
      (pkgOf s.cid * 2 ^ 17 + Fld (s.readX 2) 16 0) / 2048 ≠ s.cid / 128 ∧ Fld (s.readX 3) 63 18 ≠ 0) ∧
    ((onCore 64 (thread [])).src.sup = false ∧ isHob base.cid = false) ∧
    (let s := flying (.pager 0 true false) { thread [] with slot := .parked, park := .page 64 };
      s.item 0 = some (.pager 0 true false) ∧ (s.th 0).park = .page 64 ∧ (s.th 0).slot = .parked) ∧
    ((flying (.pager 0 true false)).th 0).park = .none ∧
    (let s := hob [0xFF8FFFFFFFFF0000, 0xFFFF]; s.Ready [xplace 1] [] ∧ s.src.sup = true ∧
      ¬(Scope.pod = .core ∨ Scope.pod = .quad ∨ Scope.pod = .sys ∨ Fld (s.readX 1) 53 52 ≠ 0 ∨ Fld (s.readX 1) 15 0 ≠ 0) ∧
      Fld (s.readX 2) 15 0 ≠ 0) ∧
    (let s := { mapped with flight := [(0, .tlbi 0 0x0040000000000000 .cluster (some 1))], serial := 2 };
      s.item 0 = some (.tlbi 0 0x0040000000000000 .cluster (some 1)) ∧ (∀ p ∈ s.threads, ∀ e ∈ p.2.sb, 1 ≤ e.id)) ∧
    (let a : Access := ⟨0, .add, true, 64, none, 64, 8, 5, .reg 2, 0, false⟩;
      let s := { mapped with flight := [(0, .tlbi 0 0x0040000000000000 .cluster (some 2)), (1, .access a)], serial := 2 };
      s.item 0 = some (.tlbi 0 0x0040000000000000 .cluster (some 2)) ∧ a.far = true ∧ (s.th a.tid).tenant = Fld (0x0040000000000000 : Word) 63 56 ∧
        instanceOf .cluster (cidOf a.tid) = instanceOf .cluster (cidOf 0) ∧ ¬ 2 ≤ (1 : Nat)) ∧
    (let s := { mapped with flight := [(0, .tlbi 0 0x0040000000000000 .cluster none)], serial := 1 };
      s.item 0 = some (.tlbi 0 0x0040000000000000 .cluster none) ∧
      instanceOf .cluster (0 * 128) = instanceOf .cluster (cidOf 0) ∧ instanceOf .cluster (1 * 128) ≠ instanceOf .cluster (cidOf 0) ∧
      ∃ e ∈ (s.cluster 0).tu, e.tenant = 0 ∧ e.pod = false) :=
  ⟨by decide +kernel, by decide +kernel, by decide +kernel, by decide +kernel, by decide +kernel,
    by decide +kernel, by decide +kernel, ⟨ready _ _ _ rfl, by decide +kernel⟩, by decide +kernel, by decide +kernel,
    by decide +kernel, ⟨ready _ _ _ rfl, by decide +kernel⟩, by decide +kernel, by decide +kernel, by decide +kernel⟩

/-- Four register windows, `res` resident of `depth`, spilled through SEG7 to frame 0 of the die's DRAM. -/
def spilling (res depth : Nat) (rights : Word := 0x1F) : State :=
  let t := (windows res depth).th 0
  { solo { t with wait := some onMemory, sys := { t.sys with wlim := 0x280 }, segs := t.segs.set 7 (rights, 0x10000) } with
    clusters := [(0, { tu := [⟨0, false, false, 0, 2 ^ 20, 0x800000000000000F, true⟩] })] }

theorem witness_ErrorsAndWindowMoves :
    ((48 * 2 ^ 30 - 1 : Nat) < 2 ^ 50 ∧ farExists (48 * 2 ^ 30 - 1) = true) ∧
    (let s : State := { base with deferred := [(word, [sync .ste])] }; s.deferred = [(word, [sync .ste])] ∧ (sync .ste).op = .ste ∧ word ∉ s.poison) ∧
    (let s : State := { base with deferred := [(word, [sync .ldf])] }; s.deferred = [(word, [sync .ldf])] ∧ (sync .ldf).op = .ldf ∧ word ∉ s.poison ∧
      (∀ q ∈ s.deferred, q.1 / 8 ≠ 64 / 64) ∧ (∀ q ∈ s.deferred, q.1 ≠ keyLocal 0 8 / 8) ∧
      keyLocal 0 0 / 8 ∈ ({ s with poison := [keyLocal 0 0 / 8] } : State).poison) ∧
    ((2 : Nat) ^ 50 ≤ keyLocal 0 0 ∧ keyLocal 8191 0x2FFFF < 2 ^ 53) ∧ ((2 ^ 14 - 1 : Nat) < 2 ^ 14 ∧ (63 : Nat) < 2 ^ 36) ∧
    (let s := spilling 3 3; let t := s.th 0; let y := t.sys; t.movesWindows = true ∧ ((t.issuing && t.wait.isNone) || t.wait.any fun w => decide (w.ring = some 8)) = false ∧ 0 < y.res ∧ y.res ≤ y.depth ∧
      y.frames ≤ y.res + 1 ∧ (∀ x ∈ (s.cluster (clidOf (cidOf 0))).tu, x.dirty = true) ∧
      s.frameAccess 0 (y.frameEa (y.depth - y.res)) true = .ok 0 ∧ s.cutOff (cidOf 0) t.tenant [(0, 128)] = [] ∧ s.locks = [] ∧
      (∀ q ∈ s.deferred, 2 ^ 50 ≤ q.1 * 8) ∧ s.unlinked 0 (servedIn 0 0) = false ∧ s.linkFailed 0 (servedIn 0 0) = false) ∧
    (let s := spilling 3 3 0; let y := (s.th 0).sys;
      s.frameAccess 0 (y.frameEa (y.depth - y.res)) true = .error (.trap 0x04 0xE000000000000000)) ∧
    (let y := ((spilling 2 2).th 0).sys; y.res + 1 < y.frames) ∧
    (let s := spilling 1 3; let t := s.th 0; let y := t.sys; t.movesWindows = true ∧ y.res < y.depth ∧
      y.res < min 2 (y.frames - 2) ∧ frameKey (cidOf 0) y (y.depth - y.res - 1) % 8 = 0 ∧
      (∀ i, i < 128 → s.hidden (frameKey (cidOf 0) y (y.depth - y.res - 1) + i) = false) ∧
      s.frameAccess 0 (y.frameEa (y.depth - y.res - 1)) false = .ok 128 ∧ s.cutOff (cidOf 0) t.tenant [(128, 128)] = [] ∧
      s.unlinked 0 (servedIn 0 128) = false ∧ s.linkFailed 0 (servedIn 0 128) = false) ∧
    (let y := ((spilling 2 3).th 0).sys; min 2 (y.frames - 2) ≤ y.res ∧ 0 < y.res) :=
  ⟨by decide +kernel, by decide, by decide +kernel, by decide +kernel, by decide, ⟨by decide, by decide, by decide, by decide, by decide,
    by decide, is (by decide +kernel), by decide +kernel⟩, is (by decide +kernel), by decide,
    ⟨by decide, by decide, by decide, by decide, by decide +kernel, is (by decide +kernel), by decide +kernel⟩, by decide⟩

/-! ### Moves, engines and the matrix unit -/

/-- A move of thread 0 into the scratchpad with token g1. -/
def move (rows len : Nat) (refused : Bool := false) : Move := 
  ⟨0, 0, 0, 1, rows, len, keyCluster 0 0x4000, keyCluster 0 0, 8, 8, refused, 0x4000⟩

/-- A conversion of thread 0 from F4 rows of 64 bytes. -/
def plane : Plane := ⟨0, 0, 0, 1, 0, 2, false, 0, 64, keyLocal 0 0, keyCluster 0 0, 0, 0, false, 0, 0⟩

/-- The layout of an F4 tile (06 R115). -/
def f4Tile : Layout := ⟨[0x800], 2, 0x1000, 2, 0x2000, 0x3000, 1, 2⟩

/-- The scratchpad is no local store, so no ring's head hides a byte of it. -/
theorem shown (s : State) (a : Nat) (h : 2 ^ 51 ≤ a) (h' : a < 2 ^ 66) : s.hidden a = false := by
  have : isLocalKey a = false := by simp [isLocalKey]; omega
  simp [State.hidden, this]

/-- Thread 0 with stamp 1 given to `x`, and an older store in its buffer. -/
def undrained (x : Item) : State :=
  { solo { thread [] with sb := [⟨0, 0, false, false, .bytes 0 [1] none, 0, false⟩] } with flight := [(1, x)], serial := 2 }

theorem witness_TileMovesAndPlanes :
    (let s := solo (thread [0, 0x1000, 0xFF00000000800002]); let h := s.readX 3;
      s.Ready [xplace 1, xplace 2, xplace 3] [] ∧ s.Ready [] [xplace 4] ∧
      ¬(badEndpoint (s.readX 1) = true ∨ badEndpoint (s.readX 2) = true ∨ h.getLsbD 0 = true) ∧
      (let n := (Fld h 63 56 + 1 - 1) * (8 * Fld h 44 23) + 8 * (Fld h 55 45 + 1);
        endKey s.cid (s.readX 1) n .store = some (keyLocal 0 0) ∧ endKey s.cid (s.readX 2) n .load = some (keyLocal 0 0x1000) ∧
        endPrivileged s.cid (s.readX 1) n = false ∧ endPrivileged s.cid (s.readX 2) n = false ∧
        ¬((1 < Fld h 63 56 + 1 ∧ 8 * Fld h 44 23 < 8 * (Fld h 55 45 + 1)) ∨
          (keyLocal 0 0 < keyLocal 0 0x1000 + n ∧ keyLocal 0 0x1000 < keyLocal 0 0 + n)) ∧
        endKey s.cid (s.readX 1) n .load = some (keyLocal 0 0)) ∧
      Fld (s.readX 1) 31 0 % 8 = 0 ∧ Fld (s.readX 2) 31 0 % 8 = 0 ∧ s.acquiring s.cur = false ∧ s.moves s.cur < 8) ∧
    (let s := solo (thread [0xFFFFFFF8, 1]); endKey s.cid (s.readX 1) 8 .store = none ∧ s.moves s.cur < 8 ∧ s.acquiring s.cur = false ∧ (s.readX 2).getLsbD 0 = true ∧
      endPrivileged s.cid (s.readX 1) 8 = false ∧ endPrivileged s.cid 0x41000000 8 = true ∧ endPrivileged s.cid 0x40FFFFF8 8 = false ∧
      endPrivileged s.cid 0x40FFFFF8 16 = true) ∧
    (let s : State := { base with flight := (List.range 8).map fun i => (i, .move (move 1 8)) }; 8 ≤ s.moves s.cur) ∧
    (let s := solo (thread [0x80000000, 0, 0x0000000800000000, 0x0000400080000000, 0x0000500000000000, 0x0020000800000000,
        0x7000000000000000, 0x0040000800000000] 0x80000000);
      s.Ready [xplace 1, xplace 2, xplace 3] [] ∧ s.Ready [] [xplace 9] ∧ badPlane (s.readX 7) = true ∧ badPlane (s.readX 3) = false ∧
      s.src.sup = true ∧ isHob s.cid = false ∧
      descFmt (Fld (s.readX 3) 63 60) = some .f4 ∧ Fld (s.readX 3) 54 53 = 0 ∧ Fld (s.readX 1) 31 0 % 2048 = 0 ∧
      Fld (s.readX 2) 31 0 % 8 = 0 ∧ (∃ l ∈ layout .f4, matRegion s.cid (Fld (s.readX 1) 31 0) l.size = .ok (keyCluster 0 0) ∧
        tileRange s.cid (Fld (s.readX 2) 31 0) (127 * (8 * Fld (s.readX 3) 52 32) + 16 * fmtWidth .f4) .load = some (keyLocal 0 0) ∧
        overlap (keyCluster 0 0) l.size (keyLocal 0 0) (127 * (8 * Fld (s.readX 3) 52 32) + 16 * fmtWidth .f4) = false) ∧
      s.acquiring s.cur = false ∧ s.moves s.cur < 8 ∧
      (badPlane (s.readX 6) = false ∧ Fld (s.readX 6) 54 53 = 1 ∧ badPlane (s.readX 8) = false ∧ Fld (s.readX 8) 54 53 = 2 ∧
        matRegion s.cid (Fld (s.readX 4) 63 32) 128 = .ok (keyLocal 0 0x4000) ∧
        tileRange s.cid (Fld (s.readX 5) 63 32) 128 .load = some (keyLocal 0 0x5000) ∧
        tileRange s.cid (Fld (s.readX 5) 63 32) 512 .load = some (keyLocal 0 0x5000) ∧ Fld (s.readX 4) 63 32 % 64 = 0)) ∧
    ((undrained (.move (move 1 8))).item 1 = some (.move (move 1 8)) ∧ (undrained (.move (move 1 8))).drained 0 1 = false) ∧
    (let x := move 256 8; let s := flying (.move x); s.item 0 = some (.move x) ∧ s.drained x.tid 0 = true ∧
      (s.th x.tid).slot ≠ .vacant ∧ 0 < s.serial ∧ x.refused = false ∧ s.locks = [] ∧ s.deferred = [] ∧
      x.tok < 32 ∧ x.src % 8 = 0 ∧ x.dst % 8 = 0 ∧ x.len % 8 = 0 ∧ x.sstr % 8 = 0 ∧ x.dstr % 8 = 0 ∧
      (1 < x.rows → x.len ≤ x.dstr) ∧ ∀ a, x.dst ≤ a → a < x.dst + ((x.rows - 1) * x.dstr + x.len) →
        s.hidden a = false ∧ (a < x.src ∨ x.src + ((x.rows - 1) * x.sstr + x.len) ≤ a)) ∧
    (let s := flying (.move (move 1 8 true)); s.item 0 = some (.move (move 1 8 true)) ∧ s.drained 0 0 = true ∧ 0 < s.serial) ∧
    (let s : State := { flying (.plane { plane with src := keyDie 0 0 }) with dies := [(0, { members := (List.range 512).map fun i => (i, 0) })] };
      s.cutOff 0 0 (({ plane with src := keyDie 0 0 } : Plane).reads .f4) ≠ [] ∧
      inRuns (s.cutOff 0 0 [(keyDie 0 0, 8)]) (keyDie 0 0) = true ∧ s.cutOff 0 0 [(keyCluster 0 0, 8)] = []) ∧
    (let s := flying (.plane plane); s.item 0 = some (.plane plane) ∧ descFmt plane.fmt = some .f4 ∧ s.drained plane.tid 0 = true ∧
      s.cutOff (cidOf plane.tid) plane.tenant (plane.reads .f4) = [] ∧ 0 < s.serial ∧ s.locks = [] ∧ s.deferred = [] ∧ plane.sg = 0 ∧ (∃ l ∈ layout .f4, plane.d ≤ l.full) ∧ (s.th plane.tid).slot ≠ .vacant ∧ plane.tok < 32) ∧
    (undrained (.plane plane)).drained 0 1 = false :=
  ⟨⟨ready _ _ _ rfl, ready _ _ _ rfl, by decide +kernel⟩, by decide +kernel, by decide +kernel,
    ⟨ready _ _ _ rfl, ready _ _ _ rfl, by decide +kernel, by decide +kernel, by decide, by decide, by decide, by decide +kernel,
      by decide, by decide, ⟨f4Tile, rfl, is (by decide +kernel), by decide +kernel, by decide +kernel⟩, by decide, by decide, by decide +kernel,
      by decide +kernel, by decide +kernel, by decide +kernel, is (by decide +kernel), by decide +kernel, by decide +kernel,
      by decide⟩,
    by decide +kernel,
    ⟨by decide +kernel, by decide, by decide, by decide +kernel, by decide +kernel, rfl, rfl, by decide, by decide, by decide,
      by decide, by decide, by decide, by decide, fun a h1 h2 => ⟨shown _ a h1 (Nat.lt_trans h2 (by decide)), .inl (Nat.lt_of_lt_of_le h2 (by decide))⟩⟩,
    by decide +kernel, by decide +kernel, ⟨by decide +kernel, rfl, by decide, by decide +kernel, by decide, rfl, rfl, rfl, ⟨f4Tile, rfl, by decide⟩,
      by decide, by decide⟩, by decide⟩

/-- Words in the local store of core 0 from near address 0x1000 on. -/
def block (ws : List Word) : List Host.Cell :=
  (ws.map fun w => toBytes 8 w.toNat).flatten.zipIdx.foldl (fun m x => store 0 m (keyLocal 0 0x1000 + x.2) x.1) []

/-- Words of a BCPY of 64 bytes from near address 0x2000 to `b`, or with another word 0. -/
def copyWords (b : Word := 0x3000) (w0 : Word := 0x0500000000000007) : List Word := [w0, 0x2000, b, 64]

/-- What FLUE captures from those. -/
def request (w0 : Word := 0x0500000000000007) (w3 : Word := 64) (src : EndPt := .near (keyLocal 0 0x2000) (0x30000 - 0x2000))
    (dst : EndPt := .near (keyLocal 0 0x3000) (0x30000 - 0x3000)) (pos : Nat := 0) (path : List Hop := []) : Req :=
  { tid := 0, tenant := 0, grp := none, deadline := 0, det := false, w0 := w0, w1 := 0x2000, w2 := 0x3000, w3 := w3, idx := 0,
    src := src, dst := dst, pos := pos, done := 0, exc := 0, bad := 0, pause := .no, fail := false, since := 0, path := path }

/-- Core 0 with a block, and with `n` requests in its mailboxes. -/
def fluing (ws : List Word) (n : Nat) : State :=
  { solo (thread [0x1000]) with mem := block ws, cores := [(0, { mail := (List.range n).map fun i => (i, request) })] }

/-- The flue slot of core 0 with requests in its mailboxes and `n` engine commands in flight. -/
def flueSlot (mail : List (Nat × Req)) (n : Nat := 0) : State :=
  { State.reset with
    cur := 15, threads := [(15, thread [])], cores := [(0, { mail := mail })]
    flight := (List.range n).map fun i => (i, .engine 0 (request)), serial := n }

/-- Word 0 of a COLL of die scope with TMO 1, and word 3 with PCNT `n`. -/
def collReq (n : Nat) : Req := request 0x3060000008000000 (BitVec.ofNat 64 (n * 2 ^ 32))

/-- A copy within the scratchpad of cluster 0, which has translated an access or none. -/
def nearCopy (path : List Hop := []) : Req :=
  request 0x0500000000000007 64 (.near (keyCluster 0 0) 0x800000) (.near (keyCluster 0 0x1000) 0x7FF000) 0 path

/-- A GATH of one F32 element there, at index 0 of the list at key 0. -/
def gather (pos : Nat) (path : List Hop := []) : Req :=
  request 0x1504000000000000 0x100000000 (.near (keyCluster 0 0) 0x800000) (.near (keyCluster 0 0x1000) 0x7FF000) pos path

/-- An access of `n` bytes from the start of the scratchpad to 0x1000 there. -/
def nearHop (n : Nat) : Hop := { rd := [(keyCluster 0 0, n)], wr := [(keyCluster 0 0x1000, n)] }

/-- Two participants of a collective, the second with `f` done to it. -/
def meeting (f : Req → Req) : State :=
  { solo (thread []) with flight := [(0, .coll 0 (collReq 2) false), (1, .coll 128 (f (collReq 2)) false)], serial := 2 }

/-- They are the party, all drained and none frozen. -/
def met (s : State) : Bool :=
  let l := s.party ⟨0, 0, collReq 2, false⟩
  decide (s.item 0 = some (.coll 0 (collReq 2) false)) && decide (s.flight.map (·.1)).Nodup && (reqFmt (collReq 2).w0).isSome &&
    decide (reqPcnt (collReq 2).w3 ≤ l.length) && l.all fun y => !y.frozen && s.drained y.req.tid y.id

theorem witness_FlueAndEngines :
    (let s := fluing (copyWords) 3; s.Ready [.reg 1] [] ∧ s.guarded 0 = true ∧ (s.src.reg 1).toNat + 32 ≤ 0x30000 ∧
      (s.src.reg 1).toNat % 32 = 0 ∧ s.Open ∧
      s.plainWords (s.src.reg 1).toNat (keyLocal s.cid (s.src.reg 1).toNat) 4 = .ok (copyWords) ∧ s.capture (copyWords) = .ok (request) ∧
      (∀ p ∈ (s.core s.cid).mail, p.1 ≠ 3) ∧ (∀ m, m < 3 → ∃ p ∈ (s.core s.cid).mail, p.1 = m)) ∧
    (let s := { fluing (copyWords) 0 with poison := [keyLocal 0 0x1018 / 8] };
      s.plainWords (s.src.reg 1).toNat (keyLocal s.cid (s.src.reg 1).toNat) 4 = .error (.trap 0x0B 0x1018)) ∧
    (let ws := copyWords 0x30000; let s := fluing ws 0; s.plainWords (s.src.reg 1).toNat (keyLocal s.cid (s.src.reg 1).toNat) 4 = .ok ws ∧
      s.capture ws = .error (.trap 0x03 0x30000)) ∧
    (let ws := copyWords 0x3000 0x4000000000000000; let s := fluing ws 0;
      s.plainWords (s.src.reg 1).toNat (keyLocal s.cid (s.src.reg 1).toNat) 4 = .ok ws ∧ 4 ≤ Fld (ws.getD 0 0) 63 60) ∧
    (∀ m, m < 4 → ∃ p ∈ ((fluing (copyWords) 4).core 0).mail, p.1 = m) ∧
    (slotOf base.cur ≠ 15 ∧ base.Ready [] [xplace 1] ∧ base.acquiring base.cur = false) ∧
    (let s := flueSlot [(0, request), (1, collReq 17)]; slotOf s.cur = 15 ∧ s.Ready [] [xplace 1] ∧ s.acquiring s.cur = false ∧
      (∀ q ∈ (s.core s.cid).mail, s.saving s.cid q.2 = false) ∧ s.engines s.cid < 16 ∧
      (∀ q ∈ (s.core s.cid).mail, q.1 ≠ 2) ∧ (s.core s.cid).mail = (0, request) :: [(1, collReq 17)] ∧
      (∃ q ∈ (s.core s.cid).mail, q.1 = 1) ∧ reqOp (request).w0 = 0 ∧ reqOp (request).w0 ≠ 3) ∧
    16 ≤ (flueSlot [] 16).engines 0 ∧
    (let s := flueSlot [(3, collReq 17)]; reqOp (collReq 17).w0 = 3 ∧ s.liveClusters s.cid (collReq 17) < reqPcnt (collReq 17).w3 ∧
      reqPcnt (collReq 16).w3 ≤ s.liveClusters s.cid (collReq 16) ∧ (∀ q ∈ s.flight, q.1 ≠ s.serial) ∧ (s.flight.map (·.1)).Nodup) ∧
    ((15 : Nat) < 16 ∧ (request).done < 2 ^ 43) ∧
    (let s := flying (.engine 0 (request)); s.item 0 = some (.engine 0 (request)) ∧ (request).fail = false ∧
      (request).refused = false ∧ (request).pause = .no ∧ s.drained (request).tid 0 = true ∧ reqOp (request).w0 = 0) ∧
    (({ (request) with fail := true } : Req).fail = true ∧ ({ (request) with refused := true } : Req).refused = true ∧ ({ (request) with pause := .fault } : Req).pause ≠ .no ∧
      (undrained (.engine 0 (request))).drained 0 1 = false) ∧
    (let r := request 0x0500000000000007 64 (.near 0 0) (.near 0 0) 64; reqLen r.w3 ≤ r.pos ∧ r.path = []) ∧
    (let r := request 0x2504000000000000 0x100000000 (.near 0 8) (.near 0 0); let s := flying (.engine 0 r);
      s.item 0 = some (.engine 0 r) ∧ reqOp r.w0 = 2 ∧ reqFmt r.w0 = some .f32 ∧ r.pos < reqN r.w3 ∧
      s.cutOff 0 r.tenant (State.indexRun r) = [] ∧ s.indexAt r (fmtWidth .f32) r.dst = .none) ∧
    (let r := gather 0; let s := flying (.engine 0 r);
      s.item 0 = some (.engine 0 r) ∧ reqOp r.w0 = 1 ∧ reqFmt r.w0 = some .f32 ∧ r.pos < reqN r.w3 ∧
      s.cutOff 0 r.tenant (State.indexRun r) = [] ∧ r.src = .near (keyCluster 0 0) 0x800000 ∧
      r.dst = .near (keyCluster 0 0x1000) 0x7FF000 ∧ s.indexAt r (fmtWidth .f32) r.src = .elem 0 ∧
      ({ s with mem := [(0, 0xFF), (1, 0xFF), (2, 0xFF), (3, 0xFF)] } : State).indexAt r (fmtWidth .f32) r.src = .none) ∧
    (let r := gather 1 [nearHop 4]; let s := flying (.engine 0 r);
      s.item 0 = some (.engine 0 r) ∧ 8 ≤ fmtWidth .f32 ∧ reqN r.w3 ≤ r.pos ∧ r.path = [nearHop (fmtWidth .f32 / 8)] ∧
      s.packetsOf 0 = []) ∧
    (let s := flying (.engine 0 nearCopy); let r := nearCopy;
      s.item 0 = some (.engine 0 r) ∧ r.src = .near (keyCluster 0 0) 0x800000 ∧ r.dst = .near (keyCluster 0 0x1000) 0x7FF000 ∧
      r.path = [] ∧ r.pos < reqLen r.w3) ∧
    (let r := nearCopy [nearHop 64]; let s := flying (.engine 0 r); let sk := keyCluster 0 0; let dk := keyCluster 0 0x1000;
      s.item 0 = some (.engine 0 r) ∧ reqOp r.w0 = 0 ∧ r.path = [nearHop 64] ∧ sk + 64 ≤ 2 ^ 52 ∧ 2 ^ 50 ≤ sk ∧ dk + 64 ≤ 2 ^ 52 ∧
      2 ^ 50 ≤ dk ∧ s.packetsOf 0 = [] ∧ s.poison = [] ∧ s.locks = [] ∧ s.deferred = []) ∧
    (∀ i, i < 64 → (flying (.engine 0 (nearCopy [nearHop 64]))).hidden (keyCluster 0 0x1000 + i) = false) ∧
    (let s := meeting fun r => { r with w3 := r.w3 + 1 };
      met s = true ∧ disagree (s.party ⟨0, 0, collReq 2, false⟩) = true) ∧
    (let s := meeting fun r => { r with fail := true }; let l := s.party ⟨0, 0, collReq 2, false⟩;
      met s = true ∧ disagree l = false ∧ ∃ y ∈ l, y.req.fail = true) ∧
    (let s := meeting fun r => { r with refused := true }; let l := s.party ⟨0, 0, collReq 2, false⟩;
      met s = true ∧ disagree l = false ∧ (∀ y ∈ l, y.req.fail = false) ∧ ∃ y ∈ l, y.req.refused = true) ∧
    (let r := collReq 2; let s : State := { flying (.coll 0 r false) with time := 1000 };
      s.item 0 = some (.coll 0 r false) ∧ (s.flight.map (·.1)).Nodup ∧ Fld r.w0 42 27 ≠ 0 ∧
      Fld r.w0 42 27 * 1000 ≤ (s.time.toNat + 2 ^ 48 - r.since) % 2 ^ 48 ∧ (s.joined ⟨0, 0, r, false⟩).length < Fld r.w3 47 32 ∧
      ∀ y ∈ s.joined ⟨0, 0, r, false⟩, y.frozen = false) ∧
    Fld (request).w0 42 27 = 0 :=
  ⟨⟨ready _ _ _ rfl, by decide, by decide, by decide, ⟨rfl, rfl⟩, is (by decide +kernel), is (by decide +kernel), by decide +kernel,
    by decide +kernel⟩, is (by decide +kernel), ⟨is (by decide +kernel), is (by decide +kernel)⟩, ⟨is (by decide +kernel), by decide⟩,
    by decide +kernel, ⟨by decide, ready _ _ _ rfl, rfl⟩, ⟨by decide, ready _ _ _ rfl, by decide +kernel⟩, by decide +kernel,
    by decide +kernel, by decide, by decide +kernel, by decide +kernel, by decide, by decide +kernel, by decide +kernel,
    by decide +kernel, by decide +kernel, by decide +kernel, fun i h => shown _ _ (Nat.le_trans (by decide) (Nat.le_add_right ..))
      (Nat.lt_of_lt_of_le (Nat.add_lt_add_left h _) (by decide)), by decide +kernel, by decide +kernel, by decide +kernel,
    by decide +kernel, by decide⟩


/-- Every range lies in a permitted region. -/
theorem regions (cid : Nat) (l : List (Nat × Nat)) (h : (l.all fun r => match matRegion cid r.1 r.2 with
      | .ok _ => true
      | .error _ => false) = true) : ¬∃ r ∈ l, ∀ k, matRegion cid r.1 r.2 ≠ .ok k := by
  rintro ⟨r, hr, hk⟩
  have := List.all_eq_true.1 h r hr
  cases e : matRegion cid r.1 r.2 with
  | ok k => exact hk k e
  | error x => simp [e] at this

/-- A command of thread 0 as a member of group 1. -/
def command (cmd : MatCmd) : Matrix := ⟨0, 2, some 1, cmd, false, 0⟩

/-- Unit 0 at core 0, whose queue holds that command under stamp 0, with a tile of `own`. -/
def visiting (cmd : MatCmd) (own : Option Nat := some 1) (live : Bool := true) (int : Bool := false) : State :=
  let g : Group := { launched := true, record := [], queue := none, tenant := 0, grant := 0, deadline := 0, threads := [0], lsOff := []
                     csp := none }
  { solo (thread []) with
    units := [(0, { left := 1 })]
    cores := [(0, { queue := [(0, command cmd)], tile := { owner := own, int := int } })]
    pkgs := [(0, { groups := if live then [(1, g)] else [] })]
    serial := 1 }

/-- An F4·F4 MMA of `n` blocks in the scratchpad. -/
def blocks (n : Nat) : MatCmd := .mma .f4 .f4 0x40000000000000 0x40040000000000 n

/-- `n` queued commands of another thread on core 0. -/
def backlog (n : Nat) (r : List Word) : State :=
  { solo (thread r 0x80000000) with cores := [(0, { queue := (List.range n).map fun i => (i, { command .stat with tid := 1 }) })] }

theorem witness_MatrixCommands :
    (let s := backlog 3 [0, 0x2000000000, 0, 1024, 4, 0x100000000, 0x1000000000000000];
      s.Ready [xplace 1, xplace 2, xplace 3, xplace 4] [] ∧ s.Ready [] [xplace 8] ∧ s.guarded 0 = true ∧ isHob s.cid = false ∧ s.src.sup = true ∧
      s.acquiring s.cur = false ∧ s.moves s.cur < 8 ∧ (s.core s.cid).queue.length < 4 ∧
      badDescriptor .f4 true (s.readX 1) = false ∧ badDescriptor .f4 false (s.readX 2) = false ∧
      badDescriptor .f4 true (s.readX 7) = true ∧ layout .f4 = some f4Tile ∧
      matRegion s.cid (Fld (s.readX 1) 54 34 * 2048) f4Tile.size = .ok (keyLocal 0 0) ∧
      matRegion s.cid (Fld (s.readX 2) 54 34 * 2048) f4Tile.size = .ok (keyLocal 0 0x4000) ∧ (s.readX 1).getLsbD 55 = false ∧
      matRegion s.cid (95 * 2048) f4Tile.size = .error 0x30000 ∧
      ((s.readX 3).toNat < 2 ^ 32 ∧ 1024 ≤ (s.readX 4).toNat ∧ (s.readX 4).toNat % 8 = 0 ∧ (s.readX 3).toNat % 8 = 0) ∧
      matRegion s.cid (s.readX 3).toNat (127 * (s.readX 4).toNat + 1024) = .ok (keyLocal 0 0) ∧
      matRegion s.cid (s.readX 5).toNat (127 * (s.readX 4).toNat + 1024) = .ok (keyLocal 0 4) ∧ (s.readX 5).toNat % 8 ≠ 0 ∧
      2 ^ 32 ≤ (s.readX 6).toNat) ∧
    (let s := backlog 4 []; 4 ≤ (s.core s.cid).queue.length ∧ s.moves s.cur < 8) ∧
    (hob.guarded 0 = true ∧ isHob hob.cid = true ∧ hob.Ready [xplace 1, xplace 2, xplace 3, xplace 4] [] ∧
      hob.acquiring hob.cur = false) ∧
    (isHob base.cid = false ∧ (base.unit (base.cid / 8)).up = false) ∧
    (let s : State := { base with units := [(0, { up := true })] }; (s.unit (s.cid / 8)).up = true) :=
  ⟨⟨ready _ _ _ rfl, ready _ _ _ rfl, rfl, by decide, by decide, by decide +kernel, by decide +kernel, by decide +kernel, by decide +kernel,
    by decide +kernel, by decide +kernel, rfl, is (by decide +kernel), is (by decide +kernel), by decide, is (by decide +kernel),
    by decide, is (by decide +kernel), is (by decide +kernel), by decide, by decide⟩, by decide +kernel,
    ⟨rfl, by decide, ready _ _ _ rfl, by decide⟩, by decide, by decide⟩

theorem witness_MatrixUnit :
    (let s : State := { base with units := [(0, { hinted := true })] }; (s.unit 0).hinted = true) ∧
    ((base.unit 0).hinted = false ∧ (base.unit 0).left = 0 ∧ ∀ c, c < 8 → (base.core (0 * 8 + c)).queue = []) ∧
    (let s := flying (.matrixDone 0 31 5); s.item 0 = some (.matrixDone 0 31 5) ∧ (s.th 0).slot ≠ .vacant) ∧
    (let s := flying (.matrixDone 1 31 5); s.item 0 = some (.matrixDone 1 31 5) ∧ (s.th 1).slot = .vacant) ∧
    (∃ r ∈ (command (.load false 0x30000 1024)).cmd.ranges, ∀ k, matRegion 0 r.1 r.2 ≠ .ok k) ∧
    (let s := visiting (blocks 1) (some 2); ¬(∃ r ∈ (command (blocks 1)).cmd.ranges, ∀ k, matRegion 0 r.1 r.2 ≠ .ok k) ∧
      (s.core 0).tile.owner = some 2 ∧ (command (blocks 1)).grp ≠ some 2) ∧
    (let s := visiting (blocks 1) (some 1) true true; (s.core 0).tile.owner = some 1 ∧
      (s.group (pkgOf 0) 1).isSome = true ∧ (s.core 0).tile.int ≠ decide (Fmt.f4 = .i8)) ∧
    (∀ c ∈ [MatCmd.zero true, .stat, .load false 0x80000000 1024, .drain 0 .f32 0 false false 0x80000000 512, blocks 1, blocks 2,
        blocks 32],
      let s := visiting c; (s.unit 0).left ≠ 0 ∧ (s.unit 0).ptr = 0 ∧ (s.core 0).queue = (0, command c) :: [] ∧
        s.drained (command c).tid 0 = true ∧ s.refusal 0 (command c) = 0 ∧ (s.core 0).tile.bad = [] ∧ s.locks = [] ∧ s.deferred = []) ∧
    (matRegion 0 0x80000000 (127 * 1024 + 1024) = .ok (keyCluster 0 0) ∧
      matRegion 0 0x80000000 (127 * 512 + 16 * fmtWidth .f32) = .ok (keyCluster 0 0) ∧ 2 ^ 51 ≤ keyCluster 0 0 ∧
      keyCluster 0 0 + 127 * 512 + 16 * fmtWidth .f32 ≤ 2 ^ 52 ∧ keyCluster 0 0 % 8 = 0 ∧ 16 * fmtWidth .f32 ≤ 512) ∧
    (let s := visiting (blocks 1) (some 2); ∃ g, s.refusal 0 (command (blocks 1)) = g ∧ (s.core 0).queue = [(0, command (blocks 1))]) ∧
    (let s : State := { visiting (blocks 1) with
        threads := [(0, { thread [] with sb := [⟨0, 0, false, false, .bytes 0 [1] none, 0, false⟩] })] }; s.drained 0 1 = false) ∧
    (visiting (.load false 0x30000 1024)).refusal 0 (command (.load false 0x30000 1024)) = 3 ∧
    (∀ v ∈ [Val.fin true 127 0, .fin false 0 3], ∃ n m x, v = .fin n m x ∧ 0 ≤ x) :=
  ⟨by decide, by decide, by decide +kernel, by decide +kernel,
    ⟨(0x30000, 127 * 1024 + 1024), by decide, fun k h => by
      have := (is (v := .error 0x30000) (by decide +kernel) : matRegion 0 0x30000 (127 * 1024 + 1024) = .error 0x30000).symm.trans h
      cases this⟩,
    ⟨regions _ _ (by decide +kernel), by decide, by decide⟩, by decide +kernel, by decide +kernel,
    ⟨is (by decide +kernel), is (by decide +kernel), by decide, by decide, by decide, by decide⟩, ⟨_, rfl, by decide +kernel⟩,
    by decide +kernel, by decide +kernel, by
      intro v hv
      rcases List.mem_cons.1 hv with rfl | hv
      · exact ⟨_, _, _, rfl, by decide⟩
      · exact ⟨false, 0, 3, List.mem_singleton.1 hv, by decide⟩⟩

/-! ### Context switching, launching, the host and Mirmor -/

/-- Where the save area of group 1 lies: VA 0 of tenant 0 through cluster 0. -/
def area : Area := ⟨0, 0, false, 0, []⟩

/-- What is kept of a group of core 0 whose area it is. -/
def kept : Saved := { area := area, cores := [0] }

/-- Group 1, of thread 0. -/
def member1 (st : GroupState) (saved : Option Saved := none) (threads : List Nat := [0]) : Group :=
  { launched := true, record := [], queue := none, tenant := 0, grant := 3, deadline := 0, threads := threads, lsOff := [(0, 0, 0)]
    csp := none, state := st, saved := saved }

/-- Hob core 64, with SEG0 of `limit` bytes through a leaf for frame 0, beside group `x`, and `header` in its save area. -/
def switching (x : Group) (grp : Option Nat := none) (limit : Word := 64) (header : List Byte := []) : State :=
  let t := { thread [1, 0, 0x10000] 0x80000000 with grp := grp }
  { onCore 64 { t with segs := t.segs.set 0 (0x1F, limit) } with
    threads := [(0, thread []), (1024, { t with segs := t.segs.set 0 (0x1F, limit) })]
    clusters := [(0, { tu := [⟨0, false, false, 0, 2 ^ 20, 0x800000000000000F, false⟩] })]
    pkgs := [(0, { groups := [(1, x)] })]
    mem := header.zipIdx.foldl (fun m x => store 0 m x.2 x.1) [] }

theorem size_from (r : List Word) : 128 ≤ recSaveSize r := by simp [recSaveSize, recSections]; omega

theorem size_to : recSaveSize [] < 2 ^ 51 := by
  have e : recThreads [] = 1 ∧ recImage [] = 0 ∧ recRun [] = 0 ∧ recCores [] = 0 := by decide
  simp only [recSaveSize, recSections, e.1, e.2.1, e.2.2.1, e.2.2.2, Nat.mul_zero, Nat.zero_mul, List.getD_cons_succ, List.getD_cons_zero]
  have a := (Config.saveSections (recWord [] 3) (recWord [] 4)).1.isLt
  have b := (Config.saveSections (recWord [] 3) (recWord [] 4)).2.1.isLt
  have c := (Config.saveSections (recWord [] 3) (recWord [] 4)).2.2.isLt
  omega

/-- The entries of a node from key `k` on, each 0x8000_0000_0000_000F. -/
def node : Nat → Nat → List Host.Cell
  | 0, _ => []
  | n + 1, k => (k, 0x0F) :: (k + 7, 0x80) :: node n (k + 8)

theorem node_byte (n k i j : Nat) (hi : i < n) (hj : j < 8) :
    lookup 0 (node n k) (k + 8 * i + j) = if j = 0 then 0x0F else if j = 7 then 0x80 else 0 := by
  induction n generalizing k i with
  | zero => omega
  | succ n ih =>
    cases i with
    | zero =>
      have after : ∀ n k x, x < k → lookup (0 : Byte) (node n k) x = 0 := fun n => by
        induction n with
        | zero => intros; rfl
        | succ n ih =>
          intro k x h
          simp only [node, lookup]
          rw [if_neg (by omega), if_neg (by omega)]
          exact ih (k + 8) x (by omega)
      simp only [node, lookup, Nat.mul_zero, Nat.add_zero]
      by_cases h0 : j = 0
      · simp [h0]
      · by_cases h7 : j = 7
        · simp [h7]
        · rw [if_neg (by omega), if_neg (by omega), after n (k + 8) _ (by omega)]; simp [h0, h7]
    | succ i =>
      simp only [node, lookup]
      rw [if_neg (by omega), if_neg (by omega), show k + 8 * (i + 1) + j = k + 8 + 8 * i + j by omega]
      exact ih (k + 8) i (by omega)

/-- A table of one node whose every entry serves as root, pointer and leaf, so that every VA translates, with group `x` and poison. -/
def tables (x : Group) (bad : List Nat := []) : State :=
  { solo (thread []) with
    mem := node 512 0xF000, poison := bad
    clusters := [(0, { roots := [(0, 0x800000000000000F)] })]
    pkgs := [(0, { groups := [(1, x)] })] }

variable (x : Group) (bad : List Nat)

theorem tables_entry (i : Nat) (hi : i < 512) : (tables x bad).load (0xF000 + 8 * i) 8 = 0x800000000000000F := by
  have h : ∀ j, j < 8 → (tables x bad).hidden (0xF000 + 8 * i + j) = false := fun j hj => by
    have : isLocalKey (0xF000 + 8 * i + j) = false := by simp [isLocalKey]; omega
    simp [State.hidden, this]
  have b : ∀ j, j < 8 → readByte (tables x bad).mem (0xF000 + 8 * i + j) = if j = 0 then 0x0F else if j = 7 then 0x80 else 0 :=
    fun j hj => node_byte 512 0xF000 i j hi hj
  have bytes : ((List.range 8).map fun j => if (tables x bad).hidden (0xF000 + 8 * i + j) then (0 : Byte)
      else readByte (tables x bad).mem (0xF000 + 8 * i + j)) = [0x0F, 0, 0, 0, 0, 0, 0, 0x80] := by
    rw [List.map_congr_left (g := fun j => if j = 0 then 0x0F else if j = 7 then 0x80 else 0) fun j hj => by
      rw [h j (List.mem_range.1 hj), b j (List.mem_range.1 hj)]; rfl]
    rfl
  rw [State.load, State.loadFrom, bytes]; rfl

/-- The entry of `tables`. -/
def self : Word := 0x800000000000000F

theorem tables_walk (va : Nat) :
    (tables x bad).walkTable ⟨0, 0, 0, 0, false, va, 0, accStore, none⟩ = .leaf (0xF000 + 8 * (va / 2 ^ 16 % 2 ^ 9)) self := by
  have below (x : Nat) (h : x < 2 ^ 35) : farExists x = true := by
    have : x % 2 ^ 39 = x := Nat.mod_eq_of_lt (by omega)
    have : x / 2 ^ 39 = 0 := Nat.div_eq_of_lt (by omega)
    simp only [farExists, *]; simp; omega
  have key : ∀ i, i < 512 → (tables x bad).entry 0 self i = some (0xF000 + 8 * i, self) := fun i hi => by
    have z : Fld self 32 31 = 0 ∧ Fld self 30 30 = 0 ∧ Fld self 26 0 = 15 := by decide
    have e : entryKey 0 self i = 0xF000 + 8 * i := by simp only [entryKey, z, keyFar]; omega
    simp only [State.entry, e, below _ (show 0xF000 + 8 * i < 2 ^ 35 by omega), if_true, tables_entry x bad i hi]
    rfl
  have bits : self.getLsbD 63 = true ∧ self.getLsbD 62 = false ∧ badPointer self = false := by decide
  have two : ∀ a b, a < 512 → b < 512 → (tables x bad).walkPair 0 self a b = .leaf (0xF000 + 8 * b) self := fun a b ha hb => by
    simp only [State.walkPair, key a ha, key b hb, bits, Bool.not_true, Bool.or_self, Bool.false_eq_true, if_false]
  have root : (tables x bad).root 0 0 0 = self := rfl
  have leaf : leafFault 0 accStore self = none := by decide
  have z : Fld self 59 52 = 0 ∧ Fld self 51 50 = 0 ∧ Fld self 49 49 = 0 ∧ Fld self 48 26 = 0 ∧ self.getLsbD 60 = false := by decide
  have frame : farExists (leafKeyOf self va) = true :=
    below _ (by simp only [leafKeyOf, z, keyFar, Bool.false_eq_true, if_false]; omega)
  have home : decide (Fld self 59 52 < (tables x bad).npkg) = true := by
    rw [show (tables x bad).npkg = 1 from rfl, z.1]; rfl
  have m : ∀ x, x % 2 ^ 9 < 512 := fun x => Nat.mod_lt _ (by decide)
  simp only [State.walkTable, Bool.toNat_false, root, two _ _ (m _) (m _), leaf, frame, home, Bool.and_self, if_true]

theorem all_map {α β : Type} (f : α → Option β) (g : α → β) (h : ∀ x, f x = some (g x)) : ∀ l : List α, l.mapM f = some (l.map g)
  | [] => rfl
  | a :: l => by simp [List.mapM_cons, h, all_map f g h l]

/-- Every page of the area is frame 0. -/
theorem tables_pages (size : Nat) : (tables x bad).areaPages area size =
    some ((List.range ((size - 1) / 2 ^ 16 + 1)).map fun i => (0xF000 + 8 * (i % 2 ^ 9), 0)) := by
  simp only [State.areaPages, area, Nat.zero_add, Nat.zero_div, Nat.sub_zero]
  refine all_map _ _ (fun i => ?_) _
  have e : i * 2 ^ 16 / 2 ^ 16 = i := Nat.mul_div_cancel _ (by decide)
  have z : leafKeyOf self (i * 2 ^ 16) = 0 := by
    have z : Fld self 59 52 = 0 ∧ Fld self 51 50 = 0 ∧ Fld self 49 49 = 0 ∧ Fld self 48 26 = 0 ∧ self.getLsbD 60 = false := by decide
    simp only [leafKeyOf, z, keyFar, Nat.mul_mod_left]; simp
  rw [tables_walk x bad (i * 2 ^ 16)]
  simp only [e, z]

/-- The same area with its pages. -/
def paged (size : Nat) : Area :=
  { area with pages := ((List.range ((size - 1) / 2 ^ 16 + 1)).map fun i => (0xF000 + 8 * (i % 2 ^ 9), (0 : Nat))).map (·.2) }

/-- Its first word is poisoned where word 0 is, and nothing is where no word is. -/
theorem poisoned_area (size : Nat) (h : size ≠ 0) :
    (((paged size).span 0 size).any fun r => (tables x [0]).poisoned r.1 r.2) = true ∧
    (((paged size).span 0 size).any fun r => (tables x []).poisoned r.1 r.2) = false := by
  refine ⟨?_, by simp [State.poisoned, tables]⟩
  have k : (paged size).key 0 = 0 := by simp [Area.key, paged, area, List.range_succ_eq_map]
  have p : (tables x [0]).poisoned 0 (min size (2 ^ 16 - (0 : Nat) % 2 ^ 16)) = true := by
    simp [State.poisoned, tables, State.hidden, isLocalKey]; omega
  simp only [Area.span, Area.runsOf, if_neg h, k, List.any_cons]
  simp only [show (paged size).va + 0 = 0 from rfl, p, Bool.true_or]

theorem witness_ContextSwitching :
    (let s := switching (member1 .running); s.Ready [xplace 1, xplace 2] [xplace 3] ∧ s.guarded 0 = true ∧ isHob s.cid = true ∧
      s.src.sup = true ∧ Fld (s.readX 1) 63 16 = 0 ∧ Fld (s.readX 3) 63 16 ≠ 0 ∧
      s.launchedGroup (pkgOf s.cid) 0 = none ∧ s.launchedGroup (pkgOf s.cid) 1 = some (member1 .running) ∧
      s.src.segCheck (s.readX 2) 64 { rd := true, w := true } 64 = .ok (false, 0) ∧ s.src.grp ≠ some 1 ∧
      (member1 .running).state = .running ∧ (member1 .running).again = none ∧
      (s.src.seg (Fld (s.readX 2) 63 61)).2.toNat % 2 ^ 61 < (s.readX 2).toNat % 2 ^ 61 + recSaveSize []) ∧
    (let s := switching (member1 .running) none 63;
      s.src.segCheck (s.readX 2) 64 { rd := true, w := true } 64 = .error (.trap 0x03 0)) ∧
    ((switching (member1 .running) (some 1)).src.grp = some 1 ∧ (onCore 64 (thread [])).src.sup = false ∧
      isHob base.cid = false ∧ (member1 .saving).state = .saving ∧ (member1 .resuming).state = .resuming ∧
      ({ member1 .resuming with again := some (area, 1024) } : Group).again ≠ none) ∧
    (let s := switching (member1 .running) none 0x1000000000000000;
      ¬((s.src.seg (Fld (s.readX 2) 63 61)).2.toNat % 2 ^ 61 < (s.readX 2).toNat % 2 ^ 61 + recSaveSize [] ∨
        2 ^ 52 < 0 + recSaveSize [])) ∧
    (let s := switching (member1 .saved) none 64 [0, 0, 0, 2, 0, 0, 0, 0, 64];
      s.far (s.readX 2) 64 { rd := true, w := true } 64 accLoad = .ok 0 ∧ s.poisoned 0 16 = false ∧
      (member1 .saved).state = .saved ∧ s.load (0 + 3) 1 = 2 ∧
      ¬((s.src.seg (Fld (s.readX 2) 63 61)).2.toNat % 2 ^ 61 < (s.readX 2).toNat % 2 ^ 61 + s.load (0 + 8) 8 ∨
        2 ^ 52 < 0 + s.load (0 + 8) 8)) ∧
    (let s := switching (member1 .saved) none 64 [0, 0, 0, 0, 0, 0, 0, 0, 65]; s.load (0 + 3) 1 ≠ 2 ∧
      (s.src.seg (Fld (s.readX 2) 63 61)).2.toNat % 2 ^ 61 < (s.readX 2).toNat % 2 ^ 61 + s.load (0 + 8) 8) ∧
    (base.group 0 1 = none ∧ (switching (member1 .running)).group 0 1 = some (member1 .running)) ∧
    (let x := member1 .saving (some kept); let s := tables x; s.group 0 1 = some x ∧ x.state = .saving ∧ x.saved = some kept ∧
      x.threads ≠ [] ∧ (∀ t ∈ x.threads, s.quiet t = true) ∧ s.copying 0 1 = false) ∧
    (∀ size, ∃ pages, (tables (member1 .saving (some kept))).areaPages kept.area size = some pages) ∧
    ({ tables (member1 .saving (some kept)) with flight := [(0, .ack 0 16 false)] } : State).quiet 0 = false ∧
    (let x := member1 .resuming (some kept); (tables x).group 0 1 = some x ∧ x.state = .resuming ∧ x.saved = some kept ∧
      x.again = none ∧ ∀ a, ∀ p ∈ x.lsOff.zipIdx, (tables x).roomFor { kept with area := a } p.2 p.1.1 = true) ∧
    (∀ size, size ≠ 0 → ∃ pages, (tables (member1 .resuming (some kept)) [0]).areaPages kept.area size = some pages ∧
      (({ area with pages := pages.map (·.2) } : Area).span 0 size).any
        (fun r => (tables (member1 .resuming (some kept)) [0]).poisoned r.1 r.2) = true) ∧
    (∀ size, size ≠ 0 → ∃ pages, (tables (member1 .resuming (some kept))).areaPages kept.area size = some pages ∧
      (({ area with pages := pages.map (·.2) } : Area).span 0 size).any
        (fun r => (tables (member1 .resuming (some kept))).poisoned r.1 r.2) = false) ∧
    (let a : Area := { area with pages := [0] }; a.va % 64 = 0 ∧ a.key 0 + 64 ≤ 2 ^ 50 ∧ base.poison = [] ∧ base.locks = [] ∧
      base.deferred = [] ∧ (base.th 0).rank < recThreads [] ∧
      a.va % 2 ^ 16 + (128 + 2048 * recThreads [] + recImage [] * ((base.th 0).rank + 1)) ≤ 2 ^ 16) :=
  ⟨⟨ready _ _ _ rfl, rfl, by decide, by decide, by decide, by decide, by decide, by decide, is (by decide +kernel), by decide, rfl,
      rfl, Nat.lt_of_lt_of_le (by decide) (Nat.le_trans (size_from []) (Nat.le_add_left ..))⟩,
    is (by decide +kernel), by decide,
    by
      have e : (((switching (member1 .running) none 0x1000000000000000).src.seg
        (Fld ((switching (member1 .running) none 0x1000000000000000).readX 2) 63 61)).2.toNat % 2 ^ 61 = 2 ^ 60) ∧
        ((switching (member1 .running) none 0x1000000000000000).readX 2).toNat % 2 ^ 61 = 0 := by decide
      have := size_to
      simp only [e.1, e.2]; omega,
    ⟨is (by decide +kernel), by decide, rfl, by decide +kernel, by decide +kernel⟩, by decide +kernel, by decide,
    ⟨by decide +kernel, rfl, rfl, by decide, by decide +kernel, by decide⟩, fun size => ⟨_, tables_pages _ _ size⟩, by decide +kernel,
    ⟨by decide +kernel, rfl, rfl, rfl, fun _ p hp => by rw [List.mem_singleton.1 hp]; rfl⟩,
    fun size h => ⟨_, tables_pages _ _ size, (poisoned_area _ size h).1⟩,
    fun size h => ⟨_, tables_pages _ _ size, (poisoned_area _ size h).2⟩, by decide +kernel⟩


/-- A record of one thread on one core, with `b` 128-byte blocks of local store and 3 units of grant. -/
def launchRecord (b : Nat := 3) : List Word :=
  [0x40, 0, 0, 0x0004000000000000, BitVec.ofNat 64 (2 ^ 47 + 3 * 2 ^ 32 + b * 2 ^ 16)] ++ List.replicate 11 0

/-- A package with a record at the head of queue 5 and `free` units in FREE, and the tables that its SEGTAB is reached by or none. -/
def launchable (free : Nat) (roots : List (Nat × Word) := [(0, self)]) : State :=
  { State.reset with
    mem := node 1 0xF000
    clusters := [(0, { roots := roots })]
    pkgs := [(0, { queues := [(5, { qcfg := 0x100, recs := [(launchRecord, 0)], checked := true })], bellows := { free := free } })] }

/-- The head that the dispatcher ranks there. -/
def headOf5 : Ranked := ⟨recClass launchRecord, 0, true, 5, 3⟩

/-- Queue 5 with `n` records. -/
def records (n : Nat) : State :=
  { base with pkgs := [(0, { queues := [(5, { qcfg := 0x100, recs := List.replicate n (launchRecord, 0) })] })] }

/-- A thread that firmware starts. -/
def firmware (tid : Nat) : FwStart := ⟨tid, 0x40, 0, 0, true, 0, [], 0, 0, 0, 0, 0, 0⟩

theorem witness_Launching :
    (let s := solo (thread [0x2FF80, 0x3FFF, 0x4000]); s.Ready [xplace 1, xplace 2] [xplace 4] ∧ Fld (s.readX 3) 63 14 ≠ 0 ∧
      Fld (s.readX 2) 63 14 = 0 ∧ (s.readX 1).toNat + 128 ≤ 0x30000 ∧ (s.readX 1).toNat % 8 = 0 ∧ s.Open ∧
      s.plainWords (s.readX 1).toNat (keyLocal s.cid (s.readX 1).toNat) 16 = .ok (List.replicate 16 0)) ∧
    (let s := { solo (thread [0x2FF80]) with poison := [keyLocal 0 0x2FFF8 / 8] };
      s.plainWords (s.readX 1).toNat (keyLocal s.cid (s.readX 1).toNat) 16 = .error (.trap 0x0B 0x2FFF8)) ∧
    ((launchRecord).length = 16 ∧ (255 : Nat) < 256) ∧
    ((base.pkg 0).service.secmode ≠ 3 ∧ (16383 : Nat) < 16384 ∧ (16384 : Nat) ≤ 16384 ∧ (4095 : Nat) < 4096) ∧
    (let x := ((records 63).pkg 0).queue 5; x.recs.length < 64 ∧ x.qcfg.getLsbD 8 = true) ∧
    (64 ≤ (((records 64).pkg 0).queue 5).recs.length ∧ ((base.pkg 0).queue 5).qcfg.getLsbD 8 = false) ∧
    ((base.pkg 0).resumes = [] ∧ ∀ p ∈ (base.pkg 0).queues, p.2.recs = []) ∧
    (let s := launchable 768; (s.refuseAll 0).dropResumes 0 = s ∧ ranked (s.contenders 0) = [headOf5] ∧
      headOf5.grant * 256 ≤ (s.pkg 0).bellows.free ∧ (s.tryStart 0 headOf5).isSome = true) ∧
    (let s := launchable 768 []; (s.refuseAll 0).dropResumes 0 = s ∧ ranked (s.contenders 0) = [headOf5] ∧
      s.tryStart 0 headOf5 = none) ∧
    (let s := launchable 767; (s.refuseAll 0).dropResumes 0 = s ∧ ranked (s.contenders 0) = [headOf5] ∧
      (s.pkg 0).bellows.free < headOf5.grant * 256) ∧
    (let l : List Ranked := [⟨1, 5, true, 2, 0⟩, ⟨1, 0xFFFFFFFFFFFF, true, 3, 0⟩];
      ∀ x ∈ l, x.deadline < 2 ^ 48 ∧ (x.deadline + 2 ^ 48 - 0xFFFFFFFFFFF0 % 2 ^ 48) % 2 ^ 48 < 2 ^ 47) ∧
    (let r := (launchRecord).set 4 (BitVec.ofNat 64 (2 ^ 51 + 2 ^ 48 + 3 * 2 ^ 16));
      ∀ k, k < recThreads r → ∀ j, j < recThreads r → j ≠ k → base.rankSlot [(0, 0)] (recTpc r) j ≠ base.rankSlot [(0, 0)] (recTpc r) k) ∧
    ((base.th 0).exited = false ∧ (let t := (solo { thread [] with exited := true }).th 0;
      t.exited = true ∧ t.slot ≠ .saved ∧ t.slot ≠ .vacant ∧ (solo { thread [] with exited := true }).keepsSlot 0 = false ∧
      (solo { thread [] with exited := true }).bequeaths t = false)) ∧
    (flying (.ack 0 16 false)).keepsSlot 0 = true ∧
    (base.group 0 1 = none ∧ (switching (member1 .running)).group 0 1 = some (member1 .running) ∧ (member1 .running).threads ≠ []) ∧
    (let s := switching (member1 .running none []); s.group 0 1 = some (member1 .running none []) ∧ s.groupBusy 0 1 = false) ∧
    ((15 : Nat) % 16 = 15 ∧ (slotOf (firmware 15).tid = 15 ↔ (firmware 15).grp = 0) ∧
      (slotOf { firmware 1087 with grp := 65535 }.tid = 15 ∨ ({ firmware 1086 with grp := 65535 } : FwStart).grp < 2 ^ 16) ∧
      (fwGroup 0).launched = false ∧ (fwGroup 0).threads.length < 4096) ∧
    (coreExists (cidOf (firmware 1088).tid) = false ∧ coreExists (cidOf (firmware 1087).tid) = true ∧
      (base.th (firmware 1087).tid).slot = .vacant ∧ (base.th (firmware 0).tid).slot ≠ .vacant) := by
  refine ⟨⟨ready _ _ _ rfl, by decide, by decide, by decide, by decide, ⟨rfl, rfl⟩, is (by decide +kernel)⟩, is (by decide +kernel), by decide,
    by decide, by decide, by decide, ⟨rfl, by decide⟩, ?_, ?_, ?_, ?_, ?_, ?_, ?_, ?_, ?_, ?_, ?_⟩
  all_goals decide +kernel

/-- Package 0 with window 63 on VA 0 of tenant 0, which its tables map to frame 0 of the die's DRAM. -/
def hosted : State :=
  { State.reset with
    mem := node 1 0xF000
    clusters := [(0, { roots := [(0, self)] })]
    pkgs := [(0, { around := { mbwa := [(63, 0x0018000000000001)] } })] }

/-- Package 0 with port 7 down since TIME 5, and FTMO of 2 microseconds. -/
def unlinked (time : Nat) : State :=
  { base with time := BitVec.ofNat 48 time, pkgs := [(0, { around := { down := [7], downAt := [(7, 5)], ftmo := 2 } })] }

/-- Package 0 whose input has been low, or normal, since TIME 0. -/
def supplied (low alarm : Bool) (time : Nat) : State :=
  { base with time := BitVec.ofNat 48 time, pkgs := [(0, { around := { low := low, alarm := alarm } })] }

/-- An image without a key does not boot; that some image does rests on the fused key, which the model leaves open. -/
theorem witness_HostFabricAndPower :
    (let s := hosted.wakePkg 0; s.windowRuns 0 63 0 16 true = some [(0, 16)] ∧ s.windowRuns 0 63 0x3FFFFFFF 2 true = none ∧
      s.windowRuns 0 63 0x3FFFFFFF 2 false = none ∧ s.windowRuns 0 63 0 16 false = some [(0, 16)] ∧ hosted.poison = [] ∧
      hosted.locks = [] ∧ hosted.deferred = [] ∧ s.windowRuns 0 64 0 16 true = none) ∧
    (let bytes : List (BitVec 8) := List.replicate 8 1; bytes.length = 8 ∧ (2 ^ 26 - 8) % 8 = 0 ∧ ¬(2 ^ 26 - 4) % 8 = 0) ∧
    (let a := ((unlinked 2005).pkg 0).around;
      15 % 8 ∈ a.down ∧ 15 % 8 ∉ a.failed ∧ a.ftmo.toNat * 1000 ≤ ((unlinked 2005).time.toNat + 2 ^ 48 - lookup 0 a.downAt (15 % 8)) % 2 ^ 48) ∧
    (let a := ((unlinked 2004).pkg 0).around;
      ¬a.ftmo.toNat * 1000 ≤ ((unlinked 2004).time.toNat + 2 ^ 48 - lookup 0 a.downAt (15 % 8)) % 2 ^ 48) ∧
    15 % 8 ∉ (base.pkg 0).around.down ∧ bootOk 0 ⟨[], [], 0⟩ [] = false ∧
    (let s := supplied true false 1000000; let a := (s.pkg 0).around; a.low = true ∧ (1000 : Nat) + 400 < 1401 ∧
      1000000 ≤ (s.time.toNat + 2 ^ 48 - a.inputAt) % 2 ^ 48) ∧
    (let s := supplied true false 999999; ¬1000000 ≤ (s.time.toNat + 2 ^ 48 - (s.pkg 0).around.inputAt) % 2 ^ 48) ∧
    (let s := supplied false true 100000000; (s.pkg 0).around.low = false ∧ (s.pkg 0).service.secmode ≠ 3 ∧
      100000000 ≤ (s.time.toNat + 2 ^ 48 - (s.pkg 0).around.inputAt) % 2 ^ 48) ∧
    (1087 : Nat) < 1088 ∧ (State.reset.idlePkg 0 = true ∧ base.idlePkg 0 = false) ∧
    (pkgOf (cidOf 131071) = 0 ∧ pkgOf (cidOf 131072) ≠ 0 ∧ (1 : Nat) ≠ 0 ∧ (2 ^ 50 - 1 : Nat) < 2 ^ 50 ∧
      (2 ^ 50 : Nat) ≤ keyLocal 0 0 ∧ keyLocal 0 0 < 2 ^ 53 ∧ homeOf (keyLocal 0 0) / 4 = 0) ∧
    ((base.pkg 0).service.secmode = 0 ∧ (({ base with pkgs := [(0, { service := { secmode := 3 } })] } : State).pkg 0).service.secmode = 3) ∧
    ((base.pkg 0).service.attbusy = false ∧
      (({ base with pkgs := [(0, { service := { attbusy := true } })] } : State).pkg 0).service.attbusy = true) := by
  decide +kernel

/-- Package 0 with thread 0 in slot state `st`, which HALT has stopped, and with a trace ring that has dropped `drop` records or none. -/
def debugged (st : SlotState) (exited : Bool := false) (drop : Nat := 0) : State :=
  { solo { thread [] with slot := st, exited := exited } with
    pkgs := [(0, { service := { halted := [0], trbase := 0x8000000000000001, trsize := 0x10000, trtail := 0x10000 - 8, trdrop := drop } })] }

/-- A thread whose rotation for a call is held back, and that Mirmor stops then. -/
def held (stopping : Bool) : Thread := { thread [] with rotate := some (.call 0x2000), stopping := stopping }

theorem witness_RegistersAndMirmor :
    (1 % 8 ≠ 0 ∧ 0x10000 % 8 = 0 ∧ (base.pkg 0).service.secmode ≠ 3) ∧
    (let s : State := { base with pkgs := [(0, { service := { secmode := 3 } })] };
      (s.pkg 0).service.secmode = 3 ∧ 0x20000 ≠ 0x60020 ∧ (0x20000 < 0x80000 ∨ 0x90000 ≤ 0x20000)) ∧
    ((0x100 ≤ 0x218 ∧ 0x218 < 0x220) ∧ (0x30000 + 16 * 63) % 8 = 0 ∧ (0x400028 + 256 * 16383) % 8 = 0 ∧
      (ownBase + 2 ^ 16 * 3) % 8 = 0 ∧ (ownBase + 2 ^ 21 + 8 * 255) % 8 = 0) ∧
    (let old := ((debugged .stopped false 1).pkg 0).service; ∃ k n, old.ring 0 = some (k, n) ∧ 0 < old.trdrop ∧
      2 ≤ ({ old with trhead := 16 } : Service).free n) ∧
    ((base.pkg 0).service.trdrop = 0 ∧ (0x10000 : Word) ≠ 0x10000 &&& 0x0000FFFF0000FFFF) ∧
    (131071 < 2 ^ 25 ∧ (base.th 1).slot = .vacant ∧ ((debugged .saved).th 0).slot = .saved ∧
      ((debugged .runnable).th 0).slot = .runnable ∧ ((debugged .runnable).th 0).exited = false ∧
      ((debugged .parked true).th 0).slot = .parked ∧ ((debugged .parked true).th 0).exited = true ∧
      ((debugged .stopped).th 0).slot = .stopped) ∧
    ((held true).stopping = true ∧ (base.th 0).stopping = false ∧ (base.th 0).rotate = none ∧
      (held true).rotate = some (.call 0x2000) ∧ ({ thread [] with rotate := some (.ret 0x2000) } : Thread).rotate = some (.ret 0x2000) ∧
      (held true).busy.toNat < 2 ^ 16 ∧ (held true).slot = .runnable ∧ (held true).exited = false) ∧
    (((debugged .runnable).pkg 0).service.trctl.getLsbD 2 = false ∧
      (({ base with pkgs := [(0, { service := { trctl := 4 } })] } : State).pkg 0).service.trctl.getLsbD 2 = true) ∧
    (let s := debugged .stopped; 0 ∈ (s.pkg 0).service.halted ∧ 1 ∉ (s.pkg 0).service.halted ∧ (s.th 0).slot = .stopped ∧
      pkgOf (cidOf 0) = 0 ∧ pkgOf (cidOf 131072) ≠ 0 ∧ (65535 : Nat) < 2 ^ 16 ∧
      (s.th (0 * 2 ^ 17 + Fld (s.pkg 0).service.mcmd 16 0)).slot = .stopped ∧ (s.pkg 0).service.secmode ≠ 3) ∧
    (base.th (0 * 2 ^ 17 + Fld (base.pkg 0).service.mcmd 16 0)).slot ≠ .stopped := by
  refine ⟨by decide +kernel, by decide +kernel, by decide +kernel, ⟨0x1000, 0x10000, ?_⟩, ?_, ?_, ?_, ?_, ?_, ?_⟩
  all_goals decide +kernel

/-- `exec` answers a next state, whether it is stopped or not. -/
theorem next (i : Instr) (s : State) (h : (match exec i s with
    | .next _ => true
    | _ => false) = true) : exec i s = .next (after i s) := by
  unfold after; split at h
  · rename_i t e; rw [e]
  · cases h

theorem witness_PairIssue :
    (base.guarded 1 = false ∧ base.guarded 0 = true) ∧
    (let c := Instr.add (.r 1) (.r 2) (.r 3) 0; let a := Instr.fadd .f32 (.r 4) (.r 5) (.r 6) .status;
      let s0 (t : Thread) : State := let s := solo t; { s with iss := { s.iss with cdraws := s.drawsOf c } };
      (∀ n : Fin 4, let s := s0 { thread [] with present := BitVec.ofNat 32 (2 ^ 32 - 1 - 4 * (n.val % 2) - 32 * (n.val / 2)) };
        exec c s = .next (after c s) ∧ exec a s = .next (after a s) ∧
          ((after c s).iss.stop = none ↔ n.val % 2 = 0) ∧ ((after a s).iss.stop = none ↔ n.val / 2 = 0))) ∧
    (let s := solo { thread [] with present := BitVec.ofNat 32 (2 ^ 32 - 1 - 32) };
      let c := Instr.eret 0; let a := Instr.fadd .f32 (.r 4) (.r 5) (.r 6) .status;
      exec c s = .next (after c s) ∧ exec a s = .next (after a s) ∧ (after c s).iss.stop = some (.trap 0x02 s.iss.word) ∧
        ∃ w, (after a s).iss.stop = some (.wait w)) ∧
    (let c := Instr.ldnD 6 1 0; let a := Instr.fadd .f32 (.q 0 0) (.r 2) (.r 3) .status;
      let s := { ringed with threads := ringed.threads.map fun p => (p.1, (p.2.setReg 1 0x4C0).setReg 2 0x3F800000) };
      let reads (s : State) : List (Nat × Nat) := (((after c s).item s.serial).map Item.touches).getD [];
      exec c s = .next (after c s) ∧ exec a s = .next (after a s) ∧ (after c s).iss.stop = none ∧ (after a s).iss.stop = none ∧
        (∃ r ∈ reads s, (after a s).load r.1 r.2 ≠ s.load r.1 r.2) ∧ (after c s).ready s.serial = true ∧
        (let s := { s with flight := [(0, .access (access (.load false false) (keyLocal 0 0x4C0)))], serial := 1 };
          (after c s).iss.stop = none ∧ (after a s).iss.stop = none ∧
          (∃ r ∈ reads s, (after a s).load r.1 r.2 ≠ s.load r.1 r.2) ∧ (after c s).ready s.serial = false)) ∧
    (solo (thread [])).cur = base.cur ∧ (let s := base.begin 7 [base.cur] false; s.cur = base.cur ∧ s.iss.before = s.iss.before) := by
  refine ⟨by decide, fun n => ?_, ⟨next _ _ (by decide +kernel), next _ _ (by decide +kernel), by decide +kernel, _, rfl⟩,
    ⟨next _ _ (by decide +kernel), next _ _ (by decide +kernel), ?_⟩, rfl, rfl, rfl⟩
  rotate_left
  · decide +kernel
  have : n = 0 ∨ n = 1 ∨ n = 2 ∨ n = 3 := by omega
  rcases this with rfl | rfl | rfl | rfl <;>
    exact ⟨next _ _ (by decide +kernel), next _ _ (by decide +kernel), by decide +kernel, by decide +kernel⟩

/-- Thread 0 with the worked pair fetched, core 0 next. -/
def fetched : State := base.loaded 0x271C0FFF

/-- Thread 0 past its deadline, with LTE, whose pair's page lies in package 1; ports of package 0 without a link, or failing. -/
def abroad (down failed : List Nat) : State :=
  let t := (mapped).th 0
  { mapped with
    threads := [(0, { t with pc := 64, sys := { t.sys with deadline := 0x8000000000000001 } })]
    time := 5
    npkg := 2
    clusters := [(0, { tu := [⟨0, false, false, 0, 2 ^ 20, 0xA01000000000000F, false⟩] })]
    pkgs := [(0, { around := { down := down, failed := failed } })] }

theorem witness_StepRunsTheDecodedPair :
    (fetched.agenda = .core 0 :: [] ∧ (let n : State := ({ fetched with agenda := [] }).noted 0;
      (n.gangsOn 0).find? n.gangGoes = none ∧ n.pick 0 = some 0)) ∧
    (let b : State := { fetched with cur := 0, iss := {} }; b.lingers 0 = false ∧ b.blocked 0 = none ∧ b.me.boundary = none ∧ b.me.pageFail = none ∧
      b.me.timerDue b.time = false ∧ fetched.spaced 0 = false ∧ b.fetchPair = .ok (b, 0x271C0FFF)) ∧
    (let s : State := { fetched with cores := [(0, { recent := [some 0] })] }; s.spaced 0 = true) ∧
    (∃ p, decodePair 0x271C0FFF = some p ∧ heldOut ((fetched.begin 0x271C0FFF [0] false).runPair p) = false) ∧
    decodePair 0xC000000010042503 = none ∧ fetched.me.buffered = (fetched.me.pc, 0x271C0FFF) :: [] ∧
    (let t := (mapped).th 0; let s : State := { mapped with threads := [(0, { t with pc := 64 })] };
      s.me.buffered = [] ∧ s.far s.me.pc 8 { x := true } 8 accFetch = .ok 64 ∧
      s.cutOff s.cid s.src.tenant [(64, 8)] = [] ∧ s.poisoned 64 8 = false ∧ s.awaitsLink s.cid 64 = false ∧ s.lost s.cid 64 = false ∧
      s.pastDue s.src.dueBy [(64, 8)] = false ∧ ({ s with poison := [8] } : State).poisoned 64 8 = true) ∧
    (let s := abroad [] []; s.far s.me.pc 8 { x := true } 8 accFetch = .ok (2 ^ 42 + 64)) ∧
    (let s := abroad [1] []; s.far s.me.pc 8 { x := true } 8 accFetch = .ok (2 ^ 42 + 64)) ∧
    (let s := abroad [1] [1]; s.far s.me.pc 8 { x := true } 8 accFetch = .ok (2 ^ 42 + 64)) ∧
    (let k := 2 ^ 42 + 64;
      (abroad [1] []).awaitsLink 0 k = true ∧ (abroad [1] [1]).awaitsLink 0 k = false ∧ (abroad [1] [1]).lost 0 k = true ∧
      (let s := abroad [] []; s.me.buffered = [] ∧ s.awaitsLink s.cid k = false ∧ s.lost s.cid k = false ∧
        s.pastDue s.src.dueBy [(k, 8)] = true ∧ s.me.sys.deadline.getLsbD 63 = true ∧
        s.cutOff s.cid s.src.tenant [(k, 8)] = [] ∧ s.poisoned k 8 = false)) :=
  ⟨⟨by decide +kernel, by
      have : (({ fetched with agenda := [] } : State).noted 0).gangsOn 0 = [] := by decide +kernel
      simp [this], by decide +kernel⟩,
    ⟨by decide +kernel, by decide +kernel, by decide, by decide, by decide, by decide, is (by decide +kernel)⟩, by decide +kernel,
    ⟨_, rfl, by decide +kernel⟩, by decide +kernel, by decide +kernel, ⟨by decide, is (by decide +kernel), by decide +kernel⟩, is (by decide +kernel),
    is (by decide +kernel), is (by decide +kernel), by decide +kernel⟩

theorem witness_EncodingRoundTrip :
    ((Instr.add (.r 31) (.q 7 7) (.r 0) 7).wf = true ∧ (encode (.add (.r 31) (.q 7 7) (.r 0) 7)).isSome = true) ∧
    ((Instr.fadd .f32 (.r 0) (.r 0) (.r 0) .status).wf = true ∧
      (encodeSlots (.add (.r 31) (.q 7 7) (.r 0) 7) (.fadd .f32 (.r 0) (.r 0) (.r 0) .status)).isSome = true) ∧
    (Instr.movw 31 0xFFFF 0xFFFFFFFF).wf = true ∧ (Instr.timerExpiry 0).isEvent = true := by decide +kernel

theorem witness_MemoryStaysCanonical : Memory.wf fetched.mem = true ∧ (match step fetched with
    | .next t => decide (t.me.pc = 8)
    | _ => false) = true := by decide +kernel

theorem witness_UserModeStaysUserMode :
    let i := Instr.mts 1 0 0
    let s := solo (thread [-1])
    i.isEvent = false ∧ s.src.sys.status = s.me.sys.status ∧ s.me.sup = false ∧ exec i s = .next (after i s) ∧
      (after i s).iss.stop = none := ⟨rfl, rfl, rfl, next _ _ (by decide +kernel), by decide +kernel⟩

theorem witness_ResultFrame : (0 : Nat) ≠ 31 ∧ ((solo (withRings [(7, outRing 4)])).me.ring 7).kind = .out ∧
    ((solo (withRings [(7, { kind := .loc })])).me.ring 7).kind ≠ .out := by decide +kernel

/-! ### Forms at fabric links, at ports that refuse, in gangs, and raised flags that are enabled -/

/-- Thread 0 in a gang with thread 16. -/
def ganging : State :=
  let t (i : Nat) : Thread := { thread [] with gang := some ⟨0, i, 2⟩ }
  { State.reset with threads := [(0, t 0), (16, t 1)] }

theorem witness_TrapEntryOfAMember : (ganging.th 0).gang = some ⟨0, 0, 2⟩ ∧ 0 ∈ gangMembers ⟨0, 0, 2⟩ ∧ 16 ∈ gangMembers ⟨0, 0, 2⟩ ∧
    32 ∉ gangMembers ⟨0, 0, 2⟩ ∧ (ganging.th 0).sys.tvec ≠ 0 := by decide

theorem witness_IdleCycle : base.someReady 0 = true ∧ (solo { thread [] with slot := .parked }).someReady 0 = false ∧
    ((solo { thread [] with slot := .parked }).core 0).freeze = false ∧
    (({ base with cores := [(1, { freeze := true })] } : State).someReady 1 = false ∧
      (({ base with cores := [(1, { freeze := true })] } : State).core 1).freeze = true) := by decide +kernel

/-- The smallest and the largest operands whose flags are enabled. -/
theorem witness_EnabledScalarFlags :
    ¬enabled.Quiet (fArith .sqrt .f32 false .rne (enabled.draw 0) (enabled.readS (.r 2)).toNat 0).flags ∧
    ¬enabled.Quiet (fMinMax false .f32 false (enabled.readS (.r 4)).toNat (enabled.readS (.r 1)).toNat).flags ∧
    ¬enabled.Quiet (fMinMax true .f32 false (enabled.readS (.r 4)).toNat (enabled.readS (.r 1)).toNat).flags := by
  unfold State.Quiet; decide +kernel

/-- Thread 0 with every flag enabled, v1 all infinities, v2 all signalling NaNs and v3 the least present integers of 32 bits. -/
def enabledLanes : State :=
  let lanes (x : Nat) : BitVec 512 := BitVec.ofNat 512 ((List.range 16).foldr (fun _ y => x + 2 ^ 32 * y) 0)
  let t := thread [] 0x3F000
  solo { t with v := ((t.v.set 1 (lanes 0x7F800000)).set 2 (lanes 0x7F800001)).set 3 (lanes 0x80000001) }

theorem witness_EnabledLaneFlags :
    (let s := enabledLanes; s.Ready [(VOpd.v 1).place, (VOpd.v 2).place, (VOpd.v 3).place] [(VOpd.v 3).place]) ∧
    (let s := enabledLanes; let x (v : Nat) (i : Nat) : Nat := laneOf 32 (s.src.vec v).toNat i;
      let L (g : Nat → Rounded) : Nat := (lanewise 32 (s.enables 0) 0 fun i _ => g i).flags;
      (∀ op ∈ [FOp.add, .sub, .mul, .div], ¬s.Quiet (L fun i => fArith op .f32 false .rne 0 (x 1 i) (x 2 i))) ∧
      (∀ op ∈ [FOp.sqrt, .rcp, .rsq], ¬s.Quiet (L fun i => fArith op .f32 false .rne 0 (x 2 i) 0)) ∧
      (∀ mx, ¬s.Quiet (L fun i => fMinMax mx .f32 false (x 1 i) (x 2 i))) ∧
      (∀ n, ¬s.Quiet (L fun i => fFma .f32 false .rne 0 n (x 1 i) (x 2 i) (x 1 i))) ∧
      (∀ op ∈ [IOp.add, .mul], ¬s.Quiet (L fun i => ⟨(iArith op .i32 false (x 3 i) (x 3 i)).1, (iArith op .i32 false (x 3 i) (x 3 i)).2, 0⟩)) ∧
      ¬s.Quiet (relF 1 (decode .f32 false false (x 2 0)) (decode .f32 false false (x 1 0))).2 ∧
      ¬s.Quiet (redF .f32 false .rne s.draw .sum [x 1 0, x 2 0] 2).flags ∧ ¬s.Quiet (redI .i32 false .sum [x 3 0, x 3 1]).2 ∧
      ¬s.Quiet (fConvert .i32 .f32 false .rne 0 (x 2 0)).flags ∧
      ¬s.Quiet (fDot .f32 (dotDst .f32) false .rne 0 [(x 1 0, x 2 0)] 0).flags ∧
      ¬s.Quiet (iDot .i8 (dotDst .i8) false [(0x7F, 0x7F)] 0x7FFFFFFF).2) :=
  ⟨ready _ _ _ rfl, by unfold State.Quiet; decide +kernel⟩

/-- Two contenders behind a reservation, and one without a grant. -/
theorem witness_ReservingHeads :
    (let s := launchable 767; let l : List Ranked := [⟨1, 5, true, 2, 3⟩, ⟨0, 5, true, 3, 16384⟩];
      ∀ x ∈ l, x.grant ≠ 0 ∧ x.head = true ∧ (s.pkg 0).bellows.free < x.grant * 256) ∧
    (let r := (launchRecord).set 4 (BitVec.ofNat 64 (2 ^ 47 + 3 * 2 ^ 16));
      let s := { launchable 0 with pkgs := [(0, { queues := [(5, { qcfg := 0x100, recs := [(r, 0)], checked := true })] })] };
      (s.tryStart 0 ⟨recClass r, 0, true, 5, 0⟩).isSome = true) := by decide +kernel

/-- Package 0 with window 63 on a page of package 1, and ports without a link, or failing. -/
def hostedAway (down failed : List Nat) : State :=
  { State.reset with
    npkg := 2
    mem := node 1 0xF000 ++ [(0xF008, 0x0F), (0xF00E, 0x10), (0xF00F, 0xA0)]
    clusters := [(0, { roots := [(0, self)] })]
    pkgs := [(0, { around := { mbwa := [(63, 0x0018000000000001)], mbwb := [(63, 0x10000)], down := down, failed := failed } })] }

theorem witness_HostAcrossTheFabric :
    (∀ wr, ((hostedAway [] []).wakePkg 0).windowRuns 0 63 0 16 wr = some [(2 ^ 42, 16)] ∧
      ((hostedAway [1] []).wakePkg 0).windowRuns 0 63 0 16 wr = some [(2 ^ 42, 16)] ∧
      ((hostedAway [1] [1]).wakePkg 0).windowRuns 0 63 0 16 wr = some [(2 ^ 42, 16)]) ∧
    ((hostedAway [] []).awaitsLink (0 * 8192) (2 ^ 42) = false ∧ (hostedAway [] []).lost (0 * 8192) (2 ^ 42) = false) ∧
    (hostedAway [1] []).awaitsLink (0 * 8192) (2 ^ 42) = true ∧
    ((hostedAway [1] [1]).awaitsLink (0 * 8192) (2 ^ 42) = false ∧ (hostedAway [1] [1]).lost (0 * 8192) (2 ^ 42) = true) ∧
    (((supplied true false 1000000).pkg 0).around.alarm = false ∧ ((supplied true true 1000000).pkg 0).around.alarm = true) := by
  decide +kernel

theorem witness_FetchThatAPortFails :
    (let n := abroad [1] [1]; let b : State := { n with cur := 0, iss := {} };
      b.lingers 0 = false ∧ b.blocked 0 = none ∧ b.me.boundary = none ∧ b.me.pageFail = none ∧ b.me.timerDue b.time = false ∧
      n.spaced 0 = false ∧ (match b.fetchPair with
        | .error st => decide (st = .trap 0x0B 64)
        | .ok _ => false) = true ∧ b.cutOff b.cid b.src.tenant [(2 ^ 42 + 64, 8)] ≠ []) := by decide +kernel

/-- A thread parked at a barrier of the pod, with a member of package 1; ports of package 0 without a link. -/
def podBarrier (down : List Nat) (park : BitVec 16) : State :=
  let key := barrierKey .pod 0 0 0
  { solo { thread [] with slot := .parked, park := .barrier key park.toNat } with
    npkg := 2
    barriers := [(key, { init := true, gen := 5, members := [⟨0, 0, 1, 0, 0, 0⟩, ⟨1, 0, 1, 0, 0, 0⟩] })]
    pkgs := [(0, { around := { down := down } })] }

theorem witness_BarrierAcrossTheFabric :
    (let key := barrierKey .pod 0 0 0; let s := podBarrier [] 4; (s.th 0).park = .barrier key 4 ∧ key / 2 ^ 34 = scopeCode .pod ∧
      (∃ m ∈ (s.barrier key).members, m.pkg ≠ pkgOf (cidOf 0)) ∧ (∀ m ∈ (s.barrier key).members, s.unlinked (pkgOf (cidOf 0)) m.pkg = false) ∧
      ticketPassed (BitVec.ofNat 16 4) ((s.barrier key).genOf (pkgOf (cidOf 0)) (s.th 0).groupNo) = true) ∧
    (let key := barrierKey .pod 0 0 0; let s := podBarrier [1] 4; ∃ m ∈ (s.barrier key).members, s.unlinked (pkgOf (cidOf 0)) m.pkg = true) ∧
    (let s : State := { podBarrier [] 4 with flight := [(0, .tlbi 0 0x0040000000000000 .pod none)], serial := 1 };
      s.item 0 = some (.tlbi 0 0x0040000000000000 .pod none) ∧ (1 : Nat) < s.npkg ∧ (1 : Nat) ≠ pkgOf (cidOf 0) ∧
        ∀ p, p < s.npkg → s.unlinked (pkgOf (cidOf 0)) p = false) ∧
    (podBarrier [1] 4).unlinked (pkgOf (cidOf 0)) 1 = true := by decide +kernel

/-- `spilling` with a frame in package 1, a thread that waits on its windows or not, and ports without a link, or failing. -/
def spillingAway (res depth : Nat) (waits : Bool) (down failed : List Nat := []) : State :=
  let t := (spilling res depth).th 0
  { solo { t with wait := if waits then some ⟨.mem, 1, none, some 8⟩ else some onMemory } with
    npkg := 2
    clusters := [(0, { tu := [⟨0, false, false, 0, 2 ^ 20, 0xA01000000000000F, true⟩] })]
    pkgs := [(0, { around := { down := down, failed := failed } })] }

theorem witness_WindowsAcrossTheFabric :
    (∀ down ∈ [([] : List Nat), [1]], let s := spillingAway 3 3 false down; let y := (s.th 0).sys; (s.th 0).movesWindows = true ∧ 0 < y.res ∧
      y.res ≤ y.depth ∧ y.frames ≤ y.res + 1 ∧ (((s.th 0).issuing && (s.th 0).wait.isNone) || (s.th 0).wait.any fun w => decide (w.ring = some 8)) = false ∧
      same (s.frameAccess 0 (y.frameEa (y.depth - y.res)) true) (.ok (2 ^ 42)) = true ∧
      s.awaitsLink (cidOf 0) (2 ^ 42) = !down.isEmpty) ∧
    (let s := spillingAway 3 3 false [1] [1]; s.awaitsLink (cidOf 0) (2 ^ 42) = false ∧
      inRuns (s.cutOff (cidOf 0) (s.th 0).tenant [(2 ^ 42, 128)]) (2 ^ 42) = true) ∧
    (((spillingAway 3 3 true).th 0).wait.any fun w => decide (w.ring = some 8)) = true ∧
    (let t := { (spilling 3 3).th 0 with wait := none }; t.issuing = true ∧ t.movesWindows = true) ∧
    (∀ down ∈ [([] : List Nat), [1]], let s := spillingAway 0 3 true down; let y := (s.th 0).sys; (s.th 0).movesWindows = true ∧
      y.res < y.depth ∧ y.res = 0 ∧ same (s.frameAccess 0 (y.frameEa (y.depth - y.res - 1)) false) (.ok (2 ^ 42 + 256)) = true ∧
      s.awaitsLink (cidOf 0) (2 ^ 42 + 256) = !down.isEmpty) ∧
    (let s := spillingAway 0 3 true [1] [1]; s.awaitsLink (cidOf 0) (2 ^ 42 + 256) = false ∧
      inRuns (s.cutOff (cidOf 0) (s.th 0).tenant [(2 ^ 42 + 256, 128)]) (2 ^ 42 + 256) = true) ∧
    (let s := spilling 1 3 0; let y := (s.th 0).sys; y.res < min 2 (y.frames - 2) ∧
      same (s.frameAccess 0 (y.frameEa (y.depth - y.res - 1)) false) (.error (.trap 0x04 0xE000000000000080)) = true) ∧
    (∀ res ∈ [0, 4], let t := (spilling res 4).th 0; let s := solo { t with windowFault := some (0x04, 0x80) }; s.guarded 0 = true ∧
      s.src.pend.toNat / 2 ^ 16 = 0 ∧ s.src.busy.toNat / 2 ^ 16 = 0 ∧ s.src.sys.windowOk = true ∧ s.src.windowFault = some (0x04, 0x80) ∧
      s.src.sys.depth ≠ 0 ∧ (s.src.sys.res = s.src.sys.frames ∨ s.src.sys.res = 0)) := by decide +kernel

/-- Die 0 admits no core of tenant 0 at its own scratchpad's port. -/
def shut (x : Item) : State := { flying x with dies := [(0, { members := (List.range 512).map fun i => (i, 0) })] }

theorem witness_MovesThatAPortRefuses :
    (let x : Move := { move 1 8 with src := keyDie 0 0, dst := keyCluster 0 0 }; let s := shut (.move x);
      s.item 0 = some (.move x) ∧ x.refused = false ∧ s.drained 0 0 = true ∧
      (let cut := s.cutOff (cidOf 0) x.tenant (rowsOf x.src x.sstr x.rows x.len ++ rowsOf x.dst x.dstr x.rows x.len);
        inRuns cut (keyDie 0 0) = true ∧ inRuns cut (keyCluster 0 0) = false)) ∧
    (let x : Move := { move 1 8 with src := keyCluster 0 0, dst := keyDie 0 0, deadline := 2 ^ 47 }; let s := shut (.move x);
      inRuns (s.cutOff (cidOf 0) x.tenant (rowsOf x.src x.sstr x.rows x.len ++ rowsOf x.dst x.dstr x.rows x.len)) (keyDie 0 0) = true) ∧
    (let x : Move := { move 1 8 with src := keyDie 0 0, deadline := 2 ^ 63 + 1 };
      let s : State := { flying (.move x) { thread [] with sys := { deadline := 0x8000000000000001 } } with time := 5 };
      s.pastDue x.deadline (rowsOf x.src x.sstr x.rows x.len) = true ∧ (s.th x.tid).sys.deadline.getLsbD 63 = true) ∧
    (let r : Req := { gather 0 with idx := keyDie 0 0 }; let s := shut (.engine 0 r);
      s.item 0 = some (.engine 0 r) ∧ r.fail = false ∧ r.refused = false ∧ r.pause = .no ∧ s.drained r.tid 0 = true ∧ reqOp r.w0 = 1 ∧
        r.pos < reqN r.w3 ∧ s.cutOff 0 r.tenant (State.indexRun r) ≠ []) := by decide +kernel

/-- Participants of a collective of the pod in two packages, and ports of package 0 without a link. -/
theorem witness_CollectiveAcrossTheFabric :
    let r := request 0x30A0000008000000 (BitVec.ofNat 64 (2 * 2 ^ 32));
    ∀ down ∈ [([] : List Nat), [1]],
      let s : State := { solo (thread []) with
        npkg := 2, flight := [(0, .coll 0 r false), (1, .coll 8192 r false)], serial := 2, pkgs := [(0, { around := { down := down } })] };
      let l := s.party ⟨0, 0, r, false⟩;
      reqPcnt r.w3 ≤ l.length ∧ (∀ y ∈ l, y.frozen = false ∧ s.drained y.req.tid y.id = true) ∧ (∀ p ∈ s.flight, p.1 < s.serial) ∧
        (l.any fun a => l.any fun b => s.unlinked (pkgOf a.cid) (pkgOf b.cid)) = !down.isEmpty := by decide +kernel

/-- A message that found no room waits with the deadline of its packet, and goes again. -/
theorem witness_SendRetry : (flying (.waiting (letter) (some 5))).item 0 = some (.waiting (letter) (some 5)) ∧
    (let s := { inboxed 64 (letter 0 false) (thread []) (.message (letter 0x8000 false)) with dies := [(64, { packets := [parcel [0]] })] };
      (s.packetsOf 0).head?.map (fun q => q.2.deadline) = some 0) := by decide +kernel

/-- A third handle finds a channel whose producer has gone, or still feeds it. -/
theorem witness_ProducerThatLeft :
    (let s : State := { pair (thread [16]) (consumer 0) with flight := [(0, .bind 0 0 64 4 16 0 31)], serial := 1 };
      let r := (s.th (s.savedAs 16)).ring 0; r.cur = some (0, 0) ∧ (s.th 0).ring 0 = {} ∧ r.merge = none ∧
        s.isCurrent 0 0 = false) ∧
    (let s : State := { State.reset with
        threads := [(0, thread [16]), (16, consumer 1), (32, withRings [(1, outRing 4)])]
        flight := [(0, .bind 0 0 64 4 16 0 31)], serial := 1 };
      let s : State := s.updTh 16 fun t => t.setRing 0 { t.ring 0 with prods := [(32, 1)], cur := some (32, 1) };
      let r := (s.th (s.savedAs 16)).ring 0; r.cur = some (32, 1) ∧ (32, 1) ∈ r.prods ∧ s.isCurrent 32 1 = true ∧
        s.bindStatus 0 64 4 16 0 = 0) := by decide +kernel

theorem witness_SavedReissue :
    (let a := sync .ste; let s := flying (.refused a) { thread [] with slot := .saved }; s.item 0 = some (.refused a) ∧ (s.th a.tid).slot = .saved) ∧
    (let a := sync .ste; let s := flying (.refused a); s.item 0 = some (.refused a) ∧ (s.th a.tid).slot ≠ .saved) := by decide +kernel

end Sys2Proof.Tests
end

/-! ### Absent and exact codes of the floating formats (01 R12, R20; 17 R295, R297) -/

namespace Sys2Proof.Machine

/-! #### Decoding to absent -/

theorem absentCode_lt (f : Fmt) : absentCode f < 2 ^ fmtWidth f := by
  cases f <;> decide

@[simp] theorem Val.isAbsent_eq_true_iff (v : Val) : v.isAbsent = true ↔ v = .absent := by
  cases v <;> simp [Val.isAbsent]

theorem ofInt_ne_absent (x e : Int) : ofInt x e ≠ .absent := by simp [ofInt]

/-- Only the absent code stands for absent, in every format, with any TX and FTZ. -/
theorem decode_eq_absent_iff (f : Fmt) (tx ftz : Bool) (c : Nat) :
    decode f tx ftz c = .absent ↔ c % 2 ^ fmtWidth f = absentCode f := by
  unfold decode
  by_cases h : c % 2 ^ fmtWidth f = absentCode f
  · simp [h]
  · simp only [h, if_false, iff_false]
    cases fpParams tx f with
    | none => dsimp only; split_ifs <;> simp [ofInt_ne_absent]
    | some p => dsimp only; split_ifs <;> simp

@[simp] theorem decode_absentCode (f : Fmt) (tx ftz : Bool) : decode f tx ftz (absentCode f) = .absent :=
  (decode_eq_absent_iff f tx ftz _).2 (Nat.mod_eq_of_lt (absentCode_lt f))

@[simp] theorem pass_absent (f : Fmt) : pass f .absent = ⟨absentCode f, 0, 0⟩ := by
  simp [pass, encodeVal]

/-! #### Operations with an absent input -/

/-- FSUB, FMUL and FDIV, and the operations of one input, give absent where an input is absent. -/
theorem fArith_absent_left (op : FOp) (hop : op ≠ .add) (f : Fmt) (ftz : Bool) (m : Mode) (w b : Nat) :
    fArith op f ftz m w (absentCode f) b = ⟨absentCode f, 0, 0⟩ := by
  simp [fArith, hop]

theorem fArith_absent_right (op : FOp) (hop : op ≠ .add) (hun : op.unary = false) (f : Fmt) (ftz : Bool) (m : Mode)
    (w a : Nat) : fArith op f ftz m w a (absentCode f) = ⟨absentCode f, 0, 0⟩ := by
  simp [fArith, hop, hun]

theorem fArith_add_absent_left (f : Fmt) (ftz : Bool) (m : Mode) (w b : Nat) :
    fArith .add f ftz m w (absentCode f) b = pass f (decode f false (ftzFor f ftz) b) := by
  simp [fArith]

theorem fArith_add_absent_right (f : Fmt) (ftz : Bool) (m : Mode) (w a : Nat) :
    fArith .add f ftz m w a (absentCode f) = pass f (decode f false (ftzFor f ftz) a) := by
  by_cases h : decode f false (ftzFor f ftz) a = .absent <;> simp [fArith, h]

theorem fMinMax_absent_left (mx : Bool) (f : Fmt) (ftz : Bool) (b : Nat) :
    fMinMax mx f ftz (absentCode f) b = pass f (decode f false (ftzFor f ftz) b) := by
  simp [fMinMax]

theorem fMinMax_absent_right (mx : Bool) (f : Fmt) (ftz : Bool) (a : Nat) :
    fMinMax mx f ftz a (absentCode f) = pass f (decode f false (ftzFor f ftz) a) := by
  by_cases h : decode f false (ftzFor f ftz) a = .absent <;> simp [fMinMax, h]

theorem fFma_absent_left (f : Fmt) (ftz : Bool) (m : Mode) (w : Nat) (neg : Bool) (b d : Nat) :
    fFma f ftz m w neg (absentCode f) b d = pass f (decode f false (ftzFor f ftz) d) := by
  simp [fFma]

theorem fFma_absent_right (f : Fmt) (ftz : Bool) (m : Mode) (w : Nat) (neg : Bool) (a d : Nat) :
    fFma f ftz m w neg a (absentCode f) d = pass f (decode f false (ftzFor f ftz) d) := by
  simp [fFma]

theorem fCompare_absent_left (f : Fmt) (b : Nat) : fCompare f (absentCode f) b = (16, 0) := by
  simp [fCompare]

theorem fCompare_absent_right (f : Fmt) (a : Nat) : fCompare f a (absentCode f) = (16, 0) := by
  simp [fCompare]

theorem fClass_absent (f : Fmt) : fClass f (absentCode f) = 2 ^ 10 := by
  simp [fClass]

/-! #### A code that is no NaN encodes back to itself -/

/-- A format with infinities, NaNs and zeros of both signs, and its parameters (01 R12 to R14). -/
structure IeeeFmt (f : Fmt) (p : FpParams) : Prop where
  params : fpParams false f = some p
  ieee : p.ieee = true
  width : fmtWidth f = p.e + p.f + 1
  signedZero : ∀ neg, zeroCode f p neg = signCode p neg

/-- F64, F32, F16 and BF16 are such formats. -/
theorem exists_ieeeFmt (ty : AFmt) : ∃ p, IeeeFmt ty.fmt p := by
  cases ty <;> exact ⟨_, ⟨rfl, rfl, rfl, fun _ => rfl⟩⟩

/-- A value that is a whole number of its own last places is rounded to itself: where the unit of the rounding is the value's
own exponent, nothing is cut off. -/
theorem roundFin_rne_exact (p : FpParams) (w : Nat) (neg : Bool) (m : Nat) (e : Int)
    (hq : max (1 - (p.bias : Int) - p.f) ((Nat.log2 m : Int) + e - p.f) = e)
    (hmax : (e - (1 - (p.bias : Int) - p.f)).toNat * 2 ^ p.f + m ≤ maxCode p) :
    roundFin p .rne w neg m e = ((e - (1 - (p.bias : Int) - p.f)).toNat * 2 ^ p.f + m, 0) := by
  have hunit : (if (Nat.log2 m : Int) + e - p.f < 1 - (p.bias : Int) - p.f then 1 - (p.bias : Int) - p.f
      else (Nat.log2 m : Int) + e - p.f) = e := by split <;> omega
  simp only [roundFin, hunit]
  simp [roundAt, Nat.not_lt.2 hmax]

/-- A subnormal magnitude rounds to its own code. -/
theorem roundFin_rne_subnormal (p : FpParams) (w : Nat) (neg : Bool) (m : Nat) (hm : m < 2 ^ p.f) (hmax : m ≤ maxCode p) :
    roundFin p .rne w neg m (1 - (p.bias : Int) - p.f) = (m, 0) := by
  have hlog : Nat.log2 m ≤ p.f := by
    rcases Nat.eq_zero_or_pos m with rfl | hpos
    · simp
    · exact Nat.le_of_lt ((Nat.log2_lt (by omega)).2 hm)
  rw [roundFin_rne_exact _ _ _ _ _ (by omega) (by simpa using hmax)]
  simp

/-- A normal magnitude rounds to its own code. -/
theorem roundFin_rne_normal (p : FpParams) (w : Nat) (neg : Bool) (x fr : Nat) (hx : 0 < x) (hfr : fr < 2 ^ p.f)
    (hmax : x * 2 ^ p.f + fr ≤ maxCode p) :
    roundFin p .rne w neg (2 ^ p.f + fr) ((x : Int) - p.bias - p.f) = (x * 2 ^ p.f + fr, 0) := by
  have hlog : Nat.log2 (2 ^ p.f + fr) = p.f :=
    (Nat.log2_eq_iff (by positivity)).2 ⟨by omega, by rw [Nat.pow_succ]; omega⟩
  have hexp : ((x : Int) - p.bias - p.f - (1 - (p.bias : Int) - p.f)).toNat = x - 1 := by omega
  have hcode : (x - 1) * 2 ^ p.f + (2 ^ p.f + fr) = x * 2 ^ p.f + fr := by
    obtain ⟨y, rfl⟩ : ∃ y, x = y + 1 := ⟨x - 1, by omega⟩
    rw [Nat.add_sub_cancel]; ring
  rw [roundFin_rne_exact _ _ _ _ _ (by rw [hlog]; omega) (by rw [hexp, hcode]; exact hmax), hexp, hcode]

/-- A code is its sign, exponent and fraction fields put together again. -/
theorem signCode_add_fields (p : FpParams) (c : Nat) (h : c < 2 ^ (p.e + p.f + 1)) :
    signCode p (decide (c / 2 ^ (p.e + p.f) = 1)) + (c / 2 ^ p.f % 2 ^ p.e * 2 ^ p.f + c % 2 ^ p.f) = c := by
  have hsign : c / 2 ^ (p.e + p.f) < 2 := Nat.div_lt_of_lt_mul (by rwa [Nat.pow_succ] at h)
  have hlow : c / 2 ^ p.f % 2 ^ p.e * 2 ^ p.f + c % 2 ^ p.f = c % 2 ^ (p.e + p.f) := by
    rw [Nat.add_comm p.e, Nat.pow_add, Nat.mod_mul]; ring
  have hsplit := Nat.div_add_mod c (2 ^ (p.e + p.f))
  rw [hlow]
  generalize c / 2 ^ (p.e + p.f) = n at hsign hsplit ⊢
  obtain rfl | rfl : n = 0 ∨ n = 1 := by omega
  · simpa [signCode] using hsplit
  · simpa [signCode] using hsplit

/-- The fields of a finite code lie below those of an infinity. -/
theorem fields_le_maxCode (p : FpParams) (hp : p.ieee = true) (x fr : Nat) (hx : x + 1 < 2 ^ p.e) (hfr : fr < 2 ^ p.f) :
    x * 2 ^ p.f + fr ≤ maxCode p := by
  have hle : (x + 1) * 2 ^ p.f ≤ (2 ^ p.e - 1) * 2 ^ p.f := Nat.mul_le_mul_right _ (by omega)
  simp only [maxCode, hp, if_true]
  rw [Nat.add_mul] at hle
  omega

/-- A finite value whose rounded magnitude is its own code `n` encodes as its sign and `n`, with no flag. -/
theorem encodeVal_fin_of_exact {f : Fmt} {p : FpParams} (hf : IeeeFmt f p) (w : Nat) (neg : Bool) (m n : Nat) (e : Int)
    (hr : roundFin p .rne w neg m e = (n, 0)) (hn : m = 0 → n = 0) :
    encodeVal f false false .rne w (.fin neg m e) = (signCode p neg + n, 0) := by
  by_cases hm : m = 0
  · simp [encodeVal, hf.params, hm, hn hm, hf.signedZero]
  · by_cases hn0 : n = 0 <;> simp [encodeVal, hf.params, hm, hr, hn0, hf.signedZero]

/-- A present code that is no NaN encodes back to itself with no flag: the value is exact in its own format. -/
theorem encodeVal_decode {f : Fmt} {p : FpParams} (hf : IeeeFmt f p) (c : Nat) (hc : c < 2 ^ fmtWidth f)
    (habs : (decode f false false c).isAbsent = false) (hnan : (decode f false false c).isNan = false) :
    encodeVal f false false .rne 0 (decode f false false c) = (c, 0) := by
  have hfields := signCode_add_fields p c (hf.width ▸ hc)
  have hfr : c % 2 ^ p.f < 2 ^ p.f := Nat.mod_lt _ (by positivity)
  have hx : c / 2 ^ p.f % 2 ^ p.e < 2 ^ p.e := Nat.mod_lt _ (by positivity)
  have hpresent : c ≠ absentCode f := by rintro rfl; simp [Val.isAbsent] at habs
  revert hnan
  simp only [decode, Nat.mod_eq_of_lt hc, if_neg hpresent, hf.params, hf.ieee, Bool.true_and, decide_eq_true_eq,
    Bool.false_eq_true, if_false]
  generalize c / 2 ^ p.f % 2 ^ p.e = x at *
  generalize c % 2 ^ p.f = fr at *
  generalize decide (c / 2 ^ (p.e + p.f) = 1) = neg at *
  split_ifs with htop hinf hsub <;> intro hnan
  · -- an infinity
    rw [← hfields]
    simp [encodeVal, hf.params, hf.ieee, htop, hinf]
  · simp [Val.isNan] at hnan
  · -- a zero or a subnormal
    have hmax := fields_le_maxCode p hf.ieee x fr (by omega) hfr
    simp only [hsub, Nat.zero_mul, Nat.zero_add] at hfields hmax
    rw [encodeVal_fin_of_exact hf 0 neg fr fr _ (roundFin_rne_subnormal p 0 neg fr hfr hmax) id, hfields]
  · -- a normal value
    have hmax := fields_le_maxCode p hf.ieee x fr (by omega) hfr
    rw [encodeVal_fin_of_exact hf 0 neg _ _ _ (roundFin_rne_normal p 0 neg x fr (by omega) hfr hmax)
      (fun h => absurd h (by positivity)), hfields]

theorem pass_decode (ty : AFmt) (c : Nat) (hc : c < 2 ^ fmtWidth ty.fmt)
    (habs : (decode ty.fmt false false c).isAbsent = false) (hnan : (decode ty.fmt false false c).isNan = false) :
    pass ty.fmt (decode ty.fmt false false c) = ⟨c, 0, 0⟩ := by
  obtain ⟨p, hf⟩ := exists_ieeeFmt ty
  simp [pass, encodeVal_decode hf c hc habs hnan]

/-- Settles O12: each operation tests for absent before all else, so that its result is absent or the other input passed, and
the passing of a present code is exact. -/
theorem absentInScalarFloat : Obligations.AbsentInScalarFloat := by
  intro ty m w c e f ab v hc
  refine ⟨?absent, ?binary, fArith_absent_left .sqrt (by decide) f false m w e, fArith_add_absent_left f false m w c,
    fArith_add_absent_right f false m w c, fun mx => ⟨fMinMax_absent_left mx f false c, fMinMax_absent_right mx f false c⟩,
    fFma_absent_left f false m w false e c, fFma_absent_right f false m w false e c, ?passAbsent, pass_decode ty c hc,
    fCompare_absent_left f e, fCompare_absent_right f e, fClass_absent f⟩
  case absent => rw [Val.isAbsent_eq_true_iff, decode_eq_absent_iff, Nat.mod_eq_of_lt hc]
  case binary =>
    intro op hop
    have hadd : op ≠ .add := by rintro rfl; simp at hop
    have hun : op.unary = false := by rcases op <;> simp [FOp.unary] at hop ⊢
    exact ⟨fArith_absent_left op hadd f false m w c, fArith_absent_right op hadd hun f false m w c⟩
  case passAbsent => rw [decode_absentCode, pass_absent]

end Sys2Proof.Machine

/-! ### What the delivery of a result changes (01 R29; 05 R95, R96, R103, R104; 13 R225) -/

namespace Sys2Proof.Machine

/-! #### Reading a field that was written -/

theorem getD_setIfInBounds {α : Type} {n : Nat} (v : Vector α n) (i j : Nat) (x d : α) :
    (v.setIfInBounds i x).getD j d = if j = i ∧ i < n then x else v.getD j d := by
  simp only [Vector.getD, Array.getD]
  by_cases hj : j < n
  · by_cases hij : j = i
    · subst hij; simp [hj]
    · simp [hj, hij, Ne.symm hij]
  · have : ¬ (j = i ∧ i < n) := by omega
    simp [hj, this]

/-- A number with a field replaced has the new value's bits in the field and its own elsewhere. -/
theorem testBit_setBits (x hi lo v j : Nat) (h : lo ≤ hi + 1) :
    (setBits x hi lo v).testBit j = if lo ≤ j ∧ j ≤ hi then v.testBit (j - lo) else x.testBit j := by
  obtain ⟨n, hn⟩ : ∃ n, hi + 1 = lo + n := ⟨hi + 1 - lo, by omega⟩
  have hsplit : setBits x hi lo v = 2 ^ lo * (2 ^ n * (x / 2 ^ (lo + n)) + v % 2 ^ n) + x % 2 ^ lo := by
    simp only [setBits, hn, Nat.add_sub_cancel_left, Nat.pow_add]; ring
  rw [hsplit, Nat.testBit_two_pow_mul_add _ (Nat.mod_lt _ (by positivity))]
  by_cases hlow : j < lo
  · simp [hlow, Nat.not_le.2 hlow]
  · rw [if_neg hlow, Nat.testBit_two_pow_mul_add _ (Nat.mod_lt _ (by positivity))]
    by_cases hmid : j - lo < n
    · have : lo ≤ j ∧ j ≤ hi := by omega
      simp [hmid, this]
    · have : ¬ (lo ≤ j ∧ j ≤ hi) := by omega
      have hidx : lo + n + (j - lo - n) = j := by omega
      rw [if_neg hmid, if_neg this, Nat.testBit_div_two_pow, Nat.add_comm, hidx]

theorem getLsbD_setBitOf {n : Nat} (x : BitVec n) (i j : Nat) (b : Bool) (hi : i < n) :
    (setBitOf x i b).getLsbD j = if j = i then b else x.getLsbD j := by
  simp only [setBitOf, BitVec.getLsbD_ofNat, testBit_setBits _ _ _ _ _ (Nat.le_succ i)]
  by_cases hj : j = i
  · subst hj; cases b <;> simp [hi]
  · have : ¬ (i ≤ j ∧ j ≤ i) := by omega
    simp only [if_neg this, if_neg hj, BitVec.testBit_toNat]
    simpa using fun h => BitVec.lt_of_getLsbD h

theorem Thread.vec_setVec (t : Thread) (i j : Nat) (x : BitVec 512) :
    (t.setVec i x).vec j = if j = i ∧ i < 16 then x else t.vec j := getD_setIfInBounds ..

theorem Thread.ring_setRing (t : Thread) (i j : Nat) (r : Ring) :
    (t.setRing i r).ring j = if j = i ∧ i < 8 then r else t.ring j := getD_setIfInBounds ..

/-- p0 keeps its value, true. -/
theorem Thread.pred_setPred (t : Thread) (i j : Nat) (b : Bool) (hi : i < 16) :
    (t.setPred i b).pred j = if j = i ∧ i ≠ 0 then b else t.pred j := by
  by_cases h0 : i = 0
  · simp [Thread.setPred, h0]
  · have hbit := getLsbD_setBitOf t.p i j b hi
    simp only [setBitOf] at hbit
    by_cases hj : j = i
    · subst hj; simpa [Thread.pred, Thread.setPred, h0] using hbit
    · simp [Thread.pred, Thread.setPred, h0, hbit, hj]

@[simp] theorem Thread.mask_zero (t : Thread) : t.mask 0 = BitVec.allOnes 64 := rfl

/-- m0 keeps its value, all ones. -/
theorem Thread.mask_setMask (t : Thread) (i j : Nat) (w : Word) (hi : i < 4) :
    (t.setMask i w).mask j = if j = i ∧ i ≠ 0 then w else t.mask j := by
  by_cases h0 : i = 0
  · simp [Thread.setMask, h0]
  · by_cases hj0 : j = 0
    · subst hj0; simp [Ne.symm h0]
    · simp [Thread.mask, Thread.setMask, h0, hj0, getD_setIfInBounds, hi]

/-- A predicate write keeps every field of the thread but the predicates, and a mask write all but the masks. -/
theorem Thread.setPred_frame (t : Thread) (i : Nat) (b : Bool) : t.setPred i b = { t with p := (t.setPred i b).p } := by
  unfold Thread.setPred; split <;> rfl
theorem Thread.setMask_frame (t : Thread) (i : Nat) (w : Word) : t.setMask i w = { t with m := (t.setMask i w).m } := by
  unfold Thread.setMask; split <;> rfl

/-! #### Everything in flight -/

theorem find?_insert {α : Type} (m : List (Nat × α)) (i j : Nat) (x : α) :
    ((insert m i x).find? fun p => p.1 = j).map (·.2) = if j = i then some x else (m.find? fun p => p.1 = j).map (·.2) := by
  induction m with
  | nil =>
    rcases eq_or_ne i j with rfl | h
    · simp [insert]
    · simp [insert, h, h.symm]
  | cons p t ih =>
    obtain ⟨k, v⟩ := p
    simp only [insert]
    rcases Nat.lt_trichotomy k i with hlt | rfl | hgt
    · rw [if_pos hlt]
      by_cases hk : k = j
      · have : j ≠ i := by omega
        simp [hk, this]
      · simpa [hk] using ih
    · rcases eq_or_ne k j with rfl | h
      · simp
      · simp [h, h.symm]
    · rw [if_neg (by omega), if_neg (by omega)]
      rcases eq_or_ne i j with rfl | h
      · simp
      · simp [h, h.symm]

theorem State.item_post (s : State) (x : Item) (j : Nat) : (s.post x).item j = if j = s.serial then some x else s.item j :=
  find?_insert s.flight s.serial j x

/-! #### Frames of the shared operations -/

theorem State.onlyThreads_updMe (s : State) (f : Thread → Thread) : s.OnlyThreads (s.updMe f) := rfl

theorem State.OnlyThreads.updMe {s t : State} (h : s.OnlyThreads t) (f : Thread → Thread) : s.OnlyThreads (t.updMe f) := by
  unfold State.OnlyThreads at h ⊢
  rw [h]; rfl

theorem State.othersKept_updMe (s : State) (f : Thread → Thread) : s.OthersKept (s.updMe f) :=
  fun u hu => s.th_updMe_of_ne f u hu

theorem State.OthersKept.updMe {s t : State} (h : s.OthersKept t) (hcur : t.cur = s.cur) (f : Thread → Thread) :
    s.OthersKept (t.updMe f) :=
  fun u hu => (t.th_updMe_of_ne f u (hcur ▸ hu)).trans (h u hu)

theorem State.OthersKept.post {s t : State} (h : s.OthersKept t) (x : Item) : s.OthersKept (t.post x) := h

theorem State.OthersKept.storeAt {s t : State} (h : s.OthersKept t) (k : Nat) (data : List Byte) :
    s.OthersKept (t.storeAt k data) := h

theorem State.onlyThreads_flagged (s : State) (fl n : Nat) : s.OnlyThreads (s.flagged fl n) := rfl

theorem State.me_flagged (s : State) (fl n : Nat) : (s.flagged fl n).me =
    { s.me.setStatus (s.me.sys.status ||| BitVec.ofNat 64 (fl % 64)) with draws := s.me.draws + BitVec.ofNat 64 n } := by
  simp [State.flagged, State.drew, State.orFlags, State.me, State.th]

theorem State.othersKept_flagged (s : State) (fl n : Nat) : s.OthersKept (s.flagged fl n) := by
  intro u hu
  simp [State.flagged, State.drew, State.orFlags, State.th, lookup_insert_of_ne _ _ _ _ _ hu.symm]

@[simp] theorem length_toBytes (n x : Nat) : (toBytes n x).length = n := by
  induction n generalizing x with
  | zero => rfl
  | succ n ih => simp [toBytes, ih]

@[simp] theorem State.me_storeAt (s : State) (k : Nat) (data : List Byte) : (s.storeAt k data).me = s.me := rfl

/-- A slot of a LOCAL or IN handle: its bits are replaced and its bytes stored. -/
theorem State.writeSlot_of_not_out (s : State) (q k data : Nat) (typed : Bool) (h : (s.me.ring q).kind ≠ .out) :
    s.writeSlot q k data typed =
      let r := s.me.ring q
      (s.updMe fun t => t.setRing q { r with bits := insert r.bits ((r.tail + k) % r.cap) ⟨false, s.src.tx, typed, s.cur⟩ }).storeAt
        (r.slotKey (r.tail + k)) (toBytes r.size (data % 2 ^ (8 * r.size))) := by
  simp only [State.writeSlot, if_neg h]; rfl

/-- A slot of an OUT handle is staged. -/
theorem State.writeSlot_of_out (s : State) (q k data : Nat) (typed : Bool) (h : (s.me.ring q).kind = .out) :
    s.writeSlot q k data typed =
      let r := s.me.ring q
      s.updMe fun t => t.setRing q { r with
        staged := insert r.staged k ⟨data % 2 ^ (8 * r.size), false, s.src.tx, typed, s.cur⟩ } := by
  simp only [State.writeSlot, if_pos h]; rfl

/-! #### One frame for each kind of result -/

/-- A scalar register result. -/
theorem State.writeX_frame (s : State) (d : XReg) (w : Word) :
    let t := s.writeX d w
    t.me = { s.me with regs := t.me.regs, present := t.me.present } ∧ t.me.reg d.val = w ∧
    t.me.present.getLsbD d.val = true ∧
    ∀ i, i ≠ d.val → t.me.reg i = s.me.reg i ∧ t.me.present.getLsbD i = s.me.present.getLsbD i := by
  intro t
  have hme : t.me = s.me.setReg d.val w := s.me_updMe fun t => t.setReg d.val w
  have hpresent (i : Nat) : t.me.present.getLsbD i = if i = d.val then true else s.me.present.getLsbD i := by
    rw [hme]; exact getLsbD_setBitOf _ _ _ _ d.isLt
  refine ⟨?_, hme ▸ s.me.reg_setReg d w, by simp only [hpresent, if_true], fun i hi => ⟨?_, by rw [hpresent, if_neg hi]⟩⟩
  · rw [hme]; rfl
  · rw [hme]; exact s.me.reg_setReg_of_ne _ _ _ hi.symm

/-- A vector register result. -/
theorem State.writeV_frame (s : State) (d : VReg) (x : Nat) :
    let t := s.writeV (.v d) x
    t.me = { s.me with v := t.me.v } ∧ t.me.vec d.val = BitVec.ofNat 512 x ∧
    ∀ i, i ≠ d.val → t.me.vec i = s.me.vec i := by
  intro t
  have hme : t.me = s.me.setVec d.val (BitVec.ofNat 512 x) := s.me_updMe fun t => t.setVec d.val (BitVec.ofNat 512 x)
  have hvec (i : Nat) : t.me.vec i = if i = d.val ∧ d.val < 16 then BitVec.ofNat 512 x else s.me.vec i := by
    rw [hme]; exact s.me.vec_setVec _ _ _
  refine ⟨?_, by simp [hvec], fun i hi => by simp [hvec, hi]⟩
  rw [hme]; rfl

/-- A predicate result, with the move past the pair. -/
theorem State.setPred_advance_frame (s : State) (d : PReg) (b : Bool) :
    let t := (s.updMe fun t => t.setPred d.val b).advance
    t.me = { s.me with p := t.me.p, pc := s.me.pc + 8, wait := none } ∧ (d.val ≠ 0 → t.me.pred d.val = b) ∧
    t.me.pred 0 = true ∧ ∀ i, i ≠ d.val → t.me.pred i = s.me.pred i := by
  intro t
  have hme : t.me = { s.me.setPred d.val b with pc := s.me.pc + 8, wait := none } := by
    simp [t, State.advance]
  have hpred (i : Nat) : t.me.pred i = if i = d.val ∧ d.val ≠ 0 then b else s.me.pred i := by
    rw [hme]; exact s.me.pred_setPred _ _ _ d.isLt
  refine ⟨?_, fun h0 => by simp [hpred, h0], rfl, fun i hi => by simp [hpred, hi]⟩
  rw [hme, s.me.setPred_frame]

/-- A mask result. -/
theorem State.setMask_updMe_frame (s : State) (d : Fin 4) (w : Word) :
    let t := s.updMe fun t => t.setMask d.val w
    t.me = { s.me with m := t.me.m } ∧ (d.val ≠ 0 → t.me.mask d.val = w) ∧ t.me.mask 0 = BitVec.allOnes 64 ∧
    ∀ i, i ≠ d.val → t.me.mask i = s.me.mask i := by
  intro t
  have hme : t.me = s.me.setMask d.val w := s.me_updMe _
  have hmask (i : Nat) : t.me.mask i = if i = d.val ∧ d.val ≠ 0 then w else s.me.mask i := by
    rw [hme]; exact s.me.mask_setMask _ _ _ d.isLt
  refine ⟨?_, fun h0 => by simp [hmask, h0], rfl, fun i hi => by simp [hmask, hi]⟩
  rw [hme]; exact s.me.setMask_frame _ _

/-- Flags reach STATUS bits [5:0] alone. -/
theorem State.flagged_frame (s : State) (fl n : Nat) :
    let t := s.flagged fl n
    t.me = { s.me with sys := { s.me.sys with status := t.me.sys.status }, draws := s.me.draws + BitVec.ofNat 64 n } ∧
    ∀ j, j < 64 → t.me.sys.status.getLsbD j = (s.me.sys.status.getLsbD j || (decide (j < 6) && fl.testBit j)) := by
  intro t
  have hme := s.me_flagged fl n
  refine ⟨by simp only [t, hme]; rfl, fun j hj => ?_⟩
  have hlow : (fl % 64).testBit j = (decide (j < 6) && fl.testBit j) := Nat.testBit_mod_two_pow fl 6 j
  simp only [t, hme, Thread.setStatus, BitVec.getLsbD_or, BitVec.getLsbD_ofNat, hlow, hj, decide_true, Bool.true_and]

/-- A result of a later cycle. -/
theorem State.resultS_frame (s : State) (d : XReg) (w : Word) :
    let t := s.resultS (.r d) w
    t.me = { s.me with busy := t.me.busy } ∧ t.me.busy.getLsbD d.val = true ∧
    (∀ i, i ≠ d.val → t.me.busy.getLsbD i = s.me.busy.getLsbD i) ∧
    t.item s.serial = some (.result s.cur (.reg d.val) w.toNat) ∧ ∀ j, j ≠ s.serial → t.item j = s.item j := by
  intro t
  have hme : t.me = s.me.setBusy d.val true := s.me_updMe fun t => t.setBusy d.val true
  have hbusy (i : Nat) : t.me.busy.getLsbD i = if i = d.val then true else s.me.busy.getLsbD i := by
    rw [hme]; exact getLsbD_setBitOf _ _ _ _ d.isLt
  have hitem (j : Nat) : t.item j = if j = s.serial then some (.result s.cur (.reg d.val) w.toNat) else s.item j :=
    State.item_post _ _ _
  refine ⟨?_, by simp [hbusy], fun i hi => by simp [hbusy, hi], by simp [hitem], fun j hj => by simp [hitem, hj]⟩
  rw [hme]; rfl

/-- A slot result of an OUT handle. -/
theorem State.writeSlot_out_frame (s : State) (q : Fin 8) (k data : Nat) (typed : Bool) (h : (s.me.ring q.val).kind = .out) :
    let t := s.writeSlot q.val k data typed
    let r := s.me.ring q.val
    t = { s with threads := t.threads, mem := t.mem, poison := t.poison } ∧ s.OthersKept t ∧
    t.me = { s.me with rings := t.me.rings } ∧ (∀ j, j ≠ q.val → t.me.ring j = s.me.ring j) ∧
    t.mem = s.mem ∧ t.poison = s.poison ∧
    t.me.ring q.val =
      { r with staged := insert r.staged k ⟨data % 2 ^ (8 * r.size), ⟨false, s.src.tx, typed, s.cur⟩⟩ } := by
  intro t r
  have ht := s.writeSlot_of_out q.val k data typed h
  simp only [t, ht, State.me_updMe]
  exact ⟨rfl, s.othersKept_updMe _, rfl, fun j hj => by simp [Thread.ring_setRing, hj], rfl, rfl,
    by simp [Thread.ring_setRing, r]⟩

/-- A slot result of any other handle. -/
theorem State.writeSlot_not_out_frame (s : State) (q : Fin 8) (k data : Nat) (typed : Bool)
    (h : (s.me.ring q.val).kind ≠ .out) :
    let t := s.writeSlot q.val k data typed
    let r := s.me.ring q.val
    t = { s with threads := t.threads, mem := t.mem, poison := t.poison } ∧ s.OthersKept t ∧
    t.me = { s.me with rings := t.me.rings } ∧ (∀ j, j ≠ q.val → t.me.ring j = s.me.ring j) ∧
    s.MemKept t (r.slotKey (r.tail + k)) r.size ∧
    t.me.ring q.val = { r with bits := insert r.bits ((r.tail + k) % r.cap) ⟨false, s.src.tx, typed, s.cur⟩ } := by
  intro t r
  have ht := s.writeSlot_of_not_out q.val k data typed h
  simp only [t, ht, State.me_storeAt, State.me_updMe]
  refine ⟨rfl, (s.othersKept_updMe _).storeAt _ _, rfl, fun j hj => by simp [Thread.ring_setRing, hj], fun a ha => ?_,
    by simp [Thread.ring_setRing, r]⟩
  exact readByte_storeAt_outside _ _ _ a (by rwa [length_toBytes])

/-- Settles O59: each delivery is an update of the issuing thread, with for a later result an item in flight and for a slot of
a LOCAL or IN handle a store of its bytes. -/
theorem resultFrame : Obligations.ResultFrame := by
  intro s
  refine ⟨?register, ?vector, ?predicate, ?mask, ?move, ?flags, ?later, ?slot⟩
  case register =>
    intro d w t
    obtain ⟨hme, hself, hpresent, hothers⟩ := s.writeX_frame d w
    exact ⟨s.onlyThreads_updMe _, s.othersKept_updMe _, rfl, hme, hself, hpresent, hothers, rfl⟩
  case vector =>
    intro d x t
    have ht : t = s.updMe fun t => t.setVec d.val (BitVec.ofNat 512 x) := rfl
    exact ⟨ht ▸ s.onlyThreads_updMe _, ht ▸ s.othersKept_updMe _, rfl, s.writeV_frame d x⟩
  case predicate =>
    intro d b
    exact ⟨_, rfl, (s.onlyThreads_updMe _).updMe _, (s.othersKept_updMe _).updMe rfl _, rfl, s.setPred_advance_frame d b⟩
  case mask =>
    intro d w t
    exact ⟨s.onlyThreads_updMe _, s.othersKept_updMe _, s.setMask_updMe_frame d w⟩
  case move => exact ⟨s.onlyThreads_updMe _, s.othersKept_updMe _, rfl, s.me_updMe _⟩
  case flags =>
    intro fl n t
    exact ⟨s.onlyThreads_flagged fl n, s.othersKept_flagged fl n, s.flagged_frame fl n⟩
  case later =>
    intro d w t
    have ht : t = (s.updMe fun t => t.setBusy d.val true).post (.result s.cur (.reg d.val) w.toNat) := rfl
    exact ⟨rfl, ht ▸ (s.othersKept_updMe _).post _, s.resultS_frame d w⟩
  case slot =>
    intro q k data typed t r b
    by_cases h : r.kind = .out
    · obtain ⟨hst, hth, hme, hrings, hmem, hpoison, hring⟩ := s.writeSlot_out_frame q k data typed h
      exact ⟨hst, hth, hme, hrings, fun _ => ⟨hmem, hpoison, hring⟩, fun hn => absurd h hn⟩
    · obtain ⟨hst, hth, hme, hrings, hmem, hring⟩ := s.writeSlot_not_out_frame q k data typed h
      exact ⟨hst, hth, hme, hrings, fun hout => absurd hout h, fun _ => ⟨hmem, hring⟩⟩

end Sys2Proof.Machine

/-! ### The machine after device reset (02 R41; 03 R72; 06 R113; 09 R164; 28 R387, R390) -/

namespace Sys2Proof.Machine

theorem getD_replicate {α : Type} (n i : Nat) (x : α) : (Vector.replicate n x).getD i x = x := by
  simp only [Vector.getD, Array.getD]
  split <;> simp

@[simp] theorem State.reset_th (t : Nat) : State.reset.th t = {} := rfl
@[simp] theorem State.reset_core (c : Nat) : State.reset.core c = {} := rfl
@[simp] theorem State.reset_pkg (p : Nat) : State.reset.pkg p = {} := rfl

@[simp] theorem Thread.seg_default (i : Nat) : ({} : Thread).seg i = (0, 0) := getD_replicate 8 i (0, 0)
@[simp] theorem Thread.reg_default (i : Nat) : ({} : Thread).reg i = 0 := getD_replicate 32 i 0

/-- The search starts at slot 0: the pointer stands at the last slot (09 R164). -/
theorem State.rotation_reset (c : Nat) : State.reset.rotation c = (List.range 16).map fun i => c * 16 + i := by
  refine List.map_congr_left fun i hi => ?_
  have : i < 16 := List.mem_range.1 hi
  have hpos : (15 + 1 + i) % 16 = i := by omega
  exact congrArg (c * 16 + ·) hpos

/-- Settles O58: every map of the reset machine is empty, so that each part of it has the default value. -/
theorem resetState : Obligations.ResetState := by
  refine ⟨fun k => ⟨rfl, rfl, rfl, fun n => rfl⟩,
    fun c => ⟨rfl, rfl, rfl, rfl, rfl, rfl, rfl, rfl, rfl, State.rotation_reset c⟩,
    fun t => ⟨rfl, fun i => ?_, fun i => ?_, rfl⟩, fun p => ⟨rfl, rfl, rfl⟩, wf_reset, rfl, rfl, rfl⟩
  · rw [State.reset_th, Thread.seg_default]
  · rw [State.reset_th, Thread.reg_default]

end Sys2Proof.Machine

/-! ### The checks of a far access (02 R42, R43; 15 R248 to R256) -/

namespace Sys2Proof.Machine

/-! #### How a stopped instruction ends -/

theorem State.issue_error (s : State) (st : Stop) (f : State → R) (hf : f s = .error st) :
    s.issue f = .next (s.halted st) := by simp [State.issue, hf, Except.map]

theorem State.issueC_error (s : State) (st : Stop) (g : Fin 8) (f : State → R) (hg : s.guarded g = true)
    (hf : f s = .error st) : s.issueC g f = .next (s.halted st) := by simp [State.issueC, hg, hf, Except.map]

@[simp] theorem except_ok_bind {ε α β : Type} (a : α) (f : α → Except ε β) : (Except.ok a >>= f) = f a := rfl
@[simp] theorem except_error_bind {ε α β : Type} (e : ε) (f : α → Except ε β) : (Except.error e >>= f) = .error e := rfl
@[simp] theorem except_pure {ε α : Type} (a : α) : (pure a : Except ε α) = .ok a := rfl

/-! #### What holds an access back -/

theorem State.Ready.mono {s : State} {rs rs' ws ws' : List Place} (h : s.Ready rs ws) (hr : rs' ⊆ rs) (hw : ws' ⊆ ws) :
    s.Ready rs' ws' :=
  ⟨fun p hp => h.1 p (hr hp), fun p hp => h.2 p (hw hp)⟩

theorem State.accessGate_of_open (s : State) (h : s.Open) : s.accessGate = .ok () := by
  obtain ⟨hacq, hat⟩ := h
  simp only [State.accessGate, hacq, hat, waitIf_false]
  exact allOf_ok _ (by simp)

theorem State.loadRoom_of_lt (s : State) (h : s.loads s.cur < 8) : s.loadRoom = .ok () := by
  simp [State.loadRoom, Nat.not_le.2 h]

theorem State.bufferRoom_of_le (s : State) (n : Nat) (h : s.src.sb.length + n ≤ 16) : s.bufferRoom n = .ok () := by
  simp [State.bufferRoom, Nat.not_lt.2 h]

theorem State.atomicGate_of_open (s : State) (d : Dest) (h : s.Open) (hl : s.loads s.cur < 8) : s.atomicGate d = .ok () := by
  unfold State.atomicGate
  split
  · exact s.accessGate_of_open h
  · exact allOf_ok _ (by simp [s.accessGate_of_open h, s.loadRoom_of_lt hl])

/-! #### The checks themselves -/

theorem Fld_60_0 (w : Word) : Fld w 60 0 = w.toNat % 2 ^ 61 := by simp [Fld, bits]

/-- The rights that an access needs and its segment lacks. -/
def lacksRights (w0 : Word) (r : Rights) : Bool :=
  (r.rd && !w0.getLsbD 0) || (r.w && !w0.getLsbD 1) || (r.x && !w0.getLsbD 2) || (r.a && !w0.getLsbD 3) ||
    (r.s && !w0.getLsbD 4)

theorem lacksRights_eq_true_iff (w0 : Word) (r : Rights) : lacksRights w0 r = true ↔
    (r.rd = true ∧ w0.getLsbD 0 = false) ∨ (r.w = true ∧ w0.getLsbD 1 = false) ∨ (r.x = true ∧ w0.getLsbD 2 = false) ∨
      (r.a = true ∧ w0.getLsbD 3 = false) ∨ (r.s = true ∧ w0.getLsbD 4 = false) := by
  simp [lacksRights, or_assoc]

/-- The bytes run past LIMIT or past the VA space. -/
def segOutside (w0 w1 : Word) (o n : Nat) : Bool :=
  decide (Fld w1 60 0 ≤ o + n - 1) || decide (2 ^ 52 ≤ Fld w0 51 16 * 2 ^ 16 + o + n - 1)

theorem Thread.segCheck_eq (t : Thread) (ea : Word) (n : Nat) (r : Rights) (al : Nat) :
    t.segCheck ea n r al =
      let w0 := (t.seg (Fld ea 63 61)).1
      let o := ea.toNat % 2 ^ 61
      if segOutside w0 (t.seg (Fld ea 63 61)).2 o n then .error (.trap 0x03 ea)
      else if lacksRights w0 r then .error (.trap 0x04 ea)
      else if ea.toNat % al ≠ 0 then .error (.trap 0x05 ea)
      else .ok (w0.getLsbD 5, Fld w0 51 16 * 2 ^ 16 + o) := by
  simp only [Thread.segCheck, segOutside, lacksRights, Fld_60_0, raiseIf]
  split_ifs <;> simp_all

theorem Thread.denied_iff (t : Thread) (ea : Word) (n : Nat) (r : Rights) (al c : Nat) :
    t.Denied ea n r al c ↔
      let w0 := (t.seg (Fld ea 63 61)).1
      let out := segOutside w0 (t.seg (Fld ea 63 61)).2 (ea.toNat % 2 ^ 61) n
      (c = 0x03 ∧ out = true) ∨ (c = 0x04 ∧ out = false ∧ lacksRights w0 r = true) ∨
        (c = 0x05 ∧ out = false ∧ lacksRights w0 r = false ∧ ea.toNat % al ≠ 0) := by
  simp only [Thread.Denied, ← lacksRights_eq_true_iff, segOutside, Bool.or_eq_true, decide_eq_true_eq, Bool.not_eq_true,
    ← Bool.not_eq_true (_ || _)]

/-- The first check that fails gives its cause and the EA. -/
theorem Thread.segCheck_of_denied (t : Thread) (ea : Word) (n : Nat) (r : Rights) (al c : Nat) (h : t.Denied ea n r al c) :
    t.segCheck ea n r al = .error (.trap c ea) := by
  rw [Thread.segCheck_eq]
  rcases (t.denied_iff ea n r al c).1 h with ⟨rfl, hout⟩ | ⟨rfl, hout, hlacks⟩ | ⟨rfl, hout, hlacks, hal⟩
  · simp only [hout, if_true]
  · simp only [hout, hlacks, if_true, if_false, Bool.false_eq_true]
  · simp only [hout, hlacks, hal, if_true, if_false, Bool.false_eq_true, ne_eq, not_false_eq_true]

/-- An access that no check denies has its VA. -/
theorem Thread.segCheck_of_not_denied (t : Thread) (ea : Word) (n : Nat) (r : Rights) (al : Nat)
    (h : ∀ c, ¬ t.Denied ea n r al c) :
    t.segCheck ea n r al =
      .ok ((t.seg (Fld ea 63 61)).1.getLsbD 5, Fld (t.seg (Fld ea 63 61)).1 51 16 * 2 ^ 16 + ea.toNat % 2 ^ 61) := by
  have hout := mt (t.denied_iff ea n r al 3).2 (h 3)
  have hlacks := mt (t.denied_iff ea n r al 4).2 (h 4)
  have hal := mt (t.denied_iff ea n r al 5).2 (h 5)
  rw [Thread.segCheck_eq]
  simp_all

/-! #### Each kind of access meets its checks -/

theorem State.far_of_denied (s : State) (ea : Word) (n : Nat) (r : Rights) (al acc c : Nat) (h : s.src.Denied ea n r al c) :
    s.far ea n r al acc = .error (.trap c ea) := by
  simp [State.far, s.src.segCheck_of_denied ea n r al c h]

theorem State.farWide_of_denied (s : State) (ea : Word) (n : Nat) (r : Rights) (al acc c : Nat)
    (h : s.src.Denied ea n r al c) : s.farWide ea n r al acc = .error (.trap c ea) := by
  simp [State.farWide, s.far_of_denied ea n r al acc c h]

theorem State.fetchAt_of_denied (s : State) (pc : Word) (c : Nat) (h : s.src.Denied pc 8 { x := true } 8 c) :
    s.fetchAt pc = .error (.trap c pc) := by
  simp [State.fetchAt, State.fetchKey, s.far_of_denied pc 8 _ 8 accFetch c h]

theorem State.loadFar_of_denied (s : State) (d : Dest) (b : XReg) (imm : BitVec 12) (n al c : Nat) (sext acq : Bool)
    (hr : s.Ready [xplace b] d.places) (ho : s.Open) (hl : s.loads s.cur < 8)
    (h : s.src.Denied (s.baseImm b imm) n { rd := true, s := acq } al c) :
    s.loadFar d b imm n al sext acq = .error (.trap c (s.baseImm b imm)) := by
  have hgate : allOf [s.need [xplace b] d.places, s.accessGate, s.loadRoom] = .ok () :=
    allOf_ok _ (by simp [s.need_of_ready _ _ hr, s.accessGate_of_open ho, s.loadRoom_of_lt hl])
  simp [State.loadFar, hgate, s.farWide_of_denied _ n _ al accLoad c h]

theorem State.storeFar_of_denied (s : State) (o : Place) (val : Nat) (b : XReg) (imm : BitVec 12) (n al c : Nat) (rel : Bool)
    (hr : s.Ready [o, xplace b] []) (ho : s.Open) (hl : s.src.sb.length < 16)
    (h : s.src.Denied (s.baseImm b imm) n { w := true, s := rel } al c) :
    s.storeFar o val b imm n al rel = .error (.trap c (s.baseImm b imm)) := by
  have hgate : allOf [s.waits [o, xplace b] [], s.accessGate, s.bufferRoom 1] = .ok () :=
    allOf_ok _ (by simp [s.waits_of_ready _ _ hr, s.accessGate_of_open ho, s.bufferRoom_of_le 1 hl])
  simp [State.storeFar, hgate, s.slotUses_of_ready _ _ hr, s.farWide_of_denied _ n _ al accStore c h]

theorem State.atomicFar_of_denied (s : State) (op : AccOp) (d b : XReg) (v : SOpd) (n c : Nat) (also : List Place)
    (hr : s.Ready ([xplace b, v.place] ++ also) [xplace d]) (ho : s.Open) (hl : s.loads s.cur < 8)
    (h : s.src.Denied (s.readX b) n { rd := true, w := true, a := true } n c) :
    s.atomicFar op d b v n also = .error (.trap c (s.readX b)) := by
  have hgate : allOf [s.waits ([xplace b, v.place] ++ also) [xplace d], s.atomicGate (.reg d.val)] = .ok () :=
    allOf_ok _ (by rw [s.waits_of_ready _ _ hr, s.atomicGate_of_open _ ho hl]; simp)
  simp only [State.atomicFar, hgate, s.slotUses_of_ready _ _ hr, s.far_of_denied _ n _ n accAtomic c h]
  rfl

theorem State.lockOp_of_denied (s : State) (op : AccOp) (d : Dest) (b : XReg) (c : Nat)
    (hr : s.Ready [xplace b] d.places) (ho : s.Open) (hl : s.loads s.cur < 8)
    (h : s.src.Denied (s.readX b) 8 { rd := true, w := true, a := true, s := true } 8 c) :
    s.lockOp op d b = .error (.trap c (s.readX b)) := by
  have hgate : allOf [s.need [xplace b] d.places, s.atomicGate d] = .ok () :=
    allOf_ok _ (by simp [s.need_of_ready _ _ hr, s.atomicGate_of_open _ ho hl])
  simp only [State.lockOp, hgate, s.far_of_denied _ 8 _ 8 accAtomic c h]
  rfl

/-! #### The instructions -/

/-- A far load as it issues. -/
theorem State.issue_loadFar_of_denied (s : State) (d : Dest) (b : XReg) (imm : BitVec 12) (n al c : Nat) (sext acq : Bool)
    (hr : s.Ready [xplace b] d.places) (ho : s.Open) (hl : s.loads s.cur < 8)
    (h : s.src.Denied (s.baseImm b imm) n { rd := true, s := acq } al c) :
    s.issue (fun s => s.loadFar d b imm n al sext acq) = .next (s.halted (.trap c (s.baseImm b imm))) :=
  s.issue_error _ _ (s.loadFar_of_denied d b imm n al c sext acq hr ho hl h)

/-- A far store as it issues, with the value that it reads then. -/
theorem State.issue_storeFar_of_denied (s : State) (o : Place) (val : State → Nat) (b : XReg) (imm : BitVec 12)
    (n al c : Nat) (rel : Bool) (hr : s.Ready [o, xplace b] []) (ho : s.Open) (hl : s.src.sb.length < 16)
    (h : s.src.Denied (s.baseImm b imm) n { w := true, s := rel } al c) :
    s.issue (fun s => s.storeFar o (val s) b imm n al rel) = .next (s.halted (.trap c (s.baseImm b imm))) :=
  s.issue_error _ _ (s.storeFar_of_denied o _ b imm n al c rel hr ho hl h)

/-- A far atomic as it issues, with the operation that it reads then. -/
theorem State.issueC_atomicFar_of_denied (s : State) (op : State → AccOp) (d b : XReg) (v : SOpd) (n c : Nat)
    (also : List Place) (g : Fin 8) (hg : s.guarded g = true) (hr : s.Ready ([xplace b, v.place] ++ also) [xplace d])
    (ho : s.Open) (hl : s.loads s.cur < 8) (h : s.src.Denied (s.readX b) n { rd := true, w := true, a := true } n c) :
    s.issueC g (fun s => s.atomicFar (op s) d b v n also) = .next (s.halted (.trap c (s.readX b))) :=
  s.issueC_error _ g _ hg (s.atomicFar_of_denied _ d b v n c also hr ho hl h)

theorem execAfadd_of_denied (s : State) (d b : XReg) (v : SOpd) (z : Fin 2) (g : Fin 8) (c : Nat)
    (hg : s.guarded g = true) (hr : s.Ready [xplace b, v.place] [xplace d]) (ho : s.Open) (hl : s.loads s.cur < 8)
    (h : s.src.Denied (s.readX b) (atomicSize z.val) { rd := true, w := true, a := true } (atomicSize z.val) c) :
    execAfadd d b v z g s = .next (s.halted (.trap c (s.readX b))) := by
  refine s.issueC_error _ g _ hg ?_
  rw [s.atomicFar_of_denied _ d b v _ c [] hr ho hl h]
  rfl

/-- LOCK or UNLOCK as it issues. -/
theorem State.issueC_lockOp_of_denied (s : State) (op : AccOp) (d : Dest) (b : XReg) (c : Nat) (g : Fin 8)
    (hg : s.guarded g = true) (hr : s.Ready [xplace b] d.places) (ho : s.Open) (hl : s.loads s.cur < 8)
    (h : s.src.Denied (s.readX b) 8 { rd := true, w := true, a := true, s := true } 8 c) :
    s.issueC g (fun s => s.lockOp op d b) = .next (s.halted (.trap c (s.readX b))) :=
  s.issueC_error _ g _ hg (s.lockOp_of_denied op d b c hr ho hl h)

theorem atomicSize_eq (z : Nat) (hz : z < 2) : atomicSize z = if z = 0 then 8 else 4 := by
  simp [atomicSize, Nat.mod_eq_of_lt hz]

/-- Settles O22: every far access of an instruction and every fetch goes through `State.far`, whose first step is the segment
check, once its operands and gates have let it pass. -/
theorem farChecks : Obligations.FarChecks := by
  refine ⟨fun s d b x v y imm c => ⟨?loads, ?stores⟩, fun s d b v z f g c hg ho hl => ⟨?atomics, ?locks⟩,
    fun s pc c h => s.fetchAt_of_denied pc c h, fun t ea n al r h => t.segCheck_of_not_denied ea n r al h⟩
  case loads =>
    have load (q : Dest) (p : Place) (hq : q.places = [p]) (n al : Nat) (sext acq : Bool) (hr : s.Ready [xplace b] [p])
        (ho : s.Open) (hl : s.loads s.cur < 8) :=
      s.issue_loadFar_of_denied q b imm n al c sext acq (hq ▸ hr) ho hl
    simp only [List.forall_mem_cons, List.not_mem_nil, false_imp_iff, implies_true, and_true]
    exact ⟨load (.reg d.val) _ rfl 1 1 false false, load (.reg d.val) _ rfl 1 1 true false,
      load (.reg d.val) _ rfl 2 2 false false, load (.reg d.val) _ rfl 2 2 true false, load (.reg d.val) _ rfl 4 4 false false,
      load (.reg d.val) _ rfl 4 4 true false, load (.reg d.val) _ rfl 8 8 false false, load (.reg d.val) _ rfl 8 8 false true,
      load (.vec v.val) _ rfl 64 8 false false⟩
  case stores =>
    have store (n al : Nat) (rel : Bool) := s.issue_storeFar_of_denied x.place (fun s => (s.readS x).toNat) b imm n al c rel
    simp only [List.forall_mem_cons, List.not_mem_nil, false_imp_iff, implies_true, and_true]
    exact ⟨store 1 1 false, store 2 2 false, store 4 4 false, store 8 8 false, store 8 8 true,
      s.issue_storeFar_of_denied y.place (fun s => s.readV y) b imm 64 8 c false⟩
  case atomics =>
    have fewer (hr : s.Ready [xplace b, v.place, xplace d] [xplace d]) : s.Ready [xplace b, v.place] [xplace d] :=
      hr.mono (by simp) (by simp)
    have atomic (op : AccOp) (k : Nat) (hr : s.Ready [xplace b, v.place, xplace d] [xplace d]) :=
      s.issueC_atomicFar_of_denied (fun _ => op) d b v (atomicSize k) c [] g hg (fewer hr) ho hl
    have hz := atomicSize_eq z.val z.isLt
    simp only [List.forall_mem_cons, List.not_mem_nil, false_imp_iff, implies_true, and_true, ← hz]
    exact ⟨atomic .add z.val, fun hr => execAfadd_of_denied s d b v z g c hg (fewer hr) ho hl,
      atomic (if f.val < 2 then .mins else .minu) f.val, atomic (if f.val < 2 then .maxs else .maxu) f.val,
      atomic .and z.val, atomic .or z.val, atomic .xor z.val, atomic .xchg z.val,
      fun hr => s.issueC_atomicFar_of_denied (fun s => .cas (s.readX d)) d b v _ c [xplace d] g hg hr ho hl⟩
  case locks =>
    have fewer (hr : s.Ready [xplace b] [xplace d]) : s.Ready [xplace b] [] := hr.mono (by simp) (by simp)
    simp only [List.forall_mem_cons, List.not_mem_nil, false_imp_iff, implies_true, and_true]
    exact ⟨fun hr => s.issueC_lockOp_of_denied .lock .none b c g hg (fewer hr) ho hl,
      fun hr => s.issueC_lockOp_of_denied .lock (.reg d.val) b c g hg hr ho hl,
      fun hr => s.issueC_lockOp_of_denied .unlock .none b c g hg (fewer hr) ho hl,
      fun hr => s.issueC_lockOp_of_denied .unlock (.reg d.val) b c g hg hr ho hl⟩

end Sys2Proof.Machine

/-! ### Words of memory: what a load reads after a store (00 R9; 02 R58; 16 R279) -/

namespace Sys2Proof.Machine

/-! #### Folds -/

/-- What every turn of a fold keeps, the fold keeps. -/
theorem foldl_keeps {α β : Type} {R : β → β → Prop} (hrefl : ∀ s, R s s) (htrans : ∀ s t u, R s t → R t u → R s u)
    (f : β → α → β) (hf : ∀ s a, R s (f s a)) (l : List α) (s : β) : R s (l.foldl f s) := by
  induction l generalizing s with
  | nil => exact hrefl s
  | cons a l ih => exact htrans _ _ _ (hf s a) (ih _)

/-! #### Bytes of a number -/

theorem ofBytes_toBytes (n x : Nat) : ofBytes (toBytes n x) = x % 2 ^ (8 * n) := by
  induction n generalizing x with
  | zero => simp [toBytes, ofBytes, Nat.mod_one]
  | succ n ih =>
    have hpow : 2 ^ (8 * (n + 1)) = 256 * 2 ^ (8 * n) := by rw [Nat.mul_succ, Nat.pow_add]; ring
    simp [toBytes, ofBytes, ih, hpow, Nat.mod_mul]

theorem ofBytes_lt (l : List Byte) : ofBytes l < 2 ^ (8 * l.length) := by
  induction l with
  | nil => simp [ofBytes]
  | cons b l ih =>
    have hpow : 2 ^ (8 * (l.length + 1)) = 256 * 2 ^ (8 * l.length) := by rw [Nat.mul_succ, Nat.pow_add]; ring
    have hb := b.isLt
    simp only [ofBytes, List.length_cons, hpow]
    omega

theorem State.load_lt (s : State) (k n : Nat) : s.load k n < 2 ^ (8 * n) := by
  simpa [State.load, State.loadFrom] using ofBytes_lt ((List.range n).map fun i => if s.hidden (k + i) then 0 else readByte s.mem (k + i))

/-! #### What a load depends on -/

/-- Bytes outside the local stores are never those of a channel descriptor. -/
theorem State.hidden_of_far (s : State) (k : Nat) (h : k < 2 ^ 50) : s.hidden k = false := by
  have : isLocalKey k = false := by simp [isLocalKey]; omega
  simp [State.hidden, this]

theorem State.hidden_congr {s t : State} (h : ∀ u, (t.th u).rings = (s.th u).rings) (k : Nat) : t.hidden k = s.hidden k := by
  simp only [State.hidden, h]

theorem State.hidden_of_threads {s t : State} (h : t.threads = s.threads) (k : Nat) : t.hidden k = s.hidden k :=
  State.hidden_congr (fun u => by rw [State.th, State.th, h]) k

theorem State.load_congr {s t : State} {k n : Nat} (hh : ∀ i, i < n → t.hidden (k + i) = s.hidden (k + i))
    (hm : ∀ i, i < n → readByte t.mem (k + i) = readByte s.mem (k + i)) : t.load k n = s.load k n := by
  simp only [State.load, State.loadFrom]
  congr 1
  refine List.map_congr_left fun i hi => ?_
  rw [hh i (List.mem_range.1 hi), hm i (List.mem_range.1 hi)]

theorem State.load_of_mem {s t : State} (hm : t.mem = s.mem) (ht : t.threads = s.threads) (k n : Nat) :
    t.load k n = s.load k n :=
  State.load_congr (fun _ _ => State.hidden_of_threads ht _) (fun _ _ => by rw [hm])

/-! #### One aligned word -/

theorem coversWord_eight (k w : Nat) : coversWord k 8 w = true ↔ w * 8 = k := by
  simp [coversWord]; omega

theorem coversWord_eight_aligned (k i : Nat) (hk : k % 8 = 0) (hi : i < 8) : coversWord k 8 ((k + i) / 8) = true := by
  rw [coversWord_eight]; omega

/-- A whole word that is stored reads back. -/
theorem State.load_storeAt_word (s : State) (k x : Nat) (hk : k % 8 = 0) (hh : ∀ i, i < 8 → s.hidden (k + i) = false) :
    (s.storeAt k (toBytes 8 x)).load k 8 = x % 2 ^ 64 := by
  rw [← ofBytes_toBytes 8 x, State.load, State.loadFrom]
  congr 1
  refine List.ext_getElem (by simp) fun i hi hi' => ?_
  have h8 : i < 8 := by simpa using hi
  have hstored : readByte (s.storeAt k (toBytes 8 x)).mem (k + i) = (toBytes 8 x).getD i 0 :=
    readByte_writeBytes_inside _ _ _ _ _ hi' (by simp [hh i h8, coversWord_eight_aligned k i hk h8])
  have hhid : (s.storeAt k (toBytes 8 x)).hidden (k + i) = false := hh i h8
  simp [hstored, hhid, List.getElem?_eq_getElem hi']

/-- A load of an aligned word after a store of another is as before. -/
theorem State.load_storeAt_word_of_ne (s : State) (k a x : Nat) (h : a + 8 ≤ k ∨ k + 8 ≤ a) :
    (s.storeAt k (toBytes 8 x)).load a 8 = s.load a 8 := by
  refine State.load_congr (fun _ _ => rfl) fun i hi => readByte_storeAt_outside _ _ _ _ ?_
  rw [length_toBytes]; omega

/-- A whole word that is stored loses its poison, and no other word does. -/
theorem State.mem_poison_storeAt_word (s : State) (k x w : Nat) (hk : k % 8 = 0) (hh : s.hidden k = false) :
    w ∈ (s.storeAt k (toBytes 8 x)).poison ↔ w ∈ s.poison ∧ w ≠ k / 8 := by
  have hcov : coversWord k 8 w = true ↔ w = k / 8 := by rw [coversWord_eight]; omega
  by_cases hw : w = k / 8
  · have h1 : coversWord k 8 w = true := hcov.2 hw
    have h2 : w * 8 = k := by omega
    subst hw
    simp [State.storeAt, h1, h2, hh]
  · have h1 : coversWord k 8 w = false := by simpa using mt hcov.1 hw
    simp [State.storeAt, h1, hw]

theorem State.poisoned_word_iff (s : State) (k : Nat) (hk : k % 8 = 0) (hh : s.hidden k = false) :
    s.poisoned k 8 = true ↔ k / 8 ∈ s.poison := by
  simp only [State.poisoned, List.any_eq_true, Bool.and_eq_true, decide_eq_true_eq, Bool.not_eq_true']
  constructor
  · rintro ⟨w, hw, ⟨hlo, hhi⟩, -⟩
    have : w = k / 8 := by omega
    exact this ▸ hw
  · intro hw
    have : k / 8 * 8 = k := by omega
    exact ⟨k / 8, hw, ⟨by omega, by omega⟩, by rwa [this]⟩

end Sys2Proof.Machine

/-! ### Segments, trace records and ranges (02 R41; 20 R348, R355, R356; 28 R397) -/

namespace Sys2Proof.Machine

theorem State.needSup_of_sup (s : State) (h : s.src.sup = true) : s.needSup = .ok () := by simp [State.needSup, h]
theorem State.needSup_of_user (s : State) (h : s.src.sup = false) : s.needSup = .error (.trap 0x02 s.iss.word) := by
  simp [State.needSup, h]

/-! #### SEGLD (20 R348) -/

theorem State.segBlock_of_own (s : State) (na : Word) (hn : na.toNat + 16 ≤ 0x30000) (ha : na.toNat % 16 = 0) :
    s.segBlock na = s.plainWords na.toNat (keyLocal s.cid na.toNat) 2 := by
  simp [State.segBlock, State.ownStore, ha, Nat.not_lt.2 hn]

theorem State.segBlock_of_not_own (s : State) (na : Word) (h : ¬ (na.toNat + 16 ≤ 0x30000 ∧ na.toNat % 16 = 0)) :
    ∃ c, s.segBlock na = .error (.trap c na) := by
  by_cases hn : na.toNat + 16 ≤ 0x30000
  · have ha : na.toNat % 16 ≠ 0 := fun ha => h ⟨hn, ha⟩
    exact ⟨0x05, by simp [State.segBlock, State.ownStore, ha, Nat.not_lt.2 hn]⟩
  · exact ⟨0x03, by simp [State.segBlock, State.ownStore, Nat.lt_of_not_le hn]⟩

theorem badSeg_eq_true_iff (w0 w1 : Word) :
    badSeg w0 w1 = true ↔ Fld w0 63 52 ≠ 0 ∨ Fld w0 15 6 ≠ 0 ∨ Fld w1 63 61 ≠ 0 := by
  simp [badSeg, or_assoc]

section
variable (s : State) (b : XReg) (n g : Fin 8) (hg : s.guarded g = true) (hr : s.Ready [xplace b] []) (ho : s.Open)
include hg hr ho

/-- A block that cannot be read: SUP is asked for first. -/
theorem execSegld_of_trap (c : Nat) (v : Word) (h : s.segBlock (s.readX b) = .error (.trap c v)) :
    execSegld b n g s =
      .next (s.halted (if s.src.sup then .trap c v else .trap 0x02 s.iss.word)) := by
  have hgate : allOf [s.need [xplace b] [], s.accessGate] = .ok () :=
    allOf_ok _ (by simp [s.need_of_ready _ _ hr, s.accessGate_of_open ho])
  refine s.issueC_error _ g _ hg ?_
  cases hsup : s.src.sup
  · simp [hgate, h, s.needSup_of_user hsup]
  · simp [hgate, h, s.needSup_of_sup hsup]

/-- A block that is read: a reserved bit comes before SUP. -/
theorem execSegld_of_words (w0 w1 : Word) (h : s.segBlock (s.readX b) = .ok [w0, w1]) :
    (badSeg w0 w1 = true → execSegld b n g s = .next (s.halted (.trap 0x01 s.iss.word))) ∧
    (badSeg w0 w1 = false → s.src.sup = false → execSegld b n g s = .next (s.halted (.trap 0x02 s.iss.word))) ∧
    (badSeg w0 w1 = false → s.src.sup = true →
      execSegld b n g s = past (s.updMe fun t => { t.setSeg n.val (w0, w1) with fetch := [] })) := by
  have hgate : allOf [s.need [xplace b] [], s.accessGate] = .ok () :=
    allOf_ok _ (by simp [s.need_of_ready _ _ hr, s.accessGate_of_open ho])
  refine ⟨fun hbad => s.issueC_error _ g _ hg ?_, fun hbad hsup => s.issueC_error _ g _ hg ?_,
    fun hbad hsup => s.issueC_ok _ g _ hg ?_⟩
  · simp [hgate, h, hbad]
  · simp [hgate, h, hbad, s.needSup_of_user hsup]
  · simp [hgate, h, hbad, s.needSup_of_sup hsup]

end

/-! #### SEGST (20 R348) -/

/-- A near address that resolves has passed the check of the mode. -/
theorem State.nearMode_of_near {s : State} {na : Word} {n al : Nat} {use : NearUse} {r : Near} (h : s.near na n al use = .ok r) :
    s.nearMode na n = .ok () := by
  cases hm : s.nearMode na n with
  | ok u => rfl
  | error st => simp [State.near, hm] at h

theorem State.nearRange_of_near {s : State} {na : Word} {n al : Nat} {use : NearUse} {r : Near}
    (h : s.near na n al use = .ok r) : nearRange s.cid na.toNat n use = some r := by
  simp only [State.near, State.nearMode_of_near h, except_ok_bind] at h
  cases hr : nearRange s.cid na.toNat n use with
  | none => simp [hr] at h
  | some q =>
    by_cases ha : na.toNat % al = 0
    · simpa [hr, ha] using h
    · simp [hr, ha] at h

/-- A store is a put exactly where its address lies in the core windows. -/
theorem State.put_eq_inWindows {s : State} {na : Word} {n al : Nat} {use : NearUse} {r : Near}
    (h : s.near na n al use = .ok r) : r.put = inWindows na.toNat := by
  have hr := State.nearRange_of_near h
  change (if _ then _ else if inWindows na.toNat = true then _ else _) = some r at hr
  by_cases hwin : inWindows na.toNat = true
  · have hlow : ¬ na.toNat + n ≤ 0x30000 := by simp [inWindows] at hwin; omega
    rw [if_neg hlow, if_pos hwin] at hr
    obtain ⟨-, hr⟩ := Option.ite_none_right_eq_some.1 hr
    rw [← Option.some.inj hr, hwin]
  · rw [if_neg hwin] at hr
    rw [Bool.eq_false_iff.2 hwin]
    split_ifs at hr <;> rw [← Option.some.inj hr]

theorem execSegst_of_near (s : State) (b : XReg) (n g : Fin 8) (r0 r1 : Near) (hg : s.guarded g = true)
    (hr : s.Ready [xplace b] []) (h0 : s.near (s.readX b) 8 8 .store = .ok r0)
    (h1 : s.near (s.readX b + 8) 8 8 .store = .ok r1) (hgate : s.storeGate (s.readX b) 2 = .ok ()) :
    execSegst b n g s =
      past ((s.segStore r0 (s.readX b) (s.src.seg n.val).1).segStore r1 (s.readX b + 8) (s.src.seg n.val).2) := by
  have hneed := s.need_of_ready _ _ hr
  have hready : s.storeReady (s.need [xplace b] []) (s.readX b) 2 = .ok () := by
    rw [hneed]
    exact allOf_ok _ (by simp [waitOf, hgate])
  refine s.issueC_ok _ g _ hg ?_
  simp only [hready, State.nearMode_of_near h0, State.nearMode_of_near h1, h0, h1, except_ok_bind, except_pure]

/-! #### What a trace leaves alone (28 R397) -/

/-- The threads and the issuing one are as before. -/
def State.ThreadsKept (s t : State) : Prop := t.threads = s.threads ∧ t.cur = s.cur

theorem State.ThreadsKept.refl (s : State) : s.ThreadsKept s := ⟨rfl, rfl⟩
theorem State.ThreadsKept.trans {s t u : State} (h : s.ThreadsKept t) (h' : t.ThreadsKept u) : s.ThreadsKept u :=
  ⟨h'.1.trans h.1, h'.2.trans h.2⟩

theorem State.ThreadsKept.th {s t : State} (h : s.ThreadsKept t) (u : Nat) : t.th u = s.th u := by
  simp only [State.th, h.1]
theorem State.ThreadsKept.me {s t : State} (h : s.ThreadsKept t) : t.me = s.me := by
  rw [State.me, State.me, h.th, h.2]

theorem State.threadsKept_grantLock (s : State) (k : Nat) : s.ThreadsKept (s.grantLock k) := by
  unfold State.grantLock
  dsimp only
  split
  · exact .refl s
  · split
    · exact .refl s
    · exact ⟨rfl, rfl⟩

theorem State.threadsKept_settleLocks (s : State) : s.ThreadsKept s.settleLocks := by
  refine foldl_keeps State.ThreadsKept.refl (fun _ _ _ => State.ThreadsKept.trans) _ (fun u k => ?_) _ s
  split
  · exact u.threadsKept_grantLock k
  · exact .refl u

theorem State.threadsKept_traceWords (ws : List Nat) (s : State) (pkg : Nat) : s.ThreadsKept (s.traceWords pkg ws) := by
  induction ws generalizing s with
  | nil => exact .refl s
  | cons w ws ih =>
    simp only [State.traceWords]
    split
    · exact .refl s
    · rename_i k n _
      have hword : s.ThreadsKept (s.storeAt (k + (s.pkg pkg).service.trtail % n) (toBytes 8 w)).settleLocks :=
        State.threadsKept_settleLocks _
      exact hword.trans (ih _)

theorem State.threadsKept_traceLost (s : State) (pkg : Nat) : s.ThreadsKept (s.traceLost pkg) := by
  simp only [State.traceLost]
  split
  · exact .refl s
  · split
    · exact s.threadsKept_traceWords _ pkg
    · exact .refl s

theorem State.threadsKept_trace (s : State) (pkg kind : Nat) (body : List Nat) : s.ThreadsKept (s.trace pkg kind body) := by
  refine (s.threadsKept_traceLost pkg).trans ?_
  simp only [State.trace]
  split
  · exact .refl _
  · split
    · exact State.threadsKept_traceWords _ _ pkg
    · exact ⟨rfl, rfl⟩

theorem State.threadsKept_traceRange (s : State) (tid kind depth label : Nat) :
    s.ThreadsKept (s.traceRange tid kind depth label) := by
  simp only [State.traceRange]
  split
  · exact s.threadsKept_trace _ _ _
  · exact .refl s

/-- Without range capture no record is written. -/
theorem State.traceRange_of_off (s : State) (tid kind depth label : Nat)
    (h : (s.pkg (pkgOf (cidOf tid))).service.trctl.getLsbD 1 = false) : s.traceRange tid kind depth label = s := by
  simp only [State.traceRange, h, Bool.false_and, Bool.false_eq_true, if_false]

/-! #### The words of a record (20 R355; 28 R397) -/

/-- Word `i` after the next one is word `i + 1`. -/
theorem wrap_next (t n i : Nat) : ((t % n + 8) % n + 8 * i) % n = (t + 8 * (i + 1)) % n := by
  have : 8 + 8 * i = 8 * (i + 1) := by omega
  rw [Nat.mod_add_mod, Nat.add_assoc, Nat.mod_add_mod, this]

/-- Words at different positions of the ring stand apart. -/
theorem wrap_apart (t n d : Nat) (hd : 8 ≤ d) (hn : d + 8 ≤ n) : (t + d) % n + 8 ≤ t % n ∨ t % n + 8 ≤ (t + d) % n := by
  have hr : t % n < n := Nat.mod_lt _ (by omega)
  rw [← Nat.mod_add_mod]
  rcases Nat.lt_or_ge (t % n + d) n with h | h
  · rw [Nat.mod_eq_of_lt h]; omega
  · rw [Nat.mod_eq_sub_mod h, Nat.mod_eq_of_lt (by omega)]; omega

/-- The ring starts at a 4 KiB frame and is a power of two long. -/
theorem Service.ring_aligned (v : Service) (pkg k n : Nat) (h : v.ring pkg = some (k, n)) :
    k % 8 = 0 ∧ n % 8 = 0 ∧ 2 ^ 16 ≤ n := by
  simp only [Service.ring] at h
  split at h
  · rename_i hv
    obtain ⟨i, -, hi⟩ := List.any_eq_true.1 (Bool.and_eq_true_iff.1 hv).2
    rw [decide_eq_true_eq] at hi
    have hpos : 0 < 2 ^ i := by positivity
    have hn : n = 2 ^ 16 * 2 ^ i := by rw [← Nat.pow_add, ← hi]; simp_all
    have hk : keyFar pkg (Fld v.trbase 32 31) (Fld v.trbase 30 30) (Fld v.trbase 26 0 * 2 ^ 12) = k := by simp_all
    simp only [keyFar] at hk
    omega
  · cases h

theorem State.settleLocks_of_no_locks (s : State) (h : s.locks = []) : s.settleLocks = s := by simp [State.settleLocks, h]

/-- The tail of a package's trace ring. -/
def State.trtail (s : State) (pkg : Nat) : Nat := (s.pkg pkg).service.trtail

/-- One word of a record, at the tail. -/
def State.traceWord (s : State) (pkg k n w : Nat) : State :=
  (s.storeAt (k + s.trtail pkg % n) (toBytes 8 w)).updPkg pkg fun p =>
    { p with service := { (s.pkg pkg).service with trtail := (s.trtail pkg % n + 8) % n } }

theorem State.traceWords_cons (s : State) (pkg k n w : Nat) (ws : List Nat) (hl : s.locks = [])
    (hr : (s.pkg pkg).service.ring pkg = some (k, n)) :
    s.traceWords pkg (w :: ws) = (s.traceWord pkg k n w).traceWords pkg ws := by
  have hs : (s.storeAt (k + s.trtail pkg % n) (toBytes 8 w)).settleLocks = s.storeAt (k + s.trtail pkg % n) (toBytes 8 w) :=
    State.settleLocks_of_no_locks _ hl
  rw [State.trtail] at hs
  simp only [State.traceWords, hr, hs]
  rfl

@[simp] theorem State.pkg_updPkg (s : State) (p : Nat) (f : Pkg → Pkg) : (s.updPkg p f).pkg p = f (s.pkg p) :=
  s.pkg_setPkg p _

theorem State.trtail_traceWord (s : State) (pkg k n w : Nat) :
    (s.traceWord pkg k n w).trtail pkg = (s.trtail pkg % n + 8) % n := by
  simp only [State.trtail, State.traceWord, State.pkg_updPkg]

theorem State.ring_traceWord (s : State) (pkg k n w : Nat) :
    ((s.traceWord pkg k n w).pkg pkg).service.ring pkg = (s.pkg pkg).service.ring pkg := by
  simp only [State.traceWord, State.pkg_updPkg, Service.ring]

theorem State.load_traceWord (s : State) (pkg k n w : Nat) (hp : (k + s.trtail pkg % n) % 8 = 0)
    (hfar : k + s.trtail pkg % n + 8 ≤ 2 ^ 50) : (s.traceWord pkg k n w).load (k + s.trtail pkg % n) 8 = w % 2 ^ 64 :=
  s.load_storeAt_word _ w hp fun i hi => s.hidden_of_far _ (by omega)

theorem State.readByte_traceWord_outside (s : State) (pkg k n w a : Nat)
    (ha : a < k + s.trtail pkg % n ∨ k + s.trtail pkg % n + 8 ≤ a) :
    readByte (s.traceWord pkg k n w).mem a = readByte s.mem a :=
  readByte_storeAt_outside s _ _ a (by rwa [length_toBytes])

/-- What the words of a record leave: each at its place in the ring, the tail past them, and every other byte as before. -/
structure TraceWritten (s t : State) (pkg k n : Nat) (ws : List Nat) : Prop where
  tail : ws ≠ [] → t.trtail pkg = (s.trtail pkg + 8 * ws.length) % n
  words : ∀ i (h : i < ws.length), t.load (k + (s.trtail pkg + 8 * i) % n) 8 = ws[i] % 2 ^ 64
  kept : ∀ a, (∀ i, i < ws.length → a < k + (s.trtail pkg + 8 * i) % n ∨ k + (s.trtail pkg + 8 * i) % n + 8 ≤ a) →
    readByte t.mem a = readByte s.mem a

/-- A first word, and the others after it. -/
theorem TraceWritten.cons {s u t : State} {pkg k n w : Nat} {ws : List Nat} (hlen : 8 * (ws.length + 1) ≤ n)
    (htail : u.trtail pkg = (s.trtail pkg % n + 8) % n) (hw : u.load (k + s.trtail pkg % n) 8 = w % 2 ^ 64)
    (hout : ∀ a, a < k + s.trtail pkg % n ∨ k + s.trtail pkg % n + 8 ≤ a → readByte u.mem a = readByte s.mem a)
    (hnil : ws = [] → t = u) (hth : t.threads = u.threads) (h : TraceWritten u t pkg k n ws) :
    TraceWritten s t pkg k n (w :: ws) := by
  have hpos (i : Nat) : (u.trtail pkg + 8 * i) % n = (s.trtail pkg + 8 * (i + 1)) % n := by
    rw [htail, wrap_next]
  refine ⟨fun _ => ?tail, fun i hi => ?words, fun a ha => ?kept⟩
  case tail =>
    by_cases hws : ws = []
    · rw [hnil hws, htail, hws]; simp
    · rw [h.tail hws, hpos, List.length_cons]
  case words =>
    cases i with
    | zero =>
      rw [Nat.mul_zero, Nat.add_zero, List.getElem_cons_zero, ← hw]
      refine State.load_congr (fun _ _ => State.hidden_of_threads hth _) fun j hj => h.kept _ fun i hi => ?_
      rw [hpos]
      rcases wrap_apart (s.trtail pkg) n (8 * (i + 1)) (by omega) (by omega) with h | h <;> omega
    | succ i =>
      rw [← hpos, List.getElem_cons_succ]
      exact h.words i (by simpa using hi)
  case kept =>
    rw [h.kept a fun i hi => by rw [hpos]; exact ha (i + 1) (by simpa using hi)]
    exact hout a (by simpa using ha 0 (by simp))

theorem State.traceWords_written (ws : List Nat) (s : State) (pkg k n : Nat) (hl : s.locks = [])
    (hr : (s.pkg pkg).service.ring pkg = some (k, n)) (hfar : k + n ≤ 2 ^ 50) (ht : s.trtail pkg % 8 = 0)
    (hlen : 8 * ws.length ≤ n) : TraceWritten s (s.traceWords pkg ws) pkg k n ws := by
  induction ws generalizing s with
  | nil => exact ⟨fun h => absurd rfl h, fun i h => absurd h (Nat.not_lt_zero i), fun a _ => rfl⟩
  | cons w ws ih =>
    obtain ⟨hk8, hn8, hn⟩ := Service.ring_aligned _ _ _ _ hr
    have hmod : s.trtail pkg % n < n := Nat.mod_lt _ (by omega)
    have hdvd (x : Nat) : x % n % 8 = x % 8 := Nat.mod_mod_of_dvd _ (Nat.dvd_of_mod_eq_zero hn8)
    have ht8 : s.trtail pkg % n % 8 = 0 := (hdvd _).trans ht
    have ht' : (s.traceWord pkg k n w).trtail pkg % 8 = 0 := by rw [State.trtail_traceWord, hdvd]; omega
    rw [List.length_cons] at hlen
    rw [s.traceWords_cons pkg k n w ws hl hr]
    exact .cons hlen (s.trtail_traceWord pkg k n w) (s.load_traceWord pkg k n w (by omega) (by omega))
      (s.readByte_traceWord_outside pkg k n w) (fun h => by rw [h]; rfl) (State.threadsKept_traceWords ws _ pkg).1
      (ih _ hl ((s.ring_traceWord pkg k n w).trans hr) ht' (by omega))

/-! #### TREMIT (20 R355) -/

/-- With no dropped record to report, a record goes to the ring or is dropped. -/
theorem State.trace_of_ring (s : State) (pkg kind k n : Nat) (body : List Nat)
    (hr : (s.pkg pkg).service.ring pkg = some (k, n)) (hd : (s.pkg pkg).service.trdrop = 0) :
    s.trace pkg kind body =
      if body.length + 1 ≤ (s.pkg pkg).service.free n then
        s.traceWords pkg (traceHeader kind (body.length + 1) s.time.toNat :: body)
      else s.updPkg pkg fun p => { p with service := { p.service with
        trlost := min ((s.pkg pkg).service.trlost + 1) (2 ^ 32 - 1), trdrop := 1 } } := by
  have hlost : s.traceLost pkg = s := by simp only [State.traceLost, hr, hd, Nat.lt_irrefl, false_and, if_false]
  rw [State.trace, hlost]
  simp only [hr]
  rw [hd]
  simp only [true_and, Nat.zero_add]

theorem State.trace_of_no_ring (s : State) (pkg kind : Nat) (body : List Nat) (hr : (s.pkg pkg).service.ring pkg = none) :
    s.trace pkg kind body = s := by
  have hlost : s.traceLost pkg = s := by simp [State.traceLost, hr]
  rw [State.trace, hlost]
  simp only [hr]

theorem execTremit_of_user (s : State) (x : SOpd) (g : Fin 8) (hg : s.guarded g = true) (hr : s.Ready [x.place] [])
    (hs : s.src.sup = false) : execTremit x g s = .next (s.halted (.trap 0x02 s.iss.word)) :=
  s.issueC_error _ g _ hg (by simp [s.waits_of_ready _ _ hr, s.needSup_of_user hs])

theorem execTremit_of_sup (s : State) (x : SOpd) (g : Fin 8) (hg : s.guarded g = true) (hr : s.Ready [x.place] [])
    (hs : s.src.sup = true) : execTremit x g s =
      past (if (s.pkg (pkgOf s.cid)).service.trctl.getLsbD 0 then
        s.trace (pkgOf s.cid) 1 [Fld (s.readS x) 61 0, Fld (s.readS x) 63 62 * 2 ^ 17 + ptid s.cur] else s) := by
  refine s.issueC_ok _ g _ hg ?_
  simp only [s.waits_of_ready _ _ hr, s.needSup_of_sup hs, s.slotUses_of_ready _ _ hr, s.reading_of_ready _ _ hr,
    except_ok_bind]
  split <;> rfl

/-- The three words of an EMIT record (20 R355). -/
theorem emit_words (s : State) (w : Word) :
    traceHeader 1 3 s.time.toNat % 2 ^ 64 = 3 * 2 ^ 62 + 1 * 2 ^ 56 + 2 * 2 ^ 54 + s.time.toNat ∧
    Fld w 61 0 % 2 ^ 64 = Fld w 61 0 ∧
    (Fld w 63 62 * 2 ^ 17 + s.cur % 2 ^ 17) % 2 ^ 64 = Fld w 63 62 * 2 ^ 17 + s.cur % 2 ^ 17 := by
  have ht := s.time.isLt
  have h1 : Fld w 61 0 < 2 ^ 62 := Nat.mod_lt _ (by positivity)
  have h2 : Fld w 63 62 < 2 ^ 2 := Nat.mod_lt _ (by positivity)
  refine ⟨?_, Nat.mod_eq_of_lt (by omega), Nat.mod_eq_of_lt (by omega)⟩
  rw [traceHeader]; omega

/-- A record that the ring has room for. -/
theorem State.trace_emit_room (s : State) (w : Word) (pkg k n : Nat) (hr : (s.pkg pkg).service.ring pkg = some (k, n))
    (hfar : k + n ≤ 2 ^ 50) (ht : s.trtail pkg % 8 = 0) (hd : (s.pkg pkg).service.trdrop = 0) (hl : s.locks = [])
    (hfree : 3 ≤ (s.pkg pkg).service.free n) :
    let t := s.trace pkg 1 [Fld w 61 0, Fld w 63 62 * 2 ^ 17 + ptid s.cur]
    t.trtail pkg = (s.trtail pkg + 24) % n ∧
    t.load (k + s.trtail pkg % n) 8 = 3 * 2 ^ 62 + 1 * 2 ^ 56 + 2 * 2 ^ 54 + s.time.toNat ∧
    t.load (k + (s.trtail pkg + 8) % n) 8 = Fld w 61 0 ∧
    t.load (k + (s.trtail pkg + 16) % n) 8 = Fld w 63 62 * 2 ^ 17 + s.cur % 2 ^ 17 ∧
    ∀ a, a < k ∨ k + n ≤ a → readByte t.mem a = readByte s.mem a := by
  intro t
  have htrace := s.trace_of_ring pkg 1 k n [Fld w 61 0, Fld w 63 62 * 2 ^ 17 + ptid s.cur] hr hd
  rw [if_pos (by exact hfree)] at htrace
  obtain ⟨hk8, hn8, hn⟩ := Service.ring_aligned _ _ _ _ hr
  obtain ⟨htail, hwords, hkept⟩ := s.traceWords_written
    [traceHeader 1 3 s.time.toNat, Fld w 61 0, Fld w 63 62 * 2 ^ 17 + ptid s.cur] pkg k n hl hr hfar ht
    (by simp only [List.length_cons, List.length_nil]; omega)
  have heq : t = s.traceWords pkg [traceHeader 1 3 s.time.toNat, Fld w 61 0, Fld w 63 62 * 2 ^ 17 + ptid s.cur] := htrace
  rw [← heq] at htail hwords hkept
  obtain ⟨h0, h1, h2⟩ := emit_words s w
  refine ⟨htail (by simp), (hwords 0 (by simp)).trans h0, (hwords 1 (by simp)).trans h1, (hwords 2 (by simp)).trans h2,
    fun a ha => hkept a fun i _ => ?_⟩
  have hpos : (s.trtail pkg + 8 * i) % n < n := Nat.mod_lt _ (by omega)
  have hpos8 : (s.trtail pkg + 8 * i) % n % 8 = 0 := by
    rw [Nat.mod_mod_of_dvd _ (Nat.dvd_of_mod_eq_zero hn8)]; omega
  omega

/-! #### RPUSH and RPOP (20 R356) -/

theorem execRpush_of_full (s : State) (x : SOpd) (g : Fin 8) (hg : s.guarded g = true) (hr : s.Ready [x.place] [])
    (hn : 16 ≤ s.src.ranges.length) :
    execRpush x g s = past (s.updMe fun t => { t with overflow := t.overflow + 1 }) :=
  s.issueC_ok _ g _ hg (by simp only [s.operands_of_ready _ _ hr, except_ok_bind, if_pos hn, except_pure])

theorem execRpush_of_room (s : State) (x : SOpd) (g : Fin 8) (hg : s.guarded g = true) (hr : s.Ready [x.place] [])
    (hn : s.src.ranges.length < 16) :
    execRpush x g s = past ((s.updMe fun t => { t with ranges := t.ranges ++ [(s.readS x).setWidth 16] }).traceRange s.cur 2
      (s.src.ranges.length + 1) ((s.readS x).setWidth 16 : BitVec 16).toNat) :=
  s.issueC_ok _ g _ hg (by
    simp only [s.operands_of_ready _ _ hr, except_ok_bind, if_neg (Nat.not_le.2 hn), except_pure])

theorem execRpop_of_overflow (s : State) (d : XReg) (g : Fin 8) (hg : s.guarded g = true) (hr : s.Ready [] [xplace d])
    (ho : s.src.overflow ≠ 0) :
    execRpop d g s = (s.updMe fun t => { t with overflow := t.overflow - 1 }).deliversX d 0x10000 :=
  s.issueC_ok _ g _ hg (by simp only [s.need_of_ready _ _ hr, except_ok_bind, if_pos ho, except_pure])

theorem execRpop_of_empty (s : State) (d : XReg) (g : Fin 8) (hg : s.guarded g = true) (hr : s.Ready [] [xplace d])
    (ho : s.src.overflow = 0) (hn : s.src.ranges = []) : execRpop d g s = s.deliversX d 0x10000 :=
  s.issueC_ok _ g _ hg (by simp [s.need_of_ready _ _ hr, ho, hn])

theorem execRpop_of_label (s : State) (d : XReg) (g : Fin 8) (label : BitVec 16) (hg : s.guarded g = true)
    (hr : s.Ready [] [xplace d]) (ho : s.src.overflow = 0) (hn : s.src.ranges.getLast? = some label) :
    execRpop d g s = past (((s.updMe fun t => { t with ranges := t.ranges.dropLast }).traceRange s.cur 3
      s.src.ranges.length label.toNat).writeX d (label.setWidth 64)) :=
  s.issueC_ok _ g _ hg (by simp [s.need_of_ready _ _ hr, ho, hn])

/-- An update of the issuing thread with a RANGE record: the update, and a write of memory where capture is on. -/
theorem State.traceRange_updMe_frame (s : State) (f : Thread → Thread) (kind depth label : Nat) :
    let t := (s.updMe f).traceRange s.cur kind depth label
    s.OthersKept t ∧ t.cur = s.cur ∧ t.me = f s.me ∧
      ((s.pkg (pkgOf s.cid)).service.trctl.getLsbD 1 = false → t.mem = s.mem) := by
  intro t
  have h : (s.updMe f).ThreadsKept t := State.threadsKept_traceRange _ _ _ _ _
  refine ⟨fun u hu => (h.th u).trans (s.th_updMe_of_ne f u hu), h.2, h.me.trans (s.me_updMe f), fun hoff => ?_⟩
  have : t = s.updMe f := State.traceRange_of_off _ _ _ _ _ hoff
  rw [this]; rfl

/-! #### The obligation -/

/-- Settles O42: each instruction is its checks in the order of 12 R207 and one update of the issuing thread; a record of
three words goes into the trace ring word by word, each at its own place. -/
theorem segmentsAndTrace : Obligations.SegmentsAndTrace := by
  refine ⟨?segments, ?tremit, fun s x g hg hr => ⟨execRpush_of_full s x g hg hr, ?push⟩,
    fun s d g hg hr => ⟨execRpop_of_overflow s d g hg hr, execRpop_of_empty s d g hg hr, ?pop⟩⟩
  case' segments =>
    intro s b n g hg hr na
    refine ⟨?unreadable, ?readable, ?poisoned, ?segst⟩
  case' tremit =>
    intro s x g hg hr pkg v w
    refine ⟨?user, ?off, ?emit⟩
  case unreadable =>
    intro ho hsup hn
    obtain ⟨c, hc⟩ := s.segBlock_of_not_own na hn
    rw [exec_segld, execSegld_of_trap s b n g hg hr ho c na hc, hsup]
    rfl
  case readable =>
    intro ho hn ha w0 w1 hw bad
    obtain ⟨hbad, huser, hsup⟩ := execSegld_of_words s b n g hg hr ho w0 w1 ((s.segBlock_of_own na hn ha).trans hw)
    have hiff : badSeg w0 w1 = true ↔ bad := badSeg_eq_true_iff w0 w1
    have hnot (h : ¬bad) : badSeg w0 w1 = false := Bool.eq_false_iff.2 (mt hiff.1 h)
    exact ⟨fun h => hbad (hiff.2 h), fun h => huser (hnot h), fun h => hsup (hnot h)⟩
  case poisoned =>
    intro ho hn ha c v hw
    have h := execSegld_of_trap s b n g hg hr ho c v ((s.segBlock_of_own na hn ha).trans hw)
    exact ⟨fun hsup => by rw [exec_segld, h, hsup]; rfl, fun hsup => by rw [exec_segld, h, hsup]; rfl⟩
  case segst =>
    intro r0 r1 h0 h1 hput
    refine ⟨fun hp hacq => ?_, fun hp ho hsb => ?_⟩
    · have hgate : s.storeGate na 2 = .ok () := by
        simp [State.storeGate, ← State.put_eq_inWindows h0, hp, State.acquireGate, hacq]
      rw [exec_segst, execSegst_of_near s b n g r0 r1 hg hr h0 h1 hgate]
      simp only [State.segStore, hp, ← hput, if_true]
      rfl
    · have hgate : s.storeGate na 2 = .ok () := by
        simp only [State.storeGate, ← State.put_eq_inWindows h0, hp, Bool.false_eq_true, if_false]
        exact allOf_ok _ (by simp [s.accessGate_of_open ho, s.bufferRoom_of_le 2 (by omega)])
      rw [exec_segst, execSegst_of_near s b n g r0 r1 hg hr h0 h1 hgate]
      simp only [State.segStore, hp, ← hput, Bool.false_eq_true, if_false]
      rfl
  case user => exact execTremit_of_user s x g hg hr
  case off =>
    intro hsup hoff
    rw [exec_tremit, execTremit_of_sup s x g hg hr hsup]
    rcases hoff with hoff | hoff
    · rw [if_neg (by rw [hoff]; decide)]
    · rw [s.trace_of_no_ring _ _ _ hoff, ite_self]
  case emit =>
    intro hsup hon k n hring hfar ht hd hl _
    have hexec := execTremit_of_sup s x g hg hr hsup
    rw [if_pos hon] at hexec
    have hth := (s.threadsKept_trace pkg 1 [Fld w 61 0, Fld w 63 62 * 2 ^ 17 + ptid s.cur]).1
    refine ⟨fun hfree => ⟨_, hexec, hth, s.trace_emit_room w pkg k n hring hfar ht hd hl hfree⟩, fun hfull => ?_⟩
    have hdrop := s.trace_of_ring pkg 1 k n [Fld w 61 0, Fld w 63 62 * 2 ^ 17 + ptid s.cur] hring hd
    rw [if_neg (by exact Nat.not_le.2 hfull)] at hdrop
    refine ⟨_, hexec, hth, ?_⟩
    rw [hdrop]
    refine ⟨rfl, ?_, ?_, ?_⟩ <;> rw [State.pkg_updPkg]
  case push =>
    intro hn
    refine ⟨_, execRpush_of_room s x g hg hr hn, ?_⟩
    obtain ⟨hothers, -, hme, hmem⟩ := s.traceRange_updMe_frame
      (fun t => { t with ranges := t.ranges ++ [(s.readS x).setWidth 16] }) 2 (s.src.ranges.length + 1)
      ((s.readS x).setWidth 16 : BitVec 16).toNat
    rw [hme]
    exact ⟨hothers, rfl, rfl, rfl, hmem⟩
  case pop =>
    intro ho label hlast
    refine ⟨_, execRpop_of_label s d g label hg hr ho hlast, ?_⟩
    obtain ⟨hothers, hcur, hme, hmem⟩ := s.traceRange_updMe_frame
      (fun t => { t with ranges := t.ranges.dropLast }) 3 s.src.ranges.length label.toNat
    set u := (s.updMe fun t => { t with ranges := t.ranges.dropLast }).traceRange s.cur 3 s.src.ranges.length label.toNat
    obtain ⟨hframe, hself, -, hregs⟩ := u.writeX_frame d (label.setWidth 64)
    refine ⟨hothers.updMe hcur _, ?_, hself, fun i hi => (hregs i hi).1.trans ?_, hmem⟩
    · rw [hframe, hme]
    · rw [hme]; rfl

end Sys2Proof.Machine

/-! ### What is in flight, and what the far net and the packages take with them (03 R59 to R66; 28 R391) -/

namespace Sys2Proof.Machine

/-! #### Items in flight -/

theorem find?_erase {α : Type} (m : List (Nat × α)) (i j : Nat) :
    ((erase m i).find? fun p => p.1 = j).map (·.2) = if j = i then none else (m.find? fun p => p.1 = j).map (·.2) := by
  induction m with
  | nil => simp [erase]
  | cons p t ih =>
    obtain ⟨k, v⟩ := p
    simp only [erase]
    by_cases hk : k = i
    · rw [if_pos hk, ih]
      by_cases hj : j = i
      · rw [if_pos hj, if_pos hj]
      · have : k ≠ j := by omega
        rw [if_neg hj, if_neg hj]; simp [this]
    · rw [if_neg hk]
      by_cases hj : k = j
      · have : j ≠ i := by omega
        simp [hj, this]
      · simpa [hj] using ih

theorem State.item_setItem (s : State) (i : Nat) (x : Item) (j : Nat) :
    (s.setItem i x).item j = if j = i then some x else s.item j := find?_insert s.flight i j x

theorem State.item_dropItem (s : State) (i j : Nat) : (s.dropItem i).item j = if j = i then none else s.item j :=
  find?_erase s.flight i j

@[simp] theorem State.item_setItem_self (s : State) (i : Nat) (x : Item) : (s.setItem i x).item i = some x := by
  rw [State.item_setItem, if_pos rfl]
@[simp] theorem State.item_dropItem_self (s : State) (i : Nat) : (s.dropItem i).item i = none := by
  rw [State.item_dropItem, if_pos rfl]
@[simp] theorem State.item_post_self (s : State) (x : Item) : (s.post x).item s.serial = some x := by
  rw [State.item_post, if_pos rfl]

/-- The request of an engine changes in place. -/
theorem State.mapReq_of_engine (s : State) (id c : Nat) (q : Req) (f : Req → Req) (h : s.item id = some (.engine c q)) :
    s.mapReq id f = s.setItem id (.engine c (f q)) := by
  simp only [State.mapReq, h]

/-! #### The packages that something wakes (28 R391) -/

/-- Everything but the packages is as before. -/
def State.OnlyPkgs (s t : State) : Prop := t = { s with pkgs := t.pkgs }

theorem State.OnlyPkgs.refl (s : State) : s.OnlyPkgs s := rfl
theorem State.OnlyPkgs.trans {s t u : State} (h : s.OnlyPkgs t) (h' : t.OnlyPkgs u) : s.OnlyPkgs u := by
  unfold State.OnlyPkgs at h h' ⊢
  rw [h', h]

theorem State.OnlyPkgs.frame {s t : State} (h : s.OnlyPkgs t) :
    t.mem = s.mem ∧ t.threads = s.threads ∧ t.clusters = s.clusters := by
  unfold State.OnlyPkgs at h
  rw [h]
  exact ⟨rfl, rfl, rfl⟩

theorem State.onlyPkgs_wakePkg (s : State) (p : Nat) : s.OnlyPkgs (s.wakePkg p) := by
  unfold State.wakePkg
  split
  · exact .refl s
  · rfl

/-- A package's power state: 0 is awake. -/
def State.pscur (s : State) (p : Nat) : Nat := (s.pkg p).around.pscur

theorem State.pscur_wakePkg (s : State) (p q : Nat) (h : q = p ∨ s.pscur q = 0) : (s.wakePkg p).pscur q = 0 := by
  unfold State.wakePkg
  by_cases hz : (s.pkg p).around.pscur = 0
  · rw [if_pos hz]
    rcases h with rfl | h
    · exact hz
    · exact h
  · rw [if_neg hz]
    rcases eq_or_ne q p with rfl | hne
    · simp [State.pscur, State.updAround, State.updPkg]
    · have : s.pscur q = 0 := h.resolve_left hne
      simpa [State.pscur, State.updAround, State.updPkg, State.pkg, lookup_insert_of_ne _ _ _ _ _ hne.symm] using this

theorem State.pscur_wakePkgs (l : List Nat) (s : State) (q : Nat) (h : q ∈ l ∨ s.pscur q = 0) :
    (l.foldl State.wakePkg s).pscur q = 0 := by
  induction l generalizing s with
  | nil => exact h.resolve_left List.not_mem_nil
  | cons p l ih =>
    refine ih _ ?_
    rcases h with h | h
    · rcases List.mem_cons.1 h with rfl | h
      · exact .inr (s.pscur_wakePkg q q (.inl rfl))
      · exact .inl h
    · exact .inr (s.pscur_wakePkg p q (.inr h))

theorem State.onlyPkgs_wakePkgs (l : List Nat) (s : State) : s.OnlyPkgs (l.foldl State.wakePkg s) :=
  foldl_keeps State.OnlyPkgs.refl (fun _ _ _ => State.OnlyPkgs.trans) _ State.onlyPkgs_wakePkg l s

end Sys2Proof.Machine

/-! ### Paging: walks, fault messages, pagers' replies and TLBI (02 R45 to R54; 20 R352, R353) -/

namespace Sys2Proof.Machine

theorem State.load_of_far {s t : State} (hm : t.mem = s.mem) (k n : Nat) (hk : k + n ≤ 2 ^ 50) : t.load k n = s.load k n :=
  State.load_congr (fun i hi => by rw [t.hidden_of_far _ (by omega), s.hidden_of_far _ (by omega)]) fun i _ => by rw [hm]

/-! #### The leaf of a walk (02 R50) -/

theorem accWrites_eq_true_iff (acc : Nat) :
    accWrites acc = true ↔ acc = accStore ∨ acc = accAtomic ∨ acc = accSpill ∨ acc = accEngWrite := by
  simp [accWrites, accStore, accAtomic, accSpill, accEngWrite, or_assoc]

theorem leafWritable_eq_true_iff (e : Word) : leafWritable e = true ↔ e.getLsbD 1 = true ∧ Fld e 62 61 ≠ 2 := by
  simp [leafWritable]

theorem badLeaf_eq_true_iff (e : Word) : badLeaf e = true ↔
    Fld e 17 8 ≠ 0 ∨ Fld e 5 4 ≠ 0 ∨ (Fld e 62 61 ≠ 2 ∧ Fld e 25 18 ≠ 0) ∨ (e.getLsbD 60 = true ∧ Fld e 30 26 ≠ 0) := by
  simp [badLeaf, or_assoc]

theorem entryKey_aligned (pkg : Nat) (e : Word) (i : Nat) : entryKey pkg e i % 8 = 0 := by
  simp only [entryKey, keyFar]; omega

theorem State.entry_eq_some {s : State} {pkg : Nat} {e : Word} {i : Nat} {r : Nat × Word} (h : s.entry pkg e i = some r) :
    r.1 % 8 = 0 := by
  simp only [State.entry] at h
  split at h
  · rw [← Option.some.inj h]; exact entryKey_aligned pkg e i
  · cases h

theorem State.walkPair_leaf_aligned {s : State} {pkg : Nat} {e f : Word} {hi lo k : Nat}
    (h : s.walkPair pkg e hi lo = .leaf k f) : k % 8 = 0 := by
  have last {e : Word} {i : Nat} {r : Nat × Word} (hr : s.entry pkg e i = some r)
      (h : WalkEnd.leaf r.1 r.2 = .leaf k f) : k % 8 = 0 := (WalkEnd.leaf.inj h).1 ▸ State.entry_eq_some hr
  simp only [State.walkPair] at h
  split at h
  · cases h
  split at h
  · cases h
  split at h
  · -- a merged node
    split at h
    · cases h
    · rename_i hr; exact last hr h
  · -- an upper node and a lower one
    split at h
    · cases h
    split at h
    · cases h
    split at h
    · cases h
    split at h
    · cases h
    · rename_i hr; exact last hr h

theorem State.walkTable_leaf_aligned {s : State} {w : Walk} {k : Nat} {e : Word} (h : s.walkTable w = .leaf k e) :
    k % 8 = 0 := by
  simp only [State.walkTable] at h
  split at h
  · split at h
    · rename_i hleaf
      split at h
      · cases h
      · split at h
        · exact (WalkEnd.leaf.inj h).1 ▸ State.walkPair_leaf_aligned hleaf
        · cases h
    · rename_i hno; exact absurd h (hno _ _)
  · rename_i hno; exact absurd h (hno _ _)

/-- The leaf with AC set, and D for a write. -/
def Walk.leafAfter (w : Walk) (e : Word) : Word := e ||| (if accWrites w.acc then 0xC0 else 0x40)

theorem State.install_frame (s : State) (w : Walk) (k : Nat) (e : Word) :
    (s.install w k e).threads = s.threads ∧ (s.install w k e).flight = s.flight := ⟨rfl, rfl⟩

theorem State.load_install (s : State) (w : Walk) (k : Nat) (e : Word) (hk : k % 8 = 0) (hfar : k < 2 ^ 50) :
    (s.install w k e).load k 8 = (w.leafAfter e).toNat := by
  have h := s.load_storeAt_word k (w.leafAfter e).toNat hk fun i hi => s.hidden_of_far _ (by omega)
  rwa [Nat.mod_eq_of_lt (w.leafAfter e).isLt] at h

theorem State.readByte_install (s : State) (w : Walk) (k : Nat) (e : Word) (a : Nat) (ha : a < k ∨ k + 8 ≤ a) :
    readByte (s.install w k e).mem a = readByte s.mem a :=
  readByte_storeAt_outside s k _ a (by rwa [length_toBytes])

theorem State.mem_tu_install (s : State) (w : Walk) (k : Nat) (e : Word) :
    ∃ x ∈ ((s.install w k e).cluster w.clid).tu,
      x.covers w.tenant w.pod w.va = true ∧ x.leaf = w.leafAfter e ∧ x.leafKey = k := by
  refine ⟨⟨w.tenant, w.pod, (w.leafAfter e).getLsbD 60, w.va / (if (w.leafAfter e).getLsbD 60 then 2 ^ 21 else 2 ^ 16), k,
    w.leafAfter e, accWrites w.acc⟩, ?_, by simp [TuEntry.covers], rfl, rfl⟩
  simp only [State.install, State.cluster_setCluster]
  exact List.mem_append_right _ (List.mem_singleton.2 rfl)

/-! #### TABLE_WALK (02 R45, R50, R52, R54) -/

/-- The state after a walk that ends at a leaf: its engine, or its thread, goes on. -/
def State.walkEnds (s : State) (id : Nat) (w : Walk) (k : Nat) (e : Word) : State :=
  let u := (s.install w k e).dropItem id
  match w.eng with
  | some r => u.setPause r .no
  | none => u.updTh w.tid fun t => { t with walk := none }

section
variable {s : State} {id : Nat} {w : Walk}

theorem execTableWalk_of_leaf {k : Nat} {e : Word} (h : s.item id = some (.walk w)) (hw : s.walkTable w = .leaf k e) :
    execTableWalk id s = .next (s.walkEnds id w k e) := by
  simp only [execTableWalk, h, hw, State.walkEnds]
  cases w.eng <;> rfl

theorem execTableWalk_of_fault {kind : Nat} (h : s.item id = some (.walk w)) (hw : s.walkTable w = .fault kind) :
    execTableWalk id s = .next (s.walkFault id w kind) := by
  simp only [execTableWalk, h, hw]

theorem execTableWalk_of_noFrame (h : s.item id = some (.walk w)) (hw : s.walkTable w = .noFrame) :
    execTableWalk id s = .fault .noSuchFrame := by
  simp only [execTableWalk, h, hw]

/-- An engine's item is another than the walk's. -/
theorem State.engine_ne_walk {r c : Nat} {q : Req} (h : s.item id = some (.walk w)) (hq : s.item r = some (.engine c q)) :
    r ≠ id := by
  rintro rfl
  rw [h] at hq
  cases hq

theorem State.walkEnds_of_thread (k : Nat) (e : Word) (he : w.eng = none) :
    s.walkEnds id w k e = ((s.install w k e).dropItem id).updTh w.tid fun t => { t with walk := none } := by
  simp only [State.walkEnds, he]

theorem State.walkEnds_of_engine {r c : Nat} {q : Req} (k : Nat) (e : Word) (h : s.item id = some (.walk w))
    (he : w.eng = some r) (hq : s.item r = some (.engine c q)) :
    s.walkEnds id w k e = ((s.install w k e).dropItem id).setItem r (.engine c { q with pause := .no }) := by
  have hitem : ((s.install w k e).dropItem id).item r = some (.engine c q) := by
    rw [State.item_dropItem, if_neg (State.engine_ne_walk h hq)]; exact hq
  simp only [State.walkEnds, he, State.setPause, State.mapReq_of_engine _ r c q _ hitem]
  rfl

/-- A walk that ends at a leaf changes memory and the translation units as the installation does. -/
theorem State.walkEnds_frame (s : State) (id : Nat) (w : Walk) (k : Nat) (e : Word) :
    (s.walkEnds id w k e).mem = (s.install w k e).mem ∧ (s.walkEnds id w k e).clusters = (s.install w k e).clusters := by
  unfold State.walkEnds
  cases w.eng with
  | none => exact ⟨rfl, rfl⟩
  | some r =>
    simp only [State.setPause, State.mapReq]
    split <;> exact ⟨rfl, rfl⟩

/-- An engine whose walk fails is paused, and the fault message leaves. -/
theorem State.walkFault_of_engine {r c : Nat} {q : Req} (kind : Nat) (he : w.eng = some r)
    (hq : s.item r = some (.engine c q)) :
    s.walkFault id w kind = ((s.setItem r (.engine c (q.setPause .fault))).dropItem id).post (.fault w kind) := by
  simp only [State.walkFault, he, State.setPause, State.mapReq_of_engine _ r c q _ hq]

/-- A thread whose walk fails is parked, and the fault message leaves. -/
theorem State.walkFault_of_thread (kind : Nat) (he : w.eng = none) (hwant : s.walkWanted id w = true) :
    s.walkFault id w kind = ((s.dropItem id).post (.fault w kind)).updTh w.tid fun t =>
      { t with slot := .parked, park := .page w.ea, wait := none, walk := none } := by
  simp only [State.walkFault, he, hwant, if_true]

theorem Req.setPause_frame (q : Req) (p : Pause) :
    (q.setPause p).pause = p ∧ (q.setPause p).src = q.src ∧ (q.setPause p).dst = q.dst ∧ (q.setPause p).done = q.done := by
  unfold Req.setPause
  split <;> exact ⟨rfl, rfl, rfl, rfl⟩

end

/-! #### FAULT_MESSAGE (02 R52, R53; 16 R272) -/

/-- Everything but the dies' packets is as before when a message has come to its port. -/
theorem State.landed_eq (s : State) (id : Nat) : s.landed id = { s with dies := (s.landed id).dies } := by
  unfold State.landed
  split <;> rfl

/-- A message without a tag stands last in its inbox. -/
theorem State.inbox_enterInbox (s : State) (m : Msg) (htag : m.tag = 0) :
    ((s.enterInbox m).core (cidOf m.dst)).inbox = (s.core (cidOf m.dst)).inbox ++ [m] := by
  simp only [State.enterInbox, htag, State.wakeTag, if_true]
  split
  · simp [State.core]
  · simp

/-- A hardware message that has arrived first enters the inbox of a slot that is live and has room. -/
theorem State.takeIn_of_room (s : State) (id : Nat) (m : Msg) (hfirst : s.firstMessage id m = true)
    (harr : s.arrived id = true) (hsoft : m.soft = false) (hname : s.namesSlot m.dst = true)
    (hvac : (s.th m.dst).slot ≠ .vacant) (hsav : (s.th m.dst).slot ≠ .saved) (hex : (s.th m.dst).exited = false)
    (hroom : (s.core (cidOf m.dst)).inbox.length < 64) :
    s.takeIn id m = ((s.landed id).dropItem id).enterInbox m := by
  have hname' : (s.landed id).namesSlot m.dst = true := by rw [State.landed_eq]; exact hname
  have hroom' : ((s.landed id).core (cidOf m.dst)).inboxRoom m = true := by
    have hcore : (s.landed id).core (cidOf m.dst) = s.core (cidOf m.dst) := by rw [State.landed_eq]; rfl
    simp [Core.inboxRoom, hcore, hsoft, hroom]
  simp [State.takeIn, hfirst, harr, hsoft, hname', hvac, hsav, hex, hroom']

/-- The message of a failed walk (02 R53). -/
def faultMsg (w : Walk) (kind : Nat) : Msg := ⟨0x1FFFFFC, 0, 0, false, false, faultWords w kind, w.pager * 16, false, 0⟩

theorem execFaultMessage_of_fault {s : State} {id kind : Nat} {w : Walk} (h : s.item id = some (.fault w kind)) :
    execFaultMessage id s = .next (s.takeIn id (faultMsg w kind)) := by
  simp only [execFaultMessage, h, faultMsg]

/-- No older fault message and no older message of the same sender is on its way to the pager. -/
theorem State.firstMessage_faultMsg (s : State) (id : Nat) (w : Walk) (kind : Nat)
    (h : ∀ p ∈ s.flight,
      (∀ m k o, p.2 = .sending m k ∨ p.2 = .message m ∨ p.2 = .waiting m o ∨ p.2 = .hardware k m → m.sender = 0x1FFFFFC →
        cidOf m.dst = cidOf (w.pager * 16) → id ≤ p.1) ∧
      ∀ x k, p.2 = .fault x k → x.pager = cidOf (w.pager * 16) → id ≤ p.1) :
    s.firstMessage id (faultMsg w kind) = true := by
  refine List.all_eq_true.2 fun p hp => ?_
  obtain ⟨hmsg, hfault⟩ := h p hp
  obtain ⟨k, x⟩ := p
  have earlier (m : Msg) (hid : m.sender = 0x1FFFFFC → cidOf m.dst = cidOf (w.pager * 16) → id ≤ k) :
      (!(decide (k < id) && decide (m.sender = (faultMsg w kind).sender) &&
        decide (cidOf m.dst = cidOf (faultMsg w kind).dst))) = true := by
    by_cases hs : m.sender = 0x1FFFFFC ∧ cidOf m.dst = cidOf (w.pager * 16)
    · rw [decide_eq_false (Nat.not_lt.2 (hid hs.1 hs.2))]; rfl
    · rw [Bool.not_eq_true', ← Bool.not_eq_true]
      simp only [Bool.and_eq_true, decide_eq_true_eq, and_assoc]
      exact fun hm => hs hm.2
  cases x
  case fault y j =>
    have hid : y.pager = cidOf (w.pager * 16) → id ≤ k := hfault y j rfl
    show (!(decide (k < id) && decide ((faultMsg w kind).sender = 0x1FFFFFC) &&
      decide (cidOf (faultMsg w kind).dst = y.pager))) = true
    by_cases hp : cidOf (faultMsg w kind).dst = y.pager
    · rw [decide_eq_false (Nat.not_lt.2 (hid hp.symm))]; rfl
    · rw [decide_eq_false hp, Bool.and_false]; rfl
  case sending m j => exact earlier m (hmsg m j none (.inl rfl))
  case message m => exact earlier m (hmsg m 0 none (.inr (.inl rfl)))
  case waiting m o => exact earlier m (hmsg m 0 o (.inr (.inr (.inl rfl))))
  case hardware j m => exact earlier m (hmsg m j none (.inr (.inr (.inr rfl))))
  all_goals rfl

/-! #### Pagers (20 R353) -/

theorem execPagerReply_of_thread {s : State} {id tid : Nat} {fail : Bool} (h : s.item id = some (.pager tid fail false)) :
    execPagerReply id s = .next ((s.dropItem id).replyThread tid fail) := by
  simp only [execPagerReply, h]
  rfl

theorem State.replyThread_of_parked {s : State} {tid : Nat} {ea : Word} (fail : Bool) (hpark : (s.th tid).park = .page ea)
    (hslot : (s.th tid).slot = .parked) :
    s.replyThread tid fail = s.updTh tid fun t =>
      { t with park := .none, wait := none, slot := .runnable, pageFail := if fail then some ea else none } := by
  have hsaved : ¬ (SlotState.parked = .saved) := by decide
  simp only [State.replyThread, hpark, State.updTh, Thread.wake, hslot, if_neg hsaved, if_true]

theorem State.replyThread_of_not_parked {s : State} (tid : Nat) (fail : Bool) (hpark : ∀ ea, (s.th tid).park ≠ .page ea) :
    s.replyThread tid fail = s := by
  unfold State.replyThread
  split
  · rename_i ea h; exact absurd h (hpark ea)
  · rfl

theorem State.needHob_of_hob (s : State) (h : isHob s.cid = true) : s.needHob = .ok () := by simp [State.needHob, h]
theorem State.needHob_of_core (s : State) (h : isHob s.cid = false) : s.needHob = .error (.trap 0x01 s.iss.word) := by
  simp [State.needHob, h]

section
variable (s : State) (x : XReg) (fail : Bool) (hr : s.Ready [xplace x] [])
include hr

theorem State.pgrep_of_malformed (h : isHob s.cid = false ∨ Fld (s.readX x) 63 18 ≠ 0) :
    s.pgrep x fail = .error (.trap 0x01 s.iss.word) := by
  cases hh : isHob s.cid with
  | false => simp [State.pgrep, s.need_of_ready _ _ hr, s.needHob_of_core hh]
  | true =>
    have hf : Fld (s.readX x) 63 18 ≠ 0 := h.resolve_left (by simp [hh])
    simp [State.pgrep, s.need_of_ready _ _ hr, s.needHob_of_hob hh, hf]

theorem State.pgrep_of_user (hh : isHob s.cid = true) (hf : Fld (s.readX x) 63 18 = 0) (hs : s.src.sup = false) :
    s.pgrep x fail = .error (.trap 0x02 s.iss.word) := by
  simp [State.pgrep, s.need_of_ready _ _ hr, s.needHob_of_hob hh, hf, s.needSup_of_user hs]

theorem State.pgrep_of_sup (hh : isHob s.cid = true) (hf : Fld (s.readX x) 63 18 = 0) (hs : s.src.sup = true) :
    let tid := pkgOf s.cid * 2 ^ 17 + Fld (s.readX x) 16 0
    s.pgrep x fail =
      .ok (if tid / 2048 = s.cid / 128 then s.post (.pager tid fail ((s.readX x).getLsbD 17)) else s) := by
  intro tid
  have hcl : clidOf (cidOf tid) = tid / 2048 := Nat.div_div_eq_div_mul ..
  have hcl' : clidOf s.cid = s.cid / 128 := rfl
  simp only [State.pgrep, s.need_of_ready _ _ hr, s.needHob_of_hob hh, hf, s.needSup_of_sup hs, except_ok_bind]
  change (if clidOf (cidOf tid) ≠ clidOf s.cid then _ else _) = _
  rw [hcl, hcl', ite_not]
  split <;> rfl

end

/-! #### TLBI (20 R352) -/

/-- A scope that TLBI does not have, or a reserved bit of its descriptor. -/
def badTlbi (w : Word) (sc : Scope) : Bool :=
  sc = .core || sc = .quad || sc = .sys || decide (Fld w 53 52 ≠ 0) || decide (Fld w 15 0 ≠ 0)

theorem badTlbi_eq_true_iff (w : Word) (sc : Scope) :
    badTlbi w sc = true ↔ sc = .core ∨ sc = .quad ∨ sc = .sys ∨ Fld w 53 52 ≠ 0 ∨ Fld w 15 0 ≠ 0 := by
  simp [badTlbi, or_assoc]

section
variable (s : State) (x : XReg) (sc : Scope) (g : Fin 8) (hg : s.guarded g = true) (hr : s.Ready [xplace x] [])
include hg hr

/-- TLBI checks its scope and its reserved bits, then SUP, and goes off. -/
theorem execTlbi_eq :
    execTlbi x sc g s =
      if badTlbi (s.readX x) sc then .next (s.halted (.trap 0x01 s.iss.word))
      else if s.src.sup then past (s.post (.tlbi s.cur (s.readX x) sc none))
      else .next (s.halted (.trap 0x02 s.iss.word)) := by
  have hneed := s.need_of_ready _ _ hr
  cases hbad : badTlbi (s.readX x) sc <;> unfold badTlbi at hbad
  · cases hs : s.src.sup
    · exact s.issueC_error _ g _ hg (by
        simp only [hneed, hbad, s.needSup_of_user hs, raiseIf_false, except_ok_bind, except_error_bind])
    · exact s.issueC_ok _ g _ hg (by
        simp only [hneed, hbad, s.needSup_of_sup hs, raiseIf_false, except_ok_bind, except_pure])
  · exact s.issueC_error _ g _ hg (by simp only [hneed, hbad, raiseIf_true, except_ok_bind, except_error_bind])

end

theorem TuEntry.hitBy_eq_true_iff (e : TuEntry) (desc : Word) : e.hitBy desc = true ↔
    e.tenant = Fld desc 63 56 ∧ e.pod = desc.getLsbD 55 ∧
      (desc.getLsbD 54 = true ∨ e.vpn = Fld desc 51 16 * 2 ^ 16 / (if e.big then 2 ^ 21 else 2 ^ 16)) := by
  simp [TuEntry.hitBy, and_assoc]

/-- The entries that a TLBI leaves in a unit. -/
def Cluster.evicted (c : Cluster) (desc : Word) : Cluster := { c with tu := c.tu.filter fun e => !e.hitBy desc }

theorem State.cluster_evict (s : State) (desc : Word) (inScope : Nat → Bool) (c : Nat) :
    (s.evict desc inScope).cluster c = if inScope (c * 128) then (s.cluster c).evicted desc else s.cluster c := by
  simp only [State.cluster, State.evict]
  induction s.clusters with
  | nil => simp [lookup, Cluster.evicted]
  | cons p l ih =>
    obtain ⟨k, v⟩ := p
    by_cases hk : k = c
    · subst hk
      by_cases hin : inScope (k * 128) <;> simp [lookup, hin, Cluster.evicted]
    · by_cases hin : inScope (k * 128) <;> simp [lookup, hin, hk, ih]

/-- No far access of a tenant in the scope that was translated before stamp `n` has still to be performed. -/
def State.Performed (s : State) (n tenant : Nat) (inScope : Nat → Prop) : Prop :=
  (∀ p ∈ s.flight, (∀ a, p.2 = .access a → a.far = true → (s.th a.tid).tenant = tenant → inScope (cidOf a.tid) → n ≤ p.1) ∧
    ∀ c r, (p.2 = .engine c r ∨ ∃ z, p.2 = .coll c r z) → r.path ≠ [] → r.tenant = tenant → inScope c → n ≤ r.used) ∧
  ∀ p ∈ s.threads, p.2.tenant = tenant → inScope (cidOf p.1) → ∀ e ∈ p.2.sb, e.far = true → n ≤ e.id

theorem State.accessesBefore_eq_false_iff (s : State) (n tenant : Nat) (inScope : Nat → Bool) :
    s.accessesBefore n tenant inScope = false ↔ s.Performed n tenant fun c => inScope c = true := by
  rw [State.accessesBefore, Bool.or_eq_false_iff, List.any_eq_false, List.any_eq_false]
  refine and_congr (forall₂_congr fun p hp => ?item) (forall₂_congr fun p _ => ?thread)
  case thread =>
    simp only [Bool.and_eq_true, decide_eq_true_eq, List.any_eq_true, not_and, not_exists, and_imp]
    exact ⟨fun h ht hc e he hfar => not_lt.1 fun hid => h ht hc e he hid hfar, fun h ht hc e he hid hfar =>
      absurd hid (not_lt.2 (h ht hc e he hfar))⟩
  case item =>
    clear hp
    obtain ⟨k, x⟩ := p
    have request (c : Nat) (r : Req) : ¬(!r.path.isEmpty && decide (r.used < n) && decide (r.tenant = tenant) && inScope c) = true ↔
        (r.path ≠ [] → r.tenant = tenant → inScope c = true → n ≤ r.used) := by
      simp only [Bool.and_eq_true, Bool.not_eq_true', decide_eq_true_eq, List.isEmpty_eq_false_iff, ne_eq, ← Nat.not_lt]
      tauto
    cases x
    case access a =>
      simp only [Item.access.injEq, reduceCtorEq, exists_false, or_self, false_imp_iff, implies_true, and_true, forall_eq',
        Bool.and_eq_true, decide_eq_true_eq, ← Nat.not_lt]
      tauto
    case engine c r =>
      refine (request c r).trans ⟨fun h => ⟨nofun, ?_⟩, fun h => h.2 c r (.inl rfl)⟩
      rintro _ _ (⟨⟨⟩⟩ | ⟨z, ⟨⟩⟩)
      exact h
    case coll c r z =>
      refine (request c r).trans ⟨fun h => ⟨nofun, ?_⟩, fun h => h.2 c r (.inr ⟨z, rfl⟩)⟩
      rintro _ _ (⟨⟨⟩⟩ | ⟨_, ⟨⟩⟩)
      exact h
    all_goals simp

/-- The cores that a TLBI of a thread reaches. -/
def tlbiScope (sc : Scope) (tid cid : Nat) : Bool := decide (instanceOf sc cid = instanceOf sc (cidOf tid))

theorem State.mem_tlbiPkgs (s : State) (sc : Scope) (pkg p : Nat) :
    p ∈ s.tlbiPkgs sc pkg ↔ sc = .pod ∧ p < s.npkg ∧ p ≠ pkg := by
  unfold State.tlbiPkgs
  split <;> simp_all

/-- A TLBI waits for the link to one of the packages that it reaches. -/
def State.tlbiWaits (s : State) (sc : Scope) (tid : Nat) : Bool :=
  (s.tlbiPkgs sc (pkgOf (cidOf tid))).any (s.unlinked (pkgOf (cidOf tid)))

theorem State.tlbiWaits_eq_true_iff (s : State) (sc : Scope) (tid : Nat) : s.tlbiWaits sc tid = true ↔
    ∃ p, (sc = .pod ∧ p < s.npkg ∧ p ≠ pkgOf (cidOf tid)) ∧ s.unlinked (pkgOf (cidOf tid)) p = true := by
  simp only [State.tlbiWaits, List.any_eq_true, State.mem_tlbiPkgs]

/-- The first event of a TLBI: the entries go, and the packages that it reaches wake. -/
def State.tlbiFirst (s : State) (sc : Scope) (tid : Nat) (desc : Word) : State :=
  { (s.tlbiPkgs sc (pkgOf (cidOf tid))).foldl State.wakePkg (s.evict desc (tlbiScope sc tid)) with serial := s.serial + 1 }

theorem State.tlbiFirst_frame (s : State) (sc : Scope) (tid : Nat) (desc : Word) :
    let u := s.tlbiFirst sc tid desc
    u.mem = s.mem ∧ u.threads = s.threads ∧ ∀ c, u.cluster c = (s.evict desc (tlbiScope sc tid)).cluster c := by
  obtain ⟨hmem, hth, hcl⟩ :=
    (State.onlyPkgs_wakePkgs (s.tlbiPkgs sc (pkgOf (cidOf tid))) (s.evict desc (tlbiScope sc tid))).frame
  exact ⟨hmem, hth, fun c => congrArg (fun l => lookup ({} : Cluster) l c) hcl⟩

theorem State.pscur_tlbiFirst (s : State) (sc : Scope) (tid : Nat) (desc : Word) (p : Nat)
    (hp : sc = .pod ∧ p < s.npkg ∧ p ≠ pkgOf (cidOf tid)) : (s.tlbiFirst sc tid desc).pscur p = 0 :=
  State.pscur_wakePkgs _ _ p (.inl ((s.mem_tlbiPkgs sc _ p).2 hp))

section
variable {s : State} {id tid : Nat} {desc : Word} {sc : Scope} {gone : Option Nat}

theorem execTlbiCompletion_of_waits (h : s.item id = some (.tlbi tid desc sc gone)) (hw : s.tlbiWaits sc tid = true) :
    execTlbiCompletion id s = .next s := by
  simp only [execTlbiCompletion, h]
  exact if_pos hw

theorem execTlbiCompletion_first (h : s.item id = some (.tlbi tid desc sc none)) (hw : s.tlbiWaits sc tid = false) :
    execTlbiCompletion id s = .next (
      if s.accessesBefore s.serial (Fld desc 63 56) (tlbiScope sc tid) then
        (s.tlbiFirst sc tid desc).setItem id (.tlbi tid desc sc (some s.serial))
      else (s.tlbiFirst sc tid desc).dropItem id) := by
  simp only [execTlbiCompletion, h]
  refine (if_neg (Bool.eq_false_iff.1 hw)).trans ?_
  exact (apply_ite _ _ _ _).symm

theorem execTlbiCompletion_again {n : Nat} (h : s.item id = some (.tlbi tid desc sc (some n)))
    (hw : s.tlbiWaits sc tid = false) :
    execTlbiCompletion id s = .next (
      if s.accessesBefore n (Fld desc 63 56) (tlbiScope sc tid) then s.setItem id (.tlbi tid desc sc (some n))
      else s.dropItem id) := by
  simp only [execTlbiCompletion, h]
  refine (if_neg (Bool.eq_false_iff.1 hw)).trans ?_
  exact (apply_ite _ _ _ _).symm

end

/-! #### The obligation -/

/-- Settles O43: each event and each instruction has one equation per case; a leaf is an aligned word, and the entries that a
TLBI leaves are a filter of each unit of its scope. -/
theorem pagingServices : Obligations.PagingServices := by
  refine ⟨fun s id w h => ⟨fun k e hw _ hfar _ => ?leaf, fun kind r c q hw he hq hr => ?engine, execTableWalk_of_noFrame h,
    fun kind hw he hwant => ?thread⟩, ?checks, ?message, ?pgrep, fun s id tid fail h => ⟨?wakes, ?discarded⟩, ?tlbi, ?completion⟩
  case leaf =>
    have hafter : w.leafAfter e =
        e ||| (if w.acc = accStore ∨ w.acc = accAtomic ∨ w.acc = accSpill ∨ w.acc = accEngWrite then 0xC0 else 0x40) := by
      simp only [Walk.leafAfter, accWrites_eq_true_iff]
    have hk := State.walkTable_leaf_aligned hw
    obtain ⟨hmem, hcl⟩ := s.walkEnds_frame id w k e
    rw [← hafter]
    refine ⟨_, execTableWalk_of_leaf h hw, ?_, ?_, fun a ha => ?_, fun he => ?_, fun r c q he hq => ?_⟩
    · rw [State.load_of_far hmem k 8 (by omega), s.load_install w k e hk hfar]
    · rw [State.cluster, hcl]; exact s.mem_tu_install w k e
    · rw [hmem, s.readByte_install w k e a ha]
    · rw [State.walkEnds_of_thread k e he, State.th_updTh]
      exact ⟨State.item_dropItem_self _ _, rfl, rfl⟩
    · rw [State.walkEnds_of_engine k e h he hq]
      refine ⟨?_, State.item_setItem_self _ _ _⟩
      rw [State.item_setItem, if_neg (State.engine_ne_walk h hq).symm, State.item_dropItem_self]
  case engine =>
    obtain ⟨hp, hsrc, hdst, hdone⟩ := q.setPause_frame .fault
    refine ⟨_, _, (execTableWalk_of_fault h hw).trans (congrArg _ (State.walkFault_of_engine kind he hq)),
      State.item_post_self _ _, ?_, hp, hsrc, hdst, hdone, rfl, rfl⟩
    exact (State.item_post _ _ r).trans ((if_neg hr).trans
      ((State.item_dropItem _ _ _).trans ((if_neg (State.engine_ne_walk h hq)).trans (State.item_setItem_self _ _ _))))
  case thread =>
    refine ⟨_, (execTableWalk_of_fault h hw).trans (congrArg _ (State.walkFault_of_thread kind he hwant)),
      (s.dropItem id).item_post_self _, ?_⟩
    rw [State.th_updTh]
    exact ⟨rfl, rfl, rfl, rfl, rfl⟩
  case checks =>
    intro pkg acc e writes state reserved foreign guarded
    have hres : badLeaf e = true ↔ reserved := badLeaf_eq_true_iff e
    have hguard : (accWrites acc && !leafWritable e) = true ↔ guarded := by
      rw [Bool.and_eq_true, accWrites_eq_true_iff, Bool.not_eq_true', ← Bool.not_eq_true, leafWritable_eq_true_iff]
      exact and_congr_right fun _ => by rw [not_and_or, Bool.not_eq_true, ne_eq, not_not]
    have hfor : ((state = 0 || state = 2) && decide (Fld e 59 52 ≠ pkg)) = true ↔ foreign := by
      simp only [Bool.and_eq_true, Bool.or_eq_true, decide_eq_true_eq, foreign]
    have hvalid (hv : e.getLsbD 63 = true) : ¬ (!e.getLsbD 63) = true := by rw [hv]; decide
    refine ⟨fun hv => if_pos (by rw [hv]; rfl), fun hv hr => ?_, fun hv hr hm => ?_, fun hv hr hm hf => ?_,
      fun hv hr hm hf hg => ?_, fun hv hr hm hf hg => ?_⟩ <;> rw [leafFault, if_neg (hvalid hv)]
    · rw [if_pos (hres.2 hr)]; rfl
    · rw [if_neg (mt hres.1 hr), if_pos hm]; rfl
    · rw [if_neg (mt hres.1 hr), if_neg hm, if_pos (hfor.2 hf)]; rfl
    · rw [if_neg (mt hres.1 hr), if_neg hm, if_neg (mt hfor.1 hf), if_pos (hguard.2 hg)]; rfl
    · rw [if_neg (mt hres.1 hr), if_neg hm, if_neg (mt hfor.1 hf), if_neg (mt hguard.1 hg)]
      cases leafRights e acc <;> rfl
  case message =>
    intro s id w kind h pager hname hvac hsav hex hroom harr hfirst
    have hm := s.takeIn_of_room id (faultMsg w kind) (s.firstMessage_faultMsg id w kind hfirst) harr rfl hname hvac hsav hex hroom
    refine ⟨_, faultMsg w kind, (execFaultMessage_of_fault h).trans (congrArg _ hm), ?_, rfl, rfl⟩
    have hcore : (s.landed id).core (cidOf pager) = s.core (cidOf pager) := by rw [State.landed_eq]; rfl
    exact (State.inbox_enterInbox _ (faultMsg w kind) rfl).trans (congrArg (fun c : Core => c.inbox ++ _) hcore)
  case pgrep =>
    intro s x g hg hr w tid
    have both (fail : Bool) :
        (isHob s.cid = false ∨ Fld w 63 18 ≠ 0 →
          s.issueC g (fun s => s.pgrep x fail) = .next (s.halted (.trap 0x01 s.iss.word))) ∧
        (isHob s.cid = true → Fld w 63 18 = 0 →
          (s.src.sup = false → s.issueC g (fun s => s.pgrep x fail) = .next (s.halted (.trap 0x02 s.iss.word))) ∧
          (s.src.sup = true → s.issueC g (fun s => s.pgrep x fail) =
            past (if tid / 2048 = s.cid / 128 then s.post (.pager tid fail (w.getLsbD 17)) else s))) :=
      ⟨fun h => s.issueC_error _ g _ hg (s.pgrep_of_malformed x fail hr h),
        fun hh hf => ⟨fun hs => s.issueC_error _ g _ hg (s.pgrep_of_user x fail hr hh hf hs),
          fun hs => s.issueC_ok _ g _ hg (s.pgrep_of_sup x fail hr hh hf hs)⟩⟩
    simp only [List.forall_mem_cons, List.not_mem_nil, false_imp_iff, implies_true, and_true]
    exact ⟨both false, both true⟩
  case wakes =>
    intro ea hpark hslot
    rw [exec_pagerReply, execPagerReply_of_thread h, State.replyThread_of_parked (s := s.dropItem id) _ hpark hslot]
  case discarded =>
    intro hpark
    rw [exec_pagerReply, execPagerReply_of_thread h, State.replyThread_of_not_parked (s := s.dropItem id) _ _ hpark]
  case tlbi =>
    intro s x sc g hg hr w bad
    have hbad : badTlbi w sc = true ↔ bad := badTlbi_eq_true_iff w sc
    rw [exec_tlbi, execTlbi_eq s x sc g hg hr]
    refine ⟨fun h => if_pos (hbad.2 h), fun h hs => ?_, fun h hs => ?_⟩ <;> rw [if_neg (mt hbad.1 h)]
    · exact if_neg (Bool.eq_false_iff.1 hs)
    · exact if_pos hs
  case completion =>
    intro s id tid desc sc gone h within_ matching quiet pkg other
    have hquiet (n : Nat) : quiet n ↔ s.accessesBefore n (Fld desc 63 56) (tlbiScope sc tid) = false := by
      rw [State.accessesBefore_eq_false_iff]
      simp only [tlbiScope, decide_eq_true_eq]
      rfl
    have hpending (n : Nat) (hq : ¬quiet n) : s.accessesBefore n (Fld desc 63 56) (tlbiScope sc tid) = true := by
      simpa using mt (hquiet n).2 hq
    have hwaits : s.tlbiWaits sc tid = true ↔ ∃ p, other p ∧ s.unlinked pkg p = true := s.tlbiWaits_eq_true_iff sc tid
    refine ⟨fun hun => execTlbiCompletion_of_waits h (hwaits.2 hun), fun hlinked => ?_⟩
    have hgo : s.tlbiWaits sc tid = false := by
      rw [← Bool.not_eq_true, hwaits]
      rintro ⟨p, hp, hun⟩
      rw [hlinked p hp] at hun
      cases hun
    refine ⟨?first, ?again⟩
    case first =>
      rintro rfl
      obtain ⟨hmem, hth, hcl⟩ := s.tlbiFirst_frame sc tid desc
      have hend : ∃ t, exec (.tlbiCompletion id) s = .next t ∧ t.mem = s.mem ∧ t.threads = s.threads ∧
          t.pkgs = (s.tlbiFirst sc tid desc).pkgs ∧ t.clusters = (s.tlbiFirst sc tid desc).clusters ∧
          (quiet s.serial → t.item id = none) ∧ (¬quiet s.serial → t.item id = some (.tlbi tid desc sc (some s.serial))) := by
        refine ⟨_, execTlbiCompletion_first h hgo, ?_⟩
        by_cases hq : quiet s.serial
        · rw [(hquiet _).1 hq, if_neg Bool.false_ne_true]
          exact ⟨hmem, hth, rfl, rfl, fun _ => State.item_dropItem_self _ _, fun hn => absurd hq hn⟩
        · rw [if_pos (hpending _ hq)]
          exact ⟨hmem, hth, rfl, rfl, fun hn => absurd hn hq, fun _ => State.item_setItem_self _ _ _⟩
      obtain ⟨t, hexec, htmem, htth, hpkgs, hclusters, hitem⟩ := hend
      have hcluster (c : Nat) : t.cluster c = (s.evict desc (tlbiScope sc tid)).cluster c := by
        rw [← hcl, State.cluster, State.cluster, hclusters]
      refine ⟨t, hexec, htmem, htth, fun p hp => ?_, fun c hin e => ?_, fun c hout => ?_, hitem⟩
      · rw [State.pkg, hpkgs]; exact s.pscur_tlbiFirst sc tid desc p hp
      · have hscope : tlbiScope sc tid (c * 128) = true := decide_eq_true hin
        rw [hcluster, State.cluster_evict, if_pos hscope, Cluster.evicted, List.mem_filter, Bool.not_eq_true',
          ← Bool.not_eq_true, TuEntry.hitBy_eq_true_iff]
      · have hscope : ¬ tlbiScope sc tid (c * 128) = true := by simpa [tlbiScope] using hout
        rw [hcluster, State.cluster_evict, if_neg hscope]
    case again =>
      rintro n rfl
      rw [exec_tlbiCompletion, execTlbiCompletion_again h hgo]
      refine ⟨fun hq => ?_, fun hq => ?_⟩
      · rw [(hquiet n).1 hq, if_neg Bool.false_ne_true]
      · rw [if_pos (hpending n hq)]

end Sys2Proof.Machine

/-! ### Words that become poisoned, and the accesses parked on them (02 R58; 12 R210) -/

namespace Sys2Proof.Machine

/-! #### Keys that a list does not hold -/

theorem lookup_of_absent {α : Type} (d : α) (m : List (Nat × α)) (i : Nat) (h : ∀ p ∈ m, p.1 ≠ i) : lookup d m i = d := by
  induction m with
  | nil => rfl
  | cons p t ih =>
    obtain ⟨hp, ht⟩ := List.forall_mem_cons.1 h
    exact (if_neg hp).trans (ih ht)

theorem erase_of_absent {α : Type} (m : List (Nat × α)) (i : Nat) (h : ∀ p ∈ m, p.1 ≠ i) : erase m i = m := by
  induction m with
  | nil => rfl
  | cons p t ih =>
    obtain ⟨hp, ht⟩ := List.forall_mem_cons.1 h
    exact (if_neg hp).trans (congrArg (p :: ·) (ih ht))

theorem mem_addKey (l : List Nat) (i w : Nat) : w ∈ addKey l i ↔ w ∈ l ∨ w = i := by
  induction l with
  | nil => simp [addKey]
  | cons k t ih =>
    simp only [addKey]
    split
    · rw [List.mem_cons, ih, List.mem_cons, or_assoc]
    split
    · next h => rw [List.mem_cons, ← h]; tauto
    · rw [List.mem_cons, or_comm]

/-! #### A parked access that traps -/

/-- The parts of a state that no parked access changes as it leaves its queue. -/
structure State.ParkedLeft (s t : State) : Prop where
  mem : t.mem = s.mem
  poison : t.poison = s.poison
  deferred : t.deferred = s.deferred
  locks : t.locks = s.locks
  rings (u : Nat) : (t.th u).rings = (s.th u).rings
  regs (u : Nat) : (t.th u).regs = (s.th u).regs
  pc (u : Nat) : (t.th u).pc = (s.th u).pc

theorem State.ParkedLeft.refl (s : State) : s.ParkedLeft s :=
  ⟨rfl, rfl, rfl, rfl, fun _ => rfl, fun _ => rfl, fun _ => rfl⟩

theorem State.ParkedLeft.trans {s t u : State} (h : s.ParkedLeft t) (h' : t.ParkedLeft u) : s.ParkedLeft u :=
  ⟨h'.mem.trans h.mem, h'.poison.trans h.poison, h'.deferred.trans h.deferred, h'.locks.trans h.locks,
    fun v => (h'.rings v).trans (h.rings v), fun v => (h'.regs v).trans (h.regs v), fun v => (h'.pc v).trans (h.pc v)⟩

theorem State.ParkedLeft.of_threads {s t : State} (hm : t.mem = s.mem) (hp : t.poison = s.poison) (hd : t.deferred = s.deferred)
    (hl : t.locks = s.locks) (ht : t.threads = s.threads) : s.ParkedLeft t := by
  have hth (u : Nat) : t.th u = s.th u := by rw [State.th, State.th, ht]
  exact ⟨hm, hp, hd, hl, fun u => by rw [hth], fun u => by rw [hth], fun u => by rw [hth]⟩

theorem State.parkedLeft_updTh (s : State) (tid : Nat) (f : Thread → Thread)
    (hf : ∀ t : Thread, (f t).rings = t.rings ∧ (f t).regs = t.regs ∧ (f t).pc = t.pc) : s.ParkedLeft (s.updTh tid f) := by
  have hth (u : Nat) : ((s.updTh tid f).th u).rings = (s.th u).rings ∧ ((s.updTh tid f).th u).regs = (s.th u).regs ∧
      ((s.updTh tid f).th u).pc = (s.th u).pc := by
    rcases eq_or_ne u tid with rfl | hu
    · rw [State.th_updTh]; exact hf _
    · rw [State.th_updTh_of_ne _ _ _ _ hu]; exact ⟨rfl, rfl, rfl⟩
  exact ⟨rfl, rfl, rfl, rfl, fun u => (hth u).1, fun u => (hth u).2.1, fun u => (hth u).2.2⟩

theorem Thread.notePoison_frame (t : Thread) (ea : Word) :
    (t.notePoison ea).rings = t.rings ∧ (t.notePoison ea).regs = t.regs ∧ (t.notePoison ea).pc = t.pc := by
  unfold Thread.notePoison
  split <;> exact ⟨rfl, rfl, rfl⟩

@[simp] theorem Thread.notePoison_pending (t : Thread) (ea : Word) :
    (t.notePoison ea).pending.poison = some (t.pending.poison.getD ea) := by
  unfold Thread.notePoison
  cases h : t.pending.poison <;> simp [h]

@[simp] theorem Thread.notePoison_park (t : Thread) (ea : Word) : (t.notePoison ea).park = t.park := by
  unfold Thread.notePoison
  split <;> rfl

theorem State.spoilParked_of_ste (s : State) (a : Sync) (h : a.op = .ste) :
    s.spoilParked a =
      if ((s.updTh a.tid fun t => t.notePoison a.na).th a.tid).park = .sync then
        (s.updTh a.tid fun t => t.notePoison a.na).updTh a.tid Thread.wake
      else s.updTh a.tid fun t => t.notePoison a.na := by
  simp only [State.spoilParked, h]

theorem State.spoilParked_of_load (s : State) (a : Sync) (h : a.op ≠ .ste) :
    s.spoilParked a = s.setItem a.id (.deliver
      { tid := a.tid, reg := a.reg, val := 0, poison := some a.na, late := if a.late then some a.na else none }) := by
  unfold State.spoilParked
  split
  · next h' => exact absurd h' h
  · rfl

theorem State.parkedLeft_spoilParked (s : State) (a : Sync) : s.ParkedLeft (s.spoilParked a) := by
  by_cases h : a.op = .ste
  · rw [s.spoilParked_of_ste a h]
    have hnote := s.parkedLeft_updTh a.tid (fun t => t.notePoison a.na) (fun t => t.notePoison_frame a.na)
    split
    · exact hnote.trans (State.parkedLeft_updTh _ a.tid Thread.wake fun t => ⟨rfl, rfl, rfl⟩)
    · exact hnote
  · rw [s.spoilParked_of_load a h]
    exact .of_threads rfl rfl rfl rfl rfl

/-! #### A word that becomes poisoned -/

theorem State.spoil_of_poisoned (s : State) (k : Nat) (h : k / 8 ∈ s.poison) : s.spoil k = s :=
  if_pos (List.contains_iff_mem.2 h)

theorem State.spoil_of_clean (s : State) (k : Nat) (h : k / 8 ∉ s.poison) :
    s.spoil k = (s.waiters (k / 8)).foldl State.spoilParked ((s.addPoison k).setWaiters (k / 8) []) :=
  if_neg (mt List.contains_iff_mem.1 h)

theorem State.parkedLeft_spoil (s : State) (k : Nat) (h : k / 8 ∉ s.poison) :
    ((s.addPoison k).setWaiters (k / 8) []).ParkedLeft (s.spoil k) := by
  rw [s.spoil_of_clean k h]
  exact foldl_keeps State.ParkedLeft.refl (fun _ _ _ => State.ParkedLeft.trans) _ State.parkedLeft_spoilParked _ _

theorem State.spoil_of_unwaited (s : State) (k : Nat) (h : k / 8 ∉ s.poison) (hw : ∀ q ∈ s.deferred, q.1 ≠ k / 8) :
    s.spoil k = s.addPoison k := by
  have hnone : s.waiters (k / 8) = [] := lookup_of_absent _ _ _ hw
  have hsame : erase s.deferred (k / 8) = s.deferred := erase_of_absent _ _ hw
  rw [s.spoil_of_clean k h, hnone]
  show { s.addPoison k with deferred := erase s.deferred (k / 8) } = s.addPoison k
  rw [hsame]; rfl

@[simp] theorem State.spoil_mem (s : State) (k : Nat) : (s.spoil k).mem = s.mem := by
  by_cases h : k / 8 ∈ s.poison
  · rw [s.spoil_of_poisoned k h]
  · exact (s.parkedLeft_spoil k h).mem

theorem State.mem_poison_spoil (s : State) (k w : Nat) : w ∈ (s.spoil k).poison ↔ w ∈ s.poison ∨ w = k / 8 := by
  by_cases h : k / 8 ∈ s.poison
  · rw [s.spoil_of_poisoned k h]
    exact ⟨.inl, fun hw => hw.elim id fun e => e ▸ h⟩
  · rw [(s.parkedLeft_spoil k h).poison]
    exact mem_addKey _ _ _

theorem State.spoil_unwaited (s : State) (k : Nat) (hw : ∀ q ∈ s.deferred, q.1 ≠ k / 8) :
    (s.spoil k).threads = s.threads ∧ (s.spoil k).deferred = s.deferred := by
  by_cases h : k / 8 ∈ s.poison
  · rw [s.spoil_of_poisoned k h]; exact ⟨rfl, rfl⟩
  · rw [s.spoil_of_unwaited k h hw]; exact ⟨rfl, rfl⟩

theorem State.spoil_deferred (s : State) (k : Nat) (h : k / 8 ∉ s.poison) : (s.spoil k).deferred = erase s.deferred (k / 8) :=
  (s.parkedLeft_spoil k h).deferred

/-! #### Several words that become poisoned -/

section
variable (f : Nat → Nat)

/-- The words of some keys become poisoned, one after the other. -/
def State.spoilAll (l : List Nat) (s : State) : State := l.foldl (fun s i => s.spoil (f i)) s

theorem State.spoilAll_mem (l : List Nat) (s : State) : (s.spoilAll f l).mem = s.mem := by
  induction l generalizing s with
  | nil => rfl
  | cons i l ih => exact (ih (s.spoil (f i))).trans (s.spoil_mem (f i))

theorem State.mem_poison_spoilAll (l : List Nat) (s : State) (w : Nat) :
    w ∈ (s.spoilAll f l).poison ↔ w ∈ s.poison ∨ ∃ i ∈ l, w = f i / 8 := by
  induction l generalizing s with
  | nil => simp [State.spoilAll]
  | cons i l ih =>
    refine (ih (s.spoil (f i))).trans ?_
    rw [State.mem_poison_spoil, or_assoc, List.exists_mem_cons_iff]

theorem State.spoilAll_unwaited (l : List Nat) (s : State) (hw : ∀ i ∈ l, ∀ q ∈ s.deferred, q.1 ≠ f i / 8) :
    (s.spoilAll f l).threads = s.threads ∧ (s.spoilAll f l).deferred = s.deferred := by
  induction l generalizing s with
  | nil => exact ⟨rfl, rfl⟩
  | cons i l ih =>
    obtain ⟨hi, hl⟩ := List.forall_mem_cons.1 hw
    obtain ⟨hth, hdef⟩ := s.spoil_unwaited (f i) hi
    obtain ⟨hth', hdef'⟩ := ih (s.spoil (f i)) (by rwa [hdef])
    exact ⟨hth'.trans hth, hdef'.trans hdef⟩

end

/-! #### The two errors -/

theorem execEccUncorrectableError_eq (s : State) (key : Nat) (hfar : key < 2 ^ 50) (hex : farExists key = true) :
    execEccUncorrectableError key s = .next (s.spoilAll (fun i => key / 64 * 64 + 8 * i) (List.range 8)) := by
  have hkey : isFarKey key = true := decide_eq_true hfar
  simp only [execEccUncorrectableError, hkey, hex, Bool.and_self, if_true]
  rfl

/-- The words of a 64-byte line are the eight of its number. -/
theorem mem_line_iff (key w : Nat) : (∃ i ∈ List.range 8, w = (key / 64 * 64 + 8 * i) / 8) ↔ w / 8 = key / 64 := by
  constructor
  · rintro ⟨i, hi, rfl⟩
    have := List.mem_range.1 hi
    omega
  · intro h
    exact ⟨w % 8, List.mem_range.2 (Nat.mod_lt _ (by decide)), by omega⟩

theorem execSoftError_of_scratchpad (s : State) (key : Nat) (h : 2 ^ 50 ≤ key) (h' : key < 2 ^ 53) :
    execSoftError key s = .next (s.spoil key) := if_pos ⟨h, h'⟩

theorem execSoftError_of_accumulator (s : State) (c n : Nat) (hn : n < 2 ^ 14) (hc : c < 2 ^ 36) :
    execSoftError (keyAcc c n) s =
      .next (s.setCore c { s.core c with tile := { (s.core c).tile with bad := addKey (s.core c).tile.bad n } }) := by
  have h1 : ¬ (2 ^ 50 ≤ keyAcc c n ∧ keyAcc c n < 2 ^ 53) := by unfold keyAcc; omega
  have h2 : 2 ^ 53 ≤ keyAcc c n ∧ keyAcc c n < 2 ^ 54 := by unfold keyAcc; omega
  have hidx : (keyAcc c n - 2 ^ 53) / 8 = c * 2 ^ 14 + n := by unfold keyAcc; omega
  have hcore : (c * 2 ^ 14 + n) / 2 ^ 14 = c := by omega
  have helem : (c * 2 ^ 14 + n) % 2 ^ 14 = n := by omega
  simp only [execSoftError, if_neg h1, if_pos h2, hidx, hcore, helem]

/-- What one access that is parked on a word takes from the word's poisoning. -/
theorem State.spoil_of_one_parked (s : State) (k : Nat) (a : Sync) (hd : s.deferred = [(k / 8, [a])]) (h : k / 8 ∉ s.poison) :
    s.spoil k = ((s.addPoison k).setWaiters (k / 8) []).spoilParked a := by
  have hw : s.waiters (k / 8) = [a] := by rw [State.waiters, hd]; exact if_pos rfl
  rw [s.spoil_of_clean k h, hw]
  rfl

/-- An STE that leaves its queue makes cause 0x0B pending and ends its thread's wait. -/
theorem State.spoilParked_ste (s : State) (a : Sync) (h : a.op = .ste) :
    ((s.spoilParked a).th a.tid).pending.poison = some ((s.th a.tid).pending.poison.getD a.na) ∧
      ((s.th a.tid).park = .sync → ((s.spoilParked a).th a.tid).park = .none) := by
  simp only [s.spoilParked_of_ste a h, State.th_updTh, Thread.notePoison_park]
  split
  · next =>
    rw [State.th_updTh, State.th_updTh]
    exact ⟨Thread.notePoison_pending _ _, fun _ => rfl⟩
  · next hp =>
    rw [State.th_updTh]
    exact ⟨Thread.notePoison_pending _ _, fun h => absurd h hp⟩

end Sys2Proof.Machine

/-! ### Frames on their way to far memory and back (03 R60, R66; 05 R98 to R100) -/

namespace Sys2Proof.Machine

/-! #### What the ports that a transfer passes leave -/

/-- Memory, its poison, the threads and the queues of its words are as before. -/
structure State.PortsPassed (s t : State) : Prop where
  mem : t.mem = s.mem
  poison : t.poison = s.poison
  threads : t.threads = s.threads
  deferred : t.deferred = s.deferred
  locks : t.locks = s.locks

theorem State.PortsPassed.refl (s : State) : s.PortsPassed s := ⟨rfl, rfl, rfl, rfl, rfl⟩
theorem State.PortsPassed.trans {s t u : State} (h : s.PortsPassed t) (h' : t.PortsPassed u) : s.PortsPassed u :=
  ⟨h'.mem.trans h.mem, h'.poison.trans h.poison, h'.threads.trans h.threads, h'.deferred.trans h.deferred,
    h'.locks.trans h.locks⟩
theorem State.PortsPassed.foldl {α : Type} (f : State → α → State) (hf : ∀ (s : State) a, s.PortsPassed (f s a)) (l : List α)
    (s : State) : s.PortsPassed (l.foldl f s) :=
  foldl_keeps State.PortsPassed.refl (fun _ _ _ => State.PortsPassed.trans) f hf l s

theorem State.portsPassed_wakePkg (s : State) (p : Nat) : s.PortsPassed (s.wakePkg p) := by
  unfold State.wakePkg
  split <;> exact ⟨rfl, rfl, rfl, rfl, rfl⟩

theorem State.portsPassed_refuse (s : State) (die port cid tenant k : Nat) (wr : Bool) :
    s.PortsPassed (s.refuse die port cid tenant k wr) := by
  unfold State.refuse
  cases isLocalKey k <;> exact ⟨rfl, rfl, rfl, rfl, rfl⟩

theorem State.portsPassed_countPast (s : State) (cid deadline : Nat) (runs : List (Nat × Nat)) :
    s.PortsPassed (s.countPast cid deadline runs) := by
  unfold State.countPast
  split
  · exact .foldl (fun u _ => u.countLate (didOf cid)) (fun _ _ => ⟨rfl, rfl, rfl, rfl, rfl⟩) _ _
  · exact .refl s

theorem State.portsPassed_crossing (s : State) (cid tenant deadline : Nat) (wr : Bool) (runs : List (Nat × Nat)) :
    s.PortsPassed (s.crossing cid tenant deadline wr runs) := by
  refine ((s.portsPassed_countPast cid deadline runs).trans (.foldl _ (fun u q => ?_) _ _)).trans (.foldl _ (fun u r => ?_) _ _)
  · exact u.portsPassed_refuse _ _ _ _ _ _
  · cases wr
    · exact (u.portsPassed_wakePkg _).trans (State.portsPassed_wakePkg _ _)
    · exact u.portsPassed_wakePkg _

/-! #### The runs that ports cut off -/

theorem cutRun_within (fuel k n : Nat) : ∀ r ∈ cutRun fuel k n, k ≤ r.1 ∧ r.1 + r.2 ≤ k + n := by
  induction fuel generalizing k n with
  | zero => exact fun r hr => absurd hr List.not_mem_nil
  | succ fuel ih =>
    intro r hr
    simp only [cutRun] at hr
    split at hr
    · exact absurd hr List.not_mem_nil
    · have hm : min n (granule k - k % granule k) ≤ n := Nat.min_le_left _ _
      generalize min n (granule k - k % granule k) = m at hr hm
      rcases List.mem_cons.1 hr with rfl | hr
      · exact ⟨Nat.le_refl k, Nat.add_le_add_left hm k⟩
      · obtain ⟨hlo, hhi⟩ := ih _ _ r hr
        omega

/-- A byte outside a run is in none of the packets of it. -/
theorem State.inRuns_cutOff_outside (s : State) (cid tenant k n a : Nat) (ha : a < k ∨ k + n ≤ a) :
    inRuns (s.cutOff cid tenant [(k, n)]) a = false := by
  rw [inRuns, List.any_eq_false]
  intro r hr
  have hcut : r ∈ cutRun (n / 64 + 2) k n := by
    have hr : r ∈ pieces [(k, n)] := (List.mem_filter.1 hr).1
    simp only [pieces, List.flatMap_cons, List.flatMap_nil, List.append_nil] at hr
    split at hr
    · exact hr
    · exact absurd hr List.not_mem_nil
  obtain ⟨hlo, hhi⟩ := cutRun_within _ _ _ r hcut
  simp only [Bool.and_eq_true, decide_eq_true_eq]
  omega

/-! #### One word of a copy -/

/-- The parts of a state that no word of a copy changes. -/
structure State.ContextKept (s t : State) : Prop where
  locks : t.locks = s.locks
  rings (u : Nat) : (t.th u).rings = (s.th u).rings
  regs (u : Nat) : (t.th u).regs = (s.th u).regs
  pc (u : Nat) : (t.th u).pc = (s.th u).pc

theorem State.ContextKept.refl (s : State) : s.ContextKept s := ⟨rfl, fun _ => rfl, fun _ => rfl, fun _ => rfl⟩
theorem State.ContextKept.trans {s t u : State} (h : s.ContextKept t) (h' : t.ContextKept u) : s.ContextKept u :=
  ⟨h'.locks.trans h.locks, fun v => (h'.rings v).trans (h.rings v), fun v => (h'.regs v).trans (h.regs v),
    fun v => (h'.pc v).trans (h.pc v)⟩
theorem State.ContextKept.of_threads {s t : State} (hl : t.locks = s.locks) (ht : t.threads = s.threads) : s.ContextKept t := by
  have hth (u : Nat) : t.th u = s.th u := by rw [State.th, State.th, ht]
  exact ⟨hl, fun u => by rw [hth], fun u => by rw [hth], fun u => by rw [hth]⟩

theorem State.contextKept_spoil (s : State) (k : Nat) : s.ContextKept (s.spoil k) := by
  by_cases h : k / 8 ∈ s.poison
  · rw [s.spoil_of_poisoned k h]; exact .refl s
  · have hleft := s.parkedLeft_spoil k h
    exact ⟨hleft.locks, hleft.rings, hleft.regs, hleft.pc⟩

theorem State.writePoison_of_shown (s : State) (k : Nat) (h : s.hidden k = false) : s.writePoison k = s.spoil k :=
  if_neg (Bool.eq_false_iff.1 h)

/-- The word at `b` of `u` takes that at `a` of `s`: what `State.copyRun` does in each turn. -/
def State.copyWord (s : State) (cut : List (Nat × Nat)) (u : State) (a b : Nat) : State :=
  if inRuns cut b then u
  else if inRuns cut a then u.writePoison b
  else
    let u := u.storeAt b (toBytes 8 (s.load a 8))
    if s.poisoned a 8 then u.writePoison b else u

theorem State.copyRun_eq (s : State) (src dst n : Nat) (cut : List (Nat × Nat)) :
    s.copyRun src dst n cut = (List.range (n / 8)).foldl (fun u i => s.copyWord cut u (src + 8 * i) (dst + 8 * i)) s := rfl

/-- What the word at `b` of `t` holds after the word at `a` of `s` has been copied over that of `u`. -/
def State.WordCopied (s u t : State) (cut : List (Nat × Nat)) (a b : Nat) : Prop :=
  if inRuns cut b then t.load b 8 = u.load b 8 ∧ (b / 8 ∈ t.poison ↔ b / 8 ∈ u.poison)
  else if inRuns cut a then t.load b 8 = u.load b 8 ∧ b / 8 ∈ t.poison
  else t.load b 8 = s.load a 8 ∧ (b / 8 ∈ t.poison ↔ s.poisoned a 8 = true)

/-- Outside `n` bytes from `k`, words hold what they held. -/
structure State.OutsideKept (s t : State) (k n : Nat) : Prop where
  context : s.ContextKept t
  mem (a : Nat) : a < k ∨ k + n ≤ a → readByte t.mem a = readByte s.mem a
  poison (w : Nat) : w * 8 + 8 ≤ k ∨ k + n ≤ w * 8 → (w ∈ t.poison ↔ w ∈ s.poison)

theorem State.OutsideKept.refl (s : State) (k n : Nat) : s.OutsideKept s k n := ⟨.refl s, fun _ _ => rfl, fun _ _ => Iff.rfl⟩

theorem State.OutsideKept.trans {s t u : State} {k n : Nat} (h : s.OutsideKept t k n) (h' : t.OutsideKept u k n) : s.OutsideKept u k n :=
  ⟨h.context.trans h'.context, fun a ha => (h'.mem a ha).trans (h.mem a ha), fun w hw => (h'.poison w hw).trans (h.poison w hw)⟩

theorem State.OutsideKept.mono {s t : State} {k n k' n' : Nat} (h : s.OutsideKept t k n) (hk : k' ≤ k) (hn : k + n ≤ k' + n') :
    s.OutsideKept t k' n' :=
  ⟨h.context, fun a ha => h.mem a (by omega), fun w hw => h.poison w (by omega)⟩

theorem State.OutsideKept.hidden {s t : State} {k n : Nat} (h : s.OutsideKept t k n) (a : Nat) : t.hidden a = s.hidden a :=
  State.hidden_congr h.context.rings a

theorem State.OutsideKept.load {s t : State} {k n : Nat} (h : s.OutsideKept t k n) (a : Nat) (ha : a + 8 ≤ k ∨ k + n ≤ a) :
    t.load a 8 = s.load a 8 :=
  State.load_congr (fun _ _ => h.hidden _) fun i hi => h.mem _ (by omega)

section
variable (s : State) {b : Nat}

theorem State.load_spoil : (s.spoil b).load b 8 = s.load b 8 :=
  State.load_congr (fun _ _ => State.hidden_congr (s.contextKept_spoil b).rings _) fun i _ => by rw [s.spoil_mem]

theorem State.outsideKept_spoil (hb : b % 8 = 0) : s.OutsideKept (s.spoil b) b 8 :=
  ⟨s.contextKept_spoil b, fun a _ => by rw [s.spoil_mem], fun w hw => by
    rw [s.mem_poison_spoil]; exact or_iff_left (by omega)⟩

theorem State.outsideKept_storeAt_word (hb : b % 8 = 0) (x : Nat) (hshown : s.hidden b = false) :
    s.OutsideKept (s.storeAt b (toBytes 8 x)) b 8 :=
  ⟨.of_threads rfl rfl, fun a ha => readByte_storeAt_outside _ _ _ _ (by rwa [length_toBytes]), fun w hw => by
    rw [s.mem_poison_storeAt_word b x w hb hshown]; exact and_iff_left (by omega)⟩

end

/-- A word of the source is stored, with its poison. -/
theorem State.storeWord_spec (s u : State) (a : Nat) {b : Nat} (hb : b % 8 = 0) (hshown : ∀ j, j < 8 → u.hidden (b + j) = false) :
    let v := u.storeAt b (toBytes 8 (s.load a 8))
    let t := if s.poisoned a 8 then v.writePoison b else v
    u.OutsideKept t b 8 ∧ t.load b 8 = s.load a 8 ∧ (b / 8 ∈ t.poison ↔ s.poisoned a 8 = true) := by
  have hb0 : u.hidden b = false := hshown 0 (by decide)
  have hkept := u.outsideKept_storeAt_word hb (s.load a 8) hb0
  have hload : (u.storeAt b (toBytes 8 (s.load a 8))).load b 8 = s.load a 8 :=
    (u.load_storeAt_word b _ hb hshown).trans (Nat.mod_eq_of_lt (s.load_lt a 8))
  have hclean : b / 8 ∉ (u.storeAt b (toBytes 8 (s.load a 8))).poison := fun h =>
    ((u.mem_poison_storeAt_word b _ _ hb hb0).1 h).2 rfl
  intro v t
  cases hp : s.poisoned a 8
  · have ht : t = v := if_neg (Bool.eq_false_iff.1 hp)
    rw [ht]
    exact ⟨hkept, hload, iff_of_false hclean Bool.false_ne_true⟩
  · have ht : t = v.spoil b := (if_pos hp).trans (v.writePoison_of_shown b ((hkept.hidden b).trans hb0))
    rw [ht]
    exact ⟨hkept.trans (v.outsideKept_spoil hb), v.load_spoil.trans hload,
      iff_of_true ((v.mem_poison_spoil b _).2 (.inr rfl)) rfl⟩

/-- One turn of a copy writes its word and no other. -/
theorem State.copyWord_spec (s u : State) (cut : List (Nat × Nat)) (a : Nat) {b : Nat} (hb : b % 8 = 0)
    (hshown : ∀ j, j < 8 → u.hidden (b + j) = false) :
    u.OutsideKept (s.copyWord cut u a b) b 8 ∧ s.WordCopied u (s.copyWord cut u a b) cut a b := by
  unfold State.copyWord State.WordCopied
  by_cases hcut : inRuns cut b = true
  · rw [if_pos hcut, if_pos hcut]
    exact ⟨.refl u b 8, rfl, Iff.rfl⟩
  by_cases hsrc : inRuns cut a = true
  · simp only [if_neg hcut, if_pos hsrc, u.writePoison_of_shown b (hshown 0 (by decide))]
    exact ⟨u.outsideKept_spoil hb, u.load_spoil, (u.mem_poison_spoil b _).2 (.inr rfl)⟩
  simp only [if_neg hcut, if_neg hsrc]
  exact s.storeWord_spec u a hb hshown

/-- A copy of `m` words writes them and nothing else. -/
theorem State.copyWords_spec (s : State) (src dst : Nat) (cut : List (Nat × Nat)) (m : Nat) (hdst : dst % 8 = 0)
    (hshown : ∀ j, j < 8 * m → s.hidden (dst + j) = false) :
    let t := (List.range m).foldl (fun u i => s.copyWord cut u (src + 8 * i) (dst + 8 * i)) s
    s.OutsideKept t dst (8 * m) ∧ ∀ i, i < m → s.WordCopied s t cut (src + 8 * i) (dst + 8 * i) := by
  induction m with
  | zero => exact ⟨.refl s dst 0, fun i hi => absurd hi (Nat.not_lt_zero i)⟩
  | succ m ih =>
    obtain ⟨hkept, hwords⟩ := ih fun j hj => hshown j (by omega)
    rw [List.range_succ, List.foldl_append]
    generalize (List.range m).foldl (fun u i => s.copyWord cut u (src + 8 * i) (dst + 8 * i)) s = u at hkept hwords
    obtain ⟨hturn, hword⟩ := s.copyWord_spec u cut (src + 8 * m) (b := dst + 8 * m) (by omega) fun j hj => by
      rw [hkept.hidden, Nat.add_assoc]; exact hshown _ (by omega)
    refine ⟨(hkept.mono (Nat.le_refl _) (by omega)).trans (hturn.mono (by omega) (by omega)), fun i hi => ?_⟩
    rcases Nat.lt_succ_iff_lt_or_eq.1 hi with hi | rfl
    · have hload := hturn.load (dst + 8 * i) (by omega)
      have hpoison := hturn.poison ((dst + 8 * i) / 8) (by omega)
      have hw := hwords i hi
      unfold State.WordCopied at hw ⊢
      simpa only [List.foldl_cons, List.foldl_nil, hload, hpoison] using hw
    · have hload := hkept.load (dst + 8 * i) (by omega)
      have hpoison := hkept.poison ((dst + 8 * i) / 8) (by omega)
      unfold State.WordCopied at hword ⊢
      simpa only [List.foldl_cons, List.foldl_nil, hload, hpoison] using hword

end Sys2Proof.Machine

/-! ### Window spills and fills (05 R98 to R100) -/

namespace Sys2Proof.Machine

/-! #### The window registers and the frame slots -/

@[simp] theorem SysRegs.res_setWsp (y : SysRegs) (res depth : Nat) : (y.setWsp res depth).res = res % 16 := by
  simp only [SysRegs.setWsp, SysRegs.res, Fld, bits, BitVec.toNat_ofNat]
  omega

@[simp] theorem SysRegs.depth_setWsp (y : SysRegs) (res depth : Nat) : (y.setWsp res depth).depth = depth % 2 ^ 32 := by
  simp only [SysRegs.setWsp, SysRegs.depth, Fld, bits, BitVec.toNat_ofNat]
  omega

theorem SysRegs.res_lt (y : SysRegs) : y.res < 16 := Nat.mod_lt _ (by decide)
theorem SysRegs.depth_lt (y : SysRegs) : y.depth < 2 ^ 32 := Nat.mod_lt _ (by decide)

theorem frameKey_local (cid : Nat) (y : SysRegs) (f : Nat) : 2 ^ 50 ≤ frameKey cid y f := by
  unfold frameKey keyLocal
  split <;> omega

theorem frameKey_aligned (cid : Nat) (y : SysRegs) (f : Nat) (h : y.windowOk = true) : frameKey cid y f % 8 = 0 := by
  simp only [SysRegs.windowOk, Bool.and_eq_true, decide_eq_true_eq] at h
  obtain ⟨⟨⟨-, hstart⟩, -⟩, -⟩ := h
  unfold frameKey keyLocal
  split <;> omega

theorem Thread.windowOk_of_movesWindows (t : Thread) (h : t.movesWindows = true) : t.sys.windowOk = true := by
  simp only [Thread.movesWindows, Bool.and_eq_true] at h
  exact h.2

/-! #### What the end of a transfer keeps -/

theorem State.ParkedLeft.load {s t : State} (h : s.ParkedLeft t) (a n : Nat) : t.load a n = s.load a n :=
  State.load_congr (fun _ _ => State.hidden_congr h.rings _) fun _ _ => by rw [h.mem]

theorem State.ParkedLeft.poisoned {s t : State} (h : s.ParkedLeft t) (a n : Nat) : t.poisoned a n = s.poisoned a n := by
  simp only [State.poisoned, h.poison, State.hidden_congr h.rings]

/-- A copy that crosses the net writes the words of its frame and nothing else. -/
theorem State.copyFrame_spec (s : State) (cid tenant deadline : Nat) (wr : Bool) (runs cut : List (Nat × Nat)) (src dst : Nat)
    (hdst : dst % 8 = 0) (hshown : ∀ j, j < 128 → s.hidden (dst + j) = false) :
    let v := (s.crossing cid tenant deadline wr runs).copyRun src dst 128 cut
    s.OutsideKept v dst 128 ∧ ∀ i, i < 16 → s.WordCopied s v cut (src + 8 * i) (dst + 8 * i) := by
  have hports := s.portsPassed_crossing cid tenant deadline wr runs
  generalize s.crossing cid tenant deadline wr runs = u at hports
  have hctx : s.ParkedLeft u := .of_threads hports.mem hports.poison hports.deferred hports.locks hports.threads
  have hsame : s.OutsideKept u dst 128 :=
    ⟨.of_threads hports.locks hports.threads, fun _ _ => by rw [hports.mem], fun _ _ => by rw [hports.poison]⟩
  obtain ⟨hkept, hwords⟩ := u.copyWords_spec src dst cut 16 hdst fun j hj => (hsame.hidden _).trans (hshown j hj)
  refine ⟨hsame.trans hkept, fun i hi => ?_⟩
  have hw : u.WordCopied u (u.copyRun src dst 128 cut) cut (src + 8 * i) (dst + 8 * i) := hwords i hi
  unfold State.WordCopied at hw ⊢
  simpa only [hctx.load, hctx.poisoned, hports.poison] using hw

section
variable {s v u : State} {cut : List (Nat × Nat)} {src dst : Nat} {i : Nat}

/-- A word of a frame that no port holds back comes as it was, with its poison; one that a port holds back on the way out stays as it was,
and on the way in comes poisoned. -/
theorem State.WordCopied.result (hw : s.WordCopied s v cut (src + 8 * i) (dst + 8 * i)) (hend : v.ParkedLeft u) (hi : i < 16)
    (hdst : dst % 8 = 0) (hkept : s.OutsideKept v dst 128) (hshown : ∀ j, j < 128 → s.hidden (dst + j) = false) :
    let a := src + 8 * i
    let b := dst + 8 * i
    (inRuns cut b = true → u.load b 8 = s.load b 8 ∧ u.poisoned b 8 = s.poisoned b 8) ∧
    (inRuns cut b = false → inRuns cut a = true → u.load b 8 = s.load b 8 ∧ u.poisoned b 8 = true) ∧
    (inRuns cut b = false → inRuns cut a = false → u.load b 8 = s.load a 8 ∧ u.poisoned b 8 = s.poisoned a 8) := by
  intro a b
  have hb : b % 8 = 0 := by omega
  have hs : s.hidden b = false := hshown (8 * i) (by omega)
  have hv : v.poisoned b 8 = true ↔ b / 8 ∈ v.poison := v.poisoned_word_iff b hb ((hkept.hidden b).trans hs)
  rw [hend.load, hend.poisoned]
  unfold State.WordCopied at hw
  refine ⟨fun hcut => ?_, fun hcut hsrc => ?_, fun hcut hsrc => ?_⟩
  · rw [if_pos hcut] at hw
    exact ⟨hw.1, Bool.eq_iff_iff.2 (hv.trans (hw.2.trans (s.poisoned_word_iff b hb hs).symm))⟩
  · rw [if_neg (Bool.eq_false_iff.1 hcut), if_pos hsrc] at hw
    exact ⟨hw.1, hv.2 hw.2⟩
  · rw [if_neg (Bool.eq_false_iff.1 hcut), if_neg (Bool.eq_false_iff.1 hsrc)] at hw
    exact ⟨hw.1, Bool.eq_iff_iff.2 (hv.trans hw.2)⟩

end

/-! #### A spill -/

/-- A spill has a frame to move. -/
def Thread.spillDue (t : Thread) : Bool :=
  t.movesWindows && !t.keepsFrames && decide (t.sys.frames ≤ t.sys.res + 1) && decide (0 < t.sys.res) &&
    decide (t.sys.res ≤ t.sys.depth)

theorem Thread.spillDue_eq_true_iff (t : Thread) (hmoves : t.movesWindows = true) (hpos : 0 < t.sys.res)
    (hle : t.sys.res ≤ t.sys.depth) : t.spillDue = true ↔ t.sys.frames ≤ t.sys.res + 1 ∧ t.keepsFrames = false := by
  simp only [Thread.spillDue, Bool.and_eq_true, Bool.not_eq_true', decide_eq_true_eq]
  tauto

/-- The oldest resident frame of a thread. -/
def Thread.oldest (t : Thread) : Nat := t.sys.depth - t.sys.res

/-- One frame less is resident. -/
def Thread.spilled (y : SysRegs) (t : Thread) : Thread := { t with sys := y.setWsp (y.res - 1) y.depth, windowFault := none }

/-- The oldest resident frame has gone to the key `k`. -/
def State.spilled (s : State) (tid k : Nat) : State :=
  let t := s.th tid
  ((s.crossing (cidOf tid) t.tenant t.dueBy true [(k, 128)]).copyRun (frameKey (cidOf tid) t.sys t.oldest) k 128
    (s.cutOff (cidOf tid) t.tenant [(k, 128)])).settleLocks.updTh tid (Thread.spilled t.sys)

section
variable {s : State} {tid : Nat}

theorem execWindowSpill_of_not_due (h : (s.th tid).spillDue = false) : execWindowSpill tid s = .next s :=
  if_neg (Bool.eq_false_iff.1 h)

theorem execWindowSpill_of_error (h : (s.th tid).spillDue = true) {st : Stop}
    (hacc : s.frameAccess tid ((s.th tid).sys.frameEa (s.th tid).oldest) true = .error st) :
    execWindowSpill tid s = .next (s.frameStop tid st) := by
  refine (if_pos h).trans ?_
  simp only [Thread.oldest] at hacc
  simp only [hacc]

variable {k : Nat}

theorem execWindowSpill_of_awaitsLink (h : (s.th tid).spillDue = true)
    (hacc : s.frameAccess tid ((s.th tid).sys.frameEa (s.th tid).oldest) true = .ok k)
    (hlink : s.awaitsLink (cidOf tid) k = true) : execWindowSpill tid s = .next s := by
  refine (if_pos h).trans ?_
  simp only [Thread.oldest] at hacc
  simp only [hacc, hlink, if_true]

theorem State.dirtyAt_of_dirty (s : State) (clid tenant : Nat) (pod : Bool) (va acc : Nat)
    (h : ∀ x ∈ (s.cluster clid).tu, x.dirty = true) : s.dirtyAt clid tenant pod va acc = s := by
  unfold State.dirtyAt
  cases hhit : s.tuHit clid tenant pod va acc with
  | none => rfl
  | some e => exact if_pos (h e (List.mem_of_find?_eq_some hhit))

theorem execWindowSpill_of_ok (h : (s.th tid).spillDue = true)
    (hacc : s.frameAccess tid ((s.th tid).sys.frameEa (s.th tid).oldest) true = .ok k)
    (hlink : s.awaitsLink (cidOf tid) k = false) (hdirty : ∀ x ∈ (s.cluster (clidOf (cidOf tid))).tu, x.dirty = true) :
    execWindowSpill tid s = .next (s.spilled tid k) := by
  refine (if_pos h).trans ?_
  simp only [Thread.oldest] at hacc
  simp only [hacc, hlink, Bool.false_eq_true, if_false, s.dirtyAt_of_dirty _ _ _ _ _ hdirty]
  rfl

theorem Thread.spilled_frame (y : SysRegs) (t : Thread) :
    (t.spilled y).rings = t.rings ∧ (t.spilled y).regs = t.regs ∧ (t.spilled y).pc = t.pc := ⟨rfl, rfl, rfl⟩

/-- What a spill does, of a thread whose words no lock waits for. -/
theorem State.spilled_spec (hk : k % 8 = 0) (hfar : k + 128 ≤ 2 ^ 50) (hlocks : s.locks = []) :
    let t := s.th tid
    let cut := s.cutOff (cidOf tid) t.tenant [(k, 128)]
    let u := s.spilled tid k
    (u.th tid).sys.res = t.sys.res - 1 ∧ (u.th tid).sys.depth = t.sys.depth ∧ (u.th tid).regs = t.regs ∧ (u.th tid).pc = t.pc ∧
      (∀ i, i < 16 → let b := k + 8 * i
        let from_ := if inRuns cut b then b else frameKey (cidOf tid) t.sys t.oldest + 8 * i
        u.load b 8 = s.load from_ 8 ∧ u.poisoned b 8 = s.poisoned from_ 8) ∧
      ∀ a, a < k ∨ k + 128 ≤ a → readByte u.mem a = readByte s.mem a := by
  intro t cut u
  have hshown : ∀ j, j < 128 → s.hidden (k + j) = false := fun j hj => s.hidden_of_far _ (by omega)
  obtain ⟨hkept, hwords⟩ := s.copyFrame_spec (cidOf tid) t.tenant t.dueBy true [(k, 128)] cut
    (frameKey (cidOf tid) t.sys t.oldest) k hk hshown
  let v := (s.crossing (cidOf tid) t.tenant t.dueBy true [(k, 128)]).copyRun (frameKey (cidOf tid) t.sys t.oldest) k 128 cut
  have hu : u = v.updTh tid (Thread.spilled t.sys) :=
    congrArg (State.updTh · tid (Thread.spilled t.sys)) (v.settleLocks_of_no_locks (hkept.context.locks.trans hlocks))
  have hend : v.ParkedLeft u := hu ▸ v.parkedLeft_updTh tid (Thread.spilled t.sys) (Thread.spilled_frame t.sys)
  have hsys : (u.th tid).sys = t.sys.setWsp (t.sys.res - 1) t.sys.depth := by rw [hu, State.th_updTh]; rfl
  have hres := t.sys.res_lt
  refine ⟨?_, ?_, (hend.regs tid).trans (hkept.context.regs tid), (hend.pc tid).trans (hkept.context.pc tid), fun i hi => ?_,
    fun a ha => (congrArg (readByte · a) hend.mem).trans (hkept.mem a ha)⟩
  · rw [hsys, SysRegs.res_setWsp]; exact Nat.mod_eq_of_lt (by omega)
  · rw [hsys, SysRegs.depth_setWsp]; exact Nat.mod_eq_of_lt t.sys.depth_lt
  · obtain ⟨hcut, -, hfree⟩ := (hwords i hi).result hend hi hk hkept hshown
    have hlocal := frameKey_local (cidOf tid) t.sys t.oldest
    have hsrc := s.inRuns_cutOff_outside (cidOf tid) t.tenant k 128 (frameKey (cidOf tid) t.sys t.oldest + 8 * i) (by omega)
    intro b from_
    cases hb : inRuns cut b
    · have hfrom : from_ = frameKey (cidOf tid) t.sys t.oldest + 8 * i := if_neg (Bool.eq_false_iff.1 hb)
      rw [hfrom]; exact hfree hb hsrc
    · have hfrom : from_ = b := if_pos hb
      rw [hfrom]; exact hcut hb

end

/-! #### A fill -/

/-- A fill has a frame to bring back. -/
def Thread.fillDue (t : Thread) : Bool :=
  t.movesWindows && (decide (t.sys.res < t.sys.fillMark) || (decide (t.sys.res = 0) && t.awaitsFill)) && decide (t.sys.res < t.sys.depth)

theorem Thread.fillDue_eq_true_iff (t : Thread) (hmoves : t.movesWindows = true) (hlt : t.sys.res < t.sys.depth) :
    t.fillDue = true ↔ t.sys.res < t.sys.fillMark ∨ (t.sys.res = 0 ∧ t.awaitsFill = true) := by
  simp only [Thread.fillDue, Bool.and_eq_true, Bool.or_eq_true, decide_eq_true_eq]
  tauto

/-- The youngest frame of a thread in far memory. -/
def Thread.youngest (t : Thread) : Nat := t.sys.depth - t.sys.res - 1

/-- One frame more is resident, and what was late is noted. -/
def Thread.filled (y : SysRegs) (late : Option Word) (t : Thread) : Thread :=
  ({ t with sys := y.setWsp (y.res + 1) y.depth, windowFault := none } : Thread).noteLate late

/-- The EA of a fill that its deadline finds late. -/
def State.fillLate (s : State) (tid k : Nat) : Option Word :=
  let t := s.th tid
  if s.pastDue t.dueBy [(k, 128)] then some (t.sys.frameEa t.youngest) else none

/-- The youngest frame of far memory has come back from the key `k`. -/
def State.filled (s : State) (tid k : Nat) : State :=
  let t := s.th tid
  ((s.crossing (cidOf tid) t.tenant t.dueBy false [(k, 128)]).copyRun k (frameKey (cidOf tid) t.sys t.youngest) 128
    (s.cutOff (cidOf tid) t.tenant [(k, 128)])).updTh tid (Thread.filled t.sys (s.fillLate tid k))

section
variable {s : State} {tid : Nat}

theorem execWindowFill_of_not_due (h : (s.th tid).fillDue = false) : execWindowFill tid s = .next s :=
  if_neg (Bool.eq_false_iff.1 h)

theorem execWindowFill_of_error (h : (s.th tid).fillDue = true) {st : Stop}
    (hacc : s.frameAccess tid ((s.th tid).sys.frameEa (s.th tid).youngest) false = .error st) :
    execWindowFill tid s = .next (s.frameStop tid st) := by
  refine (if_pos h).trans ?_
  simp only [Thread.youngest] at hacc
  simp only [hacc]

variable {k : Nat}

theorem execWindowFill_of_awaitsLink (h : (s.th tid).fillDue = true)
    (hacc : s.frameAccess tid ((s.th tid).sys.frameEa (s.th tid).youngest) false = .ok k)
    (hlink : s.awaitsLink (cidOf tid) k = true) : execWindowFill tid s = .next s := by
  refine (if_pos h).trans ?_
  simp only [Thread.youngest] at hacc
  simp only [hacc, hlink, if_true]

theorem execWindowFill_of_ok (h : (s.th tid).fillDue = true)
    (hacc : s.frameAccess tid ((s.th tid).sys.frameEa (s.th tid).youngest) false = .ok k)
    (hlink : s.awaitsLink (cidOf tid) k = false) : execWindowFill tid s = .next (s.filled tid k) := by
  refine (if_pos h).trans ?_
  simp only [Thread.youngest] at hacc
  simp only [hacc, hlink, Bool.false_eq_true, if_false]
  rfl

theorem Thread.noteLate_frame (t : Thread) (late : Option Word) :
    (t.noteLate late).sys = t.sys ∧ (t.noteLate late).rings = t.rings ∧ (t.noteLate late).regs = t.regs ∧
      (t.noteLate late).pc = t.pc := by
  unfold Thread.noteLate
  cases late with
  | none => exact ⟨rfl, rfl, rfl, rfl⟩
  | some ea =>
    dsimp only
    split <;> exact ⟨rfl, rfl, rfl, rfl⟩

theorem Thread.filled_frame (y : SysRegs) (late : Option Word) (t : Thread) :
    (t.filled y late).rings = t.rings ∧ (t.filled y late).regs = t.regs ∧ (t.filled y late).pc = t.pc :=
  (Thread.noteLate_frame _ late).2

@[simp] theorem Thread.filled_sys (y : SysRegs) (late : Option Word) (t : Thread) :
    (t.filled y late).sys = y.setWsp (y.res + 1) y.depth := (Thread.noteLate_frame _ late).1

/-- What a fill does, when the frame's slot is no bound channel descriptor. -/
theorem State.filled_spec (hok : (s.th tid).sys.windowOk = true) (hres : (s.th tid).sys.res + 1 < 16) (hfar : k + 128 ≤ 2 ^ 50)
    (hshown : ∀ j, j < 128 → s.hidden (frameKey (cidOf tid) (s.th tid).sys (s.th tid).youngest + j) = false) :
    let t := s.th tid
    let cut := s.cutOff (cidOf tid) t.tenant [(k, 128)]
    let d := frameKey (cidOf tid) t.sys t.youngest
    let u := s.filled tid k
    (u.th tid).sys.res = t.sys.res + 1 ∧ (u.th tid).sys.depth = t.sys.depth ∧ (u.th tid).regs = t.regs ∧ (u.th tid).pc = t.pc ∧
      (∀ i, i < 16 → let a := k + 8 * i; let b := d + 8 * i
        (inRuns cut a = true → u.load b 8 = s.load b 8 ∧ u.poisoned b 8 = true) ∧
        (inRuns cut a = false → u.load b 8 = s.load a 8 ∧ u.poisoned b 8 = s.poisoned a 8)) ∧
      ∀ a, a < d ∨ d + 128 ≤ a → readByte u.mem a = readByte s.mem a := by
  intro t cut d u
  have hd : d % 8 = 0 := frameKey_aligned _ _ _ hok
  obtain ⟨hkept, hwords⟩ := s.copyFrame_spec (cidOf tid) t.tenant t.dueBy false [(k, 128)] cut k d hd hshown
  let v := (s.crossing (cidOf tid) t.tenant t.dueBy false [(k, 128)]).copyRun k d 128 cut
  have hend : v.ParkedLeft u := v.parkedLeft_updTh tid _ (Thread.filled_frame t.sys (s.fillLate tid k))
  have hsys : (u.th tid).sys = t.sys.setWsp (t.sys.res + 1) t.sys.depth :=
    (congrArg Thread.sys (State.th_updTh v tid _)).trans (Thread.filled_sys _ _ _)
  refine ⟨?_, ?_, (hend.regs tid).trans (hkept.context.regs tid), (hend.pc tid).trans (hkept.context.pc tid), fun i hi => ?_,
    fun a ha => (congrArg (readByte · a) hend.mem).trans (hkept.mem a ha)⟩
  · rw [hsys, SysRegs.res_setWsp]; exact Nat.mod_eq_of_lt hres
  · rw [hsys, SysRegs.depth_setWsp]; exact Nat.mod_eq_of_lt t.sys.depth_lt
  · obtain ⟨-, hlost, hfree⟩ := (hwords i hi).result hend hi hd hkept hshown
    have hlocal : 2 ^ 50 ≤ d := frameKey_local _ _ _
    have hdst := s.inRuns_cutOff_outside (cidOf tid) t.tenant k 128 (d + 8 * i) (by omega)
    exact ⟨hlost hdst, hfree hdst⟩

end

/-! #### The transfers that need a frame -/

theorem State.issueJ_error (s : State) (st : Stop) (g : Fin 8) (f : State → R) (hg : s.guarded g = true)
    (hf : f s = .error st) : s.issueJ g f = .next (s.halted st) := by
  simp only [State.issueJ, hg, if_true, hf]; rfl

theorem getLsbD_of_low (w : BitVec 32) (h : w.toNat / 2 ^ 16 = 0) (i : Nat) : w.getLsbD (16 + i) = false := by
  have hlow : w.toNat < 2 ^ 16 := by omega
  exact Nat.testBit_lt_two_pow (hlow.trans_le (Nat.pow_le_pow_right (by decide) (Nat.le_add_right 16 i)))

section
variable (s : State)

theorem State.localsQuiet_of_quiet (hpend : s.src.pend.toNat / 2 ^ 16 = 0) (hbusy : s.src.busy.toNat / 2 ^ 16 = 0) :
    s.localsQuiet = .ok () := by
  refine allOf_ok _ fun x hx => ?_
  obtain ⟨i, -, rfl⟩ := List.mem_map.1 hx
  have hfree : s.writeReg? (16 + i) = none := by
    simp only [State.writeReg?, getLsbD_of_low _ hbusy, getLsbD_of_low _ hpend, Bool.false_eq_true, if_false]
  simp only [hfree]

theorem State.transferReady {rs ws : List Place} (hr : s.Ready rs ws) (hpend : s.src.pend.toNat / 2 ^ 16 = 0)
    (hbusy : s.src.busy.toNat / 2 ^ 16 = 0) : allOf [s.need rs ws, s.localsQuiet] = .ok () :=
  allOf_ok _ (by simp [s.need_of_ready _ _ hr, s.localsQuiet_of_quiet hpend hbusy])

variable {c : Nat} {ea : Word} (hok : s.src.sys.windowOk = true) (hfault : s.src.windowFault = some (c, ea))
include hok hfault

theorem State.callReady_of_fault (hres : s.src.sys.res = s.src.sys.frames) : s.callReady = .error (.trap c ea) := by
  simp only [State.callReady, hok, hres, if_true, hfault, Bool.not_true, raiseIf, Bool.false_eq_true, if_false, except_ok_bind]

theorem State.retReady_of_fault (hres : s.src.sys.res = 0) (hdepth : s.src.sys.depth ≠ 0) : s.retReady = .error (.trap c ea) := by
  simp only [State.retReady, hok, hres, if_true, hfault, Bool.not_true, raiseIf, Bool.false_eq_true, if_false, except_ok_bind,
    decide_eq_true_eq, if_neg hdepth]

section
variable {x : XReg} (hr : s.Ready [xplace x] [.reg 15]) (hpend : s.src.pend.toNat / 2 ^ 16 = 0)
variable (hbusy : s.src.busy.toNat / 2 ^ 16 = 0)
include hr hpend hbusy

theorem execCall_of_fault (off : BitVec 19) (hres : s.src.sys.res = s.src.sys.frames) :
    execCall off s = .next (s.halted (.trap c ea)) := by
  have hr' : s.Ready [] [.reg 15] := hr.mono (by simp) (by simp)
  refine s.issueJ_error _ 0 _ rfl ?_
  simp only [s.transferReady hr' hpend hbusy, s.callReady_of_fault hok hfault hres, except_ok_bind, except_error_bind]

variable {g : Fin 8} (hg : s.guarded g = true)
include hg

theorem execCalli_of_fault (hres : s.src.sys.res = s.src.sys.frames) : execCalli x g s = .next (s.halted (.trap c ea)) := by
  refine s.issueJ_error _ g _ hg ?_
  simp only [s.transferReady hr hpend hbusy, s.callReady_of_fault hok hfault hres, except_ok_bind, except_error_bind]

theorem execRet_of_fault (hres : s.src.sys.res = 0) (hdepth : s.src.sys.depth ≠ 0) :
    execRet x g s = .next (s.halted (.trap c ea)) := by
  have hr' : s.Ready [xplace x] [] := hr.mono (by simp) (by simp)
  refine s.issueJ_error _ g _ hg ?_
  simp only [s.transferReady hr' hpend hbusy, s.retReady_of_fault hok hfault hres hdepth, except_ok_bind, except_error_bind]

end

end

/-! #### The statement -/

/-- Settles O44. A word's poisoning is `State.spoil`, whose parked accesses leave one by one; a transfer is `State.copyRun`, of which each
turn writes its word alone, between ports that touch no word; and a failed check stands in the thread until the transfer of control that
needs the frame. -/
theorem errorsAndWindowMoves : Obligations.ErrorsAndWindowMoves := by
  unfold Obligations.ErrorsAndWindowMoves
  refine ⟨?line, fun s key => ⟨?word, ?element⟩, ?spill, ?fill, ?transfer⟩
  case line =>
    intro s key hfar hex
    have hline (q : Nat × List Sync) (hq : q.1 / 8 ≠ key / 64) :
        ∀ i ∈ List.range 8, q.1 ≠ (key / 64 * 64 + 8 * i) / 8 := fun i hi e => hq ((mem_line_iff key q.1).1 ⟨i, hi, e⟩)
    refine ⟨_, execEccUncorrectableError_eq s key hfar hex, State.spoilAll_mem _ _ s,
      fun hw => State.spoilAll_unwaited _ _ s fun i hi q hq => hline q (hw q hq) i hi, fun w => ?_⟩
    rw [State.mem_poison_spoilAll, mem_line_iff]
  case word =>
    intro hlo hhi
    refine ⟨_, execSoftError_of_scratchpad s key hlo hhi, s.spoil_mem key, s.mem_poison_spoil key, s.spoil_unwaited key,
      s.spoil_of_poisoned key, fun a hd hclean => ⟨?_, fun hop => ?_, fun hop => ?_⟩⟩
    · rw [s.spoil_deferred key hclean, hd]
      exact if_pos rfl
    · have hload : a.op ≠ .ste := by rintro h; simp [h] at hop
      rw [s.spoil_of_one_parked key a hd hclean, State.spoilParked_of_load _ a hload]
      exact ⟨rfl, State.item_setItem_self _ _ _⟩
    · rw [s.spoil_of_one_parked key a hd hclean]
      exact State.spoilParked_ste _ a hop
  case element =>
    rintro c n hn hc rfl
    refine ⟨_, execSoftError_of_accumulator s c n hn hc, rfl, rfl, ?_, fun i => ?_⟩
    · rw [State.core_setCore]
    · rw [State.core_setCore]; exact mem_addKey _ _ _
  case spill =>
    intro s tid k t y f d kept hmoves hpos hle
    have hdue : t.spillDue = true ↔ y.frames ≤ y.res + 1 ∧ kept = false := by
      rw [t.spillDue_eq_true_iff hmoves hpos hle, show t.keepsFrames = kept from Bool.or_comm _ _]
    refine ⟨fun hfull hk hacc => ⟨fun hlink => ?_, fun hlink hdirty halign hfar hlocks _ => ?_⟩,
      fun hfull hk c ea hacc => ?_, fun h => ?_⟩
    · exact execWindowSpill_of_awaitsLink (hdue.2 ⟨hfull, hk⟩) hacc hlink
    · exact ⟨_, execWindowSpill_of_ok (hdue.2 ⟨hfull, hk⟩) hacc hlink hdirty, State.spilled_spec halign hfar hlocks⟩
    · exact execWindowSpill_of_error (hdue.2 ⟨hfull, hk⟩) hacc
    · refine execWindowSpill_of_not_due (Bool.eq_false_iff.2 fun hspill => ?_)
      obtain ⟨hfull, hk⟩ := hdue.1 hspill
      exact h.elim (Nat.not_lt.2 hfull) (Bool.eq_false_iff.1 hk)
  case fill =>
    intro s tid k t y f d low wait due hmoves hlt
    have hdue : t.fillDue = true ↔ due := t.fillDue_eq_true_iff hmoves hlt
    refine ⟨fun h hacc => ⟨fun hlink => ?_, fun hlink _ hfar hshown => ?_⟩, fun h c ea hacc => ?_, fun h => ?_⟩
    · exact execWindowFill_of_awaitsLink (hdue.2 h) hacc hlink
    · have hlow : low ≤ 2 := Nat.min_le_left _ _
      have hres : y.res + 1 < 16 := by
        rcases h with h | ⟨h, -⟩ <;> omega
      exact ⟨_, execWindowFill_of_ok (hdue.2 h) hacc hlink,
        State.filled_spec (t.windowOk_of_movesWindows hmoves) hres hfar hshown⟩
    · exact execWindowFill_of_error (hdue.2 h) hacc
    · exact execWindowFill_of_not_due (Bool.eq_false_iff.2 fun hfill => h (hdue.1 hfill))
  case transfer =>
    intro s off x g c ea hg hr hpend hbusy hok hfault
    refine ⟨fun hres => ?_, fun hres hdepth => execRet_of_fault s hok hfault hr hpend hbusy hg hres hdepth⟩
    simp only [List.forall_mem_cons, List.not_mem_nil, false_imp_iff, implies_true, and_true]
    exact ⟨execCall_of_fault s hok hfault hr hpend hbusy off hres, execCalli_of_fault s hok hfault hr hpend hbusy hg hres⟩

end Sys2Proof.Machine

/-! ### Memory in canonical form (03 R72; 08 R147): how states are put together -/

namespace Sys2Proof.Machine

/-- Memory is in canonical form: addresses strictly rising, and no listed byte reads as an unlisted one. -/
def State.Canonical (s : State) : Prop := Memory.wf s.mem = true

/-- An instruction's body that answers a state answers a canonical one. -/
inductive R.Canonical : R → Prop
  | ok {s : State} (h : s.Canonical) : R.Canonical (.ok s)
  | error {st : Stop} : R.Canonical (.error st)

/-- An outcome with a next state has a canonical one. -/
def Out.Canonical : Out → Prop
  | .next s => s.Canonical
  | _ => True

/-! #### The ways of putting states together -/

theorem State.Canonical.ite {c : Prop} {_ : Decidable c} {a b : State} (ha : a.Canonical) (hb : b.Canonical) :
    (if c then a else b).Canonical := by
  split <;> assumption

theorem R.Canonical.ite {c : Prop} {_ : Decidable c} {a b : R} (ha : R.Canonical a) (hb : R.Canonical b) :
    R.Canonical (if c then a else b) := by
  split <;> assumption

theorem Out.Canonical.ite {c : Prop} {_ : Decidable c} {a b : Out} (ha : Out.Canonical a) (hb : Out.Canonical b) :
    Out.Canonical (if c then a else b) := by
  split <;> assumption

theorem State.Canonical.foldl {α : Type} {f : State → α → State} {l : List α} {s : State} (h : s.Canonical)
    (hf : ∀ s x, s.Canonical → (f s x).Canonical) : (l.foldl f s).Canonical := by
  induction l generalizing s with
  | nil => exact h
  | cons x l ih => exact ih (hf s x h)

/-- A check, or a value read, answers no state: only what follows it does. -/
theorem R.Canonical.pure {s : State} (h : s.Canonical) : R.Canonical (pure s) := .ok h

theorem R.Canonical.bindOk {α : Type} {x : Except Stop α} {f : α → R} (hf : ∀ a, x = .ok a → R.Canonical (f a)) :
    R.Canonical (x >>= f) := by
  cases x with
  | error st => exact .error
  | ok a => exact hf a rfl

/-- A check, or a value read, answers no state: only what follows it does. -/
theorem R.Canonical.bind {α : Type} {x : Except Stop α} {f : α → R} (hf : ∀ a, R.Canonical (f a)) : R.Canonical (x >>= f) :=
  .bindOk fun a _ => hf a

/-- A check made under a condition, and what follows it. -/
theorem R.Canonical.bindIf {c : Prop} {_ : Decidable c} {x : Except Stop Unit} {f : Unit → R} (hf : ∀ a, R.Canonical (f a)) :
    R.Canonical (if c then x >>= f else f ()) :=
  .ite (.bind hf) (hf ())

theorem R.Canonical.bindState {x : R} {f : State → R} (hx : R.Canonical x) (hf : ∀ s, s.Canonical → R.Canonical (f s)) :
    R.Canonical (x >>= f) := by
  cases hx with
  | ok hs => exact hf _ hs
  | error => exact .error

theorem R.Canonical.map {x : R} {f : State → State} (hx : R.Canonical x) (hf : ∀ s, s.Canonical → (f s).Canonical) :
    R.Canonical (x.map f) := by
  cases hx with
  | ok hs => exact .ok (hf _ hs)
  | error => exact .error

theorem Out.Canonical.next {s : State} (h : s.Canonical) : Out.Canonical (.next s) := h

theorem Out.Canonical.andThen {o : Out} {f : State → Out} (ho : Out.Canonical o) (hf : ∀ s, s.Canonical → Out.Canonical (f s)) :
    Out.Canonical (andThen o f) := by
  cases o with
  | next s => exact hf s ho
  | fault _ => trivial
  | refused _ => trivial

namespace State.Canonical
variable {s : State}

/-! #### Operations that leave memory alone -/

theorem setTh {t : Nat} {x : Thread} (h : s.Canonical) : (s.setTh t x).Canonical := h
theorem updTh {t : Nat} {f : Thread → Thread} (h : s.Canonical) : (s.updTh t f).Canonical := h
theorem updMe {f : Thread → Thread} (h : s.Canonical) : (s.updMe f).Canonical := h
theorem setCore {c : Nat} {x : Core} (h : s.Canonical) : (s.setCore c x).Canonical := h
theorem setDie {d : Nat} {x : Die} (h : s.Canonical) : (s.setDie d x).Canonical := h
theorem setCluster {c : Nat} {x : Cluster} (h : s.Canonical) : (s.setCluster c x).Canonical := h
theorem setGroup {p g : Nat} {x : Group} (h : s.Canonical) : (s.setGroup p g x).Canonical := h
theorem updPkg {p : Nat} {f : Pkg → Pkg} (h : s.Canonical) : (s.updPkg p f).Canonical := h
theorem setItem {id : Nat} {x : Item} (h : s.Canonical) : (s.setItem id x).Canonical := h
theorem dropItem {id : Nat} (h : s.Canonical) : (s.dropItem id).Canonical := h
theorem post {x : Item} (h : s.Canonical) : (s.post x).Canonical := h

/-! #### Groups, traps and the end of an instruction -/

theorem storeAt {k : Nat} {data : List Byte} (h : s.Canonical) : (s.storeAt k data).Canonical := wf_storeAt s k data h

theorem evalGroup {pkg : Nat} {g : Option Nat} (h : s.Canonical) : (s.evalGroup pkg g).Canonical := by
  cases g with
  | none => exact h
  | some g => exact h.foldl fun s b hs => .ite hs hs

theorem exitThread {t : Nat} (h : s.Canonical) : (s.exitThread t).Canonical := by
  unfold State.exitThread
  exact .evalGroup (.updTh (.ite h h))

theorem statusRecord {pkg q event group task : Nat} (h : s.Canonical) : (s.statusRecord pkg q event group task).Canonical :=
  .ite h (.ite h (.ite h h.storeAt))

theorem groupRecord {pkg g event task : Nat} (h : s.Canonical) : (s.groupRecord pkg g event task).Canonical := by
  unfold State.groupRecord
  split
  · exact h.statusRecord
  · exact h

theorem endGroup {t : Nat} (h : s.Canonical) : (s.endGroup t).Canonical := by
  unfold State.endGroup
  dsimp only
  split
  · exact h.exitThread
  split
  · exact h.exitThread
  · exact .foldl (.ite h (.groupRecord h)) fun s u hs => .ite hs hs.exitThread

theorem endGang {t : Nat} (h : s.Canonical) : (s.endGang t).Canonical := by
  unfold State.endGang
  split
  · exact h
  · exact h.foldl fun s u hs => hs

theorem enterTrap {t : Nat} {epc : Word} {cause : Nat} {tval : Word} (h : s.Canonical) : (s.enterTrap t epc cause tval).Canonical :=
  .ite (.endGroup (.updTh h.endGang)) (.updTh (.updTh h.endGang))

theorem enterMark {t : Nat} {word : Word} (h : s.Canonical) : (s.enterMark t word).Canonical :=
  .ite h.enterTrap (.ite h.enterTrap (.updTh h.endGang))

theorem startWalk {w : Walk} (h : s.Canonical) : (s.startWalk w).Canonical := by
  unfold State.startWalk
  dsimp only
  split
  · exact h
  · exact .ite h h

theorem halted {st : Stop} (h : s.Canonical) : (s.halted st).Canonical := by
  unfold State.halted
  cases st with
  | wait | park | vanish => exact h
  | walk w => exact .startWalk h
  | trap c v => exact .enterTrap h
  | mark w => exact .enterMark h
  | brk => exact .updMe (.endGang h)

end State.Canonical

theorem State.Canonical.conclude {s : State} (h : s.Canonical) {r : R} (hr : R.Canonical r) : Out.Canonical (s.conclude r) := by
  cases hr with
  | ok hs => exact hs
  | error => exact h.halted

section
variable {s : State} {f : State → R}

theorem Out.Canonical.issueA (h : s.Canonical) (hf : R.Canonical (f s)) : Out.Canonical (s.issueA f) := h.conclude hf

/-- Moving past the pair leaves memory alone. -/
theorem Out.Canonical.issue (h : s.Canonical) (hf : R.Canonical (f s)) : Out.Canonical (s.issue f) :=
  h.conclude (hf.map fun _ hs => hs)

theorem Out.Canonical.issueC {g : Fin 8} (h : s.Canonical) (hf : R.Canonical (f s)) : Out.Canonical (s.issueC g f) :=
  .ite (.issue h hf) h

theorem Out.Canonical.issueJ {g : Fin 8} (h : s.Canonical) (hf : R.Canonical (f s)) : Out.Canonical (s.issueJ g f) :=
  .ite (.issueA h hf) h

end

end Sys2Proof.Machine

/-! ### Canonical memory: results, the far net, locks, traps, fetch and trace -/

namespace Sys2Proof.Machine

section
variable {s : State}

theorem State.Canonical.writeSlot {q k data : Nat} {typed : Bool} (h : s.Canonical) : (s.writeSlot q k data typed).Canonical :=
  .ite h (.storeAt h)

theorem State.Canonical.writeS {o : SOpd} {w : Word} {typed : Bool} (h : s.Canonical) : (s.writeS o w typed).Canonical := by
  cases o with
  | r i => exact h
  | q n k => exact h.writeSlot

theorem State.Canonical.writeV {o : VOpd} {x : Nat} {typed : Bool} (h : s.Canonical) : (s.writeV o x typed).Canonical := by
  cases o with
  | v i => exact h
  | q n k => exact h.writeSlot

theorem State.Canonical.resultS {o : SOpd} {w : Word} (h : s.Canonical) : (s.resultS o w).Canonical := by
  cases o with
  | r i => exact h
  | q n k => exact h.writeS

theorem State.Canonical.resultV {o : VOpd} {x : Nat} (h : s.Canonical) : (s.resultV o x).Canonical := by
  cases o with
  | v i => exact h
  | q n k => exact h.writeV

theorem State.Canonical.dirtied {tid : Nat} {ea : Word} {acc : Nat} (h : s.Canonical) : (s.dirtied tid ea acc).Canonical := by
  unfold State.dirtied
  dsimp only
  split
  · exact h
  · exact .ite h (.setCluster (.storeAt h))

/-! #### The far net -/

theorem State.Canonical.wakePkg {pkg : Nat} (h : s.Canonical) : (s.wakePkg pkg).Canonical := .ite h h

theorem State.Canonical.wakeFrom {a b : Nat} (h : s.Canonical) : (s.wakeFrom a b).Canonical := .ite h h.wakePkg

theorem State.Canonical.wakePkgs {l : List Nat} (h : s.Canonical) : (l.foldl State.wakePkg s).Canonical :=
  h.foldl fun _ _ hs => hs.wakePkg

theorem State.Canonical.refuse {die port cid tenant k : Nat} {wr : Bool} (h : s.Canonical) :
    (s.refuse die port cid tenant k wr).Canonical := by
  unfold State.refuse
  exact .post (.ite h h)

theorem State.Canonical.countPast {cid deadline : Nat} {runs : List (Nat × Nat)} (h : s.Canonical) :
    (s.countPast cid deadline runs).Canonical :=
  .ite (.foldl h fun _ _ hs => hs) h

theorem State.Canonical.crossing {cid tenant deadline : Nat} {wr : Bool} {runs : List (Nat × Nat)} (h : s.Canonical) :
    (s.crossing cid tenant deadline wr runs).Canonical :=
  .foldl (.foldl h.countPast fun _ _ hs => hs.refuse) fun _ _ hs => .ite hs.wakePkg hs.wakePkg.wakePkg

theorem State.Canonical.sendOut {id cid tenant deadline : Nat} {wr : Bool} {runs : List (Nat × Nat)} (h : s.Canonical) :
    (s.sendOut id cid tenant deadline wr runs).Canonical :=
  .foldl h fun _ _ hs => hs

theorem State.Canonical.sendAway {id a b tenant deadline : Nat} (h : s.Canonical) : (s.sendAway id a b tenant deadline).Canonical :=
  .ite h h

theorem State.Canonical.wakeReply {ways : List (Nat × Nat)} (h : s.Canonical) : (s.wakeReply ways).Canonical :=
  .foldl h fun _ _ hs => .ite hs hs.wakePkg

theorem State.Canonical.depart {a : Access} (h : s.Canonical) : (s.depart a).Canonical := .sendOut h

theorem State.Canonical.landed {id : Nat} (h : s.Canonical) : (s.landed id).Canonical := .ite h h

theorem State.Canonical.answerPoisoned {id : Nat} {late : Bool} (h : s.Canonical) : (s.answerPoisoned id late).Canonical := by
  unfold State.answerPoisoned
  split <;> exact h

theorem State.Canonical.failSync {a : Sync} {id : Nat} {late : Bool} (h : s.Canonical) : (s.failSync a id late).Canonical := by
  unfold State.failSync
  dsimp only
  split
  case h_4 => exact .ite h h
  all_goals exact h

theorem State.Canonical.mapReq {id : Nat} {f : Req → Req} (h : s.Canonical) : (s.mapReq id f).Canonical := by
  unfold State.mapReq
  split <;> exact h

theorem State.Canonical.unpack {ids : List Nat} (h : s.Canonical) : (s.unpack ids).Canonical := h

theorem State.Canonical.failPacket {p : Packet} {id : Nat} (h : s.Canonical) : (s.failPacket p id).Canonical := by
  unfold State.failPacket
  split
  · exact .unpack h.answerPoisoned
  · exact .unpack h.failSync
  all_goals exact h

theorem State.Canonical.turnAway {p : Packet} {id : Nat} (h : s.Canonical) : (s.turnAway p id).Canonical := by
  unfold State.turnAway
  split
  · exact h.mapReq
  · exact h.mapReq
  · exact h.failPacket

theorem State.Canonical.passOn {p : Packet} (h : s.Canonical) : (s.passOn p).Canonical := .ite (.ite h h) h

theorem State.Canonical.reachPort {die : Nat} {p : Packet} (h : s.Canonical) : (s.reachPort die p).Canonical :=
  .ite (.foldl h.refuse fun _ _ hs => hs.turnAway) <| .ite (.ite h h) <| .ite (.foldl h fun _ _ hs => hs.failPacket) <|
    .ite h (.passOn (.ite h.wakePkg h))

theorem State.Canonical.sendOn {die sw out : Nat} {p : Packet} (h : s.Canonical) : (s.sendOn die sw p out).Canonical :=
  .ite (.reachPort (.setDie (.ite h h))) (.setDie (.setDie (.ite h h)))

theorem Out.Canonical.farNetForward {die stage sw out : Nat} (h : s.Canonical) :
    Out.Canonical (execFarNetForward die stage sw out s) := by
  unfold execFarNetForward
  refine .ite h ?_
  dsimp only
  split
  · exact h
  · exact State.Canonical.sendOn h
  · exact State.Canonical.sendOn h
  · exact .ite (State.Canonical.sendOn h) (State.Canonical.sendOn h)

theorem Out.Canonical.switchPowerDown {die stage sw : Nat} (h : s.Canonical) : Out.Canonical (execSwitchPowerDown die stage sw s) :=
  .ite h h

theorem Out.Canonical.switchWake {die stage sw : Nat} (h : s.Canonical) : Out.Canonical (execSwitchWake die stage sw s) := .ite h h

/-! #### Locks and poison -/

theorem State.Canonical.grantLock {key : Nat} (h : s.Canonical) : (s.grantLock key).Canonical := by
  unfold State.grantLock
  dsimp only
  split
  · exact h
  split
  · exact h
  · exact .setItem (.storeAt h)

theorem State.Canonical.settleLocks (h : s.Canonical) : s.settleLocks.Canonical :=
  .foldl h fun _ _ hs => .ite hs.grantLock hs

theorem State.Canonical.spoilParked {a : Sync} (h : s.Canonical) : (s.spoilParked a).Canonical := by
  unfold State.spoilParked
  split
  · exact .ite h h
  · exact h

theorem State.Canonical.spoil {k : Nat} (h : s.Canonical) : (s.spoil k).Canonical :=
  .ite h (.foldl h fun _ _ hs => hs.spoilParked)

theorem State.Canonical.writePoison {k : Nat} (h : s.Canonical) : (s.writePoison k).Canonical := .ite h h.spoil

/-! #### Causes at the boundary, fetch and trace -/

theorem State.Canonical.takeBoundary {tid : Nat} {b : Nat × Word × Word × Pending} (h : s.Canonical) :
    (s.takeBoundary tid b).Canonical := .enterTrap h

theorem State.Canonical.takeTimer {tid : Nat} (h : s.Canonical) : (s.takeTimer tid).Canonical := .enterTrap h

theorem Out.Canonical.boundaryTrap {tid : Nat} (h : s.Canonical) : Out.Canonical (execBoundaryTrap tid s) := by
  unfold execBoundaryTrap
  refine .ite h ?_
  split
  · exact h.takeBoundary
  · exact .ite h.takeTimer h

theorem Out.Canonical.timerExpiry {tid : Nat} (h : s.Canonical) : Out.Canonical (execTimerExpiry tid s) :=
  .ite (State.Canonical.ite (.wakePkg h) h) h

theorem State.Canonical.fetchTrail {pc : Word} (h : s.Canonical) : (s.fetchTrail pc).Canonical := by
  unfold State.fetchTrail
  split
  · exact h
  · exact .updMe h.crossing

theorem State.Canonical.fetchFailed {st : Stop} (h : s.Canonical) : (s.fetchFailed st).Canonical := by
  unfold State.fetchFailed
  split
  · exact h.fetchTrail
  · exact h

theorem State.Canonical.fetchPair {s' : State} {w : Word} (h : s.Canonical) (hs : s.fetchPair = .ok (s', w)) : s'.Canonical := by
  unfold State.fetchPair at hs
  split at hs
  · cases hs; exact h
  · cases hw : s.fetchAt s.me.pc with
    | error st => rw [hw] at hs; cases hs
    | ok w => rw [hw] at hs; cases hs; exact .updMe h.fetchTrail

theorem State.Canonical.prefetch {tid : Nat} (h : s.Canonical) : (s.prefetch tid).Canonical := by
  unfold State.prefetch
  refine .ite h ?_
  split
  · exact .updTh (.fetchTrail (s := { s with cur := tid, iss := {} }) h)
  · exact h

theorem Out.Canonical.register {pkg : Nat} {f : State → State} (h : s.Canonical) (hf : ∀ s, s.Canonical → (f s).Canonical) :
    Out.Canonical (s.register pkg f) :=
  State.Canonical.ite h.wakePkg (hf _ h.wakePkg)

theorem State.Canonical.traceWords {pkg : Nat} {l : List Nat} (h : s.Canonical) : (s.traceWords pkg l).Canonical := by
  induction l generalizing s with
  | nil => exact h
  | cons w rest ih =>
    unfold State.traceWords
    dsimp only
    split
    · exact h
    · exact ih (.updPkg (.settleLocks (.storeAt h)))

theorem State.Canonical.traceLost {pkg : Nat} (h : s.Canonical) : (s.traceLost pkg).Canonical := by
  unfold State.traceLost
  dsimp only
  split
  · exact h
  · exact .ite (.updPkg h.traceWords) h

theorem State.Canonical.trace {pkg kind : Nat} {body : List Nat} (h : s.Canonical) : (s.trace pkg kind body).Canonical := by
  unfold State.trace
  dsimp only
  split
  · exact h.traceLost
  · exact .ite h.traceLost.traceWords (.updPkg h.traceLost)

theorem State.Canonical.traceRange {tid kind depth label : Nat} (h : s.Canonical) : (s.traceRange tid kind depth label).Canonical :=
  .ite h.trace h

theorem State.Canonical.traceStop {tid : Nat} (h : s.Canonical) : (s.traceStop tid).Canonical := .ite h.trace h

theorem State.Canonical.stopNow {tid : Nat} (h : s.Canonical) : (s.stopNow tid).Canonical := .traceStop h

theorem State.Canonical.stopAt {tid : Nat} (h : s.Canonical) : (s.stopAt tid).Canonical := .ite h.stopNow h

theorem State.Canonical.account {cid : Nat} {w : Option Nat} (h : s.Canonical) : (s.account cid w).Canonical := .ite h h

theorem State.Canonical.endCycle {cid : Nat} {w : Option Nat} (h : s.Canonical) : (s.endCycle cid w).Canonical := 
  account h

theorem Out.Canonical.idleCycle {cid : Nat} (h : s.Canonical) : Out.Canonical (execIdleCycle cid s) := .ite h h.endCycle

end

end Sys2Proof.Machine

/-! ### Canonical memory: arithmetic, accesses as they issue, rings and splices -/

namespace Sys2Proof.Machine

section
variable {s : State}

theorem State.Canonical.drewFlags {n fl : Nat} (h : s.Canonical) : ((s.orFlags fl).drew n).Canonical := h

/-! #### Vector and scalar instructions -/

theorem R.Canonical.vecResult {d : VOpd} {r : VRes} {long typed : Bool} (h : s.Canonical) :
    R.Canonical (s.vecResult d r long typed) :=
  .bind fun _ => .pure (.drewFlags (.ite h.resultV h.writeV))

theorem R.Canonical.vec2 {d a b : VOpd} {m : MReg} {w : Nat} {long : Bool} {f : Nat → Nat → Nat → Rounded} (h : s.Canonical) :
    R.Canonical (s.vec2 d a b m w long f) :=
  .bind fun _ => .vecResult h

theorem R.Canonical.vec1 {d a : VOpd} {m : MReg} {w : Nat} {long : Bool} {f : Nat → Nat → Rounded} (h : s.Canonical) :
    R.Canonical (s.vec1 d a m w long f) :=
  .bind fun _ => .vecResult h

theorem R.Canonical.vecFma {neg : Bool} {f : Fmt} {d : VReg} {a b : VOpd} {m : MReg} {r : Rnd} (h : s.Canonical) :
    R.Canonical (s.vecFma neg f d a b m r) :=
  .bind fun _ => .vecResult h

theorem R.Canonical.vcmp {md : Fin 64} {a b : VOpd} {m : MReg} {w : Nat} {rel : Nat → Nat → CmpLane} (h : s.Canonical) :
    R.Canonical (s.vcmp md a b m w rel) :=
  .bind fun _ => .bind fun _ => .pure h

theorem R.Canonical.visab {f : Fmt} {md : Fin 4} {a : VOpd} {m : MReg} (h : s.Canonical) : R.Canonical (s.visab f md a m) :=
  .bind fun _ => .pure h

theorem R.Canonical.vcnt {f : Fmt} {d : SOpd} {a : VOpd} {m : MReg} (h : s.Canonical) : R.Canonical (s.vcnt f d a m) :=
  .bind fun _ => .pure h.writeS

theorem R.Canonical.vmkab {f : Fmt} {d a : VOpd} {n : XReg} {m : MReg} (h : s.Canonical) : R.Canonical (s.vmkab f d a n m) :=
  .bind fun _ => .vecResult h

theorem R.Canonical.vcvt {f : Fmt} {d a : VOpd} {src : PSrc} {m : MReg} {r : Rnd} (h : s.Canonical) :
    R.Canonical (s.vcvt f d a src m r) :=
  .bind fun _ => .vecResult h

theorem R.Canonical.vdot {f : Fmt} {d : VReg} {a b : VOpd} {m : MReg} {g : Nat → List (Nat × Nat) → Nat → Rounded} (h : s.Canonical) :
    R.Canonical (s.vdot f d a b m g) :=
  .bind fun _ => .vecResult h

theorem R.Canonical.vrng {w : Nat} {d : VOpd} {k i : XReg} {m : MReg} {f : Nat → Nat} (h : s.Canonical) :
    R.Canonical (s.vrng w d k i m f) :=
  .bind fun _ => .bind fun _ => .bind fun _ => .vecResult h

theorem Out.Canonical.xld {d a : VReg} {dp : Fin 32} {m : MReg} (h : s.Canonical) : Out.Canonical (execXld d a dp m s) :=
  .issueA h <| .bind fun _ => .ite (.pure h) <| .ite (.pure (.updMe h.writeV)) <| .ite (.pure h) .error

theorem Out.Canonical.xldTimeout {tid : Nat} (h : s.Canonical) : Out.Canonical (execXldTimeout tid s) := .ite h h

theorem R.Canonical.floatResult {d : SOpd} {r : Rounded} {long : Bool} (h : s.Canonical) : R.Canonical (s.floatResult d r long) :=
  .bind fun _ => .pure (.drewFlags (.ite h.resultS h.writeS))

theorem R.Canonical.float2 {op : FOp} {f : Fmt} {d a b : SOpd} {r : Rnd} {long : Bool} (h : s.Canonical) :
    R.Canonical (s.float2 op f d a b r long) :=
  .bind fun _ => .floatResult h

theorem R.Canonical.convert {dst src : Fmt} {d a : SOpd} {r : Rnd} (h : s.Canonical) : R.Canonical (s.convert dst src d a r) :=
  .bind fun _ => .bind fun _ => .pure (.drewFlags h.writeS)

theorem R.Canonical.alu2 {d a b : SOpd} {f : Word → Word → Word} (h : s.Canonical) : R.Canonical (s.alu2 d a b f) :=
  .bind fun _ => .pure h.writeS

theorem R.Canonical.alu1 {d a : SOpd} {f : Word → Word} (h : s.Canonical) : R.Canonical (s.alu1 d a f) :=
  .bind fun _ => .pure h.writeS

theorem R.Canonical.divide {d a b : SOpd} {f : Word → Word → Word} (h : s.Canonical) : R.Canonical (s.divide d a b f) :=
  .bind fun _ => .bind fun _ => .pure h.resultS

theorem R.Canonical.compare {d : PReg} {a b : SOpd} {f : Word → Word → Bool} (h : s.Canonical) : R.Canonical (s.compare d a b f) :=
  .bind fun _ => .pure h

theorem R.Canonical.compareI {d : PReg} {a : SOpd} {imm : BitVec 12} {f : Word → Word → Bool} (h : s.Canonical) :
    R.Canonical (s.compareI d a imm f) :=
  .bind fun _ => .pure h

/-! #### Accesses as they issue -/

theorem State.Canonical.occupy {d : Dest} (h : s.Canonical) : (s.occupy d).Canonical := by
  cases d <;> exact h

theorem R.Canonical.issueLoad {d : Dest} {key : Nat} {rest : Option (Nat × Nat)} {ea : Word} {n : Nat} {far sext acq : Bool}
    (h : s.Canonical) : R.Canonical (s.issueLoad d key rest ea n far sext acq) := by
  unfold State.issueLoad
  split
  · exact .error
  · exact .bind fun _ => .pure (.post h.occupy)
  · exact .pure (.depart h.occupy)

theorem R.Canonical.loadFar {d : Dest} {b : XReg} {imm : BitVec 12} {n al : Nat} {sext acq : Bool} (h : s.Canonical) :
    R.Canonical (s.loadFar d b imm n al sext acq) :=
  .bind fun _ => .bind fun _ => .issueLoad h

theorem R.Canonical.loadNear {d : Dest} {b : XReg} {imm : BitVec 12} {n al : Nat} (h : s.Canonical) :
    R.Canonical (s.loadNear d b imm n al) :=
  .bind fun _ => .bind fun _ => .issueLoad h

theorem State.Canonical.buffer {ea : Word} {far release : Bool} {kind : StoreKind} (h : s.Canonical) :
    (s.buffer ea far release kind).Canonical := h

theorem R.Canonical.storeFar {o : Place} {val : Nat} {b : XReg} {imm : BitVec 12} {n al : Nat} {rel : Bool} (h : s.Canonical) :
    R.Canonical (s.storeFar o val b imm n al rel) := by
  refine .bind fun _ => .bind fun _ => .bind fun r => .bind fun _ => .bind fun _ => .pure (.buffer ?_)
  split
  · exact h.dirtied.dirtied
  · exact h.dirtied

theorem R.Canonical.storeNear {o : Place} {val : Nat} {b : XReg} {imm : BitVec 12} {n al : Nat} (h : s.Canonical) :
    R.Canonical (s.storeNear o val b imm n al) :=
  .bind fun _ => .bind fun _ => .bind fun _ => .bind fun _ => .bind fun _ => .pure (.ite h h)

theorem R.Canonical.issueAtomic {d : Dest} {op : AccOp} {key : Nat} {ea : Word} {n : Nat} {far : Bool} {v : Word} (h : s.Canonical) :
    R.Canonical (s.issueAtomic d op key ea n far v) :=
  .pure (.depart h.occupy)

theorem R.Canonical.atomicFar {op : AccOp} {d b : XReg} {v : SOpd} {n : Nat} {also : List Place} (h : s.Canonical) :
    R.Canonical (s.atomicFar op d b v n also) :=
  .bind fun _ => .bind fun _ => .bind fun _ => .bind fun _ => .issueAtomic h.dirtied

theorem R.Canonical.atomicNear {op : AccOp} {d b : XReg} {v : SOpd} {also : List Place} (h : s.Canonical) :
    R.Canonical (s.atomicNear op d b v also) :=
  .bind fun _ => .bind fun _ => .bind fun _ => .bind fun _ => .bind fun _ => .issueAtomic h

theorem Out.Canonical.afadd {d b : XReg} {v : SOpd} {z : Fin 2} {g : Fin 8} (h : s.Canonical) : Out.Canonical (execAfadd d b v z g s) :=
  .issueC h <| .bindState (.atomicFar h) fun _ hs => .pure (.ite hs hs)

theorem R.Canonical.lockOp {op : AccOp} {d : Dest} {b : XReg} (h : s.Canonical) : R.Canonical (s.lockOp op d b) :=
  .bind fun _ => .bind fun _ => .issueAtomic h.dirtied

theorem State.Canonical.sendSync {op : SyncOp} {key : Nat} {na val : Word} {reg : Nat} (h : s.Canonical) :
    (s.sendSync op key na val reg).Canonical :=
  .sendOut h

theorem R.Canonical.loadSync {op : SyncOp} {d b : XReg} {imm : BitVec 12} (h : s.Canonical) : R.Canonical (s.loadSync op d b imm) :=
  .bind fun _ => .bind fun _ => .pure (.sendSync h)

theorem R.Canonical.storeSync {op : SyncOp} {v : SOpd} {b : XReg} {imm : BitVec 12} (h : s.Canonical) :
    R.Canonical (s.storeSync op v b imm) :=
  .bind fun _ => .bind fun _ => .bind fun _ => .bind fun _ => .bind fun _ => .pure h.sendSync

theorem R.Canonical.stateSync {op : SyncOp} {b : XReg} {imm : BitVec 12} (h : s.Canonical) : R.Canonical (s.stateSync op b imm) :=
  .bind fun _ => .bind fun _ => .pure h.sendSync

/-! #### Rings and splices -/

theorem State.Canonical.updRing {tid q : Nat} {f : Ring → Ring} (h : s.Canonical) : (s.updRing tid q f).Canonical := h

theorem State.Canonical.makeCurrent {cons consQ : Nat} {p : Nat × Nat} (h : s.Canonical) : (s.makeCurrent cons consQ p).Canonical := by
  unfold State.makeCurrent
  refine .ite h (.ite h ?_)
  split <;> exact h

theorem State.Canonical.leaveChannel {tid q : Nat} (h : s.Canonical) : (s.leaveChannel tid q).Canonical :=
  .ite h (.ite (.makeCurrent h) h)

theorem State.Canonical.unbind {tid q : Nat} (h : s.Canonical) : (s.unbind tid q).Canonical := by
  unfold State.unbind
  exact .updRing (.ite h.leaveChannel h)

theorem State.Canonical.unbindAll {tid : Nat} (h : s.Canonical) : (s.unbindAll tid).Canonical := .foldl h fun _ _ hs => hs.unbind

theorem State.Canonical.popRing {tid q k : Nat} (h : s.Canonical) : (s.popRing tid q k).Canonical := by
  unfold State.popRing
  dsimp only
  split
  · exact .ite h h
  · exact h

theorem State.Canonical.pushOut {tid q : Nat} {l : List Staged} (h : s.Canonical) : (s.pushOut tid q l).Canonical :=
  .updRing (.foldl h fun _ _ hs => hs)

theorem R.Canonical.bindOwn {kind : RingKind} {q size cap : Nat} {a : Word} {d : XReg} (h : s.Canonical) :
    R.Canonical (s.bindOwn kind q size cap a d) :=
  .bind fun _ => .bind fun _ => .bind fun _ => .pure h

theorem R.Canonical.bindOut {q size cap : Nat} {a : Word} {d : XReg} (h : s.Canonical) : R.Canonical (s.bindOut q size cap a d) :=
  .bind fun _ => .bind fun _ => .pure h

theorem State.Canonical.bindAt {tid q size cap cons consQ : Nat} (h : s.Canonical) : (s.bindAt tid q size cap cons consQ).Canonical :=
  .ite (.makeCurrent h) h

theorem State.Canonical.landStatus {tid reg st : Nat} (h : s.Canonical) : (s.landStatus tid reg st).Canonical := h

theorem State.Canonical.bindArrives {id tid q size cap cons consQ reg : Nat} (h : s.Canonical) :
    (s.bindArrives id tid q size cap cons consQ reg).Canonical :=
  .ite h <| .ite h <| .ite h <| .landStatus (.bindAt h)

theorem Out.Canonical.qbind {q : Fin 8} {kind sz : Fin 4} {lc : Fin 8} {d a : XReg} (h : s.Canonical) :
    Out.Canonical (execQbind q kind sz lc d a s) := by
  refine .issue h <| .bind fun _ => .bind fun _ => .bind fun _ => .bind fun _ => ?_
  dsimp only
  split
  · exact .bindOwn h
  · exact .bindOwn h
  · exact .bindOut h

theorem Out.Canonical.qunbind {q g : Fin 8} (h : s.Canonical) : Out.Canonical (execQunbind q g s) :=
  .issueC h <| .bind fun _ => .bind fun _ => .bind fun _ => .bind fun _ => .pure h.unbind

theorem Out.Canonical.qpop {k q g : Fin 8} (h : s.Canonical) : Out.Canonical (execQpop k q g s) :=
  .issueC h <| .bind fun _ => .bind fun _ => .bind fun _ => .pure h.popRing

theorem Out.Canonical.qpush {k q g : Fin 8} (h : s.Canonical) : Out.Canonical (execQpush k q g s) :=
  .issueC h <| .bindIf fun _ => .bind fun _ => .ite (.bind fun _ => .pure h) (.bind fun _ => .pure h.pushOut)

theorem State.Canonical.forwardHead {tid : Nat} (h : s.Canonical) : (s.forwardHead tid).Canonical := .pushOut h.popRing

theorem Out.Canonical.qfwd {g : Fin 8} (h : s.Canonical) : Out.Canonical (execQfwd g s) :=
  .issueC h <| .bind fun _ => .bind fun _ => .bind fun _ => .bind fun _ => .bind fun _ => .bind fun _ => .bind fun _ => .bind fun _ =>
    .pure h.forwardHead

theorem State.Canonical.landState {tid : Nat} {x : Arriving} (h : s.Canonical) : (s.landState tid x).Canonical := by
  unfold State.landState
  split
  · exact h
  · exact .foldl (.foldl h.storeAt fun _ _ hs => hs) fun _ _ hs => hs.writePoison

theorem State.Canonical.commitSplice {c : Control} (h : s.Canonical) : (s.commitSplice c).Canonical := by
  unfold State.commitSplice
  have hp : (s.pushOut s.cur 1 [(c.as 1 0).slot s.cur]).Canonical := h.pushOut
  dsimp only
  generalize s.pushOut s.cur 1 [(c.as 1 0).slot s.cur] = u at hp ⊢
  refine .ite (.ite (.updTh (.makeCurrent hp)) (.makeCurrent hp)) (.ite hp (.ite (.makeCurrent hp) (.updTh (.makeCurrent hp))))

theorem State.Canonical.tellOrigin {c : Control} {r : Nat} (h : s.Canonical) : (s.tellOrigin c r).Canonical := h

theorem State.Canonical.writeX {r : XReg} {w : Word} (h : s.Canonical) : (s.writeX r w).Canonical := h

theorem State.Canonical.failSplice {c : Control} {reason : Nat} {out : Bool} (h : s.Canonical) :
    (s.failSplice c reason out).Canonical :=
  .ite (.forwardHead (.tellOrigin h.storeAt)) (.tellOrigin h.storeAt)

theorem Out.Canonical.qseam {d : XReg} {g : Fin 8} (h : s.Canonical) : Out.Canonical (execQseam d g s) := by
  refine .issueC h <| .bind fun _ => .bind fun _ => .bindIf fun _ => .bind fun _ => .bind fun _ => .ite (.ite ?_ ?_) (.ite ?_ ?_)
  · exact .bind fun _ => .pure (.writeX h.forwardHead)
  · exact .pure (.writeX h.failSplice)
  · exact .bind fun _ => .pure (.writeX h.failSplice)
  · exact .pure (.writeX (.tellOrigin (.popRing h.commitSplice)))

theorem Out.Canonical.qinherit {b n : XReg} {g : Fin 8} (h : s.Canonical) : Out.Canonical (execQinherit b n g s) :=
  .issueC h <| .bind fun _ => .ite (.pure h) (.bind fun _ => .bind fun _ => .pure h)

theorem Out.Canonical.markret {g : Fin 8} (h : s.Canonical) : Out.Canonical (execMarkret g s) :=
  .issueJ h <| .bind fun _ => .bind fun _ => .pure h

theorem R.Canonical.splice {rs : List Place} {q op inh snum target newStage : Nat} {newThr : Word} (h : s.Canonical) :
    R.Canonical (s.splice rs q op inh snum target newStage newThr) :=
  .bind fun _ => .bind fun _ => .bind fun _ => .bind fun _ => .pure h.pushOut

theorem Out.Canonical.ringRecordArrival {id : Nat} (h : s.Canonical) : Out.Canonical (execRingRecordArrival id s) := by
  unfold execRingRecordArrival
  split
  · exact .ite h <| .ite h <| h.storeAt
  · exact h

theorem Out.Canonical.ringCreditReturn {id : Nat} (h : s.Canonical) : Out.Canonical (execRingCreditReturn id s) := by
  unfold execRingCreditReturn
  split
  · exact .ite h h
  · exact h

theorem Out.Canonical.seamTake {tid q : Nat} (h : s.Canonical) : Out.Canonical (execSeamTake tid q s) := by
  unfold execSeamTake
  dsimp only
  split
  · exact .ite (State.Canonical.makeCurrent h) h
  · exact h

theorem Out.Canonical.drainThrough {tid : Nat} (h : s.Canonical) : Out.Canonical (execDrainThrough tid s) := by
  unfold execDrainThrough
  dsimp only
  split
  · exact h
  · exact .ite (State.Canonical.updTh h.forwardHead.endGang.unbindAll.exitThread) h

theorem Out.Canonical.inheritanceCopy {tid : Nat} (h : s.Canonical) : Out.Canonical (execInheritanceCopy tid s) := by
  unfold execInheritanceCopy
  refine .ite h ?_
  split
  · exact .ite h <| .ite h <| .ite (State.Canonical.updTh (.landState h)) h
  · refine .ite h (State.Canonical.updTh ?_)
    split
    · exact h.landState
    · exact h

end

end Sys2Proof.Machine

/-! ### Canonical memory: barriers, control, tasks, messages, system instructions and paging -/

namespace Sys2Proof.Machine

section
variable {s : State}

/-! #### Barriers -/

theorem State.Canonical.arrive {key : Nat} {s' : State} {t : Option (BitVec 16)} (h : s.Canonical)
    (hs : s.arrive key = .ok (s', t)) : s'.Canonical := by
  unfold State.arrive at hs
  split at hs <;> cases hs <;> exact h

theorem State.Canonical.awaitTicket {key : Nat} {t : BitVec 16} (h : s.Canonical) : (s.awaitTicket key t).Canonical := .ite h h

theorem Out.Canonical.bar {b : Fin 16} {sc : Scope} {g : Fin 8} (h : s.Canonical) : Out.Canonical (execBar b sc g s) := by
  refine .issueC h <| .bind fun _ => .bindOk fun (s', t) hs => ?_
  cases t with
  | none => exact .pure (h.arrive hs)
  | some t => exact .pure (h.arrive hs).awaitTicket

theorem Out.Canonical.bara {d : XReg} {b : Fin 16} {sc : Scope} {g : Fin 8} (h : s.Canonical) :
    Out.Canonical (execBara d b sc g s) := by
  refine .issueC h <| .bind fun _ => .bind fun _ => .bindOk fun (s', t) hs => ?_
  cases t <;> exact .pure (.writeX (h.arrive hs))

theorem Out.Canonical.barw {x : XReg} {b : Fin 16} {sc : Scope} {g : Fin 8} (h : s.Canonical) :
    Out.Canonical (execBarw x b sc g s) :=
  .issueC h <| .bind fun _ => .bind fun _ => .ite (.pure h) (.bind fun _ => .pure h.awaitTicket)

theorem Out.Canonical.bari {sc : Scope} {b : Fin 16} {d a : XReg} (h : s.Canonical) : Out.Canonical (execBari sc b d a s) :=
  .issue h <| .bind fun _ => .bind fun _ => .bind fun _ => .bind fun _ => .bind fun _ => .pure h

theorem State.Canonical.leaveBarriers {pkg g : Nat} (h : s.Canonical) : (s.leaveBarriers pkg g).Canonical :=
  .foldl h fun _ _ hs => .ite hs (.ite hs hs)

theorem Out.Canonical.barrierRelease {tid : Nat} (h : s.Canonical) : Out.Canonical (execBarrierRelease tid s) := by
  unfold execBarrierRelease
  dsimp only
  split
  · exact .ite (State.Canonical.updTh (.ite h.wakePkg h)) h
  · exact h

theorem Out.Canonical.statusAnswerArrival {id : Nat} (h : s.Canonical) : Out.Canonical (execStatusAnswerArrival id s) := by
  unfold execStatusAnswerArrival
  split
  · exact h.bindArrives
  · exact h
  · exact h

/-! #### Control -/

theorem State.Canonical.rotateCall {tid : Nat} {target : Word} (h : s.Canonical) : (s.rotateCall tid target).Canonical := .updTh h.storeAt

theorem State.Canonical.rotateRet {tid : Nat} {target : Word} (h : s.Canonical) : (s.rotateRet tid target).Canonical := h

theorem State.Canonical.rotateOr {r : Rotation} (h : s.Canonical) : (s.rotateOr r).Canonical := by
  refine .ite h ?_
  cases r with
  | call target => exact h.rotateCall
  | ret target => exact h.rotateRet

theorem Out.Canonical.brp {p : PReg} {sense : Bool} {off : BitVec 19} (h : s.Canonical) : Out.Canonical (execBrp p sense off s) :=
  .issueJ h <| .ite (.ok h) (.ok h)

theorem Out.Canonical.loop {c : PReg} {off : BitVec 19} (h : s.Canonical) : Out.Canonical (execLoop c off s) :=
  .issueJ h <| .bind fun _ => .ite (.pure h) (.ite (.pure h) (.pure h))

theorem Out.Canonical.call {off : BitVec 19} (h : s.Canonical) : Out.Canonical (execCall off s) :=
  .issueJ h <| .bind fun _ => .bind fun _ => .pure h.rotateOr

theorem Out.Canonical.calli {x : XReg} {g : Fin 8} (h : s.Canonical) : Out.Canonical (execCalli x g s) :=
  .issueJ h <| .bind fun _ => .bind fun _ => .bind fun _ => .pure h.rotateOr

theorem Out.Canonical.ret {x : XReg} {g : Fin 8} (h : s.Canonical) : Out.Canonical (execRet x g s) :=
  .issueJ h <| .bind fun _ => .bind fun _ => .bind fun _ => .pure h.rotateOr

theorem Out.Canonical.exit {g : Fin 8} (h : s.Canonical) : Out.Canonical (execExit g s) := .issueC h (.pure (.updMe h.exitThread))

theorem Out.Canonical.fence {sc : Scope} {g : Fin 8} (h : s.Canonical) : Out.Canonical (execFence sc g s) := by
  refine .issueC h <| .bind fun _ => ?_
  cases sc <;> exact .pure h

/-! #### Tasks and embers -/

theorem State.Canonical.wakeSleepers {cid : Nat} (h : s.Canonical) : (s.wakeSleepers cid).Canonical :=
  .ite h (.foldl h fun _ _ hs => .ite hs hs)

theorem State.Canonical.setTasks {cid : Nat} {c : Core} (h : s.Canonical) : (s.setTasks cid c).Canonical := .wakeSleepers h

theorem State.Canonical.wakeTag {cid tag : Nat} (h : s.Canonical) : (s.wakeTag cid tag).Canonical := .ite h h.setTasks

theorem State.Canonical.ownTasks (h : s.Canonical) : s.ownTasks.Canonical := .ite h h

theorem Out.Canonical.tqpush {d w : XReg} {c : Fin 4} {g : Fin 8} (h : s.Canonical) : Out.Canonical (execTqpush d w c g s) :=
  .issueC h <| .bind fun _ => .bind fun _ => .ite (.pure (.writeX h.ownTasks.setTasks)) (.pure (.writeX h.ownTasks))

theorem Out.Canonical.tqpop {d e : XReg} {g : Fin 8} (h : s.Canonical) : Out.Canonical (execTqpop d e g s) := by
  refine .issueC h <| .bind fun _ => .bind fun _ => ?_
  dsimp only
  split
  · exact .pure h
  · exact .pure (.writeX (.writeX (.ite (.groupRecord h.setTasks) h.setTasks)))

theorem Out.Canonical.tqpeek {d e : XReg} {g : Fin 8} (h : s.Canonical) : Out.Canonical (execTqpeek d e g s) := by
  refine .issueC h <| .bind fun _ => .bind fun _ => ?_
  split <;> exact .pure h

theorem R.Canonical.sleepEntry {d w t : XReg} {c : Fin 4} (h : s.Canonical) : R.Canonical (s.sleepEntry d w t c) :=
  .bind fun _ => .bind fun _ => .bind fun _ =>
    .ite (.pure (.writeX h.ownTasks)) (.ite (.pure (.writeX h.ownTasks)) (.pure (.writeX (.setCore h.ownTasks))))

theorem Out.Canonical.sleepW {d w t : XReg} {c : Fin 4} {g : Fin 8} (h : s.Canonical) : Out.Canonical (execSleepW d w t c g s) :=
  .issueC h <| .bindState (.sleepEntry h) fun _ hs => .ite (.pure hs) (.pure hs)

theorem R.Canonical.armTimer {d x : XReg} {base : Nat} (h : s.Canonical) : R.Canonical (s.armTimer d x base) :=
  .bind fun _ => .bind fun _ => .pure h

theorem State.Canonical.reportCycle {pkg : Nat} {set : List Nat} (h : s.Canonical) : (s.reportCycle pkg set).Canonical := by
  unfold State.reportCycle
  dsimp only
  split <;> exact h

theorem Out.Canonical.emberRedistribution {pkg : Nat} (h : s.Canonical) : Out.Canonical (execEmberRedistribution pkg s) :=
  State.Canonical.foldl h fun _ _ hs => hs.reportCycle

theorem Out.Canonical.opChange {hearth : Nat} (h : s.Canonical) : Out.Canonical (execOpChange hearth s) := by
  unfold execOpChange
  refine .ite h ?_
  dsimp only
  split <;> exact h

theorem Out.Canonical.ceilLower {pkg : Nat} (h : s.Canonical) : Out.Canonical (execCeilLower pkg s) := .ite h h

theorem Out.Canonical.ceilRaise {pkg : Nat} (h : s.Canonical) : Out.Canonical (execCeilRaise pkg s) := .ite h h

/-! #### Messages and words of a save area -/

theorem State.Canonical.areaWord {a : Area} {o w : Nat} (h : s.Canonical) : (s.areaWord a o w).Canonical := by
  unfold State.areaWord
  split
  · exact h.storeAt
  · exact h

theorem State.Canonical.refreshSaved {t i : Nat} (h : s.Canonical) : (s.refreshSaved t i).Canonical := by
  unfold State.refreshSaved
  dsimp only
  split
  · exact h
  · exact .settleLocks (.areaWord (.areaWord (.setGroup h)))

theorem State.Canonical.sendTo {id a b tenant deadline : Nat} (h : s.Canonical) : (s.sendTo id a b tenant deadline).Canonical :=
  .ite h.sendAway h

theorem R.Canonical.send {a b : SOpd} {t : XReg} {typed : Bool} (h : s.Canonical) : R.Canonical (s.send a t b typed) :=
  .bind fun _ => .bind fun _ => .bind fun _ => .bind fun _ => .pure h

theorem Out.Canonical.sendDeparture {id : Nat} (h : s.Canonical) : Out.Canonical (execSendDeparture id s) := by
  unfold execSendDeparture
  split
  · exact .ite (State.Canonical.sendTo h) h
  · exact h

theorem State.Canonical.enterInbox {m : Msg} (h : s.Canonical) : (s.enterInbox m).Canonical :=
  .ite (.updTh (.wakeTag h)) (.wakeTag h)

theorem State.Canonical.keepSaved {m : Msg} (h : s.Canonical) : (s.keepSaved m).Canonical := by
  unfold State.keepSaved
  dsimp only
  split
  · split <;> exact h
  · exact h

theorem State.Canonical.countTenant {d : Nat} (h : s.Canonical) : (s.countTenant d).Canonical := h

theorem State.Canonical.takeIn {id : Nat} {m : Msg} (h : s.Canonical) : (s.takeIn id m).Canonical := by
  have hw : State.Canonical ((if m.soft then s.wakeFrom m.sender m.dst else s).landed id) := .landed (.ite h.wakeFrom h)
  exact .ite h <| .ite hw <| .ite hw <| .ite (.keepSaved hw) <| .ite (.enterInbox hw) hw

theorem Out.Canonical.inboxArrival {id : Nat} (h : s.Canonical) : Out.Canonical (execInboxArrival id s) := by
  unfold execInboxArrival
  split
  · exact h.takeIn
  · exact h

theorem Out.Canonical.inboxRetry {id : Nat} (h : s.Canonical) : Out.Canonical (execInboxRetry id s) := by
  unfold execInboxRetry
  split
  · exact State.Canonical.sendTo h
  · exact h.takeIn
  · exact h

theorem State.Canonical.hardware {kind id : Nat} (h : s.Canonical) : (s.hardware kind id).Canonical := by
  unfold State.hardware
  split
  · exact .ite h <| .ite h.takeIn <| .ite h.wakeFrom.takeIn h
  · exact h

theorem R.Canonical.receive {d e : XReg} {f : Fin 8} {want : Msg → Bool} {st : Stop} (h : s.Canonical) :
    R.Canonical (s.receive d e f want st) := by
  unfold State.receive
  split
  · exact .error
  · exact .bind fun _ => .pure (.writeX (.writeX (.ite h h)))

theorem Out.Canonical.putr {idx t : XReg} {v : SOpd} {g : Fin 8} (h : s.Canonical) : Out.Canonical (execPutr idx t v g s) :=
  .issueC h <| .bind fun _ => .bind fun _ => .bind fun _ => .bind fun _ => .pure (.sendTo h)

theorem Out.Canonical.remoteRegisterWrite {id : Nat} (h : s.Canonical) : Out.Canonical (execRemoteRegisterWrite id s) := by
  unfold execRemoteRegisterWrite
  split
  · exact .ite h <| .ite (State.Canonical.setItem h.wakeFrom.landed) <|
      .ite (State.Canonical.countTenant (.setItem h.wakeFrom.landed)) <|
      State.Canonical.refreshSaved (.updTh (.setItem h.wakeFrom.landed))
  · exact h

theorem State.Canonical.noteLatePut {tid : Nat} (h : s.Canonical) : (s.noteLatePut tid).Canonical := h

theorem Out.Canonical.putAcknowledgement {id : Nat} (h : s.Canonical) : Out.Canonical (execPutAcknowledgement id s) := by
  unfold execPutAcknowledgement
  split
  · exact .ite h (State.Canonical.ite (.noteLatePut (.dropItem h.wakeFrom)) (.dropItem h.wakeFrom))
  · exact h

/-! #### System instructions -/

theorem Out.Canonical.mts {x : XReg} {n : Fin 64} {g : Fin 8} (h : s.Canonical) : Out.Canonical (execMts x n g s) := by
  refine .issueC h <| .bind fun _ => .bind fun _ => .bind fun _ => ?_
  dsimp only
  split <;> exact .pure h

theorem Out.Canonical.segld {b : XReg} {n g : Fin 8} (h : s.Canonical) : Out.Canonical (execSegld b n g s) := by
  refine .issueC h <| .bind fun _ => ?_
  dsimp only
  split
  · exact .error
  · exact .bind fun _ => .error
  · exact .bind fun _ => .bind fun _ => .pure h

theorem State.Canonical.segStore {r : Near} {na w : Word} (h : s.Canonical) : (s.segStore r na w).Canonical := .ite h h

theorem Out.Canonical.segst {b : XReg} {n g : Fin 8} (h : s.Canonical) : Out.Canonical (execSegst b n g s) :=
  .issueC h <| .bind fun _ => .bind fun _ => .bind fun _ => .bind fun _ => .bind fun _ => .pure h.segStore.segStore

theorem R.Canonical.pgrep {x : XReg} {fail : Bool} (h : s.Canonical) : R.Canonical (s.pgrep x fail) :=
  .bind fun _ => .bind fun _ => .bind fun _ => .bind fun _ => .ite (.pure h) (.pure h)

theorem State.Canonical.noteStop (h : s.Canonical) : s.noteStop.Canonical := by
  unfold State.noteStop
  split
  · exact h.traceStop
  · exact h

theorem Out.Canonical.brk {imm : BitVec 12} (h : s.Canonical) : Out.Canonical (execBrk imm s) := .ite h.halted.noteStop h.halted

theorem Out.Canonical.tremit {x : SOpd} {g : Fin 8} (h : s.Canonical) : Out.Canonical (execTremit x g s) :=
  .issueC h <| .bind fun _ => .bind fun _ => .bind fun _ => .bind fun _ => .ite (.pure h.trace) (.pure h)

theorem Out.Canonical.rpush {x : SOpd} {g : Fin 8} (h : s.Canonical) : Out.Canonical (execRpush x g s) :=
  .issueC h <| .bind fun _ => .ite (.pure h) (.pure (.traceRange h))

theorem Out.Canonical.rpop {d : XReg} {g : Fin 8} (h : s.Canonical) : Out.Canonical (execRpop d g s) := by
  refine .issueC h <| .bind fun _ => .ite (.pure h) ?_
  split
  · exact .pure h
  · exact .pure (.writeX (.traceRange h))

/-! #### Paging and window moves -/

theorem State.Canonical.install {w : Walk} {key : Nat} {e : Word} (h : s.Canonical) : (s.install w key e).Canonical := .setCluster h.storeAt

theorem State.Canonical.setPause {id : Nat} {p : Pause} (h : s.Canonical) : (s.setPause id p).Canonical := h.mapReq

theorem State.Canonical.walkFault {id : Nat} {w : Walk} {kind : Nat} (h : s.Canonical) : (s.walkFault id w kind).Canonical := by
  unfold State.walkFault
  split
  · exact .post (.dropItem h.setPause)
  · exact .ite h h

theorem Out.Canonical.tableWalk {id : Nat} (h : s.Canonical) : Out.Canonical (execTableWalk id s) := by
  unfold execTableWalk
  split
  · split
    · trivial
    · exact h.walkFault
    · dsimp only
      split
      · exact State.Canonical.setPause (.dropItem h.install)
      · exact State.Canonical.updTh (.dropItem h.install)
  · exact h

theorem Out.Canonical.faultMessage {id : Nat} (h : s.Canonical) : Out.Canonical (execFaultMessage id s) := by
  unfold execFaultMessage
  split
  · exact h.takeIn
  · exact h

theorem State.Canonical.replyThread {tid : Nat} {fail : Bool} (h : s.Canonical) : (s.replyThread tid fail).Canonical := by
  unfold State.replyThread
  split
  · exact .ite h h
  · exact h

theorem Out.Canonical.pagerReply {id : Nat} (h : s.Canonical) : Out.Canonical (execPagerReply id s) := by
  unfold execPagerReply
  split
  · exact State.Canonical.ite h (.replyThread h)
  · exact h

theorem Out.Canonical.tlbiCompletion {id : Nat} (h : s.Canonical) : Out.Canonical (execTlbiCompletion id s) := by
  unfold execTlbiCompletion
  split
  · refine .ite h (.ite (State.Canonical.setItem (.ite h ?_)) (State.Canonical.dropItem (.ite h ?_)))
    · exact State.Canonical.wakePkgs h
    · exact State.Canonical.wakePkgs h
  · exact h

theorem Out.Canonical.eccUncorrectableError {key : Nat} (h : s.Canonical) : Out.Canonical (execEccUncorrectableError key s) :=
  .ite (State.Canonical.foldl h fun _ _ hs => hs.spoil) h

theorem State.Canonical.frameStop {tid : Nat} {st : Stop} (h : s.Canonical) : (s.frameStop tid st).Canonical := by
  cases st with
  | walk w => exact .ite h h
  | _ => exact h

theorem State.Canonical.copyRun {src dst n : Nat} {cut : List (Nat × Nat)} (h : s.Canonical) : (s.copyRun src dst n cut).Canonical :=
  .foldl h fun _ _ hs => .ite hs (.ite hs.writePoison (.ite hs.storeAt.writePoison hs.storeAt))

theorem State.Canonical.dirtyAt {clid tenant : Nat} {pod : Bool} {va acc : Nat} (h : s.Canonical) :
    (s.dirtyAt clid tenant pod va acc).Canonical := by
  unfold State.dirtyAt
  split
  · exact h
  · exact .ite h (.setCluster h.storeAt)

theorem Out.Canonical.windowSpill {tid : Nat} (h : s.Canonical) : Out.Canonical (execWindowSpill tid s) := by
  unfold execWindowSpill
  refine .ite ?_ h
  dsimp only
  split
  · exact h.frameStop
  · exact .ite h (State.Canonical.updTh h.dirtyAt.crossing.copyRun.settleLocks)

theorem Out.Canonical.windowFill {tid : Nat} (h : s.Canonical) : Out.Canonical (execWindowFill tid s) := by
  unfold execWindowFill
  refine .ite ?_ h
  dsimp only
  split
  · exact h.frameStop
  · exact .ite h (State.Canonical.updTh h.crossing.copyRun)

end

end Sys2Proof.Machine

/-! ### Canonical memory: tile moves, engines and Mirmor -/

namespace Sys2Proof.Machine

section
variable {s : State}

/-! #### Tile moves and engines -/

theorem State.Canonical.landToken {tid tok : Nat} {w : Word} (h : s.Canonical) : (s.landToken tid tok w).Canonical := .ite h h

theorem State.Canonical.landMove {tid tok : Nat} {w : Word} {late : Option Word} (h : s.Canonical) :
    (s.landMove tid tok w late).Canonical :=
  .ite h (.updTh h.landToken)

theorem Out.Canonical.tmov {t da sa sh : XReg} (h : s.Canonical) : Out.Canonical (execTmov t da sa sh s) := by
  refine .issue h <| .bind fun _ => .bind fun _ => .bind fun _ => .bind fun _ => ?_
  dsimp only
  split
  · exact .error
  · exact .error
  · exact .bind fun _ => .bind fun _ => .bind fun _ => .bind fun _ => .pure h

theorem Out.Canonical.tileMoveCompletion {id : Nat} (h : s.Canonical) : Out.Canonical (execTileMoveCompletion id s) := by
  unfold execTileMoveCompletion
  split
  · refine .ite h (.ite (State.Canonical.landToken h) (State.Canonical.landMove (.settleLocks (.foldl ?_ fun _ _ hs => hs.copyRun))))
    exact .crossing (.crossing (.dropItem h))
  · exact h

theorem State.Canonical.flueEvent {cid : Nat} (h : s.Canonical) : (s.flueEvent cid).Canonical := .ite h h

theorem Out.Canonical.flue {x : GReg} {g : Fin 8} (h : s.Canonical) : Out.Canonical (execFlue x g s) := by
  refine .issueC h <| .bind fun _ => .bind fun _ => .bind fun _ => .bind fun _ => ?_
  dsimp only
  split
  · exact .error
  · exact .pure (.flueEvent h)

theorem State.Canonical.finish {id cid status : Nat} {r : Req} (h : s.Canonical) : (s.finish id cid r status).Canonical := .flueEvent h

theorem State.Canonical.wakeMail {cid : Nat} (h : s.Canonical) : (s.wakeMail cid).Canonical := .foldl h fun _ _ hs => .ite hs hs

theorem State.Canonical.freezeColls (h : s.Canonical) : s.freezeColls.Canonical := h

theorem State.Canonical.joinColl {cid : Nat} {r : Req} (h : s.Canonical) : (s.joinColl cid r).Canonical := .freezeColls h

theorem R.Canonical.toEngine {op : Nat} {d : XReg} {mb : Fin 4} (h : s.Canonical) : R.Canonical (s.toEngine op d mb) := by
  refine .bind fun _ => .bind fun _ => ?_
  dsimp only
  split
  · exact .ite (.pure (.post (.writeX (.wakeMail h)))) <| .ite (.pure (.post (.writeX (.wakeMail h)))) <|
      .pure (.joinColl (.writeX (.wakeMail h)))
  · exact .pure h

theorem State.Canonical.dirtyEnd {cid tenant off n : Nat} {e : EndPt} (h : s.Canonical) : (s.dirtyEnd cid tenant e off n).Canonical := by
  cases e with
  | far pod va room ea => exact .foldl h fun _ _ hs => .ite hs.dirtyAt hs
  | near key room => exact h
  | host addr => exact h

theorem State.Canonical.engStop {id : Nat} {w : Walk} (h : s.Canonical) : (s.engStop id w).Canonical := .ite (.post h.setPause) h

theorem State.Canonical.foldlFst {α β : Type} {f : State × β → α → State × β} {l : List α} {p : State × β} (h : p.1.Canonical)
    (hf : ∀ p x, p.1.Canonical → (f p x).1.Canonical) : (l.foldl f p).1.Canonical := by
  induction l generalizing p with
  | nil => exact h
  | cons x l ih => exact ih (hf p x h)

theorem State.Canonical.writeCells {m : Cells} (h : s.Canonical) : (s.writeCells m).1.Canonical := by
  refine State.Canonical.foldlFst h fun p w hp => ?_
  dsimp only
  split
  · exact .ite (.ite hp.storeAt (.foldl hp fun _ _ hs => hs.storeAt)) (.writePoison (.ite hp.storeAt (.foldl hp fun _ _ hs => hs.storeAt)))
  · exact .ite hp.storeAt (.foldl hp fun _ _ hs => hs.storeAt)

theorem State.Canonical.performPath {id : Nat} {r : Req} (h : s.Canonical) : (s.performPath id r).1.Canonical :=
  .settleLocks (.unpack h.writeCells)

theorem State.Canonical.sendPath {id cid : Nat} {r : Req} (h : s.Canonical) : (s.sendPath id cid r).Canonical := .sendOut h.sendOut

theorem State.Canonical.complete {id cid : Nat} {r : Req} (h : s.Canonical) : (s.complete id cid r).Canonical := h.finish

theorem State.Canonical.setReq {id cid : Nat} {r : Req} (h : s.Canonical) : (s.setReq id cid r).Canonical := h

theorem State.Canonical.numbered (h : s.Canonical) : s.numbered.Canonical := h

theorem State.Canonical.stepCopy {id cid : Nat} {r : Req} (h : s.Canonical) : (s.stepCopy id cid r).Canonical := by
  refine .ite (.ite (.setReq h.performPath) h) (.ite h.complete ?_)
  dsimp only
  split
  · exact h.engStop
  · exact h.engStop
  · exact .setReq (.sendPath (.numbered h.dirtyEnd))

theorem State.Canonical.stepIndexed {id cid : Nat} {r : Req} (h : s.Canonical) : (s.stepIndexed id cid r).Canonical := by
  unfold State.stepIndexed
  split
  · exact h
  refine .ite (.ite h.complete (.ite h.performPath.complete h)) (.ite h.crossing.finish ?_)
  split
  · exact h.engStop
  · refine .setReq (.ite (.sendPath ?_) ?_)
    · exact .ite (.numbered (.dirtyEnd h.crossing)) h.crossing
    · exact .ite (.numbered (.dirtyEnd h.crossing)) h.crossing

theorem State.Canonical.finishAll {l : List Joined} {status : Nat} (h : s.Canonical) : (s.finishAll l status).Canonical :=
  .foldl h fun _ _ hs => hs.finish

theorem State.Canonical.performColl {l : List Joined} {f : Fmt} (h : s.Canonical) : (s.performColl l f).Canonical := by
  unfold State.performColl
  split
  · exact h
  · refine .settleLocks (.foldl (s := { s with fresh := _ }) h fun u p hs => ?_)
    dsimp only
    split
    · exact hs.finish
    · exact .complete (.writeCells hs.dirtyEnd)

theorem State.Canonical.sendColl {l : List (Joined × Hop)} (h : s.Canonical) : (s.sendColl l).Canonical :=
  .foldl h fun _ _ hs => .setItem (.sendPath (.numbered hs))

theorem State.Canonical.wakeParty {l : List Joined} (h : s.Canonical) : (s.wakeParty l).Canonical := .ite h.wakePkgs h

theorem State.Canonical.stepColl {x : Joined} (h : s.Canonical) : (s.stepColl x).Canonical := by
  unfold State.stepColl
  split
  · exact h
  refine .ite h <| .ite h.finishAll <| .ite h.finishAll <| .ite h.finishAll <| .ite h <| .ite ?_ <| .ite h.wakeParty.performColl h
  split
  · exact h.engStop
  · exact h.sendColl

theorem Out.Canonical.completionMessage {id : Nat} (h : s.Canonical) : Out.Canonical (execCompletionMessage id s) := by
  unfold execCompletionMessage
  split
  · exact .ite h.finish <| .ite h.finish <| .ite h (State.Canonical.ite h.stepCopy h.stepIndexed)
  · exact h.stepColl
  · exact h

theorem Out.Canonical.collTimeout {id : Nat} (h : s.Canonical) : Out.Canonical (execCollTimeout id s) := by
  unfold execCollTimeout
  split
  · exact .ite h.finishAll h
  · exact h

/-! #### Register windows and Mirmor -/

theorem State.Canonical.mirmorStop {tid : Nat} (h : s.Canonical) : (s.mirmorStop tid).1.Canonical := by
  unfold State.mirmorStop
  dsimp only
  split
  case h_4 =>
    split
    · exact h
    · exact h.stopAt
  all_goals exact h

theorem State.Canonical.mirmorResume {tid : Nat} (h : s.Canonical) : (s.mirmorResume tid).1.Canonical := by
  unfold State.mirmorResume
  split
  · exact h
  · split <;> exact h

theorem State.Canonical.mirmorStep {tid : Nat} (h : s.Canonical) : (s.mirmorStep tid).1.Canonical := by
  unfold State.mirmorStep
  split <;> exact h

end

end Sys2Proof.Machine

/-! ### Canonical memory: accesses at home, full/empty words, placement and retirement -/

namespace Sys2Proof.Machine

section
variable {s : State}

theorem State.Canonical.updService {pkg : Nat} {f : Service → Service} (h : s.Canonical) : (s.updService pkg f).Canonical := h

theorem State.Canonical.mirmorHalt {pkg : Nat} (h : s.Canonical) : (s.mirmorHalt pkg).Canonical :=
  .freezeColls (.updService (.foldl h fun _ _ hs => hs.mirmorStop))

theorem State.Canonical.mirmorRelease {pkg : Nat} (h : s.Canonical) : (s.mirmorRelease pkg).Canonical :=
  .freezeColls (.updService (.foldl h fun _ _ hs => hs.mirmorResume))

theorem State.Canonical.mresult {p : State × Nat} {pkg : Nat} (h : p.1.Canonical) : (State.mresult p pkg).Canonical := h

theorem State.Canonical.mirmor {pkg : Nat} {w : Word} (h : s.Canonical) : (s.mirmor pkg w).Canonical := by
  unfold State.mirmor
  dsimp only
  split
  · exact .mresult (.mirmorStop h)
  · exact .mresult (.mirmorResume h)
  · exact .mresult (.mirmorStep h)
  · exact .mresult (.mirmorHalt h)
  · exact .mresult (.mirmorRelease h)
  all_goals exact h

theorem State.Canonical.writeRecord {pkg off : Nat} {v : Word} (h : s.Canonical) : (s.writeRecord pkg off v).Canonical := by
  unfold State.writeRecord
  split
  · exact .ite h h
  · exact h

theorem State.Canonical.writeBellows {pkg o : Nat} {v : Word} (h : s.Canonical) : (s.writeBellows pkg o v).Canonical := by
  unfold State.writeBellows
  split <;> exact h

theorem State.Canonical.writeAcct {pkg o : Nat} {v : Word} (h : s.Canonical) : (s.writeAcct pkg o v).Canonical := .ite h h

theorem State.Canonical.writeOwn {pkg o : Nat} {v : Word} (h : s.Canonical) : (s.writeOwn pkg o v).Canonical :=
  .ite (.ite h h) <| .ite (.ite h h) <| .ite h <| .ite h <| .ite h h

theorem State.Canonical.regWrite {pkg off : Nat} {v : Word} (h : s.Canonical) : (s.regWrite pkg off v).Canonical :=
  .ite h <| .ite h.writeOwn <| .ite h <| .ite h.writeBellows <| .ite h <| .ite h <| .ite h <|
    .ite (.traceLost h) <| .ite h.mirmor <| .ite h.writeRecord <| .ite h <| .ite (.ite h h) <| .ite h.writeAcct h

theorem Out.Canonical.registerWrite {pkg off : Nat} {v : BitVec 64} (h : s.Canonical) : Out.Canonical (execRegisterWrite pkg off v s) :=
  State.Canonical.ite h.wakePkg h.wakePkg.regWrite

theorem Out.Canonical.command {pkg op grp t : Nat} (h : s.Canonical) : Out.Canonical (s.command pkg op grp t) :=
  .register h fun _ hs => hs.mirmor

/-! #### Accesses at home -/

theorem State.Canonical.unhold {id tid : Nat} (h : s.Canonical) : (s.unhold id tid).Canonical := .ite h h

theorem State.Canonical.replyTo {id val : Nat} {a : Access} {late : Bool} (h : s.Canonical) : (s.replyTo id a val late).Canonical := h

theorem State.Canonical.lockAt {id : Nat} {a : Access} {late : Bool} (h : s.Canonical) : (s.lockAt id a late).Canonical :=
  .ite (.replyTo h.unhold.storeAt) <| .ite (.replyTo h.unhold) <| .ite (.updTh (.dropItem (id := id) h.unhold)) <| .ite h h

theorem State.Canonical.unlockAt {id : Nat} {a : Access} {late : Bool} (h : s.Canonical) : (s.unlockAt id a late).Canonical :=
  .ite h <| .ite (.replyTo h.grantLock) (.replyTo h.storeAt)

theorem State.Canonical.perform {id : Nat} {a : Access} {late : Bool} (h : s.Canonical) : (s.perform id a late).Canonical := by
  refine .ite h (.ite h.unhold.answerPoisoned ?_)
  split
  · exact h
  · exact h.lockAt
  · exact h.unlockAt
  · dsimp only
    split
    · exact h
    · exact .replyTo h.storeAt.settleLocks

theorem State.Canonical.performId {late : Bool} {id : Nat} (h : s.Canonical) : (s.performId late id).Canonical := by
  unfold State.performId
  split
  · exact h.perform
  · exact h

theorem Out.Canonical.memoryAccessAtHome {id : Nat} (h : s.Canonical) : Out.Canonical (execMemoryAccessAtHome id s) := by
  unfold execMemoryAccessAtHome
  split
  · exact h
  · exact .ite (.ite h.perform h) <| .ite (State.Canonical.foldl h fun _ _ hs => hs.performId) h

theorem State.Canonical.rotateOn {tid : Nat} (h : s.Canonical) : (s.rotateOn tid).Canonical := by
  refine .ite h ?_
  split
  · exact .ite h.rotateCall.stopNow h.rotateCall
  · exact .ite h.rotateRet.stopNow h.rotateRet
  · exact h

theorem Out.Canonical.loadReply {id : Nat} (h : s.Canonical) : Out.Canonical (execLoadReply id s) := by
  unfold execLoadReply
  split
  · exact .ite h <| .ite (State.Canonical.dropItem h.wakeReply) (State.Canonical.rotateOn (.updTh (.dropItem h.wakeReply)))
  · exact .ite h (State.Canonical.rotateOn (.updTh h))
  · exact h

theorem State.Canonical.writeRun {k : Nat} {data : List Byte} (h : s.Canonical) : (s.writeRun k data).Canonical :=
  .ite h.regWrite h.storeAt

theorem State.Canonical.landRun {ps : List Packet} {k : Nat} {data : List Byte} (h : s.Canonical) : (s.landRun ps k data).Canonical :=
  .ite (.foldl h fun _ _ hs => .ite hs.storeAt hs) h.writeRun

theorem Out.Canonical.storeDrain {tid : Nat} (h : s.Canonical) : Out.Canonical (execStoreDrain tid s) := by
  unfold execStoreDrain
  dsimp only
  split
  · exact h
  refine .ite h ?_
  split
  · exact h
  · exact .ite (State.Canonical.sendOut h) <| .ite h <| State.Canonical.settleLocks (.foldl h fun _ _ hs => hs.landRun)

theorem Out.Canonical.putArrival {id : Nat} (h : s.Canonical) : Out.Canonical (execPutArrival id s) := by
  unfold execPutArrival
  split
  · exact .ite (State.Canonical.setItem h.storeAt) h
  · exact h

theorem Out.Canonical.deliveryLanding {id : Nat} (h : s.Canonical) : Out.Canonical (execDeliveryLanding id s) := by
  unfold execDeliveryLanding
  split
  · exact .ite h (State.Canonical.refreshSaved (.updTh h))
  · exact h

/-! #### Full/empty words and time -/

theorem State.Canonical.setFull {k : Nat} {b : Bool} (h : s.Canonical) : (s.setFull k b).Canonical := h

theorem State.Canonical.setClaim {k : Nat} {g : Option Nat} (h : s.Canonical) : (s.setClaim k g).Canonical := h

theorem State.Canonical.actSync {a : Sync} (h : s.Canonical) : (s.actSync a).Canonical := by
  have hw : State.Canonical ((((s.dropItem a.id).storeAt a.key (toBytes 8 a.val.toNat)).setFull a.key true).setClaim a.key none) :=
    .setClaim (.setFull (.storeAt h))
  unfold State.actSync
  split
  case h_3 => exact .ite (.updTh hw) hw
  case h_4 => exact hw
  case h_8 => exact .ite h h
  all_goals exact h

theorem State.Canonical.walkQueue {word fuel : Nat} (h : s.Canonical) : (s.walkQueue word fuel).Canonical := by
  induction fuel generalizing s with
  | zero => exact h
  | succ fuel ih =>
    unfold State.walkQueue
    split
    · exact h
    · exact .ite (ih (.actSync h)) h

theorem State.Canonical.walkAll {word : Nat} (h : s.Canonical) : (s.walkAll word).Canonical := h.walkQueue

theorem State.Canonical.giveUp {a : Sync} (h : s.Canonical) : (s.giveUp a).Canonical := by
  unfold State.giveUp
  split
  · exact .ite h h
  · exact .refreshSaved h

theorem State.Canonical.arriveSync {id : Nat} {a : Sync} (h : s.Canonical) : (s.arriveSync id a).Canonical :=
  .ite (.ite (.ite (.giveUp h) h) h) h.actSync.walkAll

theorem Out.Canonical.syncAccessArrival {id : Nat} (h : s.Canonical) : Out.Canonical (execSyncAccessArrival id s) := by
  unfold execSyncAccessArrival
  split
  · exact .ite (State.Canonical.arriveSync h) h
  · exact h

theorem Out.Canonical.syncReissue {id : Nat} (h : s.Canonical) : Out.Canonical (execSyncReissue id s) := by
  unfold execSyncReissue
  split
  · exact .ite h (State.Canonical.sendOut h)
  · exact h

theorem State.Canonical.countRetries (h : s.Canonical) : s.countRetries.Canonical :=
  .foldl h fun _ _ hs => .ite hs (.walkAll (.foldl hs fun _ _ hs => hs.giveUp))

theorem State.Canonical.passTime {ns : Nat} (h : s.Canonical) : (s.passTime ns).Canonical :=
  foldl h fun _ _ hs => hs.countRetries

theorem State.Canonical.unlinkThread {tid : Nat} (h : s.Canonical) : (s.unlinkThread tid).Canonical :=
  .foldl h fun _ _ hs => .ite (.walkAll hs) hs

theorem Out.Canonical.softError {key : Nat} (h : s.Canonical) : Out.Canonical (execSoftError key s) := .ite h.spoil (.ite h h)

/-! #### Placement and retirement -/

theorem State.Canonical.putBytes {l : List (Nat × Nat)} {data : List Byte} (h : s.Canonical) : (s.putBytes l data).Canonical := by
  induction l generalizing s data with
  | nil => exact h
  | cons r rest ih => exact ih h.storeAt

theorem State.Canonical.tenantWrite {pkg tenant va : Nat} {data : List Byte} (h : s.Canonical) :
    (s.tenantWrite pkg tenant va data).Canonical := by
  unfold State.tenantWrite
  split
  · exact h.putBytes.settleLocks
  · exact h

theorem State.Canonical.writeManifest {pkg : Nat} {g : Group} (h : s.Canonical) : (s.writeManifest pkg g).Canonical := by
  refine .ite h (.tenantWrite (.tenantWrite ?_))
  split
  · exact h.tenantWrite
  · exact h

theorem State.Canonical.orphan {tid : Nat} (h : s.Canonical) : (s.orphan tid).Canonical := h

theorem State.Canonical.leaveLocks {tid : Nat} (h : s.Canonical) : (s.leaveLocks tid).Canonical := h

theorem Out.Canonical.slotVacate {tid : Nat} (h : s.Canonical) : Out.Canonical (execSlotVacate tid s) := by
  have hv : (((((s.unlinkThread tid).leaveLocks tid).unbindAll tid).endGang tid).orphan tid).Canonical :=
    .orphan (.endGang (.unbindAll (.leaveLocks h.unlinkThread)))
  unfold execSlotVacate
  refine .ite h ?_
  dsimp only
  generalize ((((s.unlinkThread tid).leaveLocks tid).unbindAll tid).endGang tid).orphan tid = u at hv
  split <;> exact hv

theorem State.Canonical.giveBack {pkg grant : Nat} (h : s.Canonical) : (s.giveBack pkg grant).Canonical := h

theorem State.Canonical.disown {pkg g : Nat} (h : s.Canonical) : (s.disown pkg g).Canonical := h

theorem State.Canonical.countRetired {pkg : Nat} {g : Group} (h : s.Canonical) : (s.countRetired pkg g).Canonical := .ite h h

theorem Out.Canonical.groupRetirement {pkg grp : Nat} (h : s.Canonical) : Out.Canonical (execGroupRetirement pkg grp s) := by
  unfold execGroupRetirement
  split
  · exact h
  · refine .ite h (State.Canonical.updPkg (.leaveBarriers (.disown (.giveBack ?_))))
    exact .ite h.writeManifest.countRetired h.writeManifest.countRetired.groupRecord

theorem State.Canonical.seat {t : Nat} {x : Thread} (h : s.Canonical) : (s.seat t x).Canonical := by
  unfold State.seat
  exact .setTh (.ite h h)

theorem Out.Canonical.firmwareThreadStart {f : FwStart} (h : s.Canonical) : Out.Canonical (execFirmwareThreadStart f s) :=
  .ite h <| .ite (State.Canonical.updPkg h.seat) (State.Canonical.setGroup (.updPkg (.updPkg h.seat)))

end

end Sys2Proof.Machine

/-! ### Canonical memory: saving and resuming groups -/

namespace Sys2Proof.Machine

section
variable {s : State}

/-! #### Saving and resuming groups -/

theorem State.Canonical.filterMem {f : Host.Cell → Bool} (h : s.Canonical) : Memory.wf (s.mem.filter f) = true :=
  Memory.wf_filter s.mem f h

theorem Memory.wf_foldl_store {f : Host.Cell → Nat} {l m : List Host.Cell} (h : Memory.wf m = true) :
    Memory.wf (l.foldl (fun (m : List Host.Cell) c => store unlisted m (f c) c.2) m) = true := by
  induction l generalizing m with
  | nil => exact h
  | cons c l ih => exact ih (Memory.wf_store m (f c) c.2 h)

theorem State.Canonical.rename {l : List (Nat × Nat)} (h : s.Canonical) : (s.rename l).Canonical := h

theorem State.Canonical.moveStore {src dst len : Nat} (h : s.Canonical) : (s.moveStore src dst len).Canonical :=
  Memory.wf_foldl_store h.filterMem

theorem State.Canonical.clearStore {base len : Nat} (h : s.Canonical) : (s.clearStore base len).Canonical := h.filterMem

theorem State.Canonical.areaWrite {a : Area} {o : Nat} {data : List Byte} (h : s.Canonical) : (s.areaWrite a o data).Canonical :=
  h.putBytes

theorem State.Canonical.areaHeader {a : Area} {g state : Nat} {r : List Word} (h : s.Canonical) : (s.areaHeader a g r state).Canonical :=
  h.areaWrite.settleLocks

theorem State.Canonical.useArea {pages : List (Nat × Nat)} (h : s.Canonical) : (s.useArea pages).Canonical :=
  .settleLocks (.foldl h fun _ _ hs => hs.storeAt)

theorem State.Canonical.saveThread {a : Area} {r : List Word} {base tid : Nat} (h : s.Canonical) :
    (s.saveThread a r base tid).Canonical :=
  h.areaWrite.areaWrite

theorem State.Canonical.saveRun {a : Area} {r : List Word} {base i : Nat} (h : s.Canonical) : (s.saveRun a r base i).Canonical :=
  h.areaWrite

theorem State.Canonical.saveTile {a : Area} {r : List Word} {t : Tile} {i : Nat} (h : s.Canonical) : (s.saveTile a r t i).Canonical :=
  h.areaWrite

theorem State.Canonical.saveQueues {a : Area} {r : List Word} {tasks : List Task} {reqs : List Req} {i : Nat} (h : s.Canonical) :
    (s.saveQueues a r tasks reqs i).Canonical :=
  h.areaWrite.areaWrite

theorem State.Canonical.fill {a : Area} {o base len : Nat} (h : s.Canonical) : (s.fill a o base len).Canonical :=
  foldl (s := { s with mem := _ }) (Memory.wf_writeBytes _ _ _ _ h) fun _ _ hs => hs

theorem State.Canonical.fillThread {a : Area} {changed : List (Nat × Nat)} {tid : Nat} (h : s.Canonical) :
    (s.fillThread a changed tid).Canonical := h

theorem State.Canonical.startSave {pkg g issuer : Nat} {x : Group} {a : Area} (h : s.Canonical) :
    (s.startSave pkg g x a issuer).Canonical :=
  .ite (.foldl h fun _ _ hs => hs) (.areaHeader (.foldl h fun _ _ hs => hs))

theorem State.Canonical.answer {d : XReg} {st : Word} (h : s.Canonical) : (s.answer d st).Canonical := h

theorem Out.Canonical.ctxs {d g a : XReg} {gd : Fin 8} (h : s.Canonical) : Out.Canonical (execCtxs d g a gd s) := by
  refine .issueC h <| .bind fun (n, pod, va) => ?_
  dsimp only
  split
  · exact .pure (.answer h)
  · exact .ite (.pure (.answer h)) <| .ite (.pure (.answer h)) <| .ite (.pure (.answer h)) <| .ite (.pure (.answer h)) (.pure (.answer h.startSave))

theorem Out.Canonical.ctxsResume {d g a : XReg} {gd : Fin 8} (h : s.Canonical) : Out.Canonical (execCtxsResume d g a gd s) := by
  refine .issueC h <| .bind fun (n, pod, va) => ?_
  dsimp only
  split
  · exact .pure (.answer h)
  · exact .ite (.pure (.answer h)) <| .ite (.pure (.answer h)) <| .bind fun _ => .bind fun _ =>
      .ite (.pure (.answer h)) <| .ite (.pure (.answer h)) <| .pure (.answer (.updPkg (.setGroup h)))

/-! A match on the state of a group and on what is saved of it, in each of the three states that one is made on. -/

section
variable {st : GroupState} {sv : Option Saved}

theorem State.Canonical.whenSaved {f : Saved → State} (hf : ∀ v, (f v).Canonical) (h : s.Canonical) :
    State.Canonical (match st, sv with
      | .saved, some v => f v
      | _, _ => s) := by
  split
  · exact hf _
  · exact h

theorem Out.Canonical.whenSaving {f : Saved → Out} (hf : ∀ v, Out.Canonical (f v)) (h : s.Canonical) :
    Out.Canonical (match st, sv with
      | .saving, some v => f v
      | _, _ => .next s) := by
  split
  · exact hf _
  · exact h

theorem Out.Canonical.whenResuming {f : Saved → Out} (hf : ∀ v, Out.Canonical (f v)) (h : s.Canonical) :
    Out.Canonical (match st, sv with
      | .resuming, some v => f v
      | _, _ => .next s) := by
  split
  · exact hf _
  · exact h

end

theorem State.Canonical.tellIssuer {g event dst : Nat} (h : s.Canonical) : (s.tellIssuer g event dst).Canonical := h

theorem State.Canonical.takeLocks {ts : List Nat} (h : s.Canonical) : (s.takeLocks ts).1.Canonical := by
  have hl : State.Canonical (ts.foldl (fun (s : State) t => s.leaveLocks t) s) := .foldl h fun _ _ hs => hs.leaveLocks
  exact hl

theorem State.Canonical.rejoinLock {key : Nat} {w : Waiter} (h : s.Canonical) : (s.rejoinLock key w).Canonical := .ite h h

theorem State.Canonical.stripCore {g cid : Nat} {ts : List Nat} (h : s.Canonical) : (s.stripCore g ts cid).Canonical := h

theorem State.Canonical.saveCore {a : Area} {r : List Word} {g i cid : Nat} (h : s.Canonical) : (s.saveCore a r g i cid).Canonical := by
  unfold State.saveCore
  exact .saveQueues (.ite h.saveTile h)

theorem State.Canonical.stow {g vid : Nat} (h : s.Canonical) : (s.stow g vid).Canonical := h

theorem State.Canonical.dropWalks {ts : List Nat} (h : s.Canonical) : (s.dropWalks ts).Canonical := h

theorem State.Canonical.withFresh {n : Nat} (h : s.Canonical) : State.Canonical { s with fresh := n } := h

theorem State.Canonical.savePrivate {a : Area} {r : List Word} (h : s.Canonical) : (s.savePrivate a r).Canonical := by
  unfold State.savePrivate
  exact .withFresh h.areaWrite

theorem State.Canonical.saveSections {g : Nat} {x : Group} {a : Area} (h : s.Canonical) : (s.saveSections g x a).Canonical := by
  unfold State.saveSections
  refine .foldl ?_ fun _ _ hs => hs.saveCore
  dsimp only
  split
  · exact .foldl (.foldl h.savePrivate fun _ _ hs => hs.saveThread) fun _ _ hs => hs.saveRun
  · exact .foldl h.savePrivate fun _ _ hs => hs.saveThread

theorem State.Canonical.finalHeader {a : Area} {g : Nat} {r : List Word} (h : s.Canonical) : (s.finalHeader a g r).Canonical :=
  h.areaWrite.areaHeader

theorem State.Canonical.save {pkg g : Nat} {x : Group} {v : Saved} {pages : List (Nat × Nat)} (h : s.Canonical) :
    (s.save pkg g x v pages).Canonical := by
  unfold State.save
  refine .updPkg (.finalHeader (.foldl (.foldl (.rename (.setGroup (.foldl (.takeLocks (.saveSections (.foldl ?_ fun _ _ hs => hs.endGang)))
    fun _ _ hs => ?_))) fun _ _ hs => hs.moveStore) fun _ _ hs => hs.stow))
  · exact .dropWalks h.useArea
  · exact .wakeMail hs.stripCore

theorem State.Canonical.setGroupState {pkg g : Nat} {st : GroupState} (h : s.Canonical) : (s.setGroupState pkg g st).Canonical := by
  unfold State.setGroupState
  split <;> exact h

theorem Out.Canonical.preemption {pkg grp : Nat} (h : s.Canonical) : Out.Canonical (execPreemption pkg grp s) := by
  unfold execPreemption
  split
  · exact h
  refine .whenSaving (fun v => ?_) h
  split
  · exact h
  refine .ite h (.next ?_)
  split
  · exact .tellIssuer (.groupRecord (.setGroupState (.giveBack h.save)))
  · exact .groupRecord (.setGroupState (.giveBack h.save))

theorem State.Canonical.moveArrivals {pkg g : Nat} {cores : List (Nat × Nat)} (h : s.Canonical) :
    (s.moveArrivals pkg g cores).Canonical := by
  refine .foldl h fun _ _ hs => ?_
  dsimp only
  split
  · exact hs
  · exact .ite hs hs

theorem State.Canonical.restoreRun {a : Area} {r : List Word} {base i : Nat} {bad : List Nat} (h : s.Canonical) :
    (s.restoreRun a r base i bad).Canonical :=
  fill (s := { s with poison := _ }) h

theorem State.Canonical.claimCores {g : Nat} {v : Saved} {pl : List (Nat × Nat)} (h : s.Canonical) : (s.claimCores g v pl).Canonical :=
  .foldl (.foldl h fun _ _ hs => hs) fun _ _ hs => hs

theorem State.Canonical.startResume {pkg g : Nat} {x : Group} {v : Saved} {pages : List (Nat × Nat)} {pl : List (Nat × Nat) × Nat}
    (h : s.Canonical) : (s.startResume pkg g x v pages pl).Canonical := by
  unfold State.startResume
  dsimp only
  generalize hu : State.updPkg _ _ _ = u
  have hc : u.Canonical := by
    rw [← hu]
    refine .updPkg (.ite (.useArea ?_) (.areaHeader (.useArea ?_)))
    all_goals
      refine .claimCores (.moveArrivals (.foldl (.foldl (.rename ?_) fun _ _ hs => hs) fun _ _ hs => ?_))
      · exact h
      · exact .clearStore hs.moveStore
  split <;> exact hc

theorem State.Canonical.dropResumes {pkg : Nat} (h : s.Canonical) : (s.dropResumes pkg).Canonical := by
  refine .foldl h fun _ _ hs => ?_
  split
  · exact hs
  refine .whenSaved (fun v => ?_) hs
  split
  · exact hs
  · exact .ite hs (.updPkg (.setGroup hs))

theorem State.Canonical.restoreCore {v : Saved} {r : List Word} {g i old cid : Nat} (h : s.Canonical) :
    (s.restoreCore v r g i old cid).Canonical := by
  refine .foldl (.foldl (.foldl h fun _ _ hs => .ite hs (.foldl hs fun _ _ hs => hs)) fun _ _ hs => ?_) fun _ _ hs => .ite hs hs.setTasks
  dsimp only
  split
  · exact .flueEvent hs
  · exact hs

theorem State.Canonical.returnMsg {m : Msg} {new : Bool} (h : s.Canonical) : (s.returnMsg m new).Canonical :=
  .ite h (.ite h.enterInbox h)

theorem State.Canonical.restore {g : Nat} {x : Group} {v : Saved} (h : s.Canonical) : (s.restore g x v).Canonical := by
  refine .areaHeader (.foldl (.foldl (.foldl (.foldl ?_ fun _ _ hs => hs.restoreCore) fun _ _ hs => hs.returnMsg) fun _ _ hs => hs.returnMsg)
    fun _ _ hs => hs.rejoinLock)
  dsimp only
  split
  · exact .foldl (.foldl (.foldl h fun _ _ hs => .seat (.fillThread hs)) fun _ _ hs => hs.fill) fun _ _ hs => hs.restoreRun
  · exact .foldl (.foldl h fun _ _ hs => .seat (.fillThread hs)) fun _ _ hs => hs.fill

theorem State.Canonical.failResume {pkg g : Nat} {x : Group} (h : s.Canonical) : (s.failResume pkg g x).Canonical :=
  .foldl (.groupRecord (.foldl h fun _ _ hs => hs.exitThread)) fun _ _ hs => hs

theorem State.Canonical.resumed {pkg g : Nat} (h : s.Canonical) : (s.resumed pkg g).Canonical := by
  unfold State.resumed
  split
  · exact h
  · dsimp only
    split
    · exact h.startSave
    · exact h

theorem Out.Canonical.groupResume {pkg grp : Nat} (h : s.Canonical) : Out.Canonical (execGroupResume pkg grp s) := by
  unfold execGroupResume
  split
  · exact h
  refine .whenResuming (fun v => ?_) h
  extract_lets size
  split
  · exact h
  · exact .ite h.failResume <| .ite h <| .next <| .foldl h.restore.resumed.groupRecord fun _ _ hs => hs.tellIssuer

end

end Sys2Proof.Machine

/-! ### Canonical memory: the dispatcher, the host and gangs -/

namespace Sys2Proof.Machine

section
variable {s : State}

/-! #### The dispatcher -/

theorem Out.Canonical.launch {d a q : XReg} (h : s.Canonical) : Out.Canonical (execLaunch d a q s) :=
  .issue h <| .bind fun _ => .bind fun _ => .bind fun _ => .bind fun _ => .pure <| .answer (.ite h h)

theorem State.Canonical.refuseHeads {pkg q fuel : Nat} (h : s.Canonical) : (s.refuseHeads pkg q fuel).Canonical := by
  induction fuel generalizing s with
  | zero => exact h
  | succ fuel ih =>
    unfold State.refuseHeads
    dsimp only
    split
    · exact h
    · exact .ite (ih (.statusRecord h.updPkg)) h

theorem State.Canonical.refuseAll {pkg : Nat} (h : s.Canonical) : (s.refuseAll pkg).Canonical := .foldl h fun _ _ hs => hs.refuseHeads

theorem State.Canonical.startThread {r : List Word} {segs : List (Word × Word)} {g deadline rank tid off : Nat} {csp : Option (Nat × Nat)}
    (h : s.Canonical) : (s.startThread r segs g deadline csp rank tid off).Canonical :=
  .storeAt h.seat

theorem State.Canonical.startGroup {pkg q arrival g : Nat} {x : Queue} {r : List Word} {segs : List (Word × Word)}
    {pl : List (Nat × Nat) × Nat} (h : s.Canonical) : (s.startGroup pkg q x r arrival g segs pl).Canonical :=
  have hs := State.Canonical.foldl h.updPkg fun _ _ hs => hs.startThread
  .ite hs.groupRecord hs

theorem State.Canonical.tryStart {pkg : Nat} {c : Ranked} {s' : State} (h : s.Canonical) (hs : s.tryStart pkg c = some s') :
    s'.Canonical := by
  unfold State.tryStart at hs
  split at hs
  · dsimp only at hs
    split at hs
    · cases hs
    · split at hs
      · cases hs
        exact h.startGroup
      · cases hs
  · split at hs
    · cases hs
    · split at hs
      · cases hs
      · split at hs
        · cases hs
          exact h.startResume
        · cases hs

theorem State.Canonical.reserve {pkg : Nat} {c : Ranked} (h : s.Canonical) : (s.reserve pkg c).Canonical := by
  refine .ite h ?_
  split <;> exact h

theorem State.Canonical.visit {pkg : Nat} {reserved : Bool} {l : List Ranked} (h : s.Canonical) : (s.visit pkg reserved l).Canonical := by
  induction l generalizing s reserved with
  | nil => exact h
  | cons c rest ih =>
    refine .ite (ih h.reserve) <| .ite (ih h) ?_
    split
    · next hs => exact h.tryStart hs
    · exact ih h

theorem Out.Canonical.dispatcherRanking {pkg : Nat} (h : s.Canonical) : Out.Canonical (execDispatcherRanking pkg s) :=
  State.Canonical.visit h.refuseAll.dropResumes

/-! #### The host and the device's services -/

theorem State.Canonical.answerHost {pkg : Nat} {x : HostAnswer} (h : s.Canonical) : (s.answerHost pkg x).Canonical := h

theorem State.Canonical.putThrough {cid : Nat} {runs : List (Nat × Nat)} {data : List Byte} (h : s.Canonical) :
    (s.putThrough cid runs data).Canonical := by
  induction runs generalizing s data with
  | nil => exact h
  | cons r rest ih => exact ih (.ite h h.storeAt)

theorem State.Canonical.wakeHomes {pkg : Nat} {runs : List (Nat × Nat)} (h : s.Canonical) : (s.wakeHomes pkg runs).Canonical :=
  .foldl h fun _ _ hs => hs.wakePkg

theorem State.Canonical.hostData {pkg n : Nat} {runs : List (Nat × Nat)} (h : s.Canonical) : (s.hostData pkg n runs).Canonical :=
  .ite h h

theorem State.Canonical.hostAccess {pkg : Nat} {x : HostAccess} (h : s.Canonical) : (s.hostAccess pkg x).Canonical := by
  unfold State.hostAccess
  split
  · exact h
  · exact h
  · refine .ite h ?_
    split
    · exact .settleLocks (.putThrough h.wakeHomes)
    · exact .hostData h.wakeHomes

theorem State.Canonical.retryHost {pkg : Nat} (h : s.Canonical) : (s.retryHost pkg).Canonical := by
  unfold State.retryHost
  split
  · exact h
  · exact .foldl h fun _ _ hs => hs.hostAccess

theorem Out.Canonical.hostWrite {pkg off : Nat} {win : Option Nat} {bytes : List (BitVec 8)} (h : s.Canonical) :
    Out.Canonical (execHostWrite pkg win off bytes s) := by
  unfold execHostWrite
  dsimp only
  split
  · exact State.Canonical.ite h.wakePkg.regWrite h.wakePkg
  · exact h.wakePkg.hostAccess

theorem Out.Canonical.hostRead {pkg off n : Nat} {win : Option Nat} (h : s.Canonical) : Out.Canonical (execHostRead pkg win off n s) := by
  unfold execHostRead
  dsimp only
  split
  · exact h.wakePkg.answerHost
  · exact h.wakePkg.hostAccess

theorem State.Canonical.updAround {pkg : Nat} {f : Surround → Surround} (h : s.Canonical) : (s.updAround pkg f).Canonical := h

theorem State.Canonical.takePackets {pkg port : Nat} (h : s.Canonical) : (s.takePackets pkg port).Canonical := h

theorem State.Canonical.serviceMsg {pkg kind code w1 : Nat} (h : s.Canonical) : (s.serviceMsg pkg kind code w1).Canonical := h

theorem Out.Canonical.linkRestore {pkg port : Nat} (h : s.Canonical) : Out.Canonical (execLinkRestore pkg port s) :=
  .next <| .foldl (.foldl (.takePackets (.updAround h)) fun _ _ hs => hs.wakePkg.passOn) fun _ _ hs => hs.retryHost

theorem State.Canonical.failPackets {l : List (Nat × Packet)} (h : s.Canonical) :
    (l.foldl (fun (s : State) q => q.2.ids.foldl (fun (s : State) id => s.failPacket q.2 id) s) s).Canonical :=
  .foldl h fun _ _ hs => .foldl hs fun _ _ hs => hs.failPacket

theorem State.Canonical.withFlight {l : List (Nat × Item)} (h : s.Canonical) : State.Canonical { s with flight := l } := h

theorem Out.Canonical.ftmoExpiry {pkg port : Nat} (h : s.Canonical) : Out.Canonical (execFtmoExpiry pkg port s) :=
  .ite h <| .next <| .serviceMsg <| .retryHost <| .withFlight <| .updAround <| .failPackets h.takePackets

theorem Out.Canonical.crackedConnectionAlarm {pkg : Nat} {pred vin : BitVec 16} (h : s.Canonical) :
    Out.Canonical (execCrackedConnectionAlarm pkg pred vin s) :=
  .ite h h

theorem Out.Canonical.monitorReport {pkg hearth : Nat} {temp mv : BitVec 16} {x : Readings} (h : s.Canonical) :
    Out.Canonical (execMonitorReport pkg hearth temp mv x s) :=
  .ite h h

theorem Out.Canonical.powerStateEntry {pkg : Nat} (h : s.Canonical) : Out.Canonical (execPowerStateEntry pkg s) := .ite h h

theorem State.Canonical.clearPkg {pkg : Nat} (h : s.Canonical) : (s.clearPkg pkg).Canonical := h.filterMem

theorem State.Canonical.setPkg {pkg : Nat} {x : Pkg} (h : s.Canonical) : (s.setPkg pkg x).Canonical := h

theorem Out.Canonical.deviceReset {pkg : Nat} {stage : BootStep} {bytes : List (BitVec 8)} (h : s.Canonical) :
    Out.Canonical (execDeviceReset pkg stage bytes s) := by
  unfold execDeviceReset
  dsimp only
  split
  · exact h.clearPkg.setPkg
  · exact State.Canonical.ite h h
  · exact State.Canonical.ite h h

theorem Out.Canonical.attestationComplete {pkg : Nat} (h : s.Canonical) : Out.Canonical (execAttestationComplete pkg s) := .ite h h

/-! #### Gangs -/

theorem State.Canonical.formGang {leader n : Nat} {pc : Word} (h : s.Canonical) : (s.formGang leader n pc).Canonical :=
  .foldl h fun _ _ hs => hs

theorem Out.Canonical.gang {n g : Fin 8} (h : s.Canonical) : Out.Canonical (execGang n g s) :=
  .issueC h <| .bind fun _ => .ite (.bind fun _ => .pure h.formGang) (.pure h.formGang)

theorem Out.Canonical.gangw {g : Fin 8} (h : s.Canonical) : Out.Canonical (execGangw g s) := by
  refine .issueC h <| .bind fun _ => ?_
  split
  · exact .bind fun _ => .pure h
  · exact .pure h

end

end Sys2Proof.Machine

/-! ### Canonical memory: planes and the matrix unit -/

namespace Sys2Proof.Machine

section
variable {s : State}

/-! #### Planes and the matrix unit -/

theorem State.Canonical.openToken {t : XReg} (h : s.Canonical) : (s.openToken t).Canonical := h

theorem Out.Canonical.plane {t da sa ct : XReg} (h : s.Canonical) : Out.Canonical (execPlane t da sa ct s) := by
  refine .issue h <| .bind fun _ => .bind fun _ => ?_
  dsimp only
  split
  · exact .error
  split
  · exact .error
  split
  · exact .error
  · refine .bind fun _ => .bind fun _ => .ite (.bind fun _ => .ite ?_ ?_) (.bind fun _ => .ite ?_ ?_)
    all_goals exact .bind fun _ => .bind fun _ => .bind fun _ => .bind fun _ => .bind fun _ => .bind fun _ => .pure h.openToken.post

theorem State.Canonical.writePart {key e : Nat} {rows : List (List (Nat × Bool))} (h : s.Canonical) : (s.writePart key e rows).Canonical :=
  .foldl h fun _ _ hs => .foldl hs.storeAt fun _ _ hs => .ite hs.writePoison.writePoison hs

theorem Out.Canonical.planeCompletion {id : Nat} (h : s.Canonical) : Out.Canonical (execPlaneCompletion id s) := by
  unfold execPlaneCompletion
  split
  · split
    · exact h
    split
    · exact h
    · refine .ite h (.next (.landMove (.settleLocks ?_)))
      refine .ite ?_ (.writeCells ?_)
      all_goals
        refine .foldl (.ite ?_ (.writePart ?_)) fun _ _ hs => hs.writePart
        all_goals exact .foldl (.writePart (.dropItem h.crossing)) fun _ _ hs => hs.writePart
  · exact h

theorem R.Canonical.enqueue {t : XReg} {cmd : MatCmd} (h : s.Canonical) : R.Canonical (s.enqueue t cmd) := .bind fun _ => .pure h

theorem R.Canonical.mma {fa fb : Fmt} {t da db : XReg} {n : Fin 32} (h : s.Canonical) : R.Canonical (s.mma fa fb t da db n) :=
  .bind fun _ => .bind fun _ => .bind fun _ => .bind fun _ => .enqueue h

theorem R.Canonical.plainCmd {t : XReg} {cmd : MatCmd} (h : s.Canonical) : R.Canonical (s.plainCmd t cmd) := .bind fun _ => .enqueue h

theorem R.Canonical.rowsCmd {t ad st : XReg} {cmd : Nat → Nat → MatCmd} (h : s.Canonical) : R.Canonical (s.rowsCmd t ad st cmd) :=
  .bind fun _ => .bind fun _ => .bind fun _ => .bind fun _ => .bind fun _ => .enqueue h

theorem Out.Canonical.mhint {imm : BitVec 12} (h : s.Canonical) : Out.Canonical (execMhint imm s) :=
  .issue h <| .ite (.pure h) (.pure (.ite h h))

theorem State.Canonical.mmaBlock {cid m : Nat} {tx : Bool} {fa fb : Fmt} {a b : Word} (h : s.Canonical) :
    (s.mmaBlock cid tx fa fb a b m).Canonical := by
  unfold State.mmaBlock
  split
  · dsimp only
    split <;> exact h
  · exact h

theorem State.Canonical.mload {cid key st : Nat} {int : Bool} {owner : Option Nat} (h : s.Canonical) :
    (s.mload cid int key st owner).Canonical := h

theorem State.Canonical.mdrain {cid mode rm key st : Nat} {f : Fmt} {wrap clr tx : Bool} (h : s.Canonical) :
    (s.mdrain cid mode f rm wrap clr tx key st).1.Canonical :=
  have hs := State.Canonical.foldl (.foldl h fun _ _ hs => hs.storeAt) fun _ _ hs => hs.writePoison
  .ite hs hs

theorem State.Canonical.endCmd {cid id code low : Nat} {m : Matrix} (h : s.Canonical) : (s.endCmd cid id m code low).Canonical := h

theorem State.Canonical.setUnit {n : Nat} {x : MatUnit} (h : s.Canonical) : (s.setUnit n x).Canonical := h

theorem State.Canonical.serve {cid id : Nat} {m : Matrix} (h : s.Canonical) : (s.serve cid id m).Canonical := by
  unfold State.serve
  dsimp only
  split
  · exact h
  · exact .ite h h
  · split
    · exact .endCmd h.mload
    · exact h
  · split
    · exact .endCmd (.settleLocks h.mdrain)
    · exact h
  · exact .ite h <| .ite (.endCmd (.setUnit h.mmaBlock)) (.setCore (.setUnit h.mmaBlock))

theorem State.Canonical.movePointer {u c : Nat} (h : s.Canonical) : (s.movePointer u c).Canonical := by
  unfold State.movePointer
  dsimp only
  split <;> exact h

/-- The unit takes up a column's head once its share of blocks is used up. -/
theorem State.Canonical.takeHead {unit : Nat} {u : MatUnit} {c : Prop} {_ : Decidable c} {o : Option (Nat × Matrix)} {w : Matrix → Nat}
    (h : s.Canonical) :
    State.Canonical (if c then s else match o with
      | some (col, m) => s.setUnit unit { u with ptr := col, left := w m }
      | none => s) := by
  refine .ite h ?_
  split <;> exact h

theorem Out.Canonical.matrixBlock {unit : Nat} (h : s.Canonical) : Out.Canonical (execMatrixBlock unit s) := by
  unfold execMatrixBlock
  extract_lets u s1 u1 cid
  have h1 : s1.Canonical := .takeHead h
  refine .ite h1 ?_
  split
  · exact h1.movePointer
  · exact .ite h1 (.ite (.movePointer h1.serve.setUnit) h1.serve.setUnit)

theorem Out.Canonical.matrixCommandCompletion {id : Nat} (h : s.Canonical) : Out.Canonical (execMatrixCommandCompletion id s) := by
  unfold execMatrixCommandCompletion
  split
  · exact .next <| .landToken <| .dropItem h
  · exact h

theorem Out.Canonical.hintedRampUp {unit : Nat} (h : s.Canonical) : Out.Canonical (execHintedRampUp unit s) := .ite h h

end

end Sys2Proof.Machine

/-! ### Canonical memory: every instruction and every event -/

namespace Sys2Proof.Machine

section
variable {s : State}

theorem Out.Canonical.exec {i : Instr} (h : s.Canonical) : Out.Canonical (exec i s) := by
  cases i <;> unfold Machine.exec
  case cnop | pand | por | pxor | pnot | pmov => exact .issueC h (.ok h)
  case br => exact .issueJ h (.ok h)
  case brp => exact .brp h
  case call => exact .call h
  case loop => exact .loop h
  case calli => exact .calli h
  case ret => exact .ret h
  case jmpi | eret => exact .issueJ h (.bind fun _ => .bind fun _ => .pure h)
  case exit => exact .exit h
  case trap => exact h.conclude (.ok h.enterTrap)
  case brk => exact .brk h
  case ifence | pfence | pclr | ptst | qstat | emb | embHearth | timerOff => exact .issueC h (.bind fun _ => .pure h)
  case fence => exact .fence h
  case add | sub | andC | orC | xorC | andn | mul | mulhs | mulhu | shl | shr | sha | rotr | mins | maxs | minu | maxu | sel | lea | bext
    | bextS => exact .issueC h (.alu2 h)
  case divs | divu | rems | remu => exact .issueC h (.divide h)
  case clz | ctz | popc | brev | sextB | sextH | sextW | zextB | zextH | zextW | mov => exact .issueC h (.alu1 h)
  case cmpEq | cmpNe | cmpLt | cmpGe | cmpLtu | cmpGeu => exact .issueC h (.compare h)
  case bins => exact .issueC h (.bind fun _ => .pure h.writeS)
  case tremit => exact .tremit h
  case rpush => exact .rpush h
  case rpop => exact .rpop h
  case ctxs => exact .ctxs h
  case ctxsResume => exact .ctxsResume h
  case ctxsSize => exact .issueC h (.bind fun _ => .bind fun _ => .bind fun _ => .bind fun _ => .pure h)
  case addi | andi | ori | xori | shli | shri | shai => exact .issue h (.alu1 h)
  case movi => exact .issue h (.bind fun _ => .pure h.writeS)
  case cmpiEq | cmpiNe | cmpiLt | cmpiGe | cmpiLtu | cmpiGeu => exact .issue h (.compareI h)
  case ldBZ | ldBS | ldHZ | ldHS | ldWZ | ldWS | ldD | ldAcq | ldv => exact .issue h (.loadFar h)
  case stB | stH | stW | stD | stRel | stv => exact .issue h (.storeFar h)
  case aadd | amin | amax | aand | aor | axor | axchg | acas => exact .issueC h (.atomicFar h)
  case afadd => exact .afadd h
  case lock | lockStatus | unlock | unlockStatus => exact .issueC h (.lockOp h)
  case nadd | ncas => exact .issueC h (.atomicNear h)
  case mzeroFlt | mzeroInt | mstat => exact .issueC h (.plainCmd h)
  case mhint => exact .mhint h
  case ldnW | ldnD | vldn => exact .issue h (.loadNear h)
  case stnW | stnD | vstn => exact .issue h (.storeNear h)
  case ldf | ldfe => exact .issue h (.loadSync h)
  case ste => exact .issue h (.bindState (.storeSync h) fun _ hs => .pure hs)
  case stf => exact .issue h (.storeSync h)
  case feclr | feset | claim => exact .issue h (.stateSync h)
  case feq => exact .issue h (.bind fun _ => .bind fun _ => .pure (.sendSync h.occupy))
  case flue => exact .flue h
  case send | sendT => exact .issueC h (.send h)
  case recv => exact .issueC h (.bind fun _ => .receive h)
  case recvs | waitm => exact .issueC h (.bind fun _ => .bind fun _ => .receive h)
  case putr => exact .putr h
  case qunbind => exact .qunbind h
  case qpop => exact .qpop h
  case qpush => exact .qpush h
  case qfwd => exact .qfwd h
  case qseam => exact .qseam h
  case qinherit => exact .qinherit h
  case markret => exact .markret h
  case bar => exact .bar h
  case bara => exact .bara h
  case barw => exact .barw h
  case gang => exact .gang h
  case gangw => exact .gangw h
  case disband => exact .issueC h (.ok h.endGang)
  case tqpush => exact .tqpush h
  case tqpop => exact .tqpop h
  case tqpeek => exact .tqpeek h
  case sleep => exact .issueC h (.sleepEntry h)
  case sleepW => exact .sleepW h
  case timer | timerAbs => exact .issueC h (.armTimer h)
  case mfs => exact .issueC h (.bind fun _ => .bind fun _ => .pure h)
  case mts => exact .mts h
  case segld => exact .segld h
  case segst => exact .segst h
  case tlbi => exact .issueC h (.bind fun _ => .bind fun _ => .bind fun _ => .pure h)
  case pgrep | pgrepFail => exact .issueC h (.pgrep h)
  case anop => exact .issueA h (.ok h)
  case fadd | fsub | fmul | fdiv => exact .issueA h (.float2 h)
  case fma | fsqrt | fmin | fmax | fabs | fneg | fsgn | fcmp | fclass => exact .issueA h (.bind fun _ => .floatResult h)
  case fcvtF | fcvtI => exact .issueA h (.convert h)
  case vaddF | vsubF | vmulF | vminF | vmaxF | vdiv | vand | vor | vxor | vshl | vshr | vsha | vaddI | vsubI | vmulI | vminI | vmaxI =>
    exact .issueA h (.vec2 h)
  case vfma | vfms => exact .issueA h (.vecFma h)
  case vabsF | vnegF | vsqrt | vrcp | vrsq | vexp2 | vlog2 | vsin | vcos | vtanh | vmov | vabsI | vnegI => exact .issueA h (.vec1 h)
  case vdotF | vdotI => exact .issueA h (.vdot h)
  case vcmpF | vcmpI => exact .issueA h (.vcmp h)
  case vsel | vbcast | vperm | vredF | vredI => exact .issueA h (.bind fun _ => .vecResult h)
  case vcvtF | vcvtI => exact .issueA h (.vcvt h)
  case vcntF | vcntI => exact .issueA h (.vcnt h)
  case visabF | visabI => exact .issueA h (.visab h)
  case vmkabF | vmkabI => exact .issueA h (.vmkab h)
  case vmovToMask | vmovFromMask => exact .issueA h (.bind fun _ => .pure h)
  case vext => exact .issueA h (.bind fun _ => .pure (.ite h.writeS h))
  case vins => exact .issueA h (.bind fun _ => .pure (.ite h.writeV h))
  case xld => exact .xld h
  case vrngF | vrngI => exact .issueA h (.vrng h)
  case movw | movwHi => exact .issue h (.bind fun _ => .pure h)
  case qbind => exact .qbind h
  case spliceInsert | spliceRemove | spliceRebind => exact .issue h (.splice h)
  case launch => exact .launch h
  case bari => exact .bari h
  case tmov => exact .tmov h
  case plane => exact .plane h
  case bcpy | gath | scat | coll => exact .issue h (.toEngine h)
  case mdrain | mloadFlt | mloadInt => exact .issue h (.rowsCmd h)
  case mmaF4F4 | mmaE4E4 | mmaE5E5 | mmaE4E5 | mmaE5E4 | mmaBF16BF16 | mmaF16F16 | mmaBF16F4 | mmaBF16E4 | mmaBF16TS8 | mmaE4TS8 | mmaI8I8
    => exact .issue h (.mma h)
  case boundaryTrap => exact .boundaryTrap h
  case timerExpiry => exact .timerExpiry h
  case xldTimeout => exact .xldTimeout h
  case tableWalk => exact .tableWalk h
  case faultMessage => exact .faultMessage h
  case pagerReply => exact .pagerReply h
  case eccUncorrectableError => exact .eccUncorrectableError h
  case softError => exact .softError h
  case farNetForward => exact .farNetForward h
  case switchPowerDown => exact .switchPowerDown h
  case memoryAccessAtHome => exact .memoryAccessAtHome h
  case loadReply => exact .loadReply h
  case putArrival => exact .putArrival h
  case putAcknowledgement => exact .putAcknowledgement h
  case remoteRegisterWrite => exact .remoteRegisterWrite h
  case deliveryLanding => exact .deliveryLanding h
  case syncAccessArrival => exact .syncAccessArrival h
  case syncRetryTick => exact .next h.passTime
  case syncReissue => exact .syncReissue h
  case storeDrain => exact .storeDrain h
  case sendDeparture => exact .sendDeparture h
  case inboxArrival => exact .inboxArrival h
  case inboxRetry => exact .inboxRetry h
  case ringRecordArrival => exact .ringRecordArrival h
  case ringCreditReturn => exact .ringCreditReturn h
  case seamTake => exact .seamTake h
  case drainThrough => exact .drainThrough h
  case inheritanceCopy => exact .inheritanceCopy h
  case spliceMessage | waitCycle | ctxsResultMessage | tenantRefused | fabricDown | powerAlarm => exact .next h.hardware
  case windowSpill => exact .windowSpill h
  case windowFill => exact .windowFill h
  case tileMoveCompletion => exact .tileMoveCompletion h
  case planeCompletion => exact .planeCompletion h
  case completionMessage => exact .completionMessage h
  case collTimeout => exact .collTimeout h
  case matrixBlock => exact .matrixBlock h
  case matrixCommandCompletion => exact .matrixCommandCompletion h
  case matrixRampDown | flitRetransmit | linkLoss => exact .next h
  case hintedRampUp => exact .hintedRampUp h
  case barrierRelease => exact .barrierRelease h
  case emberRedistribution => exact .emberRedistribution h
  case opChange => exact .opChange h
  case ceilLower => exact .ceilLower h
  case ceilRaise => exact .ceilRaise h
  case opthrWrite | ceilWrite | bstatCycClear | pwralmAlarmClear | acctFreeze | acctZero => exact .register h fun _ hs => hs
  case qrecCommit | completionCounterWrite => exact .register h fun _ hs => .ite hs hs
  case dispatcherRanking => exact .dispatcherRanking h
  case slotVacate => exact .slotVacate h
  case groupRetirement => exact .groupRetirement h
  case preemption => exact .preemption h
  case groupResume => exact .groupResume h
  case hostWrite => exact .hostWrite h
  case hostRead => exact .hostRead h
  case linkRestore => exact .linkRestore h
  case ftmoExpiry => exact .ftmoExpiry h
  case crackedConnectionAlarm => exact .crackedConnectionAlarm h
  case monitorReport => exact .monitorReport h
  case powerStateEntry => exact .powerStateEntry h
  case powerStateWake => exact .next h.wakePkg
  case deviceReset => exact .deviceReset h
  case attestationStart | trctlWrite => exact .next h.wakePkg.updService
  case attestationComplete => exact .attestationComplete h
  case mirmorStop | mirmorResume | mirmorStep | mirmorHalt | mirmorRelease | brkstopOn | brkstopOff => exact .command h
  case mirmorThreadRecordWrite => exact .register h fun _ hs => hs.writeRecord
  case registerWrite => exact .registerWrite h
  case tlbiCompletion => exact .tlbiCompletion h
  case statusAnswerArrival => exact .statusAnswerArrival h
  case switchWake => exact .switchWake h
  case idleCycle => exact .idleCycle h
  case firmwareThreadStart => exact .firmwareThreadStart h

end

end Sys2Proof.Machine

/-! ### Canonical memory: pairs, gangs, cores and the step -/

namespace Sys2Proof.Machine

section
variable {s : State}

/-! #### One pair -/

/-- An access performed on the memory before the pair leaves the memory that the pair has made. -/
theorem Out.Canonical.performedOn {u : State} {id : Nat} (h : s.Canonical) (hu : u.Canonical) : Out.Canonical (s.performedOn u id) := by
  have hx : State.Canonical { u with mem := s.mem, poison := s.poison } := h
  refine .andThen ?_ fun _ _ => hu
  split
  · exact .memoryAccessAtHome hx
  · exact .syncAccessArrival hx
  · exact hx

theorem Out.Canonical.runBoth {c : Instr} {sc sa : State} (h : s.Canonical) (ha : sa.Canonical) : Out.Canonical (s.runBoth c sc sa) :=
  .ite (.exec ha) <| .ite (.next h.halted) <| .andThen (.exec ha) fun _ hu => .performedOn h hu

theorem Out.Canonical.runSlots {c a : Instr} (h : s.Canonical) : Out.Canonical (s.runSlots c a) := by
  refine .ite (.exec h) <| .andThen (.exec (s := { s with iss := _ }) h) fun sc hc => .andThen (.exec (s := { s with iss := _ }) h) fun sa ha => ?_
  split
  · exact .runBoth h ha
  · exact hc
  · exact ha
  · exact State.Canonical.halted (s := { s with iss := _ }) h
  · exact .ite ha hc

theorem Out.Canonical.runPair {p : Pair} (h : s.Canonical) : Out.Canonical (s.runPair p) :=
  match p with
  | .lone _ => .exec h
  | .slots _ _ => .runSlots h

theorem State.Canonical.begin {w : Word} {who : List Nat} {ganged : Bool} (h : s.Canonical) : (s.begin w who ganged).Canonical := h

theorem Out.Canonical.runWord {w : Word} (h : s.Canonical) : Out.Canonical (s.runWord w) := by
  unfold State.runWord
  split
  · exact .runPair h
  · exact h.halted

theorem State.Canonical.popFetch {tid : Nat} {old : Thread} (h : s.Canonical) : (s.popFetch tid old).Canonical := h

theorem State.Canonical.afterStep {tid : Nat} (h : s.Canonical) : (s.afterStep tid).Canonical := .ite h.stopAt h

theorem State.Canonical.issuedBy {tid : Nat} {old : Thread} (h : s.Canonical) : (s.issuedBy tid old).Canonical :=
  .afterStep (.ite h h)

theorem Out.Canonical.attemptNow {tid : Nat} (h : s.Canonical) : Out.Canonical (s.attemptNow tid) := by
  unfold State.attemptNow
  extract_lets u t old r
  have h1 : u.Canonical := h
  split
  · exact h1.halted
  · exact h1.takeBoundary
  · exact h1.halted
  · have hr : Out.Canonical r := by
      unfold r
      split
      · exact h1.halted
      · split
        · exact State.Canonical.halted h1.fetchFailed
        · next hf => exact .runWord (h1.fetchPair hf).begin
    refine .ite ?_ <| .ite hr <| .andThen hr fun _ hs => .next hs.issuedBy
    split
    · exact hr
    · exact h1.takeTimer

/-- A thread that the core does not let issue stops where it stood. -/
theorem Out.Canonical.attempt {tid : Nat} (h : s.Canonical) : Out.Canonical (s.attempt tid) :=
  .ite (.next (.halted h)) (.attemptNow h)

/-! #### One gang -/

theorem Out.Canonical.memberRun {tid : Nat} {w : Word} (h : s.Canonical) : Out.Canonical (s.memberRun tid w) := by
  unfold State.memberRun
  dsimp only
  split
  · exact State.Canonical.halted h
  · exact .runWord h

theorem State.Canonical.disband {ms : List Nat} (h : s.Canonical) : (s.disband ms).Canonical := .foldl h fun _ _ hs => hs

theorem State.Canonical.gangKeep {leader : Nat} {ms : List Nat} (h : s.Canonical) : (s.gangKeep leader ms).Canonical := .ite h h.disband

theorem State.Canonical.noteAll {l : List (Nat × Stop)} (h : s.Canonical) : (s.noteAll l).Canonical :=
  .foldl h fun _ _ hs => .halted hs

/-- The members run the pair one after another. -/
theorem Out.Canonical.foldlMembers {o : Out} {w : Word} {ms : List Nat} (ho : Out.Canonical o) :
    Out.Canonical (ms.foldl (fun o m => Machine.andThen o fun s => s.memberRun m w) o) := by
  induction ms generalizing o with
  | nil => exact ho
  | cons m ms ih => exact ih (.andThen ho fun _ hs => .memberRun hs)

theorem Out.Canonical.attemptGangNow {leader : Nat} {ms : List Nat} (h : s.Canonical) : Out.Canonical (s.attemptGangNow leader ms) := by
  unfold State.attemptGangNow
  extract_lets u
  have h1 : u.Canonical := h
  split
  · exact h1.noteAll
  · exact h1.takeBoundary
  · split
    · exact State.Canonical.halted h1.fetchFailed
    · next u' w hf =>
      have h2 : (u'.begin w ms true).Canonical := (h1.fetchPair hf).begin
      dsimp only
      split
      · split
        · exact .next (.takeTimer h2)
        · exact .andThen (.foldlMembers (.next h2)) fun _ hs => .next <| .foldl (.ite hs.popFetch.gangKeep hs.popFetch.gangKeep.disband)
            fun _ _ hs => hs.afterStep
      · exact State.Canonical.noteAll h2

theorem Out.Canonical.attemptGang {leader : Nat} {ms : List Nat} (h : s.Canonical) : Out.Canonical (s.attemptGang leader ms) := by
  unfold State.attemptGang
  dsimp only
  split
  · exact .attemptGangNow h
  · exact State.Canonical.noteAll h

/-! #### One core -/

theorem State.Canonical.cleared (h : s.Canonical) : s.cleared.Canonical := h

theorem State.Canonical.of_next {o : Out} {t : State} (ho : Out.Canonical o) (h : o = .next t) : t.Canonical := by
  subst h
  exact ho

theorem State.Canonical.noteThread {tid : Nat} (h : s.Canonical) : (s.noteThread tid).Canonical := by
  refine .ite h ?_
  split
  · next hs => exact .ite (State.Canonical.of_next (.attempt h) hs).cleared h
  · exact h

theorem State.Canonical.noteGang {g : Nat × List Nat} (h : s.Canonical) : (s.noteGang g).Canonical := by
  refine .foldl h fun _ _ hs => .ite hs ?_
  dsimp only
  split
  · next ht => exact .ite (State.Canonical.of_next (.attemptGang (updTh hs)) ht).cleared hs
  · exact hs

theorem State.Canonical.noted {cid : Nat} (h : s.Canonical) : (s.noted cid).Canonical :=
  .foldl (.foldl h fun _ _ hs => hs.noteThread) fun _ _ hs => hs.noteGang

theorem State.Canonical.endAttempt {ms : List Nat} (h : s.Canonical) : (s.endAttempt ms).Canonical := .foldl h fun _ _ hs => hs.endCycle

theorem Out.Canonical.cycle {cid : Nat} (h : s.Canonical) : Out.Canonical (s.cycle cid).1 := by
  unfold State.cycle
  dsimp only
  split
  · exact .andThen (.attemptGang (.foldl h.noted fun _ _ hs => hs.noted)) fun _ hs => hs.endAttempt
  · split
    · exact .andThen (.attempt h.noted) fun _ hs => .next <| .endAttempt <| .ite hs.setCore hs
    · exact State.Canonical.endCycle h.noted

/-! #### What the machine does by itself -/

theorem Out.Canonical.itemEvent {id : Nat} {x : Item} (h : s.Canonical) : Out.Canonical (s.itemEvent id x) :=
  match x with
  | .access _ => .memoryAccessAtHome h
  | .reply _ | .result _ _ _ => .loadReply h
  | .put _ _ _ => .putArrival h
  | .ack _ _ _ => .putAcknowledgement h
  | .regPut _ _ _ _ _ => .remoteRegisterWrite h
  | .deliver _ => .deliveryLanding h
  | .sync _ => .syncAccessArrival h
  | .refused _ => .syncReissue h
  | .sending _ _ => .sendDeparture h
  | .message _ => .inboxArrival h
  | .waiting _ _ => .inboxRetry h
  | .record _ _ _ _ _ _ => .ringRecordArrival h
  | .credit _ _ _ _ => .ringCreditReturn h
  | .move _ => .tileMoveCompletion h
  | .plane _ => .planeCompletion h
  | .engine _ _ | .coll _ _ _ => .completionMessage h
  | .matrixDone _ _ _ => .matrixCommandCompletion h
  | .walk _ => .tableWalk h
  | .fault _ _ => .faultMessage h
  | .pager _ _ _ => .pagerReply h
  | .hardware _ _ => .next h.hardware
  | .tlbi _ _ _ _ => .tlbiCompletion h
  | .status _ _ _ | .bind _ _ _ _ _ _ _ => .statusAnswerArrival h

theorem Out.Canonical.packetEvent {die : Nat} {p : Packet} (h : s.Canonical) : Out.Canonical (s.packetEvent die p) :=
  .ite (.switchWake h) (.farNetForward h)

/-- Every event of a list is canonical. -/
def Out.AllCanonical (l : List Out) : Prop := ∀ o ∈ l, Out.Canonical o

theorem Out.AllCanonical.append {l m : List Out} (hl : AllCanonical l) (hm : AllCanonical m) : AllCanonical (l ++ m) := fun o ho =>
  (List.mem_append.mp ho).elim (hl o) (hm o)

theorem Out.AllCanonical.map {α : Type} {l : List α} {f : α → Out} (hf : ∀ a, Out.Canonical (f a)) : AllCanonical (l.map f) := fun _ ho => by
  obtain ⟨a, -, rfl⟩ := List.mem_map.mp ho
  exact hf a

theorem Out.AllCanonical.flattenMap {α : Type} {l : List α} {f : α → List Out} (hf : ∀ a, AllCanonical (f a)) :
    AllCanonical (l.map f).flatten := fun o ho => by
  obtain ⟨m, hm, ho⟩ := List.mem_flatten.mp ho
  obtain ⟨a, -, rfl⟩ := List.mem_map.mp hm
  exact hf a o ho

theorem Out.AllCanonical.nil : AllCanonical [] := fun _ ho => absurd ho List.not_mem_nil

theorem Out.AllCanonical.cons {o : Out} {l : List Out} (ho : Out.Canonical o) (hl : AllCanonical l) : AllCanonical (o :: l) :=
  List.forall_mem_cons.mpr ⟨ho, hl⟩

theorem Out.AllCanonical.ite {c : Prop} {_ : Decidable c} {l m : List Out} (hl : AllCanonical l) (hm : AllCanonical m) :
    AllCanonical (if c then l else m) := by
  split <;> assumption

theorem Out.AllCanonical.threadEvents {tid : Nat} (h : s.Canonical) : AllCanonical (s.threadEvents tid) := by
  refine .append (.append (.append (.append (.append (.append (.append (.append ?_ ?_) ?_) ?_) ?_) ?_) ?_) ?_) ?_
  · exact .ite .nil (.cons (.storeDrain h) .nil)
  · exact .ite (.cons (.slotVacate h) .nil) .nil
  · split
    · exact .cons (.barrierRelease h) .nil
    · exact .nil
  · exact .ite (.cons (.drainThrough h) .nil) .nil
  · exact .ite (.cons (.inheritanceCopy h) .nil) .nil
  · exact .map fun _ => .seamTake h
  · exact .ite (.cons (.windowFill h) (.cons (.windowSpill h) .nil)) .nil
  · exact .ite (.cons (.timerExpiry h) .nil) .nil
  · exact .ite (.cons (.xldTimeout h) .nil) .nil

theorem Out.AllCanonical.pkgEvents {pkg : Nat} (h : s.Canonical) : AllCanonical (s.pkgEvents pkg) :=
  .append (.append (.append (.map fun _ => .groupRetirement h) (.map fun _ => .preemption h)) (.map fun _ => .groupResume h))
    (.cons (.dispatcherRanking h) (.cons (.emberRedistribution h) .nil))

theorem Out.AllCanonical.events (h : s.Canonical) : AllCanonical s.events :=
  .append (.append (.append (.append
    (.map fun _ => .itemEvent h)
    (.flattenMap fun _ => .map fun _ => .packetEvent h))
    (.flattenMap fun _ => .threadEvents h))
    (.map fun _ => .matrixBlock h))
    (.flattenMap fun _ => .pkgEvents h)

theorem Out.Canonical.background (h : s.Canonical) : Out.Canonical s.background := by
  unfold State.background
  cases hf : s.events.find? s.acts with
  | none => exact h
  | some o => exact AllCanonical.events h o (List.mem_of_find?_eq_some hf)

theorem Out.Canonical.auto (h : s.Canonical) : Out.Canonical s.auto :=
  .andThen (.cycle h) fun s' hs =>
    have ht : ({ s' with focus := s'.nextCore s.focus }.passTime 1).Canonical := .passTime hs
    .ite ht (.background ht)

theorem State.Canonical.seen {i : Instr} (h : s.Canonical) : (s.seen i).Canonical := by
  unfold State.seen
  split
  · exact h.noted
  · exact h

theorem Out.Canonical.turn {t : Turn} (h : s.Canonical) : Out.Canonical (s.turn t) :=
  match t with
  | .core _ => .cycle h
  | .event _ => .exec h.seen
  | .time _ => .next h.passTime
  | .prefetch _ => .next h.prefetch

theorem Out.Canonical.step (h : s.Canonical) : Out.Canonical (step s) := by
  unfold Machine.step
  split
  · exact .turn h
  · exact .auto h

end

/-- Settles O57: every way to answer a state, from the storing of bytes up to a turn of the machine, keeps memory canonical. -/
theorem memoryStaysCanonical : Obligations.MemoryStaysCanonical := by
  unfold Obligations.MemoryStaysCanonical
  intro s t h hs
  exact State.Canonical.of_next (.step h) hs

end Sys2Proof.Machine

/-! ### The switches of the far net (03 R61 to R65) -/

namespace Sys2Proof.Machine

/-! #### What a wake signal changes -/

@[simp] theorem Die.wake_packets (d : Die) (n time : Nat) : (d.wake n time).packets = d.packets := by
  unfold Die.wake
  split <;> rfl

@[simp] theorem Die.wake_off (d : Die) (n time : Nat) : (d.wake n time).off = d.off := by
  unfold Die.wake
  split <;> rfl

@[simp] theorem Die.wake_latecnt (d : Die) (n time : Nat) : (d.wake n time).latecnt = d.latecnt := by
  unfold Die.wake
  split <;> rfl

theorem Die.idleFrom_wake {d : Die} {n : Nat} (time : Nat) (h : d.off.contains n = false) :
    lookup 0 (d.wake n time).idleFrom n = time := by
  unfold Die.wake
  rw [if_neg (Bool.eq_false_iff.1 h)]
  exact lookup_insert_self ..

theorem Die.mem_waking_wake {d : Die} {n : Nat} (time : Nat) (h : d.off.contains n = true) : n ∈ (d.wake n time).waking := by
  unfold Die.wake
  rw [if_pos h]
  exact (mem_addKey ..).2 (.inr rfl)

@[simp] theorem Die.awaken_latecnt (d : Die) (p : Packet) (time : Nat) : (d.awaken p time).latecnt = d.latecnt := by simp [Die.awaken]

/-! #### A packet that goes on to the next stage -/

/-- The switch finds that a packet's deadline has passed (03 R64). -/
def Packet.runsLate (p : Packet) (time : BitVec 48) : Bool := !p.nodl && !p.late && passed p.deadline time

/-- A packet on the line of an output of switch `sw`. -/
def Packet.onward (p : Packet) (sw out : Nat) (time : BitVec 48) : Packet :=
  { p with
    stage := p.stage + 1, line := 2 * sw + out, late := p.late || p.runsLate time, since := time.toNat
    lates := if p.runsLate time then p.ids else p.lates }

theorem Packet.late_onward (p : Packet) (sw out : Nat) (time : BitVec 48) :
    (p.onward sw out time).late = (p.late || (!p.nodl && passed p.deadline time)) := by
  simp only [Packet.onward, Packet.runsLate]
  cases p.late <;> simp

/-- Everything but the dies is as before. -/
def State.OnlyDies (s t : State) : Prop := ∃ x, t = { s with dies := x }

theorem State.OnlyDies.refl (s : State) : s.OnlyDies s := ⟨_, rfl⟩

theorem State.OnlyDies.setDie {s t : State} (h : s.OnlyDies t) (d : Nat) (x : Die) : s.OnlyDies (t.setDie d x) := by
  obtain ⟨y, rfl⟩ := h
  exact ⟨_, rfl⟩

/-- The switch looks at a packet's deadline. -/
def State.checked (s : State) (die : Nat) (p : Packet) : State := if p.runsLate s.time then s.countLate die else s

theorem State.onlyDies_checked (s : State) (die : Nat) (p : Packet) : s.OnlyDies (s.checked die p) := by
  unfold State.checked
  split
  · exact .setDie (.refl s) ..
  · exact .refl s

theorem State.time_checked (s : State) (die : Nat) (p : Packet) : (s.checked die p).time = s.time := by
  obtain ⟨x, hx⟩ := s.onlyDies_checked die p
  rw [hx]

theorem State.die_checked (s : State) (die : Nat) (p : Packet) : (s.checked die p).die die =
    { s.die die with latecnt := if p.runsLate s.time then satInc (s.die die).latecnt else (s.die die).latecnt } := by
  unfold State.checked
  split
  · exact State.die_setDie ..
  · rfl

/-- The idle count of the packet's switch starts again, and the packet enters the next stage. -/
def Die.passes (d : Die) (p : Packet) (sw out : Nat) (time : BitVec 48) : Die :=
  let d := { d with idleFrom := insert d.idleFrom (switchNo p.stage sw) time.toNat }
  { d.awaken (p.onward sw out time) time.toNat with packets := d.packets ++ [p.onward sw out time] }

/-- Below the last stage the switch checks the deadline and hands the packet to the next one. -/
theorem State.sendOn_of_lt (s : State) (die sw out : Nat) (p : Packet) (h : p.stage < 6) :
    s.OnlyDies (s.sendOn die sw p out) ∧
      (s.sendOn die sw p out).die die = ((s.checked die p).die die).passes p sw out s.time := by
  have hstage : p.stage + 1 ≠ 7 := by omega
  have htime := s.time_checked die p
  unfold State.sendOn
  extract_lets isLate u d v q e x
  have hv : v.time = s.time := htime
  have he : e = { (s.checked die p).die die with
      idleFrom := insert ((s.checked die p).die die).idleFrom (switchNo p.stage sw) s.time.toNat } := by
    rw [← htime]
    exact State.die_setDie ..
  have hq : q = p.onward sw out s.time := by
    simp only [q, hv]
    rfl
  rw [if_neg hstage]
  refine ⟨.setDie (.setDie (s.onlyDies_checked die p) ..) .., (State.die_setDie ..).trans ?_⟩
  show { e.awaken q v.time.toNat with packets := e.packets ++ [q] } = _
  rw [he, hq, hv]
  rfl

theorem Die.passes_packets (d : Die) (p : Packet) (sw out : Nat) (time : BitVec 48) :
    (d.passes p sw out time).packets = d.packets ++ [p.onward sw out time] := rfl

theorem Die.passes_latecnt (d : Die) (p : Packet) (sw out : Nat) (time : BitVec 48) :
    (d.passes p sw out time).latecnt = d.latecnt := Die.awaken_latecnt ..

/-! #### FAR_NET_FORWARD (03 R61, R62) -/

theorem filter_out_eq_some {o : Option Packet} {p : Packet} {out : Nat} (h : o = some p) (hp : p.out = out) :
    (o.filter fun p => decide (p.out = out)) = some p := by
  simp [h, Option.filter, hp]

theorem filter_out_eq_none {o : Option Packet} {out : Nat} (h : ∀ q, o = some q → q.out ≠ out) :
    (o.filter fun p => decide (p.out = out)) = none := by
  cases o with
  | none => rfl
  | some q => simp [Option.filter, h q rfl]

section
variable {s : State} {die stage sw out : Nat} {p q : Packet}

/-- The only head that is bound for an output goes on. -/
theorem execFarNetForward_of_alone (hon : (s.die die).off.contains (switchNo stage sw) = false) (hp : p.out = out)
    (h : (s.die die).head stage sw 0 = some p ∧ (∀ q, (s.die die).head stage sw 1 = some q → q.out ≠ out) ∨
      (s.die die).head stage sw 1 = some p ∧ ∀ q, (s.die die).head stage sw 0 = some q → q.out ≠ out) :
    execFarNetForward die stage sw out s = .next ((s.setDie die ((s.die die).without p)).sendOn die sw p out) := by
  unfold execFarNetForward
  dsimp only
  rw [if_neg (Bool.eq_false_iff.1 hon)]
  rcases h with ⟨h, hother⟩ | ⟨h, hother⟩
  · rw [filter_out_eq_some h hp, filter_out_eq_none hother]
  · rw [filter_out_eq_some h hp, filter_out_eq_none hother]

/-- Of two heads that are bound for one output the switch makes one packet, or holds one back. -/
theorem execFarNetForward_of_both (hon : (s.die die).off.contains (switchNo stage sw) = false)
    (hp : (s.die die).head stage sw 0 = some p) (hq : (s.die die).head stage sw 1 = some q) (hpo : p.out = out) (hqo : q.out = out) :
    execFarNetForward die stage sw out s =
      if s.joinable p q then .next ((s.setDie die (((s.die die).without p).without q)).sendOn die sw (p.combine q) out)
      else if upperLoses p q s.time then .next ((s.setDie die ((s.die die).without q)).sendOn die sw q out)
      else .next ((s.setDie die ((s.die die).without p)).sendOn die sw p out) := by
  unfold execFarNetForward
  dsimp only
  rw [if_neg (Bool.eq_false_iff.1 hon), filter_out_eq_some hp hpo, filter_out_eq_some hq hqo]
  dsimp only
  split
  · rfl
  · split <;> rfl

end

/-! #### Which head goes first (03 R63) -/

section
variable {p q : Packet} {now : BitVec 48}

theorem upperLoses_of_aged (h : p.aged now = true) : upperLoses p q now = false := by simp [upperLoses, h]

theorem upperLoses_of_other_aged (h : p.aged now = false) (h' : q.aged now = true) : upperLoses p q now = true := by
  simp [upperLoses, h, h']

/-- Where neither head has waited long, deadlines decide. -/
theorem upperLoses_of_not_aged (h : p.aged now = false) (h' : q.aged now = false) :
    upperLoses p q now = if p.nodl then !q.nodl else !q.nodl && earlier q.deadline p.deadline := by
  cases hp : p.nodl <;> cases hq : q.nodl <;> simp [upperLoses, h, h', hp, hq]

end

/-! #### Powering down and waking (03 R65) -/

theorem idleLong_iff (since : Nat) (time : BitVec 48) :
    idleLong since time = true ↔ 5120 ≤ 12 * ((time.toNat + 2 ^ 48 - since) % 2 ^ 48) := by
  simp only [idleLong, decide_eq_true_eq]
  omega

section
variable {s : State} {die stage sw : Nat}

theorem execSwitchPowerDown_of_empty (h0 : (s.die die).head stage sw 0 = none) (h1 : (s.die die).head stage sw 1 = none) :
    execSwitchPowerDown die stage sw s =
      if idleLong (lookup 0 (s.die die).idleFrom (switchNo stage sw)) s.time then
        .next (s.setDie die { s.die die with off := addKey (s.die die).off (switchNo stage sw) })
      else .next s := by
  simp only [execSwitchPowerDown, h0, h1, Option.isNone_none, Bool.true_and]

theorem execSwitchWake_of_waking (h : (s.die die).waking.contains (switchNo stage sw) = true) :
    execSwitchWake die stage sw s = .next (s.setDie die
      { s.die die with
        off := delKey (s.die die).off (switchNo stage sw), waking := delKey (s.die die).waking (switchNo stage sw)
        idleFrom := insert (s.die die).idleFrom (switchNo stage sw) s.time.toNat }) := if_pos h

end

/-! #### The obligation -/

/-- Settles O29, a clause for each thing that a switch does. -/
theorem farNetSwitches : Obligations.FarNetSwitches := by
  unfold Obligations.FarNetSwitches
  refine ⟨?forward, ?arbitrate, ?first, ?powerDown, ?signal, ?wake⟩
  case forward =>
    intro s die stage sw out p d hon hstage hp hout h
    have hlt : p.stage < 6 := hp ▸ hstage
    obtain ⟨⟨x, ht⟩, hdie⟩ := (s.setDie die (d.without p)).sendOn_of_lt die sw out p hlt
    rw [State.die_checked, State.die_setDie] at hdie
    refine ⟨_, p.onward sw out s.time, execFarNetForward_of_alone hon hout h, ?_⟩
    generalize (s.setDie die (d.without p)).sendOn die sw p out = t at ht hdie ⊢
    have hpackets : (t.die die).packets = (d.without p).packets ++ [p.onward sw out s.time] := by
      rw [hdie, Die.passes_packets]
      rfl
    have hlate : (t.die die).latecnt = if p.runsLate s.time then satInc d.latecnt else d.latecnt := by
      rw [hdie, Die.passes_latecnt]; rfl
    subst ht
    refine ⟨hpackets, congrArg (· + 1) hp, rfl, rfl, rfl, rfl, ?_, rfl, rfl, rfl, fun h => ?_, fun hn hl hd => ?_⟩
    · exact p.late_onward sw out s.time
    · have hn : p.runsLate s.time = false := by rcases h with h | h | h <;> simp [Packet.runsLate, h]
      exact ⟨hlate.trans (by rw [hn]; rfl), by simp only [Packet.onward, hn]; rfl⟩
    · have hy : p.runsLate s.time = true := by simp [Packet.runsLate, hn, hl, hd]
      exact ⟨hlate.trans (if_pos hy), if_pos hy⟩
  case arbitrate =>
    intro s die stage sw out p q d hon hp hq hpo hqo
    exact execFarNetForward_of_both hon hp hq hpo hqo
  case first =>
    intro p q now
    refine ⟨upperLoses_of_aged, upperLoses_of_other_aged, fun h h' => ?_⟩
    rw [upperLoses_of_not_aged h h']
    refine ⟨fun hp hq => ?_, fun hp hq => ?_, fun hp hq => ?_, fun hp hq => ?_⟩ <;> simp [hp, hq, earlier]
  case powerDown =>
    intro s die stage sw d h0 h1 idle
    have hidle := idleLong_iff (lookup 0 d.idleFrom (switchNo stage sw)) s.time
    refine ⟨fun h => ?_, fun h => ?_⟩
    · exact (execSwitchPowerDown_of_empty h0 h1).trans (if_pos (hidle.2 h))
    · exact (execSwitchPowerDown_of_empty h0 h1).trans (if_neg fun hl => Nat.not_le.2 h (hidle.1 hl))
  case signal =>
    exact fun d n time => ⟨d.wake_packets n time, d.wake_off n time, d.idleFrom_wake time, d.mem_waking_wake time⟩
  case wake => exact fun s die stage sw => execSwitchWake_of_waking

end Sys2Proof.Machine

/-! ### Full/empty words at their owner (03 R73, R74, R77; 15 R261) -/

namespace Sys2Proof.Machine

/-! #### What leaves the queues and the full bits alone -/

/-- Every queue and every full bit is as before. -/
def State.QueuesKept (s t : State) : Prop := t.deferred = s.deferred ∧ t.empty = s.empty

theorem State.QueuesKept.refl (s : State) : s.QueuesKept s := ⟨rfl, rfl⟩
theorem State.QueuesKept.trans {s t u : State} (h : s.QueuesKept t) (h' : t.QueuesKept u) : s.QueuesKept u :=
  ⟨h'.1.trans h.1, h'.2.trans h.2⟩

theorem State.QueuesKept.waiters {s t : State} (h : s.QueuesKept t) (w : Nat) : t.waiters w = s.waiters w := by
  rw [State.waiters, State.waiters, h.1]
theorem State.QueuesKept.isFull {s t : State} (h : s.QueuesKept t) (k : Nat) : t.isFull k = s.isFull k := by
  rw [State.isFull, State.isFull, h.2]

theorem State.queuesKept_grantLock (s : State) (k : Nat) : s.QueuesKept (s.grantLock k) := by
  unfold State.grantLock
  dsimp only
  split
  · exact .refl s
  · split
    · exact .refl s
    · exact ⟨rfl, rfl⟩

theorem State.queuesKept_settleLocks (s : State) : s.QueuesKept s.settleLocks := by
  refine foldl_keeps State.QueuesKept.refl (fun _ _ _ => State.QueuesKept.trans) _ (fun u k => ?_) _ s
  split
  · exact u.queuesKept_grantLock k
  · exact .refl u

theorem State.queuesKept_areaWord (s : State) (a : Area) (o w : Nat) : s.QueuesKept (s.areaWord a o w) := by
  unfold State.areaWord
  split <;> exact ⟨rfl, rfl⟩

theorem State.queuesKept_refreshSaved (s : State) (t i : Nat) : s.QueuesKept (s.refreshSaved t i) := by
  unfold State.refreshSaved
  dsimp only
  split
  · exact .refl s
  · refine .trans (.trans (.trans ?_ (State.queuesKept_areaWord ..)) (State.queuesKept_areaWord ..)) (State.queuesKept_settleLocks _)
    exact ⟨rfl, rfl⟩

theorem State.threadsKept_areaWord (s : State) (a : Area) (o w : Nat) : s.ThreadsKept (s.areaWord a o w) := by
  unfold State.areaWord
  split <;> exact ⟨rfl, rfl⟩

theorem State.threadsKept_refreshSaved (s : State) (t i : Nat) : s.ThreadsKept (s.refreshSaved t i) := by
  unfold State.refreshSaved
  dsimp only
  split
  · exact .refl s
  · refine .trans (.trans (.trans ?_ (State.threadsKept_areaWord ..)) (State.threadsKept_areaWord ..)) (State.threadsKept_settleLocks _)
    exact ⟨rfl, rfl⟩

theorem State.refreshSaved_of_not_saved {s : State} {t : Nat} (i : Nat) (h : (s.th t).slot ≠ .saved) : s.refreshSaved t i = s := by
  have hs : s.savedOf t = none := if_neg h
  simp only [State.refreshSaved, hs]

/-! #### The queue of a word -/

@[simp] theorem State.waiters_setWaiters_self (s : State) (w : Nat) (l : List Sync) : (s.setWaiters w l).waiters w = l := by
  cases l with
  | nil => exact lookup_erase_self ..
  | cons a l => exact lookup_insert_self ..

theorem State.isFull_of_word (s : State) (k : Nat) : s.isFull (k / 8 * 8) = s.isFull k := by
  rw [State.isFull, State.isFull, Nat.mul_div_cancel _ (by decide)]

/-- An operation that acts on its word joins no queue. -/
theorem State.deferred_actSync (s : State) (a : Sync) : (s.actSync a).deferred = s.deferred := by
  unfold State.actSync
  split
  case h_3 => dsimp only; split <;> rfl
  case h_8 => split <;> rfl
  all_goals rfl

theorem State.waiters_actSync (s : State) (a : Sync) (w : Nat) : (s.actSync a).waiters w = s.waiters w := by
  rw [State.waiters, State.waiters, s.deferred_actSync a]

theorem State.walkAll_of_unwaited {s : State} {w : Nat} (h : s.waiters w = []) : s.walkAll w = s := by
  rw [State.walkAll, h]
  rfl

/-- The head of a word's queue cannot proceed. -/
def State.Stuck (s : State) (w : Nat) : Prop := ∀ h ∈ (s.waiters w).head?, h.op.proceeds (s.isFull (w * 8)) = false

theorem State.Stuck.of_unwaited {s : State} {w : Nat} (h : s.waiters w = []) : s.Stuck w := by
  simp [State.Stuck, h]

theorem State.Stuck.of_cons {s : State} {w : Nat} {a : Sync} {l : List Sync} (h : s.waiters w = a :: l)
    (ha : a.op.proceeds (s.isFull (w * 8)) = false) : s.Stuck w := by
  simpa [State.Stuck, h] using ha

theorem State.Stuck.of_queuesKept {s t : State} {w : Nat} (h : s.Stuck w) (hk : s.QueuesKept t) : t.Stuck w := by
  unfold State.Stuck
  rw [hk.waiters, hk.isFull]
  exact h

/-- The owner's walk ends at a head that cannot proceed, or at an empty queue. -/
theorem State.stuck_walkQueue (s : State) (w fuel : Nat) (h : (s.waiters w).length ≤ fuel) : (s.walkQueue w fuel).Stuck w := by
  induction fuel generalizing s with
  | zero => exact .of_unwaited (List.length_eq_zero_iff.1 (Nat.le_zero.1 h))
  | succ fuel ih =>
    unfold State.walkQueue
    split
    · next hw => exact .of_unwaited hw
    · next a rest hw =>
      split
      · refine ih _ ?_
        rw [State.waiters_actSync, State.waiters_setWaiters_self]
        rw [hw] at h
        exact Nat.le_of_succ_le_succ h
      · next ha => exact .of_cons hw (Bool.eq_false_iff.2 ha)

theorem State.stuck_walkAll (s : State) (w : Nat) : (s.walkAll w).Stuck w := s.stuck_walkQueue w _ le_rfl

/-- A queue that grows at its tail stays stuck, where what joins an empty one cannot proceed. -/
theorem State.Stuck.join {s : State} {w : Nat} {a : Sync} (h : s.Stuck w)
    (ha : s.waiters w = [] → a.op.proceeds (s.isFull (w * 8)) = false) : (s.setWaiters w (s.waiters w ++ [a])).Stuck w := by
  cases hw : s.waiters w with
  | nil => exact .of_cons (State.waiters_setWaiters_self ..) (ha hw)
  | cons b l => exact .of_cons (State.waiters_setWaiters_self ..) (h b (by rw [hw]; rfl))

/-! #### SYNC_ACCESS_ARRIVAL -/

/-- The access with one more retry counted. -/
def Sync.counted (a : Sync) : Sync := { a with count := a.count + 1 }

section
variable {s : State} {id : Nat} {a : Sync}

/-- The access as its packets have it, which may have come late (03 R64). -/
def State.asArrived (s : State) (id : Nat) (a : Sync) : Sync := { a with late := a.late || s.isLate id }

theorem execSyncAccessArrival_of_ready (h : s.item id = some (.sync a)) (harr : s.arrived id = true)
    (hready : s.syncReady id a = true) :
    execSyncAccessArrival id s = .next ((s.unpack [id]).arriveSync id (s.asArrived id a)) := by
  simp only [execSyncAccessArrival, h, harr, hready, Bool.and_self, if_true]
  rfl

theorem execSyncAccessArrival_of_not_ready (h : s.item id = some (.sync a)) (hready : (s.arrived id && s.syncReady id a) = false) :
    execSyncAccessArrival id s = .next s := by
  simp only [execSyncAccessArrival, h, hready, Bool.false_eq_true, if_false]

/-- An operation that finds an empty queue, and its word as it wants it, acts at once. -/
theorem State.arriveSync_of_acts (hw : s.waiters (a.key / 8) = []) (ha : a.op.proceeds (s.isFull a.key) = true) :
    s.arriveSync id a = s.actSync a := by
  have hact : (s.actSync a).walkAll (a.key / 8) = s.actSync a := State.walkAll_of_unwaited ((s.waiters_actSync a _).trans hw)
  simp [State.arriveSync, hw, ha, hact]

/-- An operation that has to wait. -/
def State.mustWait (s : State) (a : Sync) : Bool :=
  a.op.queues && (!(s.waiters (a.key / 8)).isEmpty || !a.op.proceeds (s.isFull a.key))

theorem State.arriveSync_of_room (h : s.mustWait a = true) (hroom : s.pool (ownerOf a.key) < 256) :
    s.arriveSync id a = (s.dropItem id).setWaiters (a.key / 8) (s.waiters (a.key / 8) ++ [a]) :=
  (if_pos h).trans (if_neg (Nat.not_le.2 hroom))

theorem State.arriveSync_of_no_room (h : s.mustWait a = true) (hroom : 256 ≤ s.pool (ownerOf a.key)) :
    s.arriveSync id a =
      if a.counted.over then (s.dropItem id).giveUp a.counted else s.setItem id (.refused a.counted) :=
  (if_pos h).trans (if_pos hroom)

theorem State.arriveSync_of_passes (h : s.mustWait a = false) : s.arriveSync id a = (s.actSync a).walkAll (a.key / 8) :=
  if_neg (Bool.eq_false_iff.1 h)

end

/-! #### An access that gives up -/

section
variable (s : State) (a : Sync)

/-- A load that gives up leaves its register's old value, and makes cause 0x09 pending (03 R77). -/
def Thread.givesUp (t : Thread) (a : Sync) : Thread :=
  { t with
    present := setBitOf t.present a.reg true
    pend := setBitOf t.pend a.reg false
    pending := { t.pending with sync := some (t.pending.sync.getD (a.na, none)) } }

theorem State.giveUp_of_load (h : a.op ≠ .ste) :
    s.giveUp a = (s.updTh a.tid fun t => t.givesUp a).refreshSaved a.tid a.reg := by
  unfold State.giveUp
  split
  · next h' => exact absurd h' h
  · rfl

theorem State.th_giveUp_of_load (h : a.op ≠ .ste) : (s.giveUp a).th a.tid = (s.th a.tid).givesUp a := by
  rw [s.giveUp_of_load a h, (State.threadsKept_refreshSaved ..).th, State.th_updTh]

theorem State.mem_giveUp_of_load (h : a.op ≠ .ste) (hslot : (s.th a.tid).slot ≠ .saved) : (s.giveUp a).mem = s.mem := by
  have hslot : ((s.updTh a.tid fun t => t.givesUp a).th a.tid).slot ≠ .saved := by
    rw [State.th_updTh]
    exact hslot
  rw [s.giveUp_of_load a h, State.refreshSaved_of_not_saved _ hslot]
  rfl

theorem State.queuesKept_giveUp : s.QueuesKept (s.giveUp a) := by
  unfold State.giveUp
  split
  · dsimp only
    split <;> exact ⟨rfl, rfl⟩
  · exact .trans ⟨rfl, rfl⟩ (State.queuesKept_refreshSaved ..)

end

/-- Whatever arrives, the head of its word's queue cannot proceed afterwards if it could not before. -/
theorem State.Stuck.arriveSync {s : State} {a : Sync} (h : s.Stuck (a.key / 8)) (id : Nat) : (s.arriveSync id a).Stuck (a.key / 8) := by
  cases hwait : s.mustWait a with
  | false =>
    rw [State.arriveSync_of_passes hwait]
    exact State.stuck_walkAll _ _
  | true =>
    by_cases hroom : 256 ≤ s.pool (ownerOf a.key)
    · rw [State.arriveSync_of_no_room hwait hroom]
      split
      · exact h.of_queuesKept (.trans ⟨rfl, rfl⟩ (State.queuesKept_giveUp ..))
      · exact h.of_queuesKept ⟨rfl, rfl⟩
    · rw [State.arriveSync_of_room hwait (Nat.not_le.1 hroom)]
      refine State.Stuck.join (s := s.dropItem id) h fun hw => ?_
      have hw : s.waiters (a.key / 8) = [] := hw
      simp only [State.mustWait, hw, List.isEmpty_nil, Bool.not_true, Bool.false_or, Bool.and_eq_true, Bool.not_eq_true'] at hwait
      exact (congrArg _ (s.isFull_of_word a.key)).trans hwait.2

/-- A load waits on an empty word. -/
theorem SyncOp.load_waits {op : SyncOp} {full : Bool} (h : op = .ldf ∨ op = .ldfe) (hf : full = false) :
    op.queues = true ∧ op.proceeds full = false := by
  rcases h with rfl | rfl <;> exact ⟨rfl, hf⟩

/-- An STE waits on a full word. -/
theorem SyncOp.ste_waits {op : SyncOp} {full : Bool} (h : op = .ste) (hf : full = true) :
    op.queues = true ∧ op.proceeds full = false := by
  subst h hf
  exact ⟨rfl, rfl⟩

/-! #### What each operation does to its word (03 R73) -/

section
variable {s : State} {a : Sync}

theorem State.delivery_of_clean (h : s.poisoned a.key 8 = false) :
    s.delivery a = .deliver ⟨a.tid, a.reg, BitVec.ofNat 64 (s.load a.key 8), none, if a.late then some a.na else none⟩ := by
  simp [State.delivery, h]

theorem State.actSync_of_ldf (h : a.op = .ldf) (hclean : s.poisoned a.key 8 = false) :
    s.actSync a = s.setItem a.id (.deliver ⟨a.tid, a.reg, BitVec.ofNat 64 (s.load a.key 8), none, if a.late then some a.na else none⟩) := by
  simp only [State.actSync, h, State.delivery_of_clean hclean]

theorem State.actSync_of_ldfe (h : a.op = .ldfe) (hclean : s.poisoned a.key 8 = false) :
    s.actSync a = (s.setItem a.id (.deliver ⟨a.tid, a.reg, BitVec.ofNat 64 (s.load a.key 8), none,
      if a.late then some a.na else none⟩)).setFull a.key false := by
  simp only [State.actSync, h, State.delivery_of_clean hclean]

/-- The word of an STE or STF takes the value, and is full and unclaimed. -/
def State.fills (s : State) (a : Sync) : State :=
  (((s.dropItem a.id).storeAt a.key (toBytes 8 a.val.toNat)).setFull a.key true).setClaim a.key none

theorem State.actSync_of_ste (h : a.op = .ste) (hpark : (s.th a.tid).park = .sync) :
    s.actSync a = (s.fills a).updTh a.tid Thread.wake := by
  have hpark : ((s.fills a).th a.tid).park = .sync := hpark
  simp only [State.actSync, h]
  exact if_pos hpark

theorem State.actSync_of_stf (h : a.op = .stf) : s.actSync a = s.fills a := by
  simp only [State.actSync, h]
  rfl

theorem State.actSync_of_feclr (h : a.op = .feclr) : s.actSync a = (s.dropItem a.id).setFull a.key false := by
  simp only [State.actSync, h]

theorem State.actSync_of_feset (h : a.op = .feset) :
    s.actSync a = ((s.dropItem a.id).setFull a.key true).setClaim a.key none := by
  simp only [State.actSync, h]

theorem State.actSync_of_feq (h : a.op = .feq) (hw : s.waiters (a.key / 8) = []) (hclean : s.poisoned a.key 8 = false) :
    s.actSync a = s.setItem a.id (.reply
      { tid := a.tid, dst := .reg a.reg, val := (s.isFull a.key).toNat + 4 * (s.claim a.key).isSome.toNat
        late := if a.late then some a.na else none, ways := waysOf (cidOf a.tid) [(a.key, 8)], ea := a.na }) := by
  simp [State.actSync, h, hw, hclean]

theorem State.actSync_of_claim (h : a.op = .claim) :
    s.actSync a = if s.isFull a.key then s.dropItem a.id else (s.dropItem a.id).setClaim a.key (some (a.grp.getD 0)) := by
  simp only [State.actSync, h]

end

/-! #### SYNC_REISSUE -/

section
variable {s : State} {id : Nat} {a : Sync}

theorem execSyncReissue_of_saved (h : s.item id = some (.refused a)) (hs : (s.th a.tid).slot = .saved) :
    execSyncReissue id s = .next s := by
  simp only [execSyncReissue, h, if_pos hs]

theorem execSyncReissue_of_not_saved (h : s.item id = some (.refused a)) (hs : (s.th a.tid).slot ≠ .saved) :
    execSyncReissue id s = .next ((s.setItem id (.sync a)).sendOut id (cidOf a.tid) (s.th a.tid).tenant a.deadline a.op.stores
      [(a.key, 8)]) := by
  simp only [execSyncReissue, h, if_neg hs]

end

/-! #### Retries (03 R77) -/

theorem Sync.over_counted_iff (a : Sync) : a.counted.over = true ↔ a.limit ≠ 0 ∧ a.limit ≤ a.count := by
  show (decide (a.limit ≠ 0) && decide (a.limit < a.count + 1)) = true ↔ _
  rw [Bool.and_eq_true, decide_eq_true_eq, decide_eq_true_eq, Nat.lt_succ_iff]

theorem Sync.over_counted_eq_false {a : Sync} (h : a.limit = 0 ∨ a.count < a.limit) : a.counted.over = false := by
  rw [Bool.eq_false_iff, Ne, a.over_counted_iff]
  omega

/-- The queues with a retry counted for every parked access. -/
def State.retried (s : State) : State := { s with deferred := s.deferred.map fun p => (p.1, p.2.map Sync.counted) }

/-- Parked accesses that exceed their limits leave one queue, which is walked. -/
def State.unlinkOver (s : State) (p : Nat × List Sync) : State :=
  if (p.2.filter Sync.over).isEmpty then s
  else ((p.2.filter Sync.over).foldl State.giveUp (s.setWaiters p.1 (p.2.filter fun a => !a.over))).walkAll p.1

/-- Queues that no saved context holds are counted, and each then loses what exceeds its limit. -/
theorem State.countRetries_of_owned {s : State} (h : ∀ p ∈ s.deferred, p.1 * 8 < 2 ^ 66) :
    s.countRetries = s.retried.deferred.foldl State.unlinkOver s.retried := by
  have hmap : (s.deferred.map fun (p : Nat × List Sync) =>
      if 2 ^ 66 ≤ p.1 * 8 then p else (p.1, p.2.map fun a => { a with count := a.count + 1 })) = s.retried.deferred :=
    List.map_congr_left fun p hp => if_neg (Nat.not_le.2 (h p hp))
  unfold State.countRetries
  rw [hmap]
  rfl

theorem State.unlinkOver_of_none {s : State} {p : Nat × List Sync} (h : ∀ a ∈ p.2, a.over = false) : s.unlinkOver p = s := by
  have hnone : p.2.filter Sync.over = [] := List.filter_eq_nil_iff.2 fun a ha => Bool.eq_false_iff.1 (h a ha)
  exact if_pos (by rw [hnone]; rfl)

theorem State.foldl_unlinkOver_of_none (l : List (Nat × List Sync)) (s : State) (h : ∀ p ∈ l, ∀ a ∈ p.2, a.over = false) :
    l.foldl State.unlinkOver s = s := by
  induction l with
  | nil => rfl
  | cons p l ih =>
    obtain ⟨hp, hl⟩ := List.forall_mem_cons.1 h
    rw [List.foldl_cons, State.unlinkOver_of_none hp]
    exact ih hl

theorem State.countRetries_of_none_over {s : State}
    (h : ∀ p ∈ s.deferred, p.1 * 8 < 2 ^ 66 ∧ ∀ a ∈ p.2, a.limit = 0 ∨ a.count < a.limit) : s.countRetries = s.retried := by
  rw [State.countRetries_of_owned fun p hp => (h p hp).1]
  refine State.foldl_unlinkOver_of_none _ _ fun p hp a ha => ?_
  obtain ⟨q, hq, rfl⟩ := List.mem_map.1 hp
  obtain ⟨b, hb, rfl⟩ := List.mem_map.1 ha
  exact Sync.over_counted_eq_false ((h q hq).2 b hb)

/-- The only parked access leaves its queue as it exceeds its limit. -/
theorem State.countRetries_of_one_over {s : State} {a : Sync} {w : Nat} (hd : s.deferred = [(w, [a])]) (hw : w * 8 < 2 ^ 66)
    (h : a.counted.over = true) : s.countRetries = State.giveUp { s with deferred := [] } a.counted := by
  have howned : ∀ p ∈ s.deferred, p.1 * 8 < 2 ^ 66 := by simpa [hd] using hw
  have hretried : s.retried.deferred = [(w, [a.counted])] := congrArg (List.map _) hd
  have hleft : s.retried.setWaiters w [] = { s with deferred := [] } := by
    simp [State.setWaiters, State.retried, hd, erase]
  rw [State.countRetries_of_owned howned, hretried, List.foldl_cons, List.foldl_nil]
  simp only [State.unlinkOver, List.filter_cons, h, List.filter_nil, List.isEmpty_cons, List.foldl_cons, List.foldl_nil, hleft,
    if_true, Bool.not_true, Bool.false_eq_true, if_false]
  exact State.walkAll_of_unwaited ((State.queuesKept_giveUp ..).waiters w)

/-! #### SYNC_RETRY_TICK -/

theorem execSyncRetryTick_eq (s : State) : execSyncRetryTick s =
    .next { s.countRetries with time := s.countRetries.time + BitVec.ofNat 48 (1024 - s.time.toNat % 1024) } := by
  have hone : (s.time.toNat + (1024 - s.time.toNat % 1024)) / 1024 - s.time.toNat / 1024 = 1 := by omega
  simp only [execSyncRetryTick, State.passTime, hone]
  rfl

theorem toNat_next_tick (t : BitVec 48) : (t + BitVec.ofNat 48 (1024 - t.toNat % 1024)).toNat % 1024 = 0 := by
  rw [BitVec.toNat_add, BitVec.toNat_ofNat]
  omega

/-! #### The obligation -/

/-- Settles O28: what an operation does as it arrives, and what a retry tick does to those that are parked. -/
theorem fullEmptyAtOwner : Obligations.FullEmptyAtOwner := by
  unfold Obligations.FullEmptyAtOwner
  refine ⟨?arrive, ?join, ?stuck, ?reissue, ?tick, ?giveUp⟩
  case arrive =>
    intro s id a hitem hid harr hready hw hclean b due u full v left written go deliver
    subst hid
    have harrive : exec (.syncAccessArrival a.id) s = .next (u.arriveSync a.id b) := execSyncAccessArrival_of_ready hitem harr hready
    have acts {t : State} (hp : a.op.proceeds full = true) (ht : u.actSync b = t) : go t :=
      harrive.trans (congrArg _ ((State.arriveSync_of_acts (s := u) (a := b) hw hp).trans ht))
    have waits (hq : a.op.queues = true) (hp : a.op.proceeds full = false) : u.mustWait b = true := by
      simp [State.mustWait, show b.op = a.op from rfl, hq, show u.isFull b.key = full from rfl, hp]
    have parks (hq : a.op.queues = true) (hp : a.op.proceeds full = false) (hroom : s.pool (ownerOf a.key) < 256) :
        go (left.setWaiters (a.key / 8) [b]) := by
      refine harrive.trans (congrArg _ ((State.arriveSync_of_room (waits hq hp) hroom).trans ?_))
      rw [show u.waiters (b.key / 8) = [] from hw]
      rfl
    have refuses (hq : a.op.queues = true) (hp : a.op.proceeds full = false) (hroom : 256 ≤ s.pool (ownerOf a.key))
        (hlim : a.limit = 0 ∨ a.count < a.limit) : go (u.setItem a.id (.refused { b with count := a.count + 1 })) := by
      refine harrive.trans (congrArg _ ((State.arriveSync_of_no_room (waits hq hp) hroom).trans (if_neg ?_)))
      exact Bool.eq_false_iff.1 (Sync.over_counted_eq_false (a := b) hlim)
    refine ⟨fun hop hf => ?_, fun hop hf => ?_, fun hop hf hpark => ?_, fun hop hf => ?_, fun hop hf => ?_, fun hop hroom hlim => ?_,
      fun hop => ?_, fun hop => ?_, fun hop => ?_, fun hop => ?_, fun hop => ?_⟩
    · exact acts (by rw [hop]; exact hf) (State.actSync_of_ldf (s := u) hop hclean)
    · exact acts (by rw [hop]; exact hf) (State.actSync_of_ldfe (s := u) hop hclean)
    · exact acts (by rw [hop, hf]; rfl) (State.actSync_of_ste (s := u) hop hpark)
    · obtain ⟨hq, hp⟩ := SyncOp.load_waits hop hf
      exact parks hq hp
    · obtain ⟨hq, hp⟩ := SyncOp.ste_waits hop hf
      exact parks hq hp
    · obtain ⟨hq, hp⟩ : a.op.queues = true ∧ a.op.proceeds full = false :=
        hop.elim (fun h => SyncOp.load_waits h.1 h.2) fun h => SyncOp.ste_waits h.1 h.2
      exact refuses hq hp hroom hlim
    · exact acts (by rw [hop]; rfl) (State.actSync_of_stf hop)
    · exact acts (by rw [hop]; rfl) (State.actSync_of_feclr hop)
    · exact acts (by rw [hop]; rfl) (State.actSync_of_feset hop)
    · exact acts (by rw [hop]; rfl) (State.actSync_of_feq (s := u) hop hw hclean)
    · exact acts (by rw [hop]; rfl) (State.actSync_of_claim hop)
  case join =>
    intro s id a hitem harr hready hq hw hroom
    have hwait : (s.unpack [id]).mustWait (s.asArrived id a) = true := by
      rw [State.mustWait, show (s.asArrived id a).op.queues = true from hq, Bool.true_and, Bool.or_eq_true, Bool.not_eq_true']
      exact .inl (List.isEmpty_eq_false_iff.2 hw)
    exact (execSyncAccessArrival_of_ready hitem harr hready).trans (congrArg _ (State.arriveSync_of_room hwait hroom))
  case stuck =>
    intro s t id a hitem ht stuck hs
    cases hready : s.arrived id && s.syncReady id a with
    | false =>
      cases (execSyncAccessArrival_of_not_ready hitem hready).symm.trans ht
      exact hs
    | true =>
      obtain ⟨harr, hready⟩ := Bool.and_eq_true_iff.1 hready
      cases (execSyncAccessArrival_of_ready hitem harr hready).symm.trans ht
      exact State.Stuck.arriveSync (s := s.unpack [id]) (a := s.asArrived id a) hs id
  case reissue => exact fun s id a hitem => ⟨execSyncReissue_of_saved hitem, execSyncReissue_of_not_saved hitem⟩
  case tick =>
    intro s h
    refine ⟨_, execSyncRetryTick_eq s, ?_⟩
    rw [State.countRetries_of_none_over h]
    exact ⟨toNat_next_tick _, rfl, rfl, rfl⟩
  case giveUp =>
    intro s a w hd hw hop h0 hlim hreg
    have hcount := State.countRetries_of_one_over hd hw ((a.over_counted_iff).2 ⟨h0, hlim⟩)
    have hload : a.counted.op ≠ .ste := by
      show a.op ≠ .ste
      rcases hop with h | h <;> rw [h] <;> decide
    have hth : s.countRetries.th a.tid = (s.th a.tid).givesUp a.counted := by
      rw [hcount]
      exact State.th_giveUp_of_load _ _ hload
    refine ⟨_, execSyncRetryTick_eq s, ?_, fun hslot => ?_, congrArg (·.pending.sync) hth, ?_, congrArg (·.regs) hth⟩
    · exact (congrArg (·.deferred) hcount).trans (State.queuesKept_giveUp ..).1
    · exact (congrArg (·.mem) hcount).trans (State.mem_giveUp_of_load { s with deferred := [] } _ hload hslot)
    · exact (congrArg (·.present.getLsbD a.reg) hth).trans ((getLsbD_setBitOf _ _ _ _ hreg).trans (if_pos rfl))

end Sys2Proof.Machine

/-! ### Tile moves and planes (04 R80 to R82; 16 R265 to R269) -/

namespace Sys2Proof.Machine

/-! #### The token and its gate (16 R267) -/

section
variable {s : State}

theorem State.acquireGate_of_open (ha : s.acquiring s.cur = false) : s.acquireGate = .ok () := by
  simp only [State.acquireGate, ha, waitIf_false]

/-- Ready operands and no undelivered acquire let a command of the movement units go on to its checks. -/
theorem State.commandReady {rs ws : List Place} (hr : s.Ready rs ws) (ha : s.acquiring s.cur = false) :
    allOf [s.need rs ws, s.acquireGate] = .ok () :=
  allOf_ok _ (by simp [s.need_of_ready _ _ hr, State.acquireGate_of_open ha])

variable {t : XReg}

theorem State.tokenNeed (ht : s.DstReady (xplace t)) : s.need [] [xplace t] = .ok () :=
  s.need_of_ready _ _ ⟨fun _ h => absurd h List.not_mem_nil, fun _ h => List.mem_singleton.1 h ▸ ht⟩

theorem State.tokenGate_of_room (ht : s.DstReady (xplace t)) (hm : s.moves s.cur < 8) : s.tokenGate t = .ok () :=
  allOf_ok _ (by simp [State.tokenNeed ht, State.moveRoom, Nat.not_le.2 hm])

theorem State.tokenGate_of_full (ht : s.DstReady (xplace t)) (hm : 8 ≤ s.moves s.cur) :
    s.tokenGate t = .error (.wait onMemory) := by
  simp only [State.tokenGate, State.tokenNeed ht, State.moveRoom, hm, decide_true, waitIf_true]
  rfl

theorem State.openToken_frame (s : State) (t : XReg) :
    (s.openToken t).me.present.getLsbD t.val = false ∧ (s.openToken t).me.pend.getLsbD t.val = true ∧
      (s.openToken t).me.regs = s.me.regs ∧ (s.openToken t).mem = s.mem ∧ s.OthersKept (s.openToken t) := by
  have hme : (s.openToken t).me = (s.me.clearPresent t.val).setPend t.val true := s.me_updMe _
  have hpresent := getLsbD_setBitOf s.me.present t.val t.val false t.isLt
  have hpend := getLsbD_setBitOf s.me.pend t.val t.val true t.isLt
  rw [if_pos rfl] at hpresent hpend
  exact ⟨hme ▸ hpresent, hme ▸ hpend, by rw [hme]; rfl, rfl, s.othersKept_updMe _⟩

/-- The last checks of TMOV and PLANE, with their endpoints' addresses: alignment, the token and room; then `x` is outstanding (04 R80). -/
def State.setOff (s : State) (t : XReg) (al dst src : Nat) (x : Item) : R := do
  raiseIf (decide (dst % al ≠ 0)) 0x05 (BitVec.ofNat 64 dst)
  raiseIf (decide (src % 8 ≠ 0)) 0x05 (BitVec.ofNat 64 src)
  s.tokenGate t
  pure ((s.openToken t).post x)

variable {al dst src : Nat} {x : Item}

theorem State.setOff_of_dst_misaligned (hd : dst % al ≠ 0) : s.setOff t al dst src x = .error (.trap 0x05 (BitVec.ofNat 64 dst)) := by
  simp only [State.setOff, decide_eq_true hd, raiseIf_true, except_error_bind]

theorem State.setOff_of_src_misaligned (hd : dst % al = 0) (hsrc : src % 8 ≠ 0) :
    s.setOff t al dst src x = .error (.trap 0x05 (BitVec.ofNat 64 src)) := by
  simp only [State.setOff, decide_eq_false (not_not.2 hd), decide_eq_true hsrc, raiseIf_false, raiseIf_true, except_ok_bind,
    except_error_bind]

variable (hd : dst % al = 0) (hsrc : src % 8 = 0) (ht : s.DstReady (xplace t))
include hd hsrc ht

theorem State.setOff_of_full (hm : 8 ≤ s.moves s.cur) : s.setOff t al dst src x = .error (.wait onMemory) := by
  simp only [State.setOff, decide_eq_false (not_not.2 hd), decide_eq_false (not_not.2 hsrc), raiseIf_false, except_ok_bind,
    State.tokenGate_of_full ht hm, except_error_bind]

theorem State.setOff_of_room (hm : s.moves s.cur < 8) : s.setOff t al dst src x = .ok ((s.openToken t).post x) := by
  simp only [State.setOff, decide_eq_false (not_not.2 hd), decide_eq_false (not_not.2 hsrc), raiseIf_false, except_ok_bind,
    State.tokenGate_of_room ht hm, except_pure]

end

/-! #### TMOV at issue (16 R265 to R267) -/

/-- What a TMOV's shape word says (16 R266). -/
structure Shape where
  rows : Nat
  len : Nat
  dstr : Nat
  sstr : Nat

def shapeOf (h : Word) : Shape := ⟨Fld h 63 56 + 1, 8 * (Fld h 55 45 + 1), 8 * Fld h 44 23, 8 * Fld h 22 1⟩

/-- Bytes from an endpoint's first to its last. -/
def Shape.dstSpan (m : Shape) : Nat := (m.rows - 1) * m.dstr + m.len
def Shape.srcSpan (m : Shape) : Nat := (m.rows - 1) * m.sstr + m.len

/-- Rows or ranges of a move overlap. -/
def Shape.Overlaps (m : Shape) (dk sk : Nat) : Prop :=
  (1 < m.rows ∧ m.dstr < m.len) ∨ (dk < sk + m.srcSpan ∧ sk < dk + m.dstSpan)

theorem Shape.overlaps_iff {m : Shape} {dk sk : Nat} : m.Overlaps dk sk ↔
    ((decide (1 < m.rows) && decide (m.dstr < m.len)) || overlap dk m.dstSpan sk m.srcSpan) = true := by
  simp [Shape.Overlaps, overlap]

section
variable (s : State) (t : XReg) (dw sw : Word) (m : Shape)

/-- The move that a TMOV leaves outstanding. -/
def State.moveOf (dk sk : Nat) : Move :=
  ⟨s.cur, s.src.tenant, s.src.dueBy, t.val, m.rows, m.len, sk, dk, m.sstr, m.dstr, s.foreignEnd dw || s.foreignEnd sw,
    BitVec.ofNat 64 (Fld sw 31 0)⟩

/-- What a TMOV does whose modes allow it. -/
def State.moveInRegions : R :=
  match endKey s.cid dw m.dstSpan .store, endKey s.cid sw m.srcSpan .load with
  | none, _ => .error (.trap 0x03 (BitVec.ofNat 64 (Fld dw 31 0)))
  | some _, none => .error (.trap 0x03 (BitVec.ofNat 64 (Fld sw 31 0)))
  | some dk, some sk => do
    raiseIf ((decide (1 < m.rows) && decide (m.dstr < m.len)) || overlap dk m.dstSpan sk m.srcSpan) 0x03
      (BitVec.ofNat 64 (Fld dw 31 0))
    s.setOff t 8 (Fld dw 31 0) (Fld sw 31 0) (.move (s.moveOf t dw sw m dk sk))

/-- A TMOV once its operands are ready, with whether a reserved bit of them is set. -/
def State.moveTile (bad : Bool) : R := do
  raiseIf bad 0x01 s.iss.word
  raiseIf (endPrivileged s.cid dw m.dstSpan && !s.src.sup) 0x02 (BitVec.ofNat 64 (Fld dw 31 0))
  raiseIf (endPrivileged s.cid sw m.srcSpan && !s.src.sup) 0x02 (BitVec.ofNat 64 (Fld sw 31 0))
  s.moveInRegions t dw sw m

theorem execTmov_eq (da sa sh : XReg) (hr : s.Ready [xplace da, xplace sa, xplace sh] []) (ha : s.acquiring s.cur = false) :
    execTmov t da sa sh s = s.issue fun s => s.moveTile t (s.readX da) (s.readX sa) (shapeOf (s.readX sh))
      (badEndpoint (s.readX da) || badEndpoint (s.readX sa) || (s.readX sh).getLsbD 0) := by
  have hfld (w : Word) : (BitVec.ofNat 64 (Fld w 31 0)).toNat = Fld w 31 0 :=
    (BitVec.toNat_ofNat _ _).trans (Nat.mod_eq_of_lt ((Nat.mod_lt _ (by decide)).trans (by decide)))
  refine congrArg (fun r : R => s.conclude (r.map State.advance)) ?_
  simp only [State.commandReady hr ha, except_ok_bind, hfld]
  rfl

theorem State.moveTile_of_malformed : s.moveTile t dw sw m true = .error (.trap 0x01 s.iss.word) := rfl

theorem State.moveTile_of_dst_privileged (hs : s.src.sup = false) (hd : endPrivileged s.cid dw m.dstSpan = true) :
    s.moveTile t dw sw m false = .error (.trap 0x02 (BitVec.ofNat 64 (Fld dw 31 0))) := by
  simp only [State.moveTile, hs, hd, raiseIf_false, except_ok_bind]; rfl

theorem State.moveTile_of_src_privileged (hs : s.src.sup = false) (hd : endPrivileged s.cid dw m.dstSpan = false)
    (hsrc : endPrivileged s.cid sw m.srcSpan = true) :
    s.moveTile t dw sw m false = .error (.trap 0x02 (BitVec.ofNat 64 (Fld sw 31 0))) := by
  simp only [State.moveTile, hs, hd, hsrc, Bool.false_and, raiseIf_false, except_ok_bind]; rfl

theorem State.moveTile_of_allowed
    (h : s.src.sup = true ∨ (endPrivileged s.cid dw m.dstSpan = false ∧ endPrivileged s.cid sw m.srcSpan = false)) :
    s.moveTile t dw sw m false = s.moveInRegions t dw sw m := by
  rcases h with hs | ⟨hd, hsrc⟩
  · simp only [State.moveTile, hs, Bool.not_true, Bool.and_false, raiseIf_false, except_ok_bind]
  · simp only [State.moveTile, hd, hsrc, Bool.false_and, raiseIf_false, except_ok_bind]

theorem State.moveInRegions_of_dst_outside (hd : endKey s.cid dw m.dstSpan .store = none) :
    s.moveInRegions t dw sw m = .error (.trap 0x03 (BitVec.ofNat 64 (Fld dw 31 0))) := by
  simp only [State.moveInRegions, hd]

theorem State.moveInRegions_of_src_outside (hd : endKey s.cid dw m.dstSpan .store ≠ none)
    (hsrc : endKey s.cid sw m.srcSpan .load = none) :
    s.moveInRegions t dw sw m = .error (.trap 0x03 (BitVec.ofNat 64 (Fld sw 31 0))) := by
  obtain ⟨k, hk⟩ := Option.ne_none_iff_exists'.1 hd
  simp only [State.moveInRegions, hk, hsrc]

variable {m} {dk sk : Nat} (hd : endKey s.cid dw m.dstSpan .store = some dk) (hsrc : endKey s.cid sw m.srcSpan .load = some sk)
include hd hsrc

theorem State.moveInRegions_of_overlaps (ho : m.Overlaps dk sk) :
    s.moveInRegions t dw sw m = .error (.trap 0x03 (BitVec.ofNat 64 (Fld dw 31 0))) := by
  simp only [State.moveInRegions, hd, hsrc, Shape.overlaps_iff.1 ho, raiseIf_true, except_error_bind]

theorem State.moveInRegions_of_apart (ho : ¬m.Overlaps dk sk) :
    s.moveInRegions t dw sw m = s.setOff t 8 (Fld dw 31 0) (Fld sw 31 0) (.move (s.moveOf t dw sw m dk sk)) := by
  simp only [State.moveInRegions, hd, hsrc, Bool.eq_false_iff.2 (mt Shape.overlaps_iff.2 ho), raiseIf_false, except_ok_bind]

end

/-! #### PLANE at issue (16 R268, R269) -/

/-- The endpoints `dw` and `sw` of a PLANE with control word `c` lie in their regions, from the keys `dk` and `sk` on, and so do its scales
where it has them, from `ok` and `ik` on. -/
structure PlaneRanges (cid : Nat) (dw sw c : Word) (f : Fmt) (l : Layout) (dk sk ok ik : Nat) : Prop where
  format : descFmt (Fld c 63 60) = some f
  layout : layout f = some l
  dst : matRegion cid (Fld dw 31 0) l.size = .ok dk
  src : tileRange cid (Fld sw 31 0) (127 * (8 * Fld c 52 32) + rowBytes f) .load = some sk
  apart : overlap dk l.size sk (127 * (8 * Fld c 52 32) + rowBytes f) = false
  plain : Fld c 54 53 = 0 → ok = 0 ∧ ik = 0
  scaled : Fld c 54 53 ≠ 0 → matRegion cid (Fld dw 63 32) (outScales (c.getLsbD 55)) = .ok ok ∧
    tileRange cid (Fld sw 63 32) (inScales (Fld c 54 53) (c.getLsbD 55)) .load = some ik ∧
    (c.getLsbD 55 = false → Fld dw 63 32 % 64 = 0)

theorem PlaneRanges.scales_aligned {cid : Nat} {dw sw c : Word} {f : Fmt} {l : Layout} {dk sk ok ik : Nat}
    (h : PlaneRanges cid dw sw c f l dk sk ok ik) :
    (decide (Fld c 54 53 ≠ 0) && !c.getLsbD 55 && decide (Fld dw 63 32 % 64 ≠ 0)) = false := by
  by_cases hsg : Fld c 54 53 = 0
  · simp [hsg]
  · obtain ⟨-, -, hal⟩ := h.scaled hsg
    cases hb : c.getLsbD 55
    · simp [hal hb]
    · simp

/-- The conversion that a PLANE leaves outstanding. -/
def State.planeOf (s : State) (t : XReg) (sw c : Word) (l : Layout) (dk sk ok ik : Nat) : Plane :=
  ⟨s.cur, s.src.tenant, s.src.dueBy, t.val, Fld c 63 60, if Fld c 59 56 = 0 then l.full else Fld c 59 56, c.getLsbD 55, Fld c 54 53,
    8 * Fld c 52 32, sk, dk, ik, ok, s.src.tx, BitVec.ofNat 64 (Fld sw 31 0), BitVec.ofNat 64 (Fld sw 63 32)⟩

section
variable {s : State} (t : XReg) {da sa ct : XReg} (hr : s.Ready [xplace da, xplace sa, xplace ct] []) (ha : s.acquiring s.cur = false)
include hr ha

theorem execPlane_of_malformed (hbad : badPlane (s.readX ct) = true) :
    execPlane t da sa ct s = .next (s.halted (.trap 0x01 s.iss.word)) :=
  s.issue_error _ _ (by simp only [State.commandReady hr ha, hbad, except_ok_bind, raiseIf_true, except_error_bind])

theorem execPlane_of_ranges (hbad : badPlane (s.readX ct) = false) (hs : s.src.sup = true) (hhob : isHob s.cid = false) {f : Fmt}
    {l : Layout} {dk sk ok ik : Nat} (h : PlaneRanges s.cid (s.readX da) (s.readX sa) (s.readX ct) f l dk sk ok ik) :
    execPlane t da sa ct s = s.issue fun s => s.setOff t 2048 (Fld (s.readX da) 31 0) (Fld (s.readX sa) 31 0)
      (.plane (s.planeOf t (s.readX sa) (s.readX ct) l dk sk ok ik)) := by
  refine congrArg (fun r : R => s.conclude (r.map State.advance)) ?_
  simp only [State.commandReady hr ha, hbad, h.format, h.layout, hs, hhob, h.dst, h.src, h.apart, h.scales_aligned, except_ok_bind,
    raiseIf_false, Bool.false_and, Bool.false_eq_true, if_false]
  split
  · next huser => cases huser
  by_cases hsg : Fld (s.readX ct) 54 53 = 0
  · obtain ⟨rfl, rfl⟩ := h.plain hsg
    simp only [if_pos hsg, except_pure, except_ok_bind]; rfl
  · obtain ⟨hok, hik, -⟩ := h.scaled hsg
    simp only [if_neg hsg, hok, hik, except_ok_bind]; rfl

end

/-! #### States that read alike, and writes of memory alone -/

/-- Memory, its poison and every ring are as before, so that every load reads as before. -/
structure State.ReadsKept (s t : State) : Prop where
  mem : t.mem = s.mem
  poison : t.poison = s.poison
  rings (u : Nat) : (t.th u).rings = (s.th u).rings

namespace State.ReadsKept
variable {s t u : State}

theorem trans (h : s.ReadsKept t) (h' : t.ReadsKept u) : s.ReadsKept u :=
  ⟨h'.mem.trans h.mem, h'.poison.trans h.poison, fun v => (h'.rings v).trans (h.rings v)⟩

theorem of_threads (hm : t.mem = s.mem) (hp : t.poison = s.poison) (ht : t.threads = s.threads) : s.ReadsKept t :=
  ⟨hm, hp, fun u => by rw [State.th, State.th, ht]⟩

theorem of_updTh (tid : Nat) (f : Thread → Thread) (hf : ∀ t : Thread, (f t).rings = t.rings) : s.ReadsKept (s.updTh tid f) :=
  ⟨rfl, rfl, fun u => by
    rcases eq_or_ne u tid with rfl | hu
    · rw [State.th_updTh, hf]
    · rw [State.th_updTh_of_ne _ _ _ _ hu]⟩

theorem hidden (h : s.ReadsKept t) (a : Nat) : t.hidden a = s.hidden a := State.hidden_congr h.rings a
theorem load (h : s.ReadsKept t) (a n : Nat) : t.load a n = s.load a n :=
  State.load_congr (fun _ _ => h.hidden _) fun _ _ => by rw [h.mem]
theorem poisoned (h : s.ReadsKept t) (a n : Nat) : t.poisoned a n = s.poisoned a n := by
  simp only [State.poisoned, h.poison, h.hidden]

end State.ReadsKept

theorem State.PortsPassed.th {s t : State} (h : s.PortsPassed t) (u : Nat) : t.th u = s.th u := by
  rw [State.th, State.th, h.threads]

/-- Nothing but memory and its poison changes, unless accesses are parked. -/
def State.WritesMemory (s t : State) : Prop := s.deferred = [] → t = { s with mem := t.mem, poison := t.poison }

namespace State.WritesMemory
variable {s t u : State}

theorem refl (s : State) : s.WritesMemory s := fun _ => rfl
theorem trans (h : s.WritesMemory t) (h' : t.WritesMemory u) : s.WritesMemory u := fun hd => by
  have ht := h hd
  have hu := h' (by rw [ht]; exact hd)
  rw [hu, ht]
theorem foldl {α : Type} {f : State → α → State} (hf : ∀ (s : State) a, s.WritesMemory (f s a)) (l : List α) (s : State) :
    s.WritesMemory (l.foldl f s) :=
  foldl_keeps State.WritesMemory.refl (fun _ _ _ => State.WritesMemory.trans) f hf l s
theorem ite {c : Prop} {_ : Decidable c} (h : s.WritesMemory t) (h' : s.WritesMemory u) : s.WritesMemory (if c then t else u) := by
  split <;> assumption

variable (h : s.WritesMemory t) (hd : s.deferred = [])
include h hd

theorem threads : t.threads = s.threads := by rw [h hd]
theorem flight : t.flight = s.flight := by rw [h hd]
theorem locks : t.locks = s.locks := by rw [h hd]
theorem th (v : Nat) : t.th v = s.th v := by rw [State.th, State.th, h.threads hd]
theorem item (id : Nat) : t.item id = s.item id := by rw [State.item, State.item, h.flight hd]
theorem hidden (a : Nat) : t.hidden a = s.hidden a := State.hidden_of_threads (h.threads hd) a

end State.WritesMemory

theorem State.writesMemory_storeAt (s : State) (k : Nat) (data : List Byte) : s.WritesMemory (s.storeAt k data) := fun _ => rfl

theorem State.writesMemory_writePoison (s : State) (k : Nat) : s.WritesMemory (s.writePoison k) := fun hd => by
  unfold State.writePoison
  split
  · rfl
  by_cases h : k / 8 ∈ s.poison
  · rw [s.spoil_of_poisoned k h]
  · rw [s.spoil_of_unwaited k h (by simp [hd])]; rfl

theorem State.writesMemory_copyWord (s u : State) (cut : List (Nat × Nat)) (a b : Nat) : u.WritesMemory (s.copyWord cut u a b) :=
  .ite (.refl u) (.ite (u.writesMemory_writePoison b)
    (.ite ((u.writesMemory_storeAt b _).trans (State.writesMemory_writePoison _ b)) (u.writesMemory_storeAt b _)))

theorem State.writesMemory_copyRun (s : State) (src dst n : Nat) (cut : List (Nat × Nat)) : s.WritesMemory (s.copyRun src dst n cut) := by
  rw [s.copyRun_eq]
  exact .foldl (fun u i => s.writesMemory_copyWord u cut (src + 8 * i) (dst + 8 * i)) _ _

/-! #### The token lands (04 R80) -/

theorem Thread.noteLate_eq (t : Thread) (late : Option Word) : t.noteLate late = { t with pending := (t.noteLate late).pending } := by
  unfold Thread.noteLate
  cases late with
  | none => rfl
  | some ea => dsimp only; split <;> rfl

/-- A late read is noted while DEADLINE.LTE is set, and the first one counts (03 R64). -/
theorem Thread.noteLate_late (t : Thread) (b : Bool) (ea : Word) :
    (t.noteLate (if b then some ea else none)).pending.late =
      if b && t.sys.deadline.getLsbD 63 then some (t.pending.late.getD ea) else t.pending.late := by
  unfold Thread.noteLate
  cases b
  · rfl
  cases t.sys.deadline.getLsbD 63
  · rfl
  cases h : t.pending.late <;> simp [h]

/-- A register holds a value that has been delivered. -/
def Thread.Holds (t : Thread) (i : Nat) (w : Word) : Prop :=
  t.reg i = w ∧ t.present.getLsbD i = true ∧ t.pend.getLsbD i = false

theorem Thread.holds_setReg_setPend (t : Thread) {i : Nat} (w : Word) (hi : i < 32) : ((t.setReg i w).setPend i false).Holds i w := by
  have hpresent := getLsbD_setBitOf t.present i i true hi
  have hpend := getLsbD_setBitOf t.pend i i false hi
  rw [if_pos rfl] at hpresent hpend
  exact ⟨t.reg_setReg ⟨i, hi⟩ w, hpresent, hpend⟩

section
variable {s : State} {tid tok : Nat} {w : Word} (hslot : (s.th tid).slot ≠ .vacant)
include hslot

theorem State.landToken_of_present : s.landToken tid tok w = s.updTh tid fun t => (t.setReg tok w).setPend tok false := if_neg hslot

theorem State.readsKept_landToken : s.ReadsKept (s.landToken tid tok w) := by
  rw [State.landToken_of_present hslot]
  exact .of_updTh tid _ fun _ => rfl

theorem State.holds_landToken (htok : tok < 32) :
    ((s.landToken tid tok w).th tid).Holds tok w := by
  rw [State.landToken_of_present hslot, State.th_updTh]
  exact (s.th tid).holds_setReg_setPend w htok

theorem State.item_landToken (id : Nat) :
    (s.landToken tid tok w).item id = s.item id := by
  rw [State.landToken_of_present hslot]; rfl

theorem State.landMove_of_present (late : Option Word) :
    s.landMove tid tok w late = (s.updTh tid fun t => (t.setReg tok w).setPend tok false).updTh tid fun t => t.noteLate late := by
  rw [← State.landToken_of_present hslot]
  exact if_neg hslot

theorem State.readsKept_landMove (late : Option Word) : s.ReadsKept (s.landMove tid tok w late) := by
  rw [State.landMove_of_present hslot, ← State.landToken_of_present hslot]
  exact (State.readsKept_landToken hslot).trans (.of_updTh tid _ fun t => (t.noteLate_frame late).2.1)

theorem State.th_landMove (late : Option Word) :
    (s.landMove tid tok w late).th tid = (((s.th tid).setReg tok w).setPend tok false).noteLate late := by
  rw [State.landMove_of_present hslot, State.th_updTh, State.th_updTh]

theorem State.th_landMove_of_ne (late : Option Word) {u : Nat} (hu : u ≠ tid) : (s.landMove tid tok w late).th u = s.th u := by
  rw [State.landMove_of_present hslot, State.th_updTh_of_ne _ _ _ _ hu, State.th_updTh_of_ne _ _ _ _ hu]

theorem State.item_landMove (late : Option Word) (id : Nat) : (s.landMove tid tok w late).item id = s.item id := by
  rw [State.landMove_of_present hslot]; rfl

theorem State.holds_landMove (late : Option Word) (htok : tok < 32) : ((s.landMove tid tok w late).th tid).Holds tok w := by
  rw [State.th_landMove hslot, Thread.noteLate_eq]
  exact (s.th tid).holds_setReg_setPend w htok

end

/-! #### What crosses the net leaves the items before it alone -/

/-- Items with stamps below the next one are as before. -/
structure State.OlderKept (s t : State) : Prop where
  serial : s.serial ≤ t.serial
  item (id : Nat) : id < s.serial → t.item id = s.item id

theorem State.OlderKept.refl (s : State) : s.OlderKept s := ⟨Nat.le_refl _, fun _ _ => rfl⟩
theorem State.OlderKept.trans {s t u : State} (h : s.OlderKept t) (h' : t.OlderKept u) : s.OlderKept u :=
  ⟨h.serial.trans h'.serial, fun id hid => (h'.item id (hid.trans_le h.serial)).trans (h.item id hid)⟩
theorem State.OlderKept.foldl {α : Type} (f : State → α → State) (hf : ∀ (s : State) a, s.OlderKept (f s a)) (l : List α)
    (s : State) : s.OlderKept (l.foldl f s) :=
  foldl_keeps State.OlderKept.refl (fun _ _ _ => State.OlderKept.trans) f hf l s
theorem State.OlderKept.of_flight {s t : State} (hs : t.serial = s.serial) (hf : t.flight = s.flight) : s.OlderKept t :=
  ⟨hs.ge, fun id _ => by rw [State.item, State.item, hf]⟩

theorem State.olderKept_post (s : State) (x : Item) : s.OlderKept (s.post x) :=
  ⟨Nat.le_succ _, fun id hid => by rw [State.item_post, if_neg hid.ne]⟩

theorem State.olderKept_refuse (s : State) (die port cid tenant k : Nat) (wr : Bool) :
    s.OlderKept (s.refuse die port cid tenant k wr) := by
  refine .trans ?_ (State.olderKept_post _ _)
  cases isLocalKey k <;> exact .of_flight rfl rfl

theorem State.olderKept_wakePkg (s : State) (p : Nat) : s.OlderKept (s.wakePkg p) := by
  unfold State.wakePkg
  split
  · exact .refl s
  · exact .of_flight rfl rfl

theorem State.olderKept_crossing (s : State) (cid tenant deadline : Nat) (wr : Bool) (runs : List (Nat × Nat)) :
    s.OlderKept (s.crossing cid tenant deadline wr runs) := by
  have hpast : s.OlderKept (s.countPast cid deadline runs) := by
    unfold State.countPast
    split
    · exact .foldl (fun u _ => u.countLate (didOf cid)) (fun _ _ => .of_flight rfl rfl) _ _
    · exact .refl s
  refine (hpast.trans (.foldl _ (fun u q => ?_) _ _)).trans (.foldl _ (fun u r => ?_) _ _)
  · exact u.olderKept_refuse _ _ _ _ _ _
  · cases wr
    · exact (u.olderKept_wakePkg _).trans (State.olderKept_wakePkg _ _)
    · exact u.olderKept_wakePkg _

/-! #### Rows that are copied one after the other -/

/-- An aligned word is poisoned where its own poison stands and no bound channel descriptor covers it. -/
theorem State.poisoned_aligned_iff (s : State) {a : Nat} (ha : a % 8 = 0) :
    s.poisoned a 8 = true ↔ a / 8 ∈ s.poison ∧ s.hidden a = false := by
  simp only [State.poisoned, List.any_eq_true, Bool.and_eq_true, decide_eq_true_eq, Bool.not_eq_true']
  constructor
  · rintro ⟨w, hw, ⟨hlo, hhi⟩, hh⟩
    obtain rfl : a = w * 8 := by omega
    exact ⟨by rwa [Nat.mul_div_cancel _ (by decide)], hh⟩
  · rintro ⟨hw, hh⟩
    have hword : a / 8 * 8 = a := by omega
    exact ⟨a / 8, hw, by omega, by rwa [hword]⟩

/-- A copied word as loads see it. -/
theorem State.WordCopied.reads {s v : State} {cut : List (Nat × Nat)} {a b : Nat} (h : s.WordCopied s v cut a b) (hb : b % 8 = 0)
    (hs : s.hidden b = false) (hv : v.hidden b = false) :
    (inRuns cut b = true → v.load b 8 = s.load b 8 ∧ v.poisoned b 8 = s.poisoned b 8) ∧
    (inRuns cut b = false → inRuns cut a = true → v.load b 8 = s.load b 8 ∧ v.poisoned b 8 = true) ∧
    (inRuns cut b = false → inRuns cut a = false → v.load b 8 = s.load a 8 ∧ v.poisoned b 8 = s.poisoned a 8) := by
  have hvb := v.poisoned_word_iff b hb hv
  unfold State.WordCopied at h
  refine ⟨fun hcut => ?_, fun hcut hsrc => ?_, fun hcut hsrc => ?_⟩
  · rw [if_pos hcut] at h
    exact ⟨h.1, Bool.eq_iff_iff.2 (hvb.trans (h.2.trans (s.poisoned_word_iff b hb hs).symm))⟩
  · rw [if_neg (Bool.eq_false_iff.1 hcut), if_pos hsrc] at h
    exact ⟨h.1, hvb.2 h.2⟩
  · rw [if_neg (Bool.eq_false_iff.1 hcut), if_neg (Bool.eq_false_iff.1 hsrc)] at h
    exact ⟨h.1, Bool.eq_iff_iff.2 (hvb.trans h.2)⟩

/-- The first `m` rows of a move are copied. -/
def State.copyRows (s : State) (x : Move) (cut : List (Nat × Nat)) (m : Nat) : State :=
  (List.range m).foldl (fun s r => s.copyRun (x.src + r * x.sstr) (x.dst + r * x.dstr) x.len cut) s

theorem State.copyRows_succ (s : State) (x : Move) (cut : List (Nat × Nat)) (m : Nat) :
    s.copyRows x cut (m + 1) = (s.copyRows x cut m).copyRun (x.src + m * x.sstr) (x.dst + m * x.dstr) x.len cut := by
  simp only [State.copyRows, List.range_succ, List.foldl_append, List.foldl_cons, List.foldl_nil]

theorem State.writesMemory_copyRows (s : State) (x : Move) (cut : List (Nat × Nat)) (m : Nat) : s.WritesMemory (s.copyRows x cut m) :=
  .foldl (fun u _ => u.writesMemory_copyRun _ _ _ cut) _ _

/-- The words of a move are aligned and its rows stand apart: those of the destination from each other and from those of the source. -/
structure Move.Regular (x : Move) : Prop where
  src : x.src % 8 = 0
  dst : x.dst % 8 = 0
  len : x.len % 8 = 0
  sstr : x.sstr % 8 = 0
  dstr : x.dstr % 8 = 0
  rows : 1 < x.rows → x.len ≤ x.dstr
  apart (a : Nat) : x.dst ≤ a → a < x.dst + ((x.rows - 1) * x.dstr + x.len) →
    a < x.src ∨ x.src + ((x.rows - 1) * x.sstr + x.len) ≤ a

namespace Move.Regular
variable {x : Move} (h : x.Regular) {q r : Nat}
include h

theorem src_row (r : Nat) : (x.src + r * x.sstr) % 8 = 0 := by
  have hs := h.src
  have hm : r * x.sstr % 8 = 0 := by rw [Nat.mul_mod, h.sstr, Nat.mul_zero]
  omega

theorem dst_row (r : Nat) : (x.dst + r * x.dstr) % 8 = 0 := by
  have hs := h.dst
  have hm : r * x.dstr % 8 = 0 := by rw [Nat.mul_mod, h.dstr, Nat.mul_zero]
  omega

/-- A row ends before the next one begins. -/
theorem row_end (hqr : q < r) (hr : r < x.rows) : q * x.dstr + x.len ≤ r * x.dstr := by
  have hlen := h.rows (by omega)
  have hmul : (q + 1) * x.dstr ≤ r * x.dstr := Nat.mul_le_mul_right _ hqr
  rw [Nat.add_mul] at hmul
  omega

/-- A row of the source and one of the destination have no byte in common. -/
theorem rows_apart (hq : q < x.rows) (hr : r < x.rows) :
    x.src + r * x.sstr + x.len ≤ x.dst + q * x.dstr ∨ x.dst + q * x.dstr + x.len ≤ x.src + r * x.sstr := by
  have hsrc : r * x.sstr ≤ (x.rows - 1) * x.sstr := Nat.mul_le_mul_right _ (by omega)
  have hdst : q * x.dstr ≤ (x.rows - 1) * x.dstr := Nat.mul_le_mul_right _ (by omega)
  by_contra hmeet
  have := h.apart (max (x.dst + q * x.dstr) (x.src + r * x.sstr)) (by omega) (by omega)
  omega

end Move.Regular

/-- What the first `m` rows of a move leave: their own words copied, and every other word as before. -/
structure State.RowsCopied (s t : State) (x : Move) (cut : List (Nat × Nat)) (m : Nat) : Prop where
  context : s.ContextKept t
  mem (a : Nat) : (∀ r, r < m → a < x.dst + r * x.dstr ∨ x.dst + r * x.dstr + x.len ≤ a) → readByte t.mem a = readByte s.mem a
  poison (w : Nat) : (∀ r, r < m → w * 8 + 8 ≤ x.dst + r * x.dstr ∨ x.dst + r * x.dstr + x.len ≤ w * 8) →
    (w ∈ t.poison ↔ w ∈ s.poison)
  words (r i : Nat) : r < m → 8 * i < x.len → s.WordCopied s t cut (x.src + r * x.sstr + 8 * i) (x.dst + r * x.dstr + 8 * i)

namespace State.RowsCopied
variable {s t : State} {x : Move} {cut : List (Nat × Nat)} {m : Nat} (h : s.RowsCopied t x cut m)
include h

theorem hidden (a : Nat) : t.hidden a = s.hidden a := State.hidden_congr h.context.rings a

/-- A word outside the rows is as before. -/
theorem load_outside {a : Nat} (hout : ∀ r, r < m → a + 8 ≤ x.dst + r * x.dstr ∨ x.dst + r * x.dstr + x.len ≤ a) :
    t.load a 8 = s.load a 8 :=
  State.load_congr (fun _ _ => h.hidden _) fun i hi => h.mem _ fun r hr => by have := hout r hr; omega

theorem poison_outside {a : Nat} (ha : a % 8 = 0)
    (hout : ∀ r, r < m → a + 8 ≤ x.dst + r * x.dstr ∨ x.dst + r * x.dstr + x.len ≤ a) :
    a / 8 ∈ t.poison ↔ a / 8 ∈ s.poison :=
  h.poison _ fun r hr => by have := hout r hr; omega

theorem poisoned_outside {a : Nat} (ha : a % 8 = 0)
    (hout : ∀ r, r < m → a + 8 ≤ x.dst + r * x.dstr ∨ x.dst + r * x.dstr + x.len ≤ a) : t.poisoned a 8 = s.poisoned a 8 :=
  Bool.eq_iff_iff.2 (by rw [t.poisoned_aligned_iff ha, s.poisoned_aligned_iff ha, h.hidden, h.poison_outside ha hout])

end State.RowsCopied

/-- Each row of a regular move is copied from what the source held before the first. -/
theorem State.copyRows_spec (s : State) (cut : List (Nat × Nat)) {x : Move} (hx : x.Regular)
    (hshown : ∀ r j, r < x.rows → j < x.len → s.hidden (x.dst + r * x.dstr + j) = false) {m : Nat} (hm : m ≤ x.rows) :
    s.RowsCopied (s.copyRows x cut m) x cut m := by
  induction m with
  | zero => exact ⟨.refl s, fun _ _ => rfl, fun _ _ => Iff.rfl, fun r i hr => absurd hr (Nat.not_lt_zero r)⟩
  | succ m ih =>
    have h := ih (by omega)
    rw [s.copyRows_succ]
    generalize s.copyRows x cut m = u at h
    have hlen : 8 * (x.len / 8) = x.len := by have := hx.len; omega
    obtain ⟨hkept, hwords⟩ := u.copyWords_spec (x.src + m * x.sstr) (x.dst + m * x.dstr) cut (x.len / 8) (hx.dst_row m) fun j hj => by
      rw [h.hidden]; exact hshown m j hm (by omega)
    rw [← u.copyRun_eq, hlen] at hkept
    rw [← u.copyRun_eq] at hwords
    refine ⟨h.context.trans hkept.context, fun a ha => ?_, fun w hw => ?_, fun r i hr hi => ?_⟩
    · exact (hkept.mem a (ha m (Nat.lt_succ_self m))).trans (h.mem a fun r hr => ha r (hr.trans (Nat.lt_succ_self m)))
    · exact (hkept.poison w (hw m (Nat.lt_succ_self m))).trans (h.poison w fun r hr => hw r (hr.trans (Nat.lt_succ_self m)))
    have hlen := hx.len
    have hb := hx.dst_row r
    rcases Nat.lt_succ_iff_lt_or_eq.1 hr with hr | rfl
    · have hend := hx.row_end hr hm
      have hload := hkept.load (x.dst + r * x.dstr + 8 * i) (by omega)
      have hpoison := hkept.poison ((x.dst + r * x.dstr + 8 * i) / 8) (by omega)
      have hw := h.words r i hr hi
      unfold State.WordCopied at hw ⊢
      rwa [hload, hpoison]
    · have hdst := h.load_outside (a := x.dst + r * x.dstr + 8 * i) fun q hq => by have := hx.row_end hq hm; omega
      have hdst' := h.poison_outside (a := x.dst + r * x.dstr + 8 * i) (by omega) fun q hq => by have := hx.row_end hq hm; omega
      have hsrc (q : Nat) (hq : q < r) := hx.rows_apart (q := q) (r := r) (by omega) hm
      have hload := h.load_outside (a := x.src + r * x.sstr + 8 * i) fun q hq => by have := hsrc q hq; omega
      have ha := hx.src_row r
      have hpoisoned := h.poisoned_outside (a := x.src + r * x.sstr + 8 * i) (by omega) fun q hq => by have := hsrc q hq; omega
      have hw := hwords i (by omega)
      unfold State.WordCopied at hw ⊢
      rwa [hdst, hdst', hload, hpoisoned] at hw

/-! #### TILE_MOVE_COMPLETION (04 R80, R81) -/

/-- The words that ports cut off from a move. -/
def State.moveCut (s : State) (x : Move) : List (Nat × Nat) :=
  s.cutOff (cidOf x.tid) x.tenant (rowsOf x.src x.sstr x.rows x.len ++ rowsOf x.dst x.dstr x.rows x.len)

/-- A move's packets cross the net. -/
def State.moveCrosses (s : State) (x : Move) : State :=
  (s.crossing (cidOf x.tid) x.tenant x.deadline false (rowsOf x.src x.sstr x.rows x.len)).crossing (cidOf x.tid) x.tenant x.deadline true
    (rowsOf x.dst x.dstr x.rows x.len)

section
variable {s : State} {id : Nat} {x : Move} (hitem : s.item id = some (.move x))
include hitem

theorem execTileMoveCompletion_of_undrained (hd : s.drained x.tid id = false) : execTileMoveCompletion id s = .next s := by
  simp only [execTileMoveCompletion, hitem, hd, Bool.not_false, if_true]

variable (hd : s.drained x.tid id = true)
include hd

theorem execTileMoveCompletion_of_refused (href : x.refused = true) :
    execTileMoveCompletion id s = .next ((s.dropItem id).landToken x.tid x.tok tokenRefused) := by
  simp only [execTileMoveCompletion, hitem, hd, href, Bool.not_true, Bool.false_eq_true, if_false, if_true]

theorem execTileMoveCompletion_of_allowed (href : x.refused = false) :
    execTileMoveCompletion id s = .next ((((s.dropItem id).moveCrosses x).copyRows x (s.moveCut x) x.rows).settleLocks.landMove x.tid x.tok
      (BitVec.ofNat 64 (x.rows * x.len)) (if s.pastDue x.deadline (rowsOf x.src x.sstr x.rows x.len) then some x.ea else none)) := by
  simp only [execTileMoveCompletion, hitem, hd, href, Bool.not_true, Bool.false_eq_true, if_false]
  rfl

end

theorem State.portsPassed_moveCrosses (s : State) (x : Move) : s.PortsPassed (s.moveCrosses x) :=
  (s.portsPassed_crossing _ _ _ _ _).trans (State.portsPassed_crossing _ _ _ _ _ _)

theorem State.olderKept_moveCrosses (s : State) (x : Move) : s.OlderKept (s.moveCrosses x) :=
  (s.olderKept_crossing _ _ _ _ _).trans (State.olderKept_crossing _ _ _ _ _ _)

/-- What a move leaves whose words no access waits for. -/
theorem State.moved_spec (s : State) (id : Nat) {x : Move} (hx : x.Regular) (hslot : (s.th x.tid).slot ≠ .vacant) (htok : x.tok < 32)
    (hid : id < s.serial) (hlocks : s.locks = []) (hdef : s.deferred = [])
    (hshown : ∀ r j, r < x.rows → j < x.len → s.hidden (x.dst + r * x.dstr + j) = false) (w : Word) (late : Option Word) :
    let cut := s.moveCut x
    let v := ((s.dropItem id).moveCrosses x).copyRows x cut x.rows
    let u := v.settleLocks.landMove x.tid x.tok w late
    (u.th x.tid).Holds x.tok w ∧ u.item id = none ∧
      (∀ r i, r < x.rows → 8 * i < x.len →
        let a := x.src + r * x.sstr + 8 * i
        let b := x.dst + r * x.dstr + 8 * i
        (inRuns cut b = true → u.load b 8 = s.load b 8 ∧ u.poisoned b 8 = s.poisoned b 8) ∧
        (inRuns cut b = false → inRuns cut a = true → u.load b 8 = s.load b 8 ∧ u.poisoned b 8 = true) ∧
        (inRuns cut b = false → inRuns cut a = false → u.load b 8 = s.load a 8 ∧ u.poisoned b 8 = s.poisoned a 8)) ∧
      (∀ a, (∀ r, r < x.rows → a < x.dst + r * x.dstr ∨ x.dst + r * x.dstr + x.len ≤ a) →
        readByte u.mem a = readByte s.mem a) ∧
      u.th x.tid = (((s.th x.tid).setReg x.tok w).setPend x.tok false).noteLate late := by
  intro cut v u
  have hports := (s.dropItem id).portsPassed_moveCrosses x
  have holder := (s.dropItem id).olderKept_moveCrosses x
  have hreads : s.ReadsKept ((s.dropItem id).moveCrosses x) := .of_threads hports.mem hports.poison hports.threads
  have hdef' : ((s.dropItem id).moveCrosses x).deferred = [] := hports.deferred.trans hdef
  have hwrites : ((s.dropItem id).moveCrosses x).WritesMemory v := State.writesMemory_copyRows _ x cut x.rows
  have hrows : ((s.dropItem id).moveCrosses x).RowsCopied v x cut x.rows :=
    State.copyRows_spec _ cut hx (fun r j hr hj => (hreads.hidden _).trans (hshown r j hr hj)) (Nat.le_refl _)
  have hu : u = v.landMove x.tid x.tok w late :=
    congrArg (State.landMove · _ _ _ _) (v.settleLocks_of_no_locks ((hwrites.locks hdef').trans (hports.locks.trans hlocks)))
  have hth : v.th x.tid = s.th x.tid := (hwrites.th hdef' _).trans (hports.th _)
  have hslot' : (v.th x.tid).slot ≠ .vacant := by rwa [hth]
  have hland : v.ReadsKept u := hu ▸ State.readsKept_landMove hslot' late
  refine ⟨hu ▸ State.holds_landMove hslot' late htok, ?_, fun r i hr hi => ?_, fun a ha => ?_, ?_⟩
  · rw [hu, State.item_landMove hslot', hwrites.item hdef', holder.item id hid, State.item_dropItem_self]
  · have hlen := hx.len
    have hs : s.hidden (x.dst + r * x.dstr + 8 * i) = false := hshown r (8 * i) hr hi
    have hmid := (hreads.hidden _).trans hs
    have hword := (hrows.words r i hr hi).reads (by have := hx.dst_row r; omega) hmid ((hrows.hidden _).trans hmid)
    simp only [hreads.load, hreads.poisoned] at hword
    simpa only [hland.load, hland.poisoned] using hword
  · rw [hland.mem, hrows.mem a ha, hreads.mem]
  · rw [hu, State.th_landMove hslot', hth]

/-! #### Writes within a range -/

/-- Bytes outside `n` bytes from `k` are as before, and poisoned words outside them stay poisoned. -/
structure State.WritesWithin (s t : State) (k n : Nat) : Prop where
  mem (a : Nat) : a < k ∨ k + n ≤ a → readByte t.mem a = readByte s.mem a
  poison (w : Nat) : w * 8 + 8 ≤ k ∨ k + n ≤ w * 8 → w ∈ s.poison → w ∈ t.poison

namespace State.WritesWithin
variable {s t u : State} {k n : Nat}

theorem refl (s : State) (k n : Nat) : s.WritesWithin s k n := ⟨fun _ _ => rfl, fun _ _ => id⟩
theorem trans (h : s.WritesWithin t k n) (h' : t.WritesWithin u k n) : s.WritesWithin u k n :=
  ⟨fun a ha => (h'.mem a ha).trans (h.mem a ha), fun w hw hp => h'.poison w hw (h.poison w hw hp)⟩
theorem mono (h : s.WritesWithin t k n) {k' n' : Nat} (hk : k' ≤ k) (hn : k + n ≤ k' + n') : s.WritesWithin t k' n' :=
  ⟨fun a ha => h.mem a (by omega), fun w hw => h.poison w (by omega)⟩
theorem foldl {α : Type} {f : State → α → State} {l : List α} (hf : ∀ (s : State), ∀ a ∈ l, s.WritesWithin (f s a) k n)
    (s : State) : s.WritesWithin (l.foldl f s) k n := by
  induction l generalizing s with
  | nil => exact refl s k n
  | cons a l ih => exact (hf s a List.mem_cons_self).trans (ih (fun s b hb => hf s b (List.mem_cons_of_mem _ hb)) _)

end State.WritesWithin

theorem State.writesWithin_storeAt (s : State) (k : Nat) (data : List Byte) : s.WritesWithin (s.storeAt k data) k data.length :=
  ⟨fun a ha => readByte_storeAt_outside s k data a ha, fun w hw hp => List.mem_filter.2 ⟨hp, by
    have : coversWord k data.length w = false := by
      simp only [coversWord, Bool.and_eq_false_iff, decide_eq_false_iff_not]
      omega
    rw [this]; rfl⟩⟩

theorem State.writesWithin_writePoison (s : State) (a k n : Nat) : s.WritesWithin (s.writePoison a) k n := by
  unfold State.writePoison
  split
  · exact .refl s k n
  · exact ⟨fun _ _ => by rw [s.spoil_mem], fun w _ hp => (s.mem_poison_spoil a w).2 (.inl hp)⟩

/-! #### One part of a plane tile (06 R115, 12 R210) -/

/-- The words of one line of a part that hold bits of poisoned elements become poisoned. -/
def State.poisonLine (s : State) (k e : Nat) (row : List (Nat × Bool)) : State :=
  row.zipIdx.foldl (fun s q =>
    if q.1.2 then (s.writePoison (k + e * q.2 / 8)).writePoison (k + (e * q.2 + e - 1) / 8) else s) s

/-- One line of a part is written, `e` bits an element. -/
def State.writeLine (s : State) (k e : Nat) (row : List (Nat × Bool)) : State :=
  (s.storeAt k (toBytes (16 * e) (packFields e (row.map (·.1))))).poisonLine k e row

theorem State.writePart_eq (s : State) (key e : Nat) (rows : List (List (Nat × Bool))) :
    s.writePart key e rows = rows.zipIdx.foldl (fun s p => s.writeLine (key + 16 * e * p.2) e p.1) s := rfl

theorem State.writesMemory_poisonLine (s : State) (k e : Nat) (row : List (Nat × Bool)) : s.WritesMemory (s.poisonLine k e row) :=
  .foldl (fun u _ => .ite ((u.writesMemory_writePoison _).trans (State.writesMemory_writePoison _ _)) (.refl u)) _ _

theorem State.writesMemory_writeLine (s : State) (k e : Nat) (row : List (Nat × Bool)) : s.WritesMemory (s.writeLine k e row) :=
  (s.writesMemory_storeAt _ _).trans (State.writesMemory_poisonLine _ _ _ _)

theorem State.writesMemory_writePart (s : State) (key e : Nat) (rows : List (List (Nat × Bool))) :
    s.WritesMemory (s.writePart key e rows) := by
  rw [s.writePart_eq]
  exact .foldl (fun u _ => u.writesMemory_writeLine _ _ _) _ _

theorem State.writesWithin_poisonLine (s : State) (k e : Nat) (row : List (Nat × Bool)) (k' n : Nat) :
    s.WritesWithin (s.poisonLine k e row) k' n := by
  refine .foldl (fun u q _ => ?_) s
  split
  · exact (u.writesWithin_writePoison _ k' n).trans (State.writesWithin_writePoison _ _ k' n)
  · exact .refl u k' n

theorem State.writesWithin_writeLine (s : State) (k e : Nat) (row : List (Nat × Bool)) :
    s.WritesWithin (s.writeLine k e row) k (16 * e) := by
  have hstore := s.writesWithin_storeAt k (toBytes (16 * e) (packFields e (row.map (·.1))))
  rw [length_toBytes] at hstore
  exact hstore.trans (State.writesWithin_poisonLine _ k e row _ _)

/-- A part writes within its lines. -/
theorem State.writesWithin_writePart (s : State) (key e : Nat) (rows : List (List (Nat × Bool))) :
    s.WritesWithin (s.writePart key e rows) key (16 * e * rows.length) := by
  rw [s.writePart_eq]
  refine .foldl (fun u p hp => (u.writesWithin_writeLine _ e p.1).mono (Nat.le_add_right _ _) ?_) s
  have hlt : p.2 + 1 ≤ rows.length := by have := List.snd_lt_of_mem_zipIdx hp; omega
  have := Nat.mul_le_mul_left (16 * e) hlt
  rw [Nat.mul_add] at this
  omega

/-! #### The poison of a part of one bit an element (12 R210) -/

/-- What one turn of a fold brings about, from states of an invariant, stands at the end if every turn keeps it. -/
theorem foldl_establishes {α β : Type} {f : β → α → β} {I P : β → Prop} {l : List α} {a : α} (ha : a ∈ l)
    (hinv : ∀ s b, I s → I (f s b)) (hkeep : ∀ s b, P s → P (f s b)) (hdo : ∀ s, I s → P (f s a)) (s : β) (hs : I s) :
    P (l.foldl f s) := by
  induction l generalizing s with
  | nil => cases ha
  | cons b l ih =>
    rcases List.mem_cons.1 ha with rfl | ha
    · exact List.foldlRecOn l f (motive := P) (hdo s hs) fun t ht b _ => hkeep t b ht
    · exact ih ha _ (hinv s b hs)

theorem State.hidden_writePoison (s : State) (k a : Nat) : (s.writePoison k).hidden a = s.hidden a := by
  unfold State.writePoison
  split
  · rfl
  · exact State.hidden_congr (s.contextKept_spoil k).rings a

theorem State.mem_poison_writePoison (s : State) (k : Nat) (h : s.hidden k = false) : k / 8 ∈ (s.writePoison k).poison := by
  rw [s.writePoison_of_shown k h]
  exact (s.mem_poison_spoil k _).2 (.inr rfl)

theorem State.poison_writePoison (s : State) (k w : Nat) (h : w ∈ s.poison) : w ∈ (s.writePoison k).poison :=
  (s.writesWithin_writePoison k (w * 8 + 8) 0).poison w (.inl (Nat.le_refl _)) h

/-- A poisoned element of a line poisons the word of its bit. -/
theorem State.poisonLine_poisons (s : State) (k : Nat) (row : List (Nat × Bool)) {c x : Nat} (hrow : row[c]? = some (x, true))
    (hshown : s.hidden (k + c / 8) = false) : (k + c / 8) / 8 ∈ (s.poisonLine k 1 row).poison := by
  refine foldl_establishes (I := fun u : State => u.hidden (k + c / 8) = false) (P := fun u : State => (k + c / 8) / 8 ∈ u.poison)
    (List.mem_zipIdx_iff_getElem?.2 hrow : ((x, true), c) ∈ row.zipIdx) (fun u q hu => ?_) (fun u q hu => ?_) (fun u hu => ?_) s hshown
  · split
    · rw [State.hidden_writePoison, State.hidden_writePoison, hu]
    · exact hu
  · split
    · exact State.poison_writePoison _ _ _ (u.poison_writePoison _ _ hu)
    · exact hu
  · simp only [if_true, Nat.one_mul]
    exact State.poison_writePoison _ _ _ (u.mem_poison_writePoison _ hu)

/-- A part of one bit an element poisons the word of every poisoned element. -/
theorem State.writePart_poisons (s : State) (key : Nat) (rows : List (List (Nat × Bool))) (hdef : s.deferred = []) (hkey : key % 8 = 0)
    {r c x : Nat} {row : List (Nat × Bool)} (hr : rows[r]? = some row) (hc : c < 128) (hrow : row[c]? = some (x, true))
    (hshown : s.hidden (key + 16 * r + c / 8) = false) : (key + 16 * r + c / 8) / 8 ∈ (s.writePart key 1 rows).poison := by
  induction rows using List.reverseRecOn with
  | nil => cases hr
  | append_singleton rows last ih =>
    have hsplit : s.writePart key 1 (rows ++ [last]) = (s.writePart key 1 rows).writeLine (key + 16 * rows.length) 1 last := by
      simp only [State.writePart_eq, List.zipIdx_append, List.foldl_append, List.zipIdx_singleton, List.foldl_cons, List.foldl_nil,
        Nat.mul_one, Nat.zero_add]
    rw [hsplit]
    have hlt : r < (rows ++ [last]).length := (List.getElem?_eq_some_iff.1 hr).1
    rw [List.length_append, List.length_singleton] at hlt
    rcases Nat.lt_succ_iff_lt_or_eq.1 hlt with hlt | rfl
    · rw [List.getElem?_append_left hlt] at hr
      refine (State.writesWithin_writeLine _ _ 1 last).poison _ (.inl ?_) (ih hr)
      omega
    · rw [List.getElem?_concat_length, Option.some.injEq] at hr
      subst hr
      refine State.poisonLine_poisons _ _ last hrow ?_
      exact ((s.writesMemory_writePart key 1 rows).hidden hdef _).trans hshown

/-! #### PLANE_COMPLETION (04 R81, R82) -/

/-- The codes of a PLANE without scales, each with whether it comes poisoned. -/
def State.planeCodes (s : State) (x : Plane) (f : Fmt) : List (List (Nat × Bool)) :=
  (List.range 128).map fun r =>
    (s.sourceRow f (x.src + r * x.sstr) (s.cutOff (cidOf x.tid) x.tenant (x.reads f))).map fun p => (quieted f x.tx p.1, p.2)

/-- One part of a plane tile: what `g` takes from each present element's code. -/
def planePart (f : Fmt) (codes : List (List (Nat × Bool))) (g : Nat → Nat) : List (List (Nat × Bool)) :=
  codes.map fun row => row.map fun p => (if p.1 = absentCode f then 0 else g p.1, p.2)

/-- The sign planes are written (06 R115). -/
def State.writeSigns (s : State) (x : Plane) (f : Fmt) (l : Layout) (codes : List (List (Nat × Bool))) : State :=
  l.signs.zipIdx.foldl (fun (s : State) (o : Nat × Nat) =>
    s.writePart (x.dst + o.1) 1 (planePart f codes fun c => ((planeBits f c).1.getD o.2 false).toNat)) s

/-- The side array is written, in a format that has one. -/
def State.writeSide (s : State) (x : Plane) (f : Fmt) (l : Layout) (codes : List (List (Nat × Bool))) : State :=
  if l.e = 0 then s else s.writePart (x.dst + l.eOff) l.e (planePart f codes fun c => (planeBits f c).2.1)

/-- The mantissa planes are written, as many as the PLANE asks for. -/
def State.writeMantissas (s : State) (x : Plane) (f : Fmt) (l : Layout) (codes : List (List (Nat × Bool))) : State :=
  (List.range (min x.d l.planes)).foldl (fun (s : State) (p : Nat) =>
    s.writePart (x.dst + l.pOff + 2048 * p) 1 (planePart f codes fun c => ((planeBits f c).2.2.getD p false).toNat)) s

/-- The parts behind the presence plane are written. -/
def State.writeMagnitudes (s : State) (x : Plane) (f : Fmt) (l : Layout) (codes : List (List (Nat × Bool))) : State :=
  ((s.writeSigns x f l codes).writeSide x f l codes).writeMantissas x f l codes

/-- The whole tile is written. -/
def State.writeTile (s : State) (x : Plane) (f : Fmt) (l : Layout) (codes : List (List (Nat × Bool))) : State :=
  (s.writePart x.dst 1 (planePart f codes fun _ => 1)).writeMagnitudes x f l codes

/-- The bytes that a PLANE without scales writes. -/
def Plane.written (x : Plane) (l : Layout) : Nat := 2048 * (1 + l.signs.length + l.e + min x.d l.planes)

theorem map_fst_zipIdx {α β : Type} (l : List α) (g : α → β) : (l.zipIdx.map fun p => g p.1) = l.map g := by
  have := congrArg (List.map g) (List.zipIdx_map_fst 0 l)
  rwa [List.map_map] at this

/-- What becomes of the elements of a PLANE without scales, wherever they stand. -/
theorem unscaled_rows {α : Type} (rows : List (List α)) :
    (rows.zipIdx.map fun p => p.1.zipIdx.map fun q => (q.1, false)) = rows.map fun row => row.map fun p => (p, false) := by
  rw [← map_fst_zipIdx rows]
  exact List.map_congr_left fun p _ => map_fst_zipIdx p.1 fun q => (q, false)

/-- Elements that no scale touches are none of them inexact. -/
theorem inexact_of_unscaled {α : Type} (rows : List (List α)) :
    ((rows.map fun row => row.map fun p => (p, false)).map fun row => row.countP (·.2)).foldl (· + ·) 0 = 0 := by
  induction rows with
  | nil => rfl
  | cons row rows ih =>
    have hrow : (row.map fun p => (p, false)).countP (·.2) = 0 := by
      rw [List.countP_map]
      exact List.countP_eq_zero.2 (by simp)
    rw [List.map_cons, List.map_cons, List.foldl_cons, hrow]
    exact ih

section
variable {s : State} {id : Nat} {x : Plane} {f : Fmt} {l : Layout} (hitem : s.item id = some (.plane x)) (hf : descFmt x.fmt = some f)
  (hl : layout f = some l)
include hitem hf hl

theorem execPlaneCompletion_of_undrained (hd : s.drained x.tid id = false) : execPlaneCompletion id s = .next s := by
  simp only [execPlaneCompletion, hitem, hf, hl, hd, Bool.not_false, if_true]

theorem execPlaneCompletion_of_plain (hd : s.drained x.tid id = true) (hsg : x.sg = 0) :
    execPlaneCompletion id s =
      .next ((((s.crossing (cidOf x.tid) x.tenant x.deadline false (x.reads f)).dropItem id).writeTile x f l
        (s.planeCodes x f)).settleLocks.landMove x.tid x.tok (BitVec.ofNat 64 (x.written l)) (s.lateRead x f)) := by
  have hno : (0 : Nat) ≠ 2 := by decide
  simp only [execPlaneCompletion, hitem, hf, hl, hd, hsg, if_neg hno, Bool.not_true, Bool.false_eq_true, if_false, if_true, unscaled_rows,
    inexact_of_unscaled]
  simp only [State.writeTile, State.writeMagnitudes, State.writeSigns, State.writeSide, State.writeMantissas, State.planeCodes,
    planePart, Plane.written, List.map_map, Function.comp_def, Nat.zero_min, Nat.zero_mul, Nat.zero_add]

end

/-! The written tile. -/

theorem State.writesMemory_writeMagnitudes (s : State) (x : Plane) (f : Fmt) (l : Layout) (codes : List (List (Nat × Bool))) :
    s.WritesMemory (s.writeMagnitudes x f l codes) :=
  (State.WritesMemory.foldl (fun u _ => u.writesMemory_writePart _ _ _) _ _).trans
    ((State.WritesMemory.ite (.refl _) (State.writesMemory_writePart _ _ _ _)).trans
      (.foldl (fun u _ => u.writesMemory_writePart _ _ _) _ _))

theorem State.writesMemory_writeTile (s : State) (x : Plane) (f : Fmt) (l : Layout) (codes : List (List (Nat × Bool))) :
    s.WritesMemory (s.writeTile x f l codes) :=
  (s.writesMemory_writePart _ _ _).trans (State.writesMemory_writeMagnitudes _ _ _ _ _)

/-- Every part behind the presence plane lies in the tile (06 R115). -/
theorem layout_parts {f : Fmt} {l : Layout} (hl : layout f = some l) :
    (∀ o ∈ l.signs, 2048 ≤ o ∧ o + 2048 ≤ l.size) ∧ (l.e ≠ 0 → 2048 ≤ l.eOff ∧ l.eOff + 2048 * l.e ≤ l.size) ∧
      (∀ p < l.planes, 2048 ≤ l.pOff + 2048 * p ∧ l.pOff + 2048 * p + 2048 ≤ l.size) ∧ 2048 ≤ l.size := by
  cases f <;> cases hl <;> decide

theorem length_planePart (f : Fmt) (codes : List (List (Nat × Bool))) (g : Nat → Nat) : (planePart f codes g).length = codes.length :=
  List.length_map _

theorem State.length_planeCodes (s : State) (x : Plane) (f : Fmt) : (s.planeCodes x f).length = 128 := by
  simp only [State.planeCodes, List.length_map, List.length_range]

/-- A part of 128 rows lies in `2048 * e` bytes. -/
theorem State.writesWithin_planePart (s : State) (key e : Nat) (f : Fmt) {codes : List (List (Nat × Bool))} (hlen : codes.length = 128)
    (g : Nat → Nat) {k n : Nat} (hk : k ≤ key) (hn : key + 2048 * e ≤ k + n) :
    s.WritesWithin (s.writePart key e (planePart f codes g)) k n := by
  refine (s.writesWithin_writePart key e _).mono hk ?_
  rw [length_planePart, hlen]
  omega

/-- The parts behind the presence plane leave it as it is. -/
theorem State.writesWithin_writeMagnitudes (s : State) (x : Plane) {f : Fmt} {l : Layout} (hl : layout f = some l)
    {codes : List (List (Nat × Bool))} (hlen : codes.length = 128) :
    s.WritesWithin (s.writeMagnitudes x f l codes) (x.dst + 2048) (l.size - 2048) := by
  obtain ⟨hsigns, hside, hplanes, hsize⟩ := layout_parts hl
  have hwrite : ∀ (u : State) (o e : Nat) (g : Nat → Nat), 2048 ≤ o → o + 2048 * e ≤ l.size →
      u.WritesWithin (u.writePart (x.dst + o) e (planePart f codes g)) (x.dst + 2048) (l.size - 2048) :=
    fun u o e g ho hn => u.writesWithin_planePart _ e f hlen g (by omega) (by omega)
  have hs : s.WritesWithin (s.writeSigns x f l codes) (x.dst + 2048) (l.size - 2048) :=
    .foldl (fun u o ho => have h := hsigns o.1 (List.fst_mem_of_mem_zipIdx ho); hwrite u o.1 1 _ h.1 (by omega)) s
  have he : ∀ u : State, u.WritesWithin (u.writeSide x f l codes) (x.dst + 2048) (l.size - 2048) := fun u => by
    unfold State.writeSide
    split
    · exact .refl u _ _
    · next he => exact hwrite u l.eOff l.e _ (hside he).1 (hside he).2
  have hm : ∀ u : State, u.WritesWithin (u.writeMantissas x f l codes) (x.dst + 2048) (l.size - 2048) := fun u =>
    .foldl (fun u p hp => by
      have h := hplanes p (lt_of_lt_of_le (List.mem_range.1 hp) (Nat.min_le_right _ _))
      rw [Nat.add_assoc]
      exact hwrite u _ 1 _ h.1 (by omega)) u
  exact (hs.trans (he _)).trans (hm _)

theorem State.writesWithin_writeTile (s : State) (x : Plane) {f : Fmt} {l : Layout} (hl : layout f = some l)
    {codes : List (List (Nat × Bool))} (hlen : codes.length = 128) : s.WritesWithin (s.writeTile x f l codes) x.dst l.size := by
  have hsize := (layout_parts hl).2.2.2
  exact (s.writesWithin_planePart x.dst 1 f hlen _ (Nat.le_refl _) (by omega)).trans
    ((State.writesWithin_writeMagnitudes _ x hl hlen).mono (by omega) (by omega))

/-- Where a source element comes poisoned, the word of its presence bit is poisoned (12 R210). -/
theorem State.writeTile_poisons (s u : State) (x : Plane) {f : Fmt} {l : Layout} (hl : layout f = some l) (hdef : u.deferred = [])
    (hdst : x.dst % 8 = 0) {r c : Nat} (hr : r < 128) (hc : c < 128) (hshown : u.hidden (x.dst + 16 * r + c / 8) = false)
    (hbad : (s.poisoned (x.src + r * x.sstr + fmtWidth f * c / 8) 1 ||
      inRuns (s.cutOff (cidOf x.tid) x.tenant (x.reads f)) (x.src + r * x.sstr + fmtWidth f * c / 8)) = true) :
    (x.dst + 16 * r + c / 8) / 8 ∈ (u.writeTile x f l (s.planeCodes x f)).poison := by
  have hlen := s.length_planeCodes x f
  refine (State.writesWithin_writeMagnitudes _ x hl hlen).poison _ (.inl (by omega)) ?_
  refine State.writePart_poisons u x.dst _ hdef hdst (r := r) (c := c)
    (x := if quieted f x.tx ((s.load (x.src + r * x.sstr) (rowBytes f) / 2 ^ (fmtWidth f * c)) % 2 ^ fmtWidth f) = absentCode f then 0
      else 1)
    (row := (s.sourceRow f (x.src + r * x.sstr) (s.cutOff (cidOf x.tid) x.tenant (x.reads f))).map
      fun p => (if quieted f x.tx p.1 = absentCode f then 0 else 1, p.2)) ?_ hc ?_ hshown
  · simp only [planePart, State.planeCodes, List.getElem?_map, List.getElem?_range hr, Option.map_some, List.map_map]
    rfl
  · simp only [State.sourceRow, List.getElem?_map, List.getElem?_range hc, Option.map_some, hbad]

/-! #### What a PLANE without scales leaves (04 R82) -/

theorem rowBytes_eq (f : Fmt) : rowBytes f = 16 * fmtWidth f := by unfold rowBytes; omega

/-- A byte of a poisoned word that no bound channel descriptor covers is poisoned. -/
theorem State.poisoned_of_word (s : State) {k : Nat} (hword : k / 8 ∈ s.poison) (hshown : s.hidden (k / 8 * 8) = false) :
    s.poisoned k 1 = true := by
  simp only [State.poisoned, List.any_eq_true, Bool.and_eq_true, decide_eq_true_eq, Bool.not_eq_true']
  exact ⟨k / 8, hword, by omega, hshown⟩

/-- What a PLANE without scales leaves. -/
theorem State.planed_spec {s : State} {id : Nat} {x : Plane} {f : Fmt} {l : Layout} (hl : layout f = some l)
    (hslot : (s.th x.tid).slot ≠ .vacant) (htok : x.tok < 32) (hlocks : s.locks = []) (hdef : s.deferred = []) (w : Word)
    (late : Option Word) :
    let cut := s.cutOff (cidOf x.tid) x.tenant (x.reads f)
    let v := ((s.crossing (cidOf x.tid) x.tenant x.deadline false (x.reads f)).dropItem id).writeTile x f l (s.planeCodes x f)
    let u := v.settleLocks.landMove x.tid x.tok w late
    u.item id = none ∧ (∀ a, a < x.dst ∨ x.dst + l.size ≤ a → readByte u.mem a = readByte s.mem a) ∧
      (u.th x.tid).Holds x.tok w ∧
      (x.dst % 8 = 0 → (∀ i, i < 2048 → s.hidden (x.dst + i) = false) → ∀ r c, r < 128 → c < 128 →
        let k := x.src + r * x.sstr + fmtWidth f * c / 8
        s.poisoned k 1 = true ∨ inRuns cut k = true → u.poisoned (x.dst + 16 * r + c / 8) 1 = true) ∧
      ∀ tid, tid ≠ x.tid → u.th tid = s.th tid := by
  intro cut v u
  have hports := s.portsPassed_crossing (cidOf x.tid) x.tenant x.deadline false (x.reads f)
  have hreads : s.ReadsKept ((s.crossing (cidOf x.tid) x.tenant x.deadline false (x.reads f)).dropItem id) :=
    .of_threads hports.mem hports.poison hports.threads
  have hdef' : ((s.crossing (cidOf x.tid) x.tenant x.deadline false (x.reads f)).dropItem id).deferred = [] := hports.deferred.trans hdef
  have hwrites : ((s.crossing (cidOf x.tid) x.tenant x.deadline false (x.reads f)).dropItem id).WritesMemory v :=
    State.writesMemory_writeTile _ x f l _
  have hwithin := State.writesWithin_writeTile ((s.crossing (cidOf x.tid) x.tenant x.deadline false (x.reads f)).dropItem id) x hl
    (s.length_planeCodes x f)
  have hu : u = v.landMove x.tid x.tok w late :=
    congrArg (State.landMove · _ _ _ _) (v.settleLocks_of_no_locks ((hwrites.locks hdef').trans (hports.locks.trans hlocks)))
  have hth (tid : Nat) : v.th tid = s.th tid := (hwrites.th hdef' tid).trans (hports.th tid)
  have hslot' : (v.th x.tid).slot ≠ .vacant := by rwa [hth]
  have hland : v.ReadsKept u := hu ▸ State.readsKept_landMove hslot' late
  refine ⟨?_, fun a ha => ?_, hu ▸ State.holds_landMove hslot' late htok, fun hdst hshown r c hr hc hbad => ?_, fun tid htid => ?_⟩
  · rw [hu, State.item_landMove hslot', hwrites.item hdef', State.item_dropItem_self]
  · rw [hland.mem, hwithin.mem a ha, hreads.mem]
  · have hmid (a : Nat) (hlo : x.dst ≤ a) (hhi : a < x.dst + 2048) :
        ((s.crossing (cidOf x.tid) x.tenant x.deadline false (x.reads f)).dropItem id).hidden a = false := by
      have := hshown (a - x.dst) (by omega)
      rw [Nat.add_sub_of_le hlo] at this
      exact (hreads.hidden a).trans this
    have hword := State.writeTile_poisons s _ x hl hdef' hdst hr hc (hmid _ (by omega) (by omega))
      (by simpa only [Bool.or_eq_true] using hbad)
    rw [hland.poisoned]
    exact v.poisoned_of_word hword ((hwrites.hidden hdef' _).trans (hmid _ (by omega) (by omega)))
  · rw [hu, State.th_landMove_of_ne hslot' late htid, hth]

/-! #### The obligation -/

/-- One flag for the reserved bits of TMOV's three operands. -/
theorem reserved_iff (a b c : Bool) : (a || b || c) = true ↔ a = true ∨ b = true ∨ c = true := by
  cases a <;> simp

/-- Settles O45: each end of TMOV and PLANE at issue is one end of `State.moveTile` or `State.setOff`; the move itself is a fold of copied
rows, the PLANE a fold of written parts, of which each stays within its own bytes. -/
theorem tileMovesAndPlanes : Obligations.TileMovesAndPlanes := by
  unfold Obligations.TileMovesAndPlanes
  refine ⟨fun s t da sa sh hr => ?tmov, fun s t da sa ct hr => ?plane, State.openToken_frame, fun s id x hitem => ?moved,
    fun s id x f l hitem hf hl => ?planed⟩
  case tmov =>
    intro dw sw h rows len dstr sstr dn sn malformed traps ha
    have hissue := execTmov_eq s t da sa sh hr ha
    have htraps {c n : Nat} (hmove : s.moveTile t dw sw (shapeOf h) (badEndpoint dw || badEndpoint sw || h.getLsbD 0) =
        .error (.trap c (BitVec.ofNat 64 n))) : traps c n := hissue.trans (s.issue_error _ _ hmove)
    have hform (hbad : ¬malformed) : s.moveTile t dw sw (shapeOf h) (badEndpoint dw || badEndpoint sw || h.getLsbD 0) =
        s.moveTile t dw sw (shapeOf h) false := congrArg _ (Bool.eq_false_iff.2 (mt (reserved_iff _ _ _).1 hbad))
    refine ⟨fun hbad => ?_, fun hbad hs => ?_, fun hbad hallowed => ?_⟩
    · refine hissue.trans (s.issue_error _ _ ?_)
      rw [(reserved_iff _ _ _).2 hbad]
      exact s.moveTile_of_malformed t dw sw (shapeOf h)
    · exact ⟨fun hd => htraps ((hform hbad).trans (s.moveTile_of_dst_privileged t dw sw (shapeOf h) hs hd)),
        fun hd hsrc => htraps ((hform hbad).trans (s.moveTile_of_src_privileged t dw sw (shapeOf h) hs hd hsrc))⟩
    · have hmove := (hform hbad).trans (s.moveTile_of_allowed t dw sw (shapeOf h) hallowed)
      rw [hmove] at htraps
      refine ⟨fun hd => htraps (s.moveInRegions_of_dst_outside t dw sw (shapeOf h) hd),
        fun hd hsrc => htraps (s.moveInRegions_of_src_outside t dw sw (shapeOf h) hd hsrc), fun dk sk hdk hsk => ?_⟩
      intro meets
      have hapart (ho : ¬meets) := s.moveInRegions_of_apart t dw sw (m := shapeOf h) hdk hsk ho
      refine ⟨fun ho => htraps (s.moveInRegions_of_overlaps t dw sw (m := shapeOf h) hdk hsk ho),
        fun ho hd => htraps ((hapart ho).trans (State.setOff_of_dst_misaligned hd)),
        fun ho hd hsrc => htraps ((hapart ho).trans (State.setOff_of_src_misaligned hd hsrc)),
        fun ho hd hsrc ht => ⟨fun hm => ?_, fun hm => ?_⟩⟩
      · exact hissue.trans (s.issue_error _ _ (hmove.trans ((hapart ho).trans (State.setOff_of_full hd hsrc ht hm))))
      · exact hissue.trans (s.issue_ok _ _ (hmove.trans ((hapart ho).trans (State.setOff_of_room hd hsrc ht hm))))
  case plane =>
    intro dw sw c sg roleB ha
    refine ⟨execPlane_of_malformed t hr ha, fun hbad hs hhob f l dk sk ok ik hf hl hdk hsk hap hplain hscaled => ?_⟩
    rw [← rowBytes_eq] at hsk hap
    have hissue := execPlane_of_ranges t hr ha hbad hs hhob ⟨hf, hl, hdk, hsk, hap, hplain, hscaled⟩
    refine ⟨fun hd => hissue.trans (s.issue_error _ _ (State.setOff_of_dst_misaligned hd)),
      fun hd hsrc => hissue.trans (s.issue_error _ _ (State.setOff_of_src_misaligned hd hsrc)),
      fun hd hsrc ht => ⟨fun hm => ?_, fun hm => ?_⟩⟩
    · exact hissue.trans (s.issue_error _ _ (State.setOff_of_full hd hsrc ht hm))
    · exact hissue.trans (s.issue_ok _ _ (State.setOff_of_room hd hsrc ht hm))
  case moved =>
    intro rd wr cut late
    refine ⟨execTileMoveCompletion_of_undrained hitem, fun hd hslot htok hid => ?_⟩
    intro token
    refine ⟨fun href => ?_, fun href hlocks hdef h1 h2 h3 h4 h5 h6 hrange => ?_⟩
    · have hreads : (s.dropItem id).ReadsKept ((s.dropItem id).landToken x.tid x.tok tokenRefused) := State.readsKept_landToken hslot
      refine ⟨_, execTileMoveCompletion_of_refused hitem hd href, hreads.mem, hreads.poison, ?_⟩
      obtain ⟨hreg, hpresent, hpend⟩ := State.holds_landToken (s := s.dropItem id) (w := tokenRefused) hslot htok
      exact ⟨hreg, hpresent, hpend, (State.item_landToken (s := s.dropItem id) hslot id).trans (s.item_dropItem_self id)⟩
    · have hx : x.Regular := ⟨h1, h2, h3, h4, h5, h6, fun a hlo hhi => (hrange a hlo hhi).2⟩
      have hshown : ∀ r j, r < x.rows → j < x.len → s.hidden (x.dst + r * x.dstr + j) = false := fun r j hr hj => by
        have hmul : r * x.dstr ≤ (x.rows - 1) * x.dstr := Nat.mul_le_mul_right _ (by omega)
        exact (hrange _ (by omega) (by omega)).1
      obtain ⟨⟨hreg, hpresent, hpend⟩, hnone, hwords, hmem, hth⟩ := s.moved_spec id hx hslot htok hid hlocks hdef hshown
        (BitVec.ofNat 64 (x.rows * x.len)) (if s.pastDue x.deadline rd then some x.ea else none)
      refine ⟨_, execTileMoveCompletion_of_allowed hitem hd href, ⟨hreg, hpresent, hpend, hnone⟩, hwords, hmem, ?_⟩
      rw [hth]
      exact Thread.noteLate_late _ _ _
  case planed =>
    intro cut
    refine ⟨execPlaneCompletion_of_undrained hitem hf hl, fun hd hslot htok _ hlocks hdef hsg _ => ?_⟩
    obtain ⟨hnone, hmem, ⟨hreg, hpresent, hpend⟩, hpoison, hothers⟩ := State.planed_spec (id := id) hl hslot htok hlocks hdef
      (BitVec.ofNat 64 (x.written l)) (s.lateRead x f)
    exact ⟨_, execPlaneCompletion_of_plain hitem hf hl hd hsg, hnone, hmem, hreg, hpresent, hpend, hpoison, hothers⟩

end Sys2Proof.Machine

/-! ### FLUE and the engines of a flue slot (04 R83 to R93; 16 R270, R271) -/

namespace Sys2Proof.Machine

/-! #### FLUE (04 R84, 16 R270) -/

theorem State.ownStore_of_inside {s : State} {na : Word} {n al : Nat} (hn : na.toNat + n ≤ 0x30000) (hal : na.toNat % al = 0) :
    s.ownStore na n al = .ok (keyLocal s.cid na.toNat) := by
  simp only [State.ownStore, decide_eq_false (Nat.not_lt.2 hn), decide_eq_false (not_not.2 hal), raiseIf_false, except_ok_bind, except_pure]

/-- A block with a reserved field is none that FLUE accepts (04 R85). -/
theorem badRequest_of_reserved {w0 w3 : Word}
    (h : 4 ≤ Fld w0 63 60 ∨ Fld w0 59 58 = 3 ∨ Fld w0 57 56 = 3 ∨ Fld w0 26 16 ≠ 0 ∨
      (Fld w0 63 60 ≠ 3 ∧ Fld w0 55 53 ≠ 0) ∨ (Fld w0 63 60 = 0 ∧ (Fld w3 63 40 ≠ 0 ∨ Fld w3 39 0 % 8 ≠ 0)) ∨
      (Fld w0 63 60 ≠ 0 ∧ Fld w0 52 50 = 7)) :
    badRequest w0 w3 = true := by
  simp only [badRequest, reqOp, reqScope, reqLen, Bool.or_eq_true, decide_eq_true_eq, Bool.and_eq_true]
  rcases h with h | h | h | h | ⟨hop, h⟩ | ⟨hop, h⟩ | ⟨hop, h⟩
  · simp [h]
  · simp [h]
  · simp [h]
  · simp [h]
  · simp [hop, h]
  · rcases h with h | h <;> simp [hop, h]
  · have hfmt : reqFmt w0 = none := by
      unfold reqFmt
      rw [h]
      cases w0.getLsbD 49 <;> rfl
    simp [hop, hfmt]

theorem State.capture_of_reserved (s : State) {w0 w1 w2 w3 : Word} (h : badRequest w0 w3 = true) :
    s.capture [w0, w1, w2, w3] = .error (.trap 0x01 s.iss.word) := by
  simp only [State.capture, List.getD_cons_zero, List.getD_cons_succ, h, raiseIf_true, except_error_bind]

/-- A sequence that succeeds has had its first step succeed. -/
theorem except_bind_ok {ε α β : Type} {x : Except ε α} {f : α → Except ε β} {b : β} (h : x >>= f = .ok b) :
    ∃ a, x = .ok a ∧ f a = .ok b := by
  cases x with
  | error e => cases h
  | ok a => exact ⟨a, rfl, h⟩

/-- What a captured request holds of its block and its thread. -/
structure State.Captured (s : State) (w0 w1 w2 w3 : Word) (r : Req) : Prop where
  tid : r.tid = s.cur
  word0 : r.w0 = w0
  word1 : r.w1 = w1
  word2 : r.w2 = w2
  word3 : r.w3 = w3
  tenant : r.tenant = s.src.tenant
  deadline : r.deadline = s.src.dueBy

theorem State.captured_of_ok {s : State} {w0 w1 w2 w3 : Word} {r : Req} (h : s.capture [w0, w1, w2, w3] = .ok r) :
    s.Captured w0 w1 w2 w3 r := by
  simp only [State.capture, List.getD_cons_zero, List.getD_cons_succ] at h
  generalize (decide (reqOp w0 = 1) || decide (reqOp w0 = 2)) = indexed at h
  cases indexed
  all_goals
    simp only [if_true, Bool.false_eq_true, if_false] at h
    repeat obtain ⟨_, -, h⟩ := except_bind_ok h
    cases h
    exact ⟨rfl, rfl, rfl, rfl, rfl, rfl, rfl⟩

theorem Core.freeMail_of_lowest {c : Core} {n : Nat} (hn : n < 4) (hfree : ∀ p ∈ c.mail, p.1 ≠ n)
    (hlow : ∀ m, m < n → ∃ p ∈ c.mail, p.1 = m) : c.freeMail = some n := by
  refine List.find?_range_eq_some.2 ⟨?_, List.mem_range.2 hn, fun m hm => ?_⟩
  · simpa using hfree
  · simpa using hlow m hm

theorem Core.freeMail_of_full {c : Core} (h : ∀ m, m < 4 → ∃ p ∈ c.mail, p.1 = m) : c.freeMail = none :=
  List.find?_eq_none.2 fun m hm => by simpa using h m (List.mem_range.1 hm)

/-- What FLUE does with the block at `na` of the own local store. -/
def State.takeBlock (s : State) (na : Nat) : R := do
  let ws ← s.plainWords na (keyLocal s.cid na) 4
  let r ← s.capture ws
  match (s.core s.cid).freeMail with
  | none => .error (.park .mailbox ⟨.msg, 8, none, none⟩)
  | some n => pure ((s.setCore s.cid { s.core s.cid with mail := (s.core s.cid).mail ++ [(n, r)] }).flueEvent s.cid)

section
variable {s : State} {na : Nat} {st : Stop}

theorem State.takeBlock_of_unread (h : s.plainWords na (keyLocal s.cid na) 4 = .error st) : s.takeBlock na = .error st := by
  simp only [State.takeBlock, h, except_error_bind]

variable {ws : List Word} (hw : s.plainWords na (keyLocal s.cid na) 4 = .ok ws)
include hw

theorem State.takeBlock_of_uncaptured (h : s.capture ws = .error st) : s.takeBlock na = .error st := by
  simp only [State.takeBlock, hw, h, except_ok_bind, except_error_bind]

variable {r : Req} (hc : s.capture ws = .ok r)
include hc

theorem State.takeBlock_of_full (h : (s.core s.cid).freeMail = none) :
    s.takeBlock na = .error (.park .mailbox ⟨.msg, 8, none, none⟩) := by
  simp only [State.takeBlock, hw, hc, h, except_ok_bind]

theorem State.takeBlock_of_room {n : Nat} (h : (s.core s.cid).freeMail = some n) :
    s.takeBlock na = .ok ((s.setCore s.cid { s.core s.cid with mail := (s.core s.cid).mail ++ [(n, r)] }).flueEvent s.cid) := by
  simp only [State.takeBlock, hw, hc, h, except_ok_bind, except_pure]

end

theorem execFlue_eq {s : State} {x : GReg} {g : Fin 8} (hr : s.Ready [.reg x.val] []) (hn : (s.src.reg x.val).toNat + 32 ≤ 0x30000)
    (hal : (s.src.reg x.val).toNat % 32 = 0) (ho : s.Open) : execFlue x g s = s.issueC g fun s => s.takeBlock (s.src.reg x.val).toNat := by
  have hgate : allOf [s.need [.reg x.val] [], s.accessGate] = .ok () :=
    allOf_ok _ (by simp [s.need_of_ready _ _ hr, s.accessGate_of_open ho])
  rw [execFlue, State.issueC, State.issueC]
  simp only [hgate, State.ownStore_of_inside hn hal, except_ok_bind]
  rfl

/-! #### Threads that go on -/

/-- Of a state only threads change, and of each thread at most what it waits for. -/
structure State.Woken (s t : State) : Prop where
  frame : t = { s with threads := t.threads }
  th (u : Nat) : t.th u = { s.th u with park := (t.th u).park, wait := (t.th u).wait, slot := (t.th u).slot }

namespace State.Woken
variable {s t u : State}

theorem refl (s : State) : s.Woken s := ⟨rfl, fun _ => rfl⟩
theorem trans (h : s.Woken t) (h' : t.Woken u) : s.Woken u :=
  ⟨by rw [h'.frame, h.frame], fun v => by rw [h'.th v, h.th v]⟩
theorem foldl {α : Type} {f : State → α → State} (hf : ∀ (s : State) a, s.Woken (f s a)) (l : List α) (s : State) :
    s.Woken (l.foldl f s) :=
  foldl_keeps State.Woken.refl (fun _ _ _ => State.Woken.trans) f hf l s
theorem of_wake (s : State) (tid : Nat) : s.Woken (s.updTh tid Thread.wake) :=
  ⟨rfl, fun u => by
    rcases eq_or_ne u tid with rfl | hu
    · rw [State.th_updTh]; rfl
    · rw [State.th_updTh_of_ne _ _ _ _ hu]⟩
theorem wakeIf (s : State) (tid : Nat) {c : Prop} {_ : Decidable c} : s.Woken (if c then s.updTh tid Thread.wake else s) := by
  split
  · exact .of_wake s tid
  · exact .refl s

section
variable (h : s.Woken t)
include h
theorem mem : t.mem = s.mem := by rw [h.frame]
theorem flight : t.flight = s.flight := by rw [h.frame]
theorem serial : t.serial = s.serial := by rw [h.frame]
theorem cores : t.cores = s.cores := by rw [h.frame]
theorem clusters : t.clusters = s.clusters := by rw [h.frame]
theorem pkgs : t.pkgs = s.pkgs := by rw [h.frame]
theorem npkg : t.npkg = s.npkg := by rw [h.frame]
theorem cur : t.cur = s.cur := by rw [h.frame]
theorem time : t.time = s.time := by rw [h.frame]
theorem tx (v : Nat) : (t.th v).tx = (s.th v).tx := by rw [h.th v]; rfl
theorem rank (v : Nat) : (t.th v).rank = (s.th v).rank := by rw [h.th v]
theorem rings (v : Nat) : (t.th v).rings = (s.th v).rings := by rw [h.th v]
end

end State.Woken

theorem State.woken_wakeMail (s : State) (cid : Nat) : s.Woken (s.wakeMail cid) := .foldl (fun u sl => .wakeIf u (cid * 16 + sl)) _ s

theorem State.woken_flueEvent (s : State) (cid : Nat) :
    (s.setCore cid { s.core cid with event := true }).Woken (s.flueEvent cid) := .wakeIf _ (cid * 16 + 15)

/-- A thread parked on its engines goes on at their next event. -/
theorem State.park_flueEvent {s : State} {cid : Nat} (h : (s.th (cid * 16 + 15)).park = .flue) :
    ((s.flueEvent cid).th (cid * 16 + 15)).park = .none := by
  have hcore : ((s.setCore cid { s.core cid with event := true }).th (cid * 16 + 15)).park = .flue := h
  unfold State.flueEvent
  rw [if_pos hcore, State.th_updTh]
  rfl

/-! #### The completion message and the end of a command (04 R86, 09 R166) -/

theorem State.completion_congr {s t : State} {cid : Nat} (h : (t.th (cid * 16 + 15)).tx = (s.th (cid * 16 + 15)).tx) (r : Req) (st : Nat) :
    t.completion cid r st = s.completion cid r st := by
  simp only [State.completion, h]

/-- The fields of the two words of a completion message. -/
theorem completion_fields {st exc done : Nat} (w0 : Word) (hst : st < 16) (hexc : exc < 2 ^ 24) :
    Fld (BitVec.ofNat 64 (st * 2 ^ 56 + reqOp w0 * 2 ^ 52 + reqTag w0)) 59 56 = st ∧
      Fld (BitVec.ofNat 64 (st * 2 ^ 56 + reqOp w0 * 2 ^ 52 + reqTag w0)) 15 0 = Fld w0 15 0 ∧
      Fld (BitVec.ofNat 64 (exc * 2 ^ 40 + done % 2 ^ 40)) 39 0 = done % 2 ^ 40 ∧
      Fld (BitVec.ofNat 64 (exc * 2 ^ 40 + done % 2 ^ 40)) 63 40 = exc := by
  have hop : reqOp w0 < 16 := Nat.mod_lt _ (by decide)
  have htag : reqTag w0 < 2 ^ 16 := Nat.mod_lt _ (by decide)
  refine ⟨?_, ?_, ?_, ?_⟩
  all_goals
    simp only [Fld, bits, BitVec.toNat_ofNat]
  · omega
  · show _ = reqTag w0
    omega
  · omega
  · omega

section
variable (s : State) (id cid : Nat) (r : Req) (st : Nat)

/-- What ends before the flue slot learns of it. -/
def State.ended : State := ((s.unpack [id]).dropItem id).post (.message (s.completion cid r st))

theorem State.woken_finish :
    ((s.ended id cid r st).setCore cid { (s.ended id cid r st).core cid with event := true }).Woken (s.finish id cid r st) :=
  State.woken_flueEvent _ cid

theorem State.item_finish (j : Nat) :
    (s.finish id cid r st).item j = if j = s.serial then some (.message (s.completion cid r st)) else if j = id then none else s.item j := by
  have hflight : (s.finish id cid r st).flight = (s.ended id cid r st).flight := (s.woken_finish id cid r st).flight
  rw [State.item, hflight]
  show (s.ended id cid r st).item j = _
  rw [State.ended, State.item_post, State.item_dropItem]
  rfl

theorem State.item_finish_of_ne {j : Nat} (hj : j ≠ s.serial) (hid : j ≠ id) : (s.finish id cid r st).item j = s.item j := by
  rw [s.item_finish, if_neg hj, if_neg hid]

theorem State.serial_finish : (s.finish id cid r st).serial = s.serial + 1 := (s.woken_finish id cid r st).serial

theorem State.mem_finish : (s.finish id cid r st).mem = s.mem := (s.woken_finish id cid r st).mem

theorem State.rings_finish (u : Nat) : ((s.finish id cid r st).th u).rings = (s.th u).rings := (s.woken_finish id cid r st).rings u

theorem State.completion_finish (c : Nat) (q : Req) (st' : Nat) : (s.finish id cid r st).completion c q st' = s.completion c q st' :=
  State.completion_congr ((s.woken_finish id cid r st).tx _) q st'

theorem State.event_finish : ((s.finish id cid r st).core cid).event = true := by
  have hcore : (s.finish id cid r st).cores =
      ((s.ended id cid r st).setCore cid { (s.ended id cid r st).core cid with event := true }).cores :=
    (s.woken_finish id cid r st).cores
  rw [State.core, hcore]
  exact congrArg Core.event (State.core_setCore _ cid _)

theorem State.park_finish (h : (s.th (cid * 16 + 15)).park = .flue) : ((s.finish id cid r st).th (cid * 16 + 15)).park = .none :=
  State.park_flueEvent (s := s.ended id cid r st) h

end

/-! #### Who shares a collective (04 R91) -/

/-- The part of the machine that a COLL's scope speaks of, by its number there. -/
def Joined.place (a : Joined) : Option Nat :=
  if reqScope a.req.w0 = 3 then some (didOf a.cid)
  else if reqScope a.req.w0 = 4 then some (pkgOf a.cid)
  else none

/-- What the participants of one collective have in common. -/
def Joined.collKey (a : Joined) : Nat × Nat × Nat × Option Nat :=
  (reqCid a.req.w3, a.req.tenant, reqScope a.req.w0, a.place)

theorem sameColl_iff (a b : Joined) : sameColl a b = true ↔ a.collKey = b.collKey := by
  simp only [sameColl, Joined.collKey, Joined.place, Bool.and_eq_true, decide_eq_true_eq, Prod.mk.injEq, and_assoc]
  refine and_congr_right fun _ => and_congr_right fun _ => and_congr_right fun hscope => ?_
  rw [← hscope]
  split
  · next h => simp [h]
  · next h => simp [h]
  · next h3 h4 => exact iff_of_true rfl (by rw [if_neg h3, if_neg h4, if_neg h3, if_neg h4])

theorem sameColl_congr {a b : Joined} (h : a.collKey = b.collKey) : sameColl a = sameColl b := by
  funext c
  rw [Bool.eq_iff_iff, sameColl_iff, sameColl_iff, h]

theorem State.joined_congr (s : State) {a b : Joined} (h : a.collKey = b.collKey) : s.joined a = s.joined b := by
  unfold State.joined
  rw [sameColl_congr h]

theorem State.mem_colls {s : State} {y : Joined} : y ∈ s.colls ↔ (y.id, Item.coll y.cid y.req y.frozen) ∈ s.flight := by
  simp only [State.colls, List.mem_filterMap]
  constructor
  · rintro ⟨⟨j, x⟩, hmem, hx⟩
    cases x <;> cases hx
    exact hmem
  · exact fun h => ⟨_, h, rfl⟩

theorem State.mem_joined {s : State} {x y : Joined} :
    y ∈ s.joined x ↔ (y.id, Item.coll y.cid y.req y.frozen) ∈ s.flight ∧ x.collKey = y.collKey := by
  rw [State.joined, List.mem_filter, State.mem_colls, sameColl_iff]

theorem find?_of_mem_nodup {α : Type} {m : List (Nat × α)} (h : (m.map (·.1)).Nodup) {i : Nat} {x : α} (hx : (i, x) ∈ m) :
    m.find? (fun p => p.1 = i) = some (i, x) := by
  induction m with
  | nil => cases hx
  | cons p m ih =>
    rw [List.map_cons, List.nodup_cons] at h
    obtain ⟨hp, hm⟩ := h
    rcases List.mem_cons.1 hx with rfl | hx
    · simp
    · have hne : p.1 ≠ i := fun he => hp (he ▸ List.mem_map_of_mem (f := (·.1)) hx)
      rw [List.find?_cons_of_neg (by simpa using hne)]
      exact ih hm hx

/-- An item of a flight without double stamps is found by its stamp. -/
theorem State.item_of_mem {s : State} (h : (s.flight.map (·.1)).Nodup) {i : Nat} {x : Item} (hx : (i, x) ∈ s.flight) :
    s.item i = some x := by
  rw [State.item, find?_of_mem_nodup h hx]; rfl

theorem mem_insert_self {α : Type} (m : List (Nat × α)) (i : Nat) (x : α) : (i, x) ∈ insert m i x := by
  induction m with
  | nil => exact List.mem_singleton.2 rfl
  | cons p m ih =>
    obtain ⟨k, v⟩ := p
    simp only [insert]
    split
    · exact List.mem_cons_of_mem _ ih
    · split <;> exact List.mem_cons_self

theorem mem_insert_of_mem {α : Type} {m : List (Nat × α)} {i : Nat} (x : α) {c : Nat × α} (hc : c ∈ m) (hi : c.1 ≠ i) :
    c ∈ insert m i x := by
  induction m with
  | nil => cases hc
  | cons p m ih =>
    obtain ⟨k, v⟩ := p
    simp only [insert]
    split
    · rcases List.mem_cons.1 hc with rfl | hc
      · exact List.mem_cons_self
      · exact List.mem_cons_of_mem _ (ih hc)
    · split
      · next hk =>
        rcases List.mem_cons.1 hc with rfl | hc
        · exact absurd hk hi
        · exact List.mem_cons_of_mem _ hc
      · exact List.mem_cons_of_mem _ hc

/-! #### Freezing collectives (04 R93) -/

/-- A participant of the collective of `x` stands on a halted package. -/
def State.haltedColl (s : State) (x : Joined) : Bool := (s.joined x).any fun y => (s.pkg (pkgOf y.cid)).service.halt

/-- An item of stamp `j` after collectives have been frozen or released. -/
def State.refrozen (s : State) (j : Nat) : Item → Item
  | .coll c r f =>
    if f = s.haltedColl ⟨j, c, r, f⟩ then .coll c r f
    else .coll c { r with since := (s.time.toNat + 2 ^ 48 - r.since) % 2 ^ 48 } (s.haltedColl ⟨j, c, r, f⟩)
  | x => x

theorem State.freezeColls_flight (s : State) : s.freezeColls.flight = s.flight.map fun p => (p.1, s.refrozen p.1 p.2) := by
  refine List.map_congr_left fun p _ => ?_
  obtain ⟨j, x⟩ := p
  cases x with
  | coll c r f => exact (apply_ite (Prod.mk j) (f = s.haltedColl ⟨j, c, r, f⟩) _ _).symm
  | _ => rfl

theorem State.item_freezeColls (s : State) (j : Nat) : s.freezeColls.item j = (s.item j).map (s.refrozen j) := by
  rw [State.item, State.freezeColls_flight, State.item, List.find?_map, Option.map_map, Option.map_map]
  cases h : s.flight.find? (fun p => p.1 = j) with
  | none =>
    have h' : s.flight.find? ((fun p : Nat × Item => decide (p.1 = j)) ∘ fun p => (p.1, s.refrozen p.1 p.2)) = none := h
    rw [h']; rfl
  | some p =>
    have h' : s.flight.find? ((fun p : Nat × Item => decide (p.1 = j)) ∘ fun p => (p.1, s.refrozen p.1 p.2)) = some p := h
    have hj : p.1 = j := by simpa using List.find?_some h
    rw [h', ← hj]; rfl

/-- What a frozen or released COLL is like. -/
theorem State.refrozen_coll (s : State) (j c : Nat) (r : Req) (f : Bool) :
    ∃ r', s.refrozen j (.coll c r f) = .coll c r' (s.haltedColl ⟨j, c, r, f⟩) := by
  simp only [State.refrozen]
  split
  · next h => exact ⟨r, by rw [← h]⟩
  · exact ⟨_, rfl⟩

/-! #### A request joins (04 R91) -/

section
variable {s : State} {cid : Nat} {r : Req} (hnew : ∀ q ∈ s.flight, q.1 ≠ s.serial)
include hnew

/-- Those that have joined after a request has: itself, and those before it. -/
theorem State.mem_joined_post (x y : Joined) :
    y ∈ (s.post (.coll cid r false)).joined x ↔
      (y = ⟨s.serial, cid, r, false⟩ ∧ x.collKey = y.collKey) ∨ y ∈ s.joined x := by
  rw [State.mem_joined, State.mem_joined]
  constructor
  · rintro ⟨hmem, hkey⟩
    rcases mem_insert hmem with h | h
    · obtain ⟨h1, h2⟩ := Prod.mk.inj h
      cases y
      cases h1
      cases h2
      exact .inl ⟨rfl, hkey⟩
    · exact .inr ⟨h, hkey⟩
  · rintro (⟨rfl, hkey⟩ | ⟨hmem, hkey⟩)
    · exact ⟨mem_insert_self _ _ _, hkey⟩
    · exact ⟨mem_insert_of_mem _ hmem (hnew _ hmem), hkey⟩

/-- The collective that a request has joined stands still exactly if its own package or that of one that joined before is halted. -/
theorem State.haltedColl_post_iff (x : Joined) (hx : x.collKey = (⟨s.serial, cid, r, false⟩ : Joined).collKey) :
    (s.post (.coll cid r false)).haltedColl x = true ↔ (s.pkg (pkgOf cid)).service.halt = true ∨
      ∃ y ∈ s.joined x, (s.pkg (pkgOf y.cid)).service.halt = true := by
  simp only [State.haltedColl, List.any_eq_true]
  constructor
  · rintro ⟨y, hy, hhalt⟩
    rcases (State.mem_joined_post hnew x y).1 hy with ⟨rfl, -⟩ | hy
    · exact .inl hhalt
    · exact .inr ⟨y, hy, hhalt⟩
  · rintro (hhalt | ⟨y, hy, hhalt⟩)
    · exact ⟨_, (State.mem_joined_post hnew x _).2 (.inl ⟨rfl, hx⟩), hhalt⟩
    · exact ⟨y, (State.mem_joined_post hnew x y).2 (.inr hy), hhalt⟩

end

/-- What a request leaves that joins at a time `r.since`: itself and each one before it in the collective's state. -/
theorem State.joins_spec {s : State} {cid : Nat} {r : Req} (hnew : ∀ q ∈ s.flight, q.1 ≠ s.serial) (hsince : r.since = s.time.toNat) :
    let t := (s.post (.coll cid r false)).freezeColls
    ∃ z, (z = true ↔ (s.pkg (pkgOf cid)).service.halt = true ∨
        ∃ y ∈ s.joined ⟨s.serial, cid, r, false⟩, (s.pkg (pkgOf y.cid)).service.halt = true) ∧
      ((s.flight.map (·.1)).Nodup → ∀ y ∈ s.joined ⟨s.serial, cid, r, false⟩, ∃ r', t.item y.id = some (.coll y.cid r' z)) ∧
      t.item s.serial = some (.coll cid { r with since := if z = true then 0 else s.time.toNat } z) := by
  intro t
  refine ⟨(s.post (.coll cid r false)).haltedColl ⟨s.serial, cid, r, false⟩, State.haltedColl_post_iff hnew _ rfl,
    fun hnodup y hy => ?_, ?_⟩
  · obtain ⟨hmem, hkey⟩ := State.mem_joined.1 hy
    have hitem : (s.post (.coll cid r false)).item y.id = some (.coll y.cid y.req y.frozen) := by
      rw [State.item_post, if_neg (hnew _ hmem)]
      exact State.item_of_mem hnodup hmem
    obtain ⟨r', hr'⟩ := (s.post (.coll cid r false)).refrozen_coll y.id y.cid y.req y.frozen
    have hhalt : (s.post (.coll cid r false)).haltedColl y = (s.post (.coll cid r false)).haltedColl ⟨s.serial, cid, r, false⟩ := by
      simp only [State.haltedColl, State.joined_congr _ hkey]
    refine ⟨r', ?_⟩
    rw [State.item_freezeColls, hitem, Option.map_some, hr']
    exact congrArg (fun z => some (Item.coll y.cid r' z)) hhalt
  · rw [State.item_freezeColls, State.item_post_self, Option.map_some]
    have htime : (s.post (.coll cid r false)).time = s.time := rfl
    simp only [State.refrozen, hsince, htime]
    cases (s.post (.coll cid r false)).haltedColl ⟨s.serial, cid, r, false⟩
    · rw [if_pos rfl, if_neg Bool.false_ne_true, ← hsince]
    · rw [if_neg (by decide), if_pos rfl, Nat.add_sub_cancel_left, Nat.mod_self]

/-! #### BCPY, GATH, SCAT and COLL at issue (16 R271) -/

/-- The engine commands with their operations. -/
theorem exec_engineCommand {d : XReg} {mb : Fin 4} {p : Instr × Nat}
    (hp : p ∈ [(Instr.bcpy d mb, 0), (.gath d mb, 1), (.scat d mb, 2), (.coll d mb, 3)]) (s : State) :
    exec p.1 s = s.issue fun s => s.toEngine p.2 d mb := by
  simp only [List.mem_cons, List.not_mem_nil, or_false] at hp
  rcases hp with rfl | rfl | rfl | rfl <;> rfl

section
variable {s : State} {op mb : Nat} (hs : ∀ q ∈ (s.core s.cid).mail, s.saving s.cid q.2 = false)

theorem State.engineStatus_of_busy (h : 16 ≤ s.engines s.cid) : s.engineStatus op mb = 1 := if_pos h

include hs

theorem State.unsaved_mail : ((s.core s.cid).mail.filter fun p => !s.saving s.cid p.2) = (s.core s.cid).mail :=
  List.filter_eq_self.2 fun q hq => by rw [hs q hq]; rfl

variable (hroom : s.engines s.cid < 16)
include hroom

theorem State.engineStatus_of_empty (h : ∀ q ∈ (s.core s.cid).mail, q.1 ≠ mb) : s.engineStatus op mb = 2 := by
  have hfind : (s.core s.cid).mail.find? (fun p => p.1 = mb) = none := List.find?_eq_none.2 (by simpa using h)
  simp only [State.engineStatus, State.unsaved_mail hs, if_neg (Nat.not_le.2 hroom), hfind]

variable {n : Nat} {r : Req} {rest : List (Nat × Req)} (hmail : (s.core s.cid).mail = (n, r) :: rest)
include hmail

theorem State.engineStatus_of_younger (hn : n ≠ mb) (h : ∃ q ∈ (s.core s.cid).mail, q.1 = mb) : s.engineStatus op mb = 3 := by
  obtain ⟨p, hp⟩ := Option.ne_none_iff_exists'.1
    (mt List.find?_eq_none.1 (by simpa using h) : (s.core s.cid).mail.find? (fun p => p.1 = mb) ≠ none)
  simp only [State.engineStatus, State.unsaved_mail hs, if_neg (Nat.not_le.2 hroom), hp]
  rw [if_pos]
  simpa [hmail] using hn

theorem State.engineStatus_of_oldest (hn : n = mb) : s.engineStatus op mb = if reqOp r.w0 ≠ op then 4 else 0 := by
  have hfind : (s.core s.cid).mail.find? (fun p => p.1 = mb) = some (n, r) := by
    rw [hmail]; exact List.find?_cons_of_pos (decide_eq_true hn)
  have hhead : (s.core s.cid).mail.head?.map (·.1) = some mb := by rw [hmail, ← hn]; rfl
  simp only [State.engineStatus, State.unsaved_mail hs, if_neg (Nat.not_le.2 hroom), hfind, hhead, ne_eq, not_true, if_false]

end

/-- A mailbox is emptied. -/
def State.unmailed (s : State) (mb : Fin 4) : State :=
  s.setCore s.cid { s.core s.cid with mail := (s.core s.cid).mail.filter fun p => decide (p.1 ≠ mb.val) }

/-- A request is taken out of its mailbox, and the command answers 0. -/
def State.taken (s : State) (d : XReg) (mb : Fin 4) : State := ((s.unmailed mb).wakeMail s.cid).writeX d 0

/-- A taken request starts. -/
def State.startReq (s : State) (op : Nat) (r : Req) : State :=
  if op ≠ 3 then s.post (.engine s.cid r)
  else if s.liveClusters s.cid r < reqPcnt r.w3 then s.post (.message (s.completion s.cid r 4))
  else s.joinColl s.cid r

section
variable {s : State} {d : XReg} {mb : Fin 4} (op : Nat) (hr : s.Ready [] [xplace d]) (ha : s.acquiring s.cur = false)
include hr ha

theorem State.toEngine_of_slot (h : slotOf s.cur ≠ 15) : s.toEngine op d mb = .error (.trap 0x02 s.iss.word) := by
  simp only [State.toEngine, State.commandReady hr ha, decide_eq_true h, except_ok_bind, raiseIf_true, except_error_bind]

variable (h : slotOf s.cur = 15)
include h

theorem State.toEngine_of_status {n : Nat} (hst : s.engineStatus op mb.val = n + 1) :
    s.toEngine op d mb = .ok (s.writeX d (BitVec.ofNat 64 (n + 1))) := by
  simp only [State.toEngine, State.commandReady hr ha, decide_eq_false (not_not.2 h), except_ok_bind, raiseIf_false, hst, except_pure]

theorem State.toEngine_of_taken {r : Req} {rest : List (Nat × Req)} (hmail : (s.core s.cid).mail = (mb.val, r) :: rest)
    (hst : s.engineStatus op mb.val = 0) : s.toEngine op d mb = .ok ((s.taken d mb).startReq op r) := by
  have hfind : (s.core s.cid).mail.find? (fun p => decide (p.1 = mb.val)) = some (mb.val, r) := by
    rw [hmail]; exact List.find?_cons_of_pos (decide_eq_true rfl)
  simp only [State.toEngine, State.commandReady hr ha, decide_eq_false (not_not.2 h), except_ok_bind, raiseIf_false, hst, hfind, except_pure]
  rw [State.startReq, apply_ite Except.ok, apply_ite Except.ok]
  rfl

end

/-- What a request's start reads of a state, and what it leaves unchanged. -/
structure State.StartsAlike (s t : State) : Prop where
  mem : t.mem = s.mem
  flight : t.flight = s.flight
  serial : t.serial = s.serial
  cur : t.cur = s.cur
  time : t.time = s.time
  pkgs : t.pkgs = s.pkgs
  clusters : t.clusters = s.clusters
  npkg : t.npkg = s.npkg
  tx (u : Nat) : (t.th u).tx = (s.th u).tx
  rank (u : Nat) : (t.th u).rank = (s.th u).rank

theorem State.startsAlike_writeX (s : State) (d : XReg) (w : Word) : s.StartsAlike (s.writeX d w) :=
  have hth (u : Nat) : ((s.writeX d w).th u).tx = (s.th u).tx ∧ ((s.writeX d w).th u).rank = (s.th u).rank := by
    rcases eq_or_ne u s.cur with rfl | hu
    · have hme : (s.writeX d w).th s.cur = (s.th s.cur).setReg d.val w := s.me_updMe fun t => t.setReg d.val w
      rw [hme]
      exact ⟨rfl, rfl⟩
    · have hne : (s.writeX d w).th u = s.th u := s.th_updMe_of_ne (fun t => t.setReg d.val w) u hu
      rw [hne]
      exact ⟨rfl, rfl⟩
  ⟨rfl, rfl, rfl, rfl, rfl, rfl, rfl, rfl, fun u => (hth u).1, fun u => (hth u).2⟩

theorem State.StartsAlike.trans {s t u : State} (h : s.StartsAlike t) (h' : t.StartsAlike u) : s.StartsAlike u :=
  ⟨h'.mem.trans h.mem, h'.flight.trans h.flight, h'.serial.trans h.serial, h'.cur.trans h.cur, h'.time.trans h.time,
    h'.pkgs.trans h.pkgs, h'.clusters.trans h.clusters, h'.npkg.trans h.npkg, fun u => (h'.tx u).trans (h.tx u),
    fun u => (h'.rank u).trans (h.rank u)⟩

theorem State.Woken.startsAlike {s t : State} (h : s.Woken t) : s.StartsAlike t :=
  ⟨h.mem, h.flight, h.serial, h.cur, h.time, h.pkgs, h.clusters, h.npkg, h.tx, h.rank⟩

theorem State.startsAlike_taken (s : State) (d : XReg) (mb : Fin 4) : s.StartsAlike (s.taken d mb) :=
  have hmail : s.StartsAlike (s.unmailed mb) := ⟨rfl, rfl, rfl, rfl, rfl, rfl, rfl, rfl, fun _ => rfl, fun _ => rfl⟩
  (hmail.trans (State.woken_wakeMail _ s.cid).startsAlike).trans (State.startsAlike_writeX _ d 0)

theorem State.cores_writeX (s : State) (d : XReg) (w : Word) : (s.writeX d w).cores = s.cores := rfl

theorem State.core_taken (s : State) (d : XReg) (mb : Fin 4) :
    (s.taken d mb).core s.cid = { s.core s.cid with mail := (s.core s.cid).mail.filter fun p => decide (p.1 ≠ mb.val) } := by
  have hcores : (s.taken d mb).cores = (s.unmailed mb).cores :=
    (State.cores_writeX _ d 0).trans (State.woken_wakeMail (s.unmailed mb) s.cid).cores
  have hcore : (s.taken d mb).core s.cid = (s.unmailed mb).core s.cid := by rw [State.core, State.core, hcores]
  exact hcore.trans (State.core_setCore _ _ _)

namespace State.StartsAlike
variable {s t : State} (h : s.StartsAlike t)
include h

theorem cid : t.cid = s.cid := by rw [State.cid, State.cid, h.cur]
theorem pkg (p : Nat) : t.pkg p = s.pkg p := by rw [State.pkg, State.pkg, h.pkgs]
theorem group (p g : Nat) : t.group p g = s.group p g := by rw [State.group, State.group, h.pkg]
theorem cluster (c : Nat) : t.cluster c = s.cluster c := by rw [State.cluster, State.cluster, h.clusters]
theorem joined (x : Joined) : t.joined x = s.joined x := by rw [State.joined, State.joined, State.colls, State.colls, h.flight]
theorem liveClusters (c : Nat) (r : Req) : t.liveClusters c r = s.liveClusters c r := by
  simp only [State.liveClusters, h.cluster, h.npkg]
theorem lowestRank (c : Nat) (g : Option Nat) : t.lowestRank c g = s.lowestRank c g := by
  simp only [State.lowestRank, h.group, h.rank]
theorem completion (c : Nat) (r : Req) (st : Nat) : t.completion c r st = s.completion c r st := State.completion_congr (h.tx _) r st

end State.StartsAlike

theorem State.me_startReq (s : State) (op : Nat) (r : Req) : (s.startReq op r).me = s.me := by
  unfold State.startReq
  split
  · rfl
  · split <;> rfl

theorem State.mem_startReq (s : State) (op : Nat) (r : Req) : (s.startReq op r).mem = s.mem := by
  unfold State.startReq
  split
  · rfl
  · split <;> rfl

theorem State.core_startReq (s : State) (op : Nat) (r : Req) (c : Nat) : (s.startReq op r).core c = s.core c := by
  unfold State.startReq
  split
  · rfl
  · split <;> rfl

/-- What a taken request starts as. -/
theorem State.startReq_spec {s t : State} (h : s.StartsAlike t) (op : Nat) (r : Req) :
    (op ≠ 3 → (t.startReq op r).item s.serial = some (.engine s.cid r)) ∧
    (op = 3 → s.liveClusters s.cid r < reqPcnt r.w3 →
      (t.startReq op r).item s.serial = some (.message (s.completion s.cid r 4))) ∧
    (op = 3 → reqPcnt r.w3 ≤ s.liveClusters s.cid r → (∀ q ∈ s.flight, q.1 ≠ s.serial) → ∃ z,
      (z = true ↔ (s.pkg (pkgOf s.cid)).service.halt = true ∨
        ∃ y ∈ s.joined ⟨0, s.cid, r, false⟩, (s.pkg (pkgOf y.cid)).service.halt = true) ∧
      ((s.flight.map (·.1)).Nodup → ∀ y ∈ s.joined ⟨0, s.cid, r, false⟩,
        ∃ r', (t.startReq op r).item y.id = some (.coll y.cid r' z)) ∧
      (t.startReq op r).item s.serial = some (.coll s.cid
        { r with rank := s.lowestRank s.cid r.grp, since := if z = true then 0 else s.time.toNat } z)) := by
  refine ⟨fun hop => ?_, fun hop hlive => ?_, fun hop hlive hnew => ?_⟩
  · rw [State.startReq, if_pos hop, h.cid, ← h.serial]
    exact t.item_post_self _
  · rw [State.startReq, if_neg (not_not.2 hop), if_pos (by rwa [h.cid, h.liveClusters]), h.cid, h.completion, ← h.serial]
    exact t.item_post_self _
  · rw [State.startReq, if_neg (not_not.2 hop), if_neg (by rw [h.cid, h.liveClusters]; exact Nat.not_lt.2 hlive), h.cid]
    obtain ⟨z, hz, hothers, hown⟩ := State.joins_spec (s := t) (cid := s.cid)
      (r := { r with rank := t.lowestRank s.cid r.grp, since := t.time.toNat }) (by rwa [h.flight, h.serial]) rfl
    have hjoined : t.joined ⟨t.serial, s.cid, { r with rank := t.lowestRank s.cid r.grp, since := t.time.toNat }, false⟩ =
        s.joined ⟨0, s.cid, r, false⟩ := (t.joined_congr rfl).trans (h.joined _)
    rw [hjoined] at hz hothers
    rw [h.flight] at hothers
    rw [h.serial] at hown
    refine ⟨z, ?_, hothers, hown.trans ?_⟩
    · simpa only [h.pkg] using hz
    · rw [h.lowestRank, h.time]

/-! #### The steps of an engine that move nothing (04 R86 to R89) -/

theorem State.mem_enterNet (s : State) (die : Nat) (x : Packet) : (s.enterNet die x).mem = s.mem := rfl

theorem State.mem_sendOut (s : State) (id cid tenant deadline : Nat) (wr : Bool) (runs : List (Nat × Nat)) :
    (s.sendOut id cid tenant deadline wr runs).mem = s.mem :=
  foldl_keeps (R := fun s t : State => t.mem = s.mem) (fun _ => rfl) (fun _ _ _ h h' => h'.trans h) _
    (fun u _ => State.mem_enterNet u _ _) _ s

theorem State.mem_sendPath (s : State) (id cid : Nat) (r : Req) : (s.sendPath id cid r).mem = s.mem :=
  (State.mem_sendOut _ _ _ _ _ _ _).trans (s.mem_sendOut _ _ _ _ _ _)

section
variable {s : State} {id cid : Nat} {r : Req} (hitem : s.item id = some (.engine cid r))
include hitem

theorem execCompletionMessage_of_failed (hf : r.fail = true) : execCompletionMessage id s = .next (s.finish id cid r 2) := by
  simp only [execCompletionMessage, hitem, hf, if_true]

variable (hf : r.fail = false)
include hf

theorem execCompletionMessage_of_refused (hr : r.refused = true) : execCompletionMessage id s = .next (s.finish id cid r 3) := by
  simp only [execCompletionMessage, hitem, hf, hr, Bool.false_eq_true, if_true, if_false]

variable (hr : r.refused = false)
include hr

theorem execCompletionMessage_of_held (h : r.pause ≠ .no ∨ s.drained r.tid id = false) : execCompletionMessage id s = .next s := by
  have hheld : (decide (r.pause ≠ .no) || !s.drained r.tid id) = true := by simpa using h
  simp only [execCompletionMessage, hitem, hf, hr, Bool.false_eq_true, if_false]
  exact if_pos hheld

theorem execCompletionMessage_of_step (hp : r.pause = .no) (hd : s.drained r.tid id = true) :
    execCompletionMessage id s = .next (if reqOp r.w0 = 0 then s.stepCopy id cid r else s.stepIndexed id cid r) := by
  simp only [execCompletionMessage, hitem, hf, hr, hp, hd, Bool.false_eq_true, if_false, ne_eq, not_true, decide_false, Bool.not_true,
    Bool.or_self]

end

section
variable {s : State} {id cid : Nat} {r : Req}

theorem State.stepCopy_of_done (hpath : r.path = []) (h : reqLen r.w3 ≤ r.pos) : s.stepCopy id cid r = s.complete id cid r := by
  simp only [State.stepCopy, hpath, List.isEmpty_nil, Bool.not_true, Bool.false_eq_true, if_false, if_pos h]

/-- The bytes of a near endpoint lie in one run. -/
theorem State.endRuns_near (s : State) (cid tenant : Nat) (wr : Bool) (k room fuel off : Nat) {n : Nat} (hn : n ≠ 0) :
    s.endRuns cid tenant wr (.near k room) (fuel + 1) off n = .ok [(k + off, n)] := by
  simp only [State.endRuns, if_neg hn]

/-- A copy between near endpoints sends for the bytes up to the next boundary of 256 of its destination. -/
theorem State.stepCopy_of_near {sk sn dk dn : Nat} (hs : r.src = .near sk sn) (hd : r.dst = .near dk dn) (hpath : r.path = [])
    (h : r.pos < reqLen r.w3) :
    let n := min (reqLen r.w3 - r.pos) (256 - (dk + r.pos) % 256)
    let r' := r.take { rd := [(sk + r.pos, n)], wr := [(dk + r.pos, n)] } s.serial
    s.stepCopy id cid r = (s.numbered.sendPath id cid r').setReq id cid r' := by
  intro n r'
  have hn : n ≠ 0 := by have := Nat.mod_lt (dk + r.pos) (show 256 > 0 by decide); omega
  have hbound : min (reqLen r.w3 - r.pos) (256 - r.dst.within r.pos % 256) = n := by rw [hd]; rfl
  have hread : s.endRuns cid r.tenant false r.src 2 r.pos n = .ok [(sk + r.pos, n)] := by
    rw [hs]; exact s.endRuns_near cid r.tenant false sk sn 1 r.pos hn
  have hwrite : s.endRuns cid r.tenant true r.dst 2 r.pos n = .ok [(dk + r.pos, n)] := by
    rw [hd]; exact s.endRuns_near cid r.tenant true dk dn 1 r.pos hn
  have hdirty : s.dirtyEnd cid r.tenant r.dst r.pos n = s := by rw [hd]; rfl
  simp only [State.stepCopy, hpath, List.isEmpty_nil, Bool.not_true, Bool.false_eq_true, if_false, if_neg (Nat.not_le.2 h), hbound,
    hread, hwrite, hdirty]
  rfl

variable {f : Fmt} (hf : reqFmt r.w0 = some f) (h : r.pos < reqN r.w3)
include hf h

theorem State.stepIndexed_of_cut (hcut : s.cutOff cid r.tenant (State.indexRun r) ≠ []) :
    s.stepIndexed id cid r = (s.crossing cid r.tenant r.deadline false (State.indexRun r)).finish id cid r 3 := by
  have hcut' : (s.cutOff cid r.tenant (State.indexRun r)).isEmpty = false := by
    rw [← Bool.not_eq_true, List.isEmpty_iff]; exact hcut
  simp only [State.stepIndexed, hf, if_neg (Nat.not_le.2 h), hcut', Bool.not_false, if_true]

variable (hcut : s.cutOff cid r.tenant (State.indexRun r) = [])
include hcut

/-- One index taken in: memory is as before, and the request holds what the index names. -/
theorem State.stepIndexed_of_hop {hop : Option Hop} (hhop : s.indexHop cid r (fmtWidth f) = .ok hop)
    (hnear : hop.isSome = true → ∃ k room, r.dst = .near k room) :
    ∃ t, s.stepIndexed id cid r = t ∧ t.mem = s.mem ∧ t.item id = some (.engine cid
      { (match hop with
        | some h => r.take h s.serial
        | none => r) with pos := r.pos + 1, exc := r.exc + uncounted hop }) := by
  simp only [State.stepIndexed, hf, if_neg (Nat.not_le.2 h), hcut, List.isEmpty_nil, Bool.not_true, Bool.false_eq_true, if_false, hhop]
  refine ⟨_, rfl, ?_, State.item_setItem_self _ _ _⟩
  have hcross := (s.portsPassed_crossing cid r.tenant r.deadline false (State.indexRun r)).mem
  generalize s.crossing cid r.tenant r.deadline false (State.indexRun r) = v at hcross
  have hmem : (if hop.isSome = true then (v.dirtyHop cid r (fmtWidth f) (s.wroteTo r (fmtWidth f))).numbered else v).mem = s.mem := by
    split
    · next hsome =>
      obtain ⟨k, room, hk⟩ := hnear hsome
      rw [State.dirtyHop, hk]
      exact hcross
    · exact hcross
  generalize (if hop.isSome = true then (v.dirtyHop cid r (fmtWidth f) (s.wroteTo r (fmtWidth f))).numbered else v) = u at hmem
  split
  · exact (State.mem_sendPath _ _ _ _).trans hmem
  · exact hmem

end

section
variable {s : State} {cid : Nat} {r : Req}

/-- The access of an index of a GATH between near endpoints, of an element or of none. -/
theorem State.indexHop_of_gath (hop : reqOp r.w0 = 1) {sk sn dk dn : Nat} (hs : r.src = .near sk sn)
    (hd : r.dst = .near dk dn) (w : Nat) :
    (∀ i, s.indexAt r w r.src = .elem i → s.indexHop cid r w =
      .ok (some
        { rd := [(sk + i * w / 8, max 1 (w / 8))], wr := [(dk + r.pos * w / 8, max 1 (w / 8))], rn := i % 2, wn := r.pos % 2 })) ∧
    (s.indexAt r w r.src = .none → s.indexHop cid r w =
      .ok (some { rd := [], wr := [(dk + r.pos * w / 8, max 1 (w / 8))], wn := r.pos % 2 })) := by
  have hn : max 1 (w / 8) ≠ 0 := by omega
  have hread (i : Nat) : s.elemRuns cid r.tenant false r.src w i = .ok [(sk + i * w / 8, max 1 (w / 8))] := by
    rw [hs]; exact s.endRuns_near cid r.tenant false sk sn 1 _ hn
  have hwrite : s.elemRuns cid r.tenant true r.dst w r.pos = .ok [(dk + r.pos * w / 8, max 1 (w / 8))] := by
    rw [hd]; exact s.endRuns_near cid r.tenant true dk dn 1 _ hn
  refine ⟨fun i hi => ?_, fun hi => ?_⟩
  · simp only [State.indexHop, hop, if_true, hi, hread, hwrite, except_ok_bind, except_pure]
  · simp only [State.indexHop, hop, if_true, hi, hwrite, except_ok_bind, except_pure]
    rfl

theorem State.indexHop_of_scat (hop : reqOp r.w0 = 2) {w : Nat} (hi : s.indexAt r w r.dst = .none) : s.indexHop cid r w = .ok none := by
  simp only [State.indexHop, hop, hi]
  rfl

end

/-! #### Cells that an engine writes (04 R87) -/

/-- What a byte holds once cells are written over `d`. -/
def byteAt (m : Cells) (d : Byte) (a : Nat) : Byte := (lookup (d, false) m a).1

theorem byteAt_of_absent {m : Cells} {a : Nat} (h : ∀ c ∈ m, c.1 ≠ a) (d : Byte) : byteAt m d a = d := by
  rw [byteAt, lookup_of_absent _ _ _ h]

theorem byteAt_cons (c : Nat × (Byte × Bool)) (m : Cells) (d : Byte) (a : Nat) :
    byteAt (c :: m) d a = if c.1 = a then c.2.1 else byteAt m d a := by
  simp only [byteAt, lookup]
  split <;> rfl

theorem byteAt_idem (m : Cells) (d : Byte) (a : Nat) : byteAt m (byteAt m d a) a = byteAt m d a := by
  induction m with
  | nil => rfl
  | cons c m ih =>
    simp only [byteAt_cons]
    split
    · rfl
    · exact ih

theorem byteAt_filter {m : Cells} {q : Nat → Bool} {a : Nat} (ha : q a = true) (d : Byte) :
    byteAt (m.filter fun c => q c.1) d a = byteAt m d a := by
  induction m with
  | nil => rfl
  | cons c m ih =>
    rw [List.filter_cons]
    split
    · rw [byteAt_cons, byteAt_cons, ih]
    · next hc => rw [byteAt_cons, if_neg (fun he : c.1 = a => hc (he ▸ ha)), ih]

theorem byteAt_of_mem {m : Cells} (hm : (m.map (·.1)).Nodup) {c : Nat × (Byte × Bool)} (hc : c ∈ m) (d : Byte) :
    byteAt m d c.1 = c.2.1 := by
  induction m with
  | nil => cases hc
  | cons e m ih =>
    rw [List.map_cons, List.nodup_cons] at hm
    obtain ⟨he, hm⟩ := hm
    rw [byteAt_cons]
    rcases List.mem_cons.1 hc with rfl | hc
    · rw [if_pos rfl]
    · rw [if_neg (fun h : e.1 = c.1 => he (h ▸ List.mem_map_of_mem (f := (·.1)) hc)), ih hm hc]

/-- Of a state without poison only bytes change, those for which `f` says what they hold. -/
structure State.BytesSet (s t : State) (f : Nat → Byte) : Prop where
  frame : t = { s with mem := t.mem }
  mem (a : Nat) : readByte t.mem a = f a

theorem State.storeAt_frame {s : State} (hp : s.poison = []) (k : Nat) (data : List Byte) :
    s.storeAt k data = { s with mem := (s.storeAt k data).mem } := by
  have : (s.storeAt k data).poison = s.poison := by
    show List.filter _ s.poison = s.poison
    rw [hp]; rfl
  conv_lhs => rw [show s.storeAt k data = { s with mem := (s.storeAt k data).mem, poison := (s.storeAt k data).poison } from rfl, this]

theorem State.readByte_storeAt_inside {s : State} (hp : s.poison = []) {k i : Nat} {data : List Byte} (hi : i < data.length)
    (hshown : s.hidden (k + i) = false) : readByte (s.storeAt k data).mem (k + i) = data.getD i 0 :=
  readByte_writeBytes_inside _ data s.mem k i hi (by simp [hshown, hp])

/-- A byte is stored at the place of its cell. -/
theorem State.readByte_storeByte {s : State} (hp : s.poison = []) {k : Nat} (b : Byte) (hshown : s.hidden k = false) (a : Nat) :
    readByte (s.storeAt k [b]).mem a = if k = a then b else readByte s.mem a := by
  split
  · next h => subst h; exact State.readByte_storeAt_inside hp (i := 0) (Nat.lt_succ_self 0) hshown
  · next h => exact readByte_storeAt_outside s k [b] a (by simp only [List.length_singleton]; omega)

/-- Cells are stored one by one. -/
theorem State.bytesSet_storeEach {s : State} (hp : s.poison = []) {m : Cells} (hm : (m.map (·.1)).Nodup)
    (hshown : ∀ c ∈ m, s.hidden c.1 = false) :
    s.BytesSet (m.foldl (fun (s : State) c => s.storeAt c.1 [c.2.1]) s) fun a => byteAt m (readByte s.mem a) a := by
  induction m generalizing s with
  | nil => exact ⟨rfl, fun _ => rfl⟩
  | cons c m ih =>
    rw [List.map_cons, List.nodup_cons] at hm
    obtain ⟨hc, hm⟩ := hm
    have hframe := State.storeAt_frame hp c.1 [c.2.1]
    have hstep := ih (s := s.storeAt c.1 [c.2.1]) (by rw [hframe]; exact hp) hm
      fun e he => by rw [hframe]; exact hshown e (List.mem_cons_of_mem _ he)
    refine ⟨?_, fun a => ?_⟩
    · rw [List.foldl_cons, hstep.frame, hframe]
    · rw [List.foldl_cons, hstep.mem a, State.readByte_storeByte hp _ (hshown c List.mem_cons_self), byteAt_cons]
      split
      · next h => exact byteAt_of_absent (fun e he hea => hc (h.trans hea.symm ▸ List.mem_map_of_mem (f := (·.1)) he)) _
      · rfl

/-- Eight cells of one word, in ascending order, are the word's bytes. -/
theorem keys_of_full_word {m : Cells} {w : Nat} (hm : m.Pairwise fun a b => a.1 < b.1) (hw : ∀ c ∈ m, c.1 / 8 = w) (hlen : m.length = 8) :
    m.map (·.1) = List.range' (8 * w) 8 := by
  have hkeys : (m.map (·.1)).Pairwise (· < ·) := List.pairwise_map.2 hm
  have hsub : (m.map (·.1)) ⊆ List.range' (8 * w) 8 := fun k hk => by
    obtain ⟨c, hc, rfl⟩ := List.mem_map.1 hk
    have := hw c hc
    rw [List.mem_range'_1]
    omega
  have hperm : (m.map (·.1)).Perm (List.range' (8 * w) 8) :=
    (List.subperm_of_subset (hkeys.imp Nat.ne_of_lt) hsub).perm_of_length_le (by simp [hlen])
  exact hperm.eq_of_pairwise' (hkeys.imp Nat.le_of_lt) ((List.pairwise_lt_range' ..).imp Nat.le_of_lt)

/-- The cells of one word. -/
def wordCells (m : Cells) (w : Nat) : Cells := m.filter fun c => decide (c.1 / 8 = w)

/-- The cells of one word are stored. -/
def State.storeWord (s : State) (m : Cells) (w : Nat) : State :=
  if (wordCells m w).length = 8 then s.storeAt (8 * w) ((wordCells m w).map (·.2.1))
  else (wordCells m w).foldl (fun (s : State) c => s.storeAt c.1 [c.2.1]) s

section
variable {m : Cells} (hm : m.Pairwise fun a b => a.1 < b.1)
include hm

theorem State.bytesSet_storeWord {s : State} (hp : s.poison = []) (hshown : ∀ c ∈ m, s.hidden c.1 = false) (w : Nat) :
    s.BytesSet (s.storeWord m w) fun a => if a / 8 = w then byteAt m (readByte s.mem a) a else readByte s.mem a := by
  have hown : (wordCells m w).Pairwise fun a b => a.1 < b.1 := hm.filter _
  have hnodup : ((wordCells m w).map (·.1)).Nodup := (List.pairwise_map.2 hown).imp Nat.ne_of_lt
  have hword : ∀ c ∈ wordCells m w, c.1 / 8 = w := fun c hc => of_decide_eq_true (List.mem_filter.1 hc).2
  have hshown' : ∀ c ∈ wordCells m w, s.hidden c.1 = false := fun c hc => hshown c (List.mem_filter.1 hc).1
  have hat (a : Nat) : byteAt (wordCells m w) (readByte s.mem a) a =
      if a / 8 = w then byteAt m (readByte s.mem a) a else readByte s.mem a := by
    split
    · next h => exact byteAt_filter (q := fun k => decide (k / 8 = w)) (decide_eq_true h) _
    · next h => exact byteAt_of_absent (fun c hc (he : c.1 = a) => h (he ▸ hword c hc)) _
  unfold State.storeWord
  split
  · next hlen =>
    refine ⟨State.storeAt_frame hp _ _, fun a => ?_⟩
    rw [← hat]
    have hkeys := keys_of_full_word hown hword hlen
    by_cases ha : a / 8 = w
    · obtain ⟨i, hi, rfl⟩ : ∃ i, i < 8 ∧ a = 8 * w + i := ⟨a - 8 * w, by omega, by omega⟩
      have hi' : i < (wordCells m w).length := by omega
      have hkey : (wordCells m w)[i].1 = 8 * w + i := by
        have := congrArg (fun l => l[i]?) hkeys
        simpa [hi, hi'] using this
      have hbyte := byteAt_of_mem hnodup (List.getElem_mem hi') (readByte s.mem (8 * w + i))
      rw [hkey] at hbyte
      rw [hbyte, State.readByte_storeAt_inside hp (by simpa using hi')]
      · simp [hi']
      · exact hkey ▸ hshown' _ (List.getElem_mem hi')
    · rw [byteAt_of_absent fun c hc (he : c.1 = a) => ha (he ▸ hword c hc)]
      exact readByte_storeAt_outside _ _ _ _ (by rw [List.length_map, hlen]; omega)
  · have h := State.bytesSet_storeEach hp hnodup hshown'
    exact ⟨h.frame, fun a => (h.mem a).trans (hat a)⟩

/-- The cells of some words are stored. -/
theorem State.bytesSet_storeWords (ws : List Nat) {s : State} (hp : s.poison = []) (hshown : ∀ c ∈ m, s.hidden c.1 = false) :
    s.BytesSet (ws.foldl (fun s w => s.storeWord m w) s) fun a =>
      if a / 8 ∈ ws then byteAt m (readByte s.mem a) a else readByte s.mem a := by
  induction ws generalizing s with
  | nil => exact ⟨rfl, fun _ => rfl⟩
  | cons w ws ih =>
    have hw := State.bytesSet_storeWord hm hp hshown w
    have hrest := ih (s := s.storeWord m w) (by rw [hw.frame]; exact hp) fun c hc => by rw [hw.frame]; exact hshown c hc
    refine ⟨by rw [List.foldl_cons, hrest.frame, hw.frame], fun a => ?_⟩
    rw [List.foldl_cons, hrest.mem, hw.mem]
    by_cases ha : a / 8 = w
    · rw [if_pos ha, if_pos (List.mem_cons.2 (.inl ha)), byteAt_idem, ite_self]
    · rw [if_neg ha]
      simp only [List.mem_cons, ha, false_or]

/-- Clean cells, in ascending order, are written as they are where no word is poisoned. -/
theorem State.writeCells_spec {s : State} (hp : s.poison = []) (hshown : ∀ c ∈ m, s.hidden c.1 = false)
    (hclean : ∀ c ∈ m, c.2.2 = false) :
    (s.writeCells m).2 = 0 ∧ s.BytesSet (s.writeCells m).1 fun a => byteAt m (readByte s.mem a) a := by
  have hclean' (w : Nat) : (wordCells m w).any (·.2.2) = false :=
    List.any_eq_false.2 fun c hc => by rw [hclean c (List.mem_filter.1 hc).1]; exact Bool.false_ne_true
  have hwrite : s.writeCells m = ((m.map fun c => c.1 / 8).eraseDups.foldl (fun s w => s.storeWord m w) s, 0) := by
    have hstep : ∀ (ws : List Nat) (u : State), ws.foldl (fun (p : State × Nat) w =>
        if (wordCells m w).any (·.2.2) then
          (if isHostKey (8 * w) then p.1.storeWord m w else (p.1.storeWord m w).writePoison (8 * w), p.2 + 1)
        else (p.1.storeWord m w, p.2)) (u, 0) = (ws.foldl (fun s w => s.storeWord m w) u, 0) := by
      intro ws
      induction ws with
      | nil => exact fun u => rfl
      | cons w ws ih =>
        intro u
        rw [List.foldl_cons, hclean' w, if_neg Bool.false_ne_true]
        exact ih _
    exact hstep _ s
  rw [hwrite]
  have h := State.bytesSet_storeWords hm (m.map fun c => c.1 / 8).eraseDups hp hshown
  refine ⟨rfl, h.frame, fun a => (h.mem a).trans ?_⟩
  split
  · rfl
  · next ha =>
    refine (byteAt_of_absent (fun c hc he => ha ?_) _).symm
    rw [List.mem_eraseDups, ← he]
    exact List.mem_map_of_mem (f := fun c => c.1 / 8) hc

end

/-! #### One access between local keys, performed (04 R87) -/

/-- What a hop brings for the bytes that it writes, over what the hops before it write. -/
def State.hopPut (s : State) (net : List (Nat × Packet)) (r : Req) (m : Cells) (h : Hop) : List (Byte × Bool) :=
  let got := (keysOf h.rd).map (s.engByte net)
  if reqOp r.w0 = 0 then got
  else match reqFmt r.w0 with
    | none => []
    | some f =>
      let old := (keysOf h.wr).map fun k => lookup (BitVec.ofNat 8 (s.load k 1), false) m k
      let x := if h.rd.isEmpty then (absentCode f, h.bad) else elemAt got (fmtWidth f) h.rn
      elemBytes old (fmtWidth f) h.wn x.1 x.2

theorem State.hopCells_eq (s : State) (net : List (Nat × Packet)) (r : Req) (m : Cells) (h : Hop) :
    s.hopCells net r m h = (((keysOf h.wr).zip (s.hopPut net r m h)).filter fun c => reached net true c.1).foldl
      (fun (m : Cells) c => insert m c.1 c.2) m := rfl

theorem keysOf_run (k n : Nat) : keysOf [(k, n)] = List.range' k n := by
  rw [keysOf, List.flatMap_singleton, List.range'_eq_map_range]

/-- A byte of a local store does not cross the far net. -/
theorem reached_of_local (net : List (Nat × Packet)) (wr : Bool) {k : Nat} (hlo : 2 ^ 50 ≤ k) (hhi : k < 2 ^ 52) :
    reached net wr k = true := by
  have hc : crosses k = false := by
    simp only [crosses, isFarKey, isDieKey, isHostKey, Bool.or_eq_false_iff, Bool.and_eq_false_iff, decide_eq_false_iff_not]
    omega
  rw [reached, hc]; rfl

/-- A byte of a local store where no word is poisoned comes clean. -/
theorem State.engByte_of_local {s : State} (hp : s.poison = []) (net : List (Nat × Packet)) {k : Nat}
    (hlo : 2 ^ 50 ≤ k) (hhi : k < 2 ^ 52) :
    s.engByte net k = (BitVec.ofNat 8 (s.load k 1), false) := by
  have hpoison : s.poisoned k 1 = false := by rw [State.poisoned, hp]; rfl
  rw [State.engByte, reached_of_local net false hlo hhi, hpoison]; rfl

/-- An entry behind every other goes to the end. -/
theorem insert_of_last {α : Type} {m : List (Nat × α)} {i : Nat} (x : α) (h : ∀ c ∈ m, c.1 < i) : insert m i x = m ++ [(i, x)] := by
  induction m with
  | nil => rfl
  | cons c m ih =>
    obtain ⟨k, v⟩ := c
    have hk : k < i := h (k, v) List.mem_cons_self
    rw [insert, if_pos hk, ih fun c hc => h c (List.mem_cons_of_mem _ hc)]
    rfl

/-- Entries that come in ascending order are kept as they come. -/
theorem foldl_insert_of_rising {α : Type} {l : List (Nat × α)} (h : l.Pairwise fun a b => a.1 < b.1) :
    l.foldl (fun m c => insert m c.1 c.2) [] = l := by
  induction l using List.reverseRecOn with
  | nil => rfl
  | append_singleton l c ih =>
    obtain ⟨hl, -, hlast⟩ := List.pairwise_append.1 h
    rw [List.foldl_append, ih hl]
    exact insert_of_last c.2 fun e he => hlast e he c (List.mem_singleton.2 rfl)

section
variable {s : State} {id : Nat} {r : Req} {h : Hop} {dk n : Nat} (hwr : h.wr = [(dk, n)]) (hlo : 2 ^ 50 ≤ dk) (hhi : dk + n ≤ 2 ^ 52)
include hwr hlo hhi

/-- The cells of a hop whose bytes all reach their place. -/
theorem State.hopCells_of_local {net : List (Nat × Packet)} (hlen : (s.hopPut net r [] h).length = n) :
    s.hopCells net r [] h = (List.range' dk n).zip (s.hopPut net r [] h) ∧
      ((List.range' dk n).zip (s.hopPut net r [] h)).Pairwise fun a b => a.1 < b.1 := by
  have hkeys : ∀ c ∈ (List.range' dk n).zip (s.hopPut net r [] h), reached net true c.1 = true := fun c hc => by
    have hmem := List.mem_range'_1.1 (List.of_mem_zip hc).1
    exact reached_of_local net true (hlo.trans hmem.1) (hmem.2.trans_le hhi)
  have hrising : ((List.range' dk n).zip (s.hopPut net r [] h)).Pairwise fun a b => a.1 < b.1 := by
    refine (List.pairwise_map (f := Prod.fst) (R := (· < ·))).1 ?_
    rw [List.map_fst_zip (by rw [List.length_range', hlen])]
    exact List.pairwise_lt_range' ..
  rw [State.hopCells_eq, hwr, keysOf_run, List.filter_eq_self.2 hkeys, foldl_insert_of_rising hrising]
  exact ⟨rfl, hrising⟩

theorem Hop.bits_of_local (net : List (Nat × Packet)) (hf : ¬(reqOp r.w0 ≠ 0 ∧ (reqFmt r.w0).map fmtWidth = some 4)) :
    h.bits net r = 8 * n := by
  have hkeys : ∀ k ∈ List.range' dk n, reached net true k = true := fun k hk => by
    have hmem := List.mem_range'_1.1 hk
    exact reached_of_local net true (hlo.trans hmem.1) (hmem.2.trans_le hhi)
  simp only [Hop.bits, hwr, keysOf_run, List.filter_eq_self.2 hkeys, List.length_range', if_neg hf]

/-- What one hop between local keys leaves once performed. -/
theorem State.performPath_of_local (hpath : r.path = [h]) (hf : ¬(reqOp r.w0 ≠ 0 ∧ (reqFmt r.w0).map fmtWidth = some 4))
    (hp : s.poison = []) (hlocks : s.locks = []) (hshown : ∀ i, i < n → s.hidden (dk + i) = false)
    (hlen : (s.hopPut (s.packetsOf id) r [] h).length = n) (hclean : ∀ b ∈ s.hopPut (s.packetsOf id) r [] h, b.2 = false) :
    let p := s.performPath id r
    p.1 = { s with mem := p.1.mem, dies := p.1.dies } ∧ p.2 = { r with path := [], done := r.done + 8 * n } ∧
      (∀ i, i < n → readByte p.1.mem (dk + i) = ((s.hopPut (s.packetsOf id) r [] h).getD i (0, false)).1) ∧
      ∀ a, a < dk ∨ dk + n ≤ a → readByte p.1.mem a = readByte s.mem a := by
  intro p
  obtain ⟨hcells, hrising⟩ := State.hopCells_of_local (s := s) (r := r) hwr hlo hhi hlen
  have hkey : ∀ c ∈ (List.range' dk n).zip (s.hopPut (s.packetsOf id) r [] h), s.hidden c.1 = false := fun c hc => by
    have hmem := List.mem_range'_1.1 (List.of_mem_zip hc).1
    have := hshown (c.1 - dk) (by omega)
    rwa [Nat.add_sub_of_le hmem.1] at this
  obtain ⟨hcount, hset⟩ := State.writeCells_spec hrising hp hkey fun c hc => hclean _ (List.of_mem_zip hc).2
  rw [← hcells] at hcount hset
  have hp1 : p.1 = (s.writeCells (s.hopCells (s.packetsOf id) r [] h)).1.unpack [id] := by
    have hstate : p.1 = ((s.writeCells (r.path.foldl (s.hopCells (s.packetsOf id) r) [])).1.unpack [id]).settleLocks := rfl
    rw [hstate, hpath]
    refine State.settleLocks_of_no_locks _ ?_
    show (s.writeCells (s.hopCells (s.packetsOf id) r [] h)).1.locks = []
    rw [hset.frame]
    exact hlocks
  have hmem : p.1.mem = (s.writeCells (s.hopCells (s.packetsOf id) r [] h)).1.mem := by rw [hp1]; rfl
  refine ⟨?_, ?_, fun i hi => ?_, fun a ha => ?_⟩
  · rw [hp1, hset.frame]; rfl
  · have hbits := Hop.bits_of_local (r := r) hwr hlo hhi (s.packetsOf id) hf
    have hreq : p.2 = { r with
        path := [], done := r.done + (r.path.map (Hop.bits (s.packetsOf id) r)).foldl (· + ·) 0,
        bad := r.bad + (s.writeCells (r.path.foldl (s.hopCells (s.packetsOf id) r) [])).2 } := rfl
    have hbad : (s.writeCells (r.path.foldl (s.hopCells (s.packetsOf id) r) [])).2 = 0 := by rw [hpath]; exact hcount
    rw [hreq, hbad, hpath, List.map_singleton, hbits]
    simp only [List.foldl_cons, List.foldl_nil, Nat.zero_add, Nat.add_zero]
  · rw [hmem, hset.mem, hcells]
    have hi' : i < ((List.range' dk n).zip (s.hopPut (s.packetsOf id) r [] h)).length := by simp [hlen, hi]
    have hnodup := (List.pairwise_map.2 hrising).imp Nat.ne_of_lt
    have hbyte := byteAt_of_mem hnodup (List.getElem_mem hi') (readByte s.mem (dk + i))
    simpa [hlen, hi] using hbyte
  · rw [hmem, hset.mem, hcells]
    refine byteAt_of_absent (fun c hc he => ?_) _
    have hmem := List.mem_range'_1.1 (List.of_mem_zip hc).1
    omega

end

/-! #### The steps of an engine that move bytes (04 R87 to R89) -/

theorem State.load_byte_of_shown {s : State} {k : Nat} (h : s.hidden k = false) : s.load k 1 = (readByte s.mem k).toNat := by
  simp [State.load, State.loadFrom, ofBytes, h]

theorem toNat_load_byte (s : State) (k : Nat) : (BitVec.ofNat 8 (s.load k 1)).toNat = s.load k 1 := by
  rw [BitVec.toNat_ofNat, Nat.mod_eq_of_lt]
  exact s.load_lt k 1

/-- Bytes that are loaded one by one spell what one load of all of them gives. -/
theorem State.ofBytes_load (s : State) (k n : Nat) : ofBytes ((List.range' k n).map fun a => BitVec.ofNat 8 (s.load a 1)) = s.load k n := by
  rw [State.load, State.loadFrom, List.range'_eq_map_range, List.map_map]
  refine congrArg ofBytes (List.map_congr_left fun i _ => ?_)
  rw [Function.comp_apply]
  cases h : s.hidden (k + i)
  · rw [State.load_byte_of_shown h]
    exact BitVec.ofNat_toNat .. |>.trans (BitVec.setWidth_eq _)
  · simp [State.load, State.loadFrom, ofBytes, h]

/-- Bytes of local stores as an engine reads them. -/
theorem State.engBytes_of_local {s : State} {sk n : Nat} (hp : s.poison = []) (hslo : 2 ^ 50 ≤ sk) (hshi : sk + n ≤ 2 ^ 52) :
    (List.range' sk n).map (s.engByte []) = (List.range' sk n).map fun a => (BitVec.ofNat 8 (s.load a 1), false) :=
  List.map_congr_left fun a ha => by
    have hmem := List.mem_range'_1.1 ha
    exact State.engByte_of_local hp [] (hslo.trans hmem.1) (hmem.2.trans_le hshi)

section
variable {s : State} {id : Nat} (hnet : s.packetsOf id = [])
include hnet

theorem State.arrived_of_no_packets : s.arrived id = true := by rw [State.arrived, hnet]; rfl

variable {cid : Nat} {r : Req} {sk dk n : Nat} (hp : s.poison = []) (hlocks : s.locks = [])
  (hshown : ∀ i, i < n → s.hidden (dk + i) = false) (hslo : 2 ^ 50 ≤ sk) (hshi : sk + n ≤ 2 ^ 52)
  (hdlo : 2 ^ 50 ≤ dk) (hdhi : dk + n ≤ 2 ^ 52)

include hp hlocks hshown hslo hshi hdlo hdhi

/-- A copy's bytes between local stores are moved. -/
theorem State.stepCopy_of_local (hop : reqOp r.w0 = 0) (hpath : r.path = [{ rd := [(sk, n)], wr := [(dk, n)] }]) :
    let t := s.stepCopy id cid r
    (∀ i, i < n → t.load (dk + i) 1 = s.load (sk + i) 1) ∧
      (∀ a, a < dk ∨ dk + n ≤ a → readByte t.mem a = readByte s.mem a) ∧
      t.item id = some (.engine cid { r with path := [], done := r.done + 8 * n, pos := r.pos + n }) := by
  intro t
  have hput : s.hopPut (s.packetsOf id) r [] { rd := [(sk, n)], wr := [(dk, n)] } =
      (List.range' sk n).map fun a => (BitVec.ofNat 8 (s.load a 1), false) := by
    rw [State.hopPut, if_pos hop, keysOf_run, hnet]
    exact State.engBytes_of_local hp hslo hshi
  obtain ⟨hstate, hreq, hmem, hout⟩ := State.performPath_of_local (id := id) (r := r) rfl hdlo hdhi hpath (fun h => h.1 hop) hp hlocks
    hshown (by rw [hput]; simp) (by rw [hput]; simp)
  have ht : t = (s.performPath id r).1.setReq id cid { (s.performPath id r).2 with
      pos := r.pos + (keysOf (r.path.flatMap (·.wr))).length } := by
    show s.stepCopy id cid r = _
    rw [State.stepCopy, if_pos (by rw [hpath]; rfl), if_pos (State.arrived_of_no_packets hnet)]
  have htmem : t.mem = (s.performPath id r).1.mem := by rw [ht]; rfl
  have hthreads : (s.performPath id r).1.threads = s.threads := by rw [hstate]
  have hhidden (a : Nat) : t.hidden a = s.hidden a := State.hidden_of_threads (by rw [ht]; exact hthreads) a
  refine ⟨fun i hi => ?_, fun a ha => ?_, ?_⟩
  · rw [State.load_byte_of_shown ((hhidden _).trans (hshown i hi)), htmem, hmem i hi, hput]
    simpa [hi] using toNat_load_byte s (sk + i)
  · rw [htmem, hout a ha]
  · rw [ht]
    refine (State.item_setItem_self _ _ _).trans ?_
    rw [hreq, hpath]
    simp only [List.flatMap_singleton, keysOf_run, List.length_range']

/-- The one element of a GATH or SCAT between local stores is moved, and the completion message leaves. -/
theorem State.stepIndexed_of_local {f : Fmt} (hop : reqOp r.w0 ≠ 0) (hf : reqFmt r.w0 = some f) (hw : 8 ≤ fmtWidth f)
    (hn : n = fmtWidth f / 8) (hlast : reqN r.w3 ≤ r.pos) {rn wn : Nat}
    (hpath : r.path = [{ rd := [(sk, n)], wr := [(dk, n)], rn := rn, wn := wn }]) :
    let t := s.stepIndexed id cid r
    t.load dk n = s.load sk n ∧ (∀ a, a < dk ∨ dk + n ≤ a → readByte t.mem a = readByte s.mem a) ∧
      t.item s.serial = some (.message (s.completion cid { r with path := [], done := r.done + 8 * n } (if r.bad = 0 then 0 else 1))) := by
  intro t
  have hwide : fmtWidth f ≠ 4 := by omega
  have hpos : n ≠ 0 := by omega
  have hput : s.hopPut (s.packetsOf id) r [] { rd := [(sk, n)], wr := [(dk, n)], rn := rn, wn := wn } =
      (toBytes n (s.load sk n)).map fun b => (b, false) := by
    have hrd : (List.isEmpty [(sk, n)]) = false := rfl
    simp only [State.hopPut, if_neg hop, hf, hrd, Bool.false_eq_true, if_false, keysOf_run, hnet,
      State.engBytes_of_local hp hslo hshi, elemAt, elemBytes, if_neg hwide, List.map_map, Function.comp_def, ← hn]
    rw [State.ofBytes_load]
    simp
  obtain ⟨hstate, hreq, hmem, hout⟩ := State.performPath_of_local (id := id) (r := r) rfl hdlo hdhi hpath
    (fun h => hwide (by simpa [hf] using h.2)) hp hlocks hshown (by rw [hput, List.length_map, length_toBytes]) (by rw [hput]; simp)
  have ht : t = (s.performPath id r).1.complete id cid (s.performPath id r).2 := by
    show s.stepIndexed id cid r = _
    simp only [State.stepIndexed, hf, if_pos hlast, hpath, List.isEmpty_cons, Bool.false_eq_true, if_false,
      State.arrived_of_no_packets hnet, if_true]
  have htmem : t.mem = (s.performPath id r).1.mem := by rw [ht]; exact State.mem_finish _ _ _ _ _
  have hthreads : (s.performPath id r).1.threads = s.threads := by rw [hstate]
  have hth (u : Nat) : (s.performPath id r).1.th u = s.th u := by rw [State.th, State.th, hthreads]
  have hserial : (s.performPath id r).1.serial = s.serial := by rw [hstate]
  have hhidden (a : Nat) : t.hidden a = s.hidden a := State.hidden_congr (fun u => by
    rw [ht, State.complete, State.rings_finish, hth]) a
  refine ⟨?_, fun a ha => ?_, ?_⟩
  · have hbytes : t.load dk n = ofBytes (toBytes n (s.load sk n)) := by
      rw [State.load, State.loadFrom]
      refine congrArg ofBytes (List.ext_getElem (by simp [length_toBytes]) fun i hi hi' => ?_)
      rw [length_toBytes] at hi'
      simp only [List.getElem_map, List.getElem_range, hhidden, hshown i hi', Bool.false_eq_true, if_false, htmem, hmem i hi', hput]
      simp [hi', length_toBytes]
    rw [hbytes, ofBytes_toBytes, Nat.mod_eq_of_lt (s.load_lt sk n)]
  · rw [htmem, hout a ha]
  · rw [ht, State.complete, ← hserial, State.item_finish, if_pos rfl, State.completion_congr (congrArg Thread.tx (hth _)), hreq]

end

/-! #### Collectives that end without success (04 R86, R91) -/

/-- Engine commands with stamps below `n` end between two states: what has been sent off from `n` on stays, what is gone below `n` stays
so, and every completion message reads the same. -/
structure State.EndsBelow (n : Nat) (s t : State) : Prop where
  mem : t.mem = s.mem
  serial : s.serial ≤ t.serial
  sent (j : Nat) : n ≤ j → j < s.serial → t.item j = s.item j
  gone (j : Nat) : j < n → s.item j = none → t.item j = none
  completion (c : Nat) (r : Req) (st : Nat) : t.completion c r st = s.completion c r st

theorem State.EndsBelow.refl (n : Nat) (s : State) : s.EndsBelow n s :=
  ⟨rfl, Nat.le_refl _, fun _ _ _ => rfl, fun _ _ => id, fun _ _ _ => rfl⟩
theorem State.EndsBelow.trans {n : Nat} {s t u : State} (h : s.EndsBelow n t) (h' : t.EndsBelow n u) : s.EndsBelow n u :=
  ⟨h'.mem.trans h.mem, h.serial.trans h'.serial, fun j hn hj => (h'.sent j hn (hj.trans_le h.serial)).trans (h.sent j hn hj),
    fun j hj hnone => h'.gone j hj (h.gone j hj hnone), fun c r st => (h'.completion c r st).trans (h.completion c r st)⟩

theorem State.endsBelow_finish {n : Nat} {s : State} (hn : n ≤ s.serial) {id : Nat} (hid : id < n) (cid : Nat) (r : Req) (st : Nat) :
    s.EndsBelow n (s.finish id cid r st) :=
  ⟨s.mem_finish .., by rw [s.serial_finish]; exact Nat.le_succ _, fun j hj hlt => s.item_finish_of_ne _ _ _ _ hlt.ne (hid.trans_le hj).ne',
    fun j hj hnone => by
      rw [s.item_finish, if_neg (hj.trans_le hn).ne, hnone, ite_self],
    s.completion_finish id cid r st⟩

theorem State.finishAll_cons (s : State) (y : Joined) (l : List Joined) (st : Nat) :
    s.finishAll (y :: l) st = (s.finish y.id y.cid y.req st).finishAll l st := rfl

/-- Every participant that a collective ends for is gone, and its completion message has left. -/
theorem State.finishAll_spec {n : Nat} {l : List Joined} (hl : ∀ y ∈ l, y.id < n) {s : State} (hn : n ≤ s.serial) (st : Nat) :
    s.EndsBelow n (s.finishAll l st) ∧ ∀ y ∈ l, (s.finishAll l st).item y.id = none ∧
      ∃ k, (s.finishAll l st).item k = some (.message (s.completion y.cid y.req st)) := by
  induction l generalizing s with
  | nil => exact ⟨.refl n s, fun y hy => absurd hy List.not_mem_nil⟩
  | cons y l ih =>
    have hid : y.id < n := hl y List.mem_cons_self
    have hfirst := State.endsBelow_finish hn hid y.cid y.req st
    obtain ⟨hrest, hdone⟩ := ih (fun z hz => hl z (List.mem_cons_of_mem _ hz)) (hn.trans hfirst.serial)
    rw [s.finishAll_cons]
    refine ⟨hfirst.trans hrest, fun z hz => ?_⟩
    rcases List.mem_cons.1 hz with rfl | hz
    · refine ⟨hrest.gone _ hid ?_, s.serial, (hrest.sent _ hn ?_).trans ?_⟩
      · rw [s.item_finish, if_neg (hid.trans_le hn).ne, if_pos rfl]
      · rw [s.serial_finish]; exact Nat.lt_succ_self _
      · rw [s.item_finish, if_pos rfl]
    · obtain ⟨hnone, k, hk⟩ := hdone z hz
      exact ⟨hnone, k, by rw [hk, s.completion_finish]⟩

theorem State.mem_flight_of_item {s : State} {id : Nat} {x : Item} (h : s.item id = some x) : (id, x) ∈ s.flight := by
  obtain ⟨p, hp, hx⟩ := Option.map_eq_some_iff.1 h
  have hid : p.1 = id := by simpa using List.find?_some hp
  have hmem := List.mem_of_find?_eq_some hp
  rwa [← hid, ← hx]

theorem mem_placeIn {α : Type} (le : α → α → Bool) (x y : α) (l : List α) : y ∈ placeIn le x l ↔ y = x ∨ y ∈ l := by
  induction l with
  | nil => simp [placeIn]
  | cons z l ih =>
    simp only [placeIn]
    split
    · simp
    · simp only [List.mem_cons, ih, or_left_comm]

theorem mem_inOrderOf {α : Type} (le : α → α → Bool) (y : α) (l : List α) : y ∈ inOrderOf le l ↔ y ∈ l := by
  induction l with
  | nil => exact Iff.rfl
  | cons x l ih =>
    show y ∈ placeIn le x (inOrderOf le l) ↔ _
    rw [mem_placeIn, ih, List.mem_cons]

theorem State.joined_older {s : State} (hold : ∀ p ∈ s.flight, p.1 < s.serial) {x y : Joined} (hy : y ∈ s.joined x) : y.id < s.serial :=
  hold _ (State.mem_joined.1 hy).1

section
variable {s : State} {id cid : Nat} {r : Req} (hitem : s.item id = some (.coll cid r false))
include hitem

/-- The participants of a collective are in flight. -/
theorem State.party_older (hold : ∀ p ∈ s.flight, p.1 < s.serial) {y : Joined} (hy : y ∈ s.party ⟨id, cid, r, false⟩) :
    y.id < s.serial := by
  unfold State.party at hy
  split at hy
  · rw [List.mem_singleton.1 hy]
    exact hold _ (State.mem_flight_of_item hitem)
  · exact State.joined_older hold (List.mem_of_mem_take ((mem_inOrderOf _ _ _).1 hy))

theorem execCompletionMessage_of_coll : execCompletionMessage id s = .next (s.stepColl ⟨id, cid, r, false⟩) := by
  simp only [execCompletionMessage, hitem]

theorem execCollTimeout_eq : execCollTimeout id s = .next
    (if reqTmo r.w0 ≠ 0 ∧ reqTmo r.w0 * 1000 ≤ (s.time.toNat + 2 ^ 48 - r.since) % 2 ^ 48 ∧
        (s.joined ⟨id, cid, r, false⟩).length < reqPcnt r.w3 ∧ ∀ y ∈ s.joined ⟨id, cid, r, false⟩, y.frozen = false then
      s.finishAll (s.joined ⟨id, cid, r, false⟩) 6
    else s) := by
  simp only [execCollTimeout, hitem]
  rw [apply_ite Host.Outcome.next]
  refine if_congr ?_ rfl rfl
  simp [and_assoc]

end

section
variable {s : State} {x : Joined} {f : Fmt} (hf : reqFmt x.req.w0 = some f) (hall : reqPcnt x.req.w3 ≤ (s.party x).length)
  (hready : ∀ y ∈ s.party x, y.frozen = false ∧ s.drained y.req.tid y.id = true)

/-- Nothing holds back a collective that has all its participants, whose stores have drained and whose packages are linked. -/
theorem State.collHeld_eq_false (hall : reqPcnt x.req.w3 ≤ (s.party x).length)
    (hready : ∀ y ∈ s.party x, y.frozen = false ∧ s.drained y.req.tid y.id = true) (hcut : s.partyCut (s.party x) = false) :
    (decide ((s.party x).length < reqPcnt x.req.w3) || (s.party x).any (fun y => y.frozen || !s.drained y.req.tid y.id) ||
      s.partyCut (s.party x)) = false := by
  have hany : (s.party x).any (fun y => y.frozen || !s.drained y.req.tid y.id) = false :=
    List.any_eq_false.2 fun y hy => by simp [hready y hy]
  rw [decide_eq_false (Nat.not_lt.2 hall), hany, hcut]; rfl

include hf

theorem State.stepColl_of_cut (h : s.partyCut (s.party x) = true) : s.stepColl x = s := by
  simp only [State.stepColl, hf, h, Bool.or_true, if_true]

include hall hready

variable (hcut : s.partyCut (s.party x) = false)
include hcut

theorem State.stepColl_of_disagree (h : disagree (s.party x) = true) : s.stepColl x = s.finishAll (s.party x) 5 := by
  simp only [State.stepColl, hf, State.collHeld_eq_false hall hready hcut, Bool.false_eq_true, if_false, h, if_true]

variable (h : disagree (s.party x) = false)
include h

theorem State.stepColl_of_failed (hfail : ∃ y ∈ s.party x, y.req.fail = true) : s.stepColl x = s.finishAll (s.party x) 2 := by
  simp only [State.stepColl, hf, State.collHeld_eq_false hall hready hcut, Bool.false_eq_true, if_false, h,
    List.any_eq_true.2 hfail, if_true]

theorem State.stepColl_of_refused (hfail : ∀ y ∈ s.party x, y.req.fail = false) (href : ∃ y ∈ s.party x, y.req.refused = true) :
    s.stepColl x = s.finishAll (s.party x) 3 := by
  have hno : (s.party x).any (fun y => y.req.fail) = false := List.any_eq_false.2 fun y hy => by rw [hfail y hy]; exact Bool.false_ne_true
  simp only [State.stepColl, hf, State.collHeld_eq_false hall hready hcut, Bool.false_eq_true, if_false, h, hno,
    List.any_eq_true.2 href, if_true]

end

/-! #### The obligation -/

/-- Settles O46: FLUE and the engine commands are their checks one after the other; each step of an engine is one equation of
`State.stepCopy`, `State.stepIndexed` or `State.stepColl`, and what a performed access writes is a rising list of cells. -/
theorem flueAndEngines : Obligations.FlueAndEngines := by
  unfold Obligations.FlueAndEngines
  refine ⟨fun s x g w0 w1 w2 w3 hg hr => ?flue, fun s d mb => ?command, fun s cid r st hst => ?message, fun s id cid r st => ?finish,
    fun s id cid r hitem => ?engine, fun s id cid r f hitem hnodup hold hf => ?coll, fun s id cid r hitem hnodup hold => ?timeout⟩
  case flue =>
    intro na c hn hal ho
    have hblock := execFlue_eq (g := g) hr hn hal ho
    have hstops {st : Stop} (h : s.takeBlock na = .error st) : exec (.flue x g) s = .next (s.halted st) :=
      hblock.trans (s.issueC_error st g _ hg h)
    refine ⟨fun st hst => hstops (State.takeBlock_of_unread hst), fun hw => ⟨fun hbad => ?_, fun k v hc => ?_, fun q hc => ?_⟩⟩
    · exact hstops (State.takeBlock_of_uncaptured hw (s.capture_of_reserved (badRequest_of_reserved hbad)))
    · exact hstops (State.takeBlock_of_uncaptured hw hc)
    · obtain ⟨htid, h0, h1, h2, h3, htenant, hdue⟩ := State.captured_of_ok hc
      refine ⟨htid, h0, h1, h2, h3, htenant, hdue, fun n hlt hfree hlow => ?_, fun hfull => ?_⟩
      · exact hblock.trans (s.issueC_ok _ g _ hg (State.takeBlock_of_room hw hc (Core.freeMail_of_lowest hlt hfree hlow)))
      · exact hstops (State.takeBlock_of_full hw hc (Core.freeMail_of_full hfull))
  case command =>
    intro c p hp
    refine ⟨fun hslot hr ha => ?_, fun hslot hr ha hs => ?_⟩
    · exact (exec_engineCommand hp s).trans (s.issue_error _ _ (State.toEngine_of_slot _ hr ha hslot))
    have hanswer (n : Nat) (hst : s.engineStatus p.2 mb.val = n + 1) : exec p.1 s = s.deliversX d (BitVec.ofNat 64 (n + 1)) :=
      (exec_engineCommand hp s).trans (s.issue_ok _ _ (State.toEngine_of_status _ hr ha hslot hst))
    refine ⟨fun hbusy => hanswer 0 (State.engineStatus_of_busy hbusy),
      fun hroom hempty => hanswer 1 (State.engineStatus_of_empty hs hroom hempty), fun hroom n r rest hmail => ⟨fun hne hother => ?_,
        fun heq hop => ?_, fun heq hop => ?_⟩⟩
    · exact hanswer 2 (State.engineStatus_of_younger hs hroom hmail hne hother)
    · exact hanswer 3 ((State.engineStatus_of_oldest hs hroom hmail heq).trans (if_pos hop))
    · have hst : s.engineStatus p.2 mb.val = 0 := (State.engineStatus_of_oldest hs hroom hmail heq).trans (if_neg (not_not.2 hop))
      have hmail' : (s.core s.cid).mail = (mb.val, r) :: rest := heq ▸ hmail
      have halike := s.startsAlike_taken d mb
      obtain ⟨hengine, hfew, hjoins⟩ := State.startReq_spec halike p.2 r
      refine ⟨(s.taken d mb).startReq p.2 r, s.serial,
        (exec_engineCommand hp s).trans (s.issue_ok _ _ (State.toEngine_of_taken _ hr ha hslot hmail' hst)), ?_, ?_, ?_,
        hengine, hfew, hjoins⟩
      · rw [State.me_startReq]
        exact (State.writeX_frame _ d 0).2.1
      · rw [State.mem_startReq, halike.mem]
      · rw [State.core_startReq, s.core_taken, hmail']
        exact List.filter_cons_of_neg (p := fun q : Nat × Req => decide (q.1 ≠ mb.val)) (by simp)
  case message =>
    have hexc : min (r.exc + r.bad) (2 ^ 24 - 1) < 2 ^ 24 := by omega
    obtain ⟨hstatus, htag, hdone, hcount⟩ := completion_fields (done := r.done / 8) r.w0 hst hexc
    exact ⟨rfl, rfl, rfl, rfl, rfl, _, _, rfl, hstatus, htag, hdone, hcount⟩
  case finish =>
    refine ⟨(s.item_finish id cid r st s.serial).trans (if_pos rfl), fun hne => ?_, s.mem_finish id cid r st, s.event_finish id cid r st,
      s.park_finish id cid r st⟩
    rw [s.item_finish, if_neg hne, if_pos rfl]
  case engine =>
    refine ⟨execCompletionMessage_of_failed hitem, execCompletionMessage_of_refused hitem, execCompletionMessage_of_held hitem,
      fun hfail href hpause hd => ?_⟩
    have hstep := execCompletionMessage_of_step hitem hfail href hpause hd
    have hcopy (hop : reqOp r.w0 = 0) : exec (.completionMessage id) s = .next (s.stepCopy id cid r) :=
      hstep.trans (congrArg _ (if_pos hop))
    have hindexed (hop : reqOp r.w0 ≠ 0) : exec (.completionMessage id) s = .next (s.stepIndexed id cid r) :=
      hstep.trans (congrArg _ (if_neg hop))
    have hne {n : Nat} (hop : reqOp r.w0 = n + 1) : reqOp r.w0 ≠ 0 := by rw [hop]; exact Nat.succ_ne_zero n
    refine ⟨fun hop hpath hlen => (hcopy hop).trans (congrArg _ (State.stepCopy_of_done hpath hlen)),
      fun sk sn dk dn hop hs hdst hpath hlen => ?_,
      fun sk dk n hop hpath hshi hslo hdhi hdlo hnet hp hlocks hdef hshown =>
        ⟨_, hcopy hop, State.stepCopy_of_local hnet hp hlocks hshown hslo hshi hdlo hdhi hop hpath⟩,
      fun f hop hf hlt hcut hi => ?_, fun f sk sn dk dn hop hf hlt hcut hs hdst => ?_,
      fun f hop hf hlt hcut => (hindexed (by omega)).trans (congrArg _ (State.stepIndexed_of_cut hf hlt hcut)),
      fun f sk dk rn wn hop hf hw hlast => ?_⟩
    · intro n
      refine ⟨_, (hcopy hop).trans (congrArg _ (State.stepCopy_of_near hs hdst hpath hlen)), ?_, State.item_setItem_self _ _ _⟩
      exact State.mem_sendPath _ _ _ _
    · obtain ⟨t, ht, hmem, hitem'⟩ := State.stepIndexed_of_hop (id := id) hf hlt hcut (State.indexHop_of_scat hop hi) (by simp)
      exact ⟨t, (hindexed (hne hop)).trans (congrArg _ ht), hmem, hitem'⟩
    · intro w wr
      obtain ⟨helem, hnone⟩ := State.indexHop_of_gath (s := s) (cid := cid) hop hs hdst w
      refine ⟨fun i hi => ?_, fun hi => ?_⟩
      · obtain ⟨t, ht, hmem, hitem'⟩ := State.stepIndexed_of_hop (id := id) hf hlt hcut (helem i hi) fun _ => ⟨dk, dn, hdst⟩
        exact ⟨t, _, (hindexed (hne hop)).trans (congrArg _ ht), hmem, hitem', rfl, rfl, rfl⟩
      · obtain ⟨t, ht, hmem, hitem'⟩ := State.stepIndexed_of_hop (id := id) hf hlt hcut (hnone hi) fun _ => ⟨dk, dn, hdst⟩
        exact ⟨t, _, (hindexed (hne hop)).trans (congrArg _ ht), hmem, hitem', rfl, rfl, rfl⟩
    · intro n hpath hshi hslo hdhi hdlo hnet hp hlocks hdef hshown
      exact ⟨_, hindexed (by omega),
        State.stepIndexed_of_local hnet hp hlocks hshown hslo hshi hdlo hdhi (by omega) hf hw rfl hlast hpath⟩
  case coll =>
    intro l hall hready cut ends
    have hstep := execCompletionMessage_of_coll hitem
    have hcut : s.partyCut l = true ↔ cut := by simp only [State.partyCut, List.any_eq_true]; exact Iff.rfl
    have hends {st : Nat} (h : s.stepColl ⟨id, cid, r, false⟩ = s.finishAll l st) : ends st := by
      obtain ⟨hbelow, hdone⟩ := State.finishAll_spec (l := l) (fun y hy => State.party_older hitem hold hy) (Nat.le_refl s.serial) st
      exact ⟨_, hstep.trans (congrArg _ h), hbelow.mem, hdone⟩
    refine ⟨fun h => hstep.trans (congrArg _ (State.stepColl_of_cut (x := ⟨id, cid, r, false⟩) hf (hcut.2 h))), fun h => ?_⟩
    have hlinked : s.partyCut l = false := Bool.eq_false_iff.2 (mt hcut.1 h)
    exact ⟨fun hdis => hends (State.stepColl_of_disagree hf hall hready hlinked hdis),
      fun hdis hfail => hends (State.stepColl_of_failed hf hall hready hlinked hdis hfail),
      fun hdis hfail href => hends (State.stepColl_of_refused hf hall hready hlinked hdis hfail href)⟩
  case timeout =>
    intro l waited due
    have hstep := execCollTimeout_eq hitem
    refine ⟨fun h => ?_, fun h => hstep.trans (congrArg _ (if_neg h))⟩
    obtain ⟨hbelow, hdone⟩ := State.finishAll_spec (l := l) (fun y hy => State.joined_older hold hy) (Nat.le_refl s.serial) 6
    exact ⟨_, hstep.trans (congrArg _ (if_pos h)), hbelow.mem, hdone⟩

end Sys2Proof.Machine

/-! ### The mode of the issuing thread (05 R109): how states are put together -/

namespace Sys2Proof.Machine

/-- Thread `c` issues, and SUP, PSUP and DET of its STATUS, bits [32:30], are `m`. -/
def State.InMode (s : State) (c m : Nat) : Prop := s.cur = c ∧ Fld (s.th c).sys.status 32 30 = m

/-- An instruction's body that answers a state answers one in the mode. -/
inductive R.InMode (c m : Nat) : R → Prop
  | ok {s : State} (h : s.InMode c m) : R.InMode c m (.ok s)
  | error {st : Stop} : R.InMode c m (.error st)

/-- A next state that nothing has stopped is in the mode. -/
def Out.InMode (c m : Nat) (o : Out) : Prop := ∀ t, o = .next t → t.iss.stop = none → t.InMode c m

/-! #### What stopped an instruction stays noted -/

theorem State.iss_foldl {α : Type} {f : State → α → State} (hf : ∀ s a, (f s a).iss = s.iss) (l : List α) (s : State) :
    (l.foldl f s).iss = s.iss := by
  induction l generalizing s with
  | nil => rfl
  | cons a l ih => exact (ih (f s a)).trans (hf s a)

theorem State.iss_ite {p : Prop} {_ : Decidable p} {s a b : State} (ha : a.iss = s.iss) (hb : b.iss = s.iss) :
    (if p then a else b).iss = s.iss := by
  split <;> assumption

theorem State.iss_evalGroup (s : State) (pkg : Nat) (g : Option Nat) : (s.evalGroup pkg g).iss = s.iss := by
  cases g with
  | none => rfl
  | some g =>
    unfold State.evalGroup
    exact State.iss_foldl (fun _ _ => by exact State.iss_ite rfl rfl) _ s

theorem State.iss_exitThread (s : State) (t : Nat) : (s.exitThread t).iss = s.iss :=
  (State.iss_evalGroup _ _ _).trans (State.iss_ite (s := s) rfl rfl)

theorem State.iss_statusRecord (s : State) (pkg q event group task : Nat) : (s.statusRecord pkg q event group task).iss = s.iss :=
  State.iss_ite rfl (State.iss_ite rfl (State.iss_ite rfl rfl))

theorem State.iss_groupRecord (s : State) (pkg g event task : Nat) : (s.groupRecord pkg g event task).iss = s.iss := by
  unfold State.groupRecord
  split
  · exact State.iss_statusRecord ..
  · rfl

theorem State.iss_endGroup (s : State) (t : Nat) : (s.endGroup t).iss = s.iss := by
  unfold State.endGroup
  dsimp only
  split
  · exact s.iss_exitThread t
  split
  · exact s.iss_exitThread t
  · refine (State.iss_foldl (fun u t => State.iss_ite rfl (u.iss_exitThread t)) _ _).trans (State.iss_ite rfl ?_)
    exact State.iss_groupRecord ..

theorem State.iss_endGang (s : State) (t : Nat) : (s.endGang t).iss = s.iss := by
  unfold State.endGang
  split
  · rfl
  · exact State.iss_foldl (fun _ _ => by rfl) _ s

theorem State.iss_enterTrap (s : State) (t : Nat) (epc : Word) (cause : Nat) (tval : Word) :
    (s.enterTrap t epc cause tval).iss = s.iss :=
  State.iss_ite ((State.iss_endGroup _ t).trans (s.iss_endGang t)) (s.iss_endGang t)

theorem State.iss_enterMark (s : State) (t : Nat) (word : Word) : (s.enterMark t word).iss = s.iss :=
  State.iss_ite (State.iss_enterTrap ..) (State.iss_ite (State.iss_enterTrap ..) (s.iss_endGang t))

theorem State.iss_startWalk (s : State) (w : Walk) : (s.startWalk w).iss = s.iss := by
  unfold State.startWalk
  dsimp only
  split
  · rfl
  · exact State.iss_ite rfl rfl

/-- What stopped an instruction is noted in the state that it leaves. -/
theorem State.stop_halted (s : State) (st : Stop) : (s.halted st).iss.stop = some st := by
  unfold State.halted
  cases st with
  | wait w => rfl
  | walk w => exact congrArg Issue.stop (State.iss_startWalk ..)
  | trap c v => exact congrArg Issue.stop (State.iss_enterTrap ..)
  | mark w => exact congrArg Issue.stop (State.iss_enterMark ..)
  | brk => exact congrArg Issue.stop (State.iss_endGang ..)
  | park p w => rfl
  | vanish => rfl

theorem State.iss_grantLock (s : State) (k : Nat) : (s.grantLock k).iss = s.iss := by
  unfold State.grantLock
  dsimp only
  split
  · rfl
  split <;> rfl

theorem State.iss_settleLocks (s : State) : s.settleLocks.iss = s.iss :=
  State.iss_foldl (fun u k => State.iss_ite (u.iss_grantLock k) rfl) _ s

theorem State.iss_traceWords (ws : List Nat) (s : State) (pkg : Nat) : (s.traceWords pkg ws).iss = s.iss := by
  induction ws generalizing s with
  | nil => rfl
  | cons w ws ih =>
    simp only [State.traceWords]
    split
    · rfl
    · exact (ih _).trans (State.iss_settleLocks _)

theorem State.iss_traceLost (s : State) (pkg : Nat) : (s.traceLost pkg).iss = s.iss := by
  simp only [State.traceLost]
  split
  · rfl
  · exact State.iss_ite (State.iss_traceWords ..) rfl

theorem State.iss_trace (s : State) (pkg kind : Nat) (body : List Nat) : (s.trace pkg kind body).iss = s.iss := by
  refine Eq.trans ?_ (s.iss_traceLost pkg)
  simp only [State.trace]
  split
  · rfl
  · exact State.iss_ite (State.iss_traceWords ..) rfl

theorem State.iss_noteStop (s : State) : s.noteStop.iss = s.iss := by
  unfold State.noteStop
  split
  · exact State.iss_ite (State.iss_trace ..) rfl
  · rfl

/-! #### The ways of putting states together -/

section
variable {c m : Nat} {s : State}

theorem State.InMode.ite {p : Prop} {_ : Decidable p} {a b : State} (ha : a.InMode c m) (hb : b.InMode c m) :
    (if p then a else b).InMode c m := by
  split <;> assumption

theorem State.InMode.foldl {α : Type} {f : State → α → State} {l : List α} (h : s.InMode c m)
    (hf : ∀ s x, s.InMode c m → (f s x).InMode c m) : (l.foldl f s).InMode c m := by
  induction l generalizing s with
  | nil => exact h
  | cons x l ih => exact ih (hf s x h)

theorem State.InMode.of_threadsKept {t : State} (h : s.InMode c m) (hk : s.ThreadsKept t) : t.InMode c m :=
  ⟨hk.2.trans h.1, by rw [hk.th]; exact h.2⟩

/-- An update of a thread that leaves bits [32:30] of STATUS alone. -/
theorem State.InMode.updStatus {t : Nat} {f : Thread → Thread} (h : s.InMode c m)
    (hf : Fld (f (s.th t)).sys.status 32 30 = Fld (s.th t).sys.status 32 30) : (s.updTh t f).InMode c m := by
  refine ⟨h.1, ?_⟩
  rcases eq_or_ne c t with rfl | hne
  · rw [State.th_updTh, hf]; exact h.2
  · rw [State.th_updTh_of_ne _ _ _ _ hne]; exact h.2

/-- An update of a thread that leaves STATUS alone. -/
theorem State.InMode.updTh {t : Nat} {f : Thread → Thread} (h : s.InMode c m)
    (hf : ∀ x, (f x).sys.status = x.sys.status) : (s.updTh t f).InMode c m :=
  h.updStatus (by rw [hf])

/-- An update of the issuing thread that leaves bits [32:30] of STATUS alone. -/
theorem State.InMode.updMeStatus {f : Thread → Thread} (h : s.InMode c m)
    (hf : Fld (f s.me).sys.status 32 30 = Fld s.me.sys.status 32 30) : (s.updMe f).InMode c m :=
  h.updStatus hf

theorem State.InMode.updMe {f : Thread → Thread} (h : s.InMode c m)
    (hf : ∀ x, (f x).sys.status = x.sys.status) : (s.updMe f).InMode c m :=
  State.InMode.updTh h hf

theorem R.InMode.ite {p : Prop} {_ : Decidable p} {a b : R} (ha : R.InMode c m a) (hb : R.InMode c m b) :
    R.InMode c m (if p then a else b) := by
  split <;> assumption

theorem R.InMode.pure (h : s.InMode c m) : R.InMode c m (pure s) := .ok h

theorem R.InMode.bindOk {α : Type} {x : Except Stop α} {f : α → R} (hf : ∀ a, x = .ok a → R.InMode c m (f a)) :
    R.InMode c m (x >>= f) := by
  cases x with
  | error st => exact .error
  | ok a => exact hf a rfl

/-- A check, or a value read, answers no state: only what follows it does. -/
theorem R.InMode.bind {α : Type} {x : Except Stop α} {f : α → R} (hf : ∀ a, R.InMode c m (f a)) : R.InMode c m (x >>= f) :=
  .bindOk fun a _ => hf a

/-- A check made under a condition, and what follows it. -/
theorem R.InMode.bindIf {p : Prop} {_ : Decidable p} {x : Except Stop Unit} {f : Unit → R} (hf : ∀ a, R.InMode c m (f a)) :
    R.InMode c m (if p then x >>= f else f ()) :=
  .ite (.bind hf) (hf ())

theorem R.InMode.bindState {x : R} {f : State → R} (hx : R.InMode c m x) (hf : ∀ s, s.InMode c m → R.InMode c m (f s)) :
    R.InMode c m (x >>= f) := by
  cases hx with
  | ok hs => exact hf _ hs
  | error => exact .error

theorem R.InMode.map {x : R} {f : State → State} (hx : R.InMode c m x) (hf : ∀ s, s.InMode c m → (f s).InMode c m) :
    R.InMode c m (x.map f) := by
  cases hx with
  | ok hs => exact .ok (hf _ hs)
  | error => exact .error

theorem Out.InMode.next (h : s.InMode c m) : Out.InMode c m (.next s) := fun _ ht _ => Host.Outcome.next.inj ht ▸ h

theorem Out.InMode.ite {p : Prop} {_ : Decidable p} {a b : Out} (ha : Out.InMode c m a) (hb : Out.InMode c m b) :
    Out.InMode c m (if p then a else b) := by
  split <;> assumption

/-- An instruction that is stopped says nothing of the mode. -/
theorem Out.InMode.stopped {st : Stop} (h : s.iss.stop = some st) : Out.InMode c m (.next s) := by
  intro t ht hstop
  cases ht
  rw [h] at hstop
  cases hstop

theorem Out.InMode.halted {st : Stop} : Out.InMode c m (.next (s.halted st)) := .stopped (s.stop_halted st)

theorem Out.InMode.conclude {r : R} (hr : R.InMode c m r) : Out.InMode c m (s.conclude r) := by
  cases hr with
  | ok hs => exact .next hs
  | error => exact .halted

theorem State.InMode.advance (h : s.InMode c m) : s.advance.InMode c m := h.updMe fun _ => rfl

theorem State.InMode.jump {w : Word} (h : s.InMode c m) : (s.jump w).InMode c m := h.updMe fun _ => rfl

variable {f : State → R}

theorem Out.InMode.issueA (hf : R.InMode c m (f s)) : Out.InMode c m (s.issueA f) := .conclude hf

theorem Out.InMode.issue (hf : R.InMode c m (f s)) : Out.InMode c m (s.issue f) := .conclude (hf.map fun _ hs => hs.advance)

theorem Out.InMode.issueC {g : Fin 8} (h : s.InMode c m) (hf : R.InMode c m (f s)) : Out.InMode c m (s.issueC g f) :=
  .ite (.issue hf) (.next h.advance)

theorem Out.InMode.issueJ {g : Fin 8} (h : s.InMode c m) (hf : R.InMode c m (f s)) : Out.InMode c m (s.issueJ g f) :=
  .ite (.issueA hf) (.next h.advance)

end

end Sys2Proof.Machine

/-! ### The mode of the issuing thread (05 R109): the parts of instructions -/

namespace Sys2Proof.Machine

/-! #### Bits [32:30] of a STATUS word -/

/-- Bits below a field leave the field alone. -/
theorem Fld_or_of_lt {w v : Word} {hi lo : Nat} (h : v.toNat < 2 ^ lo) : Fld (w ||| v) hi lo = Fld w hi lo := by
  refine Nat.eq_of_testBit_eq fun i => ?_
  have hv : v.toNat.testBit (lo + i) = false :=
    Nat.testBit_lt_two_pow (Nat.lt_of_lt_of_le h (Nat.pow_le_pow_right (by decide) (Nat.le_add_right lo i)))
  simp [Fld, bits, Nat.testBit_mod_two_pow, Nat.testBit_div_two_pow, Nat.add_comm i lo, hv]

/-- Flags are bits [5:0]. -/
theorem Fld_or_flags (w : Word) (fl : Nat) : Fld (w ||| BitVec.ofNat 64 (fl % 64)) 32 30 = Fld w 32 30 :=
  Fld_or_of_lt (by simp only [BitVec.toNat_ofNat]; omega)

section
variable {c m : Nat} {s : State}

/-! #### Results -/

theorem State.InMode.setMe {x : Thread} (h : s.InMode c m) (hx : x.sys.status = s.me.sys.status) : (s.setMe x).InMode c m :=
  h.updStatus (f := fun _ => x) (congrArg (Fld · 32 30) hx)

theorem State.InMode.setPred {i : Nat} {b : Bool} (h : s.InMode c m) : (s.updMe fun t => t.setPred i b).InMode c m :=
  h.updMe fun t => congrArg SysRegs.status (t.setPred_sys i b)

theorem State.InMode.setMask {i : Nat} {w : Word} (h : s.InMode c m) : (s.updMe fun t => t.setMask i w).InMode c m :=
  h.updMe fun t => congrArg SysRegs.status (t.setMask_sys i w)

theorem State.InMode.setTimer {w : Word} (h : s.InMode c m) : (s.updMe fun t => t.setTimer w).InMode c m :=
  h.updMe fun _ => rfl

theorem State.InMode.writeSlot {q k data : Nat} {typed : Bool} (h : s.InMode c m) : (s.writeSlot q k data typed).InMode c m :=
  .ite (h.setMe rfl) (State.InMode.setMe h rfl)

theorem State.InMode.writeX {r : XReg} {w : Word} (h : s.InMode c m) : (s.writeX r w).InMode c m := h.updMe fun _ => rfl

theorem State.InMode.writeS {o : SOpd} {w : Word} {typed : Bool} (h : s.InMode c m) : (s.writeS o w typed).InMode c m := by
  cases o with
  | r i => exact h.updMe fun _ => rfl
  | q n k => exact h.writeSlot

theorem State.InMode.writeV {o : VOpd} {x : Nat} {typed : Bool} (h : s.InMode c m) : (s.writeV o x typed).InMode c m := by
  cases o with
  | v i => exact h.updMe fun _ => rfl
  | q n k => exact h.writeSlot

theorem State.InMode.post {x : Item} (h : s.InMode c m) : (s.post x).InMode c m := h

theorem State.InMode.resultS {o : SOpd} {w : Word} (h : s.InMode c m) : (s.resultS o w).InMode c m := by
  cases o with
  | r i => exact .post (h.updMe fun _ => rfl)
  | q n k => exact h.writeS

theorem State.InMode.resultV {o : VOpd} {x : Nat} (h : s.InMode c m) : (s.resultV o x).InMode c m := by
  cases o with
  | v i => exact .post (h.updMe fun _ => rfl)
  | q n k => exact h.writeV

theorem State.InMode.drew {n : Nat} (h : s.InMode c m) : (s.drew n).InMode c m := h.updMe fun _ => rfl

theorem State.InMode.orFlags {fl : Nat} (h : s.InMode c m) : (s.orFlags fl).InMode c m :=
  h.updMeStatus (f := fun t => t.setStatus (t.sys.status ||| BitVec.ofNat 64 (fl % 64))) (Fld_or_flags _ fl)

theorem State.InMode.occupy {d : Dest} (h : s.InMode c m) : (s.occupy d).InMode c m := by
  cases d with
  | none => exact h
  | reg i => exact h.updMe fun _ => rfl
  | vec i => exact h.updMe fun _ => rfl

/-! #### The far net, locks and trace -/

theorem State.InMode.storeAt {k : Nat} {data : List Byte} (h : s.InMode c m) : (s.storeAt k data).InMode c m := h

theorem State.InMode.dirtied {tid : Nat} {ea : Word} {acc : Nat} (h : s.InMode c m) : (s.dirtied tid ea acc).InMode c m := by
  unfold State.dirtied
  dsimp only
  split
  · exact h
  · exact .ite h h

theorem State.InMode.sendOut {id cid tenant deadline : Nat} {wr : Bool} {runs : List (Nat × Nat)} (h : s.InMode c m) :
    (s.sendOut id cid tenant deadline wr runs).InMode c m :=
  .foldl h fun _ _ hs => hs

theorem State.InMode.sendTo {id a b tenant deadline : Nat} (h : s.InMode c m) : (s.sendTo id a b tenant deadline).InMode c m :=
  .ite (.ite h h) h

theorem State.InMode.depart {a : Access} (h : s.InMode c m) : (s.depart a).InMode c m := .sendOut h

theorem State.InMode.settleLocks (h : s.InMode c m) : s.settleLocks.InMode c m := h.of_threadsKept s.threadsKept_settleLocks

theorem State.InMode.trace {pkg kind : Nat} {body : List Nat} (h : s.InMode c m) : (s.trace pkg kind body).InMode c m :=
  h.of_threadsKept (s.threadsKept_trace pkg kind body)

theorem State.InMode.traceRange {tid kind depth label : Nat} (h : s.InMode c m) : (s.traceRange tid kind depth label).InMode c m :=
  .ite h.trace h

/-! #### Groups, gangs and barriers -/

theorem State.InMode.evalGroup {pkg : Nat} {g : Option Nat} (h : s.InMode c m) : (s.evalGroup pkg g).InMode c m := by
  cases g with
  | none => exact h
  | some g => exact h.foldl fun _ _ hs => .ite hs hs

theorem State.InMode.exitThread {t : Nat} (h : s.InMode c m) : (s.exitThread t).InMode c m := by
  unfold State.exitThread
  exact .evalGroup (.updTh (.ite h h) fun _ => rfl)

theorem State.InMode.groupRecord {pkg g event task : Nat} (h : s.InMode c m) : (s.groupRecord pkg g event task).InMode c m := by
  unfold State.groupRecord
  split
  · exact .ite h (.ite h (.ite h h))
  · exact h

theorem State.InMode.endGang {t : Nat} (h : s.InMode c m) : (s.endGang t).InMode c m := by
  unfold State.endGang
  split
  · exact h
  · exact h.foldl fun _ _ hs => hs.updTh fun _ => rfl

theorem State.InMode.formGang {leader n : Nat} {pc : Word} (h : s.InMode c m) : (s.formGang leader n pc).InMode c m :=
  .foldl h fun _ _ hs => hs.updTh fun _ => by dsimp only; split <;> rfl

theorem State.InMode.arrive {key : Nat} {s' : State} {t : Option (BitVec 16)} (h : s.InMode c m)
    (hs : s.arrive key = .ok (s', t)) : s'.InMode c m := by
  unfold State.arrive at hs
  split at hs <;> cases hs <;> exact h

theorem State.InMode.awaitTicket {key : Nat} {t : BitVec 16} (h : s.InMode c m) : (s.awaitTicket key t).InMode c m :=
  .ite h (h.updMe fun _ => rfl)

theorem State.InMode.answer {d : XReg} {st : Word} (h : s.InMode c m) : (s.answer d st).InMode c m := .post (h.updMe fun _ => rfl)

theorem State.InMode.putBytes {l : List (Nat × Nat)} {data : List Byte} (h : s.InMode c m) : (s.putBytes l data).InMode c m := by
  induction l generalizing s data with
  | nil => exact h
  | cons r rest ih => exact ih h.storeAt

theorem State.InMode.startSave {pkg g issuer : Nat} {x : Group} {a : Area} (h : s.InMode c m) :
    (s.startSave pkg g x a issuer).InMode c m := by
  have held : ∀ u : State, u.InMode c m → (x.threads.foldl (fun s t => s.updTh t fun y => { y with held := true }) u).InMode c m :=
    fun u hu => hu.foldl fun _ _ hs => hs.updTh fun _ => rfl
  exact .ite (held _ h) (.settleLocks (.putBytes (held _ h)))

/-! #### Threads that wake -/

theorem State.InMode.wakeIf {p : Prop} {_ : Decidable p} {t : Nat} (h : s.InMode c m) :
    (if p then s.updTh t Thread.wake else s).InMode c m :=
  .ite (h.updTh fun _ => rfl) h

theorem State.InMode.setTasks {cid : Nat} {x : Core} (h : s.InMode c m) : (s.setTasks cid x).InMode c m :=
  .ite h (.foldl h fun _ _ hs => hs.wakeIf)

theorem State.InMode.ownTasks (h : s.InMode c m) : s.ownTasks.InMode c m := .ite h h

theorem State.InMode.flueEvent {cid : Nat} (h : s.InMode c m) : (s.flueEvent cid).InMode c m := State.InMode.wakeIf h

theorem State.InMode.joinColl {cid : Nat} {r : Req} (h : s.InMode c m) : (s.joinColl cid r).InMode c m := h

theorem State.InMode.wakeMail {cid : Nat} (h : s.InMode c m) : (s.wakeMail cid).InMode c m := .foldl h fun _ _ hs => hs.wakeIf

/-! #### Rings and splices -/

theorem State.InMode.updRing {tid q : Nat} {f : Ring → Ring} (h : s.InMode c m) : (s.updRing tid q f).InMode c m :=
  h.updTh fun _ => rfl

theorem State.InMode.beginTerm {cons consQ : Nat} {p : Nat × Nat} (h : s.InMode c m) : (s.beginTerm cons consQ p).InMode c m :=
  .updRing (State.InMode.updRing (s := s.numbered) h)

theorem State.InMode.makeCurrent {cons consQ : Nat} {p : Nat × Nat} (h : s.InMode c m) : (s.makeCurrent cons consQ p).InMode c m := by
  unfold State.makeCurrent
  refine .ite h.beginTerm (.ite h ?_)
  split
  · exact h.beginTerm
  · exact h.updRing

theorem State.InMode.leaveChannel {tid q : Nat} (h : s.InMode c m) : (s.leaveChannel tid q).InMode c m :=
  .ite h (.ite (.makeCurrent h.updRing) h.updRing)

theorem State.InMode.unbind {tid q : Nat} (h : s.InMode c m) : (s.unbind tid q).InMode c m := by
  unfold State.unbind
  exact .updRing (.ite h.leaveChannel h)

theorem State.InMode.popRing {tid q k : Nat} (h : s.InMode c m) : (s.popRing tid q k).InMode c m := by
  unfold State.popRing
  dsimp only
  split
  · exact .ite (.post h.updRing) h.updRing
  · exact h.updRing

theorem State.InMode.pushOut {tid q : Nat} {l : List Staged} (h : s.InMode c m) : (s.pushOut tid q l).InMode c m :=
  .updRing (.foldl h fun s _ hs => State.InMode.updTh (s := s.numbered) hs fun _ => rfl)

theorem State.InMode.forwardHead {tid : Nat} (h : s.InMode c m) : (s.forwardHead tid).InMode c m := .pushOut h.popRing

theorem State.InMode.commitSplice {x : Control} (h : s.InMode c m) : (s.commitSplice x).InMode c m := by
  unfold State.commitSplice
  have hp : (s.pushOut s.cur 1 [(x.as 1 0).slot s.cur]).InMode c m := h.pushOut
  dsimp only
  generalize s.pushOut s.cur 1 [(x.as 1 0).slot s.cur] = u at hp ⊢
  refine .ite ?_ (.ite ?_ ?_)
  · exact .ite (.updTh (.makeCurrent hp.updRing.updRing.updRing.updRing) fun _ => rfl)
      (.makeCurrent hp.updRing.updRing.updRing.updRing)
  · exact .updRing (.updRing (.updRing (.updTh hp.updRing fun _ => rfl)))
  · refine .ite (.makeCurrent ?_) (.updTh (.makeCurrent ?_) fun _ => rfl) <;>
      exact .updRing (.updRing (.updRing (.updTh hp.updRing fun _ => rfl)))

theorem State.InMode.failSplice {x : Control} {reason : Nat} {out : Bool} (h : s.InMode c m) :
    (s.failSplice x reason out).InMode c m :=
  .ite (.forwardHead h) h

/-! #### Register windows, buffers and tokens -/

theorem State.th_storeAt (s : State) (k : Nat) (data : List Byte) (t : Nat) : (s.storeAt k data).th t = s.th t := by
  simp only [State.th, State.storeAt_threads]

/-- Another WSP leaves STATUS alone. -/
theorem State.InMode.rotated {tid res depth : Nat} {y : SysRegs} {f : Thread → Thread} (h : s.InMode c m)
    (hy : y = (s.th tid).sys) (hf : ∀ x, (f x).sys = y.setWsp res depth) : (s.updTh tid f).InMode c m :=
  h.updStatus (by rw [hf, hy, SysRegs.setWsp])

theorem State.InMode.rotateCall {tid : Nat} {target : Word} (h : s.InMode c m) : (s.rotateCall tid target).InMode c m := by
  unfold State.rotateCall
  exact State.InMode.rotated h.storeAt (congrArg Thread.sys (s.th_storeAt ..).symm) fun _ => rfl

theorem State.InMode.rotateRet {tid : Nat} {target : Word} (h : s.InMode c m) : (s.rotateRet tid target).InMode c m := by
  unfold State.rotateRet
  exact State.InMode.rotated h rfl fun _ => rfl

theorem State.InMode.rotateOr {r : Rotation} (h : s.InMode c m) : (s.rotateOr r).InMode c m := by
  refine .ite (h.updMe fun _ => rfl) ?_
  cases r with
  | call target => exact h.rotateCall
  | ret target => exact h.rotateRet

theorem State.InMode.buffer {ea : Word} {far release : Bool} {kind : StoreKind} (h : s.InMode c m) :
    (s.buffer ea far release kind).InMode c m :=
  h.updMe (f := fun t => { t with sb := t.sb ++ [⟨s.serial, ea, far, release, kind, Fld s.src.sys.deadline 47 0, false⟩] })
    fun _ => rfl

theorem State.InMode.segStore {r : Near} {na w : Word} (h : s.InMode c m) : (s.segStore r na w).InMode c m := .ite h h.buffer

theorem State.InMode.openToken {t : XReg} (h : s.InMode c m) : (s.openToken t).InMode c m := h.updMe fun _ => rfl

theorem State.InMode.sendSync {op : SyncOp} {key : Nat} {na val : Word} {reg : Nat} (h : s.InMode c m) :
    (s.sendSync op key na val reg).InMode c m :=
  .sendOut h

end

end Sys2Proof.Machine

/-! ### The mode of the issuing thread (05 R109): bodies of instructions -/

namespace Sys2Proof.Machine

section
variable {c m : Nat} {s : State} (h : s.InMode c m)
include h

/-! #### Scalar and vector instructions -/

theorem R.InMode.alu2 {d a b : SOpd} {f : Word → Word → Word} : R.InMode c m (s.alu2 d a b f) := .bind fun _ => .pure h.writeS

theorem R.InMode.alu1 {d a : SOpd} {f : Word → Word} : R.InMode c m (s.alu1 d a f) := .bind fun _ => .pure h.writeS

theorem R.InMode.divide {d a b : SOpd} {f : Word → Word → Word} : R.InMode c m (s.divide d a b f) :=
  .bind fun _ => .bind fun _ => .pure h.resultS

theorem R.InMode.compare {d : PReg} {a b : SOpd} {f : Word → Word → Bool} : R.InMode c m (s.compare d a b f) :=
  .bind fun _ => .pure h.setPred

theorem R.InMode.compareI {d : PReg} {a : SOpd} {imm : BitVec 12} {f : Word → Word → Bool} :
    R.InMode c m (s.compareI d a imm f) :=
  .bind fun _ => .pure h.setPred

theorem R.InMode.floatResult {d : SOpd} {r : Rounded} {long : Bool} : R.InMode c m (s.floatResult d r long) :=
  .bind fun _ => .pure (.drew (.orFlags (.ite h.resultS h.writeS)))

theorem R.InMode.float2 {op : FOp} {f : Fmt} {d a b : SOpd} {r : Rnd} {long : Bool} : R.InMode c m (s.float2 op f d a b r long) :=
  .bind fun _ => .floatResult h

theorem R.InMode.convert {dst src : Fmt} {d a : SOpd} {r : Rnd} : R.InMode c m (s.convert dst src d a r) :=
  .bind fun _ => .bind fun _ => .pure (.drew (.orFlags h.writeS))

theorem R.InMode.vecResult {d : VOpd} {r : VRes} {long typed : Bool} : R.InMode c m (s.vecResult d r long typed) :=
  .bind fun _ => .pure (.drew (.orFlags (.ite h.resultV h.writeV)))

theorem R.InMode.vec2 {d a b : VOpd} {k : MReg} {w : Nat} {long : Bool} {f : Nat → Nat → Nat → Rounded} :
    R.InMode c m (s.vec2 d a b k w long f) :=
  .bind fun _ => .vecResult h

theorem R.InMode.vec1 {d a : VOpd} {k : MReg} {w : Nat} {long : Bool} {f : Nat → Nat → Rounded} :
    R.InMode c m (s.vec1 d a k w long f) :=
  .bind fun _ => .vecResult h

theorem R.InMode.vecFma {neg : Bool} {f : Fmt} {d : VReg} {a b : VOpd} {k : MReg} {r : Rnd} :
    R.InMode c m (s.vecFma neg f d a b k r) :=
  .bind fun _ => .vecResult h

theorem R.InMode.vcmp {md : Fin 64} {a b : VOpd} {k : MReg} {w : Nat} {rel : Nat → Nat → CmpLane} :
    R.InMode c m (s.vcmp md a b k w rel) :=
  .bind fun _ => .bind fun _ => .pure <| .orFlags <| h.updMe fun t => by simp

theorem R.InMode.visab {f : Fmt} {md : Fin 4} {a : VOpd} {k : MReg} : R.InMode c m (s.visab f md a k) :=
  .bind fun _ => .pure h.setMask

theorem R.InMode.vcnt {f : Fmt} {d : SOpd} {a : VOpd} {k : MReg} : R.InMode c m (s.vcnt f d a k) := .bind fun _ => .pure h.writeS

theorem R.InMode.vmkab {f : Fmt} {d a : VOpd} {n : XReg} {k : MReg} : R.InMode c m (s.vmkab f d a n k) :=
  .bind fun _ => .vecResult h

theorem R.InMode.vcvt {f : Fmt} {d a : VOpd} {src : PSrc} {k : MReg} {r : Rnd} : R.InMode c m (s.vcvt f d a src k r) :=
  .bind fun _ => .vecResult h

theorem R.InMode.vdot {f : Fmt} {d : VReg} {a b : VOpd} {k : MReg} {g : Nat → List (Nat × Nat) → Nat → Rounded} :
    R.InMode c m (s.vdot f d a b k g) :=
  .bind fun _ => .vecResult h

theorem R.InMode.vrng {w : Nat} {d : VOpd} {k i : XReg} {e : MReg} {f : Nat → Nat} : R.InMode c m (s.vrng w d k i e f) :=
  .bind fun _ => .bind fun _ => .bind fun _ => .vecResult h

theorem State.InMode.xldEnds {i : Nat} {b : Bool} :
    (s.updMe fun t => { t.setPred i b with xldCycles := 0, xldExpired := false }).InMode c m :=
  h.updMe fun t => congrArg SysRegs.status (t.setPred_sys i b)

theorem Out.InMode.xld {d a : VReg} {dp : Fin 32} {k : MReg} : Out.InMode c m (execXld d a dp k s) :=
  .issueA <| .bind fun _ => .ite (.pure h.xldEnds) <| .ite (.pure h.writeV.xldEnds) <| .ite (.pure h.xldEnds) .error

/-! #### Accesses as they issue -/

theorem R.InMode.issueLoad {d : Dest} {key : Nat} {rest : Option (Nat × Nat)} {ea : Word} {n : Nat} {far sext acq : Bool} :
    R.InMode c m (s.issueLoad d key rest ea n far sext acq) := by
  unfold State.issueLoad
  split
  · exact .error
  · exact .bind fun _ => .pure (.post h.occupy)
  · exact .pure (.depart h.occupy)

theorem R.InMode.loadFar {d : Dest} {b : XReg} {imm : BitVec 12} {n al : Nat} {sext acq : Bool} :
    R.InMode c m (s.loadFar d b imm n al sext acq) :=
  .bind fun _ => .bind fun _ => .issueLoad h

theorem R.InMode.loadNear {d : Dest} {b : XReg} {imm : BitVec 12} {n al : Nat} : R.InMode c m (s.loadNear d b imm n al) :=
  .bind fun _ => .bind fun _ => .issueLoad h

theorem R.InMode.storeFar {o : Place} {val : Nat} {b : XReg} {imm : BitVec 12} {n al : Nat} {rel : Bool} :
    R.InMode c m (s.storeFar o val b imm n al rel) := by
  refine .bind fun _ => .bind fun _ => .bind fun r => .bind fun _ => .bind fun _ => .pure (.buffer ?_)
  split
  · exact h.dirtied.dirtied
  · exact h.dirtied

theorem R.InMode.storeNear {o : Place} {val : Nat} {b : XReg} {imm : BitVec 12} {n al : Nat} :
    R.InMode c m (s.storeNear o val b imm n al) :=
  .bind fun _ => .bind fun _ => .bind fun _ => .bind fun _ => .bind fun _ => .pure (.ite h.post h.buffer)

theorem R.InMode.issueAtomic {d : Dest} {op : AccOp} {key : Nat} {ea : Word} {n : Nat} {far : Bool} {v : Word} :
    R.InMode c m (s.issueAtomic d op key ea n far v) :=
  .pure (.depart h.occupy)

theorem R.InMode.atomicFar {op : AccOp} {d b : XReg} {v : SOpd} {n : Nat} {also : List Place} :
    R.InMode c m (s.atomicFar op d b v n also) :=
  .bind fun _ => .bind fun _ => .bind fun _ => .bind fun _ => .issueAtomic h.dirtied

theorem R.InMode.atomicNear {op : AccOp} {d b : XReg} {v : SOpd} {also : List Place} : R.InMode c m (s.atomicNear op d b v also) :=
  .bind fun _ => .bind fun _ => .bind fun _ => .bind fun _ => .bind fun _ => .issueAtomic h

theorem Out.InMode.afadd {d b : XReg} {v : SOpd} {z : Fin 2} {g : Fin 8} : Out.InMode c m (execAfadd d b v z g s) :=
  .issueC h <| .bindState (.atomicFar h) fun _ hs => .pure (.ite hs.drew hs)

theorem R.InMode.lockOp {op : AccOp} {d : Dest} {b : XReg} : R.InMode c m (s.lockOp op d b) :=
  .bind fun _ => .bind fun _ => .issueAtomic h.dirtied

theorem R.InMode.loadSync {op : SyncOp} {d b : XReg} {imm : BitVec 12} : R.InMode c m (s.loadSync op d b imm) :=
  .bind fun _ => .bind fun _ => .pure (.sendSync (h.updMe fun _ => rfl))

theorem R.InMode.storeSync {op : SyncOp} {v : SOpd} {b : XReg} {imm : BitVec 12} : R.InMode c m (s.storeSync op v b imm) :=
  .bind fun _ => .bind fun _ => .bind fun _ => .bind fun _ => .bind fun _ => .pure h.sendSync

theorem R.InMode.stateSync {op : SyncOp} {b : XReg} {imm : BitVec 12} : R.InMode c m (s.stateSync op b imm) :=
  .bind fun _ => .bind fun _ => .pure h.sendSync

/-! #### Rings, splices and messages -/

theorem Out.InMode.qbind {q : Fin 8} {kind sz : Fin 4} {lc : Fin 8} {d a : XReg} : Out.InMode c m (execQbind q kind sz lc d a s) := by
  refine .issue <| .bind fun _ => .bind fun _ => .bind fun _ => .bind fun _ => ?_
  have own {k : RingKind} {q size cap : Nat} {a : Word} {d : XReg} : R.InMode c m (s.bindOwn k q size cap a d) :=
    .bind fun _ => .bind fun _ => .bind fun _ => .pure (.writeX (State.InMode.updMe (s := s.numbered) h fun _ => rfl))
  dsimp only
  split
  · exact own
  · exact own
  · exact .bind fun _ => .bind fun _ => .pure (.post (h.updMe fun _ => rfl))

theorem Out.InMode.qunbind {q g : Fin 8} : Out.InMode c m (execQunbind q g s) :=
  .issueC h <| .bind fun _ => .bind fun _ => .bind fun _ => .bind fun _ => .pure h.unbind

theorem Out.InMode.qpop {k q g : Fin 8} : Out.InMode c m (execQpop k q g s) :=
  .issueC h <| .bind fun _ => .bind fun _ => .bind fun _ => .pure h.popRing

theorem Out.InMode.qpush {k q g : Fin 8} : Out.InMode c m (execQpush k q g s) :=
  .issueC h <| .bindIf fun _ => .bind fun _ => .ite (.bind fun _ => .pure h.updRing) (.bind fun _ => .pure h.pushOut)

theorem Out.InMode.qfwd {g : Fin 8} : Out.InMode c m (execQfwd g s) :=
  .issueC h <| .bind fun _ => .bind fun _ => .bind fun _ => .bind fun _ => .bind fun _ => .bind fun _ => .bind fun _ => .bind fun _ =>
    .pure h.forwardHead

theorem Out.InMode.qseam {d : XReg} {g : Fin 8} : Out.InMode c m (execQseam d g s) := by
  refine .issueC h <| .bind fun _ => .bind fun _ => .bindIf fun _ => .bind fun _ => .bind fun _ => .ite (.ite ?_ ?_) (.ite ?_ ?_)
  · exact .bind fun _ => .pure (.writeX h.forwardHead)
  · exact .pure (.writeX h.failSplice)
  · exact .bind fun _ => .pure (.writeX h.failSplice)
  · exact .pure (.writeX (State.InMode.post (.popRing h.commitSplice)))

theorem Out.InMode.qinherit {b n : XReg} {g : Fin 8} : Out.InMode c m (execQinherit b n g s) :=
  .issueC h <| .bind fun _ => .ite (.pure (h.updMe fun _ => rfl)) (.bind fun _ => .bind fun _ => .pure (h.updMe fun _ => rfl))

theorem Out.InMode.markret {g : Fin 8} : Out.InMode c m (execMarkret g s) :=
  .issueJ h <| .bind fun _ => .bind fun _ => .pure (h.jump.updMe fun _ => rfl)

theorem R.InMode.splice {rs : List Place} {q op inh snum target newStage : Nat} {newThr : Word} :
    R.InMode c m (s.splice rs q op inh snum target newStage newThr) :=
  .bind fun _ => .bind fun _ => .bind fun _ => .bind fun _ => .pure h.pushOut

theorem R.InMode.send {a b : SOpd} {t : XReg} {typed : Bool} : R.InMode c m (s.send a t b typed) :=
  .bind fun _ => .bind fun _ => .bind fun _ => .bind fun _ => .pure h.post

theorem R.InMode.receive {d e : XReg} {f : Fin 8} {want : Msg → Bool} {st : Stop} : R.InMode c m (s.receive d e f want st) := by
  unfold State.receive
  split
  · exact .error
  · exact .bind fun _ => .pure (.writeX (.writeX (.ite h h)))

theorem Out.InMode.putr {idx t : XReg} {v : SOpd} {g : Fin 8} : Out.InMode c m (execPutr idx t v g s) :=
  .issueC h <| .bind fun _ => .bind fun _ => .bind fun _ => .bind fun _ => .pure (.sendTo h.post)

/-! #### Barriers, gangs, tasks and control -/

theorem Out.InMode.bar {b : Fin 16} {sc : Scope} {g : Fin 8} : Out.InMode c m (execBar b sc g s) := by
  refine .issueC h <| .bind fun _ => .bindOk fun (s', t) hs => ?_
  cases t with
  | none => exact .pure (h.arrive hs)
  | some t => exact .pure (h.arrive hs).awaitTicket

theorem Out.InMode.bara {d : XReg} {b : Fin 16} {sc : Scope} {g : Fin 8} : Out.InMode c m (execBara d b sc g s) := by
  refine .issueC h <| .bind fun _ => .bind fun _ => .bindOk fun (s', t) hs => ?_
  cases t <;> exact .pure (.writeX (h.arrive hs))

theorem Out.InMode.barw {x : XReg} {b : Fin 16} {sc : Scope} {g : Fin 8} : Out.InMode c m (execBarw x b sc g s) :=
  .issueC h <| .bind fun _ => .bind fun _ => .ite (.pure h) (.bind fun _ => .pure h.awaitTicket)

theorem Out.InMode.bari {sc : Scope} {b : Fin 16} {d a : XReg} : Out.InMode c m (execBari sc b d a s) :=
  .issue <| .bind fun _ => .bind fun _ => .bind fun _ => .bind fun _ => .bind fun _ => .pure (State.InMode.answer h)

theorem Out.InMode.gang {n g : Fin 8} : Out.InMode c m (execGang n g s) :=
  .issueC h <| .bind fun _ => .ite (.bind fun _ => .pure h.formGang) (.pure h.formGang)

theorem Out.InMode.gangw {g : Fin 8} : Out.InMode c m (execGangw g s) := by
  refine .issueC h <| .bind fun _ => ?_
  split
  · exact .bind fun _ => .pure (h.updMe fun _ => rfl)
  · exact .pure (h.updMe fun _ => rfl)

theorem Out.InMode.tqpush {d w : XReg} {k : Fin 4} {g : Fin 8} : Out.InMode c m (execTqpush d w k g s) :=
  .issueC h <| .bind fun _ => .bind fun _ => .ite (.pure (.writeX h.ownTasks.setTasks)) (.pure (.writeX h.ownTasks))

theorem Out.InMode.tqpop {d e : XReg} {g : Fin 8} : Out.InMode c m (execTqpop d e g s) := by
  refine .issueC h <| .bind fun _ => .bind fun _ => ?_
  dsimp only
  split
  · exact .pure h.writeX.writeX
  · exact .pure (.writeX (.writeX (.ite (.groupRecord h.setTasks) h.setTasks)))

theorem Out.InMode.tqpeek {d e : XReg} {g : Fin 8} : Out.InMode c m (execTqpeek d e g s) := by
  refine .issueC h <| .bind fun _ => .bind fun _ => ?_
  split <;> exact .pure h.writeX.writeX

theorem R.InMode.sleepEntry {d w t : XReg} {k : Fin 4} : R.InMode c m (s.sleepEntry d w t k) :=
  .bind fun _ => .bind fun _ => .bind fun _ =>
    .ite (.pure (.writeX h.ownTasks)) (.ite (.pure (.writeX h.ownTasks)) (.pure (.writeX h.ownTasks)))

theorem Out.InMode.sleepW {d w t : XReg} {k : Fin 4} {g : Fin 8} : Out.InMode c m (execSleepW d w t k g s) :=
  .issueC h <| .bindState (.sleepEntry h) fun _ hs => .ite (.pure (hs.updMe fun _ => rfl)) (.pure hs)

theorem R.InMode.armTimer {d x : XReg} {base : Nat} : R.InMode c m (s.armTimer d x base) :=
  .bind fun _ => .bind fun _ => .pure h.writeX.setTimer

theorem Out.InMode.brp {p : PReg} {sense : Bool} {off : BitVec 19} : Out.InMode c m (execBrp p sense off s) :=
  .issueJ h <| .ite (.ok h.jump) (.ok h.advance)

theorem Out.InMode.loop {x : PReg} {off : BitVec 19} : Out.InMode c m (execLoop x off s) :=
  .issueJ h <| .bind fun _ => .ite (.pure h.advance)
    (.ite (.pure (.jump (.updMe h fun _ => rfl))) (.pure (.advance (.updMe h fun _ => rfl))))

theorem Out.InMode.call {off : BitVec 19} : Out.InMode c m (execCall off s) :=
  .issueJ h <| .bind fun _ => .bind fun _ => .pure h.rotateOr

theorem Out.InMode.calli {x : XReg} {g : Fin 8} : Out.InMode c m (execCalli x g s) :=
  .issueJ h <| .bind fun _ => .bind fun _ => .bind fun _ => .pure h.rotateOr

theorem Out.InMode.ret {x : XReg} {g : Fin 8} : Out.InMode c m (execRet x g s) :=
  .issueJ h <| .bind fun _ => .bind fun _ => .bind fun _ => .pure h.rotateOr

theorem Out.InMode.fence {sc : Scope} {g : Fin 8} : Out.InMode c m (execFence sc g s) := by
  refine .issueC h <| .bind fun _ => ?_
  cases sc <;> exact .pure h

/-! #### System instructions, engines and the matrix unit -/

theorem Out.InMode.segld {b : XReg} {n g : Fin 8} : Out.InMode c m (execSegld b n g s) := by
  refine .issueC h <| .bind fun _ => ?_
  dsimp only
  split
  · exact .error
  · exact .bind fun _ => .error
  · exact .bind fun _ => .bind fun _ => .pure (h.updMe fun _ => rfl)

theorem Out.InMode.segst {b : XReg} {n g : Fin 8} : Out.InMode c m (execSegst b n g s) :=
  .issueC h <| .bind fun _ => .bind fun _ => .bind fun _ => .bind fun _ => .bind fun _ => .pure h.segStore.segStore

theorem R.InMode.pgrep {x : XReg} {fail : Bool} : R.InMode c m (s.pgrep x fail) :=
  .bind fun _ => .bind fun _ => .bind fun _ => .bind fun _ => .ite (.pure h) (.pure h.post)

omit h in
/-- BRK stops its pair, whether by a trap or at a breakpoint. -/
theorem Out.InMode.brk {imm : BitVec 12} : Out.InMode c m (execBrk imm s) :=
  .ite (.stopped ((congrArg Issue.stop (State.iss_noteStop _)).trans (s.stop_halted .brk))) .halted

theorem Out.InMode.tremit {x : SOpd} {g : Fin 8} : Out.InMode c m (execTremit x g s) :=
  .issueC h <| .bind fun _ => .bind fun _ => .bind fun _ => .bind fun _ => .ite (.pure h.trace) (.pure h)

theorem Out.InMode.rpush {x : SOpd} {g : Fin 8} : Out.InMode c m (execRpush x g s) :=
  .issueC h <| .bind fun _ => .ite (.pure (h.updMe fun _ => rfl)) (.pure (.traceRange (h.updMe fun _ => rfl)))

theorem Out.InMode.rpop {d : XReg} {g : Fin 8} : Out.InMode c m (execRpop d g s) := by
  refine .issueC h <| .bind fun _ => .ite (.pure (.writeX (h.updMe fun _ => rfl))) ?_
  split
  · exact .pure h.writeX
  · exact .pure (.writeX (.traceRange (h.updMe fun _ => rfl)))

theorem Out.InMode.ctxs {d g a : XReg} {gd : Fin 8} : Out.InMode c m (execCtxs d g a gd s) := by
  refine .issueC h <| .bind fun (n, pod, va) => ?_
  dsimp only
  split
  · exact .pure h.answer
  · exact .ite (.pure h.answer) <| .ite (.pure h.answer) <| .ite (.pure h.answer) <|
      .ite (.pure (State.InMode.answer h)) (.pure (.answer h.startSave))

theorem Out.InMode.ctxsResume {d g a : XReg} {gd : Fin 8} : Out.InMode c m (execCtxsResume d g a gd s) := by
  refine .issueC h <| .bind fun (n, pod, va) => ?_
  dsimp only
  split
  · exact .pure h.answer
  · exact .ite (.pure h.answer) <| .ite (.pure h.answer) <| .bind fun _ => .bind fun _ =>
      .ite (.pure h.answer) <| .ite (.pure h.answer) <| .pure (State.InMode.answer h)

theorem Out.InMode.launch {d a q : XReg} : Out.InMode c m (execLaunch d a q s) :=
  .issue <| .bind fun _ => .bind fun _ => .bind fun _ => .bind fun _ => .pure <| .answer (.ite h h)

theorem Out.InMode.tmov {t da sa sh : XReg} : Out.InMode c m (execTmov t da sa sh s) := by
  refine .issue <| .bind fun _ => .bind fun _ => .bind fun _ => .bind fun _ => ?_
  dsimp only
  split
  · exact .error
  · exact .error
  · exact .bind fun _ => .bind fun _ => .bind fun _ => .bind fun _ => .pure (.post h.openToken)

theorem Out.InMode.plane {t da sa ct : XReg} : Out.InMode c m (execPlane t da sa ct s) := by
  refine .issue <| .bind fun _ => .bind fun _ => ?_
  dsimp only
  split
  · exact .error
  split
  · exact .error
  split
  · exact .error
  · refine .bind fun _ => .bind fun _ => .ite (.bind fun _ => .ite ?_ ?_) (.bind fun _ => .ite ?_ ?_)
    all_goals exact .bind fun _ => .bind fun _ => .bind fun _ => .bind fun _ => .bind fun _ => .bind fun _ => .pure h.openToken.post

theorem Out.InMode.flue {x : GReg} {g : Fin 8} : Out.InMode c m (execFlue x g s) := by
  refine .issueC h <| .bind fun _ => .bind fun _ => .bind fun _ => .bind fun _ => ?_
  dsimp only
  split
  · exact .error
  · exact .pure (State.InMode.flueEvent h)

theorem R.InMode.toEngine {op : Nat} {d : XReg} {mb : Fin 4} : R.InMode c m (s.toEngine op d mb) := by
  refine .bind fun _ => .bind fun _ => ?_
  dsimp only
  split
  · exact .ite (.pure (.post (.writeX (.wakeMail h)))) <| .ite (.pure (.post (.writeX (.wakeMail h)))) <|
      .pure (.joinColl (.writeX (.wakeMail h)))
  · exact .pure h.writeX

theorem R.InMode.enqueue {t : XReg} {cmd : MatCmd} : R.InMode c m (s.enqueue t cmd) := .bind fun _ => .pure h.openToken

theorem R.InMode.mma {fa fb : Fmt} {t da db : XReg} {n : Fin 32} : R.InMode c m (s.mma fa fb t da db n) :=
  .bind fun _ => .bind fun _ => .bind fun _ => .bind fun _ => .enqueue h

theorem R.InMode.plainCmd {t : XReg} {cmd : MatCmd} : R.InMode c m (s.plainCmd t cmd) := .bind fun _ => .enqueue h

theorem R.InMode.rowsCmd {t ad st : XReg} {cmd : Nat → Nat → MatCmd} : R.InMode c m (s.rowsCmd t ad st cmd) :=
  .bind fun _ => .bind fun _ => .bind fun _ => .bind fun _ => .bind fun _ => .enqueue h

theorem Out.InMode.mhint {imm : BitVec 12} : Out.InMode c m (execMhint imm s) := .issue <| .ite (.pure h) (.pure (.ite h h))

end

/-! #### The two instructions that write STATUS (05 R109; 20 R347, R349) -/

section
variable {c m : Nat} {s : State}

/-- STATUS as an MTS of a user-mode thread leaves it keeps SUP, PSUP and DET. -/
theorem Fld_statusWrite_user (old w : Word) : Fld (statusWrite old w false) 32 30 = Fld old 32 30 := by
  have hlow (v : Word) : (keepBits v [(29, 24), (17, 12), (5, 0)]).toNat < 2 ^ 30 := by
    simp only [keepBits, Fld, bits, List.map_cons, List.map_nil, List.foldl_cons, List.foldl_nil, BitVec.toNat_ofNat]
    exact Nat.lt_of_le_of_lt (Nat.mod_le _ _) (by omega)
  have hmode : Fld (keepBits old [(32, 30)]) 32 30 = Fld old 32 30 := by simp [keepBits, Fld, bits]; omega
  simp only [statusWrite, Bool.false_eq_true, if_false]
  rw [BitVec.or_comm, Fld_or_of_lt (hlow _), hmode]

/-- Every register but STATUS is another word of the thread. -/
theorem Thread.sysWrite_status (t : Thread) (n : Nat) (w : Word) (hn : n ≠ 0) : (t.sysWrite n w).sys.status = t.sys.status := by
  cases t
  cases ‹SysRegs›
  unfold Thread.sysWrite
  dsimp only
  split
  case h_1 => exact absurd rfl hn
  all_goals rfl

theorem Out.InMode.mts {x : XReg} {n : Fin 64} {g : Fin 8} (h : s.InMode c m) (hsup : s.src.sup = false)
    (hsrc : s.src.sys.status = s.me.sys.status) : Out.InMode c m (execMts x n g s) := by
  refine .issueC h <| .bind fun _ => .bind fun _ => .bind fun _ => ?_
  dsimp only
  split
  · have hflags : (s.iss.flags.setWidth 64).toNat < 2 ^ 30 := by simp; omega
    refine .pure (h.updMeStatus ?_)
    rw [Thread.setStatus_sys, hsup, hsrc, Fld_or_of_lt hflags, Fld_statusWrite_user]
  · exact .pure h
  · exact .pure h
  · next hn _ _ => exact .pure (h.updMe fun t => t.sysWrite_status _ _ hn)

/-- ERET of a user-mode thread traps. -/
theorem Out.InMode.eret {g : Fin 8} (h : s.InMode c m) (hsup : s.src.sup = false) : Out.InMode c m (execEret g s) := by
  refine .issueJ h ?_
  rw [s.needSup_of_user hsup]
  exact .error

end

end Sys2Proof.Machine

/-! ### No instruction of a user-mode thread but TRAP changes SUP, PSUP or DET (05 R109; 12 R208; 20 R349, R350) -/

namespace Sys2Proof.Machine

section
variable {c m : Nat} {s : State}

theorem Out.InMode.exec {i : Instr} (h : s.InMode c m) (hsup : s.src.sup = false) (hsrc : s.src.sys.status = s.me.sys.status)
    (hev : i.isEvent = false) (htrap : ∀ imm, i ≠ .trap imm) : Out.InMode c m (exec i s) := by
  cases i <;> unfold Machine.exec
  case trap imm => exact absurd rfl (htrap imm)
  case cnop => exact .issueC h (.ok h)
  case pand | por | pxor | pnot | pmov => exact .issueC h (.ok h.setPred)
  case br => exact .issueJ h (.ok h.jump)
  case brp => exact .brp h
  case call => exact .call h
  case loop => exact .loop h
  case calli => exact .calli h
  case ret => exact .ret h
  case jmpi => exact .issueJ h (.bind fun _ => .bind fun _ => .pure h.jump)
  case eret => exact .eret h hsup
  case exit => exact .issueC h (.ok (h.exitThread.updMe fun _ => rfl))
  case brk => exact .brk
  case ifence | pclr => exact .issueC h (.bind fun _ => .pure (h.updMe fun _ => rfl))
  case pfence => exact .issueC h (.bind fun _ => .pure h)
  case ptst | qstat | emb | embHearth => exact .issueC h (.bind fun _ => .pure h.writeX)
  case timerOff => exact .issueC h (.bind fun _ => .pure h.writeX.setTimer)
  case fence => exact .fence h
  case add | sub | andC | orC | xorC | andn | mul | mulhs | mulhu | shl | shr | sha | rotr | mins | maxs | minu | maxu | sel | lea | bext
    | bextS => exact .issueC h (.alu2 h)
  case divs | divu | rems | remu => exact .issueC h (.divide h)
  case clz | ctz | popc | brev | sextB | sextH | sextW | zextB | zextH | zextW | mov => exact .issueC h (.alu1 h)
  case cmpEq | cmpNe | cmpLt | cmpGe | cmpLtu | cmpGeu => exact .issueC h (.compare h)
  case bins => exact .issueC h (.bind fun _ => .pure h.writeS)
  case tremit => exact .tremit h
  case rpush => exact .rpush h
  case rpop => exact .rpop h
  case ctxs => exact .ctxs h
  case ctxsResume => exact .ctxsResume h
  case ctxsSize => exact .issueC h (.bind fun _ => .bind fun _ => .bind fun _ => .bind fun _ => .pure h.writeX)
  case addi | andi | ori | xori | shli | shri | shai => exact .issue (.alu1 h)
  case movi => exact .issue (.bind fun _ => .pure h.writeS)
  case cmpiEq | cmpiNe | cmpiLt | cmpiGe | cmpiLtu | cmpiGeu => exact .issue (.compareI h)
  case ldBZ | ldBS | ldHZ | ldHS | ldWZ | ldWS | ldD | ldAcq | ldv => exact .issue (.loadFar h)
  case stB | stH | stW | stD | stRel | stv => exact .issue (.storeFar h)
  case aadd | amin | amax | aand | aor | axor | axchg | acas => exact .issueC h (.atomicFar h)
  case afadd => exact .afadd h
  case lock | lockStatus | unlock | unlockStatus => exact .issueC h (.lockOp h)
  case nadd | ncas => exact .issueC h (.atomicNear h)
  case mzeroFlt | mzeroInt | mstat => exact .issueC h (.plainCmd h)
  case mhint => exact .mhint h
  case ldnW | ldnD | vldn => exact .issue (.loadNear h)
  case stnW | stnD | vstn => exact .issue (.storeNear h)
  case ldf | ldfe => exact .issue (.loadSync h)
  case ste => exact .issue (.bindState (.storeSync h) fun _ hs => .pure (hs.updMe fun _ => rfl))
  case stf => exact .issue (.storeSync h)
  case feclr | feset | claim => exact .issue (.stateSync h)
  case feq => exact .issue (.bind fun _ => .bind fun _ => .pure (.sendSync h.occupy))
  case flue => exact .flue h
  case send | sendT => exact .issueC h (.send h)
  case recv => exact .issueC h (.bind fun _ => .receive h)
  case recvs | waitm => exact .issueC h (.bind fun _ => .bind fun _ => .receive h)
  case putr => exact .putr h
  case qunbind => exact .qunbind h
  case qpop => exact .qpop h
  case qpush => exact .qpush h
  case qfwd => exact .qfwd h
  case qseam => exact .qseam h
  case qinherit => exact .qinherit h
  case markret => exact .markret h
  case bar => exact .bar h
  case bara => exact .bara h
  case barw => exact .barw h
  case gang => exact .gang h
  case gangw => exact .gangw h
  case disband => exact .issueC h (.ok h.endGang)
  case tqpush => exact .tqpush h
  case tqpop => exact .tqpop h
  case tqpeek => exact .tqpeek h
  case sleep => exact .issueC h (.sleepEntry h)
  case sleepW => exact .sleepW h
  case timer | timerAbs => exact .issueC h (.armTimer h)
  case mfs => exact .issueC h (.bind fun _ => .bind fun _ => .pure h.writeX)
  case mts => exact .mts h hsup hsrc
  case segld => exact .segld h
  case segst => exact .segst h
  case tlbi => exact .issueC h (.bind fun _ => .bind fun _ => .bind fun _ => .pure h.post)
  case pgrep | pgrepFail => exact .issueC h (.pgrep h)
  case anop => exact .issueA (.ok h)
  case fadd | fsub | fmul | fdiv => exact .issueA (.float2 h)
  case fma | fsqrt | fmin | fmax | fabs | fneg | fsgn | fcmp | fclass => exact .issueA (.bind fun _ => .floatResult h)
  case fcvtF | fcvtI => exact .issueA (.convert h)
  case vaddF | vsubF | vmulF | vminF | vmaxF | vdiv | vand | vor | vxor | vshl | vshr | vsha | vaddI | vsubI | vmulI | vminI | vmaxI =>
    exact .issueA (.vec2 h)
  case vfma | vfms => exact .issueA (.vecFma h)
  case vabsF | vnegF | vsqrt | vrcp | vrsq | vexp2 | vlog2 | vsin | vcos | vtanh | vmov | vabsI | vnegI => exact .issueA (.vec1 h)
  case vdotF | vdotI => exact .issueA (.vdot h)
  case vcmpF | vcmpI => exact .issueA (.vcmp h)
  case vsel | vbcast | vperm | vredF | vredI => exact .issueA (.bind fun _ => .vecResult h)
  case vcvtF | vcvtI => exact .issueA (.vcvt h)
  case vcntF | vcntI => exact .issueA (.vcnt h)
  case visabF | visabI => exact .issueA (.visab h)
  case vmkabF | vmkabI => exact .issueA (.vmkab h)
  case vmovToMask => exact .issueA (.bind fun _ => .pure h.setMask)
  case vmovFromMask => exact .issueA (.bind fun _ => .pure h.writeX)
  case vext => exact .issueA (.bind fun _ => .pure (.ite h.writeS h))
  case vins => exact .issueA (.bind fun _ => .pure (.ite h.writeV h))
  case xld => exact .xld h
  case vrngF | vrngI => exact .issueA (.vrng h)
  case movw | movwHi => exact .issue (.bind fun _ => .pure h.writeX)
  case qbind => exact .qbind h
  case spliceInsert | spliceRemove | spliceRebind => exact .issue (.splice h)
  case launch => exact .launch h
  case bari => exact .bari h
  case tmov => exact .tmov h
  case plane => exact .plane h
  case bcpy | gath | scat | coll => exact .issue (.toEngine h)
  case mdrain | mloadFlt | mloadInt => exact .issue (.rowsCmd h)
  case mmaF4F4 | mmaE4E4 | mmaE5E5 | mmaE4E5 | mmaE5E4 | mmaBF16BF16 | mmaF16F16 | mmaBF16F4 | mmaBF16E4 | mmaBF16TS8 | mmaE4TS8 | mmaI8I8
    => exact .issue (.mma h)
  all_goals cases hev

end

/-- Settles O60: every way in which an instruction's body puts its next state together leaves bits [32:30] of the issuing thread's
STATUS alone; of the two that write STATUS as a word, MTS keeps them in user mode and ERET traps. -/
theorem userModeStaysUserMode : Obligations.UserModeStaysUserMode := by
  intro i s t hev htrap hsrc huser hexec hstop
  have hsup : s.src.sup = false := by rw [Thread.sup, hsrc]; exact huser
  obtain ⟨hcur, hmode⟩ := Out.InMode.exec ⟨rfl, rfl⟩ hsup hsrc hev htrap t hexec hstop
  exact ⟨hcur, by rw [State.me, hcur]; exact hmode⟩

end Sys2Proof.Machine

/-! ### MTS of a window register while a transfer is in flight (05 R100, R108; 12 R207) -/

namespace Sys2Proof.Machine

/-- A user-mode thread with a window spill of its own in flight, and nothing else in the machine. -/
def spilling : State :=
  { State.reset with threads := [(0, { slot := .runnable })], flight := [(0, .walk ⟨0, 0, 0, 0, false, 0, 0, accSpill, none⟩)] }

theorem spilling_movingWindow : spilling.movingWindow spilling.cur = true := by decide

theorem spilling_ready : spilling.Ready [xplace 1] [xplace 1] := by
  refine ⟨fun p hp => ?_, fun p hp => ?_⟩ <;> obtain rfl := List.mem_singleton.1 hp
  · exact ⟨⟨by decide, by decide⟩, trivial⟩
  · exact ⟨by decide, by decide⟩

/-- An instruction that stops at a wait does not stop at a trap. -/
theorem State.halted_wait_ne_trap (s : State) (w : Waiting) (c : Nat) (v : Word) : s.halted (.wait w) ≠ s.halted (.trap c v) := by
  intro h
  have hstop := congrArg (fun t : State => t.iss.stop) h
  simp only [State.stop_halted, Option.some.injEq, reduceCtorEq] at hstop

/-- Refutes O41: where MTS writes WBASE (register 5) in user mode while a spill of the thread is in flight, the statement asks both for
cause 0x02, as the register is marked (S), and for a wait until the spill is over. The model waits first (12 R207). -/
theorem not_systemRegisters : ¬ Obligations.SystemRegisters := by
  intro ⟨hregs, _⟩
  obtain ⟨_, huser, hmoving, _⟩ := (hregs spilling 1 1 5 0 rfl spilling_ready).2 (by decide) (by decide)
  have htrap := huser (by decide) (by decide)
  have hwait := hmoving (by decide) (by decide) spilling_movingWindow
  exact spilling.halted_wait_ne_trap _ _ _ (Host.Outcome.next.inj (hwait.symm.trans htrap))

end Sys2Proof.Machine

/-! ### Register windows: the rotation of a call and of a return (05 R98, R99; 17 R302) -/

namespace Sys2Proof.Machine

/-! #### Sixteen registers written together -/

/-- The first n of l0 to l15 written, in their order. -/
def Thread.setFirst (t : Thread) (f : Nat → Word) (n : Nat) : Thread := (List.range n).foldl (fun t i => t.setReg (16 + i) (f i)) t

theorem Thread.setLocals_eq (t : Thread) (f : Nat → Word) : t.setLocals f = t.setFirst f 16 := rfl

theorem Thread.setFirst_succ (t : Thread) (f : Nat → Word) (n : Nat) :
    t.setFirst f (n + 1) = (t.setFirst f n).setReg (16 + n) (f n) := by
  rw [Thread.setFirst, List.range_succ, List.foldl_append]
  rfl

section
variable (t : Thread) (f : Nat → Word)

/-- What no write of one register changes, a write of the local registers leaves. -/
theorem Thread.setFirst_keeps {α : Type} {g : Thread → α} (hg : ∀ t i w, g (t.setReg i w) = g t) (n : Nat) :
    g (t.setFirst f n) = g t := by
  induction n with
  | zero => rfl
  | succ n ih => rw [Thread.setFirst_succ, hg, ih]

@[simp] theorem Thread.setLocals_pc : (t.setLocals f).pc = t.pc := t.setFirst_keeps f (g := Thread.pc) (fun _ _ _ => rfl) 16

@[simp] theorem Thread.setLocals_rings : (t.setLocals f).rings = t.rings :=
  t.setFirst_keeps f (g := Thread.rings) (fun _ _ _ => rfl) 16

/-- A register that the write passes over is as before. -/
theorem Thread.reg_setFirst_of_outside (n : Nat) {j : Nat} (h : j < 16 ∨ 16 + n ≤ j) : (t.setFirst f n).reg j = t.reg j := by
  induction n with
  | zero => rfl
  | succ n ih => rw [Thread.setFirst_succ, Thread.reg_setReg_of_ne _ _ _ _ (by omega), ih (by omega)]

theorem Thread.reg_setFirst {n i : Nat} (hn : n ≤ 16) (hi : i < n) : (t.setFirst f n).reg (16 + i) = f i := by
  induction n with
  | zero => exact absurd hi (Nat.not_lt_zero i)
  | succ n ih =>
    rw [Thread.setFirst_succ]
    rcases Nat.lt_succ_iff_lt_or_eq.1 hi with hlt | rfl
    · rw [Thread.reg_setReg_of_ne _ _ _ _ (by omega), ih (by omega) hlt]
    · exact Thread.reg_setReg _ ⟨16 + i, by omega⟩ _

theorem Thread.present_setReg {i : Nat} (hi : i < 32) (w : Word) (j : Nat) :
    (t.setReg i w).present.getLsbD j = if j = i then true else t.present.getLsbD j := getLsbD_setBitOf _ _ _ _ hi

theorem Thread.present_setFirst {n i : Nat} (hn : n ≤ 16) (hi : i < n) : (t.setFirst f n).present.getLsbD (16 + i) = true := by
  induction n with
  | zero => exact absurd hi (Nat.not_lt_zero i)
  | succ n ih =>
    rw [Thread.setFirst_succ, Thread.present_setReg _ (by omega)]
    rcases Nat.lt_succ_iff_lt_or_eq.1 hi with hlt | rfl
    · rw [if_neg (by omega), ih (by omega) hlt]
    · rw [if_pos rfl]

/-- l0 to l15 hold what was written to them, and each is present. -/
theorem Thread.local_setLocals {j : Nat} (h16 : 16 ≤ j) (h32 : j < 32) :
    (t.setLocals f).reg j = f (j - 16) ∧ (t.setLocals f).present.getLsbD j = true := by
  obtain ⟨i, rfl⟩ := Nat.exists_eq_add_of_le h16
  rw [Nat.add_sub_cancel_left, Thread.setLocals_eq]
  exact ⟨t.reg_setFirst f le_rfl (by omega), t.present_setFirst f le_rfl (by omega)⟩

theorem Thread.global_setLocals {j : Nat} (h : j < 16) : (t.setLocals f).reg j = t.reg j :=
  t.reg_setFirst_of_outside f 16 (.inl h)

end

/-! #### A frame in memory -/

/-- The bytes of blocks of one length stand block after block. -/
theorem getD_flatten_blocks {α : Type} (d : α) (f : Nat → List α) {n : Nat} (hf : ∀ i, (f i).length = n) {m i j : Nat} (hi : i < m)
    (hj : j < n) : ((List.range m).map f).flatten.getD (n * i + j) d = (f i).getD j d := by
  induction m with
  | zero => exact absurd hi (Nat.not_lt_zero i)
  | succ m ih =>
    have hlen : ((List.range m).map f).flatten.length = n * m := by
      simp [List.length_flatten, Function.comp_def, hf, Nat.mul_comm]
    rw [List.range_succ, List.map_append, List.flatten_append, List.map_singleton, List.flatten_singleton]
    rcases Nat.lt_succ_iff_lt_or_eq.1 hi with hlt | rfl
    · have hin : n * i + j < n * m := by
        calc n * i + j < n * i + n := Nat.add_lt_add_left hj _
          _ = n * (i + 1) := (Nat.mul_succ n i).symm
          _ ≤ n * m := Nat.mul_le_mul_left n hlt
      rw [List.getD_append _ _ _ _ (hlen.symm ▸ hin), ih hlt]
    · rw [List.getD_append_right _ _ _ _ (hlen.symm ▸ Nat.le_add_right _ _), hlen, Nat.add_sub_cancel_left]

theorem Thread.length_frame (t : Thread) : t.frame.length = 128 := by
  simp [Thread.frame, List.length_flatten, Function.comp_def]

/-- l<i> stands in the 8 bytes at 8 × i of its frame. -/
theorem Thread.getD_frame (t : Thread) {i j : Nat} (hi : i < 16) (hj : j < 8) :
    t.frame.getD (8 * i + j) 0 = (toBytes 8 (t.reg (16 + i)).toNat).getD j 0 :=
  getD_flatten_blocks 0 (fun i => toBytes 8 (t.reg (16 + i)).toNat) (fun _ => length_toBytes 8 _) hi hj

/-- A frame that is stored reads back register by register, where no descriptor covers it and it writes no poisoned word in part. -/
theorem State.load_storeAt_frame (s : State) (x : Thread) (k : Nat) (hshown : ∀ i, i < 128 → s.hidden (k + i) = false)
    (hwhole : ∀ i, i < 128 → (s.poison.contains ((k + i) / 8) && !coversWord k 128 ((k + i) / 8)) = false) {i : Nat} (hi : i < 16) :
    (s.storeAt k x.frame).load (k + 8 * i) 8 = (x.reg (16 + i)).toNat := by
  rw [← Nat.mod_eq_of_lt (x.reg (16 + i)).isLt, ← ofBytes_toBytes 8, State.load, State.loadFrom]
  congr 1
  refine List.ext_getElem (by simp) fun j hj hj' => ?_
  have h8 : j < 8 := by simpa using hj
  have hin : 8 * i + j < 128 := by omega
  have hstored : readByte (s.storeAt k x.frame).mem (k + (8 * i + j)) = x.frame.getD (8 * i + j) 0 := by
    refine readByte_writeBytes_inside _ _ _ _ _ (by rw [x.length_frame]; exact hin) ?_
    rw [x.length_frame, hshown _ hin, hwhole _ hin, Bool.or_false]
  have hhid : (s.storeAt k x.frame).hidden (k + (8 * i + j)) = false := hshown _ hin
  rw [List.getElem_map, List.getElem_range, Nat.add_assoc, hhid, hstored, x.getD_frame hi h8, List.getD_eq_getElem _ _ hj']
  rfl

/-! #### The two rotations -/

/-- A thread that a rotation leaves at its target with other window registers. -/
def Thread.rotated (t : Thread) (y : SysRegs) (target : Word) : Thread :=
  { t with sys := y, pc := target, rotate := none, wait := none, windowFault := none }

section
variable (t : Thread) (y : SysRegs) (target : Word)

@[simp] theorem Thread.rotated_sys : (t.rotated y target).sys = y := rfl
@[simp] theorem Thread.rotated_pc : (t.rotated y target).pc = target := rfl
@[simp] theorem Thread.rotated_reg (i : Nat) : (t.rotated y target).reg i = t.reg i := rfl
@[simp] theorem Thread.rotated_present : (t.rotated y target).present = t.present := rfl
@[simp] theorem Thread.rotated_rings : (t.rotated y target).rings = t.rings := rfl

end

/-- The address of the next pair in g15. -/
def Thread.linked (t : Thread) : Thread := t.setReg 15 (t.pc + 8)

theorem Thread.linked_link (t : Thread) : t.linked.reg 15 = t.pc + 8 := Thread.reg_setReg _ (15 : Fin 32) _

theorem Thread.linked_reg (t : Thread) {i : Nat} (h : i ≠ 15) : t.linked.reg i = t.reg i := Thread.reg_setReg_of_ne _ 15 i _ h.symm

theorem Thread.linked_present (t : Thread) {i : Nat} (h : i ≠ 15) : t.linked.present.getLsbD i = t.present.getLsbD i :=
  (t.present_setReg (by decide) _ i).trans (if_neg h)

theorem Thread.linked_rings (t : Thread) : t.linked.rings = t.rings := rfl

/-- A thread as the rotation of a call to the target leaves it. -/
def Thread.called (t : Thread) (target : Word) : Thread :=
  (t.setLocals fun _ => 0).linked.rotated (t.sys.setWsp (t.sys.res + 1) (t.sys.depth + 1)) target

section
variable (x : Thread) (w : Word)

theorem Thread.called_sys : (x.called w).sys = x.sys.setWsp (x.sys.res + 1) (x.sys.depth + 1) := Thread.rotated_sys _ _ _

theorem Thread.called_pc : (x.called w).pc = w := Thread.rotated_pc _ _ _

theorem Thread.called_reg (i : Nat) : (x.called w).reg i = (x.setLocals fun _ => 0).linked.reg i := Thread.rotated_reg _ _ _ i

theorem Thread.called_present : (x.called w).present = (x.setLocals fun _ => 0).linked.present := Thread.rotated_present _ _ _

theorem Thread.called_rings : (x.called w).rings = x.rings := by
  rw [Thread.called, Thread.rotated_rings, Thread.linked_rings, Thread.setLocals_rings]

theorem Thread.called_link : (x.called w).reg 15 = x.pc + 8 := by
  rw [Thread.called_reg, Thread.linked_link, Thread.setLocals_pc]

theorem Thread.called_global {i : Nat} (h : i < 15) : (x.called w).reg i = x.reg i := by
  rw [Thread.called_reg, Thread.linked_reg _ (by omega), x.global_setLocals _ (by omega)]

theorem Thread.called_local {i : Nat} (h16 : 16 ≤ i) (h32 : i < 32) :
    (x.called w).reg i = 0 ∧ (x.called w).present.getLsbD i = true := by
  rw [Thread.called_reg, Thread.called_present, Thread.linked_reg _ (by omega), Thread.linked_present _ (by omega)]
  exact x.local_setLocals _ h16 h32

end

section
variable (s : State) (t : Nat) (w : Word)

theorem State.rotateCall_eq : s.rotateCall t w =
    (s.storeAt (frameKey (cidOf t) (s.th t).sys (s.th t).sys.depth) (s.th t).frame).updTh t fun x =>
      (x.setLocals fun _ => 0).linked.rotated ((s.th t).sys.setWsp ((s.th t).sys.res + 1) ((s.th t).sys.depth + 1)) w := by
  unfold State.rotateCall
  rfl

theorem State.rotateRet_eq : s.rotateRet t w = s.updTh t fun x =>
    (x.setLocals fun i => BitVec.ofNat 64 (s.load (frameKey (cidOf t) (s.th t).sys ((s.th t).sys.depth - 1) + 8 * i) 8)).rotated
      ((s.th t).sys.setWsp ((s.th t).sys.res - 1) ((s.th t).sys.depth - 1)) w := by
  unfold State.rotateRet
  rfl

theorem State.th_rotateCall : (s.rotateCall t w).th t = (s.th t).called w := by
  rw [State.rotateCall_eq, State.th_updTh, State.th_storeAt, Thread.called]

theorem State.mem_rotateCall :
    (s.rotateCall t w).mem = (s.storeAt (frameKey (cidOf t) (s.th t).sys (s.th t).sys.depth) (s.th t).frame).mem := by
  rw [State.rotateCall_eq, State.updTh_mem]

theorem State.rings_rotateCall (u : Nat) : ((s.rotateCall t w).th u).rings = (s.th u).rings := by
  rcases eq_or_ne u t with rfl | hne
  · rw [State.th_rotateCall, Thread.called_rings]
  · rw [State.rotateCall_eq, State.th_updTh_of_ne _ _ _ _ hne, State.th_storeAt]

/-- The frame slot holds l0 to l15 after the rotation of a call. -/
theorem State.load_rotateCall {k i : Nat} (hk : frameKey (cidOf t) (s.th t).sys (s.th t).sys.depth = k)
    (hshown : ∀ i, i < 128 → s.hidden (k + i) = false)
    (hwhole : ∀ i, i < 128 → (s.poison.contains ((k + i) / 8) && !coversWord k 128 ((k + i) / 8)) = false) (hi : i < 16) :
    (s.rotateCall t w).load (k + 8 * i) 8 = ((s.th t).reg (16 + i)).toNat := by
  rw [← s.load_storeAt_frame (s.th t) k hshown hwhole hi]
  refine State.load_congr (fun j _ => ?_) fun j _ => ?_
  · exact (State.hidden_congr (s.rings_rotateCall t w) _).trans (State.hidden_of_threads (s.storeAt_threads _ _) _).symm
  · rw [State.mem_rotateCall, hk]

end

theorem coversWord_of_aligned {k n a : Nat} (hk : k % 8 = 0) (hn : n % 8 = 0) (h : k ≤ a) (h' : a < k + n) :
    coversWord k n (a / 8) = true := by
  simp only [coversWord, Bool.and_eq_true, decide_eq_true_eq]
  omega

/-! #### The checks of a transfer -/

section
variable {s : State}

theorem State.callReady_of_free (hok : s.src.sys.windowOk = true) (hres : s.src.sys.res ≠ s.src.sys.frames) :
    s.callReady = .ok () := by
  simp only [State.callReady, hok, Bool.not_true, raiseIf_false, except_ok_bind, if_neg hres, except_pure]

theorem State.callReady_of_illegal (hbad : s.src.sys.windowOk = false) : s.callReady = .error (.trap 0x03 s.src.sys.wbase) := by
  simp only [State.callReady, hbad, Bool.not_false, raiseIf_true, except_error_bind]

theorem State.retReady_of_resident (hok : s.src.sys.windowOk = true) (hdepth : s.src.sys.depth ≠ 0) (hres : s.src.sys.res ≠ 0) :
    s.retReady = .ok () := by
  simp only [State.retReady, hok, Bool.not_true, raiseIf_false, except_ok_bind, decide_eq_false hdepth, if_neg hres, except_pure]

theorem State.retReady_of_illegal (hbad : s.src.sys.windowOk = false ∨ s.src.sys.depth = 0) :
    s.retReady = .error (.trap 0x03 s.src.sys.wbase) := by
  cases hok : s.src.sys.windowOk with
  | false => simp only [State.retReady, hok, Bool.not_false, raiseIf_true, except_error_bind]
  | true =>
    have hdepth := hbad.resolve_left (by simp [hok])
    simp only [State.retReady, hok, Bool.not_true, raiseIf_false, except_ok_bind, decide_eq_true hdepth, raiseIf_true, except_error_bind]

theorem aligned_of_mod {target : Word} (h : target.toNat % 8 = 0) : aligned target = .ok () := by
  rw [aligned, decide_eq_false (not_not_intro h), raiseIf_false]

theorem State.rotateOr_of_quiet (hme : s.me.busy.toNat / 2 ^ 16 = 0) (r : Rotation) :
    s.rotateOr r = match r with
      | .call target => s.rotateCall s.cur target
      | .ret target => s.rotateRet s.cur target :=
  if_neg (not_not_intro hme)

end

/-! #### The statement -/

section
variable {s : State} {x : XReg} {g : Fin 8} (hpend : s.src.pend.toNat / 2 ^ 16 = 0) (hbusy : s.src.busy.toNat / 2 ^ 16 = 0)
include hpend hbusy

theorem execCall_of_free (off : BitVec 19) (hr : s.Ready [] [.reg 15]) (hme : s.me.busy.toNat / 2 ^ 16 = 0)
    (hok : s.src.sys.windowOk = true) (hres : s.src.sys.res ≠ s.src.sys.frames) :
    execCall off s = .next (s.rotateCall s.cur (s.target off)) := by
  refine s.issueJ_ok _ 0 _ rfl ?_
  simp only [s.transferReady hr hpend hbusy, State.callReady_of_free hok hres, State.rotateOr_of_quiet hme, except_ok_bind, except_pure]

theorem execCall_of_illegal (off : BitVec 19) (hr : s.Ready [] [.reg 15]) (hbad : s.src.sys.windowOk = false) :
    execCall off s = .next (s.halted (.trap 0x03 s.src.sys.wbase)) := by
  refine s.issueJ_error _ 0 _ rfl ?_
  simp only [s.transferReady hr hpend hbusy, State.callReady_of_illegal hbad, except_ok_bind, except_error_bind]

variable (hg : s.guarded g = true)
include hg

theorem execCalli_of_free (hr : s.Ready [xplace x] [.reg 15]) (hme : s.me.busy.toNat / 2 ^ 16 = 0)
    (hok : s.src.sys.windowOk = true) (hres : s.src.sys.res ≠ s.src.sys.frames) (hal : (s.readX x).toNat % 8 = 0) :
    execCalli x g s = .next (s.rotateCall s.cur (s.readX x)) := by
  refine s.issueJ_ok _ g _ hg ?_
  simp only [s.transferReady hr hpend hbusy, State.callReady_of_free hok hres, aligned_of_mod hal, State.rotateOr_of_quiet hme,
    except_ok_bind, except_pure]

theorem execCalli_of_illegal (hr : s.Ready [xplace x] [.reg 15]) (hbad : s.src.sys.windowOk = false) :
    execCalli x g s = .next (s.halted (.trap 0x03 s.src.sys.wbase)) := by
  refine s.issueJ_error _ g _ hg ?_
  simp only [s.transferReady hr hpend hbusy, State.callReady_of_illegal hbad, except_ok_bind, except_error_bind]

theorem execRet_of_resident (hr : s.Ready [xplace x] []) (hme : s.me.busy.toNat / 2 ^ 16 = 0) (hok : s.src.sys.windowOk = true)
    (hdepth : s.src.sys.depth ≠ 0) (hres : s.src.sys.res ≠ 0) (hal : (s.readX x).toNat % 8 = 0) :
    execRet x g s = .next (s.rotateRet s.cur (s.readX x)) := by
  refine s.issueJ_ok _ g _ hg ?_
  simp only [s.transferReady hr hpend hbusy, State.retReady_of_resident hok hdepth hres, aligned_of_mod hal,
    State.rotateOr_of_quiet hme, except_ok_bind, except_pure]

theorem execRet_of_illegal (hr : s.Ready [xplace x] []) (hbad : s.src.sys.windowOk = false ∨ s.src.sys.depth = 0) :
    execRet x g s = .next (s.halted (.trap 0x03 s.src.sys.wbase)) := by
  refine s.issueJ_error _ g _ hg ?_
  simp only [s.transferReady hr hpend hbusy, State.retReady_of_illegal hbad, except_ok_bind, except_error_bind]

end

/-- A return that follows a call finds the window registers and the frame slot of the call. -/
theorem Thread.called_returns (x : Thread) (w : Word) (hdepth : x.sys.depth + 1 < 2 ^ 32) (hres : x.sys.res < 8) :
    (x.called w).sys.depth - 1 = x.sys.depth ∧ (x.called w).sys.res - 1 = x.sys.res := by
  rw [Thread.called_sys, SysRegs.depth_setWsp, SysRegs.res_setWsp, Nat.mod_eq_of_lt hdepth, Nat.mod_eq_of_lt (by omega)]
  exact ⟨Nat.add_sub_cancel .., Nat.add_sub_cancel ..⟩

/-- The frame slots lie where WBASE and WLIM put them, whatever WSP is. -/
theorem frameKey_wsp (cid : Nat) (y : SysRegs) (z : Word) (f : Nat) : frameKey cid { y with wsp := z } f = frameKey cid y f := rfl

theorem frameKey_setWsp (cid : Nat) (y : SysRegs) (res depth f : Nat) : frameKey cid (y.setWsp res depth) f = frameKey cid y f :=
  frameKey_wsp cid y _ f

theorem frameKey_eq (cid : Nat) (y : SysRegs) (f : Nat) :
    frameKey cid y f = keyLocal cid (Fld y.wbase 31 0 + 128 * (f % ((Fld y.wlim 31 0 - Fld y.wbase 31 0) / 128))) := by
  rw [Nat.mul_comm 128 (f % _)]
  rfl

/-- A call's rotation followed by a return's gives every local register its value again. -/
theorem State.rotateRet_rotateCall (s : State) (t : Nat) (w back : Word) {k : Nat}
    (hk : frameKey (cidOf t) (s.th t).sys (s.th t).sys.depth = k) (hdepth : (s.th t).sys.depth + 1 < 2 ^ 32) (hres : (s.th t).sys.res < 8)
    (hshown : ∀ i, i < 128 → s.hidden (k + i) = false) (hpoison : ∀ w ∈ s.poison, w * 8 + 8 ≤ k ∨ k + 128 ≤ w * 8) :
    let x := s.th t
    let y := ((s.rotateCall t w).rotateRet t back).th t
    (∀ i, 16 ≤ i → i < 32 → y.reg i = x.reg i ∧ y.present.getLsbD i = true) ∧ y.sys.depth = x.sys.depth ∧
      y.sys.res = x.sys.res ∧ y.pc = back ∧ y.reg 15 = x.pc + 8 := by
  obtain ⟨hd, hr⟩ := (s.th t).called_returns w hdepth hres
  have hwhole : ∀ i, i < 128 → (s.poison.contains ((k + i) / 8) && !coversWord k 128 ((k + i) / 8)) = false := fun i hi => by
    rw [Bool.and_eq_false_imp]
    intro hmem
    have := hpoison _ (List.contains_iff_mem.1 hmem)
    omega
  have hkey : frameKey (cidOf t) ((s.th t).called w).sys (s.th t).sys.depth = k := by rw [Thread.called_sys, frameKey_setWsp, hk]
  dsimp only
  rw [State.rotateRet_eq, State.th_updTh, State.th_rotateCall, hd, hr, hkey]
  refine ⟨fun i h16 h32 => ?_, ?_, ?_, Thread.rotated_pc _ _ _, ?_⟩
  · obtain ⟨hreg, hpresent⟩ := ((s.th t).called w).local_setLocals
      (fun i => BitVec.ofNat 64 ((s.rotateCall t w).load (k + 8 * i) 8)) h16 h32
    rw [Thread.rotated_reg, Thread.rotated_present, hreg, s.load_rotateCall t w hk hshown hwhole (by omega), BitVec.ofNat_toNat,
      BitVec.setWidth_eq, Nat.add_sub_cancel' h16]
    exact ⟨rfl, hpresent⟩
  · rw [Thread.rotated_sys, SysRegs.depth_setWsp, Nat.mod_eq_of_lt (SysRegs.depth_lt _)]
  · rw [Thread.rotated_sys, SysRegs.res_setWsp, Nat.mod_eq_of_lt (SysRegs.res_lt _)]
  · rw [Thread.rotated_reg, Thread.global_setLocals _ _ (by decide), Thread.called_link]

/-- Settles O6: the checks of the three transfers one by one, what the rotation of a call leaves in the thread and in its frame slot,
and the return's rotation, which reads the slot back. -/
theorem callsAndReturns : Obligations.CallsAndReturns := by
  refine ⟨⟨fun s off hr ⟨hpend, hbusy, hme⟩ => execCall_of_free hpend hbusy off hr hme,
    fun s x g hg hr ⟨hpend, hbusy, hme⟩ => execCalli_of_free hpend hbusy hg hr hme,
    fun s x g hg hr ⟨hpend, hbusy, hme⟩ => execRet_of_resident hpend hbusy hg hr hme,
    fun s x g hg hr ⟨hpend, hbusy, _⟩ => execRet_of_illegal hpend hbusy hg hr,
    fun s off hr ⟨hpend, hbusy, _⟩ => execCall_of_illegal hpend hbusy off hr,
    fun s x g hg hr ⟨hpend, hbusy, _⟩ => execCalli_of_illegal hpend hbusy hg hr, fun s t w => ⟨?slot, fun hok hshown i hi => ?frame⟩,
    fun s t w => ?call⟩, fun s t w back hdepth hres hshown hpoison => s.rotateRet_rotateCall t w back rfl hdepth hres hshown hpoison⟩
  case slot => exact frameKey_eq _ _ _
  case frame =>
    refine s.load_rotateCall t w rfl hshown (fun j hj => ?_) hi
    rw [coversWord_of_aligned (frameKey_aligned _ _ _ hok) (by decide) (Nat.le_add_right _ _) (Nat.add_lt_add_left hj _), Bool.not_true,
      Bool.and_false]
  case call =>
    dsimp only
    rw [State.th_rotateCall]
    refine ⟨Thread.called_pc _ _, Thread.called_link _ _, fun i => Thread.called_global _ _, fun i => Thread.called_local _ _,
      fun hdepth => ?_, ?_, fun a ha => ?_⟩
    · rw [Thread.called_sys, SysRegs.depth_setWsp, Nat.mod_eq_of_lt hdepth]
    · rw [Thread.called_sys, SysRegs.res_setWsp]
    · rw [State.mem_rotateCall]
      exact readByte_storeAt_outside s _ _ a (by rwa [Thread.length_frame])

end Sys2Proof.Machine

/-! ### The dispatcher's ranking (11 R191, R192) -/

namespace Sys2Proof.Machine

theorem Ranked.before_iff (a b : Ranked) : a.before b = true ↔ b.cls < a.cls ∨ (a.cls = b.cls ∧ (
    (a.deadline ≠ b.deadline ∧ 2 ^ 47 ≤ (a.deadline + 2 ^ 48 - b.deadline % 2 ^ 48) % 2 ^ 48) ∨
    (a.deadline = b.deadline ∧ ((a.head = false ∧ b.head = true) ∨ (a.head = b.head ∧ a.num < b.num))))) := by
  unfold Ranked.before
  split
  next hcls => simp [hcls]
  next hcls =>
    have hcls := not_not.1 hcls
    split
    next hd => simp [hcls, hd, earlier]
    next hd =>
      have hd := not_not.1 hd
      split
      next hh => cases ha : a.head <;> simp_all
      next hh => simp [hcls, hd, not_not.1 hh]

/-- How far a deadline lies after d0, on the circle of the clock. -/
def Ranked.after (d0 : Nat) (a : Ranked) : Nat := (a.deadline + 2 ^ 48 - d0 % 2 ^ 48) % 2 ^ 48

/-- A deadline of 48 bits that lies within half the clock's range after d0. -/
def Ranked.Within (d0 : Nat) (a : Ranked) : Prop := a.deadline < 2 ^ 48 ∧ a.after d0 < 2 ^ 47

/-- Within half the range the ranking is the order of four numbers: class, deadline after d0, resumes before heads, number. -/
theorem Ranked.before_iff_lex {d0 : Nat} {a b : Ranked} (ha : a.Within d0) (hb : b.Within d0) :
    a.before b = true ↔ b.cls < a.cls ∨ (a.cls = b.cls ∧ (a.after d0 < b.after d0 ∨ (a.after d0 = b.after d0 ∧
      (a.head.toNat < b.head.toNat ∨ (a.head.toNat = b.head.toNat ∧ a.num < b.num))))) := by
  obtain ⟨ha, ha'⟩ := ha
  obtain ⟨hb, hb'⟩ := hb
  have hearlier : (a.deadline ≠ b.deadline ∧ 2 ^ 47 ≤ (a.deadline + 2 ^ 48 - b.deadline % 2 ^ 48) % 2 ^ 48) ↔
      a.after d0 < b.after d0 := by
    unfold Ranked.after at *
    omega
  have hsame : a.deadline = b.deadline ↔ a.after d0 = b.after d0 := by
    unfold Ranked.after at *
    omega
  have hhead : (a.head = false ∧ b.head = true) ↔ a.head.toNat < b.head.toNat := by cases a.head <;> cases b.head <;> simp
  have hheads : a.head = b.head ↔ a.head.toNat = b.head.toNat := by cases a.head <;> cases b.head <;> simp
  rw [Ranked.before_iff, hearlier, hsame, hhead, hheads]

theorem Ranked.not_before_of_before {d0 : Nat} {a b : Ranked} (ha : a.Within d0) (hb : b.Within d0) (h : a.before b = true) :
    b.before a = false := by
  rw [Ranked.before_iff_lex ha hb] at h
  rw [← Bool.not_eq_true, Ranked.before_iff_lex hb ha]
  omega

theorem Ranked.not_before_trans {d0 : Nat} {a b c : Ranked} (ha : a.Within d0) (hb : b.Within d0) (hc : c.Within d0)
    (hab : b.before a = false) (hbc : c.before b = false) : c.before a = false := by
  rw [← Bool.not_eq_true, Ranked.before_iff_lex hb ha] at hab
  rw [← Bool.not_eq_true, Ranked.before_iff_lex hc hb] at hbc
  rw [← Bool.not_eq_true, Ranked.before_iff_lex hc ha]
  omega

theorem rankIn_eq_orderedInsert (x : Ranked) (l : List Ranked) :
    rankIn x l = l.orderedInsert (fun a b => a.before b = true) x := by
  induction l with
  | nil => rfl
  | cons y rest ih => rw [rankIn, List.orderedInsert, ih]

theorem rankIn_perm (x : Ranked) (l : List Ranked) : (rankIn x l).Perm (x :: l) := by
  rw [rankIn_eq_orderedInsert]
  exact List.perm_orderedInsert _ x l

/-- The list is in rank order: none comes before one that ranks higher. -/
abbrev InRankOrder (l : List Ranked) : Prop := l.Pairwise fun a b => b.before a = false

theorem inRankOrder_rankIn {d0 : Nat} {x : Ranked} {l : List Ranked} (hx : x.Within d0) (hl : ∀ y ∈ l, y.Within d0)
    (h : InRankOrder l) : InRankOrder (rankIn x l) := by
  induction l with
  | nil => exact List.pairwise_singleton _ x
  | cons y rest ih =>
    obtain ⟨hfirst, hrest⟩ := List.pairwise_cons.1 h
    have hy := hl y List.mem_cons_self
    have hin : ∀ z ∈ rest, z.Within d0 := fun z hz => hl z (List.mem_cons_of_mem _ hz)
    unfold rankIn
    split
    next hxy =>
      have hyx := Ranked.not_before_of_before hx hy hxy
      refine List.pairwise_cons.2 ⟨fun z hz => ?_, h⟩
      rcases List.mem_cons.1 hz with rfl | hz
      · exact hyx
      · exact Ranked.not_before_trans hx hy (hin z hz) hyx (hfirst z hz)
    next hxy =>
      refine List.pairwise_cons.2 ⟨fun z hz => ?_, ih hin hrest⟩
      rcases List.mem_cons.1 ((rankIn_perm x rest).mem_iff.1 hz) with rfl | hz
      · exact Bool.eq_false_iff.2 hxy
      · exact hfirst z hz

/-- What the insertions of a ranking have done after the contenders l, from a list of earlier ones. -/
theorem foldl_rankIn_perm (l acc : List Ranked) : (l.foldl (fun acc x => rankIn x acc) acc).Perm (l ++ acc) := by
  induction l generalizing acc with
  | nil => exact .refl _
  | cons x l ih => exact (ih _).trans (((rankIn_perm x acc).append_left l).trans List.perm_middle)

theorem ranked_perm (l : List Ranked) : (ranked l).Perm l :=
  (foldl_rankIn_perm l []).trans (.of_eq (List.append_nil l))

theorem inRankOrder_foldl_rankIn {d0 : Nat} (l : List Ranked) {acc : List Ranked} (hl : ∀ y ∈ l, y.Within d0)
    (hacc : ∀ y ∈ acc, y.Within d0) (h : InRankOrder acc) : InRankOrder (l.foldl (fun acc x => rankIn x acc) acc) := by
  induction l generalizing acc with
  | nil => exact h
  | cons x l ih =>
    have hx := hl x List.mem_cons_self
    refine ih (fun y hy => hl y (List.mem_cons_of_mem _ hy)) (fun y hy => ?_) (inRankOrder_rankIn hx hacc h)
    rcases List.mem_cons.1 ((rankIn_perm x acc).mem_iff.1 hy) with rfl | hy
    · exact hx
    · exact hacc y hy

theorem inRankOrder_ranked {d0 : Nat} {l : List Ranked} (hl : ∀ y ∈ l, y.Within d0) : InRankOrder (ranked l) :=
  inRankOrder_foldl_rankIn l hl (fun _ hy => absurd hy List.not_mem_nil) .nil

end Sys2Proof.Machine

/-! ### What the dispatcher's writes leave alone (11 R190, R191, R198) -/

namespace Sys2Proof.Machine

/-! #### Packages -/

theorem State.pkg_updPkg_of_ne (s : State) {p q : Nat} (f : Pkg → Pkg) (h : q ≠ p) : (s.updPkg p f).pkg q = s.pkg q :=
  lookup_insert_of_ne _ _ _ _ _ h.symm

@[simp] theorem Pkg.queue_setQueue (p : Pkg) (q : Nat) (x : Queue) : (p.setQueue q x).queue q = x := lookup_insert_self _ _ _ _

theorem Pkg.queue_setQueue_of_ne (p : Pkg) {q r : Nat} (x : Queue) (h : r ≠ q) : (p.setQueue q x).queue r = p.queue r :=
  lookup_insert_of_ne _ _ _ _ _ h.symm

/-- A package's ember units, groups and the records of its queues, and every thread, are as before. -/
structure State.DispatchKept (s t : State) (pkg : Nat) : Prop where
  threads : t.threads = s.threads
  bellows : (t.pkg pkg).bellows = (s.pkg pkg).bellows
  groups : (t.pkg pkg).groups = (s.pkg pkg).groups
  recs (q : Nat) : ((t.pkg pkg).queue q).recs = ((s.pkg pkg).queue q).recs

namespace State.DispatchKept

variable {s t u : State} {pkg : Nat}

theorem refl (s : State) (pkg : Nat) : s.DispatchKept s pkg := ⟨rfl, rfl, rfl, fun _ => rfl⟩

theorem trans (h : s.DispatchKept t pkg) (h' : t.DispatchKept u pkg) : s.DispatchKept u pkg :=
  ⟨h'.threads.trans h.threads, h'.bellows.trans h.bellows, h'.groups.trans h.groups, fun q => (h'.recs q).trans (h.recs q)⟩

/-- Threads and packages are all that it speaks of. -/
theorem of_pkgs (hthreads : t.threads = s.threads) (hpkgs : t.pkgs = s.pkgs) : s.DispatchKept t pkg := by
  have hpkg : t.pkg pkg = s.pkg pkg := by rw [State.pkg, State.pkg, hpkgs]
  exact ⟨hthreads, by rw [hpkg], by rw [hpkg], fun _ => by rw [hpkg]⟩

theorem th (h : s.DispatchKept t pkg) (i : Nat) : t.th i = s.th i := by rw [State.th, State.th, h.threads]

theorem group (h : s.DispatchKept t pkg) (g : Nat) : t.group pkg g = s.group pkg g := by rw [State.group, State.group, h.groups]

/-- One queue changes, but for its records. -/
theorem setQueue {q : Nat} {y : Queue} {f : Pkg → Pkg} (h : s.DispatchKept t pkg) (hrecs : y.recs = ((t.pkg pkg).queue q).recs)
    (hb : (f (t.pkg pkg)).bellows = (t.pkg pkg).bellows) (hg : (f (t.pkg pkg)).groups = (t.pkg pkg).groups)
    (hq : (f (t.pkg pkg)).queues = ((t.pkg pkg).setQueue q y).queues) : s.DispatchKept (t.updPkg pkg f) pkg := by
  refine h.trans ⟨rfl, ?_, ?_, fun r => ?_⟩
  · rw [State.pkg_updPkg, hb]
  · rw [State.pkg_updPkg, hg]
  · have hqueue : (f (t.pkg pkg)).queue r = ((t.pkg pkg).setQueue q y).queue r := by rw [Pkg.queue, hq, Pkg.queue]
    rw [State.pkg_updPkg, hqueue]
    rcases eq_or_ne r q with rfl | hne
    · rw [Pkg.queue_setQueue, hrecs]
    · rw [Pkg.queue_setQueue_of_ne _ _ hne]

end State.DispatchKept

section
variable (s : State) (pkg : Nat)

theorem State.dispatchKept_storeAt (k : Nat) (data : List Byte) : s.DispatchKept (s.storeAt k data) pkg :=
  .of_pkgs (s.storeAt_threads k data) (s.storeAt_pkgs k data)

theorem Pkg.raise_bellows (p : Pkg) (v : Nat) : (p.raise v).bellows = p.bellows := by unfold Pkg.raise; split <;> rfl
theorem Pkg.raise_groups (p : Pkg) (v : Nat) : (p.raise v).groups = p.groups := by unfold Pkg.raise; split <;> rfl
theorem Pkg.raise_queues (p : Pkg) (v : Nat) : (p.raise v).queues = p.queues := by unfold Pkg.raise; split <;> rfl

theorem State.dispatchKept_statusRecord (q event group task : Nat) : s.DispatchKept (s.statusRecord pkg q event group task) pkg := by
  unfold State.statusRecord
  dsimp only
  split
  · exact .refl s pkg
  split
  · exact .setQueue (.refl s pkg) (y := ((s.pkg pkg).queue q).lose) rfl rfl rfl rfl
  split
  · exact .setQueue (.refl s pkg) (y := ((s.pkg pkg).queue q).lose) rfl rfl rfl rfl
  · refine .setQueue (s.dispatchKept_storeAt pkg _ _)
      (y := { (s.pkg pkg).queue q with tail := (((s.pkg pkg).queue q).tail + 1) % Fld ((s.pkg pkg).queue q).qstc 15 0 }) ?_
      (Pkg.raise_bellows _ _) (Pkg.raise_groups _ _) (Pkg.raise_queues _ _)
    exact ((s.dispatchKept_storeAt pkg _ _).recs q).symm

theorem State.dispatchKept_groupRecord (g event task : Nat) : s.DispatchKept (s.groupRecord pkg g event task) pkg := by
  unfold State.groupRecord
  split
  · exact s.dispatchKept_statusRecord ..
  · exact .refl s pkg

theorem State.dispatchKept_grantLock (k : Nat) : s.DispatchKept (s.grantLock k) pkg := by
  unfold State.grantLock
  dsimp only
  split
  · exact .refl s pkg
  split
  · exact .refl s pkg
  · exact .of_pkgs rfl rfl

theorem State.dispatchKept_settleLocks : s.DispatchKept s.settleLocks pkg := by
  refine foldl_keeps (R := fun s t => s.DispatchKept t pkg) (fun s => .refl s pkg) (fun _ _ _ => State.DispatchKept.trans) _ (fun u k => ?_) _ s
  split
  · exact u.dispatchKept_grantLock pkg k
  · exact .refl u pkg

theorem State.dispatchKept_putBytes (l : List (Nat × Nat)) (data : List Byte) : s.DispatchKept (s.putBytes l data) pkg := by
  induction l generalizing s data with
  | nil => exact .refl s pkg
  | cons r rest ih => exact (s.dispatchKept_storeAt pkg _ _).trans (ih ..)

theorem State.dispatchKept_tenantWrite (p tenant va : Nat) (data : List Byte) : s.DispatchKept (s.tenantWrite p tenant va data) pkg := by
  unfold State.tenantWrite
  split
  · exact (s.dispatchKept_putBytes pkg _ data).trans (State.dispatchKept_settleLocks _ pkg)
  · exact .refl s pkg

theorem State.dispatchKept_writeManifest (p : Nat) (g : Group) : s.DispatchKept (s.writeManifest p g) pkg := by
  unfold State.writeManifest
  dsimp only
  split
  · exact .refl s pkg
  · refine .trans (.trans ?_ (State.dispatchKept_tenantWrite ..)) (State.dispatchKept_tenantWrite ..)
    split
    · exact s.dispatchKept_tenantWrite ..
    · exact .refl s pkg

theorem State.dispatchKept_countRetired (g : Group) : s.DispatchKept (s.countRetired pkg g) pkg := by
  unfold State.countRetired
  dsimp only
  split
  · refine ⟨rfl, ?_, ?_, fun q => ?_⟩ <;> rw [State.setCounter, State.pkg_updPkg]
    rfl
  · exact .refl s pkg

end

end Sys2Proof.Machine

/-! ### Records are committed, counters are written (11 R189, R190, R191; 20 R346) -/

namespace Sys2Proof.Machine

/-! #### TENANT of a record -/

theorem getD_withTenant_three (r : List Word) (tenant : Nat) (hr : r.length = 16) :
    (withTenant r tenant).getD 3 0 = BitVec.ofNat 64 (setBits (recWord r 3).toNat 63 56 tenant) := by
  rw [withTenant, List.getD_eq_getElem _ _ (by rw [List.length_set]; omega), List.getElem_set_self]

theorem getD_withTenant_of_ne (r : List Word) (tenant : Nat) {i : Nat} (h : i ≠ 3) : (withTenant r tenant).getD i 0 = r.getD i 0 := by
  rw [withTenant, List.getD_eq_getElem?_getD, List.getElem?_set_ne h.symm, List.getD_eq_getElem?_getD]

theorem withTenant_spec (r : List Word) (tenant : Nat) (hr : r.length = 16) (ht : tenant < 256) :
    (withTenant r tenant).length = 16 ∧ recTenant (withTenant r tenant) = tenant ∧
      Fld ((withTenant r tenant).getD 3 0) 55 0 = Fld (r.getD 3 0) 55 0 ∧
      ∀ i, i ≠ 3 → (withTenant r tenant).getD i 0 = r.getD i 0 := by
  have hlt := (r.getD 3 0).isLt
  refine ⟨(List.length_set ..).trans hr, ?_, ?_, fun i => getD_withTenant_of_ne r tenant⟩
  · rw [recTenant, recWord, getD_withTenant_three r tenant hr]
    simp only [Fld, bits, BitVec.toNat_ofNat, setBits, recWord]
    omega
  · rw [getD_withTenant_three r tenant hr]
    simp only [Fld, bits, BitVec.toNat_ofNat, setBits, recWord]
    omega

/-! #### LAUNCH -/

theorem Thread.busy_setBusy (t : Thread) {i : Nat} (hi : i < 32) (b : Bool) : (t.setBusy i b).busy.getLsbD i = b :=
  (getLsbD_setBitOf _ _ _ _ hi).trans (if_pos rfl)

/-- An answer under way: its register is busy, and it stands among the items in flight. -/
theorem State.answer_spec (s : State) (d : XReg) (v : Word) :
    (s.answer d v).mem = s.mem ∧ (s.answer d v).pkgs = s.pkgs ∧ (s.answer d v).me.busy.getLsbD d.val = true ∧
      (s.answer d v).item s.serial = some (.status s.cur d.val v) := by
  refine ⟨rfl, rfl, ?_, State.item_post_self (s.updMe _) _⟩
  have hme : (s.answer d v).me = s.me.setBusy d.val true := s.me_updMe fun t => t.setBusy d.val true
  rw [hme]
  exact Thread.busy_setBusy _ d.isLt true

/-- The machine with LAUNCH's record committed where its status is 0. -/
def State.committed (s : State) (pkg n st : Nat) (r : List Word × Nat) : State :=
  if st = 0 then s.updPkg pkg fun p => p.setQueue n { (s.pkg pkg).queue n with recs := ((s.pkg pkg).queue n).recs ++ [r] } else s

theorem State.committed_spec (s : State) (pkg n st : Nat) (r : List Word × Nat) :
    (s.committed pkg n st r).mem = s.mem ∧ (s.committed pkg n st r).cur = s.cur ∧ (st ≠ 0 → (s.committed pkg n st r).pkgs = s.pkgs) ∧
      (st = 0 → (((s.committed pkg n st r).pkg pkg).queue n).recs = ((s.pkg pkg).queue n).recs ++ [r]) := by
  unfold State.committed
  split
  next h => exact ⟨rfl, rfl, fun hn => absurd h hn, fun _ => by rw [State.pkg_updPkg, Pkg.queue_setQueue]⟩
  next h => exact ⟨rfl, rfl, fun _ => rfl, fun h0 => absurd h0 h⟩

theorem launchStatus_eq (x : Queue) (tenant : Nat) : launchStatus x tenant =
    if Fld x.qcfg 7 0 ≠ tenant then 3 else if x.qcfg.getLsbD 8 = false then 2 else if 64 ≤ x.recs.length then 1 else 0 := by
  unfold launchStatus
  cases x.qcfg.getLsbD 8 <;> rfl

section
variable {s : State} {d a q : XReg}

theorem launchChecks_ok (hr : s.Ready [xplace a, xplace q] [xplace d]) (ho : s.Open) :
    allOf [s.need [xplace a, xplace q] [xplace d], s.accessGate] = .ok () :=
  allOf_ok _ (by simp [s.need_of_ready _ _ hr, s.accessGate_of_open ho])

theorem execLaunch_of_reserved (hr : s.Ready [xplace a, xplace q] [xplace d]) (ho : s.Open) (h : Fld (s.readX q) 63 14 ≠ 0) :
    execLaunch d a q s = .next (s.halted (.trap 0x01 s.iss.word)) := by
  refine s.issue_error _ _ ?_
  simp only [launchChecks_ok hr ho, except_ok_bind, decide_eq_true h, raiseIf_true, except_error_bind]

variable (hr : s.Ready [xplace a, xplace q] [xplace d]) (ho : s.Open) (hq : Fld (s.readX q) 63 14 = 0)
variable (hin : (s.readX a).toNat + 128 ≤ 0x30000) (hal : (s.readX a).toNat % 8 = 0)
include hr ho hq hin hal

theorem execLaunch_of_unreadable {st : Stop} (hws : s.plainWords (s.readX a).toNat (keyLocal s.cid (s.readX a).toNat) 16 = .error st) :
    execLaunch d a q s = .next (s.halted st) := by
  refine s.issue_error _ _ ?_
  simp only [launchChecks_ok hr ho, except_ok_bind, hq, ne_eq, not_true_eq_false, decide_false, raiseIf_false,
    State.ownStore_of_inside hin hal, hws, except_error_bind]

theorem execLaunch_of_block {ws : List Word} (hws : s.plainWords (s.readX a).toNat (keyLocal s.cid (s.readX a).toNat) 16 = .ok ws) :
    let n := Fld (s.readX q) 13 0
    let st := launchStatus ((s.pkg (pkgOf s.cid)).queue n) s.src.tenant
    execLaunch d a q s =
      past ((s.committed (pkgOf s.cid) n st (withTenant ws s.src.tenant, s.time.toNat)).answer d (BitVec.ofNat 64 st)) := by
  refine s.issue_ok _ _ ?_
  simp only [launchChecks_ok hr ho, except_ok_bind, hq, ne_eq, not_true_eq_false, decide_false, raiseIf_false,
    State.ownStore_of_inside hin hal, hws]
  rfl

end

/-- What LAUNCH of a record that it can read leaves. -/
theorem State.launch_spec (s : State) (d : XReg) (pkg n st : Nat) (r : List Word × Nat) :
    let t := (s.committed pkg n st r).answer d (BitVec.ofNat 64 st)
    t.mem = s.mem ∧ t.me.busy.getLsbD d.val = true ∧ (∃ k, t.item k = some (.status s.cur d.val (BitVec.ofNat 64 st))) ∧
      (st ≠ 0 → t.pkgs = s.pkgs) ∧ (st = 0 → ((t.pkg pkg).queue n).recs = ((s.pkg pkg).queue n).recs ++ [r]) := by
  obtain ⟨hmem, hcur, hkept, hrec⟩ := s.committed_spec pkg n st r
  obtain ⟨hmem', hpkgs', hbusy, hitem⟩ := (s.committed pkg n st r).answer_spec d (BitVec.ofNat 64 st)
  refine ⟨hmem'.trans hmem, hbusy, ⟨_, hcur ▸ hitem⟩, fun h => hpkgs'.trans (hkept h), fun h => ?_⟩
  rw [State.pkg, hpkgs', ← State.pkg]
  exact hrec h

/-! #### Registers of a package -/

theorem State.recovery_wakePkg (s : State) (pkg p : Nat) : (s.wakePkg pkg).recovery p = s.recovery p := by
  unfold State.wakePkg
  split
  · rfl
  rcases eq_or_ne p pkg with rfl | hne
  · rw [State.recovery, State.updAround, State.pkg_updPkg, State.recovery]
  · rw [State.recovery, State.updAround, State.pkg_updPkg_of_ne _ _ hne, State.recovery]

/-- A package that an access wakes is in PS0, and as before in all else. -/
theorem State.pkg_wakePkg (s : State) (pkg : Nat) :
    ∃ a : Surround, a.pscur = 0 ∧ (s.wakePkg pkg).pkg pkg = { s.pkg pkg with around := a } := by
  unfold State.wakePkg
  split
  next h => exact ⟨(s.pkg pkg).around, h, rfl⟩
  · exact ⟨{ (s.pkg pkg).around with pscur := 0 }, rfl, s.pkg_updPkg pkg _⟩

/-- Outside RECOVERY an access to a register wakes the package and has its effect. -/
theorem State.register_of_open (s : State) (pkg : Nat) (f : State → State) (h : (s.pkg pkg).service.secmode ≠ 3) :
    s.register pkg f = .next (f (s.wakePkg pkg)) := by
  have hr : (s.wakePkg pkg).recovery pkg = false := by rw [State.recovery_wakePkg, State.recovery, decide_eq_false h]
  rw [State.register, hr]
  rfl

section
variable (s : State) (pkg : Nat)

theorem State.onlyPkgs_commitRecord (q : Nat) (v : Word) : s.OnlyPkgs (s.commitRecord pkg q v) := rfl

theorem State.around_commitRecord (q : Nat) (v : Word) :
    ((s.commitRecord pkg q v).pkg pkg).around = (s.pkg pkg).around := by
  rw [State.commitRecord, State.pkg_updPkg]
  rfl

/-- A queue that can take a record takes it at its tail, stamped with its arrival. -/
theorem State.recs_commitRecord (q : Nat) (v : Word) (hroom : ((s.pkg pkg).queue q).recs.length < 64)
    (hon : ((s.pkg pkg).queue q).qcfg.getLsbD 8 = true) :
    (((s.commitRecord pkg q v).pkg pkg).queue q).recs = ((s.pkg pkg).queue q).recs ++
        [((List.range 15).map (fun i => lookup 0 ((s.pkg pkg).queue q).qrec i) ++ [v], s.time.toNat)] ∧
      (((s.commitRecord pkg q v).pkg pkg).queue q).lost = ((s.pkg pkg).queue q).lost := by
  have hgo : ¬(decide (64 ≤ ((s.pkg pkg).queue q).recs.length) || !((s.pkg pkg).queue q).qcfg.getLsbD 8) = true := by
    simp [hon, hroom]
  rw [State.commitRecord, State.pkg_updPkg, Pkg.queue_setQueue, if_neg hgo]
  exact ⟨rfl, rfl⟩

theorem State.lost_commitRecord (q : Nat) (v : Word)
    (h : 64 ≤ ((s.pkg pkg).queue q).recs.length ∨ ((s.pkg pkg).queue q).qcfg.getLsbD 8 = false) :
    (((s.commitRecord pkg q v).pkg pkg).queue q).recs = ((s.pkg pkg).queue q).recs ∧
      (((s.commitRecord pkg q v).pkg pkg).queue q).lost = min (((s.pkg pkg).queue q).lost + 1) 0xFFFF := by
  have hstop : (decide (64 ≤ ((s.pkg pkg).queue q).recs.length) || !((s.pkg pkg).queue q).qcfg.getLsbD 8) = true := by
    rcases h with h | h
    · rw [decide_eq_true h, Bool.true_or]
    · rw [h, Bool.not_false, Bool.or_true]
  rw [State.commitRecord, State.pkg_updPkg, Pkg.queue_setQueue, if_pos hstop]
  exact ⟨rfl, rfl⟩

/-- A write of the last word of QREC, outside RECOVERY (11 R190). -/
theorem execQrecCommit_spec (q : Nat) (v : Word) (h : (s.pkg pkg).service.secmode ≠ 3) (hq : q < 16384) :
    let x := (s.pkg pkg).queue q
    ∃ t, execQrecCommit pkg q v s = .next t ∧ t.mem = s.mem ∧ t.threads = s.threads ∧ (t.pkg pkg).around.pscur = 0 ∧
      let y := (t.pkg pkg).queue q
      (x.recs.length < 64 → x.qcfg.getLsbD 8 = true →
        y.recs = x.recs ++ [((List.range 15).map (fun i => lookup 0 x.qrec i) ++ [v], s.time.toNat)] ∧ y.lost = x.lost) ∧
      (64 ≤ x.recs.length ∨ x.qcfg.getLsbD 8 = false → y.recs = x.recs ∧ y.lost = min (x.lost + 1) 0xFFFF) := by
  obtain ⟨a, ha, hpkg⟩ := s.pkg_wakePkg pkg
  have hwoken : s.OnlyPkgs (s.wakePkg pkg) := s.onlyPkgs_wakePkg pkg
  have hqueue : ((s.wakePkg pkg).pkg pkg).queue q = (s.pkg pkg).queue q := by rw [hpkg]; rfl
  have htime : (s.wakePkg pkg).time = s.time := by rw [hwoken]
  obtain ⟨hmem, hthreads, -⟩ := (hwoken.trans ((s.wakePkg pkg).onlyPkgs_commitRecord pkg q v)).frame
  refine ⟨(s.wakePkg pkg).commitRecord pkg q v, ?_, hmem, hthreads, ?_, fun hroom hon => ?_, fun hfull => ?_⟩
  · rw [execQrecCommit, s.register_of_open pkg _ h, if_pos hq]
  · rw [State.around_commitRecord, hpkg]; exact ha
  · have := (s.wakePkg pkg).recs_commitRecord pkg q v (by rwa [hqueue]) (by rwa [hqueue])
    rwa [hqueue, htime] at this
  · have := (s.wakePkg pkg).lost_commitRecord pkg q v (by rwa [hqueue])
    rwa [hqueue] at this

/-- A write of a completion counter, outside RECOVERY (11 R191). -/
theorem execCompletionCounterWrite_spec (ctr : Nat) (v : BitVec 32) (h : (s.pkg pkg).service.secmode ≠ 3) (hctr : ctr < 4096) :
    ∃ t, execCompletionCounterWrite pkg ctr v s = .next t ∧ t.mem = s.mem ∧ t.threads = s.threads ∧
      lookup 0 (t.pkg pkg).counters ctr = v ∧
      ∀ c, c ≠ ctr → lookup 0 (t.pkg pkg).counters c = lookup 0 (s.pkg pkg).counters c := by
  obtain ⟨a, -, hpkg⟩ := s.pkg_wakePkg pkg
  have hwoken : s.OnlyPkgs (s.wakePkg pkg) := s.onlyPkgs_wakePkg pkg
  obtain ⟨hmem, hthreads, -⟩ := hwoken.frame
  have hcounters : (((s.wakePkg pkg).setCounter pkg ctr v).pkg pkg).counters = store 0 (s.pkg pkg).counters ctr v := by
    rw [State.setCounter, State.pkg_updPkg, hpkg]
  refine ⟨(s.wakePkg pkg).setCounter pkg ctr v, ?_, hmem, hthreads, ?_, fun c hc => ?_⟩
  · rw [execCompletionCounterWrite, s.register_of_open pkg _ h, if_pos hctr]
  · rw [hcounters, lookup_store_self]
  · rw [hcounters, lookup_store_of_ne _ _ _ _ _ hc.symm]

theorem execQrecCommit_of_no_queue (q : Nat) (v : Word) (h : (s.pkg pkg).service.secmode ≠ 3) (hq : 16384 ≤ q) :
    execQrecCommit pkg q v s = .next (s.wakePkg pkg) := by
  rw [execQrecCommit, s.register_of_open pkg _ h, if_neg (Nat.not_lt.2 hq)]

theorem execCompletionCounterWrite_of_no_counter (ctr : Nat) (v : BitVec 32) (h : (s.pkg pkg).service.secmode ≠ 3)
    (hctr : 4096 ≤ ctr) : execCompletionCounterWrite pkg ctr v s = .next (s.wakePkg pkg) := by
  rw [execCompletionCounterWrite, s.register_of_open pkg _ h, if_neg (Nat.not_lt.2 hctr)]

end

end Sys2Proof.Machine

/-! ### A ranking visits its contenders and starts a group (05 R97; 11 R192 to R194, R196) -/

namespace Sys2Proof.Machine

/-! #### A package with nothing to dispatch -/

theorem mem_of_lookup_ne {α : Type} {d : α} {m : List (Nat × α)} {i : Nat} (h : lookup d m i ≠ d) : (i, lookup d m i) ∈ m := by
  induction m with
  | nil => exact absurd rfl h
  | cons p m ih =>
    obtain ⟨k, v⟩ := p
    unfold lookup at h ⊢
    split
    next hk => exact hk ▸ List.mem_cons_self
    next hk => rw [if_neg hk] at h; exact List.mem_cons_of_mem _ (ih h)

section
variable (s : State) (pkg : Nat)

theorem State.refuseHeads_of_empty {q : Nat} (h : ((s.pkg pkg).queue q).recs = []) (fuel : Nat) : s.refuseHeads pkg q fuel = s := by
  cases fuel with
  | zero => rfl
  | succ fuel => rw [State.refuseHeads, h]

theorem foldl_of_fixed {α β : Type} {f : β → α → β} {b : β} {l : List α} (h : ∀ a ∈ l, f b a = b) : l.foldl f b = b := by
  induction l with
  | nil => rfl
  | cons a l ih => rw [List.foldl_cons, h a List.mem_cons_self, ih fun x hx => h x (List.mem_cons_of_mem _ hx)]

theorem State.recs_of_all_empty (h : ∀ p ∈ (s.pkg pkg).queues, p.2.recs = []) (q : Nat) : ((s.pkg pkg).queue q).recs = [] := by
  by_cases hq : (s.pkg pkg).queue q = {}
  · rw [hq]
  · exact h _ (mem_of_lookup_ne hq)

theorem execDispatcherRanking_of_idle (hres : (s.pkg pkg).resumes = []) (hrecs : ∀ p ∈ (s.pkg pkg).queues, p.2.recs = []) :
    execDispatcherRanking pkg s = .next s := by
  have hrefuse : s.refuseAll pkg = s :=
    foldl_of_fixed fun p _ => s.refuseHeads_of_empty pkg (s.recs_of_all_empty pkg hrecs p.1) 64
  have hdrop : s.dropResumes pkg = s := by rw [State.dropResumes, hres]; rfl
  have hnone : s.contenders pkg = [] := by
    rw [State.contenders, hres]
    refine List.filterMap_eq_nil_iff.2 fun p hp => ?_
    rw [hrecs p hp]
  rw [execDispatcherRanking]
  rw [hrefuse, hdrop, hnone]
  rfl

/-! #### The visit of the contenders -/

variable {c : Ranked} {rest : List Ranked}

theorem State.visit_of_short (reserved : Bool) (h : (s.pkg pkg).bellows.free < c.grant * 256) :
    s.visit pkg reserved (c :: rest) = (s.reserve pkg c).visit pkg true rest := by
  rw [State.visit, if_pos h]

theorem State.visit_of_behind (hfree : c.grant * 256 ≤ (s.pkg pkg).bellows.free) (hgrant : c.grant ≠ 0) :
    s.visit pkg true (c :: rest) = s.visit pkg true rest := by
  rw [State.visit, if_neg (Nat.not_lt.2 hfree), if_pos (by simp [hgrant])]

/-- A contender that no reservation holds back and that its space gate lets start. -/
theorem State.visit_of_start {reserved : Bool} {t : State} (hfree : c.grant * 256 ≤ (s.pkg pkg).bellows.free)
    (hopen : reserved = false ∨ c.grant = 0) (hstart : s.tryStart pkg c = some t) : s.visit pkg reserved (c :: rest) = t := by
  rw [State.visit, if_neg (Nat.not_lt.2 hfree), if_neg (by rcases hopen with h | h <;> simp [h]), hstart]

theorem State.visit_of_no_space (hfree : c.grant * 256 ≤ (s.pkg pkg).bellows.free) (hstart : s.tryStart pkg c = none) :
    s.visit pkg false (c :: rest) = s.visit pkg (s.reserves pkg c) rest := by
  rw [State.visit, if_neg (Nat.not_lt.2 hfree), if_neg (by simp), hstart]
  rfl

theorem execDispatcherRanking_of_settled (h : (s.refuseAll pkg).dropResumes pkg = s) :
    execDispatcherRanking pkg s = .next (s.visit pkg false (ranked (s.contenders pkg))) := by
  rw [execDispatcherRanking]
  rw [h]

/-! #### Reservations -/

/-- Reservations are all that a visit behind a reservation makes: units, threads and memory are as before, and no reservation is lost. -/
structure State.Reserving (s t : State) (pkg : Nat) : Prop where
  threads : t.threads = s.threads
  mem : t.mem = s.mem
  bellows : (t.pkg pkg).bellows = (s.pkg pkg).bellows
  reserved (q : Nat) (h : ((s.pkg pkg).queue q).reserved = true) : ((t.pkg pkg).queue q).reserved = true

theorem State.Reserving.refl : s.Reserving s pkg := ⟨rfl, rfl, rfl, fun _ h => h⟩

variable {s pkg}

theorem State.Reserving.trans {t u : State} (h : s.Reserving t pkg) (h' : t.Reserving u pkg) : s.Reserving u pkg :=
  ⟨h'.threads.trans h.threads, h'.mem.trans h.mem, h'.bellows.trans h.bellows, fun q hq => h'.reserved q (h.reserved q hq)⟩

theorem State.reserving_reserve : s.Reserving (s.reserve pkg c) pkg := by
  unfold State.reserve
  split
  · refine ⟨rfl, rfl, by rw [State.pkg_updPkg]; rfl, fun q hq => ?_⟩
    rw [State.pkg_updPkg]
    rcases eq_or_ne q c.num with rfl | hne
    · rw [Pkg.queue_setQueue]
    · rwa [Pkg.queue_setQueue_of_ne _ _ hne]
  split
  · refine ⟨rfl, rfl, ?_, fun q hq => ?_⟩
    · rw [State.setGroup, State.pkg_setPkg]
    · rw [State.setGroup, State.pkg_setPkg]; exact hq
  · exact .refl s pkg

theorem State.reserved_reserve (h : c.head = true) : (((s.reserve pkg c).pkg pkg).queue c.num).reserved = true := by
  rw [State.reserve, if_pos h, State.pkg_updPkg, Pkg.queue_setQueue]

theorem State.reserves_of_head (h : c.head = true) : s.reserves pkg c = ((s.pkg pkg).queue c.num).reserved := by
  rw [State.reserves, if_pos h]

/-- Behind a reservation no contender with a grant starts, and each that fails the ember gate reserves. -/
theorem State.visit_behind (s : State) (pkg : Nat) (l : List Ranked) (hl : ∀ x ∈ l, x.grant ≠ 0) :
    s.Reserving (s.visit pkg true l) pkg ∧
      ∀ x ∈ l, x.head = true → (s.pkg pkg).bellows.free < x.grant * 256 → (s.visit pkg true l).reserves pkg x = true := by
  induction l generalizing s with
  | nil => exact ⟨.refl s pkg, fun _ hx => absurd hx List.not_mem_nil⟩
  | cons c rest ih =>
    have hrest : ∀ x ∈ rest, x.grant ≠ 0 := fun x hx => hl x (List.mem_cons_of_mem _ hx)
    rcases Nat.lt_or_ge (s.pkg pkg).bellows.free (c.grant * 256) with hshort | hfree
    · rw [s.visit_of_short pkg true hshort]
      have hreserve := s.reserving_reserve (pkg := pkg) (c := c)
      obtain ⟨hvisit, hres⟩ := ih (s.reserve pkg c) hrest
      refine ⟨hreserve.trans hvisit, fun x hx hhead hx' => ?_⟩
      rcases List.mem_cons.1 hx with rfl | hx
      · rw [State.reserves_of_head hhead]
        exact hvisit.reserved _ (State.reserved_reserve hhead)
      · exact hres x hx hhead (by rwa [hreserve.bellows])
    · rw [s.visit_of_behind pkg hfree (hl c List.mem_cons_self)]
      obtain ⟨hvisit, hres⟩ := ih s hrest
      refine ⟨hvisit, fun x hx hhead hx' => ?_⟩
      rcases List.mem_cons.1 hx with rfl | hx
      · exact absurd hx' (Nat.not_lt.2 hfree)
      · exact hres x hx hhead hx'

end

end Sys2Proof.Machine

/-! ### A group starts (05 R97; 11 R193, R194, R196) -/

namespace Sys2Proof.Machine

theorem keepBits_63_3 (w : Word) : keepBits w [(63, 3)] = BitVec.ofNat 64 (w.toNat / 8 * 8) := by
  have hlt := w.isLt
  have hfld : Fld w 63 3 * 2 ^ 3 = w.toNat / 8 * 8 := by simp only [Fld, bits]; omega
  simp only [keepBits, List.map_cons, List.map_nil, List.foldl_cons, List.foldl_nil, hfld, Nat.zero_add]

/-! #### A launched thread -/

section
variable (r : List Word) (segs : List (Word × Word)) (tenant g rank deadline area : Nat)

theorem launchedThread_pc : (launchedThread r segs tenant g rank deadline area).pc = BitVec.ofNat 64 ((recWord r 0).toNat / 8 * 8) :=
  keepBits_63_3 _

theorem launchedThread_status : (launchedThread r segs tenant g rank deadline area).sys.status = if recDet r then 0x40000000 else 0 := rfl

theorem launchedThread_sup : (launchedThread r segs tenant g rank deadline area).sup = false := by
  rw [Thread.sup, launchedThread_status]
  split <;> decide

theorem launchedThread_det : (launchedThread r segs tenant g rank deadline area).det = recDet r := by
  rw [Thread.det, launchedThread_status]
  cases recDet r <;> decide

theorem launchedThread_reg (i : Nat) : (launchedThread r segs tenant g rank deadline area).reg i = 0 := by
  have hregs : (launchedThread r segs tenant g rank deadline area).regs = Vector.replicate 32 0 := rfl
  rw [Thread.reg, hregs]
  simp only [Vector.getD, Vector.toArray_replicate, Array.getD_eq_getD_getElem?, Array.getElem?_replicate]
  split <;> rfl

theorem launchedThread_seg {i : Nat} (h : i < 7) :
    (launchedThread r segs tenant g rank deadline area).seg i = segs.getD i (0, 0) := by
  simp [Thread.seg, launchedThread, Vector.getD, h.ne, h.trans (by decide : 7 < 8)]

end

/-! #### The threads of a group, rank by rank -/

theorem State.th_seat (s : State) (t : Nat) (x : Thread) : (s.seat t x).th t = x := by
  unfold State.seat
  exact State.th_setTh _ t x

theorem State.th_seat_of_ne (s : State) {t u : Nat} (x : Thread) (h : u ≠ t) : (s.seat t x).th u = s.th u := by
  unfold State.seat
  dsimp only
  split <;> exact State.th_setTh_of_ne _ t u x h

theorem State.pkgs_seat (s : State) (t : Nat) (x : Thread) : (s.seat t x).pkgs = s.pkgs := by
  unfold State.seat
  dsimp only
  split <;> rfl

theorem State.mem_seat (s : State) (t : Nat) (x : Thread) : (s.seat t x).mem = s.mem := by
  unfold State.seat
  dsimp only
  split <;> rfl

section
variable (s : State) (r : List Word) (segs : List (Word × Word)) (g deadline : Nat) (csp : Option (Nat × Nat))

theorem State.th_startThread (rank tid off : Nat) : (s.startThread r segs g deadline csp rank tid off).th tid =
    launchedThread r segs (recTenant r) g rank deadline off := by
  rw [State.startThread, State.th_storeAt, State.th_seat]

theorem State.th_startThread_of_ne (rank off : Nat) {tid u : Nat} (h : u ≠ tid) :
    (s.startThread r segs g deadline csp rank tid off).th u = s.th u := by
  rw [State.startThread, State.th_storeAt, State.th_seat_of_ne _ _ h]

theorem State.pkgs_startThread (rank tid off : Nat) : (s.startThread r segs g deadline csp rank tid off).pkgs = s.pkgs := by
  rw [State.startThread, State.storeAt_pkgs, State.pkgs_seat]

/-- The first n ranks start, rank k in the slot `tid k` with its area at `off k`. -/
def State.startRanks (tid off : Nat → Nat) (n : Nat) : State :=
  ((List.range n).map tid).zipIdx.foldl (fun s p => s.startThread r segs g deadline csp p.2 p.1 (off p.2)) s

variable (tid off : Nat → Nat)

theorem State.startRanks_succ (n : Nat) : s.startRanks r segs g deadline csp tid off (n + 1) =
    (s.startRanks r segs g deadline csp tid off n).startThread r segs g deadline csp n (tid n) (off n) := by
  simp [State.startRanks, List.range_succ, List.zipIdx_append]

theorem State.pkgs_startRanks (n : Nat) : (s.startRanks r segs g deadline csp tid off n).pkgs = s.pkgs := by
  induction n with
  | zero => rfl
  | succ n ih => rw [State.startRanks_succ, State.pkgs_startThread, ih]

/-- A rank whose slot is no other rank's is there as launched. -/
theorem State.th_startRanks {n k : Nat} (hk : k < n) (hown : ∀ j, j < n → j ≠ k → tid j ≠ tid k) :
    (s.startRanks r segs g deadline csp tid off n).th (tid k) = launchedThread r segs (recTenant r) g k deadline (off k) := by
  induction n with
  | zero => exact absurd hk (Nat.not_lt_zero k)
  | succ n ih =>
    rw [State.startRanks_succ]
    rcases Nat.lt_succ_iff_lt_or_eq.1 hk with hlt | rfl
    · have hne := hown n (Nat.lt_succ_self n) (by omega)
      rw [State.th_startThread_of_ne _ _ _ _ _ _ _ _ hne.symm, ih hlt fun j hj => hown j (Nat.lt_succ_of_lt hj)]
    · exact State.th_startThread ..

end

/-! #### The group -/

/-- The group of a record as it starts. -/
def startedGroup (q : Nat) (r : List Word) (deadline : Nat) (tids : List Nat) (segs : List (Word × Word)) (pl : List (Nat × Nat) × Nat) :
    Group :=
  { launched := true
    record := r
    queue := some q
    tenant := recTenant r
    grant := recGrant r
    deadline := deadline
    threads := tids
    lsOff := pl.1.map fun (p : Nat × Nat) => (p.1, p.2, recTpc r * recLs r)
    csp := if recCsp r = 0 then none else some (pl.2, recCsp r)
    seg0 := segs.getD 0 (0, 0) }

section
variable (s : State) (pkg q : Nat) (x : Queue) (r : List Word) (arrival g : Nat) (segs : List (Word × Word))
variable (pl : List (Nat × Nat) × Nat)

/-- The head of a queue has left it for its group, and its grant FREE. -/
def State.withGroup (tids : List Nat) : State :=
  s.updPkg pkg fun p =>
    { p.setQueue q { x with recs := x.recs.drop 1, checked := false, reserved := false } with
      next := g
      groups := insert p.groups g (startedGroup q r (effective x r arrival) tids segs pl)
      bellows := { p.bellows with free := p.bellows.free - recGrant r * 256 } }

/-- The group and its threads, before the record of a late start. -/
def State.groupStarted : State :=
  let tid := s.rankSlot pl.1 (recTpc r)
  (s.withGroup pkg q x r arrival g segs pl ((List.range (recThreads r)).map tid)).startRanks r segs g (effective x r arrival)
    (if recCsp r = 0 then none else some (pl.2, recCsp r)) tid
    (fun k => (pl.1.getD (k / recTpc r) (0, 0)).2 + k % recTpc r * recLs r) (recThreads r)

theorem State.startGroup_eq : s.startGroup pkg q x r arrival g segs pl =
    if passed (effective x r arrival) (s.groupStarted pkg q x r arrival g segs pl).time then
      (s.groupStarted pkg q x r arrival g segs pl).groupRecord pkg g 1 0
    else s.groupStarted pkg q x r arrival g segs pl := rfl

theorem State.dispatchKept_startGroup :
    (s.groupStarted pkg q x r arrival g segs pl).DispatchKept (s.startGroup pkg q x r arrival g segs pl) pkg := by
  rw [State.startGroup_eq]
  split
  · exact State.dispatchKept_groupRecord ..
  · exact .refl _ pkg

theorem State.pkg_groupStarted : (s.groupStarted pkg q x r arrival g segs pl).pkg pkg =
    { (s.pkg pkg).setQueue q { x with recs := x.recs.drop 1, checked := false, reserved := false } with
      next := g
      groups := insert (s.pkg pkg).groups g (startedGroup q r (effective x r arrival)
        ((List.range (recThreads r)).map (s.rankSlot pl.1 (recTpc r))) segs pl)
      bellows := { (s.pkg pkg).bellows with free := (s.pkg pkg).bellows.free - recGrant r * 256 } } := by
  rw [State.pkg, State.groupStarted, State.pkgs_startRanks]
  exact State.pkg_updPkg ..

/-- What the start of a group leaves of its package, and its group (11 R194, R196). -/
theorem State.group_startGroup :
    let t := s.startGroup pkg q x r arrival g segs pl
    (t.pkg pkg).bellows.free = (s.pkg pkg).bellows.free - recGrant r * 256 ∧ ((t.pkg pkg).queue q).recs = x.recs.drop 1 ∧
      ∃ y, t.group pkg g = some y ∧ y.record = r ∧ y.grant = recGrant r ∧ y.state = .running ∧ y.launched = true ∧
        y.threads = (List.range (recThreads r)).map fun k => s.rankSlot pl.1 (recTpc r) k := by
  have hkept := s.dispatchKept_startGroup pkg q x r arrival g segs pl
  have hpkg := s.pkg_groupStarted pkg q x r arrival g segs pl
  refine ⟨by rw [hkept.bellows, hpkg], ?_, startedGroup q r (effective x r arrival)
    ((List.range (recThreads r)).map (s.rankSlot pl.1 (recTpc r))) segs pl, ?_, rfl, rfl, rfl, rfl, rfl⟩
  · rw [hkept.recs, hpkg]
    exact congrArg Queue.recs (Pkg.queue_setQueue (s.pkg pkg) q _)
  · rw [hkept.group, State.group, hpkg]
    exact (find?_insert _ g g _).trans (if_pos rfl)

/-- A rank of the group whose slot is no other rank's begins as launched (05 R97). -/
theorem State.th_startGroup {k : Nat} (hk : k < recThreads r)
    (hown : ∀ j, j < recThreads r → j ≠ k → s.rankSlot pl.1 (recTpc r) j ≠ s.rankSlot pl.1 (recTpc r) k) :
    ∃ area, (s.startGroup pkg q x r arrival g segs pl).th (s.rankSlot pl.1 (recTpc r) k) =
      launchedThread r segs (recTenant r) g k (effective x r arrival) area := by
  refine ⟨(pl.1.getD (k / recTpc r) (0, 0)).2 + k % recTpc r * recLs r, ?_⟩
  rw [(s.dispatchKept_startGroup pkg q x r arrival g segs pl).th, State.groupStarted]
  exact State.th_startRanks _ r segs g _ _ (s.rankSlot pl.1 (recTpc r)) _ hk hown

end

end Sys2Proof.Machine

/-! ### Slots and groups end, firmware starts threads (00 R6; 11 R191, R194, R198; 17 R303) -/

namespace Sys2Proof.Machine

/-! #### SLOT_VACATE -/

theorem State.th_of_erased {s t : State} {tid : Nat} (h : t.threads = erase s.threads tid) : t.th tid = {} := by
  rw [State.th, h, lookup_erase_self]

section
variable (s : State) (tid : Nat)

/-- The slot stays as it is. -/
abbrev State.SlotStays : Prop :=
  (s.th tid).exited = false ∨ (s.th tid).slot = .saved ∨ (s.th tid).slot = .vacant ∨ s.keepsSlot tid = true ∨
    s.bequeaths (s.th tid) = true

theorem slotStays_iff : s.SlotStays tid ↔ (!(s.th tid).exited || (s.th tid).slot = .saved || (s.th tid).slot = .vacant ||
    s.keepsSlot tid || s.bequeaths (s.th tid)) = true := by
  simp [State.SlotStays, or_assoc]

theorem execSlotVacate_of_stays (h : s.SlotStays tid) : execSlotVacate tid s = .next s := if_pos ((slotStays_iff s tid).1 h)

theorem execSlotVacate_of_done (h : ¬s.SlotStays tid) : ∃ u, execSlotVacate tid s = .next u ∧ u.th tid = {} := by
  unfold execSlotVacate
  dsimp only
  rw [if_neg (mt (slotStays_iff s tid).2 h)]
  generalize ((((s.unlinkThread tid).leaveLocks tid).unbindAll tid).endGang tid).orphan tid = v
  split
  · exact ⟨_, rfl, State.th_of_erased (s := v) rfl⟩
  · exact ⟨_, rfl, State.th_of_erased (s := v) rfl⟩

end

/-! #### GROUP_RETIREMENT -/

section
variable (s : State) (pkg g : Nat)

theorem State.dispatchKept_leaveBarriers : s.DispatchKept (s.leaveBarriers pkg g) pkg := by
  refine foldl_keeps (R := fun s t => s.DispatchKept t pkg) (fun s => .refl s pkg) (fun _ _ _ => State.DispatchKept.trans) _
    (fun u b => ?_) _ s
  dsimp only
  split
  · exact .refl u pkg
  split <;> split <;> exact .of_pkgs rfl rfl

theorem State.dispatchKept_disown : s.DispatchKept (s.disown pkg g) pkg := .of_pkgs rfl rfl

/-- What a retiring group has written and counted, before its units return. -/
def State.retiring (x : Group) : State :=
  let s := (s.writeManifest pkg x).countRetired pkg x
  if x.faulted then s else s.groupRecord pkg g 2 0

theorem State.dispatchKept_retiring (x : Group) : s.DispatchKept (s.retiring pkg g x) pkg := by
  have hcounted := (s.dispatchKept_writeManifest pkg pkg x).trans (State.dispatchKept_countRetired _ pkg x)
  unfold State.retiring
  dsimp only
  split
  · exact hcounted
  · exact hcounted.trans (State.dispatchKept_groupRecord ..)

/-- The machine without a group that has retired. -/
def State.retired (x : Group) : State :=
  (((((s.retiring pkg g x).giveBack pkg x.grant).disown pkg g).leaveBarriers pkg g)).updPkg pkg fun p =>
    { p with groups := erase p.groups g }

theorem execGroupRetirement_of_none (h : s.group pkg g = none) : execGroupRetirement pkg g s = .next s := by
  unfold execGroupRetirement
  rw [h]

variable {x : Group} (hx : s.group pkg g = some x)
include hx

theorem execGroupRetirement_of_busy (h : x.threads ≠ [] ∨ s.groupBusy pkg g = true) : execGroupRetirement pkg g s = .next s := by
  have hmay : s.mayRetire pkg g x = false := by
    rcases h with h | h
    · rw [State.mayRetire, List.isEmpty_eq_false_iff.2 h, Bool.false_and]
    · rw [State.mayRetire, h, Bool.not_true, Bool.and_false]
  unfold execGroupRetirement
  simp only [hx, hmay, Bool.not_false, if_true]

theorem execGroupRetirement_of_done (hthreads : x.threads = []) (hbusy : s.groupBusy pkg g = false) :
    execGroupRetirement pkg g s = .next (s.retired pkg g x) := by
  have hmay : s.mayRetire pkg g x = true := by rw [State.mayRetire, hthreads, hbusy]; rfl
  unfold execGroupRetirement
  simp only [hx, hmay, Bool.not_true, Bool.false_eq_true, if_false]
  rfl

omit hx in
/-- The group is gone, its units are free again, and every thread is as before. -/
theorem State.retired_spec (x : Group) : (s.retired pkg g x).group pkg g = none ∧
    ((s.retired pkg g x).pkg pkg).bellows.free = (s.pkg pkg).bellows.free + x.grant * 256 ∧
      (s.retired pkg g x).threads = s.threads := by
  have hretiring := s.dispatchKept_retiring pkg g x
  have hleft := (State.dispatchKept_disown ((s.retiring pkg g x).giveBack pkg x.grant) pkg g).trans
    (State.dispatchKept_leaveBarriers _ pkg g)
  refine ⟨?_, ?_, hleft.threads.trans hretiring.threads⟩
  · rw [State.group, State.retired, State.pkg_updPkg]
    exact (find?_erase _ g g).trans (if_pos rfl)
  · rw [State.retired, State.pkg_updPkg]
    dsimp only
    rw [hleft.bellows, State.giveBack, State.pkg_updPkg]
    dsimp only
    rw [hretiring.bellows]

end

/-! #### FIRMWARE_THREAD_START -/

section
variable (s : State) (f : FwStart)

/-- The group in which firmware starts a thread, new where the package has none of the number. -/
def State.fwJoins : Group := (s.group (pkgOf (cidOf f.tid)) f.grp).getD (fwGroup f.tenant)

/-- What firmware needs to start a thread. -/
abbrev State.FwMay : Prop :=
  coreExists (cidOf f.tid) = true ∧ (s.th f.tid).slot = .vacant ∧ (slotOf f.tid = 15 ↔ f.grp = 0) ∧ f.grp < 2 ^ 16 ∧
    (s.fwJoins f).launched = false ∧ (s.fwJoins f).threads.length < 4096

theorem fwMay_iff : s.FwMay f ↔ s.fwMayStart f = true := by
  simp [State.FwMay, State.fwMayStart, State.fwJoins, and_assoc]

/-- The rank of the thread in its group. -/
def State.fwRank : Nat := ((s.group (pkgOf (cidOf f.tid)) f.grp).map fun x => x.threads.length).getD 0

/-- The machine with the thread in its slot, known to its package. -/
def State.fwSeated : State :=
  (s.seat f.tid (fwThread f (s.fwRank f))).updPkg (pkgOf (cidOf f.tid)) fun p => { p with fw := p.fw ++ [f] }

/-- The machine with the thread in its group. -/
def State.fwJoined : State :=
  let v := (s.fwSeated f).updPkg (pkgOf (cidOf f.tid)) fun p => { p with reserved := addKey p.reserved f.grp }
  v.setGroup (pkgOf (cidOf f.tid)) f.grp { v.fwJoins f with threads := (v.fwJoins f).threads ++ [f.tid] }

theorem execFirmwareThreadStart_of_may (h : s.FwMay f) :
    execFirmwareThreadStart f s = .next (if f.grp = 0 then s.fwSeated f else s.fwJoined f) := by
  unfold execFirmwareThreadStart
  dsimp only
  rw [(fwMay_iff s f).1 h]
  split
  next h0 => cases h0
  next =>
    split
    · rfl
    · rfl

theorem execFirmwareThreadStart_of_not (h : ¬s.FwMay f) : execFirmwareThreadStart f s = .next s := by
  unfold execFirmwareThreadStart
  dsimp only
  rw [Bool.eq_false_iff.2 (mt (fwMay_iff s f).2 h)]
  rfl

theorem State.th_fwSeated : (s.fwSeated f).th f.tid = fwThread f (s.fwRank f) := s.th_seat f.tid _

theorem State.th_fwSeated_of_ne {u : Nat} (h : u ≠ f.tid) : (s.fwSeated f).th u = s.th u :=
  s.th_seat_of_ne (fwThread f (s.fwRank f)) h

theorem State.mem_fwSeated : (s.fwSeated f).mem = s.mem := s.mem_seat f.tid (fwThread f (s.fwRank f))

theorem State.group_fwJoined : (s.fwJoined f).group (pkgOf (cidOf f.tid)) f.grp =
    some { s.fwJoins f with threads := (s.fwJoins f).threads ++ [f.tid] } := by
  have hseated : (s.seat f.tid (fwThread f (s.fwRank f))).pkg (pkgOf (cidOf f.tid)) = s.pkg (pkgOf (cidOf f.tid)) := by
    rw [State.pkg, State.pkgs_seat, State.pkg]
  have hjoins : ((s.fwSeated f).updPkg (pkgOf (cidOf f.tid)) fun p => { p with reserved := addKey p.reserved f.grp }).fwJoins f =
      s.fwJoins f := by
    simp only [State.fwJoins, State.group, State.fwSeated, State.pkg_updPkg, hseated]
  rw [State.fwJoined, hjoins, State.group, State.setGroup, State.pkg_setPkg]
  exact (find?_insert _ f.grp f.grp _).trans (if_pos rfl)

theorem fwThread_pc (rank : Nat) : (fwThread f rank).pc = BitVec.ofNat 64 (f.pc.toNat / 8 * 8) := keepBits_63_3 _
theorem fwThread_tvec (rank : Nat) : (fwThread f rank).sys.tvec = BitVec.ofNat 64 (f.tvec.toNat / 8 * 8) := keepBits_63_3 _

theorem fwThread_sup (rank : Nat) : (fwThread f rank).sup = f.sup := by
  have hstatus : (fwThread f rank).sys.status = if f.sup then 0x80000000 else 0 := rfl
  rw [Thread.sup, hstatus]
  cases f.sup <;> decide

/-- What firmware's start of a thread leaves. -/
theorem State.fwStart_spec {t : State} (ht : t = if f.grp = 0 then s.fwSeated f else s.fwJoined f) :
    t.mem = s.mem ∧ t.th f.tid = fwThread f (s.fwRank f) ∧ (∀ u, u ≠ f.tid → t.th u = s.th u) ∧
      (f.grp ≠ 0 → t.group (pkgOf (cidOf f.tid)) f.grp =
        some { s.fwJoins f with threads := (s.fwJoins f).threads ++ [f.tid] }) := by
  have hmem : t.mem = (s.fwSeated f).mem := by rw [ht]; split <;> rfl
  have hthreads : t.threads = (s.fwSeated f).threads := by rw [ht]; split <;> rfl
  have hth (u : Nat) : t.th u = (s.fwSeated f).th u := by rw [State.th, State.th, hthreads]
  refine ⟨hmem.trans (s.mem_fwSeated f), (hth _).trans (s.th_fwSeated f), fun u hu => (hth u).trans (s.th_fwSeated_of_ne f hu),
    fun hgrp => ?_⟩
  rw [ht, if_neg hgrp]
  exact s.group_fwJoined f

end

end Sys2Proof.Machine

/-! ### Launching: the statement -/

namespace Sys2Proof.Machine

/-- Settles O50: LAUNCH and QREC by the record that they commit, the ranking as an insertion sort by four numbers, a visit by induction on
the contenders, a start rank by rank, and the three ends and starts by what each writes. -/
theorem launching : Obligations.Launching := by
  refine ⟨fun s d a q hr ho => ⟨execLaunch_of_reserved hr ho, fun hq hin hal => ⟨fun st hws => ?unreadable, fun ws hws => ?launch⟩⟩,
    withTenant_spec, fun s pkg q v h => ⟨execQrecCommit_of_no_queue s pkg q v h, execQrecCommit_spec s pkg q v h⟩, Ranked.before_iff,
    fun l => ⟨ranked_perm l, fun d0 hl => inRankOrder_ranked hl⟩, fun s pkg => ⟨execDispatcherRanking_of_idle s pkg, ?ranking⟩,
    fun s pkg l hl => ?visit, fun s t pkg reserved c rest hgrant hstart => ?free, fun s pkg q x r arrival g segs pl => ?start,
    fun s tid => ⟨execSlotVacate_of_stays s tid, fun h => ?vacate⟩, fun s pkg g => ⟨execGroupRetirement_of_none s pkg g, fun x hx =>
      ⟨execGroupRetirement_of_busy s pkg g hx, fun hthreads hbusy => ?retire⟩⟩,
    fun s pkg ctr v h => ⟨execCompletionCounterWrite_of_no_counter s pkg ctr v h, execCompletionCounterWrite_spec s pkg ctr v h⟩,
    fun s f => ⟨execFirmwareThreadStart_of_not s f, fun h => ?firmware⟩⟩
  case unreadable => exact execLaunch_of_unreadable hr ho hq hin hal hws
  case launch =>
    have hlaunch := execLaunch_of_block hr ho hq hin hal hws
    dsimp only at hlaunch ⊢
    rw [← launchStatus_eq]
    exact ⟨_, hlaunch, s.launch_spec d ..⟩
  case ranking =>
    intro hsettled c rest hranked
    have hexec := execDispatcherRanking_of_settled s pkg hsettled
    rw [hranked] at hexec
    exact ⟨fun t hfree hstart => hexec.trans (congrArg _ (s.visit_of_start pkg hfree (.inl rfl) hstart)),
      fun hshort => hexec.trans (congrArg _ (s.visit_of_short pkg false hshort)),
      fun hfree hstart => hexec.trans (congrArg _ (s.visit_of_no_space pkg hfree hstart))⟩
  case visit =>
    obtain ⟨hkept, hreserves⟩ := s.visit_behind pkg l hl
    exact ⟨hkept.threads, hkept.mem, hkept.bellows, hreserves⟩
  case free => exact s.visit_of_start pkg (by rw [hgrant]; exact Nat.zero_le _) (.inr hgrant) hstart
  case start =>
    obtain ⟨hfree, hrecs, hgroup⟩ := s.group_startGroup pkg q x r arrival g segs pl
    refine ⟨hfree, hrecs, hgroup, fun k hk hown => ?_⟩
    obtain ⟨area, hth⟩ := s.th_startGroup pkg q x r arrival g segs pl hk hown
    dsimp only
    rw [hth]
    exact ⟨rfl, launchedThread_pc .., launchedThread_sup .., launchedThread_det .., rfl, rfl, rfl, launchedThread_reg r segs _ g k _ area,
      fun i => launchedThread_seg r segs _ g k _ area⟩
  case vacate =>
    obtain ⟨u, hu, hth⟩ := execSlotVacate_of_done s tid h
    exact ⟨u, hu, hth, by rw [hth]⟩
  case retire =>
    obtain ⟨hgroup, hfree, hkept⟩ := s.retired_spec pkg g x
    exact ⟨_, execGroupRetirement_of_done s pkg g hx hthreads hbusy, hgroup, hfree, fun _ => hkept⟩
  case firmware =>
    obtain ⟨hmem, hth, hothers, hgroup⟩ := s.fwStart_spec f rfl
    refine ⟨_, execFirmwareThreadStart_of_may s f h, hmem, ?_⟩
    rw [hth]
    refine ⟨rfl, fwThread_pc f _, rfl, fwThread_sup f _, fwThread_tvec f _, fun hgrp => ⟨_, hgroup hgrp, rfl, if_neg hgrp⟩,
      fun hgrp => if_pos hgrp, hothers⟩

end Sys2Proof.Machine

/-! ### The matrix unit (06 R113 to R128; 01 R37, R38; 19 R327) -/

namespace Sys2Proof.Machine

/-! #### The block that is served (06 R113, R122, R126) -/

/-- Nothing but the matrix units changes. -/
def State.OnlyUnits (s t : State) : Prop := t = { s with units := t.units }

namespace State.OnlyUnits
variable {s t u : State}

theorem trans (h : s.OnlyUnits t) (h' : t.OnlyUnits u) : s.OnlyUnits u := by
  unfold State.OnlyUnits at h h' ⊢
  rw [h', h]

variable (h : s.OnlyUnits t)
include h

theorem mem : t.mem = s.mem := by rw [h]
theorem poison : t.poison = s.poison := by rw [h]
theorem threads : t.threads = s.threads := by rw [h]
theorem flight : t.flight = s.flight := by rw [h]
theorem core (c : Nat) : t.core c = s.core c := by rw [State.core, State.core, h]
theorem item (id : Nat) : t.item id = s.item id := by rw [State.item, State.item, h.flight]

end State.OnlyUnits

theorem State.onlyUnits_setUnit (s : State) (n : Nat) (x : MatUnit) : s.OnlyUnits (s.setUnit n x) := rfl

theorem State.onlyUnits_movePointer (s : State) (unit c : Nat) : s.OnlyUnits (s.movePointer unit c) := by
  unfold State.movePointer
  dsimp only
  split <;> exact s.onlyUnits_setUnit _ _

/-- The commands that read memory wait for their thread's earlier stores (06 R124). -/
def MatCmd.reads : MatCmd → Bool
  | .mma _ _ _ _ _ | .load _ _ _ => true
  | _ => false

theorem MatCmd.reads_of_mma_or_load {cmd : MatCmd}
    (h : (∃ fa fb a b n, cmd = .mma fa fb a b n) ∨ (∃ int ad st, cmd = .load int ad st)) : cmd.reads = true := by
  rcases h with ⟨fa, fb, a, b, n, rfl⟩ | ⟨int, ad, st, rfl⟩ <;> rfl

theorem State.nextHead_eq_none {s : State} {unit : Nat} (h : ∀ c, c < 8 → (s.core (unit * 8 + c)).queue = []) (c : Nat) :
    s.nextHead unit c = none := by
  refine findSome?_none _ _ fun col hcol => ?_
  obtain ⟨k, -, rfl⟩ := List.mem_map.1 hcol
  rw [h _ (Nat.mod_lt _ (by decide))]
  rfl

theorem execMatrixBlock_of_idle {s : State} {unit : Nat} (hleft : (s.unit unit).left = 0)
    (h : ∀ c, c < 8 → (s.core (unit * 8 + c)).queue = []) : execMatrixBlock unit s = .next s := by
  simp only [execMatrixBlock, hleft, State.nextHead_eq_none h, ne_eq, not_true, if_false, if_true]

section
variable {s : State} {unit id : Nat} {m : Matrix} {rest : List (Nat × Matrix)} (hleft : (s.unit unit).left ≠ 0)
  (hq : (s.core (unit * 8 + (s.unit unit).ptr)).queue = (id, m) :: rest)
include hleft hq

/-- The unit at the head of the queue that its pointer visits: a command that may not read yet waits, any other is served, after which
only the pointer and its count move. -/
theorem execMatrixBlock_of_head :
    if m.cmd.reads && !s.drained m.tid id then execMatrixBlock unit s = .next s
    else ∃ t, execMatrixBlock unit s = .next t ∧ (s.serve (unit * 8 + (s.unit unit).ptr) id m).OnlyUnits t := by
  have hexec : execMatrixBlock unit s =
      if m.cmd.reads && !s.drained m.tid id then .next s
      else
        let u := s.serve (unit * 8 + (s.unit unit).ptr) id m
        let v := u.setUnit unit { u.unit unit with left := (u.unit unit).left - 1 }
        if (u.unit unit).left ≤ 1 || (v.core (unit * 8 + (s.unit unit).ptr)).queue.isEmpty then
          .next (v.movePointer unit (u.unit unit).ptr)
        else .next v := by
    unfold execMatrixBlock
    simp only [if_pos hleft, if_neg hleft, hq]
    cases m.cmd <;> rfl
  split
  · next hwait => rw [hexec, if_pos hwait]
  · next hgo =>
    rw [hexec, if_neg hgo]
    dsimp only
    split
    · exact ⟨_, rfl, (State.onlyUnits_setUnit _ _ _).trans (State.onlyUnits_movePointer _ _ _)⟩
    · exact ⟨_, rfl, State.onlyUnits_setUnit _ _ _⟩

theorem execMatrixBlock_of_undrained (hr : m.cmd.reads = true) (hd : s.drained m.tid id = false) :
    execMatrixBlock unit s = .next s := by
  have := execMatrixBlock_of_head hleft hq
  rwa [if_pos (by rw [hr, hd]; rfl)] at this

theorem execMatrixBlock_of_serves (hd : m.cmd.reads = true → s.drained m.tid id = true) :
    ∃ t, execMatrixBlock unit s = .next t ∧ (s.serve (unit * 8 + (s.unit unit).ptr) id m).OnlyUnits t := by
  have := execMatrixBlock_of_head hleft hq
  rwa [if_neg] at this
  rw [Bool.and_eq_true, Bool.not_eq_true']
  exact fun ⟨hr, hd'⟩ => by rw [hd hr] at hd'; cases hd'

end

/-! #### Refusals (06 R113, R118, R125) -/

section
variable {s : State} {cid : Nat} {m : Matrix}

theorem State.tileOwner_eq_some {g : Nat} :
    s.tileOwner cid = some g ↔ (s.core cid).tile.owner = some g ∧ (s.group (pkgOf cid) g).isSome = true := by
  unfold State.tileOwner
  cases (s.core cid).tile.owner with
  | none => simp
  | some o =>
    dsimp only
    split
    · next hlive => exact ⟨fun h => by cases h; exact ⟨rfl, hlive⟩, And.left⟩
    · next hdead => exact ⟨fun h => (by cases h), fun ⟨ho, hlive⟩ => by cases ho; exact absurd hlive hdead⟩

/-- A range of the command lies outside the permitted regions. -/
def Matrix.Outside (m : Matrix) (cid : Nat) : Prop := ∃ r ∈ m.cmd.ranges, ∀ k, matRegion cid r.1 r.2 ≠ .ok k

/-- An MMA is of the kind of the tile. -/
def Matrix.OfKind (m : Matrix) (t : Tile) : Prop := ∀ fa fb a b n, m.cmd = .mma fa fb a b n → t.int = decide (fa = .i8)

/-- The CODE that the kind of the tile asks for: 1 for an MMA of the other kind. -/
def MatCmd.kindCode (cmd : MatCmd) (int : Bool) : Nat :=
  match cmd with
  | .mma fa _ _ _ _ => if int = decide (fa = .i8) then 0 else 1
  | _ => 0

theorem Matrix.kindCode_of_kind {t : Tile} (h : m.OfKind t) : m.cmd.kindCode t.int = 0 := by
  unfold MatCmd.kindCode
  split
  · next fa fb a b n hcmd => exact if_pos (h fa fb a b n hcmd)
  · rfl

theorem Matrix.kindCode_of_other_kind {t : Tile} (h : ¬m.OfKind t) : m.cmd.kindCode t.int = 1 := by
  unfold MatCmd.kindCode
  split
  · next fa fb a b n hcmd =>
    exact if_neg fun hint => h fun fa' fb' a' b' n' hcmd' => by cases hcmd.symm.trans hcmd'; exact hint
  · next hcmd => exact absurd (fun fa fb a b n h' => absurd h' (hcmd fa fb a b n)) h

theorem State.refusal_of_outside (h : m.Outside cid) : s.refusal cid m = 3 := by
  obtain ⟨r, hr, hk⟩ := h
  refine if_pos (List.any_eq_true.2 ⟨r, hr, ?_⟩)
  cases hreg : matRegion cid r.1 r.2 with
  | ok k => exact absurd hreg (hk k)
  | error => rfl

section
variable (h : ¬m.Outside cid)
include h

/-- A command within its regions is refused by a live owner other than its group first, and then by a tile of another kind. -/
theorem State.refusal_of_inside :
    (∀ g, s.tileOwner cid = some g → m.grp ≠ some g → s.refusal cid m = 2) ∧
      ((∀ g, s.tileOwner cid = some g → m.grp = some g) → s.refusal cid m = m.cmd.kindCode (s.core cid).tile.int) := by
  unfold State.refusal
  rw [if_neg]
  case hnc =>
    rw [List.any_eq_true]
    rintro ⟨r, hr, hbad⟩
    refine h ⟨r, hr, fun k hreg => ?_⟩
    rw [hreg] at hbad
    cases hbad
  cases s.tileOwner cid with
  | none => exact ⟨fun g hg => (by cases hg), fun _ => by cases m.cmd <;> rfl⟩
  | some o =>
    refine ⟨fun g hg hne => by cases hg; exact if_pos hne, fun hown => ?_⟩
    dsimp only
    rw [if_neg (not_not.2 (hown o rfl))]
    cases m.cmd <;> rfl

end

/-- No refusal's CODE is above 3. -/
theorem State.refusal_le : s.refusal cid m ≤ 3 := by
  by_cases hout : m.Outside cid
  · exact (State.refusal_of_outside hout).le
  obtain ⟨hforeign, hown⟩ := State.refusal_of_inside (s := s) hout
  by_cases h : ∀ g, s.tileOwner cid = some g → m.grp = some g
  · rw [hown h]
    by_cases hkind : m.OfKind (s.core cid).tile
    · rw [Matrix.kindCode_of_kind hkind]; decide
    · rw [Matrix.kindCode_of_other_kind hkind]; decide
  · push Not at h
    obtain ⟨g, hg, hne⟩ := h
    rw [hforeign g hg hne]; decide

end

/-! #### The end of a command (06 R121) -/

theorem State.core_setCore_of_ne (s : State) {c k : Nat} (x : Core) (h : k ≠ c) : (s.setCore c x).core k = s.core k :=
  lookup_insert_of_ne _ _ _ _ _ h.symm

/-- The token word above DNX, DOV and N: CODE and flags. -/
theorem Tile.token_eq (t : Tile) (code : Nat) : ∃ flags < 2 ^ 9, t.token code = code * 2 ^ 56 + 2 ^ 32 * flags := by
  refine ⟨2 ^ 8 * t.int.toNat + 2 ^ 3 * t.iov.toNat + 2 ^ 2 * t.csat.toNat + 2 * t.ov.toNat + t.nv.toNat, ?_, ?_⟩
  · have h1 := t.int.toNat_le
    have h2 := t.iov.toNat_le
    have h3 := t.csat.toNat_le
    have h4 := t.ov.toNat_le
    have h5 := t.nv.toNat_le
    omega
  · unfold Tile.token
    ring

/-- CODE stands in the top byte of the token word, and what `low` holds below bit 32 in its low half. -/
theorem Tile.Fld_token (t : Tile) {code low : Nat} (hcode : code < 2 ^ 8) (hlow : low < 2 ^ 38) :
    Fld (BitVec.ofNat 64 (t.token code + low)) 63 56 = code ∧ Fld (BitVec.ofNat 64 (t.token code + low)) 31 0 = low % 2 ^ 32 := by
  obtain ⟨flags, hflags, h⟩ := t.token_eq code
  simp only [Fld, bits, BitVec.toNat_ofNat, h]
  omega

/-- A command has ended with CODE and the low half of its token word: it has left its queue, and its token is on its way. -/
def State.Ends (t : State) (cid id : Nat) (m : Matrix) (rest : List (Nat × Matrix)) (code low : Nat) : Prop :=
  ∃ w, t.item id = some (.matrixDone m.tid m.tok w) ∧ Fld w 63 56 = code ∧ Fld w 31 0 = low ∧
    (t.core cid).queue = rest.filter fun p => decide (p.1 ≠ id)

theorem State.Ends.of_onlyUnits {s t : State} {cid id code low : Nat} {m : Matrix} {rest : List (Nat × Matrix)}
    (h : s.Ends cid id m rest code low) (hu : s.OnlyUnits t) : t.Ends cid id m rest code low := by
  unfold State.Ends
  rw [hu.item, hu.core]
  exact h

section
variable {s : State} {cid id : Nat} {m : Matrix} {rest : List (Nat × Matrix)} {code low : Nat}

theorem State.core_endCmd : (s.endCmd cid id m code low).core cid =
    { s.core cid with queue := (s.core cid).queue.filter fun p => decide (p.1 ≠ id) } := s.core_setCore cid _

theorem State.ends_endCmd_mod (hq : (s.core cid).queue = (id, m) :: rest) (hcode : code < 2 ^ 8) (hlow : low < 2 ^ 38) :
    (s.endCmd cid id m code low).Ends cid id m rest code (low % 2 ^ 32) := by
  obtain ⟨hc, hl⟩ := (s.core cid).tile.Fld_token hcode hlow
  refine ⟨_, State.item_setItem_self _ _ _, hc, hl, ?_⟩
  rw [State.core_endCmd]
  dsimp only
  rw [hq, List.filter_cons_of_neg (by simp)]

theorem State.ends_endCmd (hq : (s.core cid).queue = (id, m) :: rest) (hcode : code < 2 ^ 8) (hlow : low < 2 ^ 32) :
    (s.endCmd cid id m code low).Ends cid id m rest code low := by
  have := State.ends_endCmd_mod hq hcode (hlow.trans (by decide))
  rwa [Nat.mod_eq_of_lt hlow] at this

theorem State.tile_endCmd : ((s.endCmd cid id m code low).core cid).tile = (s.core cid).tile := by
  rw [State.core_endCmd]

theorem State.core_endCmd_of_ne {k : Nat} (h : k ≠ cid) : (s.endCmd cid id m code low).core k = s.core k :=
  s.core_setCore_of_ne _ h

/-! #### Commands that are refused, MSTAT and MZERO (06 R113, R121) -/

theorem State.serve_of_refused (hstat : m.cmd ≠ .stat) (hcode : s.refusal cid m ≠ 0) :
    s.serve cid id m = s.endCmd cid id m (s.refusal cid m) 0 := by
  unfold State.serve
  dsimp only
  split
  · next h => exact absurd h hstat
  · rw [if_pos hcode]
  · split
    · next h _ => exact absurd h hcode
    · rfl
  · split
    · next h _ => exact absurd h hcode
    · rfl
  · rw [if_pos hcode]

/-- MSTAT ends with OWNER, and with CODE 2 where another group owns the tile. -/
theorem State.serve_of_stat (h : m.cmd = .stat) : ∃ own < 2 ^ 32, s.serve cid id m = s.endCmd cid id m (s.refusal cid m) own := by
  unfold State.serve
  simp only [h]
  refine ⟨_, ?_, rfl⟩
  split
  · next g _ =>
    have := (s.tileOwner cid).isSome.toNat_le
    show 2 ^ 16 * _ + g % 2 ^ 16 < 2 ^ 32
    omega
  · decide

theorem State.serve_of_zero {int : Bool} (h : m.cmd = .zero int) (hcode : s.refusal cid m = 0) :
    s.serve cid id m = (s.setCore cid { s.core cid with tile := { int := int, owner := m.grp } }).endCmd cid id m 0 0 := by
  unfold State.serve
  simp only [h, hcode]
  rfl

end

/-! #### MLOAD (06 R122) -/

/-- A list of the entries that differ from the value of an unlisted key reads back as the function it was made from. -/
theorem lookup_filterMap_nonzero (f : Nat → Nat) (l : List Nat) (i : Nat) :
    lookup 0 (l.filterMap fun n => if f n = 0 then none else some (n, f n)) i = if i ∈ l then f i else 0 := by
  induction l with
  | nil => rfl
  | cons n l ih =>
    rw [List.filterMap_cons]
    by_cases hz : f n = 0
    · simp only [if_pos hz, ih, List.mem_cons]
      by_cases hi : i = n
      · subst hi; simp [hz]
      · simp [hi]
    · simp only [if_neg hz, lookup, ih, List.mem_cons]
      by_cases hi : n = i
      · subst hi; simp
      · simp [hi, Ne.symm hi]

theorem isNanF32_mod (x : Nat) : isNanF32 (x % 2 ^ 32) = true ↔ 0x7F800000 < x % 2 ^ 31 ∧ x % 2 ^ 32 ≠ 0xFFC00001 := by
  rw [isNanF32, Bool.and_eq_true, decide_eq_true_eq, decide_eq_true_eq, Nat.mod_mod, Nat.mod_mod_of_dvd _ (by decide)]
  rfl

/-- An element as MLOAD stores it: a NaN becomes the default one, the absent code stays (06 R120, R122). -/
theorem loadedElem_eq (int : Bool) (x : Nat) :
    loadedElem int x = if int then x
      else x / 2 ^ 48 * 2 ^ 48 + (if 0x7F800000 < x % 2 ^ 31 ∧ x % 2 ^ 32 ≠ 0xFFC00001 then 0x7FC00000 else x % 2 ^ 32) := by
  simp only [loadedElem, isNanF32_mod]
  rfl

section
variable {s : State} {cid : Nat} {int : Bool} {key st : Nat} {owner : Option Nat}

theorem State.core_mload : ∃ elems bad, (s.mload cid int key st owner).core cid =
    { s.core cid with tile := { elems := elems, bad := bad, int := int, owner := owner } } :=
  ⟨_, _, s.core_setCore cid _⟩

theorem State.elem_mload {i j : Nat} (hi : i < 128) (hj : j < 128) :
    lookup 0 ((s.mload cid int key st owner).core cid).tile.elems (128 * i + j) =
      loadedElem int (s.load (key + i * st + 8 * j) 8) := by
  have hrow : (128 * i + j) / 128 = i := by omega
  have hcol : (128 * i + j) % 128 = j := by omega
  have hmem : 128 * i + j ∈ List.range 16384 := List.mem_range.2 (by omega)
  unfold State.mload
  rw [State.core_setCore]
  dsimp only
  rw [List.filterMap_map]
  refine (lookup_filterMap_nonzero (fun n => loadedElem int (s.load (key + n / 128 * st + 8 * (n % 128)) 8)) _ _).trans ?_
  rw [if_pos hmem, hrow, hcol]

theorem State.serve_of_load {id ad : Nat} {m : Matrix} (h : m.cmd = .load int ad st) (hcode : s.refusal cid m = 0)
    (hreg : matRegion cid ad (127 * st + 1024) = .ok key) :
    s.serve cid id m = (s.mload cid int key st m.grp).endCmd cid id m 0 0 := by
  unfold State.serve
  simp only [h, hcode, hreg]

end

/-! #### Fields packed upward (06 R115, R123) -/

theorem packFields_lt (e : Nat) (l : List Nat) : packFields e l < 2 ^ (e * l.length) := by
  induction l with
  | nil => exact Nat.one_pos
  | cons x l ih =>
    have hx : x % 2 ^ e < 2 ^ e := Nat.mod_lt _ (by positivity)
    rw [packFields, List.length_cons, Nat.mul_succ, Nat.add_comm (e * l.length), Nat.pow_add]
    calc x % 2 ^ e + 2 ^ e * packFields e l < 2 ^ e * (packFields e l + 1) := by rw [Nat.mul_succ]; omega
      _ ≤ 2 ^ e * 2 ^ (e * l.length) := Nat.mul_le_mul_left _ ih

/-- Each field of a packed number is its own list element. -/
theorem packFields_field (e : Nat) (l : List Nat) {j x : Nat} (h : l[j]? = some x) :
    packFields e l / 2 ^ (e * j) % 2 ^ e = x % 2 ^ e := by
  induction l generalizing j with
  | nil => cases h
  | cons y l ih =>
    have hy : y % 2 ^ e < 2 ^ e := Nat.mod_lt _ (by positivity)
    cases j with
    | zero =>
      rw [List.getElem?_cons_zero, Option.some.injEq] at h
      subst h
      rw [packFields, Nat.mul_zero, pow_zero, Nat.div_one, Nat.add_mul_mod_self_left, Nat.mod_mod]
    | succ j =>
      rw [List.getElem?_cons_succ] at h
      rw [Nat.mul_succ, Nat.add_comm (e * j), Nat.pow_add, ← Nat.div_div_eq_div_mul, packFields,
        Nat.add_mul_div_left _ _ (by positivity), Nat.div_eq_of_lt hy, Nat.zero_add, ih h]

/-! #### Whole words that are stored (02 R58) -/

/-- Whole words that are stored read back. -/
theorem State.load_storeAt_words (s : State) {k n : Nat} (x : Nat) (hk : k % 8 = 0) (hn : n % 8 = 0)
    (hshown : ∀ i, i < n → s.hidden (k + i) = false) : (s.storeAt k (toBytes n x)).load k n = x % 2 ^ (8 * n) := by
  rw [← ofBytes_toBytes n x, State.load, State.loadFrom]
  congr 1
  refine List.ext_getElem (by simp) fun i hi hi' => ?_
  have hin : i < n := by simpa using hi
  have hcovers : coversWord k n ((k + i) / 8) = true := by
    simp only [coversWord, Bool.and_eq_true, decide_eq_true_eq]
    omega
  have hstored : readByte (s.storeAt k (toBytes n x)).mem (k + i) = (toBytes n x).getD i 0 :=
    readByte_writeBytes_inside _ _ _ _ _ hi' (by rw [length_toBytes, hshown i hin, hcovers, Bool.not_true, Bool.and_false]; rfl)
  have hhid : (s.storeAt k (toBytes n x)).hidden (k + i) = false := hshown i hin
  simp [hstored, hhid, List.getElem?_eq_getElem hi']

/-- No bound channel descriptor lies in a scratchpad. -/
theorem State.hidden_of_scratchpad (s : State) {k : Nat} (hlo : 2 ^ 51 ≤ k) (hhi : k < 2 ^ 52) : s.hidden k = false := by
  have : isLocalKey k = false := by simp [isLocalKey]; omega
  simp [State.hidden, this]

/-! #### MDRAIN (06 R121, R123) -/

/-- The rows of a drain are stored, from the key `key` on at a stride of `st`. -/
def State.drainRows (s : State) (f : Fmt) (key st : Nat) (rows : List (List Drained)) : State :=
  rows.zipIdx.foldl (fun s p => s.storeAt (key + p.2 * st) (drainRow f (p.1.map (·.code)))) s

theorem State.drainRows_append (s : State) (f : Fmt) (key st : Nat) (rows : List (List Drained)) (row : List Drained) :
    s.drainRows f key st (rows ++ [row]) =
      (s.drainRows f key st rows).storeAt (key + rows.length * st) (drainRow f (row.map (·.code))) := by
  simp only [State.drainRows, List.zipIdx_append, List.foldl_append, List.zipIdx_singleton, List.foldl_cons, List.foldl_nil, Nat.zero_add]

theorem length_drainRow (f : Fmt) (codes : List Nat) : (drainRow f codes).length = 16 * fmtWidth f := by
  rw [drainRow, length_toBytes, rowBytes_eq]

section
variable (s : State) (f : Fmt) (key st : Nat)

/-- The rows change memory and its poison alone. -/
theorem State.drainRows_frame (rows : List (List Drained)) :
    s.drainRows f key st rows = { s with mem := (s.drainRows f key st rows).mem, poison := (s.drainRows f key st rows).poison } := by
  induction rows using List.reverseRecOn with
  | nil => rfl
  | append_singleton rows row ih => rw [s.drainRows_append, ih]; rfl

theorem State.hidden_drainRows (rows : List (List Drained)) (a : Nat) : (s.drainRows f key st rows).hidden a = s.hidden a :=
  State.hidden_of_threads (by rw [s.drainRows_frame]) a

/-- Up to `n + 1` rows lie within `n` strides and one row more. -/
theorem State.writesWithin_drainRows {rows : List (List Drained)} {n : Nat} (hn : rows.length ≤ n + 1) :
    s.WritesWithin (s.drainRows f key st rows) key (n * st + 16 * fmtWidth f) := by
  refine .foldl (fun u p hp => ?_) s
  have hlt := List.snd_lt_of_mem_zipIdx hp
  have hmul : p.2 * st ≤ n * st := Nat.mul_le_mul_right _ (by omega)
  have hstore := u.writesWithin_storeAt (key + p.2 * st) (drainRow f (p.1.map (·.code)))
  rw [length_drainRow] at hstore
  exact hstore.mono (by omega) (by omega)

variable {s f key st} (hkey : key % 8 = 0) (hst : st % 8 = 0) (hrow : 16 * fmtWidth f ≤ st)
include hkey hst hrow

/-- Each row that was stored reads back. -/
theorem State.load_drainRows {rows : List (List Drained)}
    (hshown : ∀ r j, r < rows.length → j < 16 * fmtWidth f → s.hidden (key + r * st + j) = false)
    {i : Nat} {row : List Drained} (hi : rows[i]? = some row) (hlen : row.length = 128) :
    (s.drainRows f key st rows).load (key + i * st) (16 * fmtWidth f) = packFields (fmtWidth f) (row.map (·.code)) := by
  induction rows using List.reverseRecOn with
  | nil => cases hi
  | append_singleton rows last ih =>
    rw [s.drainRows_append]
    have hlt : i < (rows ++ [last]).length := (List.getElem?_eq_some_iff.1 hi).1
    rw [List.length_append, List.length_singleton] at hlt hshown
    rcases Nat.lt_succ_iff_lt_or_eq.1 hlt with hlt | rfl
    · rw [List.getElem?_append_left hlt] at hi
      have hmul : (i + 1) * st ≤ rows.length * st := Nat.mul_le_mul_right _ hlt
      rw [Nat.succ_mul] at hmul
      rw [← ih (fun r j hr => hshown r j (hr.trans (Nat.lt_succ_self _))) hi]
      exact State.load_congr (fun _ _ => rfl) fun j hj => readByte_storeAt_outside _ _ _ _ (.inl (by omega))
    · rw [List.getElem?_concat_length, Option.some.injEq] at hi
      subst hi
      rw [drainRow, rowBytes_eq, State.load_storeAt_words]
      · refine Nat.mod_eq_of_lt ((packFields_lt _ _).trans_le (Nat.pow_le_pow_right (by decide) ?_))
        rw [List.length_map, hlen]
        omega
      · have : rows.length * st % 8 = 0 := by rw [Nat.mul_mod, hst, Nat.mul_zero]
        omega
      · cases f <;> rfl
      · intro j hj
        rw [State.hidden_drainRows]
        exact hshown _ j (Nat.lt_succ_self _) hj

end

/-- The elements of a tile as MDRAIN delivers them, row by row. -/
def Tile.drained (t : Tile) (f : Fmt) (tx : Bool) (mode rm : Nat) (wrap : Bool) : List (List Drained) :=
  (List.range 128).map fun i => (List.range 128).map fun j => drainElem t.int f tx mode rm wrap (lookup 0 t.elems (128 * i + j))

theorem Tile.length_drained (t : Tile) (f : Fmt) (tx : Bool) (mode rm : Nat) (wrap : Bool) :
    (t.drained f tx mode rm wrap).length = 128 := by rw [Tile.drained, List.length_map, List.length_range]

theorem Tile.length_flatten_drained (t : Tile) (f : Fmt) (tx : Bool) (mode rm : Nat) (wrap : Bool) :
    (t.drained f tx mode rm wrap).flatten.length = 16384 := by
  simp [Tile.drained, List.length_flatten, Function.comp_def]

/-- DNX, DOV and N of a drain (06 R121). -/
def drainWord (rows : List (List Drained)) (bad : List Nat) : Nat :=
  2 ^ 37 * (rows.flatten.any (·.nx)).toNat + 2 ^ 36 * (rows.flatten.any (·.ov) || !bad.isEmpty).toNat + rows.flatten.countP (·.absent)

theorem drainWord_lt {rows : List (List Drained)} (h : rows.flatten.length = 16384) (bad : List Nat) :
    drainWord rows bad < 2 ^ 38 := by
  have hcount := List.countP_le_length (p := (·.absent)) (l := rows.flatten)
  have hnx := (rows.flatten.any (·.nx)).toNat_le
  have hov := (rows.flatten.any (·.ov) || !bad.isEmpty).toNat_le
  unfold drainWord
  omega

/-- An element with COUNT 0 is delivered absent, but in COUNT mode (06 R121; 19 R327). -/
theorem drainElem_of_count_zero {int : Bool} {f : Fmt} {tx : Bool} {mode rm : Nat} {wrap : Bool} {e : Nat} (hmode : mode ≠ 2)
    (hcount : e / 2 ^ 48 % 2 ^ 16 = 0) : (drainElem int f tx mode rm wrap e).code = absentCode f := by
  unfold drainElem
  dsimp only
  rw [if_neg hmode, if_pos (show elemCount e = 0 from hcount)]

section
variable {s : State} {cid mode rm key st : Nat} {f : Fmt} {wrap clr tx : Bool} (hbad : (s.core cid).tile.bad = [])
include hbad

/-- A drain of a tile without poison: the rows are stored, and the tile is emptied with CLR alone. -/
theorem State.mdrain_of_clean : s.mdrain cid mode f rm wrap clr tx key st =
    (if clr then (s.drainRows f key st ((s.core cid).tile.drained f tx mode rm wrap)).setCore cid
        { s.core cid with tile := { (s.core cid).tile with elems := [], bad := [] } }
      else s.drainRows f key st ((s.core cid).tile.drained f tx mode rm wrap),
      drainWord ((s.core cid).tile.drained f tx mode rm wrap) []) := by
  unfold State.mdrain
  simp only [hbad, List.foldl_nil]
  rfl

/-- What a drain leaves before its command ends. -/
structure State.TileDrained (s u : State) (cid : Nat) (clr : Bool) (v : State) : Prop where
  frame : v = { u with cores := v.cores }
  queue : (v.core cid).queue = (s.core cid).queue
  kept : clr = false → (v.core cid).tile = (s.core cid).tile
  cleared : clr = true → (v.core cid).tile.elems = [] ∧ (v.core cid).tile.owner = (s.core cid).tile.owner

omit hbad in
theorem State.tileDrained_of_ite {u : State} (hcore : u.core cid = s.core cid) : s.TileDrained u cid clr
    (if clr then u.setCore cid { s.core cid with tile := { (s.core cid).tile with elems := [], bad := [] } } else u) := by
  cases clr
  · exact ⟨rfl, congrArg Core.queue hcore, fun _ => congrArg Core.tile hcore, fun h => by cases h⟩
  · simp only [if_true]
    refine ⟨rfl, ?_, fun h => (by cases h), fun _ => ?_⟩
    · rw [State.core_setCore]
    · rw [State.core_setCore]; exact ⟨rfl, rfl⟩

omit hbad in
theorem State.core_drainRows (rows : List (List Drained)) (c : Nat) : (s.drainRows f key st rows).core c = s.core c := by
  rw [s.drainRows_frame]; rfl

theorem State.mdrain_spec : s.TileDrained (s.drainRows f key st ((s.core cid).tile.drained f tx mode rm wrap)) cid clr
    (s.mdrain cid mode f rm wrap clr tx key st).1 := by
  rw [State.mdrain_of_clean hbad]
  exact State.tileDrained_of_ite (State.core_drainRows _ _)

end

section
variable {s : State} {cid id mode rm ad key st : Nat} {f : Fmt} {wrap clr : Bool} {m : Matrix}

theorem State.serve_of_drain (h : m.cmd = .drain mode f rm wrap clr ad st) (hcode : s.refusal cid m = 0)
    (hreg : matRegion cid ad (127 * st + 16 * fmtWidth f) = .ok key) (hbad : (s.core cid).tile.bad = []) (hlocks : s.locks = []) :
    s.serve cid id m = (s.mdrain cid mode f rm wrap clr m.tx key st).1.endCmd cid id m 0
      (drainWord ((s.core cid).tile.drained f m.tx mode rm wrap) []) := by
  have hspec := State.mdrain_spec (s := s) (cid := cid) (mode := mode) (rm := rm) (key := key) (st := st) (f := f) (wrap := wrap)
    (clr := clr) (tx := m.tx) hbad
  have hnone : (s.mdrain cid mode f rm wrap clr m.tx key st).1.locks = [] := by
    rw [hspec.frame, s.drainRows_frame]
    exact hlocks
  unfold State.serve
  simp only [h, hcode, rowBytes_eq, hreg, State.settleLocks_of_no_locks _ hnone]
  rw [State.mdrain_of_clean hbad]

end

/-! #### Blocks of an MMA (06 R118, R121) -/

/-- A tile of the same kind and owner. -/
def Tile.SameKind (t t' : Tile) : Prop := t'.owner = t.owner ∧ t'.int = t.int

theorem Tile.SameKind.refl (t : Tile) : t.SameKind t := ⟨rfl, rfl⟩
theorem Tile.SameKind.trans {t u v : Tile} (h : t.SameKind u) (h' : u.SameKind v) : t.SameKind v :=
  ⟨h'.1.trans h.1, h'.2.trans h.2⟩
theorem Tile.SameKind.ite {t u v : Tile} {c : Prop} {_ : Decidable c} (h : t.SameKind u) (h' : t.SameKind v) :
    t.SameKind (if c then u else v) := by
  split <;> assumption
theorem Tile.SameKind.foldl {α : Type} {f : Tile → α → Tile} (hf : ∀ (t : Tile) a, t.SameKind (f t a)) (l : List α) (t : Tile) :
    t.SameKind (l.foldl f t) :=
  foldl_keeps Tile.SameKind.refl (fun _ _ _ => Tile.SameKind.trans) f hf l t

/-- Nothing changes but the units and the tile of core `cid`, which stays of its kind and its owner's. -/
structure State.TileWorked (s t : State) (cid : Nat) : Prop where
  frame : t = { s with cores := t.cores, units := t.units }
  others (k : Nat) : k ≠ cid → t.core k = s.core k
  core : ∃ tile, t.core cid = { s.core cid with tile := tile } ∧ (s.core cid).tile.SameKind tile

theorem State.TileWorked.refl (s : State) (cid : Nat) : s.TileWorked s cid := ⟨rfl, fun _ _ => rfl, _, rfl, .refl _⟩

theorem State.tileWorked_setCore (s : State) (cid : Nat) {tile : Tile} (h : (s.core cid).tile.SameKind tile) :
    s.TileWorked (s.setCore cid { s.core cid with tile := tile }) cid :=
  ⟨rfl, fun _ hk => s.core_setCore_of_ne _ hk, tile, s.core_setCore cid _, h⟩

theorem State.tileWorked_mmaBlock (s : State) (cid : Nat) (tx : Bool) (fa fb : Fmt) (a b : Word) (n : Nat) :
    s.TileWorked (s.mmaBlock cid tx fa fb a b n) cid := by
  unfold State.mmaBlock
  split
  · split
    · extract_lets db rowsA colsB badA badB sB sBbad c cell tile
      have hcell : ∀ i j ra cb sA bad (t : Tile), t.SameKind (cell i j ra cb sA bad t) :=
        fun _ _ _ _ _ _ t => .ite (.refl t) ⟨rfl, rfl⟩
      exact s.tileWorked_setCore cid (tile := tile) (.foldl (fun _ _ => .foldl (fun _ _ => hcell ..) _ _) _ _)
    · exact .refl s cid
  · exact .refl s cid

/-- An MMA's block: it is performed, and a unit is up. -/
def State.blockDone (s : State) (cid : Nat) (tx : Bool) (fa fb : Fmt) (a b : Word) (n : Nat) : State :=
  let u := s.mmaBlock cid tx fa fb a b n
  u.setUnit (cid / 8) { u.unit (cid / 8) with up := true, hinted := false }

theorem State.tileWorked_blockDone (s : State) (cid : Nat) (tx : Bool) (fa fb : Fmt) (a b : Word) (n : Nat) :
    s.TileWorked (s.blockDone cid tx fa fb a b n) cid := by
  obtain ⟨hframe, hothers, hcore⟩ := s.tileWorked_mmaBlock cid tx fa fb a b n
  refine ⟨?_, hothers, hcore⟩
  unfold State.blockDone
  generalize s.mmaBlock cid tx fa fb a b n = u at hframe
  rw [hframe]
  rfl

section
variable {s : State} {cid id n : Nat} {m : Matrix} {fa fb : Fmt} {a b : Word} (h : m.cmd = .mma fa fb a b n)
  (hcode : s.refusal cid m = 0)
include h hcode

theorem State.serve_of_last_block (hlast : n ≤ m.done + 1) :
    s.serve cid id m = (s.blockDone cid m.tx fa fb a b m.done).endCmd cid id m 0 n := by
  unfold State.serve
  simp only [h, hcode, ne_eq, not_true, if_false, if_pos hlast]
  rfl

theorem State.serve_of_more_blocks (hmore : m.done + 1 < n) :
    s.serve cid id m =
      let u := s.blockDone cid m.tx fa fb a b m.done
      u.setCore cid { u.core cid with
        queue := (u.core cid).queue.map fun p => if p.1 = id then (id, { m with done := m.done + 1 }) else p } := by
  unfold State.serve
  simp only [h, hcode, ne_eq, not_true, if_false, if_neg (Nat.not_le.2 hmore)]
  rfl

end

/-! #### Integer elements (01 R38; 06 R119) -/

theorem toSigned_emod (n x : Nat) : toSigned n x % 2 ^ n = (x : Int) % 2 ^ n := by
  unfold toSigned
  dsimp only
  split
  · next h => subst h; simp
  split
  · push_cast; exact Int.emod_emod _ _
  · push_cast; rw [Int.sub_emod_right, Int.emod_emod]

theorem toBits_cast (n : Nat) (x : Int) : ((toBits n x : Nat) : Int) = x % 2 ^ n := by
  rw [toBits, Int.toNat_of_nonneg (Int.emod_nonneg _ (by positivity))]
  push_cast
  rfl

theorem toBits_lt (n : Nat) (x : Int) : toBits n x < 2 ^ n := by
  have h := Int.emod_lt_of_pos x (b := 2 ^ n) (by positivity)
  have hcast := toBits_cast n x
  zify
  rw [hcast]
  exact h

/-- A fold that adds a term of each element modulo 2^48 adds their sum. -/
theorem foldl_add_emod {α β : Type} {f : Int × β → α → Int × β} {value : α → Int} {l : List α}
    (hf : ∀ acc, ∀ v ∈ l, (f acc v).1 % 2 ^ 48 = (acc.1 + value v) % 2 ^ 48) (acc : Int × β) :
    (l.foldl f acc).1 % 2 ^ 48 = (acc.1 + (l.map value).sum) % 2 ^ 48 := by
  induction l generalizing acc with
  | nil => simp
  | cons v l ih =>
    rw [List.foldl_cons, ih (fun a w hw => hf a w (List.mem_cons_of_mem _ hw)), List.map_cons, List.sum_cons, Int.add_emod,
      hf acc v List.mem_cons_self, ← Int.add_emod, Int.add_assoc]

/-- The integer that a product of integers stands for. -/
def Val.intTerm : Val → Int
  | .fin neg m e => signedTerm neg (m * 2 ^ e.toNat)
  | _ => 0

/-- One product is added into 48 bits; the flag says whether a sum so far has wrapped. -/
def intAdd (acc : Int × Bool) (v : Val) : Int × Bool :=
  match v with
  | .fin neg m e =>
    let sum := acc.1 + signedTerm neg (m * 2 ^ e.toNat)
    (toSigned 48 (toBits 48 sum), acc.2 || decide (toSigned 48 (toBits 48 sum) ≠ sum))
  | _ => acc

theorem intAdd_emod (acc : Int × Bool) (v : Val) : (intAdd acc v).1 % 2 ^ 48 = (acc.1 + v.intTerm) % 2 ^ 48 := by
  unfold intAdd Val.intTerm
  split
  · rw [toSigned_emod, toBits_cast, Int.emod_emod]
  · rw [Int.add_zero]

section
variable (e : Nat) (ps : List Val)

theorem intElem_eq : (intElem e ps false).1 =
    if ps.length = 0 then e
    else min (elemCount e + ps.length) 65535 * 2 ^ 48 + toBits 48 (ps.foldl intAdd (elemInt e, false)).1 := by
  by_cases h : ps.length = 0
  · rw [if_pos h, List.length_eq_zero_iff.1 h]; rfl
  · rw [if_neg h]
    exact congrArg Prod.fst (if_neg h)

/-- The products of an element are added modulo 2^48. -/
theorem foldl_intAdd_emod (b : Bool) :
    (ps.foldl intAdd (elemInt e, b)).1 % 2 ^ 48 = (((e % 2 ^ 48 : Nat) : Int) + (ps.map Val.intTerm).sum) % 2 ^ 48 := by
  have he : elemInt e % 2 ^ 48 = ((e % 2 ^ 48 : Nat) : Int) % 2 ^ 48 := by
    rw [elemInt, toSigned_emod]
    push_cast
    rw [Int.emod_emod]
  rw [foldl_add_emod (value := Val.intTerm) fun acc v _ => intAdd_emod acc v]
  exact Int.ModEq.add_right _ he

end

/-- An integer element with present products: its COUNT saturates, and its VALUE grows by their sum modulo 2^48 (01 R38; 06 R119). -/
theorem intElem_of_products {e : Nat} {ps : List Val} (hne : ps ≠ []) :
    (intElem e ps false).1 / 2 ^ 48 = min (e / 2 ^ 48 % 2 ^ 16 + ps.length) 65535 ∧
      (((intElem e ps false).1 % 2 ^ 48 : Nat) : Int) = (((e % 2 ^ 48 : Nat) : Int) + (ps.map Val.intTerm).sum) % 2 ^ 48 := by
  have hlt := toBits_lt 48 (ps.foldl intAdd (elemInt e, false)).1
  rw [intElem_eq, if_neg (by rwa [List.length_eq_zero_iff])]
  refine ⟨?_, ?_⟩
  · rw [elemCount]
    omega
  · rw [Nat.mul_add_mod_self_right, Nat.mod_eq_of_lt hlt, toBits_cast, foldl_intAdd_emod]

theorem intElem_nil (e : Nat) : intElem e [] false = (e, {}) := rfl
theorem floatElem_nil (e : Nat) (scale : Int) : floatElem e [] scale false = (e, {}) := rfl

/-! #### MATRIX_COMMAND_COMPLETION (06 R121) -/

section
variable {s : State} {id tid tok : Nat} {w : Word} (hitem : s.item id = some (.matrixDone tid tok w))
include hitem

theorem execMatrixCommandCompletion_of_item :
    execMatrixCommandCompletion id s = .next ((s.dropItem id).landToken tid tok w) := by
  simp only [execMatrixCommandCompletion, hitem]

/-- The token of a thread that has left its slot is discarded (17 R303). -/
theorem execMatrixCommandCompletion_of_vacant (hslot : (s.th tid).slot = .vacant) :
    execMatrixCommandCompletion id s = .next (s.dropItem id) :=
  (execMatrixCommandCompletion_of_item hitem).trans (congrArg _ (if_pos hslot))

end

/-! #### What a drain and a block leave -/

theorem Tile.drained_row (t : Tile) (f : Fmt) (tx : Bool) (mode rm : Nat) (wrap : Bool) {i : Nat} (hi : i < 128) :
    (t.drained f tx mode rm wrap)[i]? =
      some ((List.range 128).map fun j => drainElem t.int f tx mode rm wrap (lookup 0 t.elems (128 * i + j))) := by
  rw [Tile.drained, List.getElem?_map, List.getElem?_range hi, Option.map_some]

section
variable {s : State} {cid : Nat} {f : Fmt} {tx : Bool} {mode rm key st : Nat} {wrap : Bool}
  (hlo : 2 ^ 51 ≤ key) (hhi : key + 127 * st + 16 * fmtWidth f ≤ 2 ^ 52) (hkey : key % 8 = 0) (hst : st % 8 = 0)
  (hrow : 16 * fmtWidth f ≤ st)
include hlo hhi hkey hst hrow

/-- Each element of a drain into a scratchpad reads back from its field of its row. -/
theorem State.field_drainRows {i j : Nat} (hi : i < 128) (hj : j < 128) :
    (s.drainRows f key st ((s.core cid).tile.drained f tx mode rm wrap)).load (key + i * st) (16 * fmtWidth f)
        / 2 ^ (fmtWidth f * j) % 2 ^ fmtWidth f =
      (drainElem (s.core cid).tile.int f tx mode rm wrap (lookup 0 (s.core cid).tile.elems (128 * i + j))).code % 2 ^ fmtWidth f := by
  have hshown (r k : Nat) (hr : r < ((s.core cid).tile.drained f tx mode rm wrap).length) (hk : k < 16 * fmtWidth f) :
      s.hidden (key + r * st + k) = false := by
    rw [Tile.length_drained] at hr
    have hmul : r * st ≤ 127 * st := Nat.mul_le_mul_right _ (by omega)
    exact s.hidden_of_scratchpad (by omega) (by omega)
  rw [State.load_drainRows hkey hst hrow hshown (Tile.drained_row _ _ _ _ _ _ hi) (by simp)]
  refine packFields_field _ _ ?_
  simp only [List.getElem?_map, List.getElem?_range hj, Option.map_some]

end

/-- A drained tile's command ends in a state that reads as the one with the rows stored. -/
theorem State.TileDrained.readsKept_endCmd {s u v : State} {cid : Nat} {clr : Bool} (h : s.TileDrained u cid clr v) (id : Nat) (m : Matrix)
    (code low : Nat) : u.ReadsKept (v.endCmd cid id m code low) := by
  rw [h.frame]
  exact .of_threads rfl rfl rfl

/-- Memory, the threads and the other cores are as before, and so are the kind and the owner of the tile of core `cid`. -/
structure State.KindKept (s t : State) (cid : Nat) : Prop where
  mem : t.mem = s.mem
  threads : t.threads = s.threads
  others (k : Nat) : k ≠ cid → t.core k = s.core k
  kind : (s.core cid).tile.SameKind (t.core cid).tile

theorem State.KindKept.of_onlyUnits {s t u : State} {cid : Nat} (h : s.KindKept t cid) (hu : t.OnlyUnits u) : s.KindKept u cid :=
  ⟨hu.mem.trans h.mem, hu.threads.trans h.threads, fun k hk => (hu.core k).trans (h.others k hk), by rw [hu.core]; exact h.kind⟩

section
variable {s u : State} {cid : Nat} (h : s.TileWorked u cid)
include h

theorem State.TileWorked.kindKept : s.KindKept u cid := by
  obtain ⟨tile, hcore, hkind⟩ := h.core
  exact ⟨by rw [h.frame], by rw [h.frame], h.others, by rw [hcore]; exact hkind⟩

theorem State.TileWorked.kindKept_endCmd (id : Nat) (m : Matrix) (code low : Nat) : s.KindKept (u.endCmd cid id m code low) cid := by
  obtain ⟨hmem, hthreads, hothers, hkind⟩ := h.kindKept
  exact ⟨hmem, hthreads, fun k hk => (State.core_endCmd_of_ne hk).trans (hothers k hk), by rw [State.tile_endCmd]; exact hkind⟩

theorem State.TileWorked.kindKept_requeue (q : List (Nat × Matrix)) : s.KindKept (u.setCore cid { u.core cid with queue := q }) cid := by
  obtain ⟨hmem, hthreads, hothers, hkind⟩ := h.kindKept
  exact ⟨hmem, hthreads, fun k hk => (u.core_setCore_of_ne _ hk).trans (hothers k hk), by rw [State.core_setCore]; exact hkind⟩

theorem State.TileWorked.queue : (u.core cid).queue = (s.core cid).queue := by
  obtain ⟨tile, hcore, -⟩ := h.core
  rw [hcore]

theorem State.TileWorked.flight : u.flight = s.flight := by rw [h.frame]

end

/-! #### The statement -/

/-- Settles O48: a turn of the unit is `State.serve` of the head that it visits, after which only the units change, and each command has its
own equation for `State.serve`; the rows of a drain are a fold of stores, each within its own bytes, an MMA's block is a fold over the tile
that keeps its kind and owner, and an integer element is a fold of additions modulo 2^48. -/
theorem matrixUnit : Obligations.MatrixUnit := by
  unfold Obligations.MatrixUnit
  refine ⟨fun s unit => ⟨rfl, fun h => if_pos h, fun h => if_neg (Bool.eq_false_iff.1 h), execMatrixBlock_of_idle⟩,
    fun s id tid tok w hitem htok => ⟨execMatrixCommandCompletion_of_vacant hitem, fun hslot => ?landed⟩,
    fun s cid m => ?refusals, fun s unit id m rest => ?served, fun e ps hne hps => ?summed,
    fun e scale => ⟨intElem_nil e, floatElem_nil e scale⟩⟩
  case landed =>
    obtain ⟨hreg, hpresent, hpend⟩ := State.holds_landToken (s := s.dropItem id) (w := w) hslot htok
    refine ⟨_, execMatrixCommandCompletion_of_item hitem,
      (State.item_landToken (s := s.dropItem id) hslot id).trans (s.item_dropItem_self id),
      (State.readsKept_landToken (s := s.dropItem id) hslot).mem, hreg, hpresent, hpend, fun u hu => ?_⟩
    rw [State.landToken_of_present (s := s.dropItem id) hslot, State.th_updTh_of_ne _ _ _ _ hu]
    rfl
  case refusals =>
    intro t outside live kind
    have hlive (g : Nat) : live g ↔ s.tileOwner cid = some g := State.tileOwner_eq_some.symm
    refine ⟨State.refusal_of_outside, fun hin ⟨g, hg, hne⟩ => (State.refusal_of_inside hin).1 g ((hlive g).1 hg) hne,
      fun hin hown hkind => ?_, fun hin hown hkind => ?_⟩
    · exact ((State.refusal_of_inside hin).2 fun g hg => hown g ((hlive g).2 hg)).trans (Matrix.kindCode_of_other_kind hkind)
    · exact ((State.refusal_of_inside hin).2 fun g hg => hown g ((hlive g).2 hg)).trans (Matrix.kindCode_of_kind hkind)
  case summed =>
    intro value r
    obtain ⟨hcount, hsum⟩ := intElem_of_products (e := e) hne
    refine ⟨hcount, hsum.trans ?_⟩
    have hvalue : ps.map Val.intTerm = ps.map value := List.map_congr_left fun v _ => by cases v <;> rfl
    rw [hvalue]
  case served =>
    intro u cid c hleft hq ends code
    have hundrained := execMatrixBlock_of_undrained hleft hq
    have hserves := execMatrixBlock_of_serves hleft hq
    refine ⟨fun hreads hd => hundrained (MatCmd.reads_of_mma_or_load hreads) hd, fun hd hcode hstat => ?refused, fun hcmd => ?stat,
      fun int hcmd hcode => ?zero, fun int ad st key hcmd hd hcode hreg => ?load,
      fun mode f rm wrap clr ad st key hcmd hcode hreg hlo hhi hkey hst hrow hbad hlocks _ => ?drain,
      fun fa fb a b n hcmd hn hd hcode => ?mma⟩
    case refused =>
      obtain ⟨t, ht, hu⟩ := hserves fun _ => hd
      rw [State.serve_of_refused hstat hcode] at hu
      have hcode8 : code < 2 ^ 8 := State.refusal_le.trans_lt (by decide)
      exact ⟨t, ht, (State.ends_endCmd hq hcode8 (by decide)).of_onlyUnits hu, by rw [hu.core, State.tile_endCmd], hu.mem, hu.threads⟩
    case stat =>
      obtain ⟨t, ht, hu⟩ := hserves fun hr => by rw [hcmd] at hr; cases hr
      obtain ⟨own, hown, hserve⟩ := State.serve_of_stat (s := s) (cid := cid) (id := id) hcmd
      rw [hserve] at hu
      have hcode8 : code < 2 ^ 8 := State.refusal_le.trans_lt (by decide)
      exact ⟨t, ht, ⟨own, (State.ends_endCmd hq hcode8 hown).of_onlyUnits hu⟩, by rw [hu.core, State.tile_endCmd], hu.mem⟩
    case zero =>
      obtain ⟨t, ht, hu⟩ := hserves fun hr => by rw [hcmd] at hr; cases hr
      rw [State.serve_of_zero hcmd hcode] at hu
      have hcore := s.core_setCore cid { s.core cid with tile := { int := int, owner := m.grp } }
      have hq' := (congrArg Core.queue hcore).trans hq
      exact ⟨t, ht, (State.ends_endCmd hq' (by decide) (by decide)).of_onlyUnits hu, by rw [hu.core, State.tile_endCmd, hcore], hu.mem⟩
    case load =>
      obtain ⟨t, ht, hu⟩ := hserves fun _ => hd
      rw [State.serve_of_load hcmd hcode hreg] at hu
      obtain ⟨elems, bad, hcore⟩ := s.core_mload (cid := cid) (int := int) (key := key) (st := st) (owner := m.grp)
      have hq' := (congrArg Core.queue hcore).trans hq
      refine ⟨t, ht, (State.ends_endCmd hq' (by decide) (by decide)).of_onlyUnits hu, hu.mem, ?_, ?_, fun i j hi hj => ?_⟩
      · rw [hu.core, State.tile_endCmd, hcore]
      · rw [hu.core, State.tile_endCmd, hcore]
      · intro x
        rw [hu.core, State.tile_endCmd, State.elem_mload hi hj, loadedElem_eq]
    case drain =>
      obtain ⟨t, ht, hu⟩ := hserves fun hr => by rw [hcmd] at hr; cases hr
      rw [State.serve_of_drain hcmd hcode hreg hbad hlocks] at hu
      have hlow := drainWord_lt ((s.core cid).tile.length_flatten_drained f m.tx mode rm wrap) []
      have hspec : s.TileDrained (s.drainRows f key st (c.tile.drained f m.tx mode rm wrap)) cid clr _ := State.mdrain_spec hbad
      have hreads := (hspec.readsKept_endCmd id m 0 _).trans (.of_threads hu.mem hu.poison hu.threads)
      have hwithin := s.writesWithin_drainRows f key st (n := 127) (c.tile.length_drained f m.tx mode rm wrap).le
      have htile : (t.core cid).tile = ((s.mdrain cid mode f rm wrap clr m.tx key st).1.core cid).tile := by
        rw [hu.core, State.tile_endCmd]
      refine ⟨t, ht, ⟨_, (State.ends_endCmd_mod (hspec.queue.trans hq) (by decide) hlow).of_onlyUnits hu⟩, fun hclr => ?_,
        fun hclr => ?_, fun a ha => ?_, fun i j hi hj => ?_⟩
      · rw [htile]; exact hspec.kept hclr
      · rw [htile]; exact hspec.cleared hclr
      · rw [hreads.mem, hwithin.mem a (by omega)]
      · intro e got
        have hgot : got = (drainElem c.tile.int f m.tx mode rm wrap e).code % 2 ^ fmtWidth f :=
          (congrArg (fun x => x / 2 ^ (fmtWidth f * j) % 2 ^ fmtWidth f) (hreads.load _ _)).trans
            (State.field_drainRows hlo hhi hkey hst hrow hi hj)
        exact ⟨hgot, fun hmode hcount => by rw [hgot, drainElem_of_count_zero hmode hcount]⟩
    case mma =>
      obtain ⟨t, ht, hu⟩ := hserves fun _ => hd
      have hwork := s.tileWorked_blockDone cid m.tx fa fb a b m.done
      have hq' := hwork.queue.trans hq
      rcases Nat.lt_or_ge (m.done + 1) n with hmore | hlast
      · rw [State.serve_of_more_blocks hcmd hcode hmore] at hu
        obtain ⟨hmem, hthreads, hothers, howner, hint⟩ := (hwork.kindKept_requeue _).of_onlyUnits hu
        refine ⟨t, ht, hmem, hthreads, hothers, howner, hint, fun h => by omega, fun _ => ⟨?_, hu.flight.trans hwork.flight⟩⟩
        rw [hu.core, State.core_setCore, hq', List.map_cons, if_pos rfl]
        exact List.mem_cons_self
      · rw [State.serve_of_last_block hcmd hcode hlast] at hu
        obtain ⟨hmem, hthreads, hothers, howner, hint⟩ := (hwork.kindKept_endCmd id m 0 n).of_onlyUnits hu
        exact ⟨t, ht, hmem, hthreads, hothers, howner, hint,
          fun _ => (State.ends_endCmd hq' (by decide) (by omega)).of_onlyUnits hu, fun h => by omega⟩

end Sys2Proof.Machine

/-! ### Issue of the matrix commands (06 R111, R114, R121, R128; 19 R326 to R331) -/

namespace Sys2Proof.Machine

/-! #### A command enters its core's queue (19 R328; 06 R111, R121) -/

/-- A value that the thread and its copy before the pair agree on is read alike after a change that keeps it. -/
theorem lookup_congr_default {α β : Type} (p : α → β) {d d' : α} (h : p d = p d') (m : List (Nat × α)) (i : Nat) :
    p (lookup d m i) = p (lookup d' m i) := by
  induction m with
  | nil => exact h
  | cons x m ih =>
    obtain ⟨k, v⟩ := x
    simp only [lookup]
    split
    · rfl
    · exact ih

section
variable {s : State} {t : XReg} {cmd : MatCmd}

/-- An open token leaves the issuing thread's group and TX as they were. -/
theorem State.src_openToken (s : State) (t : XReg) : (s.openToken t).src.grp = s.src.grp ∧ (s.openToken t).src.tx = s.src.tx := by
  have hth : (s.openToken t).th (s.openToken t).cur = (s.me.clearPresent t.val).setPend t.val true := s.me_updMe _
  exact ⟨lookup_congr_default Thread.grp (by rw [hth]; rfl) _ _, lookup_congr_default Thread.tx (by rw [hth]; rfl) _ _⟩

/-- The command `cmd` stands last in the queue of its core, and its token awaits its delivery. -/
def State.queued (s : State) (t : XReg) (cmd : MatCmd) : State :=
  { (s.openToken t).setCore s.cid { s.core s.cid with
      queue := (s.core s.cid).queue ++ [(s.serial, ⟨s.cur, t.val, s.src.grp, cmd, s.src.tx, 0⟩)] } with
    serial := s.serial + 1 }

theorem State.enqueue_of_full (ht : s.DstReady (xplace t)) (h : 8 ≤ s.moves s.cur ∨ 4 ≤ (s.core s.cid).queue.length) :
    s.enqueue t cmd = .error (.wait onMemory) := by
  have hgate : allOf [s.tokenGate t, waitIf (decide (4 ≤ (s.core s.cid).queue.length)) onMemory] = .error (.wait onMemory) := by
    rcases Nat.lt_or_ge (s.moves s.cur) 8 with hm | hm
    · rw [State.tokenGate_of_room ht hm, decide_eq_true (h.resolve_left (Nat.not_le.2 hm))]
      rfl
    · rw [State.tokenGate_of_full ht hm]
      cases decide (4 ≤ (s.core s.cid).queue.length) <;> rfl
  rw [State.enqueue, hgate]
  rfl

theorem State.enqueue_of_room (ht : s.DstReady (xplace t)) (hm : s.moves s.cur < 8) (hq : (s.core s.cid).queue.length < 4) :
    s.enqueue t cmd = .ok (s.queued t cmd) := by
  obtain ⟨hgrp, htx⟩ := s.src_openToken t
  rw [State.enqueue, State.tokenGate_of_room ht hm, decide_eq_false (Nat.not_le.2 hq), waitIf_false,
    allOf_ok _ (by simp), except_ok_bind]
  dsimp only
  rw [hgrp, htx]
  rfl

theorem State.queued_spec (s : State) (t : XReg) (cmd : MatCmd) :
    ((s.queued t cmd).core s.cid).queue =
        (s.core s.cid).queue ++ [(s.serial, ⟨s.cur, t.val, s.src.grp, cmd, s.src.tx, 0⟩)] ∧
      (s.queued t cmd).me.present.getLsbD t.val = false ∧ (s.queued t cmd).me.pend.getLsbD t.val = true ∧
      (s.queued t cmd).me.regs = s.me.regs ∧ (s.queued t cmd).mem = s.mem ∧ s.OthersKept (s.queued t cmd) ∧
      ((s.queued t cmd).core s.cid).tile = (s.core s.cid).tile := by
  obtain ⟨hpresent, hpend, hregs, hmem, hothers⟩ := s.openToken_frame t
  have hcore : (s.queued t cmd).core s.cid = _ := (s.openToken t).core_setCore s.cid _
  rw [hcore]
  exact ⟨rfl, hpresent, hpend, hregs, hmem, hothers, rfl⟩

/-- What an instruction of outcome `o` does once its checks have passed: it waits for a move and a place in the queue, and then its command
enters the queue (notes/assumptions/24.md). -/
def State.Enters (s : State) (t : XReg) (cmd : MatCmd) (o : Out) : Prop := s.DstReady (xplace t) →
  (8 ≤ s.moves s.cur ∨ 4 ≤ (s.core s.cid).queue.length → o = .next (s.halted (.wait onMemory))) ∧
  (s.moves s.cur < 8 → (s.core s.cid).queue.length < 4 → ∃ u, o = past u ∧
    (u.core s.cid).queue = (s.core s.cid).queue ++ [(s.serial, ⟨s.cur, t.val, s.src.grp, cmd, s.src.tx, 0⟩)] ∧
    u.me.present.getLsbD t.val = false ∧ u.me.pend.getLsbD t.val = true ∧ u.me.regs = s.me.regs ∧ u.mem = s.mem ∧
    s.OthersKept u ∧ (u.core s.cid).tile = (s.core s.cid).tile)

theorem State.enters_of_issue {o : Out} {f : State → R} (ho : o = s.issue f) (hf : f s = s.enqueue t cmd) : s.Enters t cmd o := fun ht =>
  ⟨fun h => ho.trans (s.issue_error _ _ (hf.trans (State.enqueue_of_full ht h))), fun hm hq =>
    ⟨_, ho.trans (s.issue_ok _ _ (hf.trans (State.enqueue_of_room ht hm hq))), s.queued_spec t cmd⟩⟩

/-- Under a true guard a C-R instruction issues as any other. -/
theorem State.issueC_of_guarded {g : Fin 8} (hg : s.guarded g = true) (f : State → R) : s.issueC g f = s.issue f := if_pos hg

/-! #### MZERO and MSTAT (19 R331) -/

theorem State.plainCmd_of_hob (hhob : isHob s.cid = true) : s.plainCmd t cmd = .error (.trap 0x01 s.iss.word) := by
  simp only [State.plainCmd, State.needUnit, hhob, raiseIf_true, except_error_bind]

theorem State.plainCmd_of_core (hhob : isHob s.cid = false) : s.plainCmd t cmd = s.enqueue t cmd := by
  simp only [State.plainCmd, State.needUnit, hhob, raiseIf_false, except_ok_bind]

/-! #### Ranges (06 R114) -/

theorem State.checkRanges_of_inside {l : List (Nat × Nat)} (h : ∀ r ∈ l, ∃ k, matRegion s.cid r.1 r.2 = .ok k) :
    s.checkRanges l = .ok () := by
  induction l with
  | nil => rfl
  | cons r l ih =>
    obtain ⟨k, hk⟩ := h r List.mem_cons_self
    simp only [State.checkRanges, inRegion, hk, except_ok_bind]
    exact ih fun r' hr' => h r' (List.mem_cons_of_mem _ hr')

theorem State.checkRanges_of_outside {r : Nat × Nat} {l : List (Nat × Nat)} {x : Nat} (h : matRegion s.cid r.1 r.2 = .error x) :
    s.checkRanges (r :: l) = .error (.trap 0x03 (BitVec.ofNat 64 x)) := by
  simp only [State.checkRanges, inRegion, h, except_error_bind]

end

/-! #### MMA (06 R114; 19 R329) -/

section
variable {s : State} (t : XReg) {da db : XReg} (n : Fin 32) {fa fb : Fmt} (hr : s.Ready [xplace da, xplace db] [])
  (ha : s.acquiring s.cur = false)
include hr ha

theorem State.mma_of_hob (hhob : isHob s.cid = true) : s.mma fa fb t da db n = .error (.trap 0x01 s.iss.word) := by
  simp only [State.mma, State.commandReady hr ha, State.needUnit, hhob, raiseIf_true, except_ok_bind, except_error_bind]

variable (hhob : isHob s.cid = false)
include hhob

theorem State.mma_of_malformed (hbad : badDescriptor fa true (s.readX da) = true ∨ badDescriptor fb false (s.readX db) = true) :
    s.mma fa fb t da db n = .error (.trap 0x01 s.iss.word) := by
  simp only [State.mma, State.commandReady hr ha, State.needUnit, hhob, Bool.or_eq_true_iff.2 hbad, raiseIf_false, raiseIf_true,
    except_ok_bind, except_error_bind]

variable (hda : badDescriptor fa true (s.readX da) = false) (hdb : badDescriptor fb false (s.readX db) = false)
include hda hdb

/-- An MMA with sound descriptors goes on to the check of its ranges. -/
theorem State.mma_of_sound : s.mma fa fb t da db n = (do
    s.checkRanges (mmaRanges fa fb (s.readX da) (s.readX db) (n.val + 1))
    s.enqueue t (.mma fa fb (s.readX da) (s.readX db) (n.val + 1))) := by
  simp only [State.mma, State.commandReady hr ha, State.needUnit, hhob, hda, hdb, Bool.or_self, raiseIf_false, except_ok_bind]
  rfl

variable {la lb : Layout} (hla : layout fa = some la)
include hla

theorem State.mma_of_outside {x : Nat} (hx : matRegion s.cid (Fld (s.readX da) 54 34 * 2048) ((n.val + 1) * la.size) = .error x) :
    s.mma fa fb t da db n = .error (.trap 0x03 (BitVec.ofNat 64 x)) := by
  have hranges : ∃ l, mmaRanges fa fb (s.readX da) (s.readX db) (n.val + 1) =
      (Fld (s.readX da) 54 34 * 2048, (n.val + 1) * la.size) :: l := by
    simp only [mmaRanges, hla]
    exact ⟨_, rfl⟩
  obtain ⟨l, hl⟩ := hranges
  rw [State.mma_of_sound t n hr ha hhob hda hdb, hl, State.checkRanges_of_outside hx]
  rfl

theorem State.mma_of_inside (hlb : layout fb = some lb)
    (ha1 : ∃ k, matRegion s.cid (Fld (s.readX da) 54 34 * 2048) ((n.val + 1) * la.size) = .ok k)
    (hb1 : ∃ k, matRegion s.cid (Fld (s.readX db) 54 34 * 2048) ((n.val + 1) * lb.size) = .ok k)
    (ha2 : (s.readX da).getLsbD 55 = true → ∃ k, matRegion s.cid (Fld (s.readX da) 33 8 * 64) (128 * (n.val + 1)) = .ok k)
    (hb2 : (s.readX db).getLsbD 55 = true → ∃ k, matRegion s.cid (Fld (s.readX db) 33 8 * 64) (n.val + 1) = .ok k) :
    s.mma fa fb t da db n = s.enqueue t (.mma fa fb (s.readX da) (s.readX db) (n.val + 1)) := by
  rw [State.mma_of_sound t n hr ha hhob hda hdb, State.checkRanges_of_inside, except_ok_bind]
  intro r hr
  simp only [mmaRanges, hla, hlb, List.mem_append] at hr
  rcases hr with ((hr | hr) | hr) | hr
  · rw [List.mem_singleton.1 hr]; exact ha1
  · split at hr
    · next hscaled => rw [List.mem_singleton.1 hr]; exact ha2 hscaled
    · cases hr
  · rw [List.mem_singleton.1 hr]; exact hb1
  · split at hr
    · next hscaled => rw [List.mem_singleton.1 hr]; exact hb2 hscaled
    · cases hr

end

/-! #### MLOAD and MDRAIN (19 R330) -/

section
variable {s : State} (t : XReg) {ad st : XReg} {cmd : Nat → Nat → MatCmd} (hr : s.Ready [xplace ad, xplace st] [])
  (ha : s.acquiring s.cur = false)
include hr ha

theorem State.rowsCmd_of_hob (hhob : isHob s.cid = true) : s.rowsCmd t ad st cmd = .error (.trap 0x01 s.iss.word) := by
  simp only [State.rowsCmd, State.commandReady hr ha, State.needUnit, hhob, raiseIf_true, except_ok_bind, except_error_bind]

variable (hhob : isHob s.cid = false) {c : MatCmd} (hc : cmd (s.readX ad).toNat (s.readX st).toNat = c)
include hhob hc

theorem State.rowsCmd_of_far_or_narrow (hfar : 2 ^ 32 ≤ (s.readX ad).toNat ∨ (s.readX st).toNat < c.rowLen) :
    s.rowsCmd t ad st cmd = .error (.trap 0x03 (s.readX ad)) := by
  have hbad : (decide (2 ^ 32 ≤ (s.readX ad).toNat) || decide ((s.readX st).toNat < c.rowLen)) = true := by
    rwa [Bool.or_eq_true, decide_eq_true_eq, decide_eq_true_eq]
  simp only [State.rowsCmd, State.commandReady hr ha, State.needUnit, hhob, hc, hbad, raiseIf_false, raiseIf_true, except_ok_bind,
    except_error_bind]

variable (had : (s.readX ad).toNat < 2 ^ 32) (hst : c.rowLen ≤ (s.readX st).toNat)
include had hst

/-- An MLOAD or MDRAIN with a possible address and stride goes on to the check of its range, and then of its alignment. -/
theorem State.rowsCmd_of_near_and_wide : s.rowsCmd t ad st cmd = (do
    s.checkRanges c.ranges
    raiseIf (decide ((s.readX ad).toNat % 8 ≠ 0) || decide ((s.readX st).toNat % 8 ≠ 0)) 0x05 (s.readX ad)
    s.enqueue t c) := by
  simp only [State.rowsCmd, State.commandReady hr ha, State.needUnit, hhob, hc, decide_eq_false (Nat.not_le.2 had),
    decide_eq_false (Nat.not_lt.2 hst), Bool.or_self, raiseIf_false, except_ok_bind]

theorem State.rowsCmd_of_outside {r : Nat × Nat} (hranges : c.ranges = [r]) {x : Nat} (hx : matRegion s.cid r.1 r.2 = .error x) :
    s.rowsCmd t ad st cmd = .error (.trap 0x03 (BitVec.ofNat 64 x)) := by
  rw [State.rowsCmd_of_near_and_wide t hr ha hhob hc had hst, hranges, State.checkRanges_of_outside hx]
  rfl

variable (hin : ∀ r ∈ c.ranges, ∃ k, matRegion s.cid r.1 r.2 = .ok k)
include hin

theorem State.rowsCmd_of_misaligned (hal : (s.readX ad).toNat % 8 ≠ 0 ∨ (s.readX st).toNat % 8 ≠ 0) :
    s.rowsCmd t ad st cmd = .error (.trap 0x05 (s.readX ad)) := by
  have hbad : (decide ((s.readX ad).toNat % 8 ≠ 0) || decide ((s.readX st).toNat % 8 ≠ 0)) = true := by
    rwa [Bool.or_eq_true, decide_eq_true_eq, decide_eq_true_eq]
  rw [State.rowsCmd_of_near_and_wide t hr ha hhob hc had hst, State.checkRanges_of_inside hin, hbad]
  rfl

theorem State.rowsCmd_of_aligned (had8 : (s.readX ad).toNat % 8 = 0) (hst8 : (s.readX st).toNat % 8 = 0) :
    s.rowsCmd t ad st cmd = s.enqueue t c := by
  rw [State.rowsCmd_of_near_and_wide t hr ha hhob hc had hst, State.checkRanges_of_inside hin, decide_eq_false (not_not.2 had8),
    decide_eq_false (not_not.2 hst8)]
  rfl

end

/-! #### MHINT (06 R128; 19 R331) -/

theorem execMhint_of_up {s : State} {imm : BitVec 12} (h : isHob s.cid = true ∨ (s.unit (s.cid / 8)).up = true) :
    execMhint imm s = past s := by
  refine s.issue_ok s _ ?_
  rcases h with h | h
  · rw [if_pos h]; rfl
  · dsimp only
    rw [if_pos h, ite_self]
    rfl

theorem execMhint_of_down {s : State} {imm : BitVec 12} (hhob : isHob s.cid = false) (hup : (s.unit (s.cid / 8)).up = false) :
    execMhint imm s = past (s.setUnit (s.cid / 8) { s.unit (s.cid / 8) with hinted := true }) := by
  refine s.issue_ok _ _ ?_
  dsimp only
  rw [if_neg (Bool.eq_false_iff.1 hhob), if_neg (Bool.eq_false_iff.1 hup)]
  rfl

/-! #### The statement -/

/-- Settles O47: every matrix command ends as `State.plainCmd`, `State.mma` or `State.rowsCmd` does, each of whose checks has its own
equation, and those that pass them all meet `State.enqueue`. -/
theorem matrixCommands : Obligations.MatrixCommands := by
  unfold Obligations.MatrixCommands
  refine ⟨fun s t da db ad st n g mode cls ty rm wrap clr hg hr => ?commands,
    fun s imm => ⟨execMhint_of_up (imm := imm), execMhint_of_down (imm := imm)⟩⟩
  intro c a b na stride mma f drain rows plain all enters
  have hmma : s.Ready [xplace da, xplace db] [] := hr.mono (by simp) (List.Subset.refl _)
  have hrows : s.Ready [xplace ad, xplace st] [] := hr.mono (by simp) (List.Subset.refl _)
  have plain_exec : ∀ p ∈ plain, exec p.1 s = s.issue fun s => s.plainCmd t p.2 := by
    refine List.forall_mem_cons.2 ⟨?_, List.forall_mem_cons.2 ⟨?_, List.forall_mem_singleton.2 ?_⟩⟩
    all_goals exact State.issueC_of_guarded hg (State.plainCmd · t _)
  have mma_exec : ∀ p ∈ mma, exec p.1 s = s.issue fun s => s.mma p.2.1 p.2.2 t da db n := by
    intro p hp
    simp only [mma, List.mem_cons, List.not_mem_nil, or_false] at hp
    rcases hp with rfl | rfl | rfl | rfl | rfl | rfl | rfl | rfl | rfl | rfl | rfl | rfl <;> rfl
  have rows_exec : ∀ p ∈ rows, ∃ cmd : Nat → Nat → MatCmd, (exec p.1 s = s.issue fun s => s.rowsCmd t ad st cmd) ∧
      cmd na.toNat stride.toNat = p.2.1 ∧ p.2.1.rowLen = p.2.2 ∧ p.2.1.ranges = [(na.toNat, 127 * stride.toNat + p.2.2)] := by
    refine List.forall_mem_cons.2 ⟨⟨_, rfl, rfl, rfl, rfl⟩, List.forall_mem_cons.2 ⟨⟨_, rfl, rfl, rfl, rfl⟩,
      List.forall_mem_singleton.2 ⟨_, rfl, rfl, rowBytes_eq f, ?_⟩⟩⟩
    exact congrArg (fun x => [(na.toNat, 127 * stride.toNat + x)]) (rowBytes_eq f)
  refine ⟨fun hhob i hi hacq => ?hob,
    fun hhob => ⟨fun p hp => ?plain, fun hacq => ⟨fun p hp => ⟨?malformed, ?mma⟩, fun p hp => ?rows⟩⟩⟩
  case hob =>
    have hplain (h : i ∈ plain.map (·.1)) : exec i s = .next (s.halted (.trap 0x01 s.iss.word)) := by
      obtain ⟨p, hp, rfl⟩ := List.mem_map.1 h
      exact (plain_exec p hp).trans (s.issue_error _ _ (State.plainCmd_of_hob hhob))
    rcases hacq with h | hacq
    · exact hplain h
    rcases List.mem_append.1 hi with hi | hi
    · rcases List.mem_append.1 hi with hi | hi
      · exact hplain hi
      · obtain ⟨p, hp, rfl⟩ := List.mem_map.1 hi
        exact (mma_exec p hp).trans (s.issue_error _ _ (State.mma_of_hob t n hmma hacq hhob))
    · obtain ⟨p, hp, rfl⟩ := List.mem_map.1 hi
      obtain ⟨cmd, hexec, -⟩ := rows_exec p hp
      exact hexec.trans (s.issue_error _ _ (State.rowsCmd_of_hob t hrows hacq hhob))
  case plain => exact State.enters_of_issue (plain_exec p hp) (State.plainCmd_of_core hhob)
  case malformed =>
    exact fun hbad => (mma_exec p hp).trans (s.issue_error _ _ (State.mma_of_malformed t n hmma hacq hhob hbad))
  case mma =>
    refine fun hda hdb la lb hla hlb => ⟨fun x hx => ?_, fun ha1 hb1 ha2 hb2 => ?_⟩
    · exact (mma_exec p hp).trans (s.issue_error _ _ (State.mma_of_outside t n hmma hacq hhob hda hdb hla hx))
    · exact State.enters_of_issue (mma_exec p hp) (State.mma_of_inside t n hmma hacq hhob hda hdb hla hlb ha1 hb1 ha2 hb2)
  case rows =>
    obtain ⟨cmd, hexec, hcmd, hlen, hranges⟩ := rows_exec p hp
    have hends {e : Stop} (h : s.rowsCmd t ad st cmd = .error e) : exec p.1 s = .next (s.halted e) :=
      hexec.trans (s.issue_error _ _ h)
    rw [← hlen] at hranges ⊢
    refine ⟨fun hfar => hends (State.rowsCmd_of_far_or_narrow t hrows hacq hhob hcmd hfar),
      fun had hst x hx => hends (State.rowsCmd_of_outside t hrows hacq hhob hcmd had hst hranges hx), fun had hst hin => ?_⟩
    have hinside : ∀ r ∈ p.2.1.ranges, ∃ k, matRegion s.cid r.1 r.2 = .ok k := by
      rw [hranges]
      exact List.forall_mem_singleton.2 hin
    exact ⟨fun hal => hends (State.rowsCmd_of_misaligned t hrows hacq hhob hcmd had hst hinside hal), fun had8 hst8 =>
      State.enters_of_issue hexec (State.rowsCmd_of_aligned t hrows hacq hhob hcmd had hst hinside had8 hst8)⟩

end Sys2Proof.Machine

/-! ### Channels: what binding, pushing and popping change (07 R130, R135, R139; 16 R281) -/

namespace Sys2Proof.Machine

/-! #### One handle -/

theorem State.ring_updRing (s : State) (tid q : Nat) (f : Ring → Ring) (u j : Nat) :
    ((s.updRing tid q f).th u).ring j = if u = tid ∧ j = q ∧ q < 8 then f ((s.th tid).ring q) else (s.th u).ring j := by
  rcases eq_or_ne u tid with rfl | h
  · simp [State.updRing, Thread.ring_setRing]
  · simp [State.updRing, State.th_updTh_of_ne _ _ _ _ h, h]

theorem State.ring_updRing_self (s : State) {tid q : Nat} (f : Ring → Ring) (hq : q < 8) :
    ((s.updRing tid q f).th tid).ring q = f ((s.th tid).ring q) := by
  rw [State.ring_updRing, if_pos ⟨rfl, rfl, hq⟩]

theorem State.th_updRing_of_ne (s : State) {tid q u : Nat} (f : Ring → Ring) (h : u ≠ tid) : (s.updRing tid q f).th u = s.th u :=
  s.th_updTh_of_ne tid u _ h

theorem State.ring_updTh (s : State) (tid : Nat) {f : Thread → Thread} (hf : ∀ x, (f x).rings = x.rings) (u j : Nat) :
    ((s.updTh tid f).th u).ring j = (s.th u).ring j := by
  rcases eq_or_ne u tid with rfl | h
  · simp [Thread.ring, hf]
  · rw [State.th_updTh_of_ne _ _ _ _ h]

/-! #### States that differ in their channels alone -/

/-- Everything but the threads' handles and the order stamps is as before. -/
structure State.RingsOnly (s t : State) : Prop where
  rest : t = { s with threads := t.threads, serial := t.serial }
  th : ∀ u, t.th u = { s.th u with rings := (t.th u).rings }

namespace State.RingsOnly
variable {s t u : State}

theorem refl (s : State) : s.RingsOnly s := ⟨rfl, fun _ => rfl⟩

theorem trans (h : s.RingsOnly t) (h' : t.RingsOnly u) : s.RingsOnly u :=
  ⟨by rw [h'.rest, h.rest], fun v => by rw [h'.th, h.th]⟩

theorem mem (h : s.RingsOnly t) : t.mem = s.mem := by rw [h.rest]
theorem cur (h : s.RingsOnly t) : t.cur = s.cur := by rw [h.rest]
theorem flight (h : s.RingsOnly t) : t.flight = s.flight := by rw [h.rest]
theorem sb (h : s.RingsOnly t) (v : Nat) : (t.th v).sb = (s.th v).sb := by rw [h.th]
theorem drain (h : s.RingsOnly t) (v : Nat) : (t.th v).drain = (s.th v).drain := by rw [h.th]

end State.RingsOnly

theorem State.ringsOnly_updRing (s : State) (tid q : Nat) (f : Ring → Ring) : s.RingsOnly (s.updRing tid q f) where
  rest := rfl
  th u := by
    rcases eq_or_ne u tid with rfl | h
    · simp only [State.updRing, State.th_updTh]; rfl
    · rw [State.th_updRing_of_ne _ _ h]

theorem State.ringsOnly_numbered (s : State) : s.RingsOnly s.numbered := ⟨rfl, fun _ => rfl⟩

/-- Nothing of a handle changes but who is current, and the term of a producer. -/
structure State.TermsOnly (s t : State) : Prop where
  rings : s.RingsOnly t
  ring : ∀ u j, let r := (t.th u).ring j
    r = { (s.th u).ring j with cur := r.cur, free := r.free, tail := r.tail, term := r.term }

namespace State.TermsOnly
variable {s t u : State}

theorem refl (s : State) : s.TermsOnly s := ⟨.refl s, fun _ _ => rfl⟩

theorem trans (h : s.TermsOnly t) (h' : t.TermsOnly u) : s.TermsOnly u :=
  ⟨h.rings.trans h'.rings, fun v j => by dsimp only; rw [h'.ring, h.ring]⟩

theorem filled (h : s.TermsOnly t) (v j : Nat) : ((t.th v).ring j).filled = ((s.th v).ring j).filled := by rw [h.ring]
theorem prods (h : s.TermsOnly t) (v j : Nat) : ((t.th v).ring j).prods = ((s.th v).ring j).prods := by rw [h.ring]
theorem merge (h : s.TermsOnly t) (v j : Nat) : ((t.th v).ring j).merge = ((s.th v).ring j).merge := by rw [h.ring]
theorem cons (h : s.TermsOnly t) (v j : Nat) : ((t.th v).ring j).cons = ((s.th v).ring j).cons := by rw [h.ring]
theorem consQ (h : s.TermsOnly t) (v j : Nat) : ((t.th v).ring j).consQ = ((s.th v).ring j).consQ := by rw [h.ring]

end State.TermsOnly

theorem State.termsOnly_updRing (s : State) (tid q : Nat) {f : Ring → Ring}
    (hf : ∀ r, f r = { r with cur := (f r).cur, free := (f r).free, tail := (f r).tail, term := (f r).term }) :
    s.TermsOnly (s.updRing tid q f) where
  rings := s.ringsOnly_updRing tid q f
  ring u j := by
    dsimp only
    rw [State.ring_updRing]
    split
    · next h => obtain ⟨rfl, rfl, -⟩ := h; exact hf _
    · rfl

/-! #### The current producer (07 R130, R139) -/

section
variable (s : State) (cons consQ : Nat) (p : Nat × Nat)

theorem State.termsOnly_beginTerm : s.TermsOnly (s.beginTerm cons consQ p) := by
  have hnum : s.TermsOnly s.numbered := ⟨s.ringsOnly_numbered, fun _ _ => rfl⟩
  unfold State.beginTerm
  dsimp only
  exact (hnum.trans (State.termsOnly_updRing _ _ _ (by intro; rfl))).trans (State.termsOnly_updRing _ _ _ (by intro; rfl))

theorem State.termsOnly_makeCurrent : s.TermsOnly (s.makeCurrent cons consQ p) := by
  unfold State.makeCurrent
  dsimp only
  split
  · exact s.termsOnly_beginTerm cons consQ p
  · split
    · exact .refl s
    · split
      · exact s.termsOnly_beginTerm cons consQ _
      · exact s.termsOnly_updRing _ _ (by intro; rfl)

variable {consQ}

theorem State.cur_beginTerm (hq : consQ < 8) : (((s.beginTerm cons consQ p).th cons).ring consQ).cur = some p := by
  unfold State.beginTerm
  dsimp only
  rw [State.ring_updRing]
  split
  · next h =>
    obtain ⟨h1, h2, -⟩ := h
    rw [← h1, ← h2, State.ring_updRing_self _ _ hq]
  · rw [State.ring_updRing_self _ _ hq]

/-- A producer that is bound to the channel becomes its current one. -/
theorem State.cur_makeCurrent (hq : consQ < 8) (hp : p ∈ ((s.th cons).ring consQ).prods) :
    (((s.makeCurrent cons consQ p).th cons).ring consQ).cur = some p := by
  simp only [State.makeCurrent, List.contains_iff_mem.2 hp, if_true, s.cur_beginTerm cons p hq]

end

theorem State.ringsOnly_leaveChannel (s : State) (tid q : Nat) : s.RingsOnly (s.leaveChannel tid q) := by
  unfold State.leaveChannel
  dsimp only
  split
  · exact .refl s
  · split
    · exact (s.ringsOnly_updRing _ _ _).trans (State.termsOnly_makeCurrent _ _ _ _).rings
    · exact s.ringsOnly_updRing _ _ _

theorem State.ringsOnly_unbind (s : State) (tid q : Nat) : s.RingsOnly (s.unbind tid q) := by
  unfold State.unbind
  dsimp only
  split
  · exact (s.ringsOnly_leaveChannel tid q).trans (State.ringsOnly_updRing _ _ _ _)
  · exact s.ringsOnly_updRing _ _ _

theorem State.ringsOnly_unbindAll (s : State) (tid : Nat) : s.RingsOnly (s.unbindAll tid) :=
  foldl_keeps State.RingsOnly.refl (fun _ _ _ => State.RingsOnly.trans) _ (fun s q => s.ringsOnly_unbind tid q) _ s

/-! #### Popping and pushing (16 R281) -/

/-- A channel after the pop of `k` slots, before the credit that returns them. -/
def State.popped (s : State) (tid q k : Nat) : State :=
  s.updRing tid q fun r => { r with head := (r.head + k) % r.cap, filled := r.filled - k }

/-- A pop sends nothing off, or one credit. -/
theorem State.popRing_cases (s : State) (tid q k : Nat) :
    s.popRing tid q k = s.popped tid q k ∨ ∃ x, s.popRing tid q k = (s.popped tid q k).post x := by
  unfold State.popRing
  dsimp only
  split
  · split
    · exact .inr ⟨_, rfl⟩
    · exact .inl rfl
  · exact .inl rfl

/-- What a pop leaves as it was: all but its handle and what is in flight with a later stamp. -/
theorem State.popRing_frame (s : State) (tid q k : Nat) :
    (s.popRing tid q k).mem = s.mem ∧ (s.popRing tid q k).cur = s.cur ∧ (s.popRing tid q k).threads = (s.popped tid q k).threads ∧
      ∀ n < s.serial, (s.popRing tid q k).item n = s.item n := by
  rcases s.popRing_cases tid q k with h | ⟨x, h⟩
  · rw [h]; exact ⟨rfl, rfl, rfl, fun _ _ => rfl⟩
  · rw [h]
    exact ⟨rfl, rfl, rfl, fun n hn => ((s.popped tid q k).item_post x n).trans (if_neg (Nat.ne_of_lt hn))⟩

theorem State.th_popRing (s : State) (tid q k u : Nat) : (s.popRing tid q k).th u = (s.popped tid q k).th u := by
  obtain ⟨-, -, hthreads, -⟩ := s.popRing_frame tid q k
  rw [State.th, State.th, hthreads]

/-- The entry of the store buffer that carries a slot to the channel of handle `q`. -/
def State.pushEntry (s : State) (tid q : Nat) (x : Staged) : StoreEntry :=
  let r := (s.th tid).ring q
  { id := s.serial, ea := 0, far := false, release := false, kind := .push q r.cons r.consQ r.consBound x }

/-- A push of one slot: its entry joins the store buffer, and TAIL and the free count move on. -/
theorem State.pushOut_one (s : State) (tid q : Nat) (x : Staged) :
    s.pushOut tid q [x] = (s.numbered.updTh tid fun t => { t with sb := t.sb ++ [s.pushEntry tid q x] }).updRing tid q fun r =>
      { r with tail := (r.tail + 1) % r.cap, free := r.free - 1, staged := [] } := rfl

theorem State.pushOut_frame (s : State) (tid q : Nat) (x : Staged) : (s.pushOut tid q [x]).mem = s.mem ∧
    (s.pushOut tid q [x]).cur = s.cur ∧ ∀ n, (s.pushOut tid q [x]).item n = s.item n := by
  rw [State.pushOut_one]
  exact ⟨rfl, rfl, fun _ => rfl⟩

theorem State.sb_pushOut (s : State) (tid q : Nat) (x : Staged) :
    ((s.pushOut tid q [x]).th tid).sb = (s.th tid).sb ++ [s.pushEntry tid q x] := by
  rw [State.pushOut_one, (State.ringsOnly_updRing _ _ _ _).sb, State.th_updTh]
  rfl

theorem State.th_pushOut_of_ne (s : State) {tid q u : Nat} (x : Staged) (h : u ≠ tid) : (s.pushOut tid q [x]).th u = s.th u := by
  rw [State.pushOut_one, State.th_updRing_of_ne _ _ h, State.th_updTh_of_ne _ _ _ _ h]
  rfl

theorem State.ring_pushOut (s : State) (tid q : Nat) (x : Staged) (u j : Nat) : ((s.pushOut tid q [x]).th u).ring j =
    if u = tid ∧ j = q ∧ q < 8 then
      { (s.th tid).ring q with tail := (((s.th tid).ring q).tail + 1) % ((s.th tid).ring q).cap, free := ((s.th tid).ring q).free - 1,
                               staged := [] }
    else (s.th u).ring j := by
  have hr (u j : Nat) : ((s.numbered.updTh tid fun t => { t with sb := t.sb ++ [s.pushEntry tid q x] }).th u).ring j = (s.th u).ring j :=
    s.numbered.ring_updTh tid (by intro; rfl) u j
  rw [State.pushOut_one, State.ring_updRing, hr, hr]

/-! #### The head of q0 goes to q1 (07 R135) -/

/-- The slot at the head of q0 leaves it and is in the store buffer, on its way to the consumer of q1. -/
theorem State.forwardHead_spec (s : State) (tid : Nat) : let t := s.forwardHead tid
    t.mem = s.mem ∧ t.cur = s.cur ∧ (∀ n < s.serial, t.item n = s.item n) ∧
      ((t.th tid).ring 0).filled = ((s.th tid).ring 0).filled - 1 ∧
      ∃ e, (t.th tid).sb = (s.th tid).sb ++ [e] ∧ e.kind = .push 1 ((s.th tid).ring 1).cons ((s.th tid).ring 1).consQ
        ((s.th tid).ring 1).consBound (s.headSlot ((s.th tid).ring 0)) := by
  intro t
  have ht : t = (s.popRing tid 0 1).pushOut tid 1 [s.headSlot ((s.th tid).ring 0)] := rfl
  obtain ⟨hmem, hcur, -, hitem⟩ := s.popRing_frame tid 0 1
  obtain ⟨hpmem, hpcur, hpitem⟩ := (s.popRing tid 0 1).pushOut_frame tid 1 (s.headSlot ((s.th tid).ring 0))
  have hring (j : Nat) : (((s.popRing tid 0 1).th tid).ring j) = ((s.popped tid 0 1).th tid).ring j := by rw [State.th_popRing]
  have hq1 : ((s.popRing tid 0 1).th tid).ring 1 = (s.th tid).ring 1 := by
    rw [hring, State.popped, State.ring_updRing, if_neg (by simp)]
  rw [ht]
  refine ⟨hpmem.trans hmem, hpcur.trans hcur, fun n hn => (hpitem n).trans (hitem n hn), ?_,
    (s.popRing tid 0 1).pushEntry tid 1 (s.headSlot ((s.th tid).ring 0)), ?_, ?_⟩
  · rw [State.ring_pushOut, if_neg (by simp), hring, State.popped, State.ring_updRing_self _ _ (by simp)]
  · rw [State.sb_pushOut, State.th_popRing, State.popped, (State.ringsOnly_updRing _ _ _ _).sb]
  · simp only [State.pushEntry, hq1]

end Sys2Proof.Machine

/-! ### A splice commits (07 R138) -/

namespace Sys2Proof.Machine

/-! #### What every part of a commit keeps -/

/-- Memory, the store buffers and what each channel holds are as before: a commit only binds handles anew. -/
structure State.RecordsKept (s t : State) : Prop where
  mem : t.mem = s.mem
  cur : t.cur = s.cur
  sb : ∀ u, (t.th u).sb = (s.th u).sb
  filled : ∀ u j, ((t.th u).ring j).filled = ((s.th u).ring j).filled

namespace State.RecordsKept
variable {s t u : State}

theorem refl (s : State) : s.RecordsKept s := ⟨rfl, rfl, fun _ => rfl, fun _ _ => rfl⟩

theorem trans (h : s.RecordsKept t) (h' : t.RecordsKept u) : s.RecordsKept u :=
  ⟨h'.mem.trans h.mem, h'.cur.trans h.cur, fun v => (h'.sb v).trans (h.sb v), fun v j => (h'.filled v j).trans (h.filled v j)⟩

theorem ofTerms (h : s.TermsOnly t) : s.RecordsKept t := ⟨h.rings.mem, h.rings.cur, h.rings.sb, h.filled⟩

end State.RecordsKept

theorem State.recordsKept_updRing (s : State) (tid q : Nat) {f : Ring → Ring} (hf : ∀ r, (f r).filled = r.filled) :
    s.RecordsKept (s.updRing tid q f) where
  mem := rfl
  cur := rfl
  sb := (s.ringsOnly_updRing tid q f).sb
  filled u j := by
    rw [State.ring_updRing]
    split
    · next h => obtain ⟨rfl, rfl, -⟩ := h; exact hf _
    · rfl

theorem State.recordsKept_updTh (s : State) (tid : Nat) {f : Thread → Thread} (hsb : ∀ x, (f x).sb = x.sb)
    (hr : ∀ x, (f x).rings = x.rings) : s.RecordsKept (s.updTh tid f) where
  mem := rfl
  cur := rfl
  sb u := by
    rcases eq_or_ne u tid with rfl | h
    · rw [State.th_updTh, hsb]
    · rw [State.th_updTh_of_ne _ _ _ _ h]
  filled u j := by rw [State.ring_updTh _ _ hr]

/-! #### The parts of a commit -/

/-- A handle no longer feeds a channel. -/
def State.unfed (s : State) (cons consQ : Nat) (p : Nat × Nat) : State :=
  s.updRing cons consQ fun x => { x with prods := x.prods.filter fun q => decide (q ≠ p) }

/-- A channel awaits a SEAM. -/
def State.merging (s : State) (cons consQ : Nat) (g : Merge) : State := s.updRing cons consQ fun x => { x with merge := some g }

/-- The q1 of a stage is bound to a channel, as a producer that has no term yet. -/
def State.q1To (s : State) (me cons consQ : Nat) : State :=
  (s.updRing me 1 fun x =>
    { x with cons := cons, consQ := consQ, tail := 0, staged := [], free := 0, consBound := ((s.th cons).ring consQ).bound,
             term := 0 }).updRing
    cons consQ fun x => { x with prods := x.prods ++ [(me, 1)] }

/-- The q1 of a stage is bound to the q0 of a new stage, whose producer becomes current. -/
def State.bindStage (s : State) (me x : Nat) : State := (s.q1To me x 0).makeCurrent x 0 (me, 1)

section
variable (s : State) (me cons : Nat) {consQ : Nat}

theorem State.recordsKept_q1To : s.RecordsKept (s.q1To me cons consQ) :=
  (s.recordsKept_updRing me 1 (by intro; rfl)).trans (State.recordsKept_updRing _ _ _ (by intro; rfl))

theorem State.drain_q1To (u : Nat) : ((s.q1To me cons consQ).th u).drain = (s.th u).drain := by
  rw [State.q1To, (State.ringsOnly_updRing ..).drain, (State.ringsOnly_updRing ..).drain]

theorem State.q1_q1To : (((s.q1To me cons consQ).th me).ring 1).cons = cons ∧ (((s.q1To me cons consQ).th me).ring 1).consQ = consQ := by
  rw [State.q1To, State.ring_updRing]
  split
  · next h =>
    obtain ⟨rfl, rfl, -⟩ := h
    rw [State.ring_updRing_self _ _ (by simp)]
    exact ⟨rfl, rfl⟩
  · rw [State.ring_updRing_self _ _ (by simp)]
    exact ⟨rfl, rfl⟩

theorem State.mem_prods_q1To (hq : consQ < 8) : (me, 1) ∈ (((s.q1To me cons consQ).th cons).ring consQ).prods := by
  rw [State.q1To, State.ring_updRing_self _ _ hq]
  exact List.mem_append_right _ (List.mem_singleton.2 rfl)

/-- A handle other than q1 of the stage gains the stage as a producer, where it is the one that q1 feeds, and is otherwise as before. -/
theorem State.ring_q1To {u j : Nat} (h : ¬(u = me ∧ j = 1)) : ((s.q1To me cons consQ).th u).ring j =
    if u = cons ∧ j = consQ ∧ consQ < 8 then { (s.th cons).ring consQ with prods := ((s.th cons).ring consQ).prods ++ [(me, 1)] }
    else (s.th u).ring j := by
  rw [State.q1To, State.ring_updRing]
  split
  · next hc =>
    obtain ⟨rfl, rfl, -⟩ := hc
    rw [State.ring_updRing, if_neg fun ⟨hu, hj, _⟩ => h ⟨hu, hj⟩]
  · rw [State.ring_updRing, if_neg fun ⟨hu, hj, _⟩ => h ⟨hu, hj⟩]

end

section
variable (s : State) (me x : Nat)

theorem State.recordsKept_bindStage : s.RecordsKept (s.bindStage me x) :=
  (s.recordsKept_q1To me x).trans (.ofTerms (State.termsOnly_makeCurrent ..))

theorem State.drain_bindStage (u : Nat) : ((s.bindStage me x).th u).drain = (s.th u).drain := by
  rw [State.bindStage, (State.termsOnly_makeCurrent ..).rings.drain, State.drain_q1To]

theorem State.q1_bindStage : (((s.bindStage me x).th me).ring 1).cons = x ∧ (((s.bindStage me x).th me).ring 1).consQ = 0 := by
  rw [State.bindStage, (State.termsOnly_makeCurrent ..).cons, (State.termsOnly_makeCurrent ..).consQ]
  exact s.q1_q1To me x

theorem State.cur_bindStage : (((s.bindStage me x).th x).ring 0).cur = some (me, 1) :=
  State.cur_makeCurrent _ _ _ (by simp) (s.mem_prods_q1To me x (by simp))

variable {me x}

theorem State.prods_bindStage_self (h : x ≠ me) :
    (((s.bindStage me x).th x).ring 0).prods = ((s.th x).ring 0).prods ++ [(me, 1)] := by
  rw [State.bindStage, (State.termsOnly_makeCurrent ..).prods, State.ring_q1To _ _ _ (by simp [h]), if_pos ⟨rfl, rfl, by simp⟩]

/-- The channels of the other threads are as before, but for q0 of the new stage. -/
theorem State.bindStage_frame {u j : Nat} (hme : u ≠ me) (hx : ¬(u = x ∧ j = 0)) :
    (((s.bindStage me x).th u).ring j).prods = ((s.th u).ring j).prods ∧
      (((s.bindStage me x).th u).ring j).merge = ((s.th u).ring j).merge := by
  have hring : ((s.q1To me x 0).th u).ring j = (s.th u).ring j := by
    rw [State.ring_q1To _ _ _ (fun h => hme h.1), if_neg (fun h => hx ⟨h.1, h.2.1⟩)]
  rw [State.bindStage, (State.termsOnly_makeCurrent ..).prods, (State.termsOnly_makeCurrent ..).merge, hring]
  exact ⟨rfl, rfl⟩

end

/-! #### The three commits -/

section
variable (s : State) (c : Control)

/-- The downstream neighbour of the issuing stage (07 R129). -/
abbrev State.neighbour : Nat := (s.me.ring 1).cons

/-- The handle that leads on from the downstream neighbour. -/
abbrev State.neighbourQ1 : Ring := (s.th s.neighbour).ring 1

/-- The SEAM copy of the record is in the store buffer, on its way along the old path. -/
def State.seamed : State := s.pushOut s.cur 1 [(c.as 1 0).slot s.cur]

/-- The merge that a commit leaves pending, with the thread of the new producer. -/
def Control.merge (new : Nat) : Merge := ⟨c.snum, c.orig, new, 1⟩

/-- The outgoing stage no longer has the commit stage as its producer, and drains. -/
def State.draining (y yQ : Nat) : State :=
  (s.unfed y yQ (s.cur, 1)).updTh y fun t => { t with drain := some { snum := c.snum, orig := c.orig, inh := c.inh, x := c.newThr } }

/-- The new stage waits for its inheritance, which has been taken (07 R142). -/
def State.heirCopying (x : Nat) (state : Arriving) : State := s.updTh x fun t => { t with inheriting := true, arriving := some state }

/-- The new stage waits for its inheritance, which follows the end of the outgoing stage (07 R142). -/
def State.heirAwaiting (x : Nat) : State := s.updTh x fun t => { t with inheriting := true }

variable {s c}

theorem State.commitSplice_of_insert (h : c.op = 0) : s.commitSplice c =
    let r := s.me.ring 1
    let v := (((s.seamed c).unfed r.cons r.consQ (s.cur, 1)).merging r.cons r.consQ (c.merge c.newThr)).bindStage s.cur c.newThr
    if c.inh = 1 then v.heirCopying c.newThr (v.stageState s.cur) else v := by
  simp only [State.commitSplice, h, if_true]
  rfl

theorem State.commitSplice_of_remove (h : c.op = 1) : s.commitSplice c =
    let r := s.me.ring 1
    let yq := ((s.seamed c).th r.cons).ring 1
    (((s.seamed c).draining c r.cons r.consQ).merging yq.cons yq.consQ (c.merge s.cur)).q1To s.cur yq.cons yq.consQ := by
  simp only [State.commitSplice, h, if_true]
  rfl

theorem State.commitSplice_of_rebind (h0 : c.op ≠ 0) (h1 : c.op ≠ 1) : s.commitSplice c =
    let r := s.me.ring 1
    let yq := ((s.seamed c).th r.cons).ring 1
    let v := (((s.seamed c).draining c r.cons r.consQ).merging yq.cons yq.consQ (c.merge c.newThr)).bindStage s.cur c.newThr
    if c.inh = 0 then v else v.heirAwaiting c.newThr := by
  simp only [State.commitSplice, h0, h1, if_false]
  rfl

theorem State.recordsKept_unfed (s : State) (cons consQ : Nat) (p : Nat × Nat) : s.RecordsKept (s.unfed cons consQ p) :=
  s.recordsKept_updRing _ _ (by intro; rfl)

theorem State.recordsKept_merging (s : State) (cons consQ : Nat) (g : Merge) : s.RecordsKept (s.merging cons consQ g) :=
  s.recordsKept_updRing _ _ (by intro; rfl)

theorem State.recordsKept_draining (s : State) (c : Control) (y yQ : Nat) : s.RecordsKept (s.draining c y yQ) :=
  (s.recordsKept_unfed ..).trans (State.recordsKept_updTh _ _ (by intro; rfl) (by intro; rfl))

/-- Beside the SEAM that it pushes, a commit changes no memory, no store buffer and no record that a channel holds. -/
theorem State.recordsKept_commitSplice (s : State) (c : Control) : (s.seamed c).RecordsKept (s.commitSplice c) := by
  by_cases h0 : c.op = 0
  · rw [State.commitSplice_of_insert h0]
    dsimp only
    have hbound := ((State.recordsKept_unfed (s.seamed c) s.neighbour (s.me.ring 1).consQ (s.cur, 1)).trans
      (State.recordsKept_merging _ s.neighbour (s.me.ring 1).consQ (c.merge c.newThr))).trans
        (State.recordsKept_bindStage _ s.cur c.newThr)
    split
    · exact hbound.trans (State.recordsKept_updTh _ _ (by intro; rfl) (by intro; rfl))
    · exact hbound
  · have hdrain (p : Nat × Nat) (new : Nat) :=
      (State.recordsKept_draining (s.seamed c) c s.neighbour (s.me.ring 1).consQ).trans
        (State.recordsKept_merging _ p.1 p.2 (c.merge new))
    by_cases h1 : c.op = 1
    · rw [State.commitSplice_of_remove h1]
      exact (hdrain (_, _) _).trans (State.recordsKept_q1To ..)
    · rw [State.commitSplice_of_rebind h0 h1]
      dsimp only
      split
      · exact (hdrain (_, _) _).trans (State.recordsKept_bindStage ..)
      · exact ((hdrain (_, _) _).trans (State.recordsKept_bindStage ..)).trans
          (State.recordsKept_updTh _ _ (by intro; rfl) (by intro; rfl))

@[simp] theorem State.cur_seamed (s : State) (c : Control) : (s.seamed c).cur = s.cur := rfl

theorem State.th_seamed_of_ne (s : State) (c : Control) {u : Nat} (h : u ≠ s.cur) : (s.seamed c).th u = s.th u :=
  s.th_pushOut_of_ne _ h

/-- INSERT-AFTER: q1 feeds the new stage, whose only and current producer it is; the old consumer awaits the SEAM, and the commit stage
feeds it no longer. -/
theorem State.commitSplice_insert_spec (hop : c.op = 0) (hq : (s.me.ring 1).consQ < 8) (hx : c.newThr ≠ s.cur)
    (hy : s.neighbour ≠ s.cur) (hxy : c.newThr ≠ s.neighbour) (hprods : ((s.th c.newThr).ring 0).prods = []) :
    let t := s.commitSplice c
    let old := (t.th s.neighbour).ring (s.me.ring 1).consQ
    ((t.th s.cur).ring 1).cons = c.newThr ∧ ((t.th s.cur).ring 1).consQ = 0 ∧ ((t.th c.newThr).ring 0).prods = [(s.cur, 1)] ∧
      ((t.th c.newThr).ring 0).cur = some (s.cur, 1) ∧ (s.cur, 1) ∉ old.prods ∧ old.merge = some (c.merge c.newThr) ∧
      (c.inh = 1 → (t.th c.newThr).inheriting = true) := by
  let w := ((s.seamed c).unfed s.neighbour (s.me.ring 1).consQ (s.cur, 1)).merging s.neighbour (s.me.ring 1).consQ
    (c.merge c.newThr)
  let v := w.bindStage s.cur c.newThr
  have hcommit : s.commitSplice c = if c.inh = 1 then v.heirCopying c.newThr (v.stageState s.cur) else v :=
    State.commitSplice_of_insert hop
  have hring (u j : Nat) : ((s.commitSplice c).th u).ring j = (v.th u).ring j := by
    rw [hcommit]
    split
    · exact v.ring_updTh _ (by intro; rfl) u j
    · rfl
  have hold : (w.th s.neighbour).ring (s.me.ring 1).consQ =
      { (s.th s.neighbour).ring (s.me.ring 1).consQ with
        prods := ((s.th s.neighbour).ring (s.me.ring 1).consQ).prods.filter fun q => decide (q ≠ (s.cur, 1))
        merge := some (c.merge c.newThr) } := by
    simp only [w, State.merging, State.unfed, State.ring_updRing_self _ _ hq, s.th_seamed_of_ne c hy]
  have hnew : (w.th c.newThr).ring 0 = (s.th c.newThr).ring 0 := by
    simp only [w, State.merging, State.unfed, State.th_updRing_of_ne _ _ hxy, s.th_seamed_of_ne c hx]
  obtain ⟨hcons, hconsQ⟩ := w.q1_bindStage s.cur c.newThr
  obtain ⟨hkeptProds, hkeptMerge⟩ := w.bindStage_frame hy (fun h => hxy h.1.symm : ¬(_ = c.newThr ∧ (s.me.ring 1).consQ = 0))
  dsimp only
  simp only [hring]
  refine ⟨hcons, hconsQ, ?_, w.cur_bindStage s.cur c.newThr, ?_, ?_, fun hinh => ?_⟩
  · rw [w.prods_bindStage_self hx, hnew, hprods, List.nil_append]
  · rw [hkeptProds, hold]
    simp
  · rw [hkeptMerge, hold]
  · rw [hcommit, if_pos hinh, State.heirCopying, State.th_updTh]

section
variable (hq : (s.me.ring 1).consQ < 8)

/-- What REMOVE and REBIND do before q1 is bound anew: the outgoing stage drains, and its consumer awaits the SEAM. -/
def State.outgoing (s : State) (c : Control) (new : Nat) : State :=
  let yq := s.neighbourQ1
  ((s.seamed c).draining c s.neighbour (s.me.ring 1).consQ).merging yq.cons yq.consQ (c.merge new)

include hq in
theorem State.outgoing_spec (new : Nat) (hyq : s.neighbourQ1.cons ≠ s.neighbour)
    (hyqQ : s.neighbourQ1.consQ < 8) : let w := s.outgoing c new
    (s.cur, 1) ∉ ((w.th s.neighbour).ring (s.me.ring 1).consQ).prods ∧
      (w.th s.neighbour).drain = some { snum := c.snum, orig := c.orig, inh := c.inh, x := c.newThr } ∧
      ((w.th s.neighbourQ1.cons).ring s.neighbourQ1.consQ).merge = some (c.merge new) := by
  dsimp only
  have hth : (s.outgoing c new).th s.neighbour =
      ((s.seamed c).draining c s.neighbour (s.me.ring 1).consQ).th s.neighbour :=
    State.th_updRing_of_ne _ _ hyq.symm
  rw [hth]
  refine ⟨?_, ?_, ?_⟩
  · rw [State.draining, State.ring_updTh _ _ (by intro; rfl), State.unfed, State.ring_updRing_self _ _ hq]
    simp
  · rw [State.draining, State.th_updTh]
  · rw [State.outgoing, State.merging, State.ring_updRing_self _ _ hyqQ]

variable (hy : s.neighbour ≠ s.cur)

include hy in
theorem State.q1_seamed : ((s.seamed c).th s.neighbour).ring 1 = s.neighbourQ1 := by
  rw [s.th_seamed_of_ne c hy]

variable (hyq : s.neighbourQ1.cons ≠ s.neighbour)
  (hyqme : s.neighbourQ1.cons ≠ s.cur) (hyqQ : s.neighbourQ1.consQ < 8)
include hq hy hyq hyqme hyqQ

/-- REMOVE: q1 feeds the channel past the outgoing stage as a producer that awaits the SEAM there. -/
theorem State.commitSplice_remove_spec (hop : c.op = 1) :
    let t := s.commitSplice c
    let yq := s.neighbourQ1
    (s.cur, 1) ∉ ((t.th s.neighbour).ring (s.me.ring 1).consQ).prods ∧
      (t.th s.neighbour).drain = some { snum := c.snum, orig := c.orig, inh := c.inh, x := c.newThr } ∧
      ((t.th s.cur).ring 1).cons = yq.cons ∧ ((t.th s.cur).ring 1).consQ = yq.consQ ∧
      (s.cur, 1) ∈ ((t.th yq.cons).ring yq.consQ).prods ∧ ((t.th yq.cons).ring yq.consQ).merge = some (c.merge s.cur) := by
  intro t yq
  have ht : t = (s.outgoing c s.cur).q1To s.cur yq.cons yq.consQ := by
    simp only [t, yq, State.commitSplice_of_remove hop, State.q1_seamed hy, State.outgoing]
  obtain ⟨hprods, hdrain, hmerge⟩ := State.outgoing_spec (c := c) hq s.cur hyq hyqQ
  rw [ht]
  refine ⟨?_, (State.drain_q1To _ _ _ _).trans hdrain, (State.q1_q1To _ _ _).1, (State.q1_q1To _ _ _).2,
    State.mem_prods_q1To _ _ _ hyqQ, ?_⟩
  · rwa [State.ring_q1To _ _ _ (fun h => hy h.1), if_neg (fun h => hyq h.1.symm)]
  · rwa [State.ring_q1To _ _ _ (fun h => hyqme h.1), if_pos ⟨rfl, rfl, hyqQ⟩]

/-- REBIND: q1 feeds the new stage, and the channel past the outgoing stage awaits the SEAM. -/
theorem State.commitSplice_rebind_spec (h0 : c.op ≠ 0) (h1 : c.op ≠ 1)
    (hfresh : ¬(s.neighbour = c.newThr ∧ (s.me.ring 1).consQ = 0)) :
    let t := s.commitSplice c
    let yq := s.neighbourQ1
    (s.cur, 1) ∉ ((t.th s.neighbour).ring (s.me.ring 1).consQ).prods ∧
      (t.th s.neighbour).drain = some { snum := c.snum, orig := c.orig, inh := c.inh, x := c.newThr } ∧
      ((t.th s.cur).ring 1).cons = c.newThr ∧ ((t.th s.cur).ring 1).consQ = 0 ∧
      ((t.th c.newThr).ring 0).cur = some (s.cur, 1) ∧
      (c.newThr ≠ yq.cons → ((t.th yq.cons).ring yq.consQ).merge = some (c.merge c.newThr)) ∧
      (c.inh ≠ 0 → (t.th c.newThr).inheriting = true) := by
  intro t yq
  let v := (s.outgoing c c.newThr).bindStage s.cur c.newThr
  have ht : t = if c.inh = 0 then v else v.heirAwaiting c.newThr := by
    simp only [t, v, State.commitSplice_of_rebind h0 h1, State.q1_seamed hy, State.outgoing]
  have hring (u j : Nat) : (t.th u).ring j = (v.th u).ring j := by
    rw [ht]
    split
    · rfl
    · exact v.ring_updTh _ (by intro; rfl) u j
  have hdrained (u : Nat) : (t.th u).drain = (v.th u).drain := by
    rw [ht]
    split
    · rfl
    · rcases eq_or_ne u c.newThr with rfl | h
      · rw [State.heirAwaiting, State.th_updTh]
      · rw [State.heirAwaiting, State.th_updTh_of_ne _ _ _ _ h]
  obtain ⟨hprods, hdrain, hmerge⟩ := State.outgoing_spec (c := c) hq c.newThr hyq hyqQ
  obtain ⟨hcons, hconsQ⟩ := (s.outgoing c c.newThr).q1_bindStage s.cur c.newThr
  simp only [hring, hdrained]
  refine ⟨?_, (State.drain_bindStage _ _ _ _).trans hdrain, hcons, hconsQ, State.cur_bindStage _ _ _, fun hne => ?_, fun hinh => ?_⟩
  · obtain ⟨hkept, -⟩ := (s.outgoing c c.newThr).bindStage_frame hy hfresh
    exact fun h => hprods (hkept ▸ h)
  · obtain ⟨-, hkept⟩ := (s.outgoing c c.newThr).bindStage_frame hyqme
      (fun h => hne h.1.symm : ¬(yq.cons = c.newThr ∧ yq.consQ = 0))
    exact hkept.trans hmerge
  · rw [ht, if_neg hinh, State.heirAwaiting, State.th_updTh]

end
end
end Sys2Proof.Machine

/-! ### SPLICE, QFWD and QSEAM (07 R132, R135 to R138, R143, R144) -/

namespace Sys2Proof.Machine

/-! #### What holds them back -/

section
variable {s : State} {q : Nat}

@[simp] theorem ringIf_false (q : Nat) : ringIf false q = .ok () := rfl

/-- A channel takes one more push of the thread at once: its consumer lives, a slot is free, and the handle's turn has come. -/
structure State.Pushable (s : State) (q : Nat) : Prop where
  alive : s.consumerEnded (s.src.ring q) = false
  free : 1 ≤ (s.src.ring q).free
  turn : s.mayPush s.cur q = true
  room : s.src.sb.length < 16

theorem State.pushEnded_of_pushable (h : s.Pushable q) : s.pushEnded q = .ok () := by
  simp only [State.pushEnded, h.alive, ringIf, raiseIf_false]

theorem State.pushHeld_of_pushable (hbind : s.binding q = false) (hacq : s.acquiring s.cur = false)
    (h : (s.src.ring q).kind = .out → s.Pushable q) : s.pushHeld q 1 = .ok () := by
  simp only [State.pushHeld, hbind, Bool.false_eq_true, if_false]
  split
  · next hout =>
    obtain ⟨halive, hfree, hturn, hroom⟩ := h hout
    have hgate : s.pushGate 1 = .ok () :=
      allOf_ok _ (by simp [State.acquireGate_of_open hacq, s.bufferRoom_of_le 1 (by omega)])
    have hwait : s.pushWait q 1 = .ok () := by simp [State.pushWait, hturn, Nat.not_lt.2 hfree]
    exact allOf_ok _ (by simp [hgate, hwait])
  · rfl

/-- The head slot of an IN channel can be read at once, as by a plain load. -/
theorem State.headRead_of_open (hopen : s.Open)
    (hread : s.readsNow ((s.src.ring q).slotKey (s.src.ring q).head) (s.src.ring q).size = true)
    (hstore : s.noOlderStore s.cur s.serial [((s.src.ring q).slotKey (s.src.ring q).head, (s.src.ring q).size)] = true) :
    s.headRead q = .ok () := by
  unfold State.headRead
  dsimp only
  split
  · exact allOf_ok _ (by simp [s.accessGate_of_open hopen, hread, hstore])
  · rfl

theorem State.headHeld_of_settled (hinh : s.src.inheriting = false) (hseam : s.seamAtHead (s.src.ring q) = false)
    (hdrain : s.drainAtHead s.src q = false) : s.headHeld q = .ok () :=
  allOf_ok _ (by simp [hinh, hseam, hdrain])

theorem State.popCheck_one (h : ((s.src.ring q).slotBits (s.src.ring q).head).typed = false ∨
    ((s.src.ring q).slotBits (s.src.ring q).head).tx = s.src.tx) : s.popCheck q 1 = .ok () := by
  have htx : s.txOf (.slot q 0) = none := by rcases h with h | h <;> simp [State.txOf, h]
  simp [State.popCheck, htx]

end

/-! #### SPLICE (07 R132) -/

section
variable {s : State} {q op inh snum target newStage : Nat} {rs : List Place} {newThr : Word}

/-- The control record that SPLICE builds. -/
def State.request (s : State) (op inh snum target newStage : Nat) (newThr : Word) : Control :=
  ⟨BitVec.ofNat 64 (op * 2 ^ 58 + inh * 2 ^ 56 + target * 2 ^ 36 + newStage * 2 ^ 24 + snum), Fld newThr 24 0, s.cur, s.src.tx⟩

theorem State.splice_of_pushable (hr : s.Ready rs []) (hthr : Fld newThr 63 25 = 0) (hbind : s.binding q = false)
    (hout : (s.src.ring q).kind = .out) (hsize : 32 ≤ (s.src.ring q).size) (hstaged : (s.src.ring q).staged = [])
    (hacq : s.acquiring s.cur = false) (h : s.Pushable q) : s.splice rs q op inh snum target newStage newThr =
      .ok (s.pushOut s.cur q [(s.request op inh snum target newStage newThr).slot s.cur]) := by
  have hready : allOf [s.waits rs [], s.pushHeld q 1] = .ok () :=
    allOf_ok _ (by simp [s.waits_of_ready _ _ hr, State.pushHeld_of_pushable hbind hacq fun _ => h])
  simp only [State.splice, hready, hthr, hout, hstaged, Nat.not_lt.2 hsize, State.pushEnded_of_pushable h, ne_eq, not_true_eq_false,
    decide_false, List.isEmpty_nil, Bool.not_true, Bool.or_self, raiseIf_false, ringIf_false, except_ok_bind, except_pure]
  rfl

/-- What the push of a slot does to its thread. -/
theorem State.pushOut_spec (s : State) (x : Staged) (hq : q < 8) : let t := s.pushOut s.cur q [x]
    let m := s.me.ring q
    ∃ e, t.me.sb = s.me.sb ++ [e] ∧ (t.me.ring q).free = m.free - 1 ∧ e.kind = .push q m.cons m.consQ m.consBound x := by
  refine ⟨s.pushEntry s.cur q x, s.sb_pushOut s.cur q x, ?_, rfl⟩
  have h := s.ring_pushOut s.cur q x s.cur q
  rw [if_pos ⟨rfl, rfl, hq⟩] at h
  exact congrArg Ring.free h

/-- The words of a request, where its fields fit. -/
theorem State.request_slot_data (hop : op < 4) (hinh : inh < 4) (hsnum : snum < 2 ^ 16) (htarget : target < 2 ^ 12)
    (hnew : newStage < 2 ^ 12) : ((s.request op inh snum target newStage newThr).slot s.cur).data =
      op * 2 ^ 58 + inh * 2 ^ 56 + target * 2 ^ 36 + newStage * 2 ^ 24 + snum + Fld newThr 24 0 * 2 ^ 64 + s.cur * 2 ^ 128 := by
  have hfits : op * 2 ^ 58 + inh * 2 ^ 56 + target * 2 ^ 36 + newStage * 2 ^ 24 + snum < 2 ^ 64 := by omega
  simp only [Control.slot, State.request, BitVec.toNat_ofNat, Nat.mod_eq_of_lt hfits]

end

/-! #### The splice message (07 R144) -/

/-- A message of a stage with the result of its record is on its way to the originator. -/
def State.Told (s : State) (stage : Nat) (c : Control) (result : Nat) : Prop :=
  ∃ n x, s.item n = some (.hardware 0 x) ∧ x.dst = c.orig ∧
    x.words = [BitVec.ofNat 64 (result * 2 ^ 56 + c.op * 2 ^ 54 + c.targetStage * 2 ^ 36 + c.snum), BitVec.ofNat 64 stage]

theorem State.told_of_tellOrigin {s t : State} {c : Control} {result : Nat}
    (h : t.item s.serial = (s.tellOrigin c result).item s.serial) : t.Told s.cur c result :=
  ⟨s.serial, _, h.trans (s.item_post_self _), rfl, rfl⟩

/-! #### The kind of a record -/

theorem Control.w0_ofSlot_slot (c : Control) (sender : Nat) : (Control.ofSlot (c.slot sender)).w0 = c.w0 := by
  apply BitVec.eq_of_toNat_eq
  have := c.w0.isLt
  simp only [Control.ofSlot, Control.slot, BitVec.toNat_ofNat]
  omega

theorem Control.kind_as (c : Control) {kind : Nat} (h : kind < 16) (reason : Nat) : (c.as kind reason).kind = kind := by
  simp only [Control.kind, Control.as, Fld, bits, setBits, BitVec.toNat_ofNat]
  omega

/-! #### A splice that fails (07 R143) -/

section
variable (s : State) (c : Control) (reason : Nat)

/-- The record at the head of q0 rewritten in place as SPLICE-FAILED. -/
def State.failedRecord : State :=
  s.storeAt ((s.me.ring 0).slotKey (s.me.ring 0).head) (toBytes 8 (c.as 2 reason).w0.toNat)

theorem State.failSplice_at_sink : s.failSplice c reason false = (s.failedRecord c reason).tellOrigin c reason := rfl

theorem State.failSplice_on : s.failSplice c reason true = ((s.failedRecord c reason).tellOrigin c reason).forwardHead s.cur := rfl

/-- The failed record goes on through q1, and its originator is told. -/
theorem State.failSplice_on_spec : let t := s.failSplice c reason true
    t.mem = (s.failedRecord c reason).mem ∧ t.cur = s.cur ∧ t.Told s.cur c reason ∧
      ((t.th s.cur).ring 0).filled = (s.me.ring 0).filled - 1 ∧
      ∃ e, (t.th s.cur).sb = s.me.sb ++ [e] ∧ e.kind = .push 1 (s.me.ring 1).cons (s.me.ring 1).consQ (s.me.ring 1).consBound
        ((s.failedRecord c reason).headSlot (s.me.ring 0)) := by
  obtain ⟨hmem, hcur, hitem, hfilled, hsent⟩ := ((s.failedRecord c reason).tellOrigin c reason).forwardHead_spec s.cur
  have hslot (r : Ring) : ((s.failedRecord c reason).tellOrigin c reason).headSlot r = (s.failedRecord c reason).headSlot r := rfl
  rw [hslot] at hsent
  rw [State.failSplice_on]
  exact ⟨hmem, hcur, State.told_of_tellOrigin (s := s.failedRecord c reason) (hitem s.serial (Nat.lt_succ_self _)), hfilled, hsent⟩

end

/-! #### QSEAM (07 R136) -/

/-- The stage is the commit stage of a record. -/
def State.atCommit (s : State) (c : Control) : Bool :=
  if c.op = 0 then decide (s.stageNo = c.targetStage)
  else decide ((s.src.ring 1).kind = .out) && decide (Fld (s.th (s.src.ring 1).cons).sys.stage 11 0 = c.targetStage)

/-- The request that stands at the head of q0. -/
def State.headRecord (s : State) : Control := Control.ofSlot (s.headSlot (s.src.ring 0))

/-- Nothing holds QSEAM back, and a splice request stands at the head of q0. -/
structure State.SeamReady (s : State) (d : XReg) : Prop where
  operands : s.waits [] [xplace d] = .ok ()
  stage : s.stageNo ≠ 0
  bound : (s.src.ring 0).kind = .inn
  filled : 0 < (s.src.ring 0).filled
  read : s.headRead 0 = .ok ()
  held : s.headHeld 0 = .ok ()
  push : s.pushHeld 1 1 = .ok ()
  ended : (s.src.ring 1).kind = .out → s.pushEnded 1 = .ok ()
  mark : (s.headSlot (s.src.ring 0)).bits.mark = true
  request : s.headRecord.kind = 0
  wide : (s.src.ring 1).kind = .out → 32 ≤ (s.src.ring 1).size ∧ (s.src.ring 1).staged = []

/-- What QSEAM does with the request at the head of q0. -/
def State.seamAnswer (s : State) (d : XReg) (c : Control) : R :=
  let out := (s.src.ring 1).kind = .out
  let narrow := decide ((s.src.ring 1).size < (s.src.ring 0).size)
  if !s.atCommit c then
    if out then do
      ringIf narrow 1
      pure ((s.forwardHead s.cur).writeX d 0xFF)
    else pure ((s.failSplice c 1 out).writeX d 1)
  else if s.spliceReason c ≠ 0 then do
    ringIf (out && narrow) 1
    pure ((s.failSplice c (s.spliceReason c) out).writeX d (BitVec.ofNat 64 (s.spliceReason c)))
  else pure ((((s.commitSplice c).popRing s.cur 0 1).tellOrigin c 0).writeX d 0)

section
variable {s : State} {d : XReg} {g : Fin 8}

/-- `State.atCommit` decides R136's condition as QSEAM asks it. -/
theorem State.decide_commitStage (s : State) (c : Control) :
    decide (if c.op = 0 then s.stageNo = c.targetStage
      else (decide ((s.src.ring 1).kind = .out) && decide (Fld (s.th (s.src.ring 1).cons).sys.stage 11 0 = c.targetStage)) = true) =
      s.atCommit c := by
  unfold State.atCommit
  split <;> simp

theorem execQseam_of_ready (hg : s.guarded g = true) (h : s.SeamReady d) {t : State} (ht : s.seamAnswer d s.headRecord = .ok t) :
    exec (.qseam d g) s = past t := by
  rw [exec_qseam, execQseam]
  refine s.issueC_ok t g _ hg ?_
  have hgo : allOf [s.waits [] [xplace d], s.headRead 0, s.headHeld 0,
      waitIf (((s.src.ring 0).kind = .inn || (s.src.ring 0).kind = .loc) && (s.src.ring 0).filled = 0) (s.emptyRing 0),
      s.pushHeld 1 1] = .ok () :=
    allOf_ok _ (by simp [h.operands, h.read, h.held, h.push, Nat.ne_of_gt h.filled])
  have hkind : (Control.ofSlot (s.headSlot (s.src.ring 0))).kind = 0 := h.request
  dsimp only
  rw [hgo]
  simp only [h.bound, h.stage, h.mark, hkind, s.decide_commitStage, except_ok_bind, decide_true, decide_false, Bool.true_or,
    Bool.not_true, Bool.or_self, ringIf_false, ne_eq, not_true_eq_false]
  by_cases hout : (s.src.ring 1).kind = .out
  · obtain ⟨hsize, hstaged⟩ := h.wide hout
    simpa [hout, hstaged, Nat.not_lt.2 hsize, h.ended hout, State.seamAnswer, State.headRecord] using ht
  · simpa [hout, State.seamAnswer, State.headRecord] using ht

variable {c : Control}

theorem State.seamAnswer_of_elsewhere (hat : s.atCommit c = false) (hout : (s.src.ring 1).kind = .out)
    (hsize : (s.src.ring 0).size ≤ (s.src.ring 1).size) : s.seamAnswer d c = .ok ((s.forwardHead s.cur).writeX d 0xFF) := by
  simp [State.seamAnswer, hat, hout, Nat.not_lt.2 hsize]

theorem State.seamAnswer_of_no_stage (hat : s.atCommit c = false) (hout : (s.src.ring 1).kind ≠ .out) :
    s.seamAnswer d c = .ok ((s.failSplice c 1 false).writeX d 1) := by
  simp [State.seamAnswer, hat, hout]

theorem State.seamAnswer_of_failed (hat : s.atCommit c = true) (hreason : s.spliceReason c ≠ 0) (hout : (s.src.ring 1).kind = .out)
    (hsize : (s.src.ring 0).size ≤ (s.src.ring 1).size) :
    s.seamAnswer d c = .ok ((s.failSplice c (s.spliceReason c) true).writeX d (BitVec.ofNat 64 (s.spliceReason c))) := by
  simp [State.seamAnswer, hat, hreason, hout, Nat.not_lt.2 hsize]

theorem State.cur_commitSplice (s : State) (c : Control) : (s.commitSplice c).cur = s.cur := (s.recordsKept_commitSplice c).cur

/-- The end of a QSEAM that commits: the request is popped, its originator told, and d takes 0. -/
def State.seamDone (s : State) (c : Control) (d : XReg) : State := ((s.popRing s.cur 0 1).tellOrigin c 0).writeX d 0

theorem State.seamAnswer_of_commit (hat : s.atCommit c = true) (hreason : s.spliceReason c = 0) :
    s.seamAnswer d c = .ok ((s.commitSplice c).seamDone c d) := by
  simp [State.seamAnswer, hat, hreason, State.seamDone, State.cur_commitSplice]

/-- d takes the answer, and all else is as it was. -/
theorem State.writeX_spec (s : State) (d : XReg) (w : Word) : let t := s.writeX d w
    t.me.reg d.val = w ∧ t.mem = s.mem ∧ t.cur = s.cur ∧ t.flight = s.flight ∧ (∀ j, t.me.ring j = s.me.ring j) ∧
      t.me.sb = s.me.sb ∧ ∀ u, u ≠ s.cur → t.th u = s.th u := by
  have hme : (s.writeX d w).me = s.me.setReg d.val w := s.me_updMe _
  exact ⟨hme ▸ Thread.reg_setReg _ d w, rfl, rfl, rfl, fun _ => by rw [hme]; rfl, by rw [hme]; rfl, fun u hu => s.th_updMe_of_ne _ u hu⟩

theorem State.Told.writeX {stage result : Nat} (h : s.Told stage c result) (d : XReg) (w : Word) :
    (s.writeX d w).Told stage c result := h

theorem State.seamDone_spec (s : State) (c : Control) (d : XReg) : let t := s.seamDone c d
    t.me.reg d.val = 0 ∧ t.mem = s.mem ∧ t.Told s.cur c 0 ∧ (t.me.ring 0).filled = (s.me.ring 0).filled - 1 ∧
      t.me.ring 1 = s.me.ring 1 ∧ t.me.sb = s.me.sb ∧ ∀ u, u ≠ s.cur → t.th u = s.th u := by
  obtain ⟨hpmem, hpcur, -, -⟩ := s.popRing_frame s.cur 0 1
  obtain ⟨hreg, hmem, -, -, hring, hsb, hth⟩ := ((s.popRing s.cur 0 1).tellOrigin c 0).writeX_spec d 0
  have hme : ((s.popRing s.cur 0 1).tellOrigin c 0).me = (s.popped s.cur 0 1).th s.cur := by
    rw [← s.th_popRing, State.me]
    exact congrArg (s.popRing s.cur 0 1).th hpcur
  refine ⟨hreg, hmem.trans hpmem, ?_, ?_, ?_, ?_, fun u hu => ?_⟩
  · exact hpcur ▸ State.Told.writeX (State.told_of_tellOrigin rfl) d 0
  · rw [State.seamDone, hring, hme, State.popped, State.ring_updRing_self _ _ (by simp)]
    rfl
  · rw [State.seamDone, hring, hme, State.popped, State.ring_updRing, if_neg (by simp)]
    rfl
  · rw [State.seamDone, hsb, hme, State.popped, (State.ringsOnly_updRing _ _ _ _).sb]
    rfl
  · have hu' : u ≠ ((s.popRing s.cur 0 1).tellOrigin c 0).cur := fun h => hu (h.trans hpcur)
    rw [State.seamDone, hth u hu']
    exact (s.th_popRing s.cur 0 1 u).trans (s.th_updRing_of_ne _ hu)

/-! #### What the checks of R137 give -/

theorem State.out_of_reason_zero (h : s.spliceReason c = 0) : (s.src.ring 1).kind = .out := by
  by_contra hout
  simp [State.spliceReason, hout] at h

/-- The new stage of INSERT-AFTER and REBIND has no producer yet. -/
theorem State.fresh_of_reason_zero (h : s.spliceReason c = 0) (hop : c.op ≠ 1) :
    ((s.th c.newThr).ring 0).prods = [] ∧ ((s.th c.newThr).ring 0).cur = none := by
  have hprimed : ∃ r m, s.unprimed c r m = false := by
    by_contra hx
    have hunprimed (r : Ring) (m : Nat × Nat) : s.unprimed c r m = true := by simpa using fun hn => hx ⟨r, m, hn⟩
    simp only [State.spliceReason, hop, hunprimed, if_true, if_false] at h
    split_ifs at h
  obtain ⟨r, m, hx⟩ := hprimed
  simp only [State.unprimed, Bool.or_eq_false_iff] at hx
  obtain ⟨⟨⟨⟨⟨⟨⟨⟨-, hprods⟩, hcur⟩, -⟩, -⟩, -⟩, -⟩, -⟩, -⟩ := hx
  exact ⟨by simpa using hprods, by simpa using hcur⟩

/-- The present producer of the old consumer is no new stage's. -/
theorem State.consumer_of_mayPush (h : s.mayPush s.cur 1 = true) : (s.consumer (s.me.ring 1)).cur = some (s.cur, 1) := by
  simp only [State.mayPush, State.isCurrent, Bool.and_eq_true, decide_eq_true_eq] at h
  obtain ⟨⟨-, hcur⟩, -⟩ := h
  exact hcur

theorem State.old_consumer_ne_new (h : s.spliceReason c = 0) (hop : c.op ≠ 1) (hpush : s.mayPush s.cur 1 = true) :
    ¬((s.me.ring 1).cons = c.newThr ∧ (s.me.ring 1).consQ = 0) := by
  rintro ⟨hx, h0⟩
  obtain ⟨-, hcur⟩ := State.fresh_of_reason_zero h hop
  have := State.consumer_of_mayPush hpush
  rw [State.consumer, hx, h0, hcur] at this
  cases this

end

end Sys2Proof.Machine

/-! ### SEAMs, drains, inheritance and MARKRET (07 R134, R135, R138 to R142) -/

namespace Sys2Proof.Machine

/-! #### QFWD (07 R135) -/

section
variable {s : State}

theorem execQfwd_of_ready {g : Fin 8} (hg : s.guarded g = true) (hstage : s.stageNo ≠ 0) (hin : (s.src.ring 0).kind = .inn)
    (hout : (s.src.ring 1).kind = .out) (hfilled : 0 < (s.src.ring 0).filled) (hsize : (s.src.ring 0).size ≤ (s.src.ring 1).size)
    (hmark : ((s.src.ring 0).slotBits (s.src.ring 0).head).mark = true → 32 ≤ (s.src.ring 1).size)
    (hstaged : (s.src.ring 1).staged = []) (hread : s.headRead 0 = .ok ()) (hheld : s.headHeld 0 = .ok ())
    (hpush : s.pushHeld 1 1 = .ok ()) (hended : s.pushEnded 1 = .ok ()) (htx : s.popCheck 0 1 = .ok ()) :
    exec (.qfwd g) s = past (s.forwardHead s.cur) := by
  rw [exec_qfwd, execQfwd]
  refine s.issueC_ok _ g _ hg ?_
  have hgo : allOf [s.headRead 0, s.headHeld 0, s.pushHeld 1 1] = .ok () := allOf_ok _ (by simp [hread, hheld, hpush])
  have hwide : (decide ((s.src.ring 1).size < (s.src.ring 0).size) ||
      (((s.src.ring 0).slotBits (s.src.ring 0).head).mark && decide ((s.src.ring 1).size < 32)) || !(s.src.ring 1).staged.isEmpty) =
        false := by
    simpa [hstaged, Nat.not_lt.2 hsize] using hmark
  simp only [hgo, hwide, hstage, hin, hout, Nat.ne_of_gt hfilled, hended, htx, ne_eq, not_true_eq_false, decide_false, ringIf_false,
    except_ok_bind, except_pure]

/-! #### QSEAM: what each answer leaves -/

variable {c : Control} {d : XReg}

/-- A request that passes on, or goes on as failed: `t` before d takes the answer. -/
theorem State.answered_on {t : State} {y : Staged} (w : Word) (hcur : t.cur = s.cur)
    (hfilled : ((t.th s.cur).ring 0).filled = (s.me.ring 0).filled - 1)
    (hsent : ∃ e, (t.th s.cur).sb = s.me.sb ++ [e] ∧
      e.kind = .push 1 (s.me.ring 1).cons (s.me.ring 1).consQ (s.me.ring 1).consBound y) : let u := t.writeX d w
    u.me.reg d.val = w ∧ u.mem = t.mem ∧ (u.me.ring 0).filled = (s.me.ring 0).filled - 1 ∧
      ∃ e, u.me.sb = s.me.sb ++ [e] ∧
        e.kind = .push 1 (s.me.ring 1).cons (s.me.ring 1).consQ (s.me.ring 1).consBound y := by
  obtain ⟨hreg, hmem, -, -, hring, hsb, -⟩ := t.writeX_spec d w
  rw [← hcur] at hfilled hsent
  exact ⟨hreg, hmem, by rw [hring]; exact hfilled, by rw [hsb]; exact hsent⟩

/-- The SEAM of a record, as it is pushed along the old path. -/
def Control.seam (c : Control) (me : Nat) : Staged := (c.as 1 0).slot me

theorem Control.kind_seam (c : Control) (me : Nat) : (Control.ofSlot (c.seam me)).kind = 1 := by
  rw [Control.kind, Control.seam, Control.w0_ofSlot_slot]
  exact c.kind_as (by simp) 0

/-- What every splice that commits leaves at the commit stage. -/
theorem State.committedStage_spec (s : State) (c : Control) (d : XReg) : let t := (s.commitSplice c).seamDone c d
    t.me.reg d.val = 0 ∧ t.mem = s.mem ∧ t.Told s.cur c 0 ∧ (t.me.ring 0).filled = (s.me.ring 0).filled - 1 ∧
      (∃ e, t.me.sb = s.me.sb ++ [e] ∧
        e.kind = .push 1 (s.me.ring 1).cons (s.me.ring 1).consQ (s.me.ring 1).consBound (c.seam s.cur)) ∧
      t.me.ring 1 = ((s.commitSplice c).th s.cur).ring 1 ∧ ∀ u, u ≠ s.cur → t.th u = (s.commitSplice c).th u := by
  have hcur := s.cur_commitSplice c
  have hkept := s.recordsKept_commitSplice c
  have hme : (s.commitSplice c).me = (s.commitSplice c).th s.cur := by rw [State.me, hcur]
  obtain ⟨hreg, hmem, htold, hfilled, hring, hsb, hth⟩ := (s.commitSplice c).seamDone_spec c d
  obtain ⟨e, hpushed, -, hkind⟩ := s.pushOut_spec (c.seam s.cur) (q := 1) (by simp)
  rw [hcur] at htold hth
  refine ⟨hreg, hmem.trans hkept.mem, htold, ?_, ⟨e, ?_, hkind⟩, hring.trans (by rw [hme]), hth⟩
  · rw [hfilled, hme, hkept.filled, State.seamed, State.ring_pushOut, if_neg (by simp)]
    rfl
  · rw [hsb, hme, hkept.sb]
    exact hpushed

end

/-! #### SEAM_TAKE (07 R139) -/

theorem execSeamTake_of_seam {s : State} {tid q : Nat} {m : Merge} (hkind : ((s.th tid).ring q).kind = .inn)
    (hmerge : ((s.th tid).ring q).merge = some m) (hseam : s.seamAtHead ((s.th tid).ring q) = true) (hslot : (s.th tid).slot ≠ .saved) :
    exec (.seamTake tid q) s = .next ((s.updRing tid q fun r =>
      { r with head := (r.head + 1) % r.cap, filled := r.filled - 1, merge := none }).makeCurrent tid q (m.newTid, m.newQ)) := by
  simp [execSeamTake, hkind, hmerge, hseam, hslot]

/-! #### DRAIN_THROUGH (07 R140) -/

theorem State.mem_foldl {α : Type} (f : State → α → State) (hf : ∀ u a, (f u a).mem = u.mem) (l : List α) (u : State) :
    (l.foldl f u).mem = u.mem :=
  foldl_keeps (R := fun s t : State => t.mem = s.mem) (fun _ => rfl) (fun _ _ _ h h' => h'.trans h) f hf l u

theorem State.mem_endGang (s : State) (t : Nat) : (s.endGang t).mem = s.mem := by
  unfold State.endGang
  split
  · rfl
  · exact State.mem_foldl _ (by intros; rfl) _ s

theorem State.evalGroup_frame (s : State) (pkg : Nat) (g : Option Nat) :
    (s.evalGroup pkg g).mem = s.mem ∧ (s.evalGroup pkg g).threads = s.threads := by
  unfold State.evalGroup
  split
  · exact ⟨rfl, rfl⟩
  · refine foldl_keeps (R := fun s t : State => t.mem = s.mem ∧ t.threads = s.threads) (fun _ => ⟨rfl, rfl⟩)
      (fun _ _ _ ⟨hm, ht⟩ ⟨hm', ht'⟩ => ⟨hm'.trans hm, ht'.trans ht⟩) _ (fun u b => ?_) _ s
    split <;> exact ⟨rfl, rfl⟩

/-- A thread that ends: memory stays, and it has ended. -/
theorem State.exitThread_spec (s : State) (t : Nat) : (s.exitThread t).mem = s.mem ∧ ((s.exitThread t).th t).exited = true := by
  unfold State.exitThread
  dsimp only
  generalize hu : (if (s.core (cidOf t)).inbox.any fun m => decide (m.dst = t) then _ else s) = u
  have hmem : u.mem = s.mem := by rw [← hu]; split <;> rfl
  obtain ⟨hm, hth⟩ := (u.updTh t Thread.exit).evalGroup_frame (pkgOf (cidOf t)) (u.th t).grp
  refine ⟨hm.trans hmem, ?_⟩
  rw [State.th, hth]
  exact congrArg Thread.exited (u.th_updTh t Thread.exit)

/-- A drain that has come to its SEAM: the stage forwards it and ends. -/
def State.drainedThrough (s : State) (tid : Nat) (d : Drain) : State :=
  ((((s.forwardHead tid).endGang tid).unbindAll tid).exitThread tid).updTh tid fun t =>
    { t with drain := if d.inh = 0 then none else some { d with ended := true } }

theorem State.drainedThrough_spec (s : State) (tid : Nat) (d : Drain) : let t := s.drainedThrough tid d
    (t.th tid).exited = true ∧ (t.th tid).drain = (if d.inh = 0 then none else some { d with ended := true }) ∧ t.mem = s.mem := by
  obtain ⟨hmem, hexited⟩ := (((s.forwardHead tid).endGang tid).unbindAll tid).exitThread_spec tid
  obtain ⟨hfwd, -⟩ := s.forwardHead_spec tid
  have hgang := (s.forwardHead tid).mem_endGang tid
  have hbind := (((s.forwardHead tid).endGang tid).ringsOnly_unbindAll tid).mem
  refine ⟨?_, ?_, ?_⟩
  · rw [State.drainedThrough, State.th_updTh, ← hexited]
  · rw [State.drainedThrough, State.th_updTh]
  · rw [State.drainedThrough, State.updTh_mem, hmem, hbind, hgang, hfwd]

theorem execDrainThrough_of_seam {s : State} {tid : Nat} {d : Drain} (hd : (s.th tid).drain = some d)
    (hissuing : (s.th tid).issuing = true) (hseam : s.drainAtHead (s.th tid) 0 = true)
    (hwait : ((s.th tid).wait.any fun w => decide (w.ring = some 0)) = true) (hout : ((s.th tid).ring 1).kind = .out)
    (hfree : 1 ≤ ((s.th tid).ring 1).free) (hpush : s.mayPush tid 1 = true) (hroom : (s.th tid).sb.length < 16) :
    exec (.drainThrough tid) s = .next (s.drainedThrough tid d) := by
  simp only [exec_drainThrough, execDrainThrough, hd, hissuing, hseam, hwait, hout, hfree, hpush, hroom, decide_true, Bool.and_self,
    if_true]
  rfl

/-! #### INHERITANCE_COPY (07 R142) -/

theorem State.mem_writePoison (s : State) (k : Nat) : (s.writePoison k).mem = s.mem := by
  unfold State.writePoison
  split
  · rfl
  · exact s.spoil_mem k

theorem State.mem_writePoisons (s : State) (k : Nat) (l : List Nat) :
    (l.foldl (fun u i => u.writePoison (k + 8 * i)) s).mem = s.mem :=
  State.mem_foldl _ (fun _ _ => State.mem_writePoison _ _) _ _

theorem State.mem_setFulls (s : State) (k : Nat) (l : List (Bool × Nat)) :
    (l.foldl (fun u p => u.setFull (k + 8 * p.2) p.1) s).mem = s.mem :=
  State.mem_foldl _ (fun _ _ => State.setFull_mem _ _ _) _ _

section
variable {s : State} {tid base n : Nat}

theorem State.landState_of_inherit (h : (s.th tid).inherit = some (base, n)) (x : Arriving) : s.landState tid x =
    x.bad.foldl (fun u i => u.writePoison (keyLocal (cidOf tid) base + 8 * i))
      (x.full.zipIdx.foldl (fun u p => u.setFull (keyLocal (cidOf tid) base + 8 * p.2) p.1)
        (s.storeAt (keyLocal (cidOf tid) base) x.data)) := by
  simp only [State.landState, h]

theorem State.mem_landState (h : (s.th tid).inherit = some (base, n)) (x : Arriving) :
    (s.landState tid x).mem = (s.storeAt (keyLocal (cidOf tid) base) x.data).mem := by
  rw [State.landState_of_inherit h]
  exact (State.mem_writePoisons ..).trans (State.mem_setFulls ..)

theorem State.length_stageState (h : (s.th tid).inherit = some (base, n)) : (s.stageState tid).data.length = n := by
  simp [State.stageState, h]

/-- The stage state of a thread without buffered stores is what its area holds. -/
theorem State.getD_stageState (h : (s.th tid).inherit = some (base, n)) {i : Nat} (hi : i < n) (hsb : (s.th tid).sb = [])
    (hshown : s.hidden (keyLocal (cidOf tid) base + i) = false) :
    (s.stageState tid).data.getD i 0 = readByte s.mem (keyLocal (cidOf tid) base + i) := by
  simp [State.stageState, h, hi, hsb, hshown, youngest]

/-- A new stage that has its inheritance. -/
def State.inherited (s : State) (tid : Nat) : State := s.updTh tid fun t => { t with inheriting := false, arriving := none }

theorem execInheritanceCopy_of_idle (h : (s.th tid).inheriting = false ∨ (s.th tid).slot = .saved) :
    exec (.inheritanceCopy tid) s = .next s := by
  rcases h with h | h <;> simp [execInheritanceCopy, h]

variable (hinh : (s.th tid).inheriting = true) (hslot : (s.th tid).slot ≠ .saved)
include hinh hslot

theorem execInheritanceCopy_of_none (hheir : s.heirOf tid = none) (hsb : (s.th tid).sb = []) (harr : (s.th tid).arriving = none) :
    exec (.inheritanceCopy tid) s = .next (s.inherited tid) := by
  simp [execInheritanceCopy, hinh, hslot, hheir, hsb, harr, State.inherited]

theorem execInheritanceCopy_of_taken {x : Arriving} (hheir : s.heirOf tid = none) (hsb : (s.th tid).sb = [])
    (harr : (s.th tid).arriving = some x) : exec (.inheritanceCopy tid) s = .next ((s.landState tid x).inherited tid) := by
  simp [execInheritanceCopy, hinh, hslot, hheir, hsb, harr, State.inherited]

variable {y : Nat} {d : Drain} (hheir : s.heirOf tid = some (y, d))
include hheir

theorem execInheritanceCopy_of_undrained (hd : s.drainedOut y d = false) : exec (.inheritanceCopy tid) s = .next s := by
  simp [execInheritanceCopy, hinh, hslot, hheir, hd]

theorem execInheritanceCopy_of_drained (hd : s.drainedOut y d = true) (hsb : (s.th tid).sb = []) (hmove : d.inh ≠ 2) :
    exec (.inheritanceCopy tid) s =
      .next (((s.updTh y fun t => { t with drain := none }).landState tid (s.stageState y)).inherited tid) := by
  simp [execInheritanceCopy, hinh, hslot, hheir, hd, hsb, hmove, State.inherited]

theorem execInheritanceCopy_of_move (hd : s.drainedOut y d = true) (hmove : d.inh = 2) :
    exec (.inheritanceCopy tid) s = .next (((s.updTh y fun t => { t with drain := none }).updTh tid fun t =>
      { t with inherit := (s.th y).inherit }).inherited tid) := by
  simp [execInheritanceCopy, hinh, hslot, hheir, hd, hmove, State.inherited]

end

/-! #### QINHERIT (07 R142) -/

section
variable {s : State} {b n : XReg} {g : Fin 8} (hg : s.guarded g = true) (hr : s.Ready [xplace b, xplace n] [])
include hg hr

theorem execQinherit_of_zero (h : (s.readX n).toNat = 0) :
    exec (.qinherit b n g) s = past (s.updMe fun t => { t with inherit := none }) := by
  rw [exec_qinherit, execQinherit]
  exact s.issueC_ok _ g _ hg (by simp only [s.need_of_ready _ _ hr, except_ok_bind, if_pos h, except_pure])

variable (hpos : 0 < (s.readX n).toNat)
include hpos

theorem execQinherit_of_outside
    (h : (s.readX n).toNat % 8 ≠ 0 ∨ 65536 < (s.readX n).toNat ∨ 0x30000 < (s.readX b).toNat + (s.readX n).toNat) :
    exec (.qinherit b n g) s = .next (s.halted (.trap 0x03 (s.readX b))) := by
  rw [exec_qinherit, execQinherit]
  refine s.issueC_error _ g _ hg ?_
  have hbad : (decide ((s.readX n).toNat % 8 ≠ 0) || decide (65536 < (s.readX n).toNat) ||
      decide (0x30000 < (s.readX b).toNat + (s.readX n).toNat)) = true := by simpa [or_assoc] using h
  simp only [s.need_of_ready _ _ hr, except_ok_bind, if_neg (Nat.ne_of_gt hpos), hbad, raiseIf_true, except_error_bind]

variable (hwords : (s.readX n).toNat % 8 = 0) (hmax : (s.readX n).toNat ≤ 65536)
  (hrange : (s.readX b).toNat + (s.readX n).toNat ≤ 0x30000)
include hwords hmax hrange

theorem execQinherit_of_inside (hal : (s.readX b).toNat % 8 = 0) : exec (.qinherit b n g) s =
    past (s.updMe fun t => { t with inherit := some ((s.readX b).toNat, (s.readX n).toNat) }) := by
  rw [exec_qinherit, execQinherit]
  exact s.issueC_ok _ g _ hg (by simp [s.need_of_ready _ _ hr, Nat.ne_of_gt hpos, hwords, hal, Nat.not_lt.2 hmax, Nat.not_lt.2 hrange])

theorem execQinherit_of_misaligned (hal : (s.readX b).toNat % 8 ≠ 0) :
    exec (.qinherit b n g) s = .next (s.halted (.trap 0x05 (s.readX b))) := by
  rw [exec_qinherit, execQinherit]
  exact s.issueC_error _ g _ hg (by simp [s.need_of_ready _ _ hr, Nat.ne_of_gt hpos, hwords, hal, Nat.not_lt.2 hmax, Nat.not_lt.2 hrange])

end

/-! #### MARKRET (07 R134) -/

theorem insert_insert_self {α : Type} (m : List (Nat × α)) (i : Nat) (x y : α) : insert (insert m i x) i y = insert m i y := by
  induction m with
  | nil => simp [insert]
  | cons p t ih =>
    obtain ⟨k, v⟩ := p
    rcases Nat.lt_trichotomy k i with hlt | rfl | hgt
    · simp [insert, hlt, ih]
    · simp [insert]
    · simp [insert, Nat.not_lt.2 hgt.le, Nat.ne_of_gt hgt]

/-- Two updates of the issuing thread are one. -/
theorem State.updMe_updMe (s : State) (f f' : Thread → Thread) : (s.updMe f).updMe f' = s.updMe fun t => f' (f t) := by
  rw [State.updMe, State.me_updMe]
  simp only [State.updMe, State.setMe, State.setTh, insert_insert_self]

section
variable {s : State} {g : Fin 8} (hg : s.guarded g = true)
include hg

theorem execMarkret_of_active (h : s.src.markActive = true) (hal : s.src.sys.markpc.toNat % 8 = 0) :
    exec (.markret g) s =
      .next (s.updMe fun t => { t with pc := s.src.sys.markpc, wait := none, markActive := false, fetch := [] }) := by
  rw [exec_markret, execMarkret]
  refine (s.issueJ_ok ((s.jump s.src.sys.markpc).updMe fun t => { t with markActive := false, fetch := [] }) g _ hg ?_).trans
    (congrArg _ (s.updMe_updMe _ _))
  simp [h, hal]

theorem execMarkret_of_inactive (h : s.src.markActive = false) : exec (.markret g) s = .next (s.halted (.trap 0x0A 0)) := by
  rw [exec_markret, execMarkret]
  exact s.issueJ_error _ g _ hg (by simp [h, ringIf])

end

end Sys2Proof.Machine

/-! ### Splices: the statement -/

namespace Sys2Proof.Machine

/-- SPLICE in any of its forms, once its push can be made. -/
theorem State.splice_pushes {s : State} {i : Instr} {f : State → R} {q : Fin 8} {op inh : Nat} {snum : BitVec 16} {target : BitVec 12}
    {newStage w1 : Nat} {newThr : Word} (hop : op < 4) (hinh : inh < 4) (hnew : newStage < 2 ^ 12) (hw1 : Fld newThr 24 0 = w1)
    (hexec : exec i s = s.issue f)
    (hsplice : f s = .ok (s.pushOut s.cur q.val [(s.request op inh snum.toNat target.toNat newStage newThr).slot s.cur])) :
    ∃ t e, exec i s = past t ∧ t.me.sb = s.me.sb ++ [e] ∧ (t.me.ring q.val).free = (s.me.ring q.val).free - 1 ∧
      ∃ x, e.kind = .push q.val (s.me.ring q.val).cons (s.me.ring q.val).consQ (s.me.ring q.val).consBound x ∧ x.bits.mark = true ∧
        x.bits.typed = false ∧ x.bits.tx = s.src.tx ∧
        x.data = op * 2 ^ 58 + inh * 2 ^ 56 + target.toNat * 2 ^ 36 + newStage * 2 ^ 24 + snum.toNat + w1 * 2 ^ 64 +
          s.cur * 2 ^ 128 := by
  subst hw1
  obtain ⟨e, hsb, hfree, hkind⟩ :=
    s.pushOut_spec ((s.request op inh snum.toNat target.toNat newStage newThr).slot s.cur) q.isLt
  exact ⟨_, e, hexec.trans (s.issue_ok _ _ hsplice), hsb, hfree, _, hkind, rfl, rfl, rfl,
    State.request_slot_data hop hinh snum.isLt target.isLt hnew⟩

/-- Settles O32: each instruction and event ends as one equation says (`splice_of_pushable`, `seamAnswer`, `forwardHead`, …), and what a
commit does to the channels comes from one lemma for each OP. In REBIND the outgoing stage's channel keeps losing its producer even where
the record names that stage as the new one: a new stage's q0 has no current producer, and the old channel's is the commit stage. -/
theorem splices : Obligations.Splices := by
  unfold Obligations.Splices
  refine ⟨?splice, ?qseam, ?qfwd, ?seamTake, ?drain, ?inheritance, ?qinherit, ?markret⟩
  case splice =>
    intro s q inh snum target newstage nt hr hthr r hbind hout hsize hstaged hacq halive hfree hturn hroom m pushed w
    have hpush : s.Pushable q.val := ⟨halive, hfree, hturn, hroom⟩
    have hnone : s.Ready [] [] := hr.mono (List.nil_subset _) (List.Subset.refl _)
    have hzero (hi lo : Nat) : Fld 0 hi lo = 0 := by simp [Fld, bits]
    exact ⟨State.splice_pushes (by simp) inh.isLt newstage.isLt rfl (exec_spliceInsert ..)
        (State.splice_of_pushable hr hthr hbind hout hsize hstaged hacq hpush),
      State.splice_pushes (by simp) inh.isLt newstage.isLt rfl (exec_spliceRebind ..)
        (State.splice_of_pushable hr hthr hbind hout hsize hstaged hacq hpush),
      State.splice_pushes (inh := 0) (newStage := 0) (newThr := 0) (by simp) (by simp) (by simp) (hzero 24 0) (exec_spliceRemove ..)
        (State.splice_of_pushable hnone (hzero 63 25) hbind hout hsize hstaged hacq hpush)⟩
  case qseam =>
    intro s d g hg hr a b m c hstage hin hinh hfilled hseam hdrain hopen hread hstore hbind hmark hkind hpush commitHere told rewritten
      sent failed
    have hacq : s.acquiring s.cur = false := hopen.1
    have hpushable (hout : b.kind = .out) : s.Pushable 1 := by
      obtain ⟨halive, hfree, hturn, hroom, -⟩ := hpush hout
      exact ⟨halive, hfree, hturn, hroom⟩
    have hwide (hout : b.kind = .out) : 32 ≤ b.size ∧ b.staged = [] := by
      obtain ⟨-, -, -, -, hwide⟩ := hpush hout
      exact hwide
    have hready : s.SeamReady d :=
      { operands := s.waits_of_ready _ _ hr
        stage := hstage
        bound := hin
        filled := hfilled
        read := State.headRead_of_open hopen hread hstore
        held := State.headHeld_of_settled hinh hseam hdrain
        push := State.pushHeld_of_pushable hbind hacq hpushable
        ended := fun hout => State.pushEnded_of_pushable (hpushable hout)
        mark := hmark
        request := hkind
        wide := hwide }
    have hat : commitHere ↔ s.atCommit c = true := by
      simp only [commitHere, State.atCommit]
      split <;> simp [b]
    refine ⟨fun hno hout hsize => ?on, fun hno hout => ?noStage, fun hyes hreason hout hsize => ?fails, fun hyes hreason hq => ?commits⟩
    case on =>
      have hno : s.atCommit c = false := by rwa [hat, Bool.not_eq_true] at hno
      obtain ⟨hmem, hcur, -, hfilled', hsent⟩ := s.forwardHead_spec s.cur
      obtain ⟨hreg, hmem', hrest⟩ := State.answered_on (d := d) 0xFF hcur hfilled' hsent
      exact ⟨_, execQseam_of_ready hg hready (State.seamAnswer_of_elsewhere hno hout hsize), hreg, hmem'.trans hmem, hrest⟩
    case noStage =>
      have hno : s.atCommit c = false := by rwa [hat, Bool.not_eq_true] at hno
      obtain ⟨hreg, hmem, -, -, hring, hsb, -⟩ := (s.failSplice c 1 false).writeX_spec d 1
      exact ⟨_, ⟨execQseam_of_ready hg hready (State.seamAnswer_of_no_stage hno hout), hreg, hmem,
        State.Told.writeX (State.told_of_tellOrigin rfl) d 1⟩, congrArg Ring.filled (hring 0), hsb⟩
    case fails =>
      obtain ⟨hmem, hcur, htold, hfilled', hsent⟩ := s.failSplice_on_spec c (s.spliceReason c)
      obtain ⟨hreg, hmem', hrest⟩ := State.answered_on (d := d) (BitVec.ofNat 64 (s.spliceReason c)) hcur hfilled' hsent
      exact ⟨_, ⟨execQseam_of_ready hg hready (State.seamAnswer_of_failed (hat.1 hyes) hreason hout hsize), hreg, hmem'.trans hmem,
        htold.writeX d _⟩, hrest⟩
    case commits =>
      intro y yq x
      have hturn : s.mayPush s.cur 1 = true := (hpushable (State.out_of_reason_zero hreason)).turn
      obtain ⟨hreg, hmem, htold, hfilled', hsent, hq1, hth⟩ := s.committedStage_spec c d
      refine ⟨(s.commitSplice c).seamDone c d, c.seam s.cur,
        execQseam_of_ready hg hready (State.seamAnswer_of_commit (hat.1 hyes) hreason), hreg, hmem, htold, hsent, rfl,
        c.kind_seam s.cur, hfilled', fun hop hx hy hxy => ?insert, fun hop hy hyq hyqme hyqQ => ?drains⟩
      case insert =>
        obtain ⟨hfresh, -⟩ := State.fresh_of_reason_zero hreason (by omega)
        rw [hq1, hth x hx, hth y hy]
        exact State.commitSplice_insert_spec hop hq hx hy hxy hfresh
      case drains =>
        rw [hq1, hth y hy, hth yq.cons hyqme]
        by_cases h1 : c.op = 1
        · obtain ⟨hprods, hdrained, hrest⟩ := State.commitSplice_remove_spec hq hy hyq hyqme hyqQ h1
          exact ⟨hprods, hdrained, fun _ => hrest, fun h2 => by omega⟩
        · obtain ⟨hprods, hdrained, hcons, hconsQ, hcur, hmerge, hheir⟩ := State.commitSplice_rebind_spec hq hy hyq hyqme hyqQ
            (by omega) h1 (State.old_consumer_ne_new hreason h1 hturn)
          refine ⟨hprods, hdrained, fun h => absurd h h1, fun _ hx _ hxyq => ?_⟩
          rw [hth x hx]
          exact ⟨hcons, hconsQ, hcur, hmerge hxyq, hheir⟩
  case qfwd =>
    intro s g hg a b hstage hin hout hinh hfilled hseam hdrain hsize hmark hstaged hopen hread hstore hbind halive hfree hturn hroom
      htx m
    have hpush : s.Pushable 1 := ⟨halive, hfree, hturn, hroom⟩
    have hacq : s.acquiring s.cur = false := hopen.1
    obtain ⟨hmem, hcur, -, hfilled', e, hsb, hkind⟩ := s.forwardHead_spec s.cur
    have hme : (s.forwardHead s.cur).me = (s.forwardHead s.cur).th s.cur := by rw [State.me, hcur]
    exact ⟨_, e, execQfwd_of_ready hg hstage hin hout hfilled hsize hmark hstaged (State.headRead_of_open hopen hread hstore)
      (State.headHeld_of_settled hinh hseam hdrain) (State.pushHeld_of_pushable hbind hacq fun _ => hpush)
      (State.pushEnded_of_pushable hpush) (State.popCheck_one htx), hme ▸ hfilled', hme ▸ hsb, hkind, hmem⟩
  case seamTake =>
    intro s tid q m hq hkind hmerge hseam hslot
    let taken := s.updRing tid q fun r => { r with head := (r.head + 1) % r.cap, filled := r.filled - 1, merge := none }
    have hring : (taken.th tid).ring q = _ := s.ring_updRing_self _ hq
    have hterms := taken.termsOnly_makeCurrent tid q (m.newTid, m.newQ)
    refine ⟨_, execSeamTake_of_seam hkind hmerge hseam hslot, ?_, ?_, hterms.rings.mem, fun hbound _ => ?_⟩
    · exact (hterms.merge tid q).trans (congrArg Ring.merge hring)
    · exact (hterms.filled tid q).trans (congrArg Ring.filled hring)
    · exact taken.cur_makeCurrent tid _ hq (by rw [hring]; exact hbound)
  case drain =>
    intro s tid d hd hissuing hseam hwait hout hfree hpush hroom
    exact ⟨_, execDrainThrough_of_seam hd hissuing hseam hwait hout hfree hpush hroom, s.drainedThrough_spec tid d⟩
  case inheritance =>
    intro s tid t copied
    refine ⟨execInheritanceCopy_of_idle, fun hinh hslot y d hheir => ⟨?_, ?_, ?_⟩, fun hinh hslot hheir hsb =>
      ⟨execInheritanceCopy_of_none hinh hslot hheir hsb, fun _ => execInheritanceCopy_of_taken hinh hslot hheir hsb⟩, ?_⟩
    · exact execInheritanceCopy_of_undrained hinh hslot hheir
    · exact execInheritanceCopy_of_drained hinh hslot hheir
    · exact fun hd hmove => ⟨_, execInheritanceCopy_of_move hinh hslot hheir hd hmove, rfl, by simp [State.inherited],
        by simp [State.inherited]⟩
    · exact fun base n h => ⟨State.mem_landState h, State.length_stageState h, fun i hi hsb hshown =>
        State.getD_stageState h hi hsb hshown⟩
  case qinherit =>
    intro s b n g hg hr base len
    exact ⟨execQinherit_of_zero hg hr,
      fun hpos hwords hmax hrange hal => execQinherit_of_inside hg hr hpos hwords hmax hrange hal,
      fun hpos h => execQinherit_of_outside hg hr hpos h,
      fun hpos hwords hmax hrange hal => execQinherit_of_misaligned hg hr hpos hwords hmax hrange hal⟩
  case markret =>
    exact fun s g hg => ⟨execMarkret_of_active hg, execMarkret_of_inactive hg⟩

end Sys2Proof.Machine
